-- ==== Sys2Proof/Word.lean ====
section
/-! DEFINITION. The word and byte types of the DX-64 model and its unit of time. -/

namespace Sys2Proof

/-- One byte, the smallest addressable unit of DX-64 memory. -/
abbrev Byte := BitVec 8

/-- A register: 32 bits, little-endian, 4-byte aligned (R6). -/
abbrev Word := BitVec 32

/-- A moment or a span of crystal time, in units of 0.125 ns. The unit is that of local time (R397) and of
trace time (R460), so 1 µs is 8,000 and 1 ms is 8,000,000. -/
abbrev Time := Nat

/-- A finite map with `Nat` keys as plain data: pairs in strictly rising key order. -/
abbrev AMap (α : Type) := List (Nat × α)

end Sys2Proof
end

