-- ==== Sys2Proof/Machine/Bits.lean ====
section
/-! DEFINITION. Bit fields, little-endian bytes, and finite maps: the helpers every block of the model uses. -/

namespace Sys2Proof

/-- Bits [hi:lo] of a natural number. -/
def Bits.fld (v hi lo : Nat) : Nat := v / 2 ^ lo % 2 ^ (hi + 1 - lo)

/-- Bit `i` of a natural number. -/
def Bits.bit (v i : Nat) : Bool := v / 2 ^ i % 2 == 1

/-- `v` with bits [hi:lo] replaced by the low bits of `x`. -/
def Bits.put (v hi lo x : Nat) : Nat :=
  v - Bits.fld v hi lo * 2 ^ lo + x % 2 ^ (hi + 1 - lo) * 2 ^ lo

/-- The number of a Boolean: 1 when true. -/
def Bits.ofBool (b : Bool) : Nat := if b then 1 else 0

/-- `n` bytes of `v`, least significant first (R6: little-endian). -/
def Bits.leBytes : Nat → Nat → List Byte
  | 0, _ => []
  | n + 1, v => BitVec.ofNat 8 (v % 256) :: Bits.leBytes n (v / 256)

/-- The number that bytes spell, least significant first. -/
def Bits.ofLe : List Byte → Nat
  | [] => 0
  | b :: bs => b.toNat + 256 * Bits.ofLe bs

/-- The field of `n` bytes at offset `o` of some bytes, least significant first. -/
def Bits.leAt (bs : List Byte) (o n : Nat) : Nat := Bits.ofLe ((bs.drop o).take n)

/-- A signed number in two's complement of `w` bits, as a natural number. -/
def Bits.ofInt (w : Nat) (i : Int) : Nat := (i % (2 ^ w : Int)).toNat

/-- The signed value of the low `w` bits of `v`. -/
def Bits.toInt (w v : Nat) : Int :=
  let u := v % 2 ^ w
  if u < 2 ^ (w - 1) then (u : Int) else (u : Int) - (2 ^ w : Int)

/-- How many of the low `w` bits of `v` are 1. -/
def Bits.ones : Nat → Nat → Nat
  | 0, _ => 0
  | w + 1, v => v % 2 + Bits.ones w (v / 2)

/-- The lowest `i` below `n` with `p i`. -/
def Bits.findBelow (n : Nat) (p : Nat → Bool) : Option Nat := (List.range n).find? p

/-- The largest `k` with `2 ^ k ≤ v` (0 for 0). -/
def Bits.log2 (v : Nat) : Nat := Nat.log2 v

/-- Ceiling division. -/
def Bits.ceilDiv (a b : Nat) : Nat := (a + b - 1) / b

/-- The value at a key. -/
def AMap.get? {α : Type} (m : AMap α) (k : Nat) : Option α := List.lookup k m

/-- The value at a key, or `d`. -/
def AMap.getD {α : Type} (m : AMap α) (k : Nat) (d : α) : α := (AMap.get? m k).getD d

/-- The map with `v` at `k`: strictly rising keys stay strictly rising. -/
def AMap.set {α : Type} : AMap α → Nat → α → AMap α
  | [], k, v => [(k, v)]
  | (k', v') :: m, k, v =>
    if k < k' then (k, v) :: (k', v') :: m
    else if k = k' then (k, v) :: m
    else (k', v') :: AMap.set m k v

/-- The map without `k`. -/
def AMap.erase {α : Type} (m : AMap α) (k : Nat) : AMap α := m.filter fun e => e.1 != k

/-- The map with the value at `k`, if any, replaced by `f` of it. -/
def AMap.adjust {α : Type} (m : AMap α) (k : Nat) (f : α → α) : AMap α :=
  m.map fun e => if e.1 = k then (e.1, f e.2) else e

/-- The least key from `lo` up to, but not including, `hi` that the map does not hold. -/
def AMap.freeKey {α : Type} (m : AMap α) (lo hi : Nat) : Option Nat :=
  (m.foldl (fun k e => if e.1 = k then k + 1 else k) lo) |> fun k => if k < hi then some k else none

/-- The keys of a map. -/
def AMap.keys {α : Type} (m : AMap α) : List Nat := m.map Prod.fst

/-- The values of a map. -/
def AMap.vals {α : Type} (m : AMap α) : List α := m.map Prod.snd

/-- The keys of a map rise strictly. -/
def AMap.rising {α : Type} (m : AMap α) : Prop := m.Pairwise fun a b => a.1 < b.1

/-- `i`-th element removed. -/
def Bits.removeAt {α : Type} (l : List α) (i : Nat) : List α := l.take i ++ l.drop (i + 1)

/-- Sum of a list of numbers. -/
def Bits.sum (l : List Nat) : Nat := l.foldl (· + ·) 0

end Sys2Proof
end

