-- ==== Sys2Proof/Machine/Sha.lean ====
section
/-! DEFINITION. SHA-384 (FIPS 180-4), HMAC and HKDF-Expand over it: the functions by which R274 derives traffic keys and the
measurement registers of chapter 13 are extended. -/

namespace Sys2Proof

/-- The first `n` primes. -/
def Sha.primes (n : Nat) : List Nat :=
  ((List.range 420).filter fun p => 2 ≤ p && (List.range 21).all fun d => d < 2 || p ≤ d || p % d != 0).take n

/-- The integer part of the root of degree `e` of `v`, found bit by bit from bit `i` down, from `r` on. -/
def Sha.root (e v : Nat) : Nat → Nat → Nat
  | 0, r => r
  | i + 1, r => Sha.root e v i (if (r + 2 ^ i) ^ e ≤ v then r + 2 ^ i else r)

/-- The first 64 bits of the fractional part of the root of degree `e` of a prime: the root of p · 2^(64 e) without its integer part. -/
def Sha.fraction (e p : Nat) : BitVec 64 := BitVec.ofNat 64 (Sha.root e (p * 2 ^ (64 * e)) 70 0)

/-- Round constants: from the cube roots of the first eighty primes. -/
def Sha.k : List (BitVec 64) := (Sha.primes 80).map (Sha.fraction 3)

/-- Initial hash value of SHA-384: from the square roots of the ninth to the sixteenth prime. -/
def Sha.h0 : List (BitVec 64) := ((Sha.primes 16).drop 8).map (Sha.fraction 2)

/-- The exclusive or of a word rotated right by some amounts. -/
def Sha.spin (rs : List Nat) (x : BitVec 64) : BitVec 64 := rs.foldl (fun v r => v ^^^ x.rotateRight r) 0

/-- One new word of the message schedule from the last sixteen, newest first. -/
def Sha.word (w : List (BitVec 64)) : BitVec 64 :=
  let x := w.getD 14 0
  let y := w.getD 1 0
  (Sha.spin [19, 61] y ^^^ y >>> 6) + w.getD 6 0 + (Sha.spin [1, 8] x ^^^ x >>> 7) + w.getD 15 0

/-- The message schedule of a block, newest word first, `n` words beyond the sixteen of the block. -/
def Sha.schedule : Nat → List (BitVec 64) → List (BitVec 64)
  | 0, w => w
  | n + 1, w => Sha.schedule n (Sha.word w :: w)

/-- The eight working variables, numbered from 0, after one round: the old ones move up by one, and numbers 0 and 4 take the new sum. -/
def Sha.round (s : List (BitVec 64)) (kw : BitVec 64) : List (BitVec 64) :=
  let v (i : Nat) : BitVec 64 := s.getD i 0
  let pick := (v 4 &&& (v 5 ^^^ v 6)) ^^^ v 6
  let most := (v 0 &&& (v 1 ||| v 2)) ||| (v 1 &&& v 2)
  let sum := v 7 + Sha.spin [14, 18, 41] (v 4) + pick + kw
  (sum + Sha.spin [28, 34, 39] (v 0) + most) :: ((s.take 3) ++ [v 3 + sum] ++ (s.drop 4).take 3)

/-- A number from bytes, most significant first. -/
def Bits.ofBe (bs : List Byte) : Nat := bs.foldl (fun n b => 256 * n + b.toNat) 0

/-- `n` bytes of `v`, most significant first. -/
def Bits.beBytes (n v : Nat) : List Byte := (Bits.leBytes n v).reverse

/-- `n` pieces of `w` elements each. -/
def Bits.pieces {α : Type} (w : Nat) : Nat → List α → List (List α)
  | 0, _ => []
  | n + 1, l => l.take w :: Bits.pieces w n (l.drop w)

/-- One 128-byte block joins a hash value. -/
def Sha.block (h : List (BitVec 64)) (blk : List Byte) : List (BitVec 64) :=
  let w := ((Bits.pieces 8 16 blk).map fun p => BitVec.ofNat 64 (Bits.ofBe p)).reverse
  let ws := (Sha.schedule 64 w).reverse
  let s := (List.zip Sha.k ws).foldl (fun s e => Sha.round s (e.1 + e.2)) h
  List.zipWith (· + ·) h s

/-- The message with its padding. -/
def Sha.pad (m : List Byte) : List Byte :=
  let z := (239 - m.length % 128) % 128
  m ++ [0x80#8] ++ List.replicate z 0#8 ++ Bits.beBytes 16 (8 * m.length)

/-- SHA-384 of bytes. -/
def Sha.sha384 (m : List Byte) : List Byte :=
  let p := Sha.pad m
  let h := (Bits.pieces 128 (p.length / 128) p).foldl Sha.block Sha.h0
  (h.take 6).flatMap fun x => Bits.beBytes 8 x.toNat

/-- HMAC with SHA-384. -/
def Sha.hmac (key m : List Byte) : List Byte :=
  let k := if 128 < key.length then Sha.sha384 key else key
  let k := k ++ List.replicate (128 - k.length) 0#8
  Sha.sha384 (k.map (· ^^^ 0x5C#8) ++ Sha.sha384 (k.map (· ^^^ 0x36#8) ++ m))

/-- The blocks T(i) of HKDF-Expand from number `i` on, after the block `t`. -/
def Sha.expandFrom (prk info : List Byte) : Nat → Nat → List Byte → List Byte
  | 0, _, _ => []
  | n + 1, i, t =>
    let t := Sha.hmac prk (t ++ info ++ [BitVec.ofNat 8 i])
    t ++ Sha.expandFrom prk info n (i + 1) t

/-- HKDF-Expand with SHA-384, as bytes. -/
def Sha.expand (prk info : List Byte) (len : Nat) : List Byte := (Sha.expandFrom prk info (Bits.ceilDiv len 48) 1 []).take len

/-- The bytes of an ASCII string. -/
def Bits.ascii (s : String) : List Byte := s.toList.map fun c => BitVec.ofNat 8 c.toNat

end Sys2Proof
end

