-- ==== Sys2Proof/Machine/Aes.lean ====
section
/-! DEFINITION. AES-256-GCM (FIPS 197, NIST SP 800-38D), by which the CC seals and opens records and control slots. -/

namespace Sys2Proof

/-- Multiplication by x in the field of AES. -/
def Aes.xtime (a : Byte) : Byte := if a.getLsbD 7 then (a <<< 1) ^^^ 0x1B#8 else a <<< 1

/-- Multiplication in the field of AES. -/
def Aes.mul (a b : Byte) : Byte :=
  ((List.range 8).foldl (fun (s : Byte × Byte) i => (if b.getLsbD i then s.1 ^^^ s.2 else s.1, Aes.xtime s.2)) (0#8, a)).1

/-- `a` to the power 2^n. -/
def Aes.sq : Nat → Byte → Byte
  | 0, a => a
  | n + 1, a => Aes.sq n (Aes.mul a a)

/-- The inverse in the field: the power 254. -/
def Aes.inv (a : Byte) : Byte := (List.range 7).foldl (fun p i => Aes.mul p (Aes.sq (i + 1) a)) 1#8

/-- The substitution of one byte, computed. -/
def Aes.sub (a : Byte) : Byte :=
  let v := Aes.inv a
  v ^^^ v.rotateLeft 1 ^^^ v.rotateLeft 2 ^^^ v.rotateLeft 3 ^^^ v.rotateLeft 4 ^^^ 0x63#8

/-- The substitution table. -/
def Aes.table : Array Byte := ((List.range 256).map fun i => Aes.sub (BitVec.ofNat 8 i)).toArray

/-- The substitution of one byte. -/
def Aes.sbox (a : Byte) : Byte := Aes.table[a.toNat]?.getD 0#8

/-- The words of the key schedule, newest first, from the word of number `i` on. -/
def Aes.keyWords : Nat → Nat → Byte → List (List Byte) → List (List Byte)
  | 0, _, _, w => w
  | n + 1, i, rc, w =>
    let t := w.getD 0 []
    let t' := if i % 8 = 0 then
        match (t.drop 1 ++ t.take 1).map Aes.sbox with
        | x :: xs => (x ^^^ rc) :: xs
        | [] => []
      else if i % 8 = 4 then t.map Aes.sbox else t
    let rc' := if i % 8 = 0 then Aes.xtime rc else rc
    Aes.keyWords n (i + 1) rc' (List.zipWith (· ^^^ ·) (w.getD 7 []) t' :: w)

/-- The fifteen round keys of a 32-byte key. -/
def Aes.roundKeys (key : List Byte) : List (List Byte) :=
  Bits.pieces 16 15 ((Aes.keyWords 52 8 1#8 (Bits.pieces 4 8 key).reverse).reverse.flatten)

/-- The rows of a state rotated. -/
def Aes.shift (s : List Byte) : List Byte := (List.range 16).map fun i => s.getD ((i + 4 * (i % 4)) % 16) 0#8

/-- One column mixed. -/
def Aes.mixCol (c : List Byte) : List Byte :=
  (List.range 4).map fun i =>
    Aes.xtime (c.getD i 0) ^^^ Aes.xtime (c.getD ((i + 1) % 4) 0) ^^^ c.getD ((i + 1) % 4) 0 ^^^ c.getD ((i + 2) % 4) 0 ^^^ c.getD ((i + 3) % 4) 0

/-- The rounds of the cipher on a state. -/
def Aes.rounds : List (List Byte) → List Byte → List Byte
  | [], s => s
  | [k], s => List.zipWith (· ^^^ ·) (Aes.shift (s.map Aes.sbox)) k
  | k :: ks, s => Aes.rounds ks (List.zipWith (· ^^^ ·) ((Bits.pieces 4 4 (Aes.shift (s.map Aes.sbox))).flatMap Aes.mixCol) k)

/-- One block enciphered under round keys. -/
def Aes.block (ks : List (List Byte)) (b : List Byte) : List Byte :=
  match ks with
  | [] => b
  | k :: ks => Aes.rounds ks (List.zipWith (· ^^^ ·) b k)

/-- Multiplication in the field of GCM, the leftmost bit first; `n` bits of `x` are left. -/
def Gcm.mulFrom : Nat → BitVec 128 → BitVec 128 → BitVec 128 → BitVec 128
  | 0, _, _, z => z
  | n + 1, x, v, z =>
    Gcm.mulFrom n x (if v.getLsbD 0 then (v >>> 1) ^^^ (0xE1#128 <<< 120) else v >>> 1) (if x.getLsbD n then z ^^^ v else z)

/-- The product of two blocks. -/
def Gcm.mul (x y : BitVec 128) : BitVec 128 := Gcm.mulFrom 128 x y 0

/-- Bytes padded with zeros to whole blocks. -/
def Gcm.pad (bs : List Byte) : List Byte := bs ++ List.replicate ((16 - bs.length % 16) % 16) 0#8

/-- GHASH of whole blocks under a hash key. -/
def Gcm.ghash (h : BitVec 128) (bs : List Byte) : BitVec 128 :=
  (Bits.pieces 16 (bs.length / 16) bs).foldl (fun y p => Gcm.mul (y ^^^ BitVec.ofNat 128 (Bits.ofBe p)) h) 0

/-- A plaintext enciphered, or a ciphertext deciphered, with counter blocks from `i` on. -/
def Gcm.ctr (ks : List (List Byte)) (iv : List Byte) : Nat → List (List Byte) → List Byte
  | _, [] => []
  | i, p :: ps => List.zipWith (· ^^^ ·) p (Aes.block ks (iv ++ Bits.beBytes 4 i)) ++ Gcm.ctr ks iv (i + 1) ps

/-- AES-256-GCM: the ciphertext and tag of a plaintext under a 32-byte key, a 12-byte initialisation vector and additional
authenticated data. -/
def Gcm.seal (key iv aad pt : List Byte) : List Byte × BitVec 128 :=
  let ks := Aes.roundKeys key
  let h := BitVec.ofNat 128 (Bits.ofBe (Aes.block ks (List.replicate 16 0#8)))
  let ct := Gcm.ctr ks iv 2 (Bits.pieces 16 (Bits.ceilDiv pt.length 16) pt)
  let s := Gcm.ghash h (Gcm.pad aad ++ Gcm.pad ct ++ Bits.beBytes 8 (8 * aad.length) ++ Bits.beBytes 8 (8 * ct.length))
  (ct, s ^^^ BitVec.ofNat 128 (Bits.ofBe (Aes.block ks (iv ++ Bits.beBytes 4 1))))

/-- AES-256-GCM: the plaintext of a ciphertext whose tag verifies. -/
def Gcm.unseal (key iv aad ct : List Byte) (tag : BitVec 128) : Option (List Byte) :=
  let pt := (Gcm.seal key iv aad ct).1
  if (Gcm.seal key iv aad pt).2 = tag then some pt else none

end Sys2Proof
end

