-- ==== Sys2Proof/Wire.lean ====
section
/-! DEFINITION. What crosses the boundary of the DX-64 as plain data: command requests, Ramgar packets, far, collective and
fence messages, records, segments, transport control, member frames, PTP messages and key agreement messages. Only
types stand here; what the block does with them stands under Machine/. -/

namespace Sys2Proof

/-- A command packet as the CI has fetched it (Table 2-4), with the ring and the ring position it came from. The opcode is
not part of it: each opcode is a constructor of `Instr`. -/
structure Req where
  ring    : Nat
  index   : Nat
  flags   : BitVec 16
  cookie  : BitVec 32
  job     : BitVec 16
  version : BitVec 8
  /-- bytes 11 to 15 -/
  rsvd    : BitVec 40
  /-- bytes 16 to 63, little-endian: byte 16 is bits 7..0 -/
  params  : BitVec 384
deriving DecidableEq, Repr

/-- A Ramgar packet (Table 3-1), its reserved bits and both checks included. -/
structure FabPkt where
  opcode   : BitVec 8
  dstRank  : BitVec 24
  cls      : BitVec 3
  ver      : BitVec 2
  /-- word at byte 4, bits [26:24] -/
  rsvd1    : BitVec 3
  srcRank  : BitVec 24
  gen      : BitVec 8
  tag      : BitVec 24
  job      : BitVec 10
  maskIdx  : BitVec 12
  mcast    : Bool
  resp     : Bool
  poison   : Bool
  last     : Bool
  /-- word at byte 12, bits [5:0] -/
  rsvd3    : BitVec 6
  length   : BitVec 16
  dstFpa   : BitVec 16
  spraySeq : BitVec 32
  addr     : BitVec 48
  hchk     : BitVec 16
  payload  : List Byte
  pcheck   : BitVec 32
deriving DecidableEq, Repr

/-- A far operation message (Table 4-2) and its data. -/
structure FarMsg where
  fop       : BitVec 8
  flags     : BitVec 8
  win       : BitVec 16
  opid      : BitVec 32
  src       : BitVec 32
  streamSeq : BitVec 32
  offset    : BitVec 64
  length    : BitVec 32
  status    : BitVec 16
  impWin    : BitVec 16
  data      : List Byte
deriving DecidableEq, Repr

/-- A collective line message (Table 5-5) and its body. -/
structure CollMsg where
  ckind    : BitVec 8
  flags    : BitVec 8
  job      : BitVec 16
  collId   : BitVec 16
  origin   : BitVec 16
  tile     : BitVec 32
  elems    : BitVec 32
  wireFmt  : BitVec 8
  tileLog2 : BitVec 8
  op       : BitVec 8
  rsvd     : BitVec 8
  length   : BitVec 32
  aux      : BitVec 64
  body     : List Byte
deriving DecidableEq, Repr

/-- Where a collective message that is not tile data comes from: the line, as inbound message `sel`, or a fabric edge, from a rank
(log entry 18). -/
inductive EdgeMsg where
  | line (sel : Nat)
  | fabric (rank : Nat) (m : CollMsg)
deriving DecidableEq, Repr

/-- A fence notice (Table 18-2). -/
structure FenceMsg where
  hops   : BitVec 8
  job    : BitVec 16
  origin : BitVec 16
  serial : BitVec 32
  cause  : BitVec 16
  detail : BitVec 16
deriving DecidableEq, Repr

/-- The messages a record carries. -/
inductive Msg where
  | far   (m : FarMsg)
  | coll  (m : CollMsg)
  | fence (m : FenceMsg)
deriving DecidableEq, Repr

/-- A record as it lies in a segment (R276, Table 10-2): its header, its message headers of 32 bytes, its ciphertext and its GCM
tag. -/
structure Rec where
  version  : BitVec 8
  flags    : BitVec 8
  cls      : BitVec 8
  nmsg     : BitVec 8
  ptLen    : BitVec 32
  rctr     : BitVec 64
  keyEpoch : BitVec 16
  job      : BitVec 16
  sender   : BitVec 16
  receiver : BitVec 16
  rsvd     : BitVec 64
  heads    : List (List Byte)
  ct       : List Byte
  tag      : BitVec 128
deriving DecidableEq, Repr

/-- A segment (Table 8-1): its header and its body. -/
structure Seg where
  typ       : BitVec 8
  cls       : BitVec 8
  flags     : BitVec 8
  tryNo     : BitVec 8
  seq       : BitVec 48
  origSeq   : BitVec 48
  bodyLen   : BitVec 32
  epoch     : BitVec 16
  job       : BitVec 16
  bodyCrc   : BitVec 32
  hdrCrc    : BitVec 32
  body      : List Byte
deriving DecidableEq, Repr

/-- What the LF passes to the TE (R298): a cell of 16 bytes, with whether FIRST_CELL of its member's transport control names it (R226), or
a break. -/
inductive LineItem where
  | cell (bytes : List Byte) (first : Bool)
  | brk
deriving DecidableEq, Repr

/-- A control slot (Table 8-2, R285): channel, length byte, key epoch, counter, ciphertext and tag. -/
structure CtrlSlot where
  channel  : BitVec 8
  length   : BitVec 8
  keyEpoch : BitVec 16
  rctr     : BitVec 64
  data     : List Byte
  tag      : BitVec 128
deriving DecidableEq, Repr

/-- Transport control of one member frame (Table 8-2), TC_CRC apart. -/
structure TC where
  version    : BitVec 8
  member     : BitVec 8
  firstCell  : BitVec 16
  sender     : BitVec 32
  cumAck     : BitVec 64
  rxHigh     : BitVec 64
  tsVal      : BitVec 32
  tsEcho     : BitVec 32
  holdNs     : BitVec 32
  epoch      : BitVec 16
  sackBase   : BitVec 64
  sackMap    : BitVec 1920
  naks       : List (BitVec 64)
  credit     : List (BitVec 64)
  execCredit : BitVec 64
  ctrl       : CtrlSlot
  sndLow     : BitVec 64
deriving DecidableEq, Repr

/-- A member frame (Tables 11-1 to 11-3), its alignment signal and reserved bytes apart: the section and path overhead, 512 bytes of
transport control and the payload. -/
structure MFrame where
  trace    : Byte
  sstat    : BitVec 8
  sbip     : BitVec 16
  srei     : BitVec 16
  groupId  : BitVec 32
  member   : BitVec 8
  mfi      : BitVec 8
  pbip     : BitVec 16
  prei     : BitVec 16
  pstat    : BitVec 8
  mfc      : BitVec 32
  txMap    : BitVec 32
  rxReq    : BitVec 32
  planMap  : BitVec 32
  slotCtl  : BitVec 64
  tc       : List Byte
  payload  : List Byte
deriving DecidableEq, Repr

/-- A symbol of a member's light: X in-phase, X quadrature, Y in-phase and Y quadrature (R325). As sent each is +1 or −1; as received each is
a soft value whose sign is the decision. -/
abbrev Symbol := Int × Int × Int × Int

/-- A frame that an Ethernet port receives: its bytes from the destination address up to, and without, the FCS (R402, R407). -/
structure PtpMsg where
  ethPort : Nat
  frame   : List Byte
deriving DecidableEq, Repr

/-- What the SEC reads from the certificates and the signature of an assembled key agreement message (R352, R359): whether the
certificates chain to the Krytlo device root, the TcbInfo fields and serial they carry, and whether the signature
verifies. -/
structure KxView where
  chainOk : Bool
  svn     : Nat
  debug   : Bool
  m2      : List Byte
  serial  : BitVec 128
  sigOk   : Bool
deriving DecidableEq, Repr

/-- An engine's request to the BM for a buffer (R387). -/
structure EngAlloc where
  owner    : BitVec 20
  size     : Nat
  cls      : Nat
  draining : Bool
  exact    : Bool
  /-- 0 the general pools, 1 the recovery reserve, 2 the paging pool (R386) -/
  reserve  : Nat
  /-- the SS queue whose record a class 3 buffer becomes (R256, R257) -/
  queue    : Option Nat
deriving DecidableEq, Repr

/-- The on-die transactions that a reset of masters cuts (R382): the units of memory (0) and words of scratch (1), with an address in each, that
the delivered beats of their write bursts touched, and the masters whose transactions targeted a reset one. -/
structure Cut where
  units : List (Nat × Nat)
  hit   : List Nat
deriving DecidableEq, Repr

/-- A reset that reaches no transaction. -/
def Cut.none : Cut := ⟨[], []⟩

/-- A RESET packet and what the reset cuts. -/
structure ResetReq where
  req : Req
  cut : Cut
deriving DecidableEq, Repr

/-- A control processor that its watchdog resets, and what the reset cuts. -/
structure CpFail where
  master : Nat
  cut    : Cut
deriving DecidableEq, Repr

/-- What the LO reports of a member for the LOS defect (R327): its receive power in 0.1 dBm, whether the DSP is locked to the carrier,
and since when the report has read as it does. -/
structure LosReport where
  power : Int
  lock  : Bool
  since : Time
deriving DecidableEq, Repr

/-- A defect that meets or leaves its criterion: its bit in the defect register (Table 11-6), and what the LO reports, on which LOS rests. -/
structure DefectSign where
  bit : Nat
  rep : Option LosReport
deriving DecidableEq, Repr

/-- A scan of the comb (R329): the powers of lines 0 to 31 and of the lines outside that span, in 0.1 dBm. -/
structure LineScan where
  lines : List Int
  outer : List Int
deriving DecidableEq, Repr

/-- A peak of a ring's sweep (R332): the shift of the resonance in MHz, the heater power in 0.1 mW and the drop power in 0.1 dBm. -/
structure Peak where
  shift : Nat
  heat  : Nat
  power : Int
deriving DecidableEq, Repr

/-- A ring's sweep (R332): its peaks by rising shift. -/
abbrev Sweep := List Peak

/-- What a comb laser's bring-up finds of the comb (R328): the line check, and the frequency of each line in MHz (R323). -/
structure CombFound where
  scan : LineScan
  freq : List Nat
deriving DecidableEq, Repr

/-- What it finds of the rings: the sweeps of the 96 rings with the die temperature in 0.1 °C (R332), and the modulator bias points by
member. -/
structure RingsFound where
  sweeps : List Sweep
  temp   : Int
  points : List (List Int)
deriving DecidableEq, Repr

/-- A comb laser's bring-up (Table 12-4): when each of its first seven steps ended after its start, in time units, what was found,
and the laser's bias in mA. -/
structure BringUp where
  ends  : List Time
  comb  : CombFound
  rings : RingsFound
  bias  : Nat
deriving DecidableEq, Repr

/-- What the LO of a port measures every 1 ms (R327, R329, R344, R345), powers in 0.1 dBm: the comb's lines, receive power, carrier lock,
carrier offset in MHz, dispersion, DGD in 0.1 ps, the bias the laser needs in mA, total launch, power at the reflection tap, and
whether the comb die is above 90 °C or VDD_OPT 3.30 V at its current limit. -/
structure LoTick where
  scan  : LineScan
  rx    : List Int
  lock  : BitVec 32
  foff  : List Int
  cd    : List Int
  dgd   : List Nat
  bias  : Nat
  total : Int
  refl  : Int
  hot   : Bool
deriving DecidableEq, Repr

/-- What the LO of a port sees of its 96 rings every 1 ms (R333 to R335): the lock-in signals of the monitor photodiodes by tone in Hz, each
in MHz of the resonance above its line; the drop power of each ring in 0.1 dBm; the die temperature in 0.1 °C; and whether VDD_OPT 1.80 V
is at its current limit. -/
structure RingTick where
  tones : List (Nat × Int)
  drop  : List Int
  temp  : Int
  lim   : Bool
deriving DecidableEq, Repr

/-- What the 20 ms of a calibration find (R338): the sweeps of the member's transmit, LO and receive rings with the die temperature in
0.1 °C, the modulator bias points, receiver gain and skew, the power of the comb line in 0.1 dBm, and the heater temperature coefficient of
each ring in 0.001 mW for 0.1 °C. -/
structure CalFound where
  sweeps : List Sweep
  temp   : Int
  points : List Int
  gain   : Int
  skew   : Int
  line   : Int
  coef   : List Int
deriving DecidableEq, Repr

/-- What the launch loop of a port sees every 10 ms (R341): the launch of each member and in total, as the monitors measure them, in
0.1 dBm. -/
structure LaunchTick where
  meas  : List Int
  total : Int
deriving DecidableEq, Repr

/-- A group frame is due on a port: with it come the pieces of management messages, of at most 52 bytes each, that the management OS has given
the TE for the port since the last one (R285). -/
structure GroupTx where
  port : Nat
  mgmt : List (List Byte)
deriving DecidableEq, Repr

/-- What the tamper sensors read (Table 13-7): the mesh open or shorted, light, VDD_CORE and VDD_AON in mV, how far the 25 MHz reference lies
off in ‰, the shortest engine clock period in percent of nominal, and the die temperature in °C; and for how long each sensor's trip condition
has held without a break. -/
structure TamperTick where
  mesh   : Bool
  light  : Bool
  vcore  : Int
  vaon   : Int
  ref    : Int
  period : Nat
  temp   : Int
  held   : List Time
deriving DecidableEq, Repr

/-- What the PCR counts at a reference (R426): the time since its last edge, how far it lies off nominal in ppm, and the cycles counted
since it came. -/
structure RefCount where
  idle   : Time
  ppm    : Int
  cycles : Nat
deriving DecidableEq, Repr

/-- A reference that goes or comes back: the crystal (0), a fabric reference (1 to 4) or the PCI Express reference (5), and its count. -/
structure RefSign where
  ref   : Nat
  count : RefCount
deriving DecidableEq, Repr

/-- What a boot step finds (Table 16-1): what is counted at the references 0 to 5 (R426), the layer-1 image, whether its signature verifies by R351 and its security version, the layer-2 images
in the order of the manifest, SEC_COMPAT, and the channels that failed to train. -/
structure BootIn where
  refs   : List RefCount
  image  : List Byte
  sigOk  : Bool
  svn    : Nat
  images : List (List Byte)
  compat : BitVec 32
  failed : List Nat
deriving DecidableEq, Repr

/-- A read that found an error in a host-core cache (R445): the level, 2 or 3, and the master ID of the host core that read. -/
structure CacheRead where
  level : Nat
  core  : Nat
deriving DecidableEq, Repr

/-- One access of the debug module (R448): a read of dmstatus, or an access through a halted hart; of memory, `n` bytes or the bytes given. -/
inductive DmiOp where
  | status (hart : Nat)
  | halt (hart : Nat)
  | resume (hart : Nat)
  | step (hart : Nat)
  | readReg (hart : Nat) (reg : Nat)
  | writeReg (hart : Nat) (reg : Nat) (v : Nat)
  | readMem (hart : Nat) (addr : Nat) (n : Nat)
  | writeMem (hart : Nat) (addr : Nat) (bs : List Byte)
  | setTrigger (hart : Nat) (idx : Nat) (tdata1 : BitVec 64) (tdata2 : BitVec 64)
deriving DecidableEq, Repr

/-- Moving the message lets work already admitted finish (R248). -/
def Msg.draining : Msg → Bool
  | .far m => m.flags.getLsbD 0
  | .coll m => m.ckind != 3#8 && m.ckind != 4#8
  | .fence _ => true

end Sys2Proof
end

