-- ==== Sys2Proof/Machine/Crc.lean ====
section
/-! DEFINITION. The cyclic redundancy checks of the packet, segment and transport control formats, and the byte images they
cover. -/

namespace Sys2Proof

/-- One bit of a check of width `w`, most significant bit first. -/
def Crc.stepBit {w : Nat} (poly : BitVec w) (c : BitVec w) (bit : Bool) : BitVec w :=
  if c.msb != bit then (c <<< 1) ^^^ poly else c <<< 1

/-- The bits of a byte, most significant first. -/
def Crc.msbBits (b : Byte) : List Bool := (List.range 8).map fun i => b.getLsbD (7 - i)

/-- The bits of a byte, least significant first. -/
def Crc.lsbBits (b : Byte) : List Bool := (List.range 8).map fun i => b.getLsbD i

/-- The check over bits from an initial value. -/
def Crc.run {w : Nat} (poly init : BitVec w) (bits : List Bool) : BitVec w := bits.foldl (Crc.stepBit poly) init

/-- HCHK: CRC-16, polynomial 0x1021, initial value 0xFFFF, most significant bit first, no final inversion. -/
def Crc.crc16 (bs : List Byte) : BitVec 16 := Crc.run 0x1021#16 0xFFFF#16 (bs.flatMap Crc.msbBits)

/-- CRC-32C, polynomial 0x1EDC_6F41, initial value 0xFFFF_FFFF, final inversion. The bits of a byte are taken least significant
first and the result is reflected, as the Castagnoli check is defined (log entry 12). -/
def Crc.crc32c (bs : List Byte) : BitVec 32 := ~~~ (Crc.run 0x1EDC6F41#32 0xFFFFFFFF#32 (bs.flatMap Crc.lsbBits)).reverse

/-- CRC-64 of a tile digest, polynomial 0x42F0_E1EB_A9EA_3693, initial value all ones, reflected in and out, final inversion
(R185). -/
def Crc.crc64 (bs : List Byte) : BitVec 64 :=
  ~~~ (Crc.run 0x42F0E1EBA9EA3693#64 0xFFFFFFFFFFFFFFFF#64 (bs.flatMap Crc.lsbBits)).reverse

/-- The first 30 bytes of a packet header (Table 3-1). -/
def FabPkt.head (p : FabPkt) : List Byte :=
  Bits.leBytes 4 (p.opcode.toNat * 2 ^ 24 + p.dstRank.toNat) ++
  Bits.leBytes 4 (p.cls.toNat * 2 ^ 29 + p.ver.toNat * 2 ^ 27 + p.rsvd1.toNat * 2 ^ 24 + p.srcRank.toNat) ++
  Bits.leBytes 4 (p.gen.toNat * 2 ^ 24 + p.tag.toNat) ++
  Bits.leBytes 4 (p.job.toNat * 2 ^ 22 + p.maskIdx.toNat * 2 ^ 10 + Bits.ofBool p.mcast * 2 ^ 9 + Bits.ofBool p.resp * 2 ^ 8 +
    Bits.ofBool p.poison * 2 ^ 7 + Bits.ofBool p.last * 2 ^ 6 + p.rsvd3.toNat) ++
  Bits.leBytes 4 (p.length.toNat * 2 ^ 16 + p.dstFpa.toNat) ++
  Bits.leBytes 4 p.spraySeq.toNat ++
  Bits.leBytes 4 (p.addr.toNat % 2 ^ 32) ++ Bits.leBytes 2 (p.addr.toNat / 2 ^ 32)

/-- A packet with both of its checks set. -/
def FabPkt.seal (p : FabPkt) : FabPkt := { p with hchk := Crc.crc16 p.head, pcheck := Crc.crc32c p.payload }

end Sys2Proof
end

