-- ==== Sys2Proof/Machine/Operands.lean ====
section
/-! DEFINITION. The operands of a command packet: its parameter fields (Table 2-8), the opcode table (Table 2-9), the status
codes (Table 2-6), and how a completion names the first offending field (R507). -/

namespace Sys2Proof

/-- The field of `n` bytes at packet offset `off`, from 16 to 63 (Table 2-4). -/
def Req.u (r : Req) (off n : Nat) : Nat := r.params.toNat / 2 ^ (8 * (off - 16)) % 2 ^ (8 * n)

/-- The field of `n` bytes at packet offset `off` is not 0. -/
def Req.nz (r : Req) (off n : Nat) : Bool := r.u off n != 0

/-- ARG0, DESC_ADDR or the buffer handle. -/
def Req.a0 (r : Req) : Nat := r.u 16 8
/-- FUNC, DESC_LEN, size or port. -/
def Req.a1 (r : Req) : Nat := r.u 24 4
/-- ARG1, OBJECT, window, handle, owner, member or number. -/
def Req.a2 (r : Req) : Nat := r.u 28 4

/-- The job number of a packet. -/
def Req.jobN (r : Req) : Nat := r.job.toNat % 1024

/-- The lowest offset among the offending fields, if any (R507). -/
def Req.firstBad : List (Nat × Bool) → Option Nat
  | [] => none
  | (o, bad) :: l => if bad then some o else Req.firstBad l

/-- FLAGS[0] ORDERED. -/
def Req.flagOrdered (r : Req) : Bool := r.flags.getLsbD 0
/-- FLAGS[1] BARRIER. -/
def Req.flagBarrier (r : Req) : Bool := r.flags.getLsbD 1
/-- FLAGS[2] NO_IRQ. -/
def Req.flagNoIrq (r : Req) : Bool := r.flags.getLsbD 2
/-- FLAGS[3] SCAVENGER. -/
def Req.flagScav (r : Req) : Bool := r.flags.getLsbD 3

/-- A command packet from its 64 bytes. -/
def Req.ofBytes (ring index : Nat) (bs : List Byte) : Nat × Req :=
  let f (o n : Nat) : Nat := Bits.ofLe ((bs.drop o).take n)
  (f 0 2, ⟨ring, index, BitVec.ofNat 16 (f 2 2), BitVec.ofNat 32 (f 4 4), BitVec.ofNat 16 (f 8 2), BitVec.ofNat 8 (f 10 1),
    BitVec.ofNat 40 (f 11 5), BitVec.ofNat 384 (f 16 48)⟩)

/-- The 64 bytes of a command packet with an opcode (Table 2-4). -/
def Req.bytes (r : Req) (opc : Nat) : List Byte :=
  Bits.leBytes 2 opc ++ Bits.leBytes 2 r.flags.toNat ++ Bits.leBytes 4 r.cookie.toNat ++ Bits.leBytes 2 r.job.toNat ++
  Bits.leBytes 1 r.version.toNat ++ Bits.leBytes 5 r.rsvd.toNat ++ Bits.leBytes 48 r.params.toNat

/-! ## Status codes (Table 2-6) -/

/-- OK. -/
abbrev St.ok : Nat := 0x0000
/-- DEFERRED. -/
abbrev St.deferred : Nat := 0x0001
/-- BUSY. -/
abbrev St.busy : Nat := 0x0002
/-- OK_WARN. -/
abbrev St.okWarn : Nat := 0x0003
/-- BAD_OPCODE. -/
abbrev St.badOpcode : Nat := 0x0010
/-- BAD_PARAM. -/
abbrev St.badParam : Nat := 0x0011
/-- NO_RESOURCE. -/
abbrev St.noResource : Nat := 0x0012
/-- OVERCOMMIT. -/
abbrev St.overcommit : Nat := 0x0013
/-- NOT_OWNER. -/
abbrev St.notOwner : Nat := 0x0014
/-- DOUBLE_FREE. -/
abbrev St.doubleFree : Nat := 0x0015
/-- TIMEOUT. -/
abbrev St.timeout : Nat := 0x0016
/-- FENCED. -/
abbrev St.fenced : Nat := 0x0017
/-- LINK_DOWN. -/
abbrev St.linkDown : Nat := 0x0018
/-- AUTH_FAIL. -/
abbrev St.authFail : Nat := 0x0019
/-- LENGTH_LIMIT. -/
abbrev St.lengthLimit : Nat := 0x001A
/-- LOCKED. -/
abbrev St.locked : Nat := 0x001B
/-- DIGEST_MISMATCH. -/
abbrev St.digestMismatch : Nat := 0x001C
/-- DECODE_ERROR. -/
abbrev St.decodeError : Nat := 0x001D
/-- REQUESTER_GONE. -/
abbrev St.requesterGone : Nat := 0x001E
/-- STATE. -/
abbrev St.state : Nat := 0x001F

/-! ## Warning bits (Table 2-7) -/

/-- FAILOVER. -/
abbrev Warn.failover : Nat := 0
/-- SCALED. -/
abbrev Warn.scaled : Nat := 1
/-- SHRUNK. -/
abbrev Warn.shrunk : Nat := 2
/-- STORED. -/
abbrev Warn.stored : Nat := 3
/-- LOOP_SATURATED. -/
abbrev Warn.loopSaturated : Nat := 4
/-- POLICY_OVERRIDDEN. -/
abbrev Warn.policyOverridden : Nat := 5
/-- LATE_DISCARD. -/
abbrev Warn.lateDiscard : Nat := 6

/-- A row of Table 2-9: the ring class (0 M, 1 J, 2 R) and whether the opcode carries a dagger. -/
structure OpInfo where
  cls    : Nat
  dagger : Bool
deriving DecidableEq, Repr

/-- The opcodes of Table 2-9 and the ring class and dagger of each. -/
def opTable : List (Nat × OpInfo) :=
  [(0x0101, ⟨1, true⟩), (0x0102, ⟨1, true⟩), (0x0103, ⟨0, true⟩), (0x0104, ⟨0, true⟩),
   (0x0105, ⟨0, true⟩), (0x0106, ⟨0, false⟩), (0x0107, ⟨0, true⟩), (0x0108, ⟨0, false⟩),
   (0x0109, ⟨0, false⟩), (0x010A, ⟨2, false⟩), (0x010B, ⟨2, false⟩), (0x0201, ⟨0, false⟩),
   (0x0202, ⟨1, false⟩), (0x0203, ⟨0, false⟩), (0x0204, ⟨1, false⟩), (0x0205, ⟨1, false⟩),
   (0x0206, ⟨1, true⟩), (0x0207, ⟨1, true⟩), (0x0208, ⟨1, false⟩), (0x0209, ⟨1, false⟩),
   (0x0301, ⟨1, false⟩), (0x0302, ⟨1, false⟩), (0x0303, ⟨1, false⟩), (0x0304, ⟨1, false⟩),
   (0x0305, ⟨1, false⟩), (0x0401, ⟨1, false⟩), (0x0402, ⟨1, false⟩), (0x0403, ⟨1, false⟩),
   (0x0404, ⟨1, false⟩), (0x0405, ⟨1, false⟩), (0x0406, ⟨1, false⟩), (0x0407, ⟨1, false⟩),
   (0x0501, ⟨1, false⟩), (0x0502, ⟨1, false⟩), (0x0503, ⟨1, false⟩), (0x0504, ⟨0, false⟩),
   (0x0505, ⟨0, false⟩), (0x0506, ⟨0, false⟩), (0x0601, ⟨0, false⟩), (0x0602, ⟨0, false⟩)] ++
  [(0x0603, ⟨0, false⟩), (0x0604, ⟨0, false⟩), (0x0605, ⟨0, false⟩), (0x0606, ⟨0, false⟩),
   (0x0607, ⟨0, false⟩), (0x0608, ⟨0, false⟩), (0x0701, ⟨0, false⟩), (0x0702, ⟨0, false⟩),
   (0x0703, ⟨0, false⟩), (0x0704, ⟨0, false⟩), (0x0801, ⟨0, false⟩), (0x0802, ⟨0, false⟩),
   (0x0803, ⟨0, false⟩), (0x0804, ⟨0, true⟩), (0x0805, ⟨0, false⟩), (0x0901, ⟨1, false⟩),
   (0x0902, ⟨0, false⟩), (0x0903, ⟨1, false⟩), (0x0904, ⟨0, false⟩), (0x0905, ⟨0, false⟩),
   (0x0A01, ⟨0, true⟩), (0x0A02, ⟨0, true⟩), (0x0A03, ⟨0, false⟩), (0x0A04, ⟨0, false⟩)]

/-- The row of an opcode. -/
def opInfo (opc : Nat) : Option OpInfo := opTable.lookup opc

end Sys2Proof
end

