-- ==== Sys2Proof/Config.lean ====
section
/-! DEFINITION. What one implementation fixes and what the specification leaves open: constants without a body, so that no
proof can see their value. Each is named in the assumption log. -/

namespace Sys2Proof

/-- What a 32-bit counter holds after it counts past 0xFFFF_FFFF: the specification does not say (log entry 4). The argument
is the address of the counter. -/
opaque Config.counterOverflow : Nat → BitVec 32

/-- The sign (bit 0) and payload (the bits above) of a NaN written in a format of the given exponent and mantissa bits, which the
specification leaves open (log entry 16). -/
opaque Config.nanBits : Nat → Nat → Nat

/-- The code of a NaN element in an MX block whose element format has no NaN; the block's scale says NaN (log entry 16). -/
opaque Config.nanElem : Nat → Nat → Nat

/-- What CLAMP gives when its limit is NaN and its operand is not, an FP32 code (log entry 17). -/
opaque Config.clampNan : Nat → BitVec 32

/-- The codeword that the soft-decision decoder of the inner code makes of 49,152 received values: the specification states the code and not
the decoder (log entry 80). -/
opaque Config.decode : List Int → List Bool

/-- Whether a message header of line class 7 whose first byte is 1, 2 or 3 is a far operation: the same codes are collective messages,
and the specification gives no other mark (log entry 81). -/
opaque Config.scavengerFar : List Byte → Bool

/-- Byte `k` of what a passed-through slot sends when the other port has received no group frame for it (log entry 82). -/
opaque Config.lostSlot : Nat → Nat → Byte

/-- Where in its half of the replay store the copy of the segment of a port and SEQ lies: the specification does not say (log entry 98). -/
opaque Config.replaySlot : Nat → Nat → Nat

/-- A 32-bit value that the specification does not state; each use takes a fresh argument from the counter of the state (log
entry 2). -/
opaque Config.freeWord : Nat → BitVec 32

/-- The modelled current in A that the engines add when they wake and take away when they sleep, calibrated per unit at test (log entry
56). -/
opaque Config.wakeAmps : Nat

/-- The modelled current in A of the host cores for each 100 MHz of their clock, calibrated per unit at test (log entry 56). -/
opaque Config.hcAmps : Nat

/-- The modelled current in A of the awake engines for each 50 MHz of the ENG clock, calibrated per unit at test (log entry 56). -/
opaque Config.engAmps : Nat

/-- Word `j` of what an engine dump holds beyond what the specification gives: the argument before it tells the freezes apart (log entry
57). -/
opaque Config.dumpWord : Nat → Nat → BitVec 32

/-- Whether word `j` of a dump of the CC holds a key, salt, chain value, plaintext or anti-replay bit, which R457 has written as 0 (log
entry 57). -/
opaque Config.dumpSecret : Nat → Nat → Bool

/-- Where a control processor's own addresses hold the 1 GiB window that HC_CP_WIN places (log entry 106). -/
opaque Config.cpWindow : Nat

/-- Bits of a vector register of a host core (log entry 106). -/
opaque Config.vectorBits : Nat

/-! ## Public-key algorithms and secrets

The specification names ECDSA P-384, ECDH P-384, ML-KEM-1024 and X.509 and defines none of them. They are functions without a
body (log entry 50). -/

/-- The unique device secret in the fuses. -/
opaque Config.uds : List Byte

/-- A signature over a digest with the key of a private scalar, with the draw of its random number. -/
opaque Config.ecdsaSign : Nat → List Byte → Nat → List Byte

/-- The ECDH public key of an ephemeral secret. -/
opaque Config.ecdhPub : List Byte → List Byte

/-- The ECDH shared value of an ephemeral secret and a peer's public key. -/
opaque Config.ecdhShared : List Byte → List Byte → List Byte

/-- The ML-KEM encapsulation key of an ephemeral secret. -/
opaque Config.kemKey : List Byte → List Byte

/-- The ML-KEM ciphertext to an encapsulation key with a random secret. -/
opaque Config.kemCipher : List Byte → List Byte → List Byte

/-- The ML-KEM shared key of the encapsulating side. -/
opaque Config.kemShared : List Byte → List Byte → List Byte

/-- The ML-KEM shared key that an ephemeral secret decapsulates from a ciphertext. -/
opaque Config.kemOpen : List Byte → List Byte → List Byte

/-- The DeviceID certificate in flash, in DER, of the DeviceID key's private scalar and the serial (R350). -/
opaque Config.deviceCert : Nat → Nat → List Byte

/-- The alias certificate, in DER (R352): the private scalars of the DeviceID key that signs it and of the alias key, and the TcbInfo it carries:
M1, M2, the running security version, SEC_COMPAT and the debug state. -/
opaque Config.aliasCert : Nat → Nat → List Byte → List Byte → Nat → Nat → Bool → List Byte

end Sys2Proof
end

