-- ==== Sys2Proof/Machine/RegMap.lean ====
section
/-! DEFINITION. The register map of chapter 19: the address of every register, its writable, write-1 and read-clear bits
and its reset value, from the register tables of each chapter (R10, R13, R484, R488). -/

namespace Sys2Proof.Machine

/-- A register of the map, or `n` of them at a stride: its offset in its 64 KiB block, the bits of each access type
(bits in none are read only) and its reset value. -/
structure RegEnt where
  off    : Nat
  stride : Nat
  n      : Nat
  rw     : Nat
  w1c    : Nat
  w1s    : Nat
  wo     : Nat
  rc     : Nat
  reset  : Nat
deriving DecidableEq, Repr

/-- SYS_ID: Table 0-1. -/
@[reducible] def R.sysId : Nat := 0x0
/-- SYS_CAP0: Table 0-1. -/
@[reducible] def R.sysCap0 : Nat := 0x4
/-- SYS_CAP1: Table 0-1. -/
@[reducible] def R.sysCap1 : Nat := 0x8
/-- SYS_CAP2: Table 0-1. -/
@[reducible] def R.sysCap2 : Nat := 0xC
/-- CMD_STATUS: Table 2-1. -/
@[reducible] def R.cmdStatus : Nat := 0x10000
/-- CMD_ERR_SUM: Table 2-1. -/
@[reducible] def R.cmdErrSum (i : Nat) : Nat := 0x10010 + 0x4 * i
/-- CMD_DISP_CNT_LO: Table 2-1. -/
@[reducible] def R.cmdDispCntLo : Nat := 0x10040
/-- CMD_DISP_CNT_HI: Table 2-1. -/
@[reducible] def R.cmdDispCntHi : Nat := 0x10044
/-- CMD_ERR_IRQ: Table 2-1. -/
@[reducible] def R.cmdErrIrq : Nat := 0x10048
/-- CMD_RQ_BASE_LO: Table 2-2. -/
@[reducible] def R.cmdRqBaseLo (i : Nat) : Nat := 0x11000 + 0x40 * i
/-- CMD_RQ_BASE_HI: Table 2-2. -/
@[reducible] def R.cmdRqBaseHi (i : Nat) : Nat := 0x11004 + 0x40 * i
/-- CMD_RQ_CFG: Table 2-2. -/
@[reducible] def R.cmdRqCfg (i : Nat) : Nat := 0x11008 + 0x40 * i
/-- CMD_RQ_HEAD: Table 2-2. -/
@[reducible] def R.cmdRqHead (i : Nat) : Nat := 0x1100C + 0x40 * i
/-- CMD_CQ_BASE_LO: Table 2-2. -/
@[reducible] def R.cmdCqBaseLo (i : Nat) : Nat := 0x11010 + 0x40 * i
/-- CMD_CQ_BASE_HI: Table 2-2. -/
@[reducible] def R.cmdCqBaseHi (i : Nat) : Nat := 0x11014 + 0x40 * i
/-- CMD_CQ_CFG: Table 2-2. -/
@[reducible] def R.cmdCqCfg (i : Nat) : Nat := 0x11018 + 0x40 * i
/-- CMD_CQ_TAIL: Table 2-2. -/
@[reducible] def R.cmdCqTail (i : Nat) : Nat := 0x1101C + 0x40 * i
/-- CMD_CQ_HEAD: Table 2-2. -/
@[reducible] def R.cmdCqHead (i : Nat) : Nat := 0x11020 + 0x40 * i
/-- CMD_RING_STAT: Table 2-2. -/
@[reducible] def R.cmdRingStat (i : Nat) : Nat := 0x11024 + 0x40 * i
/-- CMD_RING_ERRCNT: Table 2-2. -/
@[reducible] def R.cmdRingErrcnt (i : Nat) : Nat := 0x11028 + 0x40 * i
/-- CMD_DB: Table 2-3. -/
@[reducible] def R.cmdDb (i : Nat) : Nat := 0x18000 + 0x4 * i
/-- FIF_CTL: Table 3-6. -/
@[reducible] def R.fifCtl : Nat := 0x20000
/-- FIF_GAP_TMO: Table 3-6. -/
@[reducible] def R.fifGapTmo : Nat := 0x20004
/-- FIF_PORT_UP: Table 3-6. -/
@[reducible] def R.fifPortUp : Nat := 0x20008
/-- FIF_PORT_SPRAY: Table 3-6. -/
@[reducible] def R.fifPortSpray : Nat := 0x2000C
/-- FIF_GW_FPA: Table 3-6. -/
@[reducible] def R.fifGwFpa : Nat := 0x20010
/-- FIF_EDDY_PART: Table 3-6. -/
@[reducible] def R.fifEddyPart (i : Nat) : Nat := 0x20020 + 0x4 * i
/-- FIF_LATE_CNT: Table 3-6. -/
@[reducible] def R.fifLateCnt : Nat := 0x20040
/-- FIF_GAP_SKIP_CNT: Table 3-6. -/
@[reducible] def R.fifGapSkipCnt : Nat := 0x20044
/-- FIF_WIN_DISCARD_CNT: Table 3-6. -/
@[reducible] def R.fifWinDiscardCnt : Nat := 0x20048
/-- FIF_JOB_DISCARD_CNT: Table 3-6. -/
@[reducible] def R.fifJobDiscardCnt : Nat := 0x2004C
/-- FIF_OPC_DISCARD_CNT: Table 3-6. -/
@[reducible] def R.fifOpcDiscardCnt : Nat := 0x20050
/-- FIF_TAG_FREE: Table 3-6. -/
@[reducible] def R.fifTagFree : Nat := 0x20054
/-- FIF_RESET_CNT: Table 3-6. -/
@[reducible] def R.fifResetCnt : Nat := 0x20058
/-- FIF_P_TXPKT_LO: Table 3-7. -/
@[reducible] def R.fifPTxpktLo (i : Nat) : Nat := 0x21000 + 0x40 * i
/-- FIF_P_TXPKT_HI: Table 3-7. -/
@[reducible] def R.fifPTxpktHi (i : Nat) : Nat := 0x21004 + 0x40 * i
/-- FIF_P_RXPKT_LO: Table 3-7. -/
@[reducible] def R.fifPRxpktLo (i : Nat) : Nat := 0x21008 + 0x40 * i
/-- FIF_P_RXPKT_HI: Table 3-7. -/
@[reducible] def R.fifPRxpktHi (i : Nat) : Nat := 0x2100C + 0x40 * i
/-- FIF_P_TXBYTE_LO: Table 3-7. -/
@[reducible] def R.fifPTxbyteLo (i : Nat) : Nat := 0x21010 + 0x40 * i
/-- FIF_P_TXBYTE_HI: Table 3-7. -/
@[reducible] def R.fifPTxbyteHi (i : Nat) : Nat := 0x21014 + 0x40 * i
/-- FIF_P_RXBYTE_LO: Table 3-7. -/
@[reducible] def R.fifPRxbyteLo (i : Nat) : Nat := 0x21018 + 0x40 * i
/-- FIF_P_RXBYTE_HI: Table 3-7. -/
@[reducible] def R.fifPRxbyteHi (i : Nat) : Nat := 0x2101C + 0x40 * i
/-- FIF_P_HDR_ERR: Table 3-7. -/
@[reducible] def R.fifPHdrErr (i : Nat) : Nat := 0x21020 + 0x40 * i
/-- FIF_P_PAY_ERR: Table 3-7. -/
@[reducible] def R.fifPPayErr (i : Nat) : Nat := 0x21024 + 0x40 * i
/-- FIF_P_POISON: Table 3-7. -/
@[reducible] def R.fifPPoison (i : Nat) : Nat := 0x21028 + 0x40 * i
/-- FIF_P_CRED_STALL: Table 3-7. -/
@[reducible] def R.fifPCredStall (i : Nat) : Nat := 0x2102C + 0x40 * i
/-- FIF_P_STAT: Table 3-7. -/
@[reducible] def R.fifPStat (i : Nat) : Nat := 0x21030 + 0x40 * i
/-- FWU_PAGE_CTL: Table 4-6. -/
@[reducible] def R.fwuPageCtl : Nat := 0x40000
/-- FWU_EXEC_CTL: Table 4-6. -/
@[reducible] def R.fwuExecCtl : Nat := 0x40004
/-- FWU_BULK_CTL: Table 4-6. -/
@[reducible] def R.fwuBulkCtl : Nat := 0x40008
/-- FWU_OUT: Table 4-6. -/
@[reducible] def R.fwuOut : Nat := 0x40010
/-- FWU_ONCHIP: Table 4-6. -/
@[reducible] def R.fwuOnchip : Nat := 0x40014
/-- FWU_QUAR: Table 4-6. -/
@[reducible] def R.fwuQuar : Nat := 0x40018
/-- FWU_EXEC_INUSE: Table 4-6. -/
@[reducible] def R.fwuExecInuse : Nat := 0x4001C
/-- FWU_LATE_CNT: Table 4-6. -/
@[reducible] def R.fwuLateCnt : Nat := 0x40020
/-- FWU_TIMEOUT_CNT: Table 4-6. -/
@[reducible] def R.fwuTimeoutCnt : Nat := 0x40024
/-- FWU_NACK_CNT: Table 4-6. -/
@[reducible] def R.fwuNackCnt : Nat := 0x40028
/-- FWU_HAZARD_STALL: Table 4-6. -/
@[reducible] def R.fwuHazardStall : Nat := 0x4002C
/-- FWU_PAGEOUT_LO: Table 4-6. -/
@[reducible] def R.fwuPageoutLo : Nat := 0x40030
/-- FWU_PAGEOUT_HI: Table 4-6. -/
@[reducible] def R.fwuPageoutHi : Nat := 0x40034
/-- FWU_PAGEIN_LO: Table 4-6. -/
@[reducible] def R.fwuPageinLo : Nat := 0x40038
/-- FWU_PAGEIN_HI: Table 4-6. -/
@[reducible] def R.fwuPageinHi : Nat := 0x4003C
/-- FWU_RTT_A: Table 4-6. -/
@[reducible] def R.fwuRttA : Nat := 0x40040
/-- FWU_RTT_B: Table 4-6. -/
@[reducible] def R.fwuRttB : Nat := 0x40044
/-- CE_PAGE_CTL: Table 5-10. -/
@[reducible] def R.cePageCtl : Nat := 0x60000
/-- CE_ENERGY_CTL: Table 5-10. -/
@[reducible] def R.ceEnergyCtl : Nat := 0x60004
/-- CE_ECOST: Table 5-10. -/
@[reducible] def R.ceEcost : Nat := 0x60008
/-- CE_COLL_ACTIVE: Table 5-10. -/
@[reducible] def R.ceCollActive : Nat := 0x60010
/-- CE_TILE_ACTIVE: Table 5-10. -/
@[reducible] def R.ceTileActive : Nat := 0x60014
/-- CE_TILE_ONCHIP: Table 5-10. -/
@[reducible] def R.ceTileOnchip : Nat := 0x60018
/-- CE_DUP_CNT: Table 5-10. -/
@[reducible] def R.ceDupCnt : Nat := 0x60020
/-- CE_EARLY_DROP: Table 5-10. -/
@[reducible] def R.ceEarlyDrop : Nat := 0x60024
/-- CE_STORED_CNT: Table 5-10. -/
@[reducible] def R.ceStoredCnt : Nat := 0x60028
/-- CE_DEFER_CNT: Table 5-10. -/
@[reducible] def R.ceDeferCnt : Nat := 0x6002C
/-- CE_ABORT_CNT: Table 5-10. -/
@[reducible] def R.ceAbortCnt : Nat := 0x60030
/-- CE_TIMEOUT_CNT: Table 5-10. -/
@[reducible] def R.ceTimeoutCnt : Nat := 0x60034
/-- CE_PAGEOUT_LO: Table 5-10. -/
@[reducible] def R.cePageoutLo : Nat := 0x60038
/-- CE_PAGEOUT_HI: Table 5-10. -/
@[reducible] def R.cePageoutHi : Nat := 0x6003C
/-- CE_PAGEIN_LO: Table 5-10. -/
@[reducible] def R.cePageinLo : Nat := 0x60040
/-- CE_PAGEIN_HI: Table 5-10. -/
@[reducible] def R.cePageinHi : Nat := 0x60044
/-- CE_NONFIN_CNT: Table 6-10. -/
@[reducible] def R.ceNonfinCnt : Nat := 0x60100
/-- CE_QSAT_CNT: Table 6-10. -/
@[reducible] def R.ceQsatCnt : Nat := 0x60104
/-- CE_OSAT_CNT: Table 6-10. -/
@[reducible] def R.ceOsatCnt : Nat := 0x60108
/-- CE_RSAT_CNT: Table 6-10. -/
@[reducible] def R.ceRsatCnt : Nat := 0x6010C
/-- CE_RPOISON_CNT: Table 6-10. -/
@[reducible] def R.ceRpoisonCnt : Nat := 0x60110
/-- CE_COMB_LOADED: Table 6-10. -/
@[reducible] def R.ceCombLoaded : Nat := 0x60114
/-- CE_EXACT_ACTIVE: Table 6-10. -/
@[reducible] def R.ceExactActive : Nat := 0x60118
/-- CE_RESID_BYTES_LO: Table 6-10. -/
@[reducible] def R.ceResidBytesLo : Nat := 0x60120
/-- CE_RESID_BYTES_HI: Table 6-10. -/
@[reducible] def R.ceResidBytesHi : Nat := 0x60124
/-- CE_QELEM_LO: Table 6-10. -/
@[reducible] def R.ceQelemLo : Nat := 0x60128
/-- CE_QELEM_HI: Table 6-10. -/
@[reducible] def R.ceQelemHi : Nat := 0x6012C
/-- CX_QLIMIT: Table 7-7. -/
@[reducible] def R.cxQlimit : Nat := 0x80000
/-- CX_DQLIMIT: Table 7-7. -/
@[reducible] def R.cxDqlimit : Nat := 0x80004
/-- CX_STAT: Table 7-7. -/
@[reducible] def R.cxStat : Nat := 0x80008
/-- CX_CIN_BYTES_LO: Table 7-7. -/
@[reducible] def R.cxCinBytesLo : Nat := 0x80010
/-- CX_CIN_BYTES_HI: Table 7-7. -/
@[reducible] def R.cxCinBytesHi : Nat := 0x80014
/-- CX_COUT_BYTES_LO: Table 7-7. -/
@[reducible] def R.cxCoutBytesLo : Nat := 0x80018
/-- CX_COUT_BYTES_HI: Table 7-7. -/
@[reducible] def R.cxCoutBytesHi : Nat := 0x8001C
/-- CX_DIN_BYTES_LO: Table 7-7. -/
@[reducible] def R.cxDinBytesLo : Nat := 0x80020
/-- CX_DIN_BYTES_HI: Table 7-7. -/
@[reducible] def R.cxDinBytesHi : Nat := 0x80024
/-- CX_DOUT_BYTES_LO: Table 7-7. -/
@[reducible] def R.cxDoutBytesLo : Nat := 0x80028
/-- CX_DOUT_BYTES_HI: Table 7-7. -/
@[reducible] def R.cxDoutBytesHi : Nat := 0x8002C
/-- CX_BLK_CODED: Table 7-7. -/
@[reducible] def R.cxBlkCoded : Nat := 0x80030
/-- CX_BLK_STORED: Table 7-7. -/
@[reducible] def R.cxBlkStored : Nat := 0x80034
/-- CX_BLK_ZERO: Table 7-7. -/
@[reducible] def R.cxBlkZero : Nat := 0x80038
/-- CX_BLK_FORCED: Table 7-7. -/
@[reducible] def R.cxBlkForced : Nat := 0x8003C
/-- CX_DECL_QUEUE: Table 7-7. -/
@[reducible] def R.cxDeclQueue : Nat := 0x80040
/-- CX_DECL_ENERGY: Table 7-7. -/
@[reducible] def R.cxDeclEnergy : Nat := 0x80044
/-- CX_IN_POISON: Table 7-7. -/
@[reducible] def R.cxInPoison : Nat := 0x80048
/-- CX_DEC_ERR: Table 7-7. -/
@[reducible] def R.cxDecErr (i : Nat) : Nat := 0x80080 + 0x4 * i
/-- CX_LAST_ERR: Table 7-7. -/
@[reducible] def R.cxLastErr : Nat := 0x800C0
/-- CX_CQ_OCC: Table 7-7. -/
@[reducible] def R.cxCqOcc (i : Nat) : Nat := 0x80100 + 0x4 * i
/-- CX_DQ_OCC: Table 7-7. -/
@[reducible] def R.cxDqOcc (i : Nat) : Nat := 0x80180 + 0x4 * i
/-- TE_CTL: Table 8-8. -/
@[reducible] def R.teCtl : Nat := 0xA0000
/-- TE_RTO_CTL: Table 8-8. -/
@[reducible] def R.teRtoCtl : Nat := 0xA0004
/-- TE_REPLAY_SIZE: Table 8-8. -/
@[reducible] def R.teReplaySize : Nat := 0xA0008
/-- TE_RXPOOL: Table 8-8. -/
@[reducible] def R.teRxpool : Nat := 0xA000C
/-- TE_RXCRED_MIN: Table 8-8. -/
@[reducible] def R.teRxcredMin : Nat := 0xA0010
/-- TE_ABANDON_CNT: Table 8-8. -/
@[reducible] def R.teAbandonCnt : Nat := 0xA0020
/-- TE_NOPATH_CNT: Table 8-8. -/
@[reducible] def R.teNopathCnt : Nat := 0xA0024
/-- TE_RXCRED_USED: Table 8-8. -/
@[reducible] def R.teRxcredUsed (i : Nat) : Nat := 0xA0040 + 0x4 * i
/-- TE_P_STAT: Table 8-9. -/
@[reducible] def R.tePStat (i : Nat) : Nat := 0xA1000 + 0x100 * i
/-- TE_P_EPOCH: Table 8-9. -/
@[reducible] def R.tePEpoch (i : Nat) : Nat := 0xA1004 + 0x100 * i
/-- TE_P_TXSEQ_LO: Table 8-9. -/
@[reducible] def R.tePTxseqLo (i : Nat) : Nat := 0xA1008 + 0x100 * i
/-- TE_P_TXSEQ_HI: Table 8-9. -/
@[reducible] def R.tePTxseqHi (i : Nat) : Nat := 0xA100C + 0x100 * i
/-- TE_P_SNDLOW_LO: Table 8-9. -/
@[reducible] def R.tePSndlowLo (i : Nat) : Nat := 0xA1010 + 0x100 * i
/-- TE_P_SNDLOW_HI: Table 8-9. -/
@[reducible] def R.tePSndlowHi (i : Nat) : Nat := 0xA1014 + 0x100 * i
/-- TE_P_RXCUM_LO: Table 8-9. -/
@[reducible] def R.tePRxcumLo (i : Nat) : Nat := 0xA1018 + 0x100 * i
/-- TE_P_RXCUM_HI: Table 8-9. -/
@[reducible] def R.tePRxcumHi (i : Nat) : Nat := 0xA101C + 0x100 * i
/-- TE_P_SRTT: Table 8-9. -/
@[reducible] def R.tePSrtt (i : Nat) : Nat := 0xA1020 + 0x100 * i
/-- TE_P_RTTVAR: Table 8-9. -/
@[reducible] def R.tePRttvar (i : Nat) : Nat := 0xA1024 + 0x100 * i
/-- TE_P_REPLAY_USED: Table 8-9. -/
@[reducible] def R.tePReplayUsed (i : Nat) : Nat := 0xA1028 + 0x100 * i
/-- TE_P_RETX_CNT: Table 8-9. -/
@[reducible] def R.tePRetxCnt (i : Nat) : Nat := 0xA102C + 0x100 * i
/-- TE_P_RTO_CNT: Table 8-9. -/
@[reducible] def R.tePRtoCnt (i : Nat) : Nat := 0xA1030 + 0x100 * i
/-- TE_P_NAK_TX: Table 8-9. -/
@[reducible] def R.tePNakTx (i : Nat) : Nat := 0xA1034 + 0x100 * i
/-- TE_P_NAK_RX: Table 8-9. -/
@[reducible] def R.tePNakRx (i : Nat) : Nat := 0xA1038 + 0x100 * i
/-- TE_P_RX_DUP: Table 8-9. -/
@[reducible] def R.tePRxDup (i : Nat) : Nat := 0xA103C + 0x100 * i
/-- TE_P_RX_SKIP: Table 8-9. -/
@[reducible] def R.tePRxSkip (i : Nat) : Nat := 0xA1040 + 0x100 * i
/-- TE_P_HDR_ERR: Table 8-9. -/
@[reducible] def R.tePHdrErr (i : Nat) : Nat := 0xA1044 + 0x100 * i
/-- TE_P_BODY_ERR: Table 8-9. -/
@[reducible] def R.tePBodyErr (i : Nat) : Nat := 0xA1048 + 0x100 * i
/-- TE_P_TC_ERR: Table 8-9. -/
@[reducible] def R.tePTcErr (i : Nat) : Nat := 0xA104C + 0x100 * i
/-- TE_P_CRED_VIOL: Table 8-9. -/
@[reducible] def R.tePCredViol (i : Nat) : Nat := 0xA1050 + 0x100 * i
/-- TE_P_FO_OUT: Table 8-9. -/
@[reducible] def R.tePFoOut (i : Nat) : Nat := 0xA1054 + 0x100 * i
/-- TE_P_FO_DUP: Table 8-9. -/
@[reducible] def R.tePFoDup (i : Nat) : Nat := 0xA1058 + 0x100 * i
/-- TE_P_HUNT_CELLS: Table 8-9. -/
@[reducible] def R.tePHuntCells (i : Nat) : Nat := 0xA105C + 0x100 * i
/-- TE_P_TXSEG_LO: Table 8-9. -/
@[reducible] def R.tePTxsegLo (i : Nat) : Nat := 0xA1060 + 0x100 * i
/-- TE_P_TXSEG_HI: Table 8-9. -/
@[reducible] def R.tePTxsegHi (i : Nat) : Nat := 0xA1064 + 0x100 * i
/-- TE_P_RXSEG_LO: Table 8-9. -/
@[reducible] def R.tePRxsegLo (i : Nat) : Nat := 0xA1068 + 0x100 * i
/-- TE_P_RXSEG_HI: Table 8-9. -/
@[reducible] def R.tePRxsegHi (i : Nat) : Nat := 0xA106C + 0x100 * i
/-- SS_ADMIT_LINE: Table 9-6. -/
@[reducible] def R.ssAdmitLine : Nat := 0xC0000
/-- SS_ADMIT_MEM: Table 9-6. -/
@[reducible] def R.ssAdmitMem : Nat := 0xC0004
/-- SS_SCALE: Table 9-6. -/
@[reducible] def R.ssScale : Nat := 0xC0008
/-- SS_QLIMIT: Table 9-6. -/
@[reducible] def R.ssQlimit : Nat := 0xC000C
/-- SS_ENTRY_FREE: Table 9-6. -/
@[reducible] def R.ssEntryFree : Nat := 0xC0010
/-- SS_ADMIT_SUM0: Table 9-6. -/
@[reducible] def R.ssAdmitSum0 : Nat := 0xC0014
/-- SS_ADMIT_SUM1: Table 9-6. -/
@[reducible] def R.ssAdmitSum1 : Nat := 0xC0018
/-- SS_ADMIT_MEMSUM: Table 9-6. -/
@[reducible] def R.ssAdmitMemsum : Nat := 0xC001C
/-- SS_REFUSE_CNT: Table 9-6. -/
@[reducible] def R.ssRefuseCnt : Nat := 0xC0020
/-- SS_P_RATE: Table 9-7. -/
@[reducible] def R.ssPRate (i : Nat) : Nat := 0xC1000 + 0x100 * i
/-- SS_P_BURST: Table 9-7. -/
@[reducible] def R.ssPBurst (i : Nat) : Nat := 0xC1004 + 0x100 * i
/-- SS_P_OVH: Table 9-7. -/
@[reducible] def R.ssPOvh (i : Nat) : Nat := 0xC1008 + 0x100 * i
/-- SS_P_C1_RATE: Table 9-7. -/
@[reducible] def R.ssPC1Rate (i : Nat) : Nat := 0xC100C + 0x100 * i
/-- SS_P_C1_BURST: Table 9-7. -/
@[reducible] def R.ssPC1Burst (i : Nat) : Nat := 0xC1010 + 0x100 * i
/-- SS_P_BKT_STALL: Table 9-7. -/
@[reducible] def R.ssPBktStall (i : Nat) : Nat := 0xC1014 + 0x100 * i
/-- SS_P_CRED_STALL: Table 9-7. -/
@[reducible] def R.ssPCredStall (i : Nat) : Nat := 0xC1018 + 0x100 * i
/-- SS_P_TIER_CNT0: Table 9-7. -/
@[reducible] def R.ssPTierCnt0 (i : Nat) : Nat := 0xC101C + 0x100 * i
/-- SS_P_TIER_CNT1: Table 9-7. -/
@[reducible] def R.ssPTierCnt1 (i : Nat) : Nat := 0xC1020 + 0x100 * i
/-- SS_P_TIER_CNT2: Table 9-7. -/
@[reducible] def R.ssPTierCnt2 (i : Nat) : Nat := 0xC1024 + 0x100 * i
/-- SS_P_TIER_CNT3: Table 9-7. -/
@[reducible] def R.ssPTierCnt3 (i : Nat) : Nat := 0xC1028 + 0x100 * i
/-- SS_P_TIER_CNT4: Table 9-7. -/
@[reducible] def R.ssPTierCnt4 (i : Nat) : Nat := 0xC102C + 0x100 * i
/-- CC_CM: Table 10-7. -/
@[reducible] def R.ccCm : Nat := 0x90000
/-- CC_REKEY_CTL: Table 10-7. -/
@[reducible] def R.ccRekeyCtl : Nat := 0x90004
/-- CC_CORE_BUSY: Table 10-7. -/
@[reducible] def R.ccCoreBusy : Nat := 0x90008
/-- CC_SEAL_CNT_LO: Table 10-7. -/
@[reducible] def R.ccSealCntLo : Nat := 0x90010
/-- CC_SEAL_CNT_HI: Table 10-7. -/
@[reducible] def R.ccSealCntHi : Nat := 0x90014
/-- CC_OPEN_CNT_LO: Table 10-7. -/
@[reducible] def R.ccOpenCntLo : Nat := 0x90018
/-- CC_OPEN_CNT_HI: Table 10-7. -/
@[reducible] def R.ccOpenCntHi : Nat := 0x9001C
/-- CC_LIMIT_CNT: Table 10-7. -/
@[reducible] def R.ccLimitCnt : Nat := 0x90020
/-- CC_STALL_US: Table 10-7. -/
@[reducible] def R.ccStallUs : Nat := 0x90024
/-- CC_P_KEY_STAT: Table 10-8. -/
@[reducible] def R.ccPKeyStat (i : Nat) : Nat := 0x91000 + 0x100 * i
/-- CC_P_REKEY_STAT: Table 10-8. -/
@[reducible] def R.ccPRekeyStat (i : Nat) : Nat := 0x91004 + 0x100 * i
/-- CC_P_TX_RCTR_LO: Table 10-8. -/
@[reducible] def R.ccPTxRctrLo (i : Nat) : Nat := 0x91008 + 0x100 * i
/-- CC_P_TX_RCTR_HI: Table 10-8. -/
@[reducible] def R.ccPTxRctrHi (i : Nat) : Nat := 0x9100C + 0x100 * i
/-- CC_P_TX_AGE: Table 10-8. -/
@[reducible] def R.ccPTxAge (i : Nat) : Nat := 0x91010 + 0x100 * i
/-- CC_P_FMT_ERR: Table 10-8. -/
@[reducible] def R.ccPFmtErr (i : Nat) : Nat := 0x91014 + 0x100 * i
/-- CC_P_EPOCH_ERR: Table 10-8. -/
@[reducible] def R.ccPEpochErr (i : Nat) : Nat := 0x91018 + 0x100 * i
/-- CC_P_AUTH_FAIL: Table 10-8. -/
@[reducible] def R.ccPAuthFail (i : Nat) : Nat := 0x9101C + 0x100 * i
/-- CC_P_REPLAY: Table 10-8. -/
@[reducible] def R.ccPReplay (i : Nat) : Nat := 0x91020 + 0x100 * i
/-- CC_P_CTL_ERR: Table 10-8. -/
@[reducible] def R.ccPCtlErr (i : Nat) : Nat := 0x91024 + 0x100 * i
/-- CC_P_REKEY_CNT: Table 10-8. -/
@[reducible] def R.ccPRekeyCnt (i : Nat) : Nat := 0x91028 + 0x100 * i
/-- LF_STAT: Table 11-9. -/
@[reducible] def R.lfStat (p : Nat) : Nat := 0x100000 + 0x40000 * p
/-- LF_GRP_CFG: Table 11-9. -/
@[reducible] def R.lfGrpCfg (p : Nat) : Nat := 0x100004 + 0x40000 * p
/-- LF_DEG_CFG: Table 11-9. -/
@[reducible] def R.lfDegCfg (p : Nat) : Nat := 0x100008 + 0x40000 * p
/-- LF_DEF_CFG: Table 11-9. -/
@[reducible] def R.lfDefCfg (p : Nat) : Nat := 0x10000C + 0x40000 * p
/-- LF_DEF_IRQ: Table 11-9. -/
@[reducible] def R.lfDefIrq (p : Nat) : Nat := 0x100010 + 0x40000 * p
/-- LF_GDEF: Table 11-9. -/
@[reducible] def R.lfGdef (p : Nat) : Nat := 0x100014 + 0x40000 * p
/-- LF_GDEF_STICKY: Table 11-9. -/
@[reducible] def R.lfGdefSticky (p : Nat) : Nat := 0x100018 + 0x40000 * p
/-- LF_MEM_STICKY: Table 11-9. -/
@[reducible] def R.lfMemSticky (p : Nat) : Nat := 0x10001C + 0x40000 * p
/-- LF_GID: Table 11-9. -/
@[reducible] def R.lfGid (p : Nat) : Nat := 0x100020 + 0x40000 * p
/-- LF_EXP_GID: Table 11-9. -/
@[reducible] def R.lfExpGid (p : Nat) : Nat := 0x100024 + 0x40000 * p
/-- LF_PROV_MAP: Table 11-9. -/
@[reducible] def R.lfProvMap (p : Nat) : Nat := 0x100028 + 0x40000 * p
/-- LF_TX_MAP: Table 11-9. -/
@[reducible] def R.lfTxMap (p : Nat) : Nat := 0x10002C + 0x40000 * p
/-- LF_RX_MAP: Table 11-9. -/
@[reducible] def R.lfRxMap (p : Nat) : Nat := 0x100030 + 0x40000 * p
/-- LF_RX_REQ: Table 11-9. -/
@[reducible] def R.lfRxReq (p : Nat) : Nat := 0x100034 + 0x40000 * p
/-- LF_PEER_REQ: Table 11-9. -/
@[reducible] def R.lfPeerReq (p : Nat) : Nat := 0x100038 + 0x40000 * p
/-- LF_PLAN_MAP: Table 11-9. -/
@[reducible] def R.lfPlanMap (p : Nat) : Nat := 0x10003C + 0x40000 * p
/-- LF_MFC: Table 11-9. -/
@[reducible] def R.lfMfc (p : Nat) : Nat := 0x100040 + 0x40000 * p
/-- LF_PM_CTL: Table 11-9. -/
@[reducible] def R.lfPmCtl (p : Nat) : Nat := 0x100050 + 0x40000 * p
/-- LF_PLAN_REFUSE_CNT: Table 11-9. -/
@[reducible] def R.lfPlanRefuseCnt (p : Nat) : Nat := 0x100054 + 0x40000 * p
/-- LF_BREAK_CNT: Table 11-9. -/
@[reducible] def R.lfBreakCnt (p : Nat) : Nat := 0x100058 + 0x40000 * p
/-- LF_TSI_STAT: Table 11-9. -/
@[reducible] def R.lfTsiStat (p : Nat) : Nat := 0x100060 + 0x40000 * p
/-- LF_M_TRACE: Table 11-9. -/
@[reducible] def R.lfMTrace (p : Nat) (i : Nat) : Nat := 0x102000 + 0x40000 * p + 0x4 * i
/-- LF_M_DEF: Table 11-10. -/
@[reducible] def R.lfMDef (p : Nat) (i : Nat) : Nat := 0x101000 + 0x40000 * p + 0x40 * i
/-- LF_M_DEF_STICKY: Table 11-10. -/
@[reducible] def R.lfMDefSticky (p : Nat) (i : Nat) : Nat := 0x101004 + 0x40000 * p + 0x40 * i
/-- LF_M_STAT: Table 11-10. -/
@[reducible] def R.lfMStat (p : Nat) (i : Nat) : Nat := 0x101008 + 0x40000 * p + 0x40 * i
/-- LF_M_SKEW: Table 11-10. -/
@[reducible] def R.lfMSkew (p : Nat) (i : Nat) : Nat := 0x10100C + 0x40000 * p + 0x40 * i
/-- LF_M_BER: Table 11-10. -/
@[reducible] def R.lfMBer (p : Nat) (i : Nat) : Nat := 0x101010 + 0x40000 * p + 0x40 * i
/-- LF_M_SBIP: Table 11-10. -/
@[reducible] def R.lfMSbip (p : Nat) (i : Nat) : Nat := 0x101014 + 0x40000 * p + 0x40 * i
/-- LF_M_PBIP: Table 11-10. -/
@[reducible] def R.lfMPbip (p : Nat) (i : Nat) : Nat := 0x101018 + 0x40000 * p + 0x40 * i
/-- LF_M_SREI: Table 11-10. -/
@[reducible] def R.lfMSrei (p : Nat) (i : Nat) : Nat := 0x10101C + 0x40000 * p + 0x40 * i
/-- LF_M_PREI: Table 11-10. -/
@[reducible] def R.lfMPrei (p : Nat) (i : Nat) : Nat := 0x101020 + 0x40000 * p + 0x40 * i
/-- LO_STAT: Table 12-9. -/
@[reducible] def R.loStat (p : Nat) : Nat := 0x180000 + 0x40000 * p
/-- LO_STICKY: Table 12-9. -/
@[reducible] def R.loSticky (p : Nat) : Nat := 0x180004 + 0x40000 * p
/-- LO_COMB_STAT: Table 12-9. -/
@[reducible] def R.loCombStat (p : Nat) : Nat := 0x180008 + 0x40000 * p
/-- LO_COMB_CFG: Table 12-9. -/
@[reducible] def R.loCombCfg (p : Nat) : Nat := 0x18000C + 0x40000 * p
/-- LO_TUNE_CTL: Table 12-9. -/
@[reducible] def R.loTuneCtl (p : Nat) : Nat := 0x180010 + 0x40000 * p
/-- LO_CAL_CTL: Table 12-9. -/
@[reducible] def R.loCalCtl (p : Nat) : Nat := 0x180014 + 0x40000 * p
/-- LO_CAL_STAT: Table 12-9. -/
@[reducible] def R.loCalStat (p : Nat) : Nat := 0x180018 + 0x40000 * p
/-- LO_RX_CFG: Table 12-9. -/
@[reducible] def R.loRxCfg (p : Nat) : Nat := 0x18001C + 0x40000 * p
/-- LO_SAFE_CFG: Table 12-9. -/
@[reducible] def R.loSafeCfg (p : Nat) : Nat := 0x180020 + 0x40000 * p
/-- LO_REFL_CFG: Table 12-9. -/
@[reducible] def R.loReflCfg (p : Nat) : Nat := 0x180024 + 0x40000 * p
/-- LO_TOTAL_LAUNCH: Table 12-9. -/
@[reducible] def R.loTotalLaunch (p : Nat) : Nat := 0x180028 + 0x40000 * p
/-- LO_AGE_EOL_HRS: Table 12-9. -/
@[reducible] def R.loAgeEolHrs (p : Nat) : Nat := 0x180030 + 0x40000 * p
/-- LO_AGE_ONHRS_MAIN: Table 12-9. -/
@[reducible] def R.loAgeOnhrsMain (p : Nat) : Nat := 0x180034 + 0x40000 * p
/-- LO_AGE_ONHRS_SPARE: Table 12-9. -/
@[reducible] def R.loAgeOnhrsSpare (p : Nat) : Nat := 0x180038 + 0x40000 * p
/-- LO_BIAS_EOL: Table 12-9. -/
@[reducible] def R.loBiasEol (p : Nat) : Nat := 0x18003C + 0x40000 * p
/-- LO_COMB_SWITCH_CNT: Table 12-9. -/
@[reducible] def R.loCombSwitchCnt (p : Nat) : Nat := 0x180040 + 0x40000 * p
/-- LO_CAL_CNT: Table 12-9. -/
@[reducible] def R.loCalCnt (p : Nat) : Nat := 0x180044 + 0x40000 * p
/-- LO_CAL_SKIP_CNT: Table 12-9. -/
@[reducible] def R.loCalSkipCnt (p : Nat) : Nat := 0x180048 + 0x40000 * p
/-- LO_RELOCK_CNT: Table 12-9. -/
@[reducible] def R.loRelockCnt (p : Nat) : Nat := 0x18004C + 0x40000 * p
/-- LO_SAFE_CNT: Table 12-9. -/
@[reducible] def R.loSafeCnt (p : Nat) : Nat := 0x180050 + 0x40000 * p
/-- LO_BND_LAUNCH: Table 12-9. -/
@[reducible] def R.loBndLaunch (p : Nat) : Nat := 0x180060 + 0x40000 * p
/-- LO_BND_BIAS: Table 12-9. -/
@[reducible] def R.loBndBias (p : Nat) : Nat := 0x180064 + 0x40000 * p
/-- LO_BND_HEATER: Table 12-9. -/
@[reducible] def R.loBndHeater (p : Nat) : Nat := 0x180068 + 0x40000 * p
/-- LO_M_STAT: Table 12-10. -/
@[reducible] def R.loMStat (p : Nat) (i : Nat) : Nat := 0x181000 + 0x40000 * p + 0x40 * i
/-- LO_M_LAUNCH: Table 12-10. -/
@[reducible] def R.loMLaunch (p : Nat) (i : Nat) : Nat := 0x181004 + 0x40000 * p + 0x40 * i
/-- LO_M_RXPWR: Table 12-10. -/
@[reducible] def R.loMRxpwr (p : Nat) (i : Nat) : Nat := 0x181008 + 0x40000 * p + 0x40 * i
/-- LO_M_FOFF: Table 12-10. -/
@[reducible] def R.loMFoff (p : Nat) (i : Nat) : Nat := 0x18100C + 0x40000 * p + 0x40 * i
/-- LO_M_CD: Table 12-10. -/
@[reducible] def R.loMCd (p : Nat) (i : Nat) : Nat := 0x181010 + 0x40000 * p + 0x40 * i
/-- LO_M_DGD: Table 12-10. -/
@[reducible] def R.loMDgd (p : Nat) (i : Nat) : Nat := 0x181014 + 0x40000 * p + 0x40 * i
/-- LO_M_HEAT_TX: Table 12-10. -/
@[reducible] def R.loMHeatTx (p : Nat) (i : Nat) : Nat := 0x181018 + 0x40000 * p + 0x40 * i
/-- LO_M_HEAT_LO: Table 12-10. -/
@[reducible] def R.loMHeatLo (p : Nat) (i : Nat) : Nat := 0x18101C + 0x40000 * p + 0x40 * i
/-- LO_M_HEAT_RX: Table 12-10. -/
@[reducible] def R.loMHeatRx (p : Nat) (i : Nat) : Nat := 0x181020 + 0x40000 * p + 0x40 * i
/-- LO_M_CORR_LO: Table 12-10. -/
@[reducible] def R.loMCorrLo (p : Nat) (i : Nat) : Nat := 0x181024 + 0x40000 * p + 0x40 * i
/-- LO_M_CORR_HI: Table 12-10. -/
@[reducible] def R.loMCorrHi (p : Nat) (i : Nat) : Nat := 0x181028 + 0x40000 * p + 0x40 * i
/-- LO_M_UNCORR: Table 12-10. -/
@[reducible] def R.loMUncorr (p : Nat) (i : Nat) : Nat := 0x18102C + 0x40000 * p + 0x40 * i
/-- SEC_STAT: Table 13-9. -/
@[reducible] def R.secStat : Nat := 0x200000
/-- SEC_TAMPER_STAT: Table 13-9. -/
@[reducible] def R.secTamperStat : Nat := 0x200004
/-- SEC_TAMPER_CAUSE: Table 13-9. -/
@[reducible] def R.secTamperCause : Nat := 0x200008
/-- SEC_TAMPER_CNT: Table 13-9. -/
@[reducible] def R.secTamperCnt : Nat := 0x20000C
/-- SEC_KX_CTL: Table 13-9. -/
@[reducible] def R.secKxCtl : Nat := 0x200010
/-- SEC_FW_SVN: Table 13-9. -/
@[reducible] def R.secFwSvn : Nat := 0x200014
/-- SEC_SVN_COMMIT: Table 13-9. -/
@[reducible] def R.secSvnCommit : Nat := 0x200018
/-- SEC_COMPAT: Table 13-9. -/
@[reducible] def R.secCompat : Nat := 0x20001C
/-- SEC_SERIAL: Table 13-9. -/
@[reducible] def R.secSerial (i : Nat) : Nat := 0x200020 + 0x4 * i
/-- SEC_BOOT_CNT: Table 13-9. -/
@[reducible] def R.secBootCnt : Nat := 0x200030
/-- SEC_GW: Table 13-9. -/
@[reducible] def R.secGw : Nat := 0x200034
/-- SEC_ATTEST_CNT: Table 13-9. -/
@[reducible] def R.secAttestCnt : Nat := 0x200040
/-- SEC_KX_FAIL_CNT: Table 13-9. -/
@[reducible] def R.secKxFailCnt : Nat := 0x200044
/-- SEC_KX_IGNORE_CNT: Table 13-9. -/
@[reducible] def R.secKxIgnoreCnt : Nat := 0x200048
/-- SEC_MR3_EXT: Table 13-9. -/
@[reducible] def R.secMr3Ext (i : Nat) : Nat := 0x200080 + 0x4 * i
/-- SEC_P_KX_STAT: Table 13-9. -/
@[reducible] def R.secPKxStat (i : Nat) : Nat := 0x200100 + 0x10 * i
/-- MEM_STAT: Table 14-8. -/
@[reducible] def R.memStat : Nat := 0x240000
/-- MEM_CAP: Table 14-8. -/
@[reducible] def R.memCap : Nat := 0x240004
/-- MEM_BW_FRAC: Table 14-8. -/
@[reducible] def R.memBwFrac : Nat := 0x240008
/-- MEM_RETIRE_CTL: Table 14-8. -/
@[reducible] def R.memRetireCtl : Nat := 0x24000C
/-- MEM_BW_RSV: Table 14-8. -/
@[reducible] def R.memBwRsv : Nat := 0x240010
/-- MEM_SCRUB_PASS: Table 14-8. -/
@[reducible] def R.memScrubPass : Nat := 0x240014
/-- MEM_POISON_CNT: Table 14-8. -/
@[reducible] def R.memPoisonCnt : Nat := 0x240018
/-- MEM_IRQ: Table 14-8. -/
@[reducible] def R.memIrq : Nat := 0x24001C
/-- MEM_S_STAT: Table 14-9. -/
@[reducible] def R.memSStat (i : Nat) : Nat := 0x241000 + 0x100 * i
/-- MEM_S_RETIRE: Table 14-9. -/
@[reducible] def R.memSRetire (i : Nat) : Nat := 0x241004 + 0x100 * i
/-- MEM_S_CE_CNT: Table 14-9. -/
@[reducible] def R.memSCeCnt (i : Nat) : Nat := 0x241008 + 0x100 * i
/-- MEM_S_UE_CNT: Table 14-9. -/
@[reducible] def R.memSUeCnt (i : Nat) : Nat := 0x24100C + 0x100 * i
/-- MEM_S_SCRUB_UE: Table 14-9. -/
@[reducible] def R.memSScrubUe (i : Nat) : Nat := 0x241010 + 0x100 * i
/-- MEM_S_LAST_UE_LO: Table 14-9. -/
@[reducible] def R.memSLastUeLo (i : Nat) : Nat := 0x241014 + 0x100 * i
/-- MEM_S_LAST_UE_HI: Table 14-9. -/
@[reducible] def R.memSLastUeHi (i : Nat) : Nat := 0x241018 + 0x100 * i
/-- MEM_S_MIG_LEFT: Table 14-9. -/
@[reducible] def R.memSMigLeft (i : Nat) : Nat := 0x24101C + 0x100 * i
/-- SR_STAT: Table 14-10. -/
@[reducible] def R.srStat : Nat := 0x248000
/-- SR_CE_CNT: Table 14-10. -/
@[reducible] def R.srCeCnt : Nat := 0x248004
/-- SR_UE_CNT: Table 14-10. -/
@[reducible] def R.srUeCnt : Nat := 0x248008
/-- SR_SCRUB_PASS: Table 14-10. -/
@[reducible] def R.srScrubPass : Nat := 0x24800C
/-- SR_REPAIR_USED: Table 14-10. -/
@[reducible] def R.srRepairUsed : Nat := 0x248010
/-- SR_M_NONOWN: Table 14-10. -/
@[reducible] def R.srMNonown (i : Nat) : Nat := 0x24A000 + 0x8 * i
/-- SR_M_CONF: Table 14-10. -/
@[reducible] def R.srMConf (i : Nat) : Nat := 0x24A004 + 0x8 * i
/-- SR_BANK_OWN: Table 14-10. -/
@[reducible] def R.srBankOwn (i : Nat) : Nat := 0x24C000 + 0x4 * i
/-- SR_BANK_OWN_P1: Table 14-10. -/
@[reducible] def R.srBankOwnP1 (i : Nat) : Nat := 0x24CD00 + 0x4 * i
/-- BM_STAT: Table 14-11. -/
@[reducible] def R.bmStat : Nat := 0x220000
/-- BM_SCR_BANKS: Table 14-11. -/
@[reducible] def R.bmScrBanks : Nat := 0x220004
/-- BM_POOL_CFG: Table 14-11. -/
@[reducible] def R.bmPoolCfg (i : Nat) : Nat := 0x220010 + 0x4 * i
/-- BM_POOL_FREE: Table 14-11. -/
@[reducible] def R.bmPoolFree (i : Nat) : Nat := 0x220040 + 0x4 * i
/-- BM_POOL_TOTAL: Table 14-11. -/
@[reducible] def R.bmPoolTotal (i : Nat) : Nat := 0x220060 + 0x4 * i
/-- BM_SPILL_CNT: Table 14-11. -/
@[reducible] def R.bmSpillCnt : Nat := 0x220080
/-- BM_NOBUF_CNT: Table 14-11. -/
@[reducible] def R.bmNobufCnt : Nat := 0x220084
/-- BM_ERR_CNT: Table 14-11. -/
@[reducible] def R.bmErrCnt : Nat := 0x220088
/-- BM_ERR_IRQ: Table 14-11. -/
@[reducible] def R.bmErrIrq : Nat := 0x22008C
/-- BM_ERR_OWNER: Table 14-11. -/
@[reducible] def R.bmErrOwner : Nat := 0x220090
/-- BM_ERR_REQ: Table 14-11. -/
@[reducible] def R.bmErrReq : Nat := 0x220094
/-- BM_ERR_HANDLE_LO: Table 14-11. -/
@[reducible] def R.bmErrHandleLo : Nat := 0x220098
/-- BM_ERR_HANDLE_HI: Table 14-11. -/
@[reducible] def R.bmErrHandleHi : Nat := 0x22009C
/-- BM_ERR_AGE: Table 14-11. -/
@[reducible] def R.bmErrAge : Nat := 0x2200A0
/-- BM_AUDIT_STAT: Table 14-11. -/
@[reducible] def R.bmAuditStat : Nat := 0x2200C0
/-- BM_AUDIT_AGE: Table 14-11. -/
@[reducible] def R.bmAuditAge (i : Nat) : Nat := 0x2200E0 + 0x4 * i
/-- TU_STAT: Table 15-5. -/
@[reducible] def R.tuStat : Nat := 0x260000
/-- TU_STICKY: Table 15-5. -/
@[reducible] def R.tuSticky : Nat := 0x260004
/-- TU_NOW_NS: Table 15-5. -/
@[reducible] def R.tuNowNs : Nat := 0x260008
/-- TU_NOW_SUBNS: Table 15-5. -/
@[reducible] def R.tuNowSubns : Nat := 0x26000C
/-- TU_NOW_SEC0: Table 15-5. -/
@[reducible] def R.tuNowSec0 : Nat := 0x260010
/-- TU_NOW_SEC1: Table 15-5. -/
@[reducible] def R.tuNowSec1 : Nat := 0x260014
/-- TU_SLEW: Table 15-5. -/
@[reducible] def R.tuSlew : Nat := 0x260020
/-- TU_STEP_CFG: Table 15-5. -/
@[reducible] def R.tuStepCfg : Nat := 0x260024
/-- TU_LOCK_CFG: Table 15-5. -/
@[reducible] def R.tuLockCfg : Nat := 0x260028
/-- TU_DOM_CTL: Table 15-5. -/
@[reducible] def R.tuDomCtl : Nat := 0x26002C
/-- TU_FREQ_ADJ: Table 15-5. -/
@[reducible] def R.tuFreqAdj : Nat := 0x260030
/-- TU_D_STAT: Table 15-5. -/
@[reducible] def R.tuDStat (i : Nat) : Nat := 0x260040 + 0x20 * i
/-- TU_D_OFFSET: Table 15-5. -/
@[reducible] def R.tuDOffset (i : Nat) : Nat := 0x260044 + 0x20 * i
/-- TU_D_MPD: Table 15-5. -/
@[reducible] def R.tuDMpd (i : Nat) : Nat := 0x260048 + 0x20 * i
/-- TU_D_GM_LO: Table 15-5. -/
@[reducible] def R.tuDGmLo (i : Nat) : Nat := 0x26004C + 0x20 * i
/-- TU_D_GM_HI: Table 15-5. -/
@[reducible] def R.tuDGmHi (i : Nat) : Nat := 0x260050 + 0x20 * i
/-- TU_D_SYNC_CNT: Table 15-5. -/
@[reducible] def R.tuDSyncCnt (i : Nat) : Nat := 0x260054 + 0x20 * i
/-- TU_D_LOSS_CNT: Table 15-5. -/
@[reducible] def R.tuDLossCnt (i : Nat) : Nat := 0x260058 + 0x20 * i
/-- TU_ETH_ADJ: Table 15-5. -/
@[reducible] def R.tuEthAdj (i : Nat) : Nat := 0x260100 + 0x4 * i
/-- TU_TC_CTL: Table 15-5. -/
@[reducible] def R.tuTcCtl : Nat := 0x260110
/-- TU_TC_FWD_CNT: Table 15-5. -/
@[reducible] def R.tuTcFwdCnt : Nat := 0x260114
/-- TU_TC_DROP_CNT: Table 15-5. -/
@[reducible] def R.tuTcDropCnt : Nat := 0x260118
/-- TU_TC_2STEP_CNT: Table 15-5. -/
@[reducible] def R.tuTc2stepCnt : Nat := 0x26011C
/-- TU_FAB_CFG: Table 15-5. -/
@[reducible] def R.tuFabCfg : Nat := 0x260120
/-- TU_FAB_PORTS: Table 15-5. -/
@[reducible] def R.tuFabPorts : Nat := 0x260124
/-- TU_FAB_TX_ADJ: Table 15-5. -/
@[reducible] def R.tuFabTxAdj : Nat := 0x260128
/-- TU_FAB_MSG_CNT: Table 15-5. -/
@[reducible] def R.tuFabMsgCnt : Nat := 0x26012C
/-- TU_PO_STAT: Table 15-5. -/
@[reducible] def R.tuPoStat (i : Nat) : Nat := 0x260200 + 0x10 * i
/-- TU_PO_MISS_CNT: Table 15-5. -/
@[reducible] def R.tuPoMissCnt (i : Nat) : Nat := 0x260204 + 0x10 * i
/-- TU_PI_CTL: Table 15-5. -/
@[reducible] def R.tuPiCtl (i : Nat) : Nat := 0x260300 + 0x20 * i
/-- TU_PI_TS_NS: Table 15-5. -/
@[reducible] def R.tuPiTsNs (i : Nat) : Nat := 0x260304 + 0x20 * i
/-- TU_PI_TS_SUBNS: Table 15-5. -/
@[reducible] def R.tuPiTsSubns (i : Nat) : Nat := 0x260308 + 0x20 * i
/-- TU_PI_TS_SEC0: Table 15-5. -/
@[reducible] def R.tuPiTsSec0 (i : Nat) : Nat := 0x26030C + 0x20 * i
/-- TU_PI_TS_SEC1: Table 15-5. -/
@[reducible] def R.tuPiTsSec1 (i : Nat) : Nat := 0x260310 + 0x20 * i
/-- TU_PI_OVF_CNT: Table 15-5. -/
@[reducible] def R.tuPiOvfCnt (i : Nat) : Nat := 0x260314 + 0x20 * i
/-- PCR_STAT: Table 16-10. -/
@[reducible] def R.pcrStat : Nat := 0x280000
/-- PCR_STICKY: Table 16-10. -/
@[reducible] def R.pcrSticky : Nat := 0x280004
/-- PCR_BOOT_STAT: Table 16-10. -/
@[reducible] def R.pcrBootStat : Nat := 0x280008
/-- PCR_CLK_SET: Table 16-10. -/
@[reducible] def R.pcrClkSet : Nat := 0x28000C
/-- PCR_CLK_NOW: Table 16-10. -/
@[reducible] def R.pcrClkNow : Nat := 0x280010
/-- PCR_PLL_STAT: Table 16-10. -/
@[reducible] def R.pcrPllStat : Nat := 0x280014
/-- PCR_REF_STAT: Table 16-10. -/
@[reducible] def R.pcrRefStat : Nat := 0x280018
/-- PCR_TOK_GRANT: Table 16-10. -/
@[reducible] def R.pcrTokGrant : Nat := 0x280020
/-- PCR_TOK_MAX: Table 16-10. -/
@[reducible] def R.pcrTokMax : Nat := 0x280024
/-- PCR_TOK_SHORT_CNT: Table 16-10. -/
@[reducible] def R.pcrTokShortCnt : Nat := 0x280028
/-- PCR_PKG_LIMIT: Table 16-10. -/
@[reducible] def R.pcrPkgLimit : Nat := 0x280030
/-- PCR_PWR_W: Table 16-10. -/
@[reducible] def R.pcrPwrW : Nat := 0x280034
/-- PCR_VCORE: Table 16-10. -/
@[reducible] def R.pcrVcore : Nat := 0x280038
/-- PCR_IMODEL: Table 16-10. -/
@[reducible] def R.pcrImodel : Nat := 0x28003C
/-- PCR_RAMP_CFG: Table 16-10. -/
@[reducible] def R.pcrRampCfg : Nat := 0x280040
/-- PCR_RAMP_HOLD_US: Table 16-10. -/
@[reducible] def R.pcrRampHoldUs : Nat := 0x280044
/-- PCR_TJ: Table 16-10. -/
@[reducible] def R.pcrTj : Nat := 0x280050
/-- PCR_THR_CFG: Table 16-10. -/
@[reducible] def R.pcrThrCfg : Nat := 0x280054
/-- PCR_THR_MEMFRAC: Table 16-10. -/
@[reducible] def R.pcrThrMemfrac : Nat := 0x280058
/-- PCR_THR_MS: Table 16-10. -/
@[reducible] def R.pcrThrMs : Nat := 0x28005C
/-- PCR_BND_PWR: Table 16-10. -/
@[reducible] def R.pcrBndPwr : Nat := 0x280060
/-- PCR_BND_AVS: Table 16-10. -/
@[reducible] def R.pcrBndAvs : Nat := 0x280064
/-- PCR_BND_HCF: Table 16-10. -/
@[reducible] def R.pcrBndHcf : Nat := 0x280068
/-- PCR_WAKE: Table 16-10. -/
@[reducible] def R.pcrWake : Nat := 0x280070
/-- DBG_CTL: Table 17-10. -/
@[reducible] def R.dbgCtl : Nat := 0x2A0000
/-- DBG_FROZEN: Table 17-10. -/
@[reducible] def R.dbgFrozen : Nat := 0x2A0004
/-- DBG_HANG_STAT: Table 17-10. -/
@[reducible] def R.dbgHangStat : Nat := 0x2A0008
/-- DBG_HANG_IRQ: Table 17-10. -/
@[reducible] def R.dbgHangIrq : Nat := 0x2A000C
/-- DBG_CP_WD_CNT: Table 17-10. -/
@[reducible] def R.dbgCpWdCnt : Nat := 0x2A0010
/-- DBG_HANG_CNT: Table 17-10. -/
@[reducible] def R.dbgHangCnt : Nat := 0x2A0014
/-- DBG_TRACE_STAT: Table 17-10. -/
@[reducible] def R.dbgTraceStat : Nat := 0x2A0020
/-- DBG_TRACE_WR_LO: Table 17-10. -/
@[reducible] def R.dbgTraceWrLo : Nat := 0x2A0024
/-- DBG_TRACE_WR_HI: Table 17-10. -/
@[reducible] def R.dbgTraceWrHi : Nat := 0x2A0028
/-- DBG_TRACE_RD_LO: Table 17-10. -/
@[reducible] def R.dbgTraceRdLo : Nat := 0x2A002C
/-- DBG_TRACE_RD_HI: Table 17-10. -/
@[reducible] def R.dbgTraceRdHi : Nat := 0x2A0030
/-- DBG_TRACE_DROP: Table 17-10. -/
@[reducible] def R.dbgTraceDrop : Nat := 0x2A0034
/-- DBG_TRACE_OFFSET: Table 17-10. -/
@[reducible] def R.dbgTraceOffset : Nat := 0x2A0038
/-- DBG_TRACE_SW: Table 17-10. -/
@[reducible] def R.dbgTraceSw (i : Nat) : Nat := 0x2A0040 + 0x4 * i
/-- DBG_TRACE_SW_CMT: Table 17-10. -/
@[reducible] def R.dbgTraceSwCmt : Nat := 0x2A0050
/-- DBG_E_HANG_MS: Table 17-10. -/
@[reducible] def R.dbgEHangMs (i : Nat) : Nat := 0x2A1000 + 0x20 * i
/-- DBG_E_STALL_US: Table 17-10. -/
@[reducible] def R.dbgEStallUs (i : Nat) : Nat := 0x2A1004 + 0x20 * i
/-- DBG_E_DUMP_SIZE: Table 17-10. -/
@[reducible] def R.dbgEDumpSize (i : Nat) : Nat := 0x2A1008 + 0x20 * i
/-- DBG_E_FREEZE: Table 17-10. -/
@[reducible] def R.dbgEFreeze (i : Nat) : Nat := 0x2A100C + 0x20 * i
/-- HC_CORE_STAT: Table 17-11. -/
@[reducible] def R.hcCoreStat : Nat := 0x2C0000
/-- HC_CP_STAT: Table 17-11. -/
@[reducible] def R.hcCpStat : Nat := 0x2C0004
/-- HC_L2_CE_CNT: Table 17-11. -/
@[reducible] def R.hcL2CeCnt : Nat := 0x2C0010
/-- HC_L2_UE_CNT: Table 17-11. -/
@[reducible] def R.hcL2UeCnt : Nat := 0x2C0014
/-- HC_L3_CE_CNT: Table 17-11. -/
@[reducible] def R.hcL3CeCnt : Nat := 0x2C0018
/-- HC_L3_UE_CNT: Table 17-11. -/
@[reducible] def R.hcL3UeCnt : Nat := 0x2C001C
/-- HC_CP_WIN: Table 17-11. -/
@[reducible] def R.hcCpWin (i : Nat) : Nat := 0x2C0100 + 0x4 * i
/-- SYS_EVT_BASE_LO: Table 18-11. -/
@[reducible] def R.sysEvtBaseLo : Nat := 0x100
/-- SYS_EVT_BASE_HI: Table 18-11. -/
@[reducible] def R.sysEvtBaseHi : Nat := 0x104
/-- SYS_EVT_CFG: Table 18-11. -/
@[reducible] def R.sysEvtCfg : Nat := 0x108
/-- SYS_EVT_TAIL: Table 18-11. -/
@[reducible] def R.sysEvtTail : Nat := 0x10C
/-- SYS_EVT_HEAD: Table 18-11. -/
@[reducible] def R.sysEvtHead : Nat := 0x110
/-- SYS_EVT_DROP: Table 18-11. -/
@[reducible] def R.sysEvtDrop : Nat := 0x114
/-- SYS_HEALTH: Table 18-11. -/
@[reducible] def R.sysHealth : Nat := 0x118
/-- SYS_HEALTH_STICKY: Table 18-11. -/
@[reducible] def R.sysHealthSticky : Nat := 0x11C
/-- SYS_HEALTH_CFG: Table 18-11. -/
@[reducible] def R.sysHealthCfg : Nat := 0x120
/-- SYS_EOL_HRS: Table 18-11. -/
@[reducible] def R.sysEolHrs : Nat := 0x124
/-- SYS_UPTIME_S: Table 18-11. -/
@[reducible] def R.sysUptimeS : Nat := 0x128
/-- SYS_DIGEST_MM_CNT: Table 18-11. -/
@[reducible] def R.sysDigestMmCnt : Nat := 0x12C
/-- SYS_FENCE_TX_CNT: Table 18-11. -/
@[reducible] def R.sysFenceTxCnt : Nat := 0x130
/-- SYS_FENCE_RX_CNT: Table 18-11. -/
@[reducible] def R.sysFenceRxCnt : Nat := 0x134
/-- SYS_FENCE_REJ_CNT: Table 18-11. -/
@[reducible] def R.sysFenceRejCnt : Nat := 0x138
/-- SYS_SNAP_SEQ: Table 18-11. -/
@[reducible] def R.sysSnapSeq : Nat := 0x13C
/-- SYS_SNAP_MISS: Table 18-11. -/
@[reducible] def R.sysSnapMiss : Nat := 0x140

/-- The registers of block SYS. -/
def RegMap.sys : List RegEnt :=
  [⟨0x0, 0x0, 1, 0x0, 0x0, 0x0, 0x0, 0x0, 0xD640100⟩,
   ⟨0x4, 0x0, 1, 0x0, 0x0, 0x0, 0x0, 0x0, 0x20208218⟩,
   ⟨0x8, 0x0, 1, 0x0, 0x0, 0x0, 0x0, 0x0, 0x20020030⟩,
   ⟨0xC, 0x0, 1, 0x0, 0x0, 0x0, 0x0, 0x0, 0x16140400⟩,
   ⟨0x100, 0x0, 1, 0xFFFFFFE0, 0x0, 0x0, 0x0, 0x0, 0x0⟩,
   ⟨0x104, 0x0, 1, 0xFFFFFFFF, 0x0, 0x0, 0x0, 0x0, 0x0⟩,
   ⟨0x108, 0x0, 1, 0x87FF001F, 0x0, 0x0, 0x0, 0x0, 0x6⟩,
   ⟨0x10C, 0x0, 1, 0x0, 0x0, 0x0, 0x0, 0x0, 0x0⟩,
   ⟨0x110, 0x0, 1, 0xFFFFFFFF, 0x0, 0x0, 0x0, 0x0, 0x0⟩,
   ⟨0x114, 0x0, 1, 0x0, 0x0, 0x0, 0x0, 0xFFFFFFFF, 0x0⟩,
   ⟨0x118, 0x0, 1, 0x0, 0x0, 0x0, 0x0, 0x0, 0x0⟩,
   ⟨0x11C, 0x0, 1, 0x0, 0xFFF, 0x0, 0x0, 0x0, 0x0⟩,
   ⟨0x120, 0x0, 1, 0xFFFFFFFF, 0x0, 0x0, 0x0, 0x0, 0x3E8A000⟩,
   ⟨0x124, 0x0, 1, 0x0, 0x0, 0x0, 0x0, 0x0, 0xFFFFFFFF⟩,
   ⟨0x128, 0x0, 1, 0x0, 0x0, 0x0, 0x0, 0x0, 0x0⟩,
   ⟨0x12C, 0x0, 1, 0x0, 0x0, 0x0, 0x0, 0xFFFFFFFF, 0x0⟩,
   ⟨0x130, 0x0, 1, 0x0, 0x0, 0x0, 0x0, 0xFFFFFFFF, 0x0⟩,
   ⟨0x134, 0x0, 1, 0x0, 0x0, 0x0, 0x0, 0xFFFFFFFF, 0x0⟩,
   ⟨0x138, 0x0, 1, 0x0, 0x0, 0x0, 0x0, 0xFFFFFFFF, 0x0⟩,
   ⟨0x13C, 0x0, 1, 0x0, 0x0, 0x0, 0x0, 0x0, 0x0⟩,
   ⟨0x140, 0x0, 1, 0x0, 0x0, 0x0, 0x0, 0xFFFFFFFF, 0x0⟩]

/-- The registers of block CMD. -/
def RegMap.cmd : List RegEnt :=
  [⟨0x0, 0x0, 1, 0x0, 0x0, 0x0, 0x0, 0x0, 0xF0⟩,
   ⟨0x10, 0x4, 8, 0x0, 0xFFFFFFFF, 0x0, 0x0, 0x0, 0x0⟩,
   ⟨0x40, 0x0, 1, 0x0, 0x0, 0x0, 0x0, 0x0, 0x0⟩,
   ⟨0x44, 0x0, 1, 0x0, 0x0, 0x0, 0x0, 0x0, 0x0⟩,
   ⟨0x48, 0x0, 1, 0x7FF, 0x0, 0x0, 0x0, 0x0, 0x0⟩,
   ⟨0x1000, 0x40, 256, 0xFFFFFFC0, 0x0, 0x0, 0x0, 0x0, 0x0⟩,
   ⟨0x1004, 0x40, 256, 0xFFFFFFFF, 0x0, 0x0, 0x0, 0x0, 0x0⟩,
   ⟨0x1008, 0x40, 256, 0x981F0000, 0x0, 0x0, 0x0, 0x0, 0x40000⟩,
   ⟨0x100C, 0x40, 256, 0x0, 0x0, 0x0, 0x0, 0x0, 0x0⟩,
   ⟨0x1010, 0x40, 256, 0xFFFFFFE0, 0x0, 0x0, 0x0, 0x0, 0x0⟩,
   ⟨0x1014, 0x40, 256, 0xFFFFFFFF, 0x0, 0x0, 0x0, 0x0, 0x0⟩,
   ⟨0x1018, 0x40, 256, 0xFFFFFFFF, 0x0, 0x0, 0x0, 0x0, 0x40000⟩,
   ⟨0x101C, 0x40, 256, 0x0, 0x0, 0x0, 0x0, 0x0, 0x0⟩,
   ⟨0x1020, 0x40, 256, 0xFFFFFFFF, 0x0, 0x0, 0x0, 0x0, 0x0⟩,
   ⟨0x1024, 0x40, 256, 0x0, 0x0, 0x0, 0x0, 0x0, 0x2⟩,
   ⟨0x1028, 0x40, 256, 0x0, 0x0, 0x0, 0x0, 0xFFFFFFFF, 0x0⟩,
   ⟨0x8000, 0x4, 256, 0x0, 0x0, 0x0, 0xFFFFFFFF, 0x0, 0x0⟩]

/-- The registers of block FIF. -/
def RegMap.fif : List RegEnt :=
  [⟨0x0, 0x0, 1, 0x1, 0x0, 0x0, 0x0, 0x0, 0x1⟩,
   ⟨0x4, 0x0, 1, 0x3FFF, 0x0, 0x0, 0x0, 0x0, 0x64⟩,
   ⟨0x8, 0x0, 1, 0x0, 0x0, 0x0, 0x0, 0x0, 0x0⟩,
   ⟨0xC, 0x0, 1, 0xFFFFFFFF, 0x0, 0x0, 0x0, 0x0, 0xFFFFFFFF⟩,
   ⟨0x10, 0x0, 1, 0xFFFF, 0x0, 0x0, 0x0, 0x0, 0x0⟩,
   ⟨0x20, 0x4, 8, 0x3FF, 0x0, 0x0, 0x0, 0x0, 0x40⟩,
   ⟨0x40, 0x0, 1, 0x0, 0x0, 0x0, 0x0, 0xFFFFFFFF, 0x0⟩,
   ⟨0x44, 0x0, 1, 0x0, 0x0, 0x0, 0x0, 0xFFFFFFFF, 0x0⟩,
   ⟨0x48, 0x0, 1, 0x0, 0x0, 0x0, 0x0, 0xFFFFFFFF, 0x0⟩,
   ⟨0x4C, 0x0, 1, 0x0, 0x0, 0x0, 0x0, 0xFFFFFFFF, 0x0⟩,
   ⟨0x50, 0x0, 1, 0x0, 0x0, 0x0, 0x0, 0xFFFFFFFF, 0x0⟩,
   ⟨0x54, 0x0, 1, 0x0, 0x0, 0x0, 0x0, 0x0, 0x1000000⟩,
   ⟨0x58, 0x0, 1, 0x0, 0x0, 0x0, 0x0, 0xFFFFFFFF, 0x0⟩,
   ⟨0x1000, 0x40, 32, 0x0, 0x0, 0x0, 0x0, 0x0, 0x0⟩,
   ⟨0x1004, 0x40, 32, 0x0, 0x0, 0x0, 0x0, 0x0, 0x0⟩,
   ⟨0x1008, 0x40, 32, 0x0, 0x0, 0x0, 0x0, 0x0, 0x0⟩,
   ⟨0x100C, 0x40, 32, 0x0, 0x0, 0x0, 0x0, 0x0, 0x0⟩,
   ⟨0x1010, 0x40, 32, 0x0, 0x0, 0x0, 0x0, 0x0, 0x0⟩,
   ⟨0x1014, 0x40, 32, 0x0, 0x0, 0x0, 0x0, 0x0, 0x0⟩,
   ⟨0x1018, 0x40, 32, 0x0, 0x0, 0x0, 0x0, 0x0, 0x0⟩,
   ⟨0x101C, 0x40, 32, 0x0, 0x0, 0x0, 0x0, 0x0, 0x0⟩,
   ⟨0x1020, 0x40, 32, 0x0, 0x0, 0x0, 0x0, 0xFFFFFFFF, 0x0⟩,
   ⟨0x1024, 0x40, 32, 0x0, 0x0, 0x0, 0x0, 0xFFFFFFFF, 0x0⟩,
   ⟨0x1028, 0x40, 32, 0x0, 0x0, 0x0, 0x0, 0xFFFFFFFF, 0x0⟩] ++
  [⟨0x102C, 0x40, 32, 0x0, 0x0, 0x0, 0x0, 0xFFFFFFFF, 0x0⟩,
   ⟨0x1030, 0x40, 32, 0x0, 0x0, 0x0, 0x0, 0x0, 0x0⟩]

/-- The registers of block FWU. -/
def RegMap.fwu : List RegEnt :=
  [⟨0x0, 0x0, 1, 0xFFFFFF, 0x0, 0x0, 0x0, 0x0, 0x380032⟩,
   ⟨0x4, 0x0, 1, 0x3FFFF, 0x0, 0x0, 0x0, 0x0, 0x10000⟩,
   ⟨0x8, 0x0, 1, 0xFF, 0x0, 0x0, 0x0, 0x0, 0x28⟩,
   ⟨0x10, 0x0, 1, 0x0, 0x0, 0x0, 0x0, 0x0, 0x0⟩,
   ⟨0x14, 0x0, 1, 0x0, 0x0, 0x0, 0x0, 0x0, 0x0⟩,
   ⟨0x18, 0x0, 1, 0x0, 0x0, 0x0, 0x0, 0x0, 0x0⟩,
   ⟨0x1C, 0x0, 1, 0x0, 0x0, 0x0, 0x0, 0x0, 0x0⟩,
   ⟨0x20, 0x0, 1, 0x0, 0x0, 0x0, 0x0, 0xFFFFFFFF, 0x0⟩,
   ⟨0x24, 0x0, 1, 0x0, 0x0, 0x0, 0x0, 0xFFFFFFFF, 0x0⟩,
   ⟨0x28, 0x0, 1, 0x0, 0x0, 0x0, 0x0, 0xFFFFFFFF, 0x0⟩,
   ⟨0x2C, 0x0, 1, 0x0, 0x0, 0x0, 0x0, 0xFFFFFFFF, 0x0⟩,
   ⟨0x30, 0x0, 1, 0x0, 0x0, 0x0, 0x0, 0x0, 0x0⟩,
   ⟨0x34, 0x0, 1, 0x0, 0x0, 0x0, 0x0, 0x0, 0x0⟩,
   ⟨0x38, 0x0, 1, 0x0, 0x0, 0x0, 0x0, 0x0, 0x0⟩,
   ⟨0x3C, 0x0, 1, 0x0, 0x0, 0x0, 0x0, 0x0, 0x0⟩,
   ⟨0x40, 0x0, 1, 0x0, 0x0, 0x0, 0x0, 0x0, 0x0⟩,
   ⟨0x44, 0x0, 1, 0x0, 0x0, 0x0, 0x0, 0x0, 0x0⟩]

/-- The registers of block CE. -/
def RegMap.ce : List RegEnt :=
  [⟨0x0, 0x0, 1, 0xFFFFFF, 0x0, 0x0, 0x0, 0x0, 0x3800C8⟩,
   ⟨0x4, 0x0, 1, 0x7FF, 0x0, 0x0, 0x0, 0x0, 0x210⟩,
   ⟨0x8, 0x0, 1, 0xFFFFFFFF, 0x0, 0x0, 0x0, 0x0, 0x400020⟩,
   ⟨0x10, 0x0, 1, 0x0, 0x0, 0x0, 0x0, 0x0, 0x0⟩,
   ⟨0x14, 0x0, 1, 0x0, 0x0, 0x0, 0x0, 0x0, 0x0⟩,
   ⟨0x18, 0x0, 1, 0x0, 0x0, 0x0, 0x0, 0x0, 0x0⟩,
   ⟨0x20, 0x0, 1, 0x0, 0x0, 0x0, 0x0, 0xFFFFFFFF, 0x0⟩,
   ⟨0x24, 0x0, 1, 0x0, 0x0, 0x0, 0x0, 0xFFFFFFFF, 0x0⟩,
   ⟨0x28, 0x0, 1, 0x0, 0x0, 0x0, 0x0, 0xFFFFFFFF, 0x0⟩,
   ⟨0x2C, 0x0, 1, 0x0, 0x0, 0x0, 0x0, 0xFFFFFFFF, 0x0⟩,
   ⟨0x30, 0x0, 1, 0x0, 0x0, 0x0, 0x0, 0xFFFFFFFF, 0x0⟩,
   ⟨0x34, 0x0, 1, 0x0, 0x0, 0x0, 0x0, 0xFFFFFFFF, 0x0⟩,
   ⟨0x38, 0x0, 1, 0x0, 0x0, 0x0, 0x0, 0x0, 0x0⟩,
   ⟨0x3C, 0x0, 1, 0x0, 0x0, 0x0, 0x0, 0x0, 0x0⟩,
   ⟨0x40, 0x0, 1, 0x0, 0x0, 0x0, 0x0, 0x0, 0x0⟩,
   ⟨0x44, 0x0, 1, 0x0, 0x0, 0x0, 0x0, 0x0, 0x0⟩,
   ⟨0x100, 0x0, 1, 0x0, 0x0, 0x0, 0x0, 0xFFFFFFFF, 0x0⟩,
   ⟨0x104, 0x0, 1, 0x0, 0x0, 0x0, 0x0, 0xFFFFFFFF, 0x0⟩,
   ⟨0x108, 0x0, 1, 0x0, 0x0, 0x0, 0x0, 0xFFFFFFFF, 0x0⟩,
   ⟨0x10C, 0x0, 1, 0x0, 0x0, 0x0, 0x0, 0xFFFFFFFF, 0x0⟩,
   ⟨0x110, 0x0, 1, 0x0, 0x0, 0x0, 0x0, 0xFFFFFFFF, 0x0⟩,
   ⟨0x114, 0x0, 1, 0x0, 0x0, 0x0, 0x0, 0x0, 0x0⟩,
   ⟨0x118, 0x0, 1, 0x0, 0x0, 0x0, 0x0, 0x0, 0x0⟩,
   ⟨0x120, 0x0, 1, 0x0, 0x0, 0x0, 0x0, 0x0, 0x0⟩] ++
  [⟨0x124, 0x0, 1, 0x0, 0x0, 0x0, 0x0, 0x0, 0x0⟩,
   ⟨0x128, 0x0, 1, 0x0, 0x0, 0x0, 0x0, 0x0, 0x0⟩,
   ⟨0x12C, 0x0, 1, 0x0, 0x0, 0x0, 0x0, 0x0, 0x0⟩]

/-- The registers of block CX. -/
def RegMap.cx : List RegEnt :=
  [⟨0x0, 0x0, 1, 0x1FFF, 0x0, 0x0, 0x0, 0x0, 0x1000⟩,
   ⟨0x4, 0x0, 1, 0x7FF, 0x0, 0x0, 0x0, 0x0, 0x400⟩,
   ⟨0x8, 0x0, 1, 0x0, 0x0, 0x0, 0x0, 0x0, 0x0⟩,
   ⟨0x10, 0x0, 1, 0x0, 0x0, 0x0, 0x0, 0x0, 0x0⟩,
   ⟨0x14, 0x0, 1, 0x0, 0x0, 0x0, 0x0, 0x0, 0x0⟩,
   ⟨0x18, 0x0, 1, 0x0, 0x0, 0x0, 0x0, 0x0, 0x0⟩,
   ⟨0x1C, 0x0, 1, 0x0, 0x0, 0x0, 0x0, 0x0, 0x0⟩,
   ⟨0x20, 0x0, 1, 0x0, 0x0, 0x0, 0x0, 0x0, 0x0⟩,
   ⟨0x24, 0x0, 1, 0x0, 0x0, 0x0, 0x0, 0x0, 0x0⟩,
   ⟨0x28, 0x0, 1, 0x0, 0x0, 0x0, 0x0, 0x0, 0x0⟩,
   ⟨0x2C, 0x0, 1, 0x0, 0x0, 0x0, 0x0, 0x0, 0x0⟩,
   ⟨0x30, 0x0, 1, 0x0, 0x0, 0x0, 0x0, 0xFFFFFFFF, 0x0⟩,
   ⟨0x34, 0x0, 1, 0x0, 0x0, 0x0, 0x0, 0xFFFFFFFF, 0x0⟩,
   ⟨0x38, 0x0, 1, 0x0, 0x0, 0x0, 0x0, 0xFFFFFFFF, 0x0⟩,
   ⟨0x3C, 0x0, 1, 0x0, 0x0, 0x0, 0x0, 0xFFFFFFFF, 0x0⟩,
   ⟨0x40, 0x0, 1, 0x0, 0x0, 0x0, 0x0, 0xFFFFFFFF, 0x0⟩,
   ⟨0x44, 0x0, 1, 0x0, 0x0, 0x0, 0x0, 0xFFFFFFFF, 0x0⟩,
   ⟨0x48, 0x0, 1, 0x0, 0x0, 0x0, 0x0, 0xFFFFFFFF, 0x0⟩,
   ⟨0x80, 0x4, 10, 0x0, 0x0, 0x0, 0x0, 0xFFFFFFFF, 0x0⟩,
   ⟨0xC0, 0x0, 1, 0x0, 0x0, 0x0, 0x0, 0x0, 0x0⟩,
   ⟨0x100, 0x4, 32, 0x0, 0x0, 0x0, 0x0, 0x0, 0x0⟩,
   ⟨0x180, 0x4, 32, 0x0, 0x0, 0x0, 0x0, 0x0, 0x0⟩]

/-- The registers of block TE. -/
def RegMap.te : List RegEnt :=
  [⟨0x0, 0x0, 1, 0xFF00, 0x0, 0x0, 0x0, 0x0, 0x4B80⟩,
   ⟨0x4, 0x0, 1, 0xFFFF, 0x0, 0x0, 0x0, 0x0, 0x3E8⟩,
   ⟨0x8, 0x0, 1, 0x0, 0x0, 0x0, 0x0, 0x0, 0x60⟩,
   ⟨0xC, 0x0, 1, 0xFF, 0x0, 0x0, 0x0, 0x0, 0x48⟩,
   ⟨0x10, 0x0, 1, 0xFFFF, 0x0, 0x0, 0x0, 0x0, 0x100⟩,
   ⟨0x20, 0x0, 1, 0x0, 0x0, 0x0, 0x0, 0xFFFFFFFF, 0x0⟩,
   ⟨0x24, 0x0, 1, 0x0, 0x0, 0x0, 0x0, 0xFFFFFFFF, 0x0⟩,
   ⟨0x40, 0x4, 7, 0x0, 0x0, 0x0, 0x0, 0x0, 0x0⟩,
   ⟨0x1000, 0x100, 2, 0x0, 0x0, 0x0, 0x0, 0x0, 0x0⟩,
   ⟨0x1004, 0x100, 2, 0x0, 0x0, 0x0, 0x0, 0x0, 0x0⟩,
   ⟨0x1008, 0x100, 2, 0x0, 0x0, 0x0, 0x0, 0x0, 0x0⟩,
   ⟨0x100C, 0x100, 2, 0x0, 0x0, 0x0, 0x0, 0x0, 0x0⟩,
   ⟨0x1010, 0x100, 2, 0x0, 0x0, 0x0, 0x0, 0x0, 0x0⟩,
   ⟨0x1014, 0x100, 2, 0x0, 0x0, 0x0, 0x0, 0x0, 0x0⟩,
   ⟨0x1018, 0x100, 2, 0x0, 0x0, 0x0, 0x0, 0x0, 0x0⟩,
   ⟨0x101C, 0x100, 2, 0x0, 0x0, 0x0, 0x0, 0x0, 0x0⟩,
   ⟨0x1020, 0x100, 2, 0x0, 0x0, 0x0, 0x0, 0x0, 0x0⟩,
   ⟨0x1024, 0x100, 2, 0x0, 0x0, 0x0, 0x0, 0x0, 0x0⟩,
   ⟨0x1028, 0x100, 2, 0x0, 0x0, 0x0, 0x0, 0x0, 0x0⟩,
   ⟨0x102C, 0x100, 2, 0x0, 0x0, 0x0, 0x0, 0xFFFFFFFF, 0x0⟩,
   ⟨0x1030, 0x100, 2, 0x0, 0x0, 0x0, 0x0, 0xFFFFFFFF, 0x0⟩,
   ⟨0x1034, 0x100, 2, 0x0, 0x0, 0x0, 0x0, 0xFFFFFFFF, 0x0⟩,
   ⟨0x1038, 0x100, 2, 0x0, 0x0, 0x0, 0x0, 0xFFFFFFFF, 0x0⟩,
   ⟨0x103C, 0x100, 2, 0x0, 0x0, 0x0, 0x0, 0xFFFFFFFF, 0x0⟩] ++
  [⟨0x1040, 0x100, 2, 0x0, 0x0, 0x0, 0x0, 0xFFFFFFFF, 0x0⟩,
   ⟨0x1044, 0x100, 2, 0x0, 0x0, 0x0, 0x0, 0xFFFFFFFF, 0x0⟩,
   ⟨0x1048, 0x100, 2, 0x0, 0x0, 0x0, 0x0, 0xFFFFFFFF, 0x0⟩,
   ⟨0x104C, 0x100, 2, 0x0, 0x0, 0x0, 0x0, 0xFFFFFFFF, 0x0⟩,
   ⟨0x1050, 0x100, 2, 0x0, 0x0, 0x0, 0x0, 0xFFFFFFFF, 0x0⟩,
   ⟨0x1054, 0x100, 2, 0x0, 0x0, 0x0, 0x0, 0xFFFFFFFF, 0x0⟩,
   ⟨0x1058, 0x100, 2, 0x0, 0x0, 0x0, 0x0, 0xFFFFFFFF, 0x0⟩,
   ⟨0x105C, 0x100, 2, 0x0, 0x0, 0x0, 0x0, 0xFFFFFFFF, 0x0⟩,
   ⟨0x1060, 0x100, 2, 0x0, 0x0, 0x0, 0x0, 0x0, 0x0⟩,
   ⟨0x1064, 0x100, 2, 0x0, 0x0, 0x0, 0x0, 0x0, 0x0⟩,
   ⟨0x1068, 0x100, 2, 0x0, 0x0, 0x0, 0x0, 0x0, 0x0⟩,
   ⟨0x106C, 0x100, 2, 0x0, 0x0, 0x0, 0x0, 0x0, 0x0⟩]

/-- The registers of block SS. -/
def RegMap.ss : List RegEnt :=
  [⟨0x0, 0x0, 1, 0x7F, 0x0, 0x0, 0x0, 0x0, 0x5A⟩,
   ⟨0x4, 0x0, 1, 0x3FFF, 0x0, 0x0, 0x0, 0x0, 0x2A30⟩,
   ⟨0x8, 0x0, 1, 0x0, 0x40000000, 0x0, 0x0, 0x0, 0x10000⟩,
   ⟨0xC, 0x0, 1, 0x7FFFF, 0x0, 0x0, 0x0, 0x0, 0x4000⟩,
   ⟨0x10, 0x0, 1, 0x0, 0x0, 0x0, 0x0, 0x0, 0x200000⟩,
   ⟨0x14, 0x0, 1, 0x0, 0x0, 0x0, 0x0, 0x0, 0x0⟩,
   ⟨0x18, 0x0, 1, 0x0, 0x0, 0x0, 0x0, 0x0, 0x0⟩,
   ⟨0x1C, 0x0, 1, 0x0, 0x0, 0x0, 0x0, 0x0, 0x0⟩,
   ⟨0x20, 0x0, 1, 0x0, 0x0, 0x0, 0x0, 0xFFFFFFFF, 0x0⟩,
   ⟨0x1000, 0x100, 2, 0x7FFFFF, 0x0, 0x0, 0x0, 0x0, 0x61A800⟩,
   ⟨0x1004, 0x100, 2, 0x7FFFF, 0x0, 0x0, 0x0, 0x0, 0x1000⟩,
   ⟨0x1008, 0x100, 2, 0x7FF, 0x0, 0x0, 0x0, 0x0, 0x0⟩,
   ⟨0x100C, 0x100, 2, 0x7FFFFF, 0x0, 0x0, 0x0, 0x0, 0x4E200⟩,
   ⟨0x1010, 0x100, 2, 0x7FFFF, 0x0, 0x0, 0x0, 0x0, 0x400⟩,
   ⟨0x1014, 0x100, 2, 0x0, 0x0, 0x0, 0x0, 0xFFFFFFFF, 0x0⟩,
   ⟨0x1018, 0x100, 2, 0x0, 0x0, 0x0, 0x0, 0xFFFFFFFF, 0x0⟩,
   ⟨0x101C, 0x100, 2, 0x0, 0x0, 0x0, 0x0, 0xFFFFFFFF, 0x0⟩,
   ⟨0x1020, 0x100, 2, 0x0, 0x0, 0x0, 0x0, 0xFFFFFFFF, 0x0⟩,
   ⟨0x1024, 0x100, 2, 0x0, 0x0, 0x0, 0x0, 0xFFFFFFFF, 0x0⟩,
   ⟨0x1028, 0x100, 2, 0x0, 0x0, 0x0, 0x0, 0xFFFFFFFF, 0x0⟩,
   ⟨0x102C, 0x100, 2, 0x0, 0x0, 0x0, 0x0, 0xFFFFFFFF, 0x0⟩]

/-- The registers of block CC. -/
def RegMap.cc : List RegEnt :=
  [⟨0x0, 0x0, 1, 0xF, 0x0, 0x0, 0x0, 0x0, 0x6⟩,
   ⟨0x4, 0x0, 1, 0xFFE03FFF, 0x0, 0x0, 0x0, 0x0, 0xF32003E8⟩,
   ⟨0x8, 0x0, 1, 0x0, 0x0, 0x0, 0x0, 0x0, 0x0⟩,
   ⟨0x10, 0x0, 1, 0x0, 0x0, 0x0, 0x0, 0x0, 0x0⟩,
   ⟨0x14, 0x0, 1, 0x0, 0x0, 0x0, 0x0, 0x0, 0x0⟩,
   ⟨0x18, 0x0, 1, 0x0, 0x0, 0x0, 0x0, 0x0, 0x0⟩,
   ⟨0x1C, 0x0, 1, 0x0, 0x0, 0x0, 0x0, 0x0, 0x0⟩,
   ⟨0x20, 0x0, 1, 0x0, 0x0, 0x0, 0x0, 0xFFFFFFFF, 0x0⟩,
   ⟨0x24, 0x0, 1, 0x0, 0x0, 0x0, 0x0, 0xFFFFFFFF, 0x0⟩,
   ⟨0x1000, 0x100, 2, 0x0, 0x0, 0x0, 0x0, 0x0, 0x0⟩,
   ⟨0x1004, 0x100, 2, 0x0, 0x0, 0x0, 0x0, 0x0, 0x0⟩,
   ⟨0x1008, 0x100, 2, 0x0, 0x0, 0x0, 0x0, 0x0, 0x0⟩,
   ⟨0x100C, 0x100, 2, 0x0, 0x0, 0x0, 0x0, 0x0, 0x0⟩,
   ⟨0x1010, 0x100, 2, 0x0, 0x0, 0x0, 0x0, 0x0, 0x0⟩,
   ⟨0x1014, 0x100, 2, 0x0, 0x0, 0x0, 0x0, 0xFFFFFFFF, 0x0⟩,
   ⟨0x1018, 0x100, 2, 0x0, 0x0, 0x0, 0x0, 0xFFFFFFFF, 0x0⟩,
   ⟨0x101C, 0x100, 2, 0x0, 0x0, 0x0, 0x0, 0xFFFFFFFF, 0x0⟩,
   ⟨0x1020, 0x100, 2, 0x0, 0x0, 0x0, 0x0, 0xFFFFFFFF, 0x0⟩,
   ⟨0x1024, 0x100, 2, 0x0, 0x0, 0x0, 0x0, 0xFFFFFFFF, 0x0⟩,
   ⟨0x1028, 0x100, 2, 0x0, 0x0, 0x0, 0x0, 0xFFFFFFFF, 0x0⟩]

/-- The registers of block LF. -/
def RegMap.lf : List RegEnt :=
  [⟨0x0, 0x0, 1, 0x0, 0x0, 0x0, 0x0, 0x0, 0x0⟩,
   ⟨0x4, 0x0, 1, 0x3F3F, 0x0, 0x0, 0x0, 0x0, 0x1C08⟩,
   ⟨0x8, 0x0, 1, 0xFFFFFFFF, 0x0, 0x0, 0x0, 0x0, 0xA4B05DC⟩,
   ⟨0xC, 0x0, 1, 0x3, 0x0, 0x0, 0x0, 0x0, 0x0⟩,
   ⟨0x10, 0x0, 1, 0x1FFC03, 0x0, 0x0, 0x0, 0x0, 0x0⟩,
   ⟨0x14, 0x0, 1, 0x0, 0x0, 0x0, 0x0, 0x0, 0x1⟩,
   ⟨0x18, 0x0, 1, 0x0, 0x3, 0x0, 0x0, 0x0, 0x0⟩,
   ⟨0x1C, 0x0, 1, 0x0, 0x0, 0x0, 0x0, 0x0, 0x0⟩,
   ⟨0x20, 0x0, 1, 0x0, 0x0, 0x0, 0x0, 0x0, 0x0⟩,
   ⟨0x24, 0x0, 1, 0x0, 0x0, 0x0, 0x0, 0x0, 0x0⟩,
   ⟨0x28, 0x0, 1, 0x0, 0x0, 0x0, 0x0, 0x0, 0x0⟩,
   ⟨0x2C, 0x0, 1, 0x0, 0x0, 0x0, 0x0, 0x0, 0x0⟩,
   ⟨0x30, 0x0, 1, 0x0, 0x0, 0x0, 0x0, 0x0, 0x0⟩,
   ⟨0x34, 0x0, 1, 0x0, 0x0, 0x0, 0x0, 0x0, 0x0⟩,
   ⟨0x38, 0x0, 1, 0x0, 0x0, 0x0, 0x0, 0x0, 0x0⟩,
   ⟨0x3C, 0x0, 1, 0x0, 0x0, 0x0, 0x0, 0x0, 0x0⟩,
   ⟨0x40, 0x0, 1, 0x0, 0x0, 0x0, 0x0, 0x0, 0x0⟩,
   ⟨0x50, 0x0, 1, 0xFF, 0x0, 0x100, 0x0, 0x0, 0x1E⟩,
   ⟨0x54, 0x0, 1, 0x0, 0x0, 0x0, 0x0, 0xFFFFFFFF, 0x0⟩,
   ⟨0x58, 0x0, 1, 0x0, 0x0, 0x0, 0x0, 0xFFFFFFFF, 0x0⟩,
   ⟨0x60, 0x0, 1, 0x0, 0x0, 0x0, 0x0, 0x0, 0x0⟩,
   ⟨0x1000, 0x40, 32, 0x0, 0x0, 0x0, 0x0, 0x0, 0x1⟩,
   ⟨0x1004, 0x40, 32, 0x0, 0x1FF, 0x0, 0x0, 0x0, 0x0⟩,
   ⟨0x1008, 0x40, 32, 0x0, 0x0, 0x0, 0x0, 0x0, 0x0⟩] ++
  [⟨0x100C, 0x40, 32, 0x0, 0x0, 0x0, 0x0, 0x0, 0x0⟩,
   ⟨0x1010, 0x40, 32, 0x0, 0x0, 0x0, 0x0, 0x0, 0x0⟩,
   ⟨0x1014, 0x40, 32, 0x0, 0x0, 0x0, 0x0, 0xFFFFFFFF, 0x0⟩,
   ⟨0x1018, 0x40, 32, 0x0, 0x0, 0x0, 0x0, 0xFFFFFFFF, 0x0⟩,
   ⟨0x101C, 0x40, 32, 0x0, 0x0, 0x0, 0x0, 0xFFFFFFFF, 0x0⟩,
   ⟨0x1020, 0x40, 32, 0x0, 0x0, 0x0, 0x0, 0xFFFFFFFF, 0x0⟩,
   ⟨0x2000, 0x4, 512, 0x0, 0x0, 0x0, 0x0, 0x0, 0x0⟩]

/-- The registers of block LO. -/
def RegMap.lo : List RegEnt :=
  [⟨0x0, 0x0, 1, 0x0, 0x0, 0x0, 0x0, 0x0, 0x0⟩,
   ⟨0x4, 0x0, 1, 0x0, 0x7F, 0x0, 0x0, 0x0, 0x0⟩,
   ⟨0x8, 0x0, 1, 0x0, 0x0, 0x0, 0x0, 0x0, 0x0⟩,
   ⟨0xC, 0x0, 1, 0x13F, 0x0, 0x0, 0x0, 0x0, 0x118⟩,
   ⟨0x10, 0x0, 1, 0x0, 0x0, 0x0, 0x0, 0x0, 0x0⟩,
   ⟨0x14, 0x0, 1, 0xFFFF, 0x0, 0x0, 0x0, 0x0, 0x384⟩,
   ⟨0x18, 0x0, 1, 0x0, 0x0, 0x0, 0x0, 0x0, 0x0⟩,
   ⟨0x1C, 0x0, 1, 0xFFFF, 0x0, 0x0, 0x0, 0x0, 0xFF06⟩,
   ⟨0x20, 0x0, 1, 0x83FF0FFF, 0x0, 0x0, 0x0, 0x0, 0x6401F4⟩,
   ⟨0x24, 0x0, 1, 0xFF, 0x0, 0x0, 0x0, 0x0, 0xE⟩,
   ⟨0x28, 0x0, 1, 0x0, 0x0, 0x0, 0x0, 0x0, 0x0⟩,
   ⟨0x30, 0x0, 1, 0x0, 0x0, 0x0, 0x0, 0x0, 0xFFFFFFFF⟩,
   ⟨0x34, 0x0, 1, 0x0, 0x0, 0x0, 0x0, 0x0, 0x0⟩,
   ⟨0x38, 0x0, 1, 0x0, 0x0, 0x0, 0x0, 0x0, 0x0⟩,
   ⟨0x3C, 0x0, 1, 0x3FF, 0x0, 0x0, 0x0, 0x0, 0x208⟩,
   ⟨0x40, 0x0, 1, 0x0, 0x0, 0x0, 0x0, 0xFFFFFFFF, 0x0⟩,
   ⟨0x44, 0x0, 1, 0x0, 0x0, 0x0, 0x0, 0xFFFFFFFF, 0x0⟩,
   ⟨0x48, 0x0, 1, 0x0, 0x0, 0x0, 0x0, 0xFFFFFFFF, 0x0⟩,
   ⟨0x4C, 0x0, 1, 0x0, 0x0, 0x0, 0x0, 0xFFFFFFFF, 0x0⟩,
   ⟨0x50, 0x0, 1, 0x0, 0x0, 0x0, 0x0, 0xFFFFFFFF, 0x0⟩,
   ⟨0x60, 0x0, 1, 0x0, 0x0, 0x0, 0x0, 0x0, 0xAFFB0⟩,
   ⟨0x64, 0x0, 1, 0x0, 0x0, 0x0, 0x0, 0x0, 0x2580000⟩,
   ⟨0x68, 0x0, 1, 0x0, 0x0, 0x0, 0x0, 0x0, 0x5140000⟩,
   ⟨0x1000, 0x40, 32, 0x0, 0x0, 0x0, 0x0, 0x0, 0x0⟩] ++
  [⟨0x1004, 0x40, 32, 0x0, 0x0, 0x0, 0x0, 0x0, 0x0⟩,
   ⟨0x1008, 0x40, 32, 0x0, 0x0, 0x0, 0x0, 0x0, 0x0⟩,
   ⟨0x100C, 0x40, 32, 0x0, 0x0, 0x0, 0x0, 0x0, 0x0⟩,
   ⟨0x1010, 0x40, 32, 0x0, 0x0, 0x0, 0x0, 0x0, 0x0⟩,
   ⟨0x1014, 0x40, 32, 0x0, 0x0, 0x0, 0x0, 0x0, 0x0⟩,
   ⟨0x1018, 0x40, 32, 0x0, 0x0, 0x0, 0x0, 0x0, 0x0⟩,
   ⟨0x101C, 0x40, 32, 0x0, 0x0, 0x0, 0x0, 0x0, 0x0⟩,
   ⟨0x1020, 0x40, 32, 0x0, 0x0, 0x0, 0x0, 0x0, 0x0⟩,
   ⟨0x1024, 0x40, 32, 0x0, 0x0, 0x0, 0x0, 0x0, 0x0⟩,
   ⟨0x1028, 0x40, 32, 0x0, 0x0, 0x0, 0x0, 0x0, 0x0⟩,
   ⟨0x102C, 0x40, 32, 0x0, 0x0, 0x0, 0x0, 0xFFFFFFFF, 0x0⟩]

/-- The registers of block SEC. -/
def RegMap.sec : List RegEnt :=
  [⟨0x0, 0x0, 1, 0x0, 0x0, 0x0, 0x0, 0x0, 0x0⟩,
   ⟨0x4, 0x0, 1, 0x0, 0x0, 0x0, 0x0, 0x0, 0x0⟩,
   ⟨0x8, 0x0, 1, 0x0, 0x0, 0x0, 0x0, 0x0, 0x0⟩,
   ⟨0xC, 0x0, 1, 0x0, 0x0, 0x0, 0x0, 0x0, 0x0⟩,
   ⟨0x10, 0x0, 1, 0x1FF, 0x0, 0x0, 0x0, 0x0, 0x10A⟩,
   ⟨0x14, 0x0, 1, 0x0, 0x0, 0x0, 0x0, 0x0, 0x0⟩,
   ⟨0x18, 0x0, 1, 0x0, 0x0, 0x0, 0xFFFFFFFF, 0x0, 0x0⟩,
   ⟨0x1C, 0x0, 1, 0x0, 0x0, 0x0, 0x0, 0x0, 0x0⟩,
   ⟨0x20, 0x4, 4, 0x0, 0x0, 0x0, 0x0, 0x0, 0x0⟩,
   ⟨0x30, 0x0, 1, 0x0, 0x0, 0x0, 0x0, 0x0, 0x0⟩,
   ⟨0x34, 0x0, 1, 0xFFFF, 0x0, 0x0, 0x0, 0x0, 0x0⟩,
   ⟨0x40, 0x0, 1, 0x0, 0x0, 0x0, 0x0, 0xFFFFFFFF, 0x0⟩,
   ⟨0x44, 0x0, 1, 0x0, 0x0, 0x0, 0x0, 0xFFFFFFFF, 0x0⟩,
   ⟨0x48, 0x0, 1, 0x0, 0x0, 0x0, 0x0, 0xFFFFFFFF, 0x0⟩,
   ⟨0x80, 0x4, 12, 0x0, 0x0, 0x0, 0xFFFFFFFF, 0x0, 0x0⟩,
   ⟨0x100, 0x10, 2, 0x0, 0x0, 0x0, 0x0, 0x0, 0x0⟩]

/-- The registers of block MEM. -/
def RegMap.mem : List RegEnt :=
  [⟨0x0, 0x0, 1, 0x0, 0x0, 0x0, 0x0, 0x0, 0x0⟩,
   ⟨0x4, 0x0, 1, 0x0, 0x0, 0x0, 0x0, 0x0, 0x180⟩,
   ⟨0x8, 0x0, 1, 0x0, 0x0, 0x0, 0x0, 0x0, 0x10000⟩,
   ⟨0xC, 0x0, 1, 0xFF00FFFF, 0x0, 0x0, 0x0, 0x0, 0x8000014⟩,
   ⟨0x10, 0x0, 1, 0xFFFF, 0x0, 0x0, 0x0, 0x0, 0x100⟩,
   ⟨0x14, 0x0, 1, 0x0, 0x0, 0x0, 0x0, 0x0, 0x0⟩,
   ⟨0x18, 0x0, 1, 0x0, 0x0, 0x0, 0x0, 0xFFFFFFFF, 0x0⟩,
   ⟨0x1C, 0x0, 1, 0x7FF, 0x0, 0x0, 0x0, 0x0, 0x0⟩,
   ⟨0x1000, 0x100, 8, 0x0, 0x0, 0x0, 0x0, 0x0, 0x0⟩,
   ⟨0x1004, 0x100, 8, 0x0, 0x0, 0xFFFF, 0x0, 0x0, 0x0⟩,
   ⟨0x1008, 0x100, 8, 0x0, 0x0, 0x0, 0x0, 0xFFFFFFFF, 0x0⟩,
   ⟨0x100C, 0x100, 8, 0x0, 0x0, 0x0, 0x0, 0xFFFFFFFF, 0x0⟩,
   ⟨0x1010, 0x100, 8, 0x0, 0x0, 0x0, 0x0, 0xFFFFFFFF, 0x0⟩,
   ⟨0x1014, 0x100, 8, 0x0, 0x0, 0x0, 0x0, 0x0, 0x0⟩,
   ⟨0x1018, 0x100, 8, 0x0, 0x0, 0x0, 0x0, 0x0, 0x0⟩,
   ⟨0x101C, 0x100, 8, 0x0, 0x0, 0x0, 0x0, 0x0, 0x0⟩,
   ⟨0x8000, 0x0, 1, 0x0, 0x1, 0x0, 0x0, 0x0, 0x0⟩,
   ⟨0x8004, 0x0, 1, 0x0, 0x0, 0x0, 0x0, 0xFFFFFFFF, 0x0⟩,
   ⟨0x8008, 0x0, 1, 0x0, 0x0, 0x0, 0x0, 0xFFFFFFFF, 0x0⟩,
   ⟨0x800C, 0x0, 1, 0x0, 0x0, 0x0, 0x0, 0x0, 0x0⟩,
   ⟨0x8010, 0x0, 1, 0x0, 0x0, 0x0, 0x0, 0x0, 0x0⟩,
   ⟨0xA000, 0x8, 64, 0x0, 0x0, 0x0, 0x0, 0xFFFFFFFF, 0x0⟩,
   ⟨0xA004, 0x8, 64, 0x0, 0x0, 0x0, 0x0, 0xFFFFFFFF, 0x0⟩,
   ⟨0xC000, 0x4, 800, 0x3F00, 0x0, 0x0, 0x20000000, 0x0, 0x0⟩] ++
  [⟨0xCD00, 0x4, 32, 0x3F00, 0x0, 0x0, 0x20000000, 0x0, 0x0⟩]

/-- The registers of block BM. -/
def RegMap.bm : List RegEnt :=
  [⟨0x0, 0x0, 1, 0x0, 0x0, 0x0, 0x0, 0x0, 0x0⟩,
   ⟨0x4, 0x0, 1, 0x0, 0x0, 0x0, 0x0, 0x0, 0x0⟩,
   ⟨0x10, 0x4, 8, 0x0, 0x0, 0x0, 0x0, 0x0, 0x0⟩,
   ⟨0x40, 0x4, 8, 0x0, 0x0, 0x0, 0x0, 0x0, 0x0⟩,
   ⟨0x60, 0x4, 8, 0x0, 0x0, 0x0, 0x0, 0x0, 0x0⟩,
   ⟨0x80, 0x0, 1, 0x0, 0x0, 0x0, 0x0, 0xFFFFFFFF, 0x0⟩,
   ⟨0x84, 0x0, 1, 0x0, 0x0, 0x0, 0x0, 0xFFFFFFFF, 0x0⟩,
   ⟨0x88, 0x0, 1, 0x0, 0x0, 0x0, 0x0, 0xFFFFFFFF, 0x0⟩,
   ⟨0x8C, 0x0, 1, 0x7FF, 0x0, 0x0, 0x0, 0x0, 0x0⟩,
   ⟨0x90, 0x0, 1, 0x0, 0x80000000, 0x0, 0x0, 0x0, 0x0⟩,
   ⟨0x94, 0x0, 1, 0x0, 0x0, 0x0, 0x0, 0x0, 0x0⟩,
   ⟨0x98, 0x0, 1, 0x0, 0x0, 0x0, 0x0, 0x0, 0x0⟩,
   ⟨0x9C, 0x0, 1, 0x0, 0x0, 0x0, 0x0, 0x0, 0x0⟩,
   ⟨0xA0, 0x0, 1, 0x0, 0x0, 0x0, 0x0, 0x0, 0x0⟩,
   ⟨0xC0, 0x0, 1, 0x0, 0x0, 0x0, 0x0, 0x0, 0x0⟩,
   ⟨0xE0, 0x4, 8, 0x0, 0x0, 0x0, 0x0, 0x0, 0x0⟩]

/-- The registers of block TU. -/
def RegMap.tu : List RegEnt :=
  [⟨0x0, 0x0, 1, 0x0, 0x0, 0x0, 0x0, 0x0, 0x0⟩,
   ⟨0x4, 0x0, 1, 0x0, 0x3F, 0x0, 0x0, 0x0, 0x0⟩,
   ⟨0x8, 0x0, 1, 0x0, 0x0, 0x0, 0x0, 0x0, 0x0⟩,
   ⟨0xC, 0x0, 1, 0x0, 0x0, 0x0, 0x0, 0x0, 0x0⟩,
   ⟨0x10, 0x0, 1, 0x0, 0x0, 0x0, 0x0, 0x0, 0x0⟩,
   ⟨0x14, 0x0, 1, 0x0, 0x0, 0x0, 0x0, 0x0, 0x0⟩,
   ⟨0x20, 0x0, 1, 0x3FF, 0x0, 0x0, 0x0, 0x0, 0x64⟩,
   ⟨0x24, 0x0, 1, 0xFFFFF, 0x0, 0x0, 0x0, 0x0, 0x3E8⟩,
   ⟨0x28, 0x0, 1, 0xFFFFFFFF, 0x0, 0x0, 0x0, 0x0, 0x27100032⟩,
   ⟨0x2C, 0x0, 1, 0x1, 0x0, 0x0, 0x0, 0x0, 0x1⟩,
   ⟨0x30, 0x0, 1, 0x0, 0x0, 0x0, 0x0, 0x0, 0x0⟩,
   ⟨0x40, 0x20, 2, 0x0, 0x0, 0x0, 0x0, 0x0, 0x0⟩,
   ⟨0x44, 0x20, 2, 0x0, 0x0, 0x0, 0x0, 0x0, 0x0⟩,
   ⟨0x48, 0x20, 2, 0x0, 0x0, 0x0, 0x0, 0x0, 0x0⟩,
   ⟨0x4C, 0x20, 2, 0x0, 0x0, 0x0, 0x0, 0x0, 0x0⟩,
   ⟨0x50, 0x20, 2, 0x0, 0x0, 0x0, 0x0, 0x0, 0x0⟩,
   ⟨0x54, 0x20, 2, 0x0, 0x0, 0x0, 0x0, 0xFFFFFFFF, 0x0⟩,
   ⟨0x58, 0x20, 2, 0x0, 0x0, 0x0, 0x0, 0xFFFFFFFF, 0x0⟩,
   ⟨0x100, 0x4, 2, 0xFFFFFFFF, 0x0, 0x0, 0x0, 0x0, 0x0⟩,
   ⟨0x110, 0x0, 1, 0x80000003, 0x0, 0x0, 0x0, 0x0, 0x3⟩,
   ⟨0x114, 0x0, 1, 0x0, 0x0, 0x0, 0x0, 0xFFFFFFFF, 0x0⟩,
   ⟨0x118, 0x0, 1, 0x0, 0x0, 0x0, 0x0, 0xFFFFFFFF, 0x0⟩,
   ⟨0x11C, 0x0, 1, 0x0, 0x0, 0x0, 0x0, 0xFFFFFFFF, 0x0⟩,
   ⟨0x120, 0x0, 1, 0xF, 0x0, 0x0, 0x0, 0x0, 0xC⟩] ++
  [⟨0x124, 0x0, 1, 0xFFFFFFFF, 0x0, 0x0, 0x0, 0x0, 0xFFFFFFFF⟩,
   ⟨0x128, 0x0, 1, 0xFFFF, 0x0, 0x0, 0x0, 0x0, 0x0⟩,
   ⟨0x12C, 0x0, 1, 0x0, 0x0, 0x0, 0x0, 0xFFFFFFFF, 0x0⟩,
   ⟨0x200, 0x10, 4, 0x0, 0x0, 0x0, 0x0, 0x0, 0x0⟩,
   ⟨0x204, 0x10, 4, 0x0, 0x0, 0x0, 0x0, 0xFFFFFFFF, 0x0⟩,
   ⟨0x300, 0x20, 2, 0x7, 0x0, 0x0, 0x0, 0x0, 0x2⟩,
   ⟨0x304, 0x20, 2, 0x0, 0x0, 0x0, 0x0, 0xBFFFFFFF, 0x0⟩,
   ⟨0x308, 0x20, 2, 0x0, 0x0, 0x0, 0x0, 0x0, 0x0⟩,
   ⟨0x30C, 0x20, 2, 0x0, 0x0, 0x0, 0x0, 0x0, 0x0⟩,
   ⟨0x310, 0x20, 2, 0x0, 0x0, 0x0, 0x0, 0x0, 0x0⟩,
   ⟨0x314, 0x20, 2, 0x0, 0x0, 0x0, 0x0, 0xFFFFFFFF, 0x0⟩]

/-- The registers of block PCR. -/
def RegMap.pcr : List RegEnt :=
  [⟨0x0, 0x0, 1, 0x0, 0x0, 0x0, 0x0, 0x0, 0x40000000⟩,
   ⟨0x4, 0x0, 1, 0x0, 0x3F, 0x0, 0x0, 0x0, 0x0⟩,
   ⟨0x8, 0x0, 1, 0x0, 0x0, 0x0, 0x0, 0x0, 0x0⟩,
   ⟨0xC, 0x0, 1, 0xFFFF, 0x0, 0x0, 0x0, 0x0, 0x2824⟩,
   ⟨0x10, 0x0, 1, 0x0, 0x0, 0x0, 0x0, 0x0, 0xA2824⟩,
   ⟨0x14, 0x0, 1, 0x0, 0x0, 0x0, 0x0, 0x0, 0x0⟩,
   ⟨0x18, 0x0, 1, 0x0, 0x0, 0x0, 0x0, 0x0, 0x0⟩,
   ⟨0x20, 0x0, 1, 0x0, 0x0, 0x0, 0x0, 0x0, 0x0⟩,
   ⟨0x24, 0x0, 1, 0x7FFFFF, 0x0, 0x0, 0x0, 0x0, 0x3D0900⟩,
   ⟨0x28, 0x0, 1, 0x0, 0x0, 0x0, 0x0, 0xFFFFFFFF, 0x0⟩,
   ⟨0x30, 0x0, 1, 0x0, 0x0, 0x0, 0x0, 0x0, 0x2EE⟩,
   ⟨0x34, 0x0, 1, 0x0, 0x0, 0x0, 0x0, 0x0, 0x0⟩,
   ⟨0x38, 0x0, 1, 0x0, 0x0, 0x0, 0x0, 0x0, 0x0⟩,
   ⟨0x3C, 0x0, 1, 0x0, 0x0, 0x0, 0x0, 0x0, 0x0⟩,
   ⟨0x40, 0x0, 1, 0xFFFFFF, 0x0, 0x0, 0x0, 0x0, 0xB424⟩,
   ⟨0x44, 0x0, 1, 0x0, 0x0, 0x0, 0x0, 0xFFFFFFFF, 0x0⟩,
   ⟨0x50, 0x0, 1, 0x0, 0x0, 0x0, 0x0, 0xFFFF0000, 0x0⟩,
   ⟨0x54, 0x0, 1, 0xFFFF, 0x0, 0x0, 0x0, 0x0, 0x6662⟩,
   ⟨0x58, 0x0, 1, 0x0, 0x0, 0x0, 0x0, 0x0, 0x10000⟩,
   ⟨0x5C, 0x0, 1, 0x0, 0x0, 0x0, 0x0, 0xFFFFFFFF, 0x0⟩,
   ⟨0x60, 0x0, 1, 0x0, 0x0, 0x0, 0x0, 0x0, 0x2EE012C⟩,
   ⟨0x64, 0x0, 1, 0x0, 0x0, 0x0, 0x0, 0x0, 0x30C026C⟩,
   ⟨0x68, 0x0, 1, 0x0, 0x0, 0x0, 0x0, 0x0, 0x1E000A⟩,
   ⟨0x70, 0x0, 1, 0x0, 0x0, 0x0, 0x1, 0x0, 0x0⟩]

/-- The registers of block DBG. -/
def RegMap.dbg : List RegEnt :=
  [⟨0x0, 0x0, 1, 0x1, 0x0, 0x0, 0x0, 0x0, 0x0⟩,
   ⟨0x4, 0x0, 1, 0x0, 0x0, 0x0, 0x0, 0x0, 0x0⟩,
   ⟨0x8, 0x0, 1, 0x0, 0x800007FF, 0x0, 0x0, 0x0, 0x0⟩,
   ⟨0xC, 0x0, 1, 0x7FF, 0x0, 0x0, 0x0, 0x0, 0x0⟩,
   ⟨0x10, 0x0, 1, 0x0, 0x0, 0x0, 0x0, 0xFFFFFFFF, 0x0⟩,
   ⟨0x14, 0x0, 1, 0x0, 0x0, 0x0, 0x0, 0xFFFFFFFF, 0x0⟩,
   ⟨0x20, 0x0, 1, 0x0, 0x0, 0x0, 0x0, 0x0, 0x0⟩,
   ⟨0x24, 0x0, 1, 0x0, 0x0, 0x0, 0x0, 0x0, 0x0⟩,
   ⟨0x28, 0x0, 1, 0x0, 0x0, 0x0, 0x0, 0x0, 0x0⟩,
   ⟨0x2C, 0x0, 1, 0xFFFFFFFF, 0x0, 0x0, 0x0, 0x0, 0x0⟩,
   ⟨0x30, 0x0, 1, 0xFFFFFFFF, 0x0, 0x0, 0x0, 0x0, 0x0⟩,
   ⟨0x34, 0x0, 1, 0x0, 0x0, 0x0, 0x0, 0xFFFFFFFF, 0x0⟩,
   ⟨0x38, 0x0, 1, 0x0, 0x0, 0x0, 0x0, 0x0, 0x0⟩,
   ⟨0x40, 0x4, 4, 0x0, 0x0, 0x0, 0xFFFFFFFF, 0x0, 0x0⟩,
   ⟨0x50, 0x0, 1, 0x0, 0x0, 0x0, 0x83FF00FF, 0x0, 0x0⟩,
   ⟨0x1000, 0x20, 11, 0x0, 0x0, 0x0, 0x0, 0x0, 0xC000000A⟩,
   ⟨0x1004, 0x20, 11, 0x0, 0x0, 0x0, 0x0, 0x0, 0x0⟩,
   ⟨0x1008, 0x20, 11, 0x0, 0x0, 0x0, 0x0, 0x0, 0x0⟩,
   ⟨0x100C, 0x20, 11, 0x0, 0x0, 0x0, 0x0, 0x0, 0x0⟩]

/-- The registers of block HC. -/
def RegMap.hc : List RegEnt :=
  [⟨0x0, 0x0, 1, 0x0, 0x0, 0x0, 0x0, 0x0, 0x0⟩,
   ⟨0x4, 0x0, 1, 0x0, 0x0, 0x0, 0x0, 0x0, 0x0⟩,
   ⟨0x10, 0x0, 1, 0x0, 0x0, 0x0, 0x0, 0xFFFFFFFF, 0x0⟩,
   ⟨0x14, 0x0, 1, 0x0, 0x0, 0x0, 0x0, 0xFFFFFFFF, 0x0⟩,
   ⟨0x18, 0x0, 1, 0x0, 0x0, 0x0, 0x0, 0xFFFFFFFF, 0x0⟩,
   ⟨0x1C, 0x0, 1, 0x0, 0x0, 0x0, 0x0, 0xFFFFFFFF, 0x0⟩,
   ⟨0x100, 0x4, 9, 0xFFFC0000, 0x0, 0x0, 0x0, 0x0, 0x0⟩]

/-- The registers of the 64 KiB block `k` of register space (Table 19-1). -/
def RegMap.block (k : Nat) : List RegEnt :=
  match k with
  | 0x0 => RegMap.sys
  | 0x1 => RegMap.cmd
  | 0x2 => RegMap.fif
  | 0x4 => RegMap.fwu
  | 0x6 => RegMap.ce
  | 0x8 => RegMap.cx
  | 0xA => RegMap.te
  | 0xC => RegMap.ss
  | 0x9 => RegMap.cc
  | 0x10 => RegMap.lf
  | 0x14 => RegMap.lf
  | 0x18 => RegMap.lo
  | 0x1C => RegMap.lo
  | 0x20 => RegMap.sec
  | 0x24 => RegMap.mem
  | 0x22 => RegMap.bm
  | 0x26 => RegMap.tu
  | 0x28 => RegMap.pcr
  | 0x2A => RegMap.dbg
  | 0x2C => RegMap.hc
  | _ => []

/-- The register at an address: what the map says of it. -/
def RegMap.find? (a : Nat) : Option RegEnt :=
  (RegMap.block (a / 0x10000)).find? fun e =>
    let o := a % 0x10000
    if e.n = 1 then o == e.off
    else e.off ≤ o && (o - e.off) % e.stride == 0 && (o - e.off) / e.stride < e.n

/-- The reset value of the register at an address; 0 where there is none. -/
def RegMap.reset (a : Nat) : Word := BitVec.ofNat 32 (((RegMap.find? a).map (·.reset)).getD 0)

end Sys2Proof.Machine
end

