-- ==== Sys2Proof/Syntax.lean ====
section
/-! DEFINITION. The commands the DX-64 takes: one constructor per row of the table of operations and events, in its order.
Every command carries `t`, the moment of crystal time at which it acts (log entry 1). A ring command carries the packet
the CI fetched; the other rows carry what came from outside, or name the object the event is about.
What a port has received and not taken waits in its state, so the rows that take it (`u`) carry nothing more. -/

namespace Sys2Proof

/-- The commands of the DX-64. -/
inductive Instr where
  | cmdDbWrite (t : Time) (rq : Nat) (ring : Nat) (v : Word)
  | cmdRqCfgWrite (t : Time) (rq : Nat) (ring : Nat) (v : Word)
  | cmdCqHeadWrite (t : Time) (rq : Nat) (ring : Nat) (v : Word)
  | ciDispatch (t : Time) (cp : Nat) (hostOk : Bool)
  | coalTimerExpiry (t : Time) (ring : Nat)
  | completionWriteRetry (t : Time) (ring : Nat) (hostOk : Bool)
  | sysNop (t : Time) (r : Req)
  | sysQuery (t : Time) (r : Req)
  | funcEnable (t : Time) (r : Req)
  | funcDisable (t : Time) (r : Req)
  | funcRunningReached (t : Time) (func : Nat)
  | funcDrainEnd (t : Time) (func : Nat)
  | fabricPortDrainTimeout (t : Time) (port : Nat)
  | funcState (t : Time) (r : Req)
  | regionConfig (t : Time) (r : Req)
  | reset (t : Time) (r : ResetReq)
  | powerState (t : Time) (r : Req)
  | powerTransitionDone (t : Time)
  | policyBounds (t : Time) (r : Req)
  | ownerRevoke (t : Time) (r : Req)
  | ringReset (t : Time) (r : Req)
  | jobOpen (t : Time) (r : Req)
  | jobRanks (t : Time) (r : Req)
  | ringBind (t : Time) (r : Req)
  | jobConfig (t : Time) (r : Req)
  | jobRate (t : Time) (r : Req)
  | jobFence (t : Time) (r : Req)
  | jobFenceComplete (t : Time) (job : Nat)
  | jobClose (t : Time) (r : Req)
  | jobQuery (t : Time) (r : Req)
  | mcastSet (t : Time) (r : Req)
  | mcastUpdateAckRx (t : Time) (sel : Nat)
  | winCreate (t : Time) (r : Req)
  | winDestroy (t : Time) (r : Req)
  | winFence (t : Time) (r : Req)
  | bulkCopy (t : Time) (r : Req)
  | winQuery (t : Time) (r : Req)
  | treeSet (t : Time) (r : Req)
  | collStart (t : Time) (r : Req)
  | collAbort (t : Time) (r : Req)
  | combinerLoad (t : Time) (r : Req)
  | collQuery (t : Time) (r : Req)
  | residualAlloc (t : Time) (r : Req)
  | residualFree (t : Time) (r : Req)
  | bufAlloc (t : Time) (r : Req)
  | bufFree (t : Time) (r : Req)
  | bufPass (t : Time) (r : Req)
  | engineBufAlloc (t : Time) (a : EngAlloc)
  | poolConfig (t : Time) (r : Req)
  | poolFrameMove (t : Time) (src : Nat) (dst : Nat)
  | auditStart (t : Time) (r : Req)
  | auditRead (t : Time) (r : Req)
  | portConfig (t : Time) (r : Req)
  | memberSet (t : Time) (r : Req)
  | slotMap (t : Time) (r : Req)
  | pageSwap (t : Time) (r : Req)
  | tsiPageSwitch (t : Time) (port : Nat)
  | tuneMethod (t : Time) (r : Req)
  | defectConfig (t : Time) (r : Req)
  | combSwitch (t : Time) (r : Req)
  | launchPower (t : Time) (r : Req)
  | ptpConfig (t : Time) (r : Req)
  | domainSelect (t : Time) (r : Req)
  | pulseSet (t : Time) (r : Req)
  | offsetMeasure (t : Time) (r : Req)
  | offsetMeasureTimeout (t : Time)
  | attest (t : Time) (r : Req)
  | peerKeyx (t : Time) (r : Req)
  | rekey (t : Time) (r : Req)
  | keyErase (t : Time) (r : Req)
  | tamperConfig (t : Time) (r : Req)
  | counterRead (t : Time) (r : Req)
  | pmRead (t : Time) (r : Req)
  | statsRead (t : Time) (r : Req)
  | snapshotConfig (t : Time) (r : Req)
  | healthRead (t : Time) (r : Req)
  | engineFreeze (t : Time) (r : Req)
  | engineDump (t : Time) (r : Req)
  | traceConfig (t : Time) (r : Req)
  | hangConfig (t : Time) (r : Req)
  | regWrite (t : Time) (rq : Nat) (addr : Nat) (width : Nat) (v : Word)
  | regReadClear (t : Time) (rq : Nat) (addr : Nat) (width : Nat)
  | regPairLoRead (t : Time) (rq : Nat) (addr : Nat)
  | regPairHiRead (t : Time) (rq : Nat) (addr : Nat)
  | regPairHiWrite (t : Time) (rq : Nat) (addr : Nat) (v : Word)
  | regPairLoWrite (t : Time) (rq : Nat) (addr : Nat) (v : Word)
  | fifEddyPartWrite (t : Time) (rq : Nat) (n : Nat) (v : Word)
  | fwuExecCtlWrite (t : Time) (rq : Nat) (v : Word)
  | cxQlimitWrite (t : Time) (rq : Nat) (dec : Bool) (v : Word)
  | srBankOwnWrite (t : Time) (rq : Nat) (bank : Nat) (p1 : Bool) (v : Word) (delayed : List Nat)
  | bankHandoverDone (t : Time) (bank : Nat) (p1 : Bool)
  | memSRetireWrite (t : Time) (rq : Nat) (stack : Nat) (v : Word)
  | secSvnCommitWrite (t : Time) (rq : Nat) (v : Word)
  | secMr3ExtCommit (t : Time) (rq : Nat) (v : Word)
  | secGwWrite (t : Time) (rq : Nat) (v : Word)
  | tuNowNsRead (t : Time) (rq : Nat)
  | tuPiTsNsRead (t : Time) (rq : Nat) (input : Nat)
  | pcrClkSetWrite (t : Time) (rq : Nat) (v : Word)
  | pcrWakeReq (t : Time) (rq : Nat) (v : Word)
  | lfPmClear (t : Time) (rq : Nat) (port : Nat) (v : Word)
  | dbgTraceSwCmtWrite (t : Time) (rq : Nat) (v : Word)
  | dbgCtlUnlockWrite (t : Time) (rq : Nat) (v : Word)
  | hcCpWinWrite (t : Time) (rq : Nat) (k : Nat) (v : Word)
  | sysEvtHeadWrite (t : Time) (rq : Nat) (v : Word)
  | fabricPacketRx (t : Time) (port : Nat) (pkt : FabPkt)
  | gapTimerExpiry (t : Time) (stream : Nat)
  | fabricRequestRx (t : Time) (sel : Nat)
  | fabricRequestUnblock (t : Time) (sel : Nat)
  | fabricFenceAck (t : Time) (ctx : Nat)
  | fabricResponseRx (t : Time) (sel : Nat)
  | fabricRequestTimeout (t : Time)
  | tagQuarantineEnd (t : Time) (tag : Nat)
  | fabricRequestIssue (t : Time)
  | fabricPacketTx (t : Time) (sel : Nat)
  | fabricCreditReturn (t : Time) (port : Nat) (cls : Nat) (n : Nat)
  | mcastResultInject (t : Time) (coll : Nat) (tile : Nat)
  | mcastSetTimeout (t : Time) (idx : Nat)
  | resetNoticeRx (t : Time) (sel : Nat)
  | resetDoneRx (t : Time) (sel : Nat)
  | fabricLaneLoss (t : Time) (port : Nat)
  | fabricPortUp (t : Time) (port : Nat)
  | timeMsgSend (t : Time)
  | farRequestSend (t : Time) (ctx : Nat)
  | farRequestRx (t : Time) (sel : Nat)
  | farStreamHoldExpiry (t : Time)
  | farRequestExecute (t : Time) (entry : Nat)
  | farExecResponse (t : Time) (entry : Nat)
  | ffenceComplete (t : Time) (entry : Nat)
  | farResponseRx (t : Time) (sel : Nat)
  | farDeadlineExpiry (t : Time)
  | farQuarantineEnd (t : Time) (ctx : Nat)
  | opContextPageOut (t : Time)
  | opContextPageIn (t : Time) (ctx : Nat)
  | bulkProgressRx (t : Time) (sel : Nat)
  | bulkChunkSend (t : Time) (ctx : Nat)
  | tilePutRx (t : Time) (sel : Nat)
  | tileContextAlloc (t : Time)
  | ceDispatchSlot (t : Time)
  | collLineMsgRx (t : Time) (sel : Nat)
  | earlyStateExpiry (t : Time)
  | digestRx (t : Time) (src : EdgeMsg)
  | digestWaitTimeout (t : Time)
  | abortRx (t : Time) (src : EdgeMsg)
  | tileDeadlineExpiry (t : Time)
  | collComplete (t : Time) (coll : Nat)
  | tileContextPageOut (t : Time)
  | tileContextPageIn (t : Time) (ctx : Nat)
  | a2aPutRx (t : Time) (sel : Nat)
  | a2aDataRx (t : Time) (src : EdgeMsg)
  | a2aEndRx (t : Time) (src : EdgeMsg)
  | cxDraughtStart (t : Time) (lane : Nat)
  | cxStreamDone (t : Time) (lane : Nat)
  | cxDecodeAccept (t : Time)
  | cxDecodeDone (t : Time) (lane : Nat)
  | ccSealRecord (t : Time) (queue : Nat)
  | ccOpenSegment (t : Time) (sel : Nat)
  | rekeyTrigger (t : Time) (slot : Nat)
  | rekeyAnnounceRx (t : Time) (sel : Nat)
  | rekeyReadyRx (t : Time) (sel : Nat)
  | rekeyRetireSend (t : Time) (slot : Nat)
  | rekeyRetireRx (t : Time) (sel : Nat)
  | rekeyRetireAckRx (t : Time) (sel : Nat)
  | keyStallExpiry (t : Time)
  | ctrlSlotRx (t : Time) (port : Nat)
  | segmentRx (t : Time) (port : Nat) (u : Unit)
  | transportControlRx (t : Time) (port : Nat) (u : Unit)
  | groupFrameTx (t : Time) (x : GroupTx)
  | rtoExpiry (t : Time)
  | segmentAbandon (t : Time) (port : Nat) (seq : Nat)
  | rxCreditRecompute (t : Time)
  | fwuRttUpdate (t : Time)
  | portUnusable (t : Time) (port : Nat)
  | portUsable (t : Time) (port : Nat)
  | acceptMapExpiry (t : Time) (port : Nat)
  | noPathExpiry (t : Time) (peer : Nat)
  | bucketRefill (t : Time)
  | scaleFactorUpdate (t : Time)
  | groupFrameBoundary (t : Time) (port : Nat)
  | memberFrameRx (t : Time) (port : Nat) (m : Nat) (syms : List Symbol)
  | defectEntry (t : Time) (port : Nat) (obj : Nat) (sign : DefectSign)
  | defectExit (t : Time) (port : Nat) (obj : Nat) (sign : DefectSign)
  | plannedRemovalRequest (t : Time) (port : Nat) (m : Nat)
  | planMapClearExpiry (t : Time) (port : Nat) (m : Nat)
  | memberAddTimeout (t : Time) (port : Nat)
  | pmSecond (t : Time)
  | pmBinRollover (t : Time)
  | loSecondReport (t : Time) (port : Nat) (u : Unit)
  | combBringUp (t : Time) (port : Nat)
  | combBringUpDone (t : Time) (port : Nat) (ends : List Time) (comb : CombFound) (rings : RingsFound) (bias : Nat)
  | combStateLoss (t : Time) (port : Nat)
  | combAutoSwitch (t : Time) (port : Nat)
  | combLineCheck (t : Time) (port : Nat) (x : LoTick)
  | linesLowExpiry (t : Time) (port : Nat)
  | ringTuneTick (t : Time) (port : Nat) (x : RingTick)
  | ringRelock (t : Time) (port : Nat) (m : Nat) (res : Option (List Sweep × Int))
  | calibrationStart (t : Time) (port : Nat)
  | calibrationWork (t : Time) (port : Nat) (res : Option CalFound)
  | calibrationRetry (t : Time) (port : Nat)
  | launchAdjust (t : Time) (port : Nat) (x : LaunchTick)
  | eyeSafetyShutdown (t : Time) (port : Nat)
  | safeProbe (t : Time) (port : Nat)
  | ageingHourly (t : Time)
  | tamperAlarm (t : Time) (x : TamperTick)
  | kxMessageRx (t : Time) (port : Nat) (msg : Nat) (k : KxView)
  | kxTimeout (t : Time) (port : Nat)
  | memReadCe (t : Time) (store : Nat) (addr : Nat) (reader : Nat)
  | memReadUe (t : Time) (store : Nat) (addr : Nat) (reader : Nat)
  | patrolScrub (t : Time) (finding : Nat)
  | sramScrub (t : Time) (finding : Nat) (delayed : List Nat)
  | channelRetire (t : Time) (ch : Nat) (phy : Bool)
  | frameMigrate (t : Time)
  | scratchNonownerAccess (t : Time) (master : Nat) (bank : Nat) (p1 : Bool) (write : Bool)
  | ptpMessageRx (t : Time) (inst : Nat) (m : PtpMsg)
  | ptpInstanceLost (t : Time) (inst : Nat)
  | slewEnd (t : Time)
  | tcForward (t : Time) (m : PtpMsg) (residence : Nat) (up : Bool)
  | pulseEdge (t : Time) (n : Nat)
  | pulseInputEdge (t : Time) (i : Nat) (rising : Bool)
  | powerOn (t : Time)
  | resetNAssert (t : Time) (dur : Time) (tj : Int)
  | bootStep (t : Time) (x : BootIn)
  | bootStepTimeout (t : Time)
  | pwrGoodLoss (t : Time) (dur : Time)
  | wakeNAssert (t : Time) (dur : Time)
  | calmWake (t : Time)
  | referenceLoss (t : Time) (sign : RefSign)
  | referenceRecovery (t : Time) (sign : RefSign)
  | energyEpoch (t : Time) (watts : Nat)
  | rampGovernorGrant (t : Time)
  | thermalSample (t : Time) (tj : Int)
  | thermalTrip (t : Time)
  | cpWatchdogExpiry (t : Time) (x : CpFail)
  | cpRestart (t : Time) (master : Nat)
  | engineHang (t : Time) (engine : Nat)
  | debugDmiAccess (t : Time) (op : DmiOp)
  | traceRecordWrite (t : Time)
  | eventRecordWrite (t : Time)
  | healthHourly (t : Time)
  | telemetrySnapshot (t : Time)
  | fenceNoticeRx (t : Time) (sel : Nat)
  | pwrGoodRise (t : Time)
  | calmWakeTimeout (t : Time)
  | vddAonLoss (t : Time)
  | combReacquired (t : Time) (port : Nat) (scan : LineScan)
  | safeProbeEnd (t : Time) (port : Nat)
  | tuneMethodTimeout (t : Time) (port : Nat)
  | avsAlertNChange (t : Time) (level : Bool)
  | adaptiveLoopUpdate (t : Time) (loop : Nat) (target : Nat)
  | ptpDelayReqSend (t : Time) (inst : Nat)
  | hcCacheError (t : Time) (lvl : CacheRead) (ue : Bool) (addr : Nat)
  | ciHeartbeatLapse (t : Time) (k : Nat)
  | auditWalkDone (t : Time)
  | engineDumpDone (t : Time) (e : Nat)
  | ownerRevokeDone (t : Time)
deriving DecidableEq, Repr

end Sys2Proof
end

