-- ==== Sys2Proof/Machine/State.lean ====
section
/-! DEFINITION. The state of the DX-64: every register, ring, table, queue, counter, buffer and timer the specification gives
the device, as plain data, the queue of the commands that wait, and the state right after reset. -/

namespace Sys2Proof.Machine

/-- Reasons a step may stop with a fault. No row of the table has an outcome the specification leaves without an effect, so
no meaning raises one; the type has the one constructor the interface needs. -/
inductive Fault where
  /-- Raised by no meaning. Safe: nothing ends in it. -/
  | none
deriving DecidableEq, Repr

/-- Reasons a command is refused by the model. -/
inductive Refusal where
  /-- Raised by an arm of `exec` whose command has no meaning yet. Safe: it claims nothing of the hardware. -/
  | notModelled (mnemonic : String)
deriving DecidableEq, Repr

/-- One register value as plain data. -/
abbrev RegVal := Word

/-- What a completion says beyond what it copies from its command (Table 2-5). -/
structure Comp where
  status : Nat
  detail : Nat
  src    : Nat
  r0     : Nat
  r1     : Nat
deriving DecidableEq, Repr

/-- A command fetched and not yet completed. `warn` collects the bits of Table 2-7; `done` is a completion that ORDERED (R53)
or a later completion order (R56) holds back; `after` is the command whose completion is posted first (R56); `t0` is when it was
dispatched. -/
structure InFlight where
  id     : Nat
  ring   : Nat
  index  : Nat
  opcode : Nat
  cookie : Nat
  flags  : Nat
  job    : Nat
  warn   : Nat
  done   : Option Comp
  t0     : Time
  after  : Option Nat
deriving DecidableEq, Repr

/-- A command ring with its completion ring (Tables 2-2, 2-3) and what the CI keeps of it. -/
structure Ring where
  rqBaseLo : Word
  rqBaseHi : Word
  enable   : Bool
  bound    : Bool
  mgmt     : Bool
  prio     : Nat
  size     : Nat
  job      : Nat
  head     : Nat
  prod     : Nat
  cqBaseLo : Word
  cqBaseHi : Word
  msix     : Nat
  cqSize   : Nat
  coalCnt  : Nat
  coalUs   : Nat
  tail     : Nat
  cqHead   : Nat
  err      : Nat
  stopped  : Bool
  errCnt   : Word
  /-- dispatches that passed over this ring while it had a fetchable packet (R42) -/
  passed   : Nat
  /-- completions posted and not yet signalled, and when the first of them was posted (R49) -/
  unsig    : Nat
  unsigAt  : Time
  /-- completions whose write failed and those after them, in posting order (R41) -/
  kept     : List (InFlight × Comp)
  /-- when the write of the oldest kept completion was last tried -/
  triedAt  : Time
  /-- a packet fetched with BARRIER that has not started, and those of its ring that came after it (R52, R53), oldest first, each with
  its opcode -/
  held     : List (Nat × Req)
  /-- the RING_RESET command that waits for this ring (R59) -/
  reset    : Option Nat
deriving DecidableEq, Repr

/-- The state of a switchable function (Tables 2-10, 2-11). `mode`: 0 OFF, 1 RUNNING, 2 DRAINING, 3 OFF and starting. `cmd` is
the in-flight enable or disable that the present mode completes, `pend` the enable recorded while draining, `offWait` the
disables that wait for a starting function, `deferred` whether the start in progress completes DEFERRED. -/
structure Func where
  mode     : Nat
  cmd      : Option Nat
  pend     : Option Nat
  offWait  : List Nat
  deferred : Bool
  since    : Time
deriving DecidableEq, Repr

/-- An event for the event ring (Table 18-3), its T and VALID taken when it occurred. -/
structure Event where
  typ    : Nat
  sev    : Nat
  job    : Nat
  source : Nat
  time   : Nat
  valid  : Bool
  data   : List Byte
deriving DecidableEq, Repr

/-- A trace record (Table 17-8), its T and VALID taken when it occurred. -/
structure TraceRec where
  src   : Nat
  event : Nat
  job   : Nat
  time  : Nat
  valid : Bool
  data  : List Byte
deriving DecidableEq, Repr

/-- What leaves the block, oldest first in `Block.out`. -/
inductive Out where
  /-- an MSI-X vector raised -/
  | msix (vec : Nat)
  /-- a Ramgar packet sent on a fabric port -/
  | fab (port : Nat) (p : FabPkt)
  /-- a buffer handed to the engine that asked for it: its owner, its handle and its address -/
  | engBuf (owner handle addr : Nat)
  /-- a group frame that a line port sends: its 32 member frames of 16,384 bytes, scrambled (R290, R291) -/
  | frames (port : Nat) (fs : List (List Byte))
  /-- symbols that a member of a line port sends as light (R325) -/
  | light (port m : Nat) (syms : List Symbol)
  /-- a management message of transport control, for the host cores (R224) -/
  | mgmt (port : Nat) (m : List Byte)
  /-- a collective message that goes over a fabric edge to another DX-64 of the site; the specification gives it no fabric
  packet (log entry 18): the job, the rank and the message -/
  | edge (job rank : Nat) (m : CollMsg)
  /-- a frame sent on an Ethernet port, FCS included (R407, R408) -/
  | eth (port : Nat) (frame : List Byte)
  /-- a Delay_Req of a domain that an instance sends on an Ethernet port; the specification gives neither its addresses nor the clock
  identity (R402) -/
  | delayReq (port dom seq : Nat)
  /-- an edge of a pulse output: its level and the local time it stands at -/
  | pulse (n : Nat) (level : Bool) (at_ : Int)
  /-- the VDD_CORE setpoint written to the regulator as VOUT_COMMAND, in mV (R492) -/
  | avs (mv : Nat)
  /-- receive credits of a class, in flits, granted to the link partner of a fabric port (R79) -/
  | fabCredit (port cls n : Nat)
  /-- a master's read delivers poison: a host core or control processor takes a synchronous access fault, the PCI Express endpoint completes
  with the EP bit set (R370, R382) -/
  | poisonTo (master : Nat)
  /-- what the debug module does through a halted hart that the specification does not follow further: a single step, or an access to an
  address that it does not place (R448) -/
  | hart (op : DmiOp)
deriving DecidableEq, Repr

/-- The byte memories. Addresses rise strictly and no listed byte is 0; an unlisted byte reads 0 (log entry 3). -/
abbrev Mem := List Host.Cell

/-- A buffer the BM has allocated at least once (R385, R390). `addr` is its memory address, or its scratch byte address when
`scr`. `chain` lists the owners, the holder last; it keeps the last chain after a free. -/
structure Buf where
  addr  : Nat
  scr   : Bool
  gen   : Nat
  live  : Bool
  chain : List Nat
  /-- the time of the last allocation, pass or free -/
  at_   : Time
  /-- as a class 3 output buffer of an engine, the queue whose entry it reserves, and whether it drains (R256, R387) -/
  out   : Option (Nat × Bool)
deriving DecidableEq, Repr

/-- One port of a scratch bank (R377, R378). `until_` ends the 128 ns of a handover. -/
structure Bank where
  fixed   : Bool
  pending : Bool
  clear   : Bool
  new     : Nat
  owner   : Nat
  since   : Time
deriving DecidableEq, Repr

/-- A count of one owner in a leak audit (Table 14-6). -/
structure AuditRow where
  owner  : Nat
  count  : Nat
  bytes  : Nat
  oldest : Nat
  bins   : List Nat
deriving DecidableEq, Repr

/-- An ownership revocation that is running (R60, R61). -/
structure Revoke where
  cmd   : Nat
  owner : Nat
  mask  : Nat
  scope : Nat
  /-- BUF_FREE and BUF_PASS commands that wait for it: opcode and packet, with the in-flight number -/
  waits : List (Nat × Nat × Req)
deriving DecidableEq, Repr

/-- The buffer manager (chapter 14). `have_` is how many frames of memory each pool holds now, and `scr` the pool that each of the BM's
banks belongs to, where it belongs to one. `stopped` are the engines, by job and engine code, that R392 has stopped for a job. -/
structure BmState where
  bufs   : AMap Buf
  place  : List Nat
  share  : List Nat
  have_  : List Nat
  scr    : AMap Nat
  stopped : List (Nat × Nat)
  /-- scratch banks the BM owns -/
  banks  : List Nat
  /-- 2 MiB frames of staging taken by rank tables, reorder state tables and anti-replay bitmaps, with their users -/
  tabs   : AMap Nat
  /-- frames of the pools that retirement has taken (R373) -/
  lost   : Nat
  /-- the residual ceiling in GiB (R68) -/
  residGib : Nat
  /-- engine requests that wait for a buffer, oldest first (R387) -/
  engWait : List EngAlloc
  /-- when BM last refused a free or pass by checks 2 to 4 of R391, and its record (R396) -/
  lastErr : Option (Time × List Nat)
  audit  : List AuditRow
  /-- the audit in progress: its command, owner and mask -/
  auditCmd : Option (Nat × Nat × Nat)
  /-- revocations in progress, the oldest first -/
  revoke : List Revoke
deriving DecidableEq, Repr

/-- The memory subsystem (chapter 14). Channel lists hold channel numbers 16 × stack + channel. -/
structure MemCtl where
  /-- channels retired when the frame map was built (R367) -/
  bootRetired : List Nat
  retired  : List Nat
  /-- the channel that is RETIRING, and how many of its 1,536 frame slots are copied -/
  retiring : Option (Nat × Nat)
  /-- channels that wait to retire, with their cause -/
  waiting  : List (Nat × Nat)
  /-- channels lost with their PHY, each with how many of its frame slots have been remapped, and the frames that have: their units are
  poison until written whole (R373) -/
  lostCh   : AMap Nat
  lostFr   : List Nat
  /-- units of lost channels that have been written whole since -/
  clean    : List Nat
  /-- frames that migration has moved: frame number to slot number, slot s of channel c being 1,536 c + s -/
  moved    : AMap Nat
  /-- times of the uncorrectable units of each channel, newest first (R372) -/
  ues      : AMap (List Time)
  /-- poisoned 32-byte units, by address / 32 -/
  poison   : List Nat
  /-- packets of the recovery ring's command storage whose read finds an uncorrectable error (R501) -/
  cmdPoison : List Nat
  /-- poisoned 8-byte scratch words, by scratch byte address / 8 -/
  srPoison : List Nat
  /-- where the patrol scrub and the SRAM scrub stand: the next unit and the next word -/
  patrolAt : Nat
  sramAt   : Nat
deriving DecidableEq, Repr

/-- A job (R65, R66). `state`: 0 OPEN, 1 FENCED, 2 CLOSED. -/
structure Job where
  state   : Nat
  /-- the JOB_CLOSE in progress (R63) -/
  closing : Option Nat
  /-- a fence in progress: its in-flight command, if a command began it, and how many commands it completed -/
  fence   : Option (Option Nat × Nat)
  fenceCause  : Nat
  fenceDetail : Nat
  strict  : Bool
  wide    : Bool
  fabTmo  : Nat
  farTmo  : Nat
deriving DecidableEq, Repr

/-- A frozen engine (Tables 17-4, 17-10): the cause, the trace time without OFFSET, the engine clock cycles and the stall in µs at the
freeze, the words of its registers then, and the index of the free words that its dump holds (log entry 57). -/
structure Freeze where
  cause  : Nat
  time   : Nat
  cycles : Nat
  stall  : Nat
  words  : List Word
  ix     : Nat
deriving DecidableEq, Repr

/-- An ENGINE_DUMP in progress: its command, its address and the bytes it writes. -/
structure DumpJob where
  cmd   : Nat
  addr  : Nat
  len   : Nat
  since : Time
deriving DecidableEq, Repr

/-- The debug and telemetry block (chapter 17). `sw` holds software record data by requester (R465), key requester × 4 + word. `halted`
lists the harts that the debug module has halted with when, `hregs` their registers that it has written, key hart × 65,536 + register,
`trigs` the triggers, key hart × 8 + trigger, and `dmi` the value that its last read returned. `stall`
is when the stall of a hung engine began (R450). -/
structure DbgState where
  traceBase : Nat
  traceLen  : Nat
  traceAll  : Bool
  traceJob  : Nat
  traceMask : Nat
  traceMode : Nat
  traceOff  : Int
  traceLost : Nat
  eventLost : Nat
  /-- the control-processor watchdog limit in ms and whether it is enabled (R446, R451) -/
  wdMs      : Nat
  wdOn      : Bool
  sw        : AMap Word
  frozen    : AMap Freeze
  dumps     : AMap DumpJob
  halted    : AMap Time
  hregs     : AMap Nat
  trigs     : AMap (BitVec 64 × BitVec 64)
  dmi       : Option Nat
  stall     : AMap Time
deriving DecidableEq, Repr

/-- What the debug and telemetry processor accumulates (R478 to R483): counts of the hour in progress, of the last complete hour and since
boot, by quantity (Table 18-7); the hottest sensor of both hours in 0.1 °C, when the hour began and its number; the snapshot ring, when
the next snapshot is due and how many were missed since the last; and how many fences this gateway has issued (R469). -/
structure Health where
  cur    : AMap Nat
  last   : AMap Nat
  boot   : AMap Nat
  tj     : Option Int
  tjLast : Int
  hourAt : Time
  snap   : Nat × Nat
  snapAt : Time
  missed : Nat
  fences : Nat
deriving DecidableEq, Repr

/-- The time unit's clock (R397): local time `base` in 0.125 ns units at crystal time `at_`, gaining `ppt` × 10^−12 by the servo, and
slewing by `rem` units more at `ppb` × 10^−9 from `slewAt` on (R404). -/
structure TuClock where
  base   : Int
  at_    : Time
  ppt    : Int
  rem    : Int
  slewAt : Time
  ppb    : Nat
deriving DecidableEq, Repr

/-- A master that an instance hears (R402), from its latest Announce, with the times of its Announces in the window. -/
structure PtpGm where
  source : BitVec 80
  port   : Nat
  gmId   : BitVec 64
  pri1   : Nat
  cls    : Nat
  acc    : Nat
  var    : Nat
  pri2   : Nat
  steps  : Nat
  utc    : BitVec 16
  leap61 : Bool
  leap59 : Bool
  times  : List Time
deriving DecidableEq, Repr

/-- A PTP domain instance (Tables 15-1, 15-2). `gms` are the masters heard and `gm` the one followed. `sync` is a two-step Sync that waits
for its Follow_Up, with its sequence number and arrival; `t21` is t2 − t1 of the latest Sync; `dreq` is the outstanding Delay_Req and
its departure; `mpd` the mean path delay; `off` the latest offset; `good`, `ref`, `far` and `lossy` count samples for R402 and R403. -/
structure TuInst where
  conf    : Bool
  dom     : Nat
  ports   : Nat
  logSync : Int
  logDreq : Int
  annTmo  : Nat
  gms     : List PtpGm
  gm      : Option PtpGm
  lastAnn : Time
  lastSync : Time
  sync    : Option (Nat × Int)
  t21     : Option Int
  dreq    : Option (Nat × Int)
  nextReq : Time
  seq     : Nat
  mpd     : Option Int
  off     : Option Int
  good    : Nat
  ref     : Int
  far     : Nat
  lossy   : Nat
deriving DecidableEq, Repr

/-- A pulse programme (R412), times in 0.125 ns units of local time. `mode`: 0 stop, 1 one-shot, 2 periodic. -/
structure Pulse where
  mode   : Nat
  start  : Int
  period : Nat
  width  : Nat
  low    : Bool
deriving DecidableEq, Repr

/-- A pulse output: the programme in force, the one that takes effect when the current pulse ends, the number of the next active edge,
and whether it is in a pulse. -/
structure PulseOut where
  prog   : Pulse
  next   : Option Pulse
  k      : Nat
  active : Bool
deriving DecidableEq, Repr

/-- An OFFSET_MEASURE that waits for an edge (R416): its command, the expected time and the steps of local time since its dispatch, which do
not move its window. -/
structure OffMeas where
  cmd   : Nat
  exp   : Int
  steps : Int
deriving DecidableEq, Repr

/-- The TU (chapter 15). `hist` are the frequency adjustments of the last 64 s, newest first, with when each began; `fifo` the timestamps
of the inputs; `caps` what reads captured, by requester × 4 + (0 TU_NOW, 1 + i input i); `sel` the DOMAIN_SELECT that waits for the slew,
with its step and Δ; `msgAt` when the next time messages are due, `msgWait` the ports whose message waits for credits, and `msgSeq` their
numbers by port. `cpHold` says that the holdover began when the time processor stopped (R424). -/
structure TuState where
  inst   : AMap TuInst
  hist   : List (Time × Int)
  outs   : AMap PulseOut
  fifo   : AMap (List Int)
  caps   : AMap Int
  meas   : AMap OffMeas
  sel    : Option (Nat × Int × Int)
  msgAt  : Time
  msgWait : List Nat
  msgSeq : AMap Nat
  cpHold : Bool
deriving DecidableEq, Repr

/-- A current step that waits for the ramp governor: what is left of it in A, when it was asked for, and what waits for it: 0 the engines
that wake or sleep, 1 nothing, a clock having moved by itself, n + 1 the HC clock at n × 100 MHz. -/
structure RampStep where
  amps : Int
  at_  : Time
  act  : Nat
deriving DecidableEq, Repr

/-- Boot, resets, power and temperature (chapter 16). `phase`: 0 no VDD_AON, 1 held in reset, 2 booting, 3 boot stopped, 4 running, 5 Calm,
6 waking from Calm before PWR_GOOD, 7 held by a thermal trip. `since` is when the phase's clock began and `early` by how much the times of
Table 16-1 are earlier; `wake` whether the boot is a wake. `mainEn` is MAIN_PWR_EN, `good` whether PWR_GOOD is high. `held` lists the masters
held in reset. `trans` is the POWER_STATE in progress with its target and its phase (0 draining, 1 in the governor). `ramp` holds the
current steps that wait, oldest first, with when each was asked for, and `steps` those granted in the last 100 µs. `rampIn`, `tokIn` and
`pwrIn` are PCR_RAMP_CFG, PCR_TOK_MAX and PCR_BND_PWR in force. `clkFrom` were ENG and NOC of PCR_CLK_SET in 50 MHz units at `clkAt`, on
their way to the set values, and `cycles` the engine clock cycles since reset up to `clkAt`, in 1/160. `hot1`, `hot2` and
`hotTrip` are since when Tj has been at the levels of Table 16-8, `cool1` and `cool2` since when it has been below them. `thrMark` is up to
when PCR_THR_MS has counted. `alert` is AVS_ALERT_N low, `tripped` THERMTRIP_N low. `lost` lists the references that are not stable, and
`pcieOff` says that the PCIE PLL has stopped for want of its source. `stuck` says that a freeze has stopped a POWER_STATE (R454). -/
structure PcrState where
  phase   : Nat
  since   : Time
  early   : Time
  wake    : Bool
  bootAt  : Time
  mainEn  : Bool
  good    : Bool
  held    : AMap Time
  trans   : Option (Nat × Nat × Nat)
  ramp    : List RampStep
  steps   : List (Time × Int)
  rampIn  : Word
  tokIn   : Nat
  pwrIn   : Int × Int
  clkFrom : Nat × Nat
  clkAt   : Time
  cycles  : Nat
  hot1    : Option Time
  hot2    : Option Time
  hotTrip : Option Time
  cool1   : Option Time
  cool2   : Option Time
  thrMark : Option Time
  sat     : List Nat
  past    : List Nat
  alert   : Bool
  tripped : Bool
  lost    : List Nat
  pcieOff : Bool
  stuck   : Bool
deriving DecidableEq, Repr

/-- A receive stream (R85): its expected number and the packets held out of order, by SPRAY_SEQ with their arrival times. -/
structure RxStream where
  e    : Nat
  held : List (Nat × Time × FabPkt)
deriving DecidableEq, Repr

/-- What a request that the DX-64 has issued into the fabric serves (R89): a mask table entry and its MCAST_SET, an FWU execution entry and
the piece of it, or a BULK_COPY and the piece of it. -/
inductive TagUse where
  | mcast (idx cmd : Nat)
  | exec (entry piece : Nat)
  | bulk (ctx piece : Nat)
deriving DecidableEq, Repr

/-- An outstanding tag (R89 to R91) with the fabric class of its request. `sent` is when the last packet of the request left its port. -/
structure Tag where
  gen   : Nat
  rank  : Nat
  job   : Nat
  cls   : Nat
  use   : TagUse
  limit : Time
  sent  : Option Time
deriving DecidableEq, Repr

/-- A packet that waits for a port (R84, R96), with the tag of the request it carries and, for a multicast result, the
collective and tile that hold it. `link` marks the link-local MCAST_UPDATE of R94. -/
structure TxPkt where
  pkt    : FabPkt
  mcast  : Bool
  link   : Bool
  tag    : Option Nat
  holder : Option (Nat × Nat)
deriving DecidableEq, Repr

/-- A request that waits for a tag in its issuing context (R93): job, destination rank, class, opcode, address, length and data. -/
structure TagWait where
  use  : TagUse
  job  : Nat
  rank : Nat
  cls  : Nat
  opc  : Nat
  addr : Nat
  len  : Nat
  data : List Byte
deriving DecidableEq, Repr

/-- The rank table of a job (Table 3-3): `entries` holds the FPA and delivery group of each VALID rank. -/
structure RankTab where
  fabJob  : Nat
  count   : Nat
  gwRank  : Nat
  entries : AMap (Nat × Nat)
deriving DecidableEq, Repr

/-- An entry of the multicast mask table (R94): the job it is bound to, its mask, whether it is valid, and the MCAST_SETs in
progress with their deadlines. -/
structure Mask where
  job   : Nat
  bits  : Nat
  valid : Bool
  cmds  : List (Nat × Time)
deriving DecidableEq, Repr

/-- The fabric interface (chapter 3). Stream keys are (job × 2^24 + rank) × 8 + class, and (job × 2^12 + mask) × 8 + class. -/
structure FifState where
  /-- credits of each port and class, key port × 8 + class, and flits sent whose credits have not returned -/
  cred    : AMap Nat
  credOut : AMap Nat
  /-- receive credits granted and not yet used, key port × 8 + class (R79) -/
  rxCred  : AMap Nat
  /-- the sizes of the class partitions in force, in 64 KiB units (R101) -/
  parts   : List Nat
  /-- up to when FIF_P_CRED_STALL has counted, for each port for which a packet is ready without credits -/
  stall   : AMap Time
  rx      : AMap RxStream
  txSeq   : AMap Nat
  mcSeq   : AMap Nat
  /-- packets delivered in stream order that the CE, FWU or FIF has not taken yet, oldest first -/
  got     : List FabPkt
  /-- requests that wait in the Eddy buffer for an operation context or for MAX_OUT (R108), oldest first -/
  blocked : List FabPkt
  /-- management packets that have passed their checks, oldest first -/
  mgmt    : List FabPkt
  txq     : List TxPkt
  tagWait : List TagWait
  tags    : AMap Tag
  /-- tags in quarantine, when it ends and what the request served -/
  quar    : AMap (Time × TagUse)
  gens    : AMap Nat
  /-- the command whose operation a request served, key tag × 256 + generation (R91) -/
  owner   : AMap Nat
  /-- the port after the one sprayed last -/
  rr      : Nat
  ranks   : AMap RankTab
  masks   : AMap Mask
  /-- fabric port addresses between RESET_NOTICE and RESET_DONE -/
  resets  : List Nat
deriving DecidableEq, Repr

/-- A message for the line that waits to be sealed: its transmit queue (R253), its peer, the message, and the command whose
warnings it may raise (Table 2-7). -/
structure OutMsg where
  queue : Nat
  peer  : Nat
  msg   : Msg
  cmd   : Option Nat
  at_   : Time
  /-- the class 3 output buffer that holds it already -/
  buf   : Option Nat
  /-- the class 4 buffer that holds its data until it is sealed (R16) -/
  src   : Option Nat
  /-- the execution entry whose response it is (R113) -/
  ent   : Option Nat
deriving DecidableEq, Repr

/-- A message opened from a record and not yet taken by its unit: the sending gateway, the JOB of the segment (the job number
at the sender), the line class, the port, and the accepted content it is part of (R228). `held` says that it has been handed to its unit
and waits there (R230), and `buf` is the buffer that holds its decoded data with the job it is charged to (R16, R210). -/
structure InMsg where
  peer : Nat
  job  : Nat
  cls  : Nat
  port : Nat
  seg  : Nat
  msg  : Msg
  held : Bool
  buf  : Option (Nat × Nat)
deriving DecidableEq, Repr

/-- A window (Table 4-1) and its counts (Table 2-17). `dying` is the WIN_DESTROY in progress. -/
structure Win where
  kind     : Nat
  perm     : Nat
  cls1     : Bool
  peer     : Nat
  peerJob  : Nat
  base     : Nat
  length   : Nat
  target   : Nat
  peerWin  : Nat
  tmoMs    : Nat
  maxOut   : Nat
  job      : Nat
  scav     : Bool
  dying    : Option Nat
  ops      : Nat
  bytes    : Nat
  timeouts : Nat
  nacks    : Nat
deriving DecidableEq, Repr

/-- A BULK_COPY in progress (R129, R130). `next` is the window offset after the last chunk sent, `done_` the offset up to which
it is complete. `parts` are chunks whose local packets are outstanding: offset, length and packets left. `gathered` is the data
read for the next chunk of a copy to the far site, by local offset. -/
structure Bulk where
  toFar    : Bool
  lrank    : Nat
  laddr    : Nat
  start    : Nat
  len      : Nat
  next     : Nat
  done_    : Nat
  parts    : List (Nat × Nat × Nat)
  finished : List (Nat × Nat)
  gathered : AMap (List Byte)
deriving DecidableEq, Repr

/-- An operation context (chapter 4). `sent` is when its request went to the CC; `fence` the fence an FFENCE serves, `cmd` the
command that owns it, `early` the responses held while the context is paged, each with its buffer of the paging pool (R121), and `buf` the
buffer that holds its data (R16). -/
structure OpCtx where
  gen      : Nat
  job      : Nat
  rank     : Nat
  tag      : Nat
  fgen     : Nat
  fcls     : Nat
  lcls     : Nat
  win      : Nat
  peer     : Nat
  fop      : Nat
  off      : Nat
  len      : Nat
  addr     : Nat
  seq      : Nat
  data     : List Byte
  tmo      : Time
  deadline : Time
  sent     : Option Time
  paged    : Bool
  early    : List (FarMsg × Nat)
  buf      : Option Nat
  fence    : Option Nat
  cmd      : Option Nat
  bulk     : Option Bulk
deriving DecidableEq, Repr

/-- A fence in progress (R117, R118): its requester's packet fields or its command, the contexts it covers with its FFENCEs that
are still outstanding, and the first status other than OK. `entries` are the execution entries a fence of an export window
covers. -/
structure Fence where
  job     : Nat
  rank    : Nat
  win     : Nat
  tag     : Nat
  fgen    : Nat
  fcls    : Nat
  addr    : Nat
  cmd     : Option Nat
  covers  : List Nat
  entries : List Nat
  /-- streams, by rank and line class, whose FFENCE still waits for a context -/
  need    : List (Nat × Nat)
  status  : Nat
  detail  : Nat
deriving DecidableEq, Repr

/-- The state of one ordering stream at the executing gateway (R506). `bulks` are its bulk copies to this site by OPID, each with the status of
its first failed chunk, 0 while there is none, and its contiguous completed window offset (R130). -/
structure FarStream where
  peer   : Nat
  win    : Nat
  impWin : Nat
  gen    : Nat
  rank   : Nat
  cls    : Nat
  expect : Nat
  bulks  : List (Nat × Nat × Nat)
deriving DecidableEq, Repr

/-- An execution entry (R113). `bad` is the status of a failed check of R111; `started` when it issued, `left` the fabric packets
without an answer, `status` the first failing status, `data` the data read, by piece. `blockedAt` starts a hazard wait (R115). `seg` is the
accepted content that holds its request, and `resp` says that its response waits to be sealed. `buf` is the buffer, with the job it is charged
to, of the data of its request and then of its response (R16). -/
structure ExecEnt where
  peer    : Nat
  cls     : Nat
  job     : Nat
  msg     : FarMsg
  bad     : Nat
  got     : Time
  started : Option Time
  left    : Nat
  status  : Nat
  data    : AMap (List Byte)
  blockedAt : Option Time
  seg     : Nat
  resp    : Bool
  buf     : Option (Nat × Nat)
deriving DecidableEq, Repr

/-- The far window unit (chapter 4). `seqs` holds the next STREAM_SEQ of each originating stream, key (window × 2^24 + rank) × 8 +
line class. `turn` is where the round robin of the issue stage goes on (R123). `heldOrder` names the contexts of the responses that wait for a context to be
paged in, in order of arrival (R116, R121), and `owner` the command that owned an operation, by context × 256 + generation (R126). Credits are cumulative counts per peer: `execLimit` granted to
us, `execSent` used, `execRecv` requests taken from the peer, `execBack` entries freed for it, `execGrant` granted to it. -/
structure FwuState where
  wins     : AMap Win
  winGen   : AMap Nat
  ctxs     : AMap OpCtx
  gens     : AMap Nat
  /-- contexts in quarantine: when it ends, and the window of the operation while that exists -/
  quar     : AMap (Time × Option Nat)
  owner    : AMap Nat
  heldOrder : List Nat
  seqs     : AMap Nat
  turn     : Nat
  fences   : AMap Fence
  fenceNo  : Nat
  ents     : AMap ExecEnt
  streams  : List FarStream
  execLimit : AMap Nat
  execSent : AMap Nat
  execRecv : AMap Nat
  execBack : AMap Nat
  execGrant : AMap Nat
deriving DecidableEq, Repr

/-- A tree descriptor (Table 5-2): `children` holds the edge and the site mask of each child in use. -/
structure Tree where
  job      : Nat
  dir      : Nat
  role     : Nat
  depth    : Nat
  parent   : Nat
  relayTo  : Nat
  rttUs    : Nat
  rootSite : Nat
  sites    : Nat
  children : List (Nat × Nat)
deriving DecidableEq, Repr

/-- A residual region (R175 to R177): `dirs` bit 0 the upward and bit 1 the downward array, `bits` its width. -/
structure Resid where
  job   : Nat
  elems : Nat
  dirs  : Nat
  bits  : Nat
  addr  : Nat
  size  : Nat
deriving DecidableEq, Repr

/-- A combiner program (Table 6-7): the instructions of its two sections, its constants and, with WEIGHTS, its weight table. -/
structure Prog where
  job     : Nat
  acc     : List Nat
  fin     : List Nat
  consts  : List Nat
  weights : List Nat
deriving DecidableEq, Repr

/-- The statistics of a collective (Table 6-6). The totals are exact accumulators (R184). -/
structure CollStats where
  upElems   : Nat
  upNonfin  : Nat
  upQsat    : Nat
  upZero    : Nat
  upSumsq   : Nat
  upErrsq   : Nat
  upMaxabs  : Nat
  resElems  : Nat
  resNonfin : Nat
  resOsat   : Nat
  resSumsq  : Nat
  resMaxabs : Nat
  norm      : Nat
  digest    : Nat
deriving DecidableEq, Repr

/-- A tile context (R141). `acc` is empty before the first term; `last` holds the ranks whose LAST has come, `parts` the chunks
of each rank still gathered, `kids` the child edges whose partial has come, `wire` an all-gather partial, `ready` whether the
tile has become ready for dispatch, `sentUp` and `done_` whether its upward part and its result have been handled, `mc` the
result chunks that wait for MCAST_RESULT_INJECT, and `ix` the number of the context, which names its home slot (R143). -/
structure TileCtx where
  acc      : List Nat
  norm     : Nat
  level1   : Bool
  last     : List Nat
  miss     : Bool
  parts    : AMap (AMap (List Byte))
  kids     : List Nat
  wire     : List Byte
  ready    : Bool
  sentUp   : Bool
  done_    : Bool
  mc       : AMap (List Byte)
  deadline : Option Time
  since    : Time
  /-- since when it has waited for a child or for a result (R143) -/
  waitAt   : Option Time
  paged    : Bool
  buf      : Option Nat
  ix       : Nat
deriving DecidableEq, Repr

/-- What an all-to-all keeps (Table 5-6, R153): bytes sent to each site, the (contributor, site) pairs whose LAST has come, sites
that A2A_END has gone to, bytes delivered from each site, and totals announced. -/
structure A2a where
  mode  : Nat
  equal : Nat
  route : List Nat
  range : List Nat
  send  : List Nat
  recv  : List Nat
  out   : AMap Nat
  lasts : List (Nat × Nat)
  ended : List Nat
  got   : AMap Nat
  told  : AMap Nat
deriving DecidableEq, Repr

/-- A running collective (Table 5-3). `trees` holds tree A and tree B, none for all-to-all. `handled` lists the tiles handled,
`digA` and `digB` the digests of the tiles of each tree that this site receives, `sums` the root's digests by tree × 32 + site,
`roots` the results each tree's root has sent, `told` the digests received by tree, and `latest` the latest tile deadline. -/
structure Coll where
  id       : Nat
  job      : Nat
  cid      : Nat
  op       : Nat
  flags    : Nat
  inFmt    : Nat
  outFmt   : Nat
  wireFmt  : Nat
  round    : Nat
  log2     : Nat
  elems    : Nat
  trees    : List Tree
  split    : Nat
  mask     : Nat
  contrib  : List Nat
  comb     : Option Nat
  resid    : Option Nat
  seed     : Nat
  localMs  : Nat
  bounds   : List Nat
  prio     : Nat
  tmoMs    : Nat
  scav     : Bool
  start    : Time
  state    : Nat
  tiles    : AMap TileCtx
  handled  : List Nat
  stored   : Nat
  digest   : Nat
  digA     : Nat
  digB     : Nat
  sums     : AMap Nat
  roots    : AMap Nat
  told     : AMap Nat
  latest   : Time
  stats    : CollStats
  a2a      : Option A2a
deriving DecidableEq, Repr

/-- A tile that waits for a dispatch slot (R150): `kind` 0 to be quantised, 1 UP and 2 DOWN wire bytes to be sent over `edge`.
`defer` counts the epochs it was deferred, `mark` is the last of them, `saved` the tokens of this epoch held for it. -/
structure CeItem where
  coll  : Nat
  tile  : Nat
  kind  : Nat
  edge  : Nat
  wire  : List Byte
  prio  : Nat
  defer : Nat
  mark  : Nat
  saved : Nat
deriving DecidableEq, Repr

/-- An early message: a line message, or a chunk or message of a fabric edge with its rank, for a collective that does not run yet (R145). -/
structure Early where
  job  : Nat
  cid  : Nat
  tile : Nat
  at_  : Time
  line : Option InMsg
  pkt  : Option FabPkt
  edge : Option (Nat × CollMsg)
deriving DecidableEq, Repr

/-- A chunk or line message for a paged tile context, in a buffer of the paging pool (R143). -/
structure PageHold where
  key  : Nat
  tile : Nat
  buf  : Nat
  line : Option InMsg
  pkt  : Option FabPkt
deriving DecidableEq, Repr

/-- The collective engine (chapters 5 and 6). Collectives are keyed job × 4096 + collective ID. `fin` holds the final state and
tiles handled of collectives that have ended, `stats` their statistics. `wait` holds chunks left in the Eddy buffer. `ctl` and
`cost` are CE_ENERGY_CTL and CE_ECOST in force (R161), `tok` the tokens left in epoch `epoch`, `short` whether it ran short. `held` are chunks and
messages for paged contexts. `lane` is the exact tile served last, with whether a line partial was served (R168), and `half` the job with 16-bit
residuals of which the last dispatch slot quantised a tile upward (R18). -/
structure CeState where
  trees  : AMap Tree
  resids : AMap Resid
  progs  : AMap Prog
  colls  : AMap Coll
  fin    : AMap (Nat × Nat)
  stats  : AMap CollStats
  wait   : List FabPkt
  early  : List Early
  held   : List PageHold
  lane   : Option (Bool × Nat × Nat)
  half   : Option Nat
  items  : List CeItem
  ctl    : Nat
  cost   : Nat
  tok    : Nat
  epoch  : Nat
  short  : Bool
deriving DecidableEq, Repr

/-- A stream's input at a compressor lane (R205): the message it becomes, its body the raw bytes, its peer and class, the command
it serves, whether it is forced stored, and the buffer that holds the input. -/
structure CxIn where
  hdr    : CollMsg
  raw    : List Byte
  forced : Bool
  peer   : Nat
  cls    : Nat
  job    : Nat
  cmd    : Option Nat
  coll   : Nat
  tile   : Nat
  buf    : Option Nat
deriving DecidableEq, Repr

/-- A compressor lane: its input queue, and the streams that have entered the draught pass with their output buffers. -/
structure CxLane where
  queue : List CxIn
  busy  : List (CxIn × Nat)
deriving DecidableEq, Repr

/-- A stream of an opened segment, by message number, at a decompressor lane with its output buffer. -/
structure CxDec where
  seg : Nat
  ix  : Nat
  len : Nat
  buf : Nat
deriving DecidableEq, Repr

/-- An opened segment whose streams are being decoded (R210, R213): its segment header with its records, `wait` the messages whose stream no lane has accepted yet,
`busy` those at a lane, `bad` the first failed message and its check. `bufs` are the output buffers of its streams by message, with the job each is
charged to. -/
structure CxSeg where
  port : Nat
  seg  : Seg
  msgs : List InMsg
  wait : List Nat
  busy : List Nat
  bad  : Option (Nat × Nat)
  /-- output buffers by message, with the job they are charged to -/
  bufs : AMap (Nat × Nat)
deriving DecidableEq, Repr

/-- The compression engine (chapter 7): 32 compressor lanes, 32 decompressor lanes and the segments they decode. -/
structure CxState where
  comp  : AMap CxLane
  dec   : AMap (List CxDec)
  segs  : AMap CxSeg
deriving DecidableEq, Repr

/-- A sealed record (R256) with its messages as they were handed over, the port whose transmit data key sealed it, and the class 3
buffer that holds it. -/
structure Sealed where
  rec_ : Rec
  msgs : List OutMsg
  port : Nat
  buf  : Option Nat
deriving DecidableEq, Repr

/-- An aggregate (Table 9-3): its settings, its start tag and inner virtual time (R261), and its bucket in 1/64 byte (R264). -/
structure Agg where
  rate   : Nat
  burst  : Nat
  weight : Nat
  ovh    : Int
  memf   : Nat
  s      : Nat
  v      : Nat
  tok    : Int
  /-- RATE as the last refill took it (R272) -/
  on     : Nat
deriving DecidableEq, Repr

/-- The settings of the SS registers as the last refill took them (R272), the last four by port: SS_ADMIT_LINE, SS_ADMIT_MEM,
SS_QLIMIT, SS_P_RATE, SS_P_BURST, SS_P_OVH, and rate and depth of the class 1 bucket. -/
structure SsRegs where
  line   : Nat
  mem    : Nat
  limit  : Nat
  rate   : List Nat
  burst  : List Nat
  ovh    : List Int
  rate1  : List Nat
  burst1 : List Nat
deriving DecidableEq, Repr

/-- The scheduler (chapter 9). Aggregates and queues not listed are at the defaults of Table 9-3. `qw` holds the weight and start tag
of a queue, `vt` the virtual time of each peer slot, `port` and `c1` the port and class 1 buckets, `rr` the queue served last by
a round robin, key 2 × slot + (0 tier 3, 1 tier 4), `f` the factor in force, `scaledTill` when it was last below 65,536, and
`stallAt` the last microsecond a stall counter counted, key 2 × port + (0 bucket, 1 credit). -/
structure SsState where
  queues : AMap (List Sealed)
  aggs   : AMap Agg
  qw     : AMap (Nat × Nat)
  vt     : List Nat
  port   : List Int
  c1     : List Int
  rr     : AMap Nat
  f      : Nat
  scaledTill : Option Time
  stallAt : AMap Nat
  /-- the register settings in force -/
  force   : SsRegs
deriving DecidableEq, Repr

/-- A segment in the replay store (R221): its records, its attempt, whether a transmission is due and whether that one counts as an
attempt, the last failure, whether its last attempt failed, the port and SEQ it was moved from (R243), the half that
holds its copy, and the address of the copy (log entry 98). -/
structure TxSeg where
  cls    : Nat
  job    : Nat
  recs   : List Sealed
  len    : Nat
  try_   : Nat
  due    : Bool
  again  : Bool
  sent   : Option Time
  nak    : Option (Nat × Nat)
  failed : Bool
  fo     : Option (Nat × Nat)
  home   : Nat
  addr   : Nat
deriving DecidableEq, Repr

/-- A NAK entry with the group frames it is still to be reported in (R229). -/
structure Nak where
  cause : Nat
  count : Nat
  check : Nat
  try_  : Nat
  start : Nat
  left  : Nat
deriving DecidableEq, Repr

/-- A line port of the TE (chapter 8). `segs` holds the unaccepted segments by SEQ. `echo` is the latest TS_VAL received and when,
`lastEcho` the last TS_ECHO that gave a sample. `acc` holds the accepted SEQs from CUM_ACK on, `skip` ranges below it that were
skipped, and `foBase` the lowest SEQ whose state is still known (R244). `carry` is what a unit leaves for the next group frame,
in bytes, `retx` the cells of retransmissions and all cells since first transmissions began to wait (R238), and `ctl` control
messages that wait for a slot: their channel and plaintext. `early` are the SEQs from RX_HIGH on that a retransmission has brought (R227). `cells` and
`tcs` are what the LF has passed on and the TE has not taken: cells and breaks in order (R298), and transport control in 512 bytes each. -/
structure TePort where
  usable   : Bool
  verBad   : Bool
  downAt   : Option Time
  txEpoch  : Nat
  rxEpoch  : Nat
  txSeq    : Nat
  sndLow   : Nat
  segs     : AMap TxSeg
  carry    : List Byte
  retx     : Nat × Nat
  srtt     : Nat
  rttvar   : Nat
  sampled  : Bool
  /-- the latest SENDER received: port, site and gateway -/
  sender   : Option Nat
  echo     : Option (Nat × Time)
  lastEcho : Option Nat
  rxCum    : Nat
  rxHigh   : Nat
  acc      : List Nat
  skip     : List (Nat × Nat)
  foBase   : Nat
  naks     : List Nak
  hunting  : Bool
  ctl      : List (Nat × List Byte)
  early    : List Nat
  cells    : List LineItem
  tcs      : List (List Byte)
deriving DecidableEq, Repr

/-- What the TE keeps of a peer (R217, R232, R233), each list by line class: as sender the limits received and the cells sent; as
receiver the cells accepted, freed, granted and advertised, and those received since grants were last computed. -/
structure TePeer where
  lim    : List Nat
  sent   : List Nat
  got    : List Nat
  freed  : List Nat
  grant  : List Nat
  adv    : List Nat
  recent : List Nat
  noPathAt : Option Time
deriving DecidableEq, Repr

/-- Accepted content held in the receive pool until its consumers have taken its messages (R232). -/
structure Held where
  peer  : Nat
  cls   : Nat
  cells : Nat
  left  : Nat
deriving DecidableEq, Repr

/-- The transport engine (chapter 8). `opening` holds segments that passed checks 1 to 6 of R225, with their port. -/
structure TeState where
  ports   : AMap TePort
  peers   : AMap TePeer
  held    : AMap Held
  nextSeg : Nat
  opening : List (Nat × Seg)
deriving DecidableEq, Repr

/-- A key of the CC (R274): its epoch, chain value, key and salt, its next RCTR as transmit key or one more than the last accepted as
receive control key, and when it was installed. -/
structure CcKey where
  epoch : Nat
  chain : List Byte
  key   : List Byte
  salt  : List Byte
  rctr  : Nat
  at_   : Time
deriving DecidableEq, Repr

/-- A receive key with, for a data key, its anti-replay bitmap: the RCTRs whose bits are set, and the user number of its frames. `ex`
tells the keys of one key agreement from those of an earlier one (R361). -/
structure RxKey where
  key  : CcKey
  seen : List Nat
  user : Nat
  ex   : Nat
deriving DecidableEq, Repr

/-- A rekey of a transmit key (R286): the step in progress, the new key, the epoch it replaces and the REKEY command. -/
structure Rekey where
  step : Nat
  next : CcKey
  old  : Nat
  cmd  : Option Nat
deriving DecidableEq, Repr

/-- The cipher cluster (chapter 10), by key slot: transmit keys, receive keys with the newest last, rekeys and since when a key has
stalled its records (R287). `stallMark` is up to when CC_STALL_US has counted. `slots` are control slots received and not yet
opened, with their port and the SENDER of their group, `inq` rekey messages opened, with their port. `work` is a microsecond and the
core cycles that opening and sealing took in it, and `owed` how many records
outside class 1 are to be sealed before the next is opened (R284). -/
structure CcState where
  tx     : AMap CcKey
  rx     : AMap (List RxKey)
  rekeys : AMap Rekey
  stall  : AMap Time
  stallMark : Option Time
  slots  : List (Nat × Nat × CtrlSlot)
  inq    : List (Nat × List Byte)
  work   : Nat × Nat × Nat
  owed   : Nat
deriving DecidableEq, Repr

/-- A member frame in the deskew buffer (R297): when it came whole, and the PBIP errors that it shows in the frame before. -/
structure RxFrame where
  at_   : Time
  frame : MFrame
  errs  : Nat
deriving DecidableEq, Repr

/-- A member as the LF receives and sends it (R293 to R307). `stream` are received bytes that no frame has taken, `fasBad`, `mfiOk`, `mfiBad`,
`gidOk`, `gidBad`, `mimOk`, `mimBad`, `rdiOn` and `rdiOff` count consecutive frames, `bip` the section and path parities of the last whole
frame received, and `buf` the deskew buffer, oldest first. `oofAt`, `inAt`, `loaAt` and `loaOk` are since when the member has been out of
frame, in frame, out of alignment and within it. `plan` is 0, or 1 leaving, 2 out, 3 returning; `planBy` who asked for the removal: 0 the LO,
1 MEMBER_SET; `freed` whether the LF has released it to the LO; `back` when it returned. `srei` and `prei` are what the next frame returns,
`txBip` the parities of the last frame sent. `cyc` are the trace bytes of the cycle in progress, `cycs` the last whole cycle and how often it
came, and `trace` the accepted trace. `degHi` and `degLo` count windows. -/
structure LfMem where
  stream  : List Byte
  inFrame : Bool
  aligned : Bool
  fasBad  : Nat
  mfi     : Option Nat
  mfiOk   : Nat
  mfiBad  : Nat
  gidOk   : Nat
  gidBad  : Nat
  mimOk   : Nat
  mimBad  : Nat
  rdiOn   : Nat
  rdiOff  : Nat
  oofAt   : Option Time
  inAt    : Option Time
  loaAt   : Option Time
  loaOk   : Option Time
  skew    : Nat
  bip     : Option (BitVec 16 × BitVec 16)
  buf     : List RxFrame
  srei    : Nat
  prei    : Nat
  txBip   : BitVec 16 × BitVec 16
  cyc     : List Byte
  cycs    : List Byte × Nat
  trace   : List Byte
  plan    : Nat
  planBy  : Nat
  freed   : Bool
  back    : Option Time
  degHi   : Nat
  degLo   : Nat
  /-- it was planned out, or in another defect, at some moment of the DEG window in progress (R307) -/
  degOff  : Bool
deriving DecidableEq, Repr

/-- A line port of the LF (chapter 11). `mfi` numbers the group frame being sent and `sent` whether it has been. `last` is the group frame
passed on last, MFC × 256 + MFI, with the arrival of its earliest member; `prev` its TX_MAP with whether a member of it was missing, until
its errors are known; `gid`, `mode` and `slotCtl` what the peer's frames carry (R294). `rdiOn` and `rdiOff` count group frames with PRDI 1
and 0; `logAt` and `logOk` are since when too few and enough members deliver; `fewAt` since when fewer than MIN_MEMBERS are in frame
(Table 11-5). `pages` are the two connection pages in slot order, `rxPage` the page whose RX_CELL flags hold, `swapAt` the MFC at which the
active page became active, `mapped` whether a SLOT_MAP has succeeded, and `swap` the PAGE_SWAP that waits.
`thru` are received payloads by member for the slots that the other port passes through. `adds` and `drops` are the MEMBER_SET commands
that wait: command, member and start. `inForce` are LF_DEG_CFG, LF_DEF_CFG and LF_GRP_CFG as the last boundary took them (R321). -/
structure LfPort where
  mems    : AMap LfMem
  mfi     : Nat
  sent    : Bool
  last    : Option (Nat × Time)
  prev    : Option (Nat × Bool)
  gid     : Nat
  mode    : Nat
  slotCtl : Nat
  rdiOn   : Nat
  rdiOff  : Nat
  logAt   : Option Time
  logOk   : Option Time
  fewAt   : Option Time
  txTrace : List Byte
  expTrace : List Byte
  pages   : List Nat × List Nat
  rxPage  : Nat
  rxWait  : Bool
  swapAt  : Nat
  mapped  : Bool
  swap    : Option Nat
  thru    : List (AMap (List Byte))
  peerPlan : Nat
  adds    : List (Nat × Nat × Time)
  drops   : List (Nat × Nat)
  inForce : Nat × Nat × Nat
  /-- the members that have entered a defect with action in the group frame in progress (R304) -/
  justIn  : Nat
deriving DecidableEq, Repr

/-- One second of one object for performance monitoring (R315 to R317): its number, blocks and errored blocks, whether it held a
defect, a planned removal, DARK or a step of TU time, corrected bits, and the pre-code error rate as a binary32 code. -/
structure PmSec where
  sec     : Nat
  blocks  : Nat
  errd    : Nat
  defect  : Bool
  planned : Bool
  suspect : Bool
  corr    : Nat
  ber     : Option Nat
deriving DecidableEq, Repr

/-- A bin (Table 11-7). `berSum` is the sum of the rates in units of 2^-149 over `berN` seconds. -/
structure PmBin where
  start   : Nat
  elapsed : Nat
  es      : Nat
  ses     : Nat
  uas     : Nat
  planned : Nat
  bbe     : Nat
  corr    : Nat
  berMin  : Nat
  berMax  : Nat
  berSum  : Nat
  berN    : Nat
  suspect : Bool
deriving DecidableEq, Repr

/-- Performance monitoring of one object (R315 to R318): the second in progress, the last seconds not yet in a bin, oldest first, with
whether they count as unavailable, and the bins. -/
structure PmObj where
  cur     : PmSec
  pend    : List (PmSec × Bool)
  unavail : Bool
  c15     : PmBin
  hist    : List PmBin
  c24     : PmBin
  prev24  : PmBin
deriving DecidableEq, Repr

/-- The LF: its ports, and performance monitoring by port × 64 + object. -/
structure LfState where
  ports : AMap LfPort
  pm    : AMap PmObj
deriving DecidableEq, Repr

/-- A comb laser's bring-up (R328, R331): the laser (1 main, 2 spare), its start, the COMB_SWITCH it serves, whether it brings the old
laser back after a failed switch. -/
structure Bring where
  laser : Nat
  since : Time
  cmd   : Option Nat
  back  : Bool
deriving DecidableEq, Repr

/-- A calibration (R337 to R339): its member, whether it follows the cycle, its phase (0 asking for the removal, 1 granted, 2 at work on
a removed member, 3 rejoining, 4 refused, 5 at work on a member that was not lit), refusals, and when the phase began. -/
structure Cal where
  mem    : Nat
  cycle  : Bool
  phase  : Nat
  refuse : Nat
  since  : Time
deriving DecidableEq, Repr

/-- A ring that its last search has assigned (R332, R334, R338): the searched heater power in 0.1 mW, the drop power there in 0.1 dBm, the die
temperature in 0.1 °C, and the heater temperature coefficient in 0.001 mW for 0.1 °C. -/
structure RingSet where
  heat  : Nat
  power : Int
  temp  : Int
  coef  : Int
deriving DecidableEq, Repr

/-- A member's receiver (R326, R327): the alignment of its codewords, symbols that no codeword has taken, and the corrected bits and code bits
of decoded codewords since the last second report. -/
structure MemRx where
  orient : Option Nat
  syms   : List Symbol
  corr   : Nat
  code   : Nat
deriving DecidableEq, Repr

/-- What the last calibration of a member left (R338): modulator bias points, receiver gain and skew, and the power of its comb line in
0.1 dBm. -/
structure CalSet where
  points : List Int
  gain   : Int
  skew   : Int
  line   : Int
deriving DecidableEq, Repr

/-- The LO of a line port (chapter 12). `target` is the laser of the next bring-up and `picked` whether COMB_SWITCH named it; `totMax` the
ceiling of total launch of Table 12-5, `reacq` when a re-acquisition began and `reFail` whether it has failed, `lines` the usable lines and
`freq` their frequencies in MHz, `lowAt` since when LINES_OK has been low. `rings` are the assigned rings, `med` the median peak of each bank,
`cals` what calibration left by member, `temp` the die temperature, `relock` members being searched, `unlock` since when each ring has been
out of lock, `drop` each ring's drop power. `dim` are the members reported without power, `rx` the receivers, `coder` the bytes that wait
for the next codeword of each lit member (R325), and `att` the attenuation of each member in 0.1 dB (R341). `cal` is the calibration in progress, `calNext` the member and time of
the next, `calSoon` members scheduled ahead, `tune` a TUNE_METHOD that waits for locks and `tuneWait` one that waits for a
calibration, with its method. `darkAt` is since when no member has had power, `reflAt` since when the reflection is high, `powerAt` since when power has been seen,
`probe` when a probe began, `probeNext` when the next is due. `sat` and `past` hold the loops at a bound and past one, by loop 0 launch,
1 bias, 2 heaters. `bounds` are the bounds that wait for the end of SAFE. `main` and `spare` are hourly bias samples, newest first. -/
structure LoPort where
  target    : Nat
  picked    : Bool
  totMax    : Int
  bring     : Option Bring
  reacq     : Option Time
  reFail    : Bool
  lines     : Nat
  freq      : List Nat
  lowAt     : Option Time
  rings     : AMap RingSet
  med       : List Int
  cals      : AMap CalSet
  temp      : Int
  relock    : List Nat
  unlock    : AMap Time
  drop      : List Int
  dim       : Nat
  rx        : AMap MemRx
  coder     : AMap (List Byte)
  att       : AMap Nat
  cal       : Option Cal
  calNext   : Nat × Time
  calSoon   : List Nat
  tune      : Option (Nat × Time)
  tuneWait  : Option (Nat × Nat)
  darkAt    : Option Time
  reflAt    : Option Time
  powerAt   : Option Time
  probe     : Option Time
  probeNext : Time
  sat       : List Nat
  past      : List Nat
  bounds    : List (Nat × Word)
  main      : List Nat
  spare     : List Nat
deriving DecidableEq, Repr

/-- A key agreement in progress on a line port (R356 to R362): its command, if any, whether this gateway is the initiator, the
expected peer, the policy, both exchange identifiers, STATE of SEC_P_KX_STAT, the number of its random draws, the messages so
far, the port secret, what the peer's certificates say, and when it times out. -/
structure Kx where
  cmd    : Option Nat
  init   : Bool
  peer   : Nat
  policy : List Byte
  x      : Nat
  px     : Option Nat
  step   : Nat
  rnd    : Nat
  m1     : List Byte
  m2     : List Byte
  m3     : List Byte
  secret : List Byte
  serial : Nat
  tcb    : List Byte
  until_ : Time
deriving DecidableEq, Repr

/-- A key agreement message being sent in fragments (R358): its bytes, the exchange identifier, the next fragment, the next RCTR
and when sending stops. -/
structure KxSend where
  msg    : List Byte
  x      : Nat
  next   : Nat
  rctr   : Nat
  until_ : Time
deriving DecidableEq, Repr

/-- A fragment received (R358). -/
structure KxFrag where
  port  : Nat
  msg   : Nat
  x     : Nat
  ix    : Nat
  count : Nat
  bytes : List Byte
deriving DecidableEq, Repr

/-- The SEC (chapter 13). `cdi1` is CDI_1 while boot needs it, `cdi` CDI_2, from which the alias key follows; `m1`, `m2` and `mr3` are the measurements. By line port:
`kx` the key agreements, `send` their messages, `policies` the policy of the last successful PEER_KEYX and `peers` the serial
and M2 of the authenticated peer. `boot` holds one more than the last RCTR accepted under each bootstrap key. `vcore` and `temp`
are the sensor limits in mV and °C, and `raised` the sensors that have raised the alarm since their trip condition began. `keyAt` is the
moment of the last rekey derivation, ATTEST signing or KEY_ERASE, and `due` a moment at which an alarm is known to come (R366). -/
structure SecState where
  cdi1     : List Byte
  cdi      : List Byte
  m1       : List Byte
  m2       : List Byte
  mr3      : List Byte
  kx       : AMap Kx
  send     : AMap KxSend
  frags    : List KxFrag
  boot     : AMap Nat
  policies : AMap (List Byte)
  peers    : AMap (Nat × List Byte)
  vcore    : Int × Int
  temp     : Int × Int
  raised   : Nat
  keyAt    : Option Time
  due      : Option Time
deriving DecidableEq, Repr

/-- Everything the DX-64 holds but the queue of waiting commands. -/
structure Block where
  now     : Time
  regs    : AMap RegVal
  /-- what hardware did at the present moment to registers that software clears: the value before, and what the events alone make (R12) -/
  fresh   : AMap (Nat × Nat)
  /-- value that the last read of each requester returned -/
  answer  : AMap Word
  /-- read latches and write latches of the requesters (R7, R8): the address of the _LO register and the value of _HI -/
  rdLatch : AMap (Nat × Word)
  wrLatch : AMap (Nat × Word)
  out     : List Out
  dram    : Mem
  host    : Mem
  sram    : Mem
  scratch : Mem
  /-- whether the host memory behind the PCI Express endpoint answers -/
  pcieUp  : Bool
  rings   : AMap Ring
  rrLast  : AMap Nat
  infl    : List InFlight
  nextId  : Nat
  funcs   : AMap Func
  jobs    : AMap Job
  cnt     : AMap Nat
  freeIx  : Nat
  evq     : List Event
  traceq  : List TraceRec
  /-- records that found the trace path busy and have not been counted yet (R463) -/
  traceBusy : Nat
  bm      : BmState
  banks   : AMap Bank
  mc      : MemCtl
  dbg     : DbgState
  clk     : TuClock
  tu      : TuState
  pcr     : PcrState
  health  : Health
  fif     : FifState
  fwu     : FwuState
  ce      : CeState
  cx      : CxState
  ss      : SsState
  te      : TeState
  cc      : CcState
  sec     : SecState
  lf      : LfState
  lo      : AMap LoPort
  outq    : List OutMsg
  inbox   : List InMsg
  /-- the gateway that PEER_KEYX has authenticated on each line port -/
  peerGw  : AMap Nat
  /-- when each line port last ran SHRUNK (R50) -/
  shrunkTill : AMap Time
  /-- peers to which no usable port leads, as the TE reports (R247) -/
  noPath  : List Nat
deriving DecidableEq, Repr

/-- The machine: the block and the commands that wait for it, first in, first out. -/
structure State where
  blk     : Block
  pending : List Instr
deriving DecidableEq, Repr

/-- The always-on PCR and the clocks right after reset. -/
def PcrState.init : PcrState :=
  { phase := 1, since := 0, early := 0, wake := false, bootAt := 0, mainEn := true, good := true, held := [], trans := none, ramp := [],
    steps := [], rampIn := 0x0000B424, tokIn := 4000000, pwrIn := (300, 750), clkFrom := (36, 40), clkAt := 0, cycles := 0, hot1 := none,
    hot2 := none, hotTrip := none, cool1 := none, cool2 := none, thrMark := none, sat := [], past := [], alert := false, tripped := false, lost := [], pcieOff := false, stuck := false }

/-- The buffer manager right after reset (Table 14-5). -/
def BmState.init : BmState :=
  { bufs := [], place := List.replicate 8 0, share := [16, 32, 160, 192, 256, 128, 160, 80],
    have_ := [672, 1344, 6720, 8064, 10752, 5376, 6720, 3360], scr := [], stopped := [], banks := [], tabs := [], lost := 0, residGib := 192, engWait := [],
    lastErr := none, audit := [], auditCmd := none, revoke := [] }

/-- The memory subsystem with every channel in service. -/
def MemCtl.init : MemCtl :=
  { bootRetired := [], retired := [], retiring := none, waiting := [], lostCh := [], lostFr := [], clean := [], moved := [], ues := [], poison := [],
    cmdPoison := [], srPoison := [], patrolAt := 0, sramAt := 0 }

/-- Debug, trace and telemetry right after reset. -/
def DbgState.init : DbgState :=
  { traceBase := 0, traceLen := 0, traceAll := true, traceJob := 0, traceMask := 0, traceMode := 0, traceOff := 0, traceLost := 0,
    eventLost := 0, wdMs := 100, wdOn := true, sw := [], frozen := [], dumps := [], halted := [], hregs := [], trigs := [], dmi := none, stall := [] }

/-- Health tallies right after reset. -/
def Health.init : Health :=
  { cur := [], last := [], boot := [], tj := none, tjLast := 0, hourAt := 0, snap := (0, 0), snapAt := 0, missed := 0, fences := 0 }

/-- The time unit's clock right after reset (R398). -/
def TuClock.init : TuClock := { base := 0, at_ := 0, ppt := 0, rem := 0, slewAt := 0, ppb := 0 }

/-- The time unit right after reset. -/
def TuState.init : TuState :=
  { inst := [], hist := [], outs := [], fifo := [], caps := [], meas := [], sel := none, msgAt := 0, msgWait := [], msgSeq := [], cpHold := false }

/-- The fabric interface right after reset. -/
def FifState.init : FifState :=
  { cred := [], credOut := [], rxCred := [], parts := List.replicate 8 64, stall := [], rx := [], txSeq := [], mcSeq := [], got := [], blocked := [], mgmt := [],
    txq := [], tagWait := [], tags := [], quar := [], gens := [], owner := [], rr := 0, ranks := [], masks := [], resets := [] }

/-- The far window unit right after reset. -/
def FwuState.init : FwuState :=
  { wins := [], winGen := [], ctxs := [], gens := [], quar := [], owner := [], heldOrder := [], seqs := [], turn := 0, fences := [], fenceNo := 0, ents := [],
    streams := [], execLimit := [], execSent := [], execRecv := [], execBack := [], execGrant := [] }

/-- The collective engine right after reset. -/
def CeState.init : CeState :=
  { trees := [], resids := [], progs := [], colls := [], fin := [], stats := [], wait := [], early := [], held := [],
    lane := none, half := none, items := [], ctl := 0x210, cost := 0x400020, tok := 0, epoch := 0, short := false }

/-- The scheduler right after reset: the port and class 1 buckets are full. -/
def SsState.init : SsState :=
  { queues := [], aggs := [], qw := [], vt := [0, 0], port := [268435456, 268435456], c1 := [67108864, 67108864], rr := [], f := 65536,
    scaledTill := none, stallAt := [],
    force := ⟨90, 10800, 16384, [6400000, 6400000], [4096, 4096], [0, 0], [320000, 320000], [1024, 1024]⟩ }

/-- The SEC right after reset, its sensor limits at Table 13-7. -/
def SecState.init : SecState :=
  { cdi1 := [], cdi := [], m1 := List.replicate 48 0, m2 := List.replicate 48 0, mr3 := List.replicate 48 0, kx := [], send := [],
    frags := [], boot := [], policies := [], peers := [], vcore := (560, 840), temp := (-40, 125), raised := 0, keyAt := none, due := none }

/-- The block after a power-on reset: every register at its reset value, every table and memory empty, held in reset. -/
def Block.init : Block :=
  { now := 0, regs := [], fresh := [], answer := [], rdLatch := [], wrLatch := [], out := [], dram := [], host := [], sram := [], scratch := [],
    pcieUp := true, rings := [], rrLast := [], infl := [], nextId := 0, funcs := [], jobs := [], cnt := [], freeIx := 0, evq := [],
    traceq := [], traceBusy := 0, bm := BmState.init, banks := [], mc := MemCtl.init, dbg := DbgState.init, clk := TuClock.init, tu := TuState.init,
    pcr := PcrState.init, health := Health.init, fif := FifState.init, fwu := FwuState.init, ce := CeState.init,
    cx := { comp := [], dec := [], segs := [] }, ss := SsState.init,
    te := { ports := [], peers := [], held := [], nextSeg := 0, opening := [] },
    cc := { tx := [], rx := [], rekeys := [], stall := [], stallMark := none, slots := [], inq := [], work := (0, 0, 0), owed := 0 }, sec := SecState.init,
    lf := { ports := [], pm := [] }, lo := [], outq := [], inbox := [], peerGw := [], shrunkTill := [], noPath := [] }

/-- The machine after a power-on reset (Table 16-4): VDD_AON is applied, RESET_N is low, and no command waits. -/
def State.reset : State := { blk := Block.init, pending := [] }

end Sys2Proof.Machine
end

