-- ==== Sys2Proof/Machine/Ops.lean ====
section
/-! DEFINITION. The named operations over the block: its clock, its registers, its memories, its counters, its events and
traces, and what it raises. -/

namespace Sys2Proof.Machine

/-! ## Registers -/

/-- What the register at an address holds (R10). -/
def Block.reg (b : Block) (a : Nat) : Word := (AMap.get? b.regs a).getD (RegMap.reset a)

/-- The block with a register set; a register at its reset value is not listed. -/
def Block.setReg (a : Nat) (v : Word) (b : Block) : Block :=
  { b with regs := if v = RegMap.reset a then AMap.erase b.regs a else AMap.set b.regs a v }

/-- The value of a register as a number. -/
def Block.regN (b : Block) (a : Nat) : Nat := (b.reg a).toNat

/-- The field [hi:lo] of a register. -/
def Block.fld (b : Block) (a hi lo : Nat) : Nat := Bits.fld (b.regN a) hi lo

/-- The block with the field [hi:lo] of a register set. -/
def Block.putFld (a hi lo x : Nat) (b : Block) : Block :=
  b.setReg a (BitVec.ofNat 32 (Bits.put (b.regN a) hi lo x))

/-- The block with a register set from a number, modulo 2^32. -/
def Block.putN (a x : Nat) (b : Block) : Block := b.setReg a (BitVec.ofNat 32 x)

/-- The block with bit `i` of a register set to `v`. -/
def Block.putBit (a i : Nat) (v : Bool) (b : Block) : Block := b.putFld a i i (Bits.ofBool v)

/-- Bit `i` of a register. -/
def Block.bit (b : Block) (a i : Nat) : Bool := Bits.bit (b.regN a) i

/-- Hardware changes a register that software clears: `before` is what it held, and `f` what the event does to a value. A clear of the
same moment leaves what the events alone make of 0 (R12). -/
def Block.note (a before : Nat) (f : Nat → Nat) (b : Block) : Block :=
  let x := (AMap.get? b.fresh a).getD (before, 0)
  { b with fresh := AMap.set b.fresh a (x.1, f x.2) }

/-- Hardware sets the bits of a sticky register (R12). -/
def Block.setBits (a mask : Nat) (b : Block) : Block :=
  (b.note a (b.regN a) fun x => Nat.lor x mask).putN a (Nat.lor (b.regN a) mask)

/-- A 32-bit counter counts once; what it holds past its last value is free (log entry 4). -/
def Block.bump (a : Nat) (b : Block) : Block :=
  let v := b.reg a
  (b.note a v.toNat (· + 1)).setReg a (if v = 0xFFFFFFFF#32 then Config.counterOverflow a else v + 1#32)

/-- A 32-bit counter counts `n`. -/
def Block.bumpN (a n : Nat) (b : Block) : Block :=
  let v := b.regN a
  (b.note a v (· + n)).setReg a (if v + n < 2 ^ 32 then BitVec.ofNat 32 (v + n) else if n = 0 then b.reg a else Config.counterOverflow a)

/-- The 64-bit value of a _LO/_HI pair (R7). -/
def Block.reg64 (b : Block) (lo : Nat) : Nat := b.regN lo + 2 ^ 32 * b.regN (lo + 4)

/-- The block with a _LO/_HI pair set, modulo 2^64. -/
def Block.put64 (lo x : Nat) (b : Block) : Block := (b.putN lo x).putN (lo + 4) (x / 2 ^ 32)

/-- A 64-bit counter counts `n`, modulo 2^64. -/
def Block.bump64 (lo n : Nat) (b : Block) : Block := b.put64 lo (b.reg64 lo + n)

/-! ## Byte memories -/

/-- A byte of a memory. -/
def Mem.read (m : Mem) (a : Nat) : Byte := AMap.getD m a 0#8

/-- A memory with one byte written; the byte 0 is not listed. -/
def Mem.write (m : Mem) (a : Nat) (v : Byte) : Mem := if v = 0#8 then AMap.erase m a else AMap.set m a v

/-- `n` bytes from an address. -/
def Mem.bytes (m : Mem) (a n : Nat) : List Byte := (List.range n).map fun i => m.read (a + i)

/-- A memory with bytes written from an address on. -/
def Mem.put (m : Mem) (a : Nat) : List Byte → Mem
  | [] => m
  | v :: vs => Mem.put (m.write a v) (a + 1) vs

/-- The canonical form: addresses rise strictly and no listed byte is 0. -/
abbrev Mem.wf (m : Mem) : Prop := (m.Pairwise fun c d => c.1 < d.1) ∧ ∀ c ∈ m, c.2 ≠ 0#8

/-- The canonical form of what a list of cells, read from its front, says. The identity on a canonical memory. -/
def Mem.norm (m : Mem) : Mem := m.foldr (fun c acc => Mem.write acc c.1 c.2) []

/-- The top of DX-64 memory addresses, 0x60_0000_0000 (R51). -/
def dxTop : Nat := 0x6000000000

/-- Frames of the frame map: 1,536 per channel in service when it was built (R367). -/
def Block.frames (b : Block) : Nat := 1536 * (128 - b.mc.bootRetired.length)

/-- The top T of backed memory (R503). -/
def Block.memTop (b : Block) : Nat := b.frames * 0x200000

/-- A memory address is backed by a frame of the map (R367). -/
def Block.backed (b : Block) (a : Nat) : Bool := a < b.memTop

/-- The slot of a frame: where migration has moved it, or slot ⌊f / k⌋ of the (f mod k)-th channel in service when the map
was built (R367). Slot s of channel c has the number 1,536 c + s. -/
def Block.slotOf (b : Block) (f : Nat) : Nat :=
  match AMap.get? b.mc.moved f with
  | some s => s
  | none =>
    let cs := (List.range 128).filter fun c => !b.mc.bootRetired.contains c
    if b.mc.bootRetired.isEmpty then f % 128 * 1536 + f / 128 else cs.getD (f % cs.length) 0 * 1536 + f / cs.length

/-- The channel that holds an address. -/
def Block.chanOf (b : Block) (a : Nat) : Nat := b.slotOf (a / 0x200000) / 1536

/-- A 32-byte unit is poisoned: an uncorrectable error poisoned it, or its channel was lost with its PHY and no write has
covered it since (R369, R373). -/
def Block.poisonedUnit (b : Block) (u : Nat) : Bool :=
  b.mc.poison.contains u ||
    (b.mc.lostFr.contains (u / 65536) || !b.mc.lostCh.isEmpty && (AMap.get? b.mc.lostCh (b.chanOf (32 * u))).isSome) && !b.mc.clean.contains u

/-- No unit is poisoned. -/
def Block.noPoison (b : Block) : Bool := b.mc.poison.isEmpty && b.mc.lostCh.isEmpty && b.mc.lostFr.isEmpty

/-- A 32-byte unit whose read delivers poison: poisoned or unbacked (R367, R370). -/
def Block.unitPoison (b : Block) (u : Nat) : Bool := b.poisonedUnit u || !b.backed (32 * u)

/-- The 32-byte units that `n` bytes from `a` touch. -/
def unitsOf (a n : Nat) : List Nat := if n = 0 then [] else (List.range ((a + n - 1) / 32 - a / 32 + 1)).map (· + a / 32)

/-- Some unit of a range delivers poison. -/
def Block.rangePoison (b : Block) (a n : Nat) : Bool := !b.noPoison && (unitsOf a n).any b.unitPoison || !(n == 0) && !b.backed (a + n - 1)

/-- The block after a read of a range of memory: each poisoned unit read is counted (R367, R370). -/
def Block.readCount (a n : Nat) (b : Block) : Block :=
  if b.rangePoison a n then b.bumpN R.memPoisonCnt ((unitsOf a n).filter b.unitPoison).length else b

/-- Bytes of DX-64 memory. -/
def Block.dxBytes (b : Block) (a n : Nat) : List Byte := b.dram.bytes a n

/-- A number of `n` bytes in DX-64 memory, little-endian. -/
def Block.dxN (b : Block) (a n : Nat) : Nat := Bits.ofLe (b.dxBytes a n)

/-- The bytes of one write with the address of each, without those the write leaves alone: a byte of an unbacked frame, and a
byte of a poisoned unit that the write does not cover whole (R367, R369). -/
def Block.dxKeep (b : Block) (start stop : Nat) : Nat → List Byte → List (Nat × Byte)
  | _, [] => []
  | a, v :: vs =>
    let u := a / 32
    let whole := start ≤ 32 * u && 32 * u + 32 ≤ stop
    let rest := b.dxKeep start stop (a + 1) vs
    if b.backed a && (whole || !b.poisonedUnit u) then (a, v) :: rest else rest

/-- One write of bytes to DX-64 memory (R367, R369). -/
def Block.dxWrite (a : Nat) (bs : List Byte) (b : Block) : Block :=
  let stop := a + bs.length
  let b1 := if bs.isEmpty || b.backed (stop - 1) then b else b.bump R.memPoisonCnt
  let whole (u : Nat) : Bool := a ≤ 32 * u && 32 * u + 32 ≤ stop
  let dram := if b.noPoison && b.backed (stop - 1) then b.dram.put a bs
    else (b.dxKeep a stop a bs).foldl (fun m c => m.write c.1 c.2) b.dram
  { b1 with
    dram := dram
    mc := if b.noPoison then b1.mc
      else { b1.mc with
        poison := b1.mc.poison.filter fun u => !whole u
        clean := if b.mc.lostCh.isEmpty && b.mc.lostFr.isEmpty then b1.mc.clean else b1.mc.clean ++ (unitsOf a bs.length).filter fun u => whole u && !b1.mc.clean.contains u } }

/-- The block after content that the specification gives no layout was written to `n` bytes of memory from an address on: free words (log
entries 2 and 67). -/
def Block.putFree (a n : Nat) (b : Block) : Block :=
  let bs := (List.range (n / 4)).flatMap fun i => Bits.leBytes 4 (Config.freeWord (b.freeIx + i)).toNat
  { b.dxWrite a bs with freeIx := b.freeIx + n / 4 }

/-- Memory whose content is poison from now on (R369). -/
def Block.poisonUnit (u : Nat) (b : Block) : Block :=
  { b with mc := { b.mc with poison := (b.mc.poison.filter (· < u)) ++ u :: (b.mc.poison.filter (u < ·)) } }

/-- A range lies wholly within DX-64 memory (R51). -/
def inDx (a n : Nat) : Bool := a + n ≤ dxTop

/-! ## The clock, outputs, events, traces and counters -/

/-- Crystal time moves on to the moment of a command; it never goes back (log entry 1). What happened to the registers at an earlier
moment is no longer of the same cycle (R12, log entry 89). -/
def Block.tick (t : Time) (b : Block) : Block :=
  { b with now := max b.now t, fresh := if b.now < t then [] else b.fresh }

/-- Something leaves the block. -/
def Block.emit (o : Out) (b : Block) : Block := { b with out := b.out ++ [o] }

/-- An MSI-X vector is raised. -/
def Block.msix (vec : Nat) (b : Block) : Block := b.emit (.msix vec)

/-- How far the slew has gone (R404): toward its remainder at PPB, never past it. -/
def TuClock.slewed (c : TuClock) (now : Time) : Int :=
  let n : Int := min (c.rem.natAbs : Int) (((now - c.slewAt) * c.ppb / 1000000000 : Nat) : Int)
  if c.rem < 0 then -n else n

/-- Local time in 0.125 ns units: 48 bits of seconds, which wrap (R397). -/
def Block.localTime (b : Block) : Int :=
  let d : Int := (b.now : Int) - b.clk.at_
  (b.clk.base + d + d * b.clk.ppt / 1000000000000 + b.clk.slewed b.now) % (2 ^ 48 * 8000000000)

/-- Trace time (R460): local time with the trace offset, modulo 2^64. -/
def Block.traceTime (b : Block) : Nat := Bits.ofInt 64 (b.localTime + b.dbg.traceOff)

/-- Local time is VALID (R398). -/
def Block.timeValid (b : Block) : Bool := b.bit R.tuStat 31

/-- An event arises: it waits for the debug and telemetry processor to write it (R472, R473). -/
def Block.event (typ sev job source : Nat) (data : List Byte) (b : Block) : Block :=
  { b with evq := b.evq ++ [⟨typ, sev, job, source, b.traceTime, b.timeValid, data⟩] }

/-- The job number that marks a device event or record. -/
def devJob : Nat := 0xFFFF

/-- A record enters the ring: its source bit is set and its job passes the filter; source 15 always does (R462). -/
def Block.tracePass (b : Block) (x : TraceRec) : Bool :=
  let d := b.dbg
  d.traceMode != 0 && (x.src == 15 || Bits.bit d.traceMask x.src && (x.job == devJob || d.traceAll || x.job == d.traceJob))

/-- Records that the trace path holds before it is busy: what it writes in 1 µs (log entry 107). -/
abbrev tracePath : Nat := 64

/-- A trace record arises: it waits for the DBG to write it, unless it finds the trace path busy (R462, R463). -/
def Block.trace (src ev job : Nat) (data : List Byte) (b : Block) : Block :=
  let x : TraceRec := ⟨src, ev, job, b.traceTime, b.timeValid, data⟩
  let room := decide (b.traceq.length < tracePath)
  { b with traceq := b.traceq ++ (if b.tracePass x && room then [x] else []),
           traceBusy := b.traceBusy + Bits.ofBool (b.tracePass x && !room) }

/-- Key of counter `i` of set `set` (1 to 3) of a scope: a job, or 1,024 for the device (Table 17-7). -/
def cntKey (scope set i : Nat) : Nat := scope * 256 + set * 64 + i

/-- One counter of a set. -/
def Block.cntGet (b : Block) (scope set i : Nat) : Nat := AMap.getD b.cnt (cntKey scope set i) 0

/-- A counter of a job counts `n`, in the job's set and in the device's, modulo 2^64 (R458). -/
def Block.count (job set i n : Nat) (b : Block) : Block :=
  let add (c : AMap Nat) (scope : Nat) : AMap Nat :=
    let k := cntKey scope set i
    AMap.set c k ((AMap.getD c k 0 + n) % 2 ^ 64)
  if n = 0 then b else { b with cnt := add (if job < 1024 then add b.cnt job else b.cnt) 1024 }

/-- The counters of a job at JOB_OPEN (R458). -/
def Block.clearCounts (job : Nat) (b : Block) : Block :=
  { b with cnt := b.cnt.filter fun e => e.1 / 256 != job }

/-- The index of a free value, and the block that will take another one next (log entry 2). -/
def Block.free (b : Block) : Nat × Block := (b.freeIx, { b with freeIx := b.freeIx + 1 })

/-! ## Health quantities (Tables 18-7 and 18-8)

Keys: 0 to 7 corrected and 8 to 15 uncorrectable units by stack; 16 and 17 the same of scratch; 18 and 19 of the host-core caches; 20 ms
throttled; 21 and 22 the sum and number of package power readings; 24 + p relocks and 26 + p calibrations passed over; 32 + 32p + m
the worst margin of a member. -/

/-- A quantity of the hour in progress and since boot grows by `n`. -/
def Block.tally (k n : Nat) (b : Block) : Block :=
  if n = 0 then b
  else { b with health := { b.health with cur := AMap.set b.health.cur k (AMap.getD b.health.cur k 0 + n),
                                          boot := AMap.set b.health.boot k (AMap.getD b.health.boot k 0 + n) } }

/-- A quantity of the hour in progress rises to `n`. -/
def Block.tallyMax (k n : Nat) (b : Block) : Block :=
  if n ≤ AMap.getD b.health.cur k 0 then b else { b with health := { b.health with cur := AMap.set b.health.cur k n } }

/-- The device is LOCKED (R505). -/
def Block.locked (b : Block) : Bool := b.fld R.secStat 31 30 == 2

/-! ## Clocks (R429) -/

/-- ENG and NOC on their way to PCR_CLK_SET, one step of 50 MHz per µs. -/
def Block.clkSet (b : Block) : Nat × Nat :=
  let n := (b.now - b.pcr.clkAt) / 8000
  let go (x y : Nat) : Nat := if x ≤ y then min y (x + n) else max y (x - n)
  (go b.pcr.clkFrom.1 (b.fld R.pcrClkSet 7 0), go b.pcr.clkFrom.2 (b.fld R.pcrClkSet 15 8))

/-- The thermal caps of level 2 (Table 16-8), or the largest settings. -/
def Block.clkCap (b : Block) : Nat × Nat := if b.fld R.pcrStat 28 27 = 2 then (27, 30) else (36, 40)

/-- A PLL coasts. -/
def Block.coasts (b : Block) (i : Nat) : Bool := b.bit R.pcrPllStat (16 + i)

/-- ENG and NOC in force, in 50 MHz units (R427, R429). -/
def Block.clkNow (b : Block) : Nat × Nat :=
  (if b.coasts 1 then 18 else min b.clkSet.1 b.clkCap.1, if b.coasts 0 then 20 else min b.clkSet.2 b.clkCap.2)

/-! ## Jobs -/

/-- The job of a number; a number never opened is free, which reads as CLOSED (R69). -/
def Block.job (b : Block) (j : Nat) : Job :=
  AMap.getD b.jobs j ⟨2, none, none, 0, 0, false, false, 5, 0⟩

/-- The block with a job changed. -/
def Block.modJob (j : Nat) (f : Job → Job) (b : Block) : Block := { b with jobs := AMap.set b.jobs j (f (b.job j)) }

/-- A job is OPEN. -/
def Block.jobOpen (b : Block) (j : Nat) : Bool := (b.job j).state == 0

end Sys2Proof.Machine
end

