-- ==== Sys2Proof/Machine/Ci.lean ====
section
/-! DEFINITION. The command interpreter (chapter 2): rings, the checks of a packet, completions and their posting. What each
opcode does stands with its block. -/

namespace Sys2Proof.Machine

/-- The recovery ring. -/
abbrev recRing : Nat := 255

/-- A ring after reset (R37, R501, Table 2-2). -/
def Ring.init (n : Nat) : Ring :=
  { rqBaseLo := if n = recRing then 0x0001A000 else 0, rqBaseHi := 0, enable := n == recRing,
    bound := n == recRing || n == 0, mgmt := n == recRing || n == 0, prio := if n = recRing then 3 else 0,
    size := if n = recRing then 8 else 4, job := 0, head := 0, prod := 0,
    cqBaseLo := if n = recRing then 0x0001E000 else 0, cqBaseHi := 0, msix := 0, cqSize := if n = recRing then 8 else 4,
    coalCnt := 0, coalUs := 0, tail := 0, cqHead := 0, err := 0, stopped := false, errCnt := 0, passed := 0, unsig := 0,
    unsigAt := 0, kept := [], triedAt := 0, held := [], reset := none }

/-- A ring. -/
def Block.ring (b : Block) (n : Nat) : Ring := AMap.getD b.rings n (Ring.init n)

/-- The block with a ring set. -/
def Block.setRing (n : Nat) (r : Ring) (b : Block) : Block := { b with rings := AMap.set b.rings n r }

/-- The block with a ring changed. -/
def Block.modRing (n : Nat) (f : Ring → Ring) (b : Block) : Block := b.setRing n (f (b.ring n))

/-- A ring bound to a job. -/
def Ring.isJob (r : Ring) : Bool := r.bound && !r.mgmt

/-- The commands in flight on a ring, in dispatch order. -/
def Block.inflOn (b : Block) (n : Nat) : List InFlight := b.infl.filter fun f => f.ring == n

/-- CMD_RING_STAT.INFLIGHT: commands fetched and not yet completed, with those whose completion is kept (R41). -/
def Block.inflight (b : Block) (n : Nat) : Nat :=
  (b.inflOn n).length + (b.ring n).kept.length + (b.ring n).held.length

/-- CMD_RING_STAT.STATE (Table 2-2; R501 for ring 255). -/
def Ring.state (n : Nat) (r : Ring) : Nat :=
  if n = recRing then 1 else if r.stopped then 3 else if r.err ≠ 0 then 2 else if r.enable then 1 else 0

/-- Unfetched packets of a ring (R36). -/
def Ring.unfetched (r : Ring) : Nat := (r.prod + 2 ^ 32 - r.head) % 2 ^ 32

/-- Completions written and not consumed. -/
def Ring.unconsumed (r : Ring) : Nat := (r.tail + 2 ^ 32 - r.cqHead) % 2 ^ 32

/-- A completion slot can be reserved for one more packet (R41). -/
def Block.slotFree (b : Block) (n : Nat) : Bool :=
  let r := b.ring n
  r.unconsumed + b.inflight n < 2 ^ r.cqSize

/-- The CI may fetch the next packet of a ring (R40, R41, R44, R53, R59). -/
def Block.fetchable (b : Block) (n : Nat) : Bool :=
  let r := b.ring n
  r.enable && r.err == 0 && !r.stopped && r.unfetched != 0 && r.held.isEmpty && r.reset.isNone && b.slotFree n

/-- A ring enters ERROR or STOPPED: its CMD_ERR_SUM bit is set and CMD_ERR_IRQ raised (R40, R41, R61); ring 255 never does
(R501). Cause 5 is the stop of strict mode; a STOPPED ring whose completion write fails goes to ERROR, and a ring in ERROR is not
stopped, because only RING_RESET leaves ERROR (R40, R41). -/
def Block.ringError (n cause : Nat) (b : Block) : Block :=
  if n = recRing ∨ cause = 5 ∧ (b.ring n).err ≠ 0 then b
  else ((b.modRing n fun r => { r with err := cause, stopped := cause == 5 }).setBits
    (R.cmdErrSum (n / 32)) (2 ^ (n % 32))).msix (b.fld R.cmdErrIrq 10 0)

/-- The address field of a base pair: bits 62 to 0, without LOC. -/
def basePair (lo hi : Word) : Nat := lo.toNat + hi.toNat % 2 ^ 31 * 2 ^ 32

/-- The write of completion entry `i` of a ring can take effect: ring 255's storage is its own SRAM (R501), host memory
answers while the PCI Express endpoint reaches it, and a DX-64 address lies in memory (log entry 6). -/
def Block.cqWritable (b : Block) (n i : Nat) : Bool :=
  let r := b.ring n
  if n = recRing then true
  else if r.cqBaseHi.getLsbD 31 then b.pcieUp
  else inDx (basePair r.cqBaseLo r.cqBaseHi + i % 2 ^ r.cqSize * 32) 32

/-- 32 bytes written to completion entry `i` of a ring. -/
def Block.cqWrite (n i : Nat) (bs : List Byte) (b : Block) : Block :=
  let r := b.ring n
  let a := basePair r.cqBaseLo r.cqBaseHi + i % 2 ^ r.cqSize * 32
  if n = recRing then { b with sram := b.sram.put a bs }
  else if r.cqBaseHi.getLsbD 31 then { b with host := b.host.put a bs }
  else b.dxWrite a bs

/-- The 32 bytes of a completion (Table 2-5); PHASE is 1 on the first pass through the ring and inverts on each later pass
(R49). -/
def compBytes (f : InFlight) (c : Comp) (tail size : Nat) : List Byte :=
  Bits.leBytes 2 c.status ++ Bits.leBytes 2 f.opcode ++ Bits.leBytes 4 f.cookie ++ Bits.leBytes 4 f.index ++
  Bits.leBytes 2 c.detail ++ Bits.leBytes 1 c.src ++ Bits.leBytes 1 (1 - tail / 2 ^ size % 2) ++
  Bits.leBytes 8 c.r0 ++ Bits.leBytes 8 c.r1

/-- The vector of a ring is raised and its coalescing starts anew (R49). -/
def Block.ringIrq (n : Nat) (b : Block) : Block :=
  (b.modRing n fun r => { r with unsig := 0 }).msix (b.ring n).msix

/-- A completion is written: the entry, then CMD_CQ_TAIL, then the vector under coalescing (R49). -/
def Block.cqPost (f : InFlight) (c : Comp) (b : Block) : Block :=
  let n := f.ring
  let r := b.ring n
  let b := b.cqWrite n r.tail (compBytes f c r.tail r.cqSize)
  let b := b.modRing n fun r => { r with tail := (r.tail + 1) % 2 ^ 32 }
  let b := if c.status ≥ 0x10 then (b.note (R.cmdRingErrcnt n) r.errCnt.toNat (· + 1)).modRing n fun r =>
      { r with errCnt := if r.errCnt = 0xFFFFFFFF#32 then Config.counterOverflow (R.cmdRingErrcnt n) else r.errCnt + 1 } else b
  if Bits.bit f.flags 2 then b
  else
    let b := b.modRing n fun r => { r with unsigAt := if r.unsig = 0 then b.now else r.unsigAt, unsig := r.unsig + 1 }
    if (b.ring n).coalCnt ≤ (b.ring n).unsig then b.ringIrq n else b

/-- The completion of a command is posted, or kept when its write fails or an earlier one is kept (R41). Trace and counters
record it (Tables 17-7, 17-8). -/
def Block.post (f : InFlight) (c : Comp) (b : Block) : Block :=
  let b := { b with infl := b.infl.filter fun (g : InFlight) => g.id != f.id }
  let b := b.trace 0 2 f.job (Bits.leBytes 2 f.ring ++ Bits.leBytes 2 f.opcode ++ Bits.leBytes 4 f.cookie ++ Bits.leBytes 2 c.status)
  let b := b.count f.job 3 (if c.status < 4 then 10 + c.status else c.status - 2) 1
  let b := if f.job < 1024 then (b.count f.job 1 24 1).count f.job 1 25 (if c.status ≥ 0x10 then 1 else 0) else b
  let r := b.ring f.ring
  if r.kept.isEmpty && b.cqWritable f.ring r.tail then b.cqPost f c
  else
    let b := if r.kept.isEmpty then (b.ringError f.ring 4).modRing f.ring fun r => { r with triedAt := b.now } else b
    b.modRing f.ring fun r => { r with kept := r.kept ++ [(f, c)] }

/-- The completion of a command, unless one of another ring that goes before it has not been posted (R56). -/
def Block.ready (b : Block) (f : InFlight) : Option (InFlight × Comp) :=
  if f.after.any fun k => b.infl.any fun g => g.id == k then none else f.done.map fun c => (f, c)

/-- A command of a ring that may post now: done, and not ORDERED behind an earlier command of its ring (R53, R56). -/
def Block.postable (b : Block) (n : Nat) : Option (InFlight × Comp) :=
  match b.inflOn n with
  | [] => none
  | f :: fs =>
    match b.ready f with
    | some e => some e
    | none => fs.findSome? fun g => if Bits.bit g.flags 0 then none else b.ready g

/-- Every completion of a ring that may be posted is posted; `k` bounds their number. -/
def Block.flush : Nat → Nat → Block → Block
  | 0, _, b => b
  | k + 1, n, b =>
    match b.postable n with
    | some (f, c) => Block.flush k n (b.post f c)
    | none => b

/-- A ring with a completion that the order of R56 held back and that may be posted now. -/
def Block.afterRing (b : Block) : Option Nat :=
  ((b.infl.filter fun g => g.after.isSome).find? fun g => (b.postable g.ring).isSome).map (·.ring)

/-- Completions of other rings that a posted one was to go before are posted (R56); `k` bounds their rings. -/
def Block.flushAfter : Nat → Block → Block
  | 0, b => b
  | k + 1, b =>
    match b.afterRing with
    | some n => Block.flushAfter k (b.flush (b.inflOn n).length n)
    | none => b

/-- The completion of command `id` is posted after that of command `first` (R56). -/
def Block.setAfter (id first : Nat) (b : Block) : Block :=
  { b with infl := b.infl.map fun (g : InFlight) => if g.id = id then { g with after := some first } else g }

/-- A command in flight. -/
def Block.cmd? (b : Block) (id : Nat) : Option InFlight := b.infl.find? fun f => f.id == id

/-- The warnings of Table 2-7 that the line raised during a command (R50): SHRUNK when a line port ran SHRUNK since its dispatch,
SCALED when guarantees were scaled since. -/
def Block.lineWarn (b : Block) (f : InFlight) : Nat :=
  let shrunk (p : Nat) : Bool := b.fld (R.lfStat p) 2 0 == 4 || (AMap.get? b.shrunkTill p).any fun t => f.t0 ≤ t
  (if shrunk 0 || shrunk 1 then 4 else 0) + (if b.ss.f < 65536 || b.ss.scaledTill.any fun t => f.t0 ≤ t then 2 else 0)

/-- A command completes (R50: OK becomes OK_WARN when a condition of Table 2-7 arose), and every completion of its ring that
may now be posted is posted (R53). -/
def Block.complete (id : Nat) (c : Comp) (b : Block) : Block :=
  match b.cmd? id with
  | none => b
  | some f =>
    if f.done.isSome then b
    else
      let warn := Nat.lor f.warn (b.lineWarn f)
      let c := if c.status = St.ok ∧ warn ≠ 0 then { c with status := St.okWarn, detail := warn } else c
      let b := { b with infl := b.infl.map fun (g : InFlight) => if g.id = id then { g with done := some c } else g }
      let b := b.flush (b.inflOn f.ring).length f.ring
      b.flushAfter b.infl.length

/-- A completion with its status, DETAIL and RESULT0. -/
def Comp.of (status detail r0 : Nat) : Comp := ⟨status, detail, 0, r0, 0⟩

/-- A command completes with a status and DETAIL. -/
def Block.done (id status detail : Nat) (b : Block) : Block := b.complete id (Comp.of status detail 0)

/-- A command completes OK with RESULT0. -/
def Block.ok (id r0 : Nat) (b : Block) : Block := b.complete id (Comp.of St.ok 0 r0)

/-- A command completes BAD_PARAM; DETAIL counts in the packet (R507). -/
def Block.badParam (id off : Nat) (b : Block) : Block := b.complete id (Comp.of St.badParam off 0)

/-- A command completes BAD_PARAM; DETAIL counts in the descriptor (R507). -/
def Block.badDesc (id off : Nat) (b : Block) : Block := b.complete id ⟨St.badParam, off, 1, 0, 0⟩

/-- A warning condition of Table 2-7 arose during a command. -/
def Block.warn (id bit : Nat) (b : Block) : Block :=
  { b with infl := b.infl.map fun (g : InFlight) => if g.id = id then { g with warn := Nat.lor g.warn (2 ^ bit) } else g }

/-- A warning condition arose for every command in flight that a test selects. -/
def Block.warnAll (bit : Nat) (p : InFlight → Bool) (b : Block) : Block :=
  { b with infl := b.infl.map fun (g : InFlight) => if p g then { g with warn := Nat.lor g.warn (2 ^ bit) } else g }

/-! ## The checks of a packet -/

/-- An opcode is job-scoped (R47). -/
def Ci.jobScoped (opc : Nat) (r : Req) : Bool :=
  if opc = 0x0203 then !Bits.bit (r.u 32 1) 0
  else match opInfo opc with
    | some i => i.cls == 1 && opc != 0x0101 && opc != 0x0102 &&
        !(opc == 0x0901 && (r.a2 == 0x81 || r.a2 == 0x82 || r.a2 == 0x83)) &&
        !(opc == 0x0501 && Bits.fld r.a2 9 6 == 15)
    | none => false

/-- The job a job-scoped command acts on: the bound job on a job ring, else the job the packet names (R47). -/
def Block.cmdJob (b : Block) (r : Req) : Nat := if (b.ring r.ring).isJob then (b.ring r.ring).job else r.jobN

/-- The first of checks 1 to 7 of R46 that a packet fails, as status and DETAIL. -/
def Block.precheck (b : Block) (opc : Nat) (r : Req) : Option (Nat × Nat) :=
  let ring := b.ring r.ring
  let js := Ci.jobScoped opc r
  let job := b.job (b.cmdJob r)
  if b.bit R.cmdStatus 3 then some (St.locked, 0)
  else match Req.firstBad [(2, r.flags.toNat / 16 != 0), (8, r.job.toNat / 1024 != 0), (10, r.version != 1#8), (11, r.rsvd != 0#40)] with
  | some o => some (St.badParam, o)
  | none => match opInfo opc with
    | none => some (St.badOpcode, 0)
    | some i =>
      if r.ring = recRing ∧ ¬(i.cls = 2 ∨ i.dagger) then some (St.badOpcode, 0)
      else if r.ring ≠ recRing ∧ (i.cls = 2 ∨ i.cls = 0 ∧ ring.isJob) then some (St.notOwner, 0)
      else if ring.isJob ∧ r.jobN ≠ ring.job then some (St.notOwner, 0)
      else if js ∧ job.state = 2 then some (St.state, 2)
      else if js ∧ job.state = 1 ∧ ¬(opc = 0x0208 ∨ opc = 0x0207 ∨ opc = 0x0206 ∨ opc = 0x0901 ∨ opc = 0x0903) then
        some (St.fenced, 0)
      else none

/-- The number of the next command taken: one that no command in flight has. -/
def Block.freshId (b : Block) : Nat := b.infl.foldl (fun n f => max n (f.id + 1)) b.nextId

/-- The job that a command is counted under: the one it acts on, or none (R47, R458). -/
def Block.countJob (b : Block) (opc : Nat) (r : Req) : Nat := if (b.ring r.ring).isJob || Ci.jobScoped opc r then b.cmdJob r else devJob

/-- A packet is taken: it is in flight with no completion yet, counted and traced (R39, R53, Tables 17-7, 17-8). -/
def Ci.taken (opc : Nat) (r : Req) (b : Block) : Block :=
  let id := b.freshId
  let job := b.countJob opc r
  let b := b.bump64 R.cmdDispCntLo 1
  let grp := opc / 256
  let b := if 1 ≤ grp ∧ grp ≤ 10 then b.count job 3 (grp - 1) 1 else b
  let b := { b with nextId := id + 1, infl := b.infl ++ [(⟨id, r.ring, r.index, opc, r.cookie.toNat, r.flags.toNat, job, 0, none, b.now, none⟩ : InFlight)] }
  b.trace 0 1 job (Bits.leBytes 2 r.ring ++ Bits.leBytes 2 opc ++ Bits.leBytes 4 r.cookie.toNat ++ Bits.leBytes 2 0)

/-- The CI takes a packet and checks it; `eff` is what the opcode does with it, its own check 8 included. -/
def Ci.start (opc : Nat) (r : Req) (eff : Nat → Req → Block → Block) (b : Block) : Block :=
  let id := b.freshId
  let b := Ci.taken opc r b
  match b.precheck opc r with
  | some (st, d) => b.done id st d
  | none => eff id r b

/-- A packet may not start yet: one of its ring is held before it (R52), or it carries BARRIER and an earlier command of its ring has not
posted its completion (R53). -/
def Block.mustHold (b : Block) (r : Req) : Bool :=
  let x := b.ring r.ring
  !x.held.isEmpty || r.flagBarrier && (!(b.inflOn r.ring).isEmpty || !x.kept.isEmpty)

/-- The CI takes a packet of its ring, or holds it behind a BARRIER (R52, R53). -/
def Ci.take (opc : Nat) (r : Req) (eff : Nat → Req → Block → Block) (b : Block) : Block :=
  if b.mustHold r then b.modRing r.ring fun x => { x with held := x.held ++ [(opc, r)] } else Ci.start opc r eff b

/-- Fetched packets that wait behind a BARRIER and that a test selects complete with a status at once, without having started. -/
def Block.endHeld (st : Nat) (p : Nat → Req → Bool) (b : Block) : Block :=
  let gone := b.rings.flatMap fun e => e.2.held.filter fun h => p h.1 h.2
  let b := { b with rings := b.rings.map fun (e : Nat × Ring) => (e.1, { e.2 with held := e.2.held.filter fun h => !p h.1 h.2 }) }
  gone.foldl (fun b h => (Ci.taken h.1 h.2 b).done b.freshId st 0) b

/-- An engine is frozen (R452). -/
def Block.frozen (b : Block) (m : Nat) : Bool := b.bit R.dbgFrozen (m - 26)

/-- The engines, by master ID, that a command's action needs (R453, log entry 55). -/
def Ci.engines (opc : Nat) (r : Req) : List Nat :=
  let lf := [33 + r.a1 % 2]
  match opc with
  | 0x0103 | 0x0104 =>
    if r.a1 / 256 = 1 then [26] else if r.a1 / 2 = 0x100 then [31, 33 + r.a1 % 2] else if r.a1 / 256 = 4 ∨ r.a1 / 256 = 5 then [36]
    else if r.a1 = 0x900 then [29] else []
  | 0x0106 => [35]
  | 0x010A => (if Bits.bit (r.u 36 1) 3 then [27, 28] else []) ++ (if Bits.bit (r.u 36 1) 2 then [32] else []) ++ (if Bits.bit (r.u 36 1) 0 then [35] else [])
  | 0x0202 => [26, 35]
  | 0x0205 => [32]
  | 0x0206 => [26, 27, 28, 31, 32, 35]
  | 0x0207 => [27, 28, 35]
  | 0x0209 => [26]
  | 0x0601 | 0x0602 | 0x0603 | 0x0604 | 0x0606 => lf
  | 0x0803 | 0x0804 => [30]
  | _ =>
    if opc / 256 = 3 then [27] else if opc = 0x0406 ∨ opc = 0x0407 then [28, 35] else if opc / 256 = 4 then [28]
    else if opc / 256 = 5 then [35] else if opc / 256 = 7 then [36] else []

/-- A check 8 of R46 in a command's meaning: BAD_PARAM at the first offending packet field, else the rest. A command that needs a frozen
engine then waits; on the recovery ring it completes STATE with the engine's master ID (R453). The field of a non-zero byte inside a reserved
range is the range, so DETAIL is where the range begins (DESIGN CHOICE, log entry 99). -/
def Ci.check8 (id : Nat) (r : Req) (l : List (Nat × Bool)) (k : Block → Block) (b : Block) : Block :=
  match Req.firstBad l with
  | some o => b.badParam id o
  | none => match (b.cmd? id).bind fun f => (Ci.engines f.opcode r).find? b.frozen with
    | some m => if r.ring = recRing then b.done id St.state m else b
    | none => k b

/-- The address of bytes 16 to 23 breaks R51 for a length and an alignment. -/
def badAddr (a n align : Nat) : Bool := a % align != 0 || !inDx a n

end Sys2Proof.Machine
end

