-- ==== Sys2Proof/Machine/Bm.lean ====
section
/-! DEFINITION. The buffer manager and the scratch banks (chapter 14): pools, handles, ownership chains, the leak audit and
bank handovers. -/

namespace Sys2Proof.Machine

/-- Size of a buffer of pool `p` (Table 14-5). -/
def Bm.size (p : Nat) : Nat := 256 * 4 ^ p

/-- One GiB. -/
abbrev gib : Nat := 2 ^ 30
/-- One frame of the memory map, 2 MiB. -/
abbrev frameB : Nat := 0x200000

/-- REPLAY_GIB in force (TE_REPLAY_SIZE). -/
def Block.replayGib (b : Block) : Nat := b.fld R.teReplaySize 7 0

/-- Base of the staging and buffer-pool region (R503). -/
def Block.stagingBase (b : Block) : Nat := 0x300000000 + b.replayGib * gib

/-- Size of the staging and buffer-pool region (R503). -/
def Block.stagingSize (b : Block) : Nat := b.memTop - b.bm.residGib * gib - b.stagingBase

/-- The pool area in memory: staging less its tables and bitmaps, less what channel retirement took (R373). -/
def Block.poolArea (b : Block) : Nat := b.stagingSize - (b.bm.tabs.length + b.bm.lost) * frameB

/-- Bytes of the banks the BM owns: 256 KiB, or 64 KiB for a dual-port bank. -/
def Block.bankArea (b : Block) : Nat := Bits.sum (b.bm.banks.map fun k => if k < 768 then 0x40000 else 0x10000)

/-- Pool `p` is placed in scratch. -/
def Block.poolScr (b : Block) (p : Nat) : Bool := b.bm.place.getD p 0 == 1

/-- Frames of memory that the shares give pool `p`, none when it is placed in scratch; pool 7 holds an even number of frames. -/
def Block.poolTarget (b : Block) (p : Nat) : Nat :=
  let n := b.poolArea * b.bm.share.getD p 0 / 1024 / frameB
  if b.poolScr p then 0 else if p = 7 then n / 2 * 2 else n

/-- Scratch byte address and size of a bank. -/
def Bm.bankRange (n : Nat) : Nat × Nat := if n < 768 then (n * 0x40000, 0x40000) else (768 * 0x40000 + (n - 768) * 0x10000, 0x10000)

/-- The scratch bank of a scratch byte address: single-port banks first, then dual-port banks. -/
def Bm.bankOf (a : Nat) : Nat := if a < 768 * 0x40000 then a / 0x40000 else 768 + (a - 768 * 0x40000) / 0x10000

/-- The banks that `n` bytes of scratch from `a` touch. -/
def Bm.banksIn (a n : Nat) : List Nat := ((List.range (Bits.ceilDiv n 0x10000)).map fun i => Bm.bankOf (a + i * 0x10000)).eraseDups

/-- Bytes of scratch that the shares give pool `p`, none when it is placed in memory. -/
def Block.scrTarget (b : Block) (p : Nat) : Nat := if b.poolScr p then b.bankArea * b.bm.share.getD p 0 / 1024 else 0

/-- The banks that pool `p` holds, ascending. -/
def Block.scrBanks (b : Block) (p : Nat) : List Nat := (b.bm.scr.filter fun e => e.2 == p).map (·.1)

/-- Bytes of a list of banks. -/
def Bm.bytesOf (l : List Nat) : Nat := Bits.sum (l.map fun n => (Bm.bankRange n).2)

/-- The places of pool `p`'s buffers in scratch by groups of banks: within one bank each, or banks side by side for a buffer that is
larger. -/
def Bm.groups (p : Nat) : List (List Nat) :=
  if p ≤ 4 then (List.range 800).map fun n => [n] else (List.range (0xC200000 / Bm.size p)).map fun i => Bm.banksIn (i * Bm.size p) (Bm.size p)

/-- Buffers of pool `p` that the banks it holds have room for. -/
def Block.scrBufs (b : Block) (p : Nat) : Nat :=
  let l := b.scrBanks p
  if p ≤ 4 ∨ l.isEmpty then Bm.bytesOf l / Bm.size p else ((Bm.groups p).filter fun g => g.all l.contains).length

/-- BM_POOL_TOTAL: the buffers of the frames and banks the pool holds now. -/
def Block.poolTotal (b : Block) (p : Nat) : Nat := b.bm.have_.getD p 0 * frameB / Bm.size p + b.scrBufs p

/-- Key of a buffer: POOL and INDEX of its handle. -/
def Bm.key (p ix : Nat) : Nat := p * 2 ^ 32 + ix

/-- Where the indices of the buffers of a region begin: the general pools, the recovery reserve and the paging pool (log entry 8). -/
def Bm.firstIx (res : Nat) : Nat := if res = 0 then 0 else if res = 1 then 2 ^ 31 else 2 ^ 31 + 2 ^ 30

/-- A handle (R385). -/
def Bm.handle (gen p ix : Nat) : Nat := gen * 2 ^ 48 + p * 2 ^ 40 + ix

/-- A buffer lies in the general pools and not in a reserved one (R386). -/
def Buf.general (x : Buf) : Bool := x.scr || x.addr ≥ 0x300000000

/-- Live buffers of pool `p` of the general pools. -/
def Block.poolLive (b : Block) (p : Nat) : Nat :=
  (b.bm.bufs.filter fun e => e.1 / 2 ^ 32 == p && e.2.live && e.2.general).length

/-- BM_POOL_FREE: free buffers of pool `p`; none while it is above its size (R383). -/
def Block.poolFree (b : Block) (p : Nat) : Nat :=
  min (b.bm.have_.getD p 0) (b.poolTarget p) * frameB / Bm.size p + min (b.scrBufs p) (b.scrTarget p / Bm.size p) - b.poolLive p

/-- The pool whose live buffers occupy a frame of memory. -/
def Block.frameUse (b : Block) (f : Nat) : Option Nat :=
  (b.bm.bufs.find? fun e => e.2.live && !e.2.scr &&
    e.2.addr / frameB ≤ f && f ≤ (e.2.addr + Bm.size (e.1 / 2 ^ 32) - 1) / frameB).map fun e => e.1 / 2 ^ 32

/-- A live buffer overlaps a range of memory, or of scratch. -/
def Block.rangeUsed (b : Block) (scr : Bool) (a n : Nat) : Bool :=
  b.bm.bufs.any fun e => e.2.live && e.2.scr == scr && e.2.addr < a + n && a < e.2.addr + Bm.size (e.1 / 2 ^ 32)

/-- The first of `k` addresses `a`, `a + st`, … that satisfies a test. -/
def Bm.search (ok : Nat → Bool) (st : Nat) : Nat → Nat → Option Nat
  | 0, _ => none
  | k + 1, a => if ok a then some a else Bm.search ok st k (a + st)

/-- Frames of memory in which pool `p` has live buffers. -/
def Block.framesUsed (b : Block) (p : Nat) : Nat :=
  ((b.bm.bufs.filter fun e => e.1 / 2 ^ 32 == p && e.2.live && !e.2.scr && e.2.general).map fun e => e.2.addr / frameB).eraseDups.length

/-- The address of a free buffer of pool `p` in memory: the lowest in a frame the pool uses or may take (log entry 8). -/
def Block.memSlot (b : Block) (p : Nat) : Option Nat :=
  let sz := Bm.size p
  let base := b.stagingBase
  let newOk := b.framesUsed p * (if p = 7 then 2 else 1) < min (b.bm.have_.getD p 0) (b.poolTarget p)
  let freeFrame (f : Nat) : Bool := (AMap.get? b.bm.tabs f).isNone && (b.frameUse f).isNone
  if p = 7 then
    if newOk then Bm.search (fun a => freeFrame (a / frameB) && freeFrame (a / frameB + 1)) sz (b.stagingSize / sz) base else none
  else
    let slot (f : Nat) : Option Nat := Bm.search (fun a => !b.rangeUsed false a sz) sz (frameB / sz) (f * frameB)
    let frame := Bm.search (fun f => match b.frameUse f with
        | some q => q == p && (slot f).isSome
        | none => newOk && (AMap.get? b.bm.tabs f).isNone) 1 (b.stagingSize / frameB) (base / frameB)
    frame.bind slot

/-- The address of a free buffer of pool `p` in scratch: the lowest one within the banks the pool holds. -/
def Block.scrSlot (b : Block) (p : Nat) : Option Nat :=
  let sz := Bm.size p
  let l := b.scrBanks p
  if p ≤ 4 then l.findSome? fun n => Bm.search (fun a => !b.rangeUsed true a sz) sz ((Bm.bankRange n).2 / sz) (Bm.bankRange n).1
  else if l.isEmpty then none
  else Bm.search (fun a => (Bm.banksIn a sz).all l.contains && !b.rangeUsed true a sz) sz (0xC200000 / sz) 0

/-- The address of a free buffer of pool `p`. -/
def Block.slot (b : Block) (p : Nat) : Option Nat :=
  if b.poolFree p = 0 then none else if b.poolScr p then b.scrSlot p else b.memSlot p

/-- The smallest pool whose size is at least `n` (R384). -/
def Bm.poolFor (n : Nat) : Nat := ((List.range 8).find? fun p => n ≤ Bm.size p).getD 7

/-- The INDEX that an allocation takes: the lowest of its pool and region with no live buffer (log entry 8). -/
def Block.freeIndex (b : Block) (p res : Nat) : Nat :=
  (Bm.search (fun i => !((AMap.get? b.bm.bufs (Bm.key p i)).any fun x => x.live)) 1 (b.bm.bufs.length + 1) (Bm.firstIx res)).getD 0

/-- A buffer of a region is allocated with one owner (R385, R390). -/
def Block.allocAt (p a : Nat) (scr : Bool) (res owner : Nat) (b : Block) : Block :=
  let k := Bm.key p (b.freeIndex p res)
  let gen := match AMap.get? b.bm.bufs k with
    | some x => (x.gen + 1) % 2 ^ 16
    | none => 1
  { b with bm := { b.bm with bufs := AMap.set b.bm.bufs k ⟨a, scr, gen, true, [owner], b.now, none⟩ } }

/-- The handle of the live buffer at an address of pool `p`. -/
def Block.handleOf (b : Block) (p a : Nat) (scr : Bool) : Nat :=
  match b.bm.bufs.find? fun e => e.1 / 2 ^ 32 == p && e.2.live && e.2.addr == a && e.2.scr == scr with
  | some e => Bm.handle e.2.gen p (e.1 % 2 ^ 32)
  | none => 0

/-- Engine code of an owner ID (R389). -/
def Own.engine (o : Nat) : Nat := Bits.fld o 9 6
/-- Job of an owner ID (R389). -/
def Own.job (o : Nat) : Nat := Bits.fld o 19 10
/-- An owner ID of a job and an engine, sub-owner 0. -/
def Own.of (job engine : Nat) : Nat := job * 1024 + engine * 64
/-- An owner matches under a mask (R60). -/
def Own.hit (owner mask o : Nat) : Bool := Nat.land (Nat.xor owner o) mask == 0

/-- An owner ID whose engine code is reserved, or device management with a job field (R389, R504). -/
def Own.bad (o : Nat) : Bool := Own.engine o == 14 || Own.engine o == 15 && Own.job o != 0

/-- Keys of the class 3 output buffers that hold draining work: of messages that wait to be sealed, of queued records and of streams in the
CX (R248). -/
def Block.drainKeys (b : Block) : List Nat :=
  ((b.outq.filterMap fun m => if m.msg.draining then m.buf else none) ++
    (b.ss.queues.flatMap fun e => e.2.filterMap fun r => if r.msgs.all fun m => m.msg.draining then r.buf else none) ++
    b.cx.comp.flatMap fun e => e.2.busy.filterMap fun s => if (Msg.coll s.1.hdr).draining then some s.2 else none).map fun h =>
      Bm.key (Bits.fld h 42 40) (h % 2 ^ 32)

/-- The reserve of class 3 that other allocations must leave (R387, Table 8-5): 512 MiB less what draining work of the class
holds (log entry 77). -/
def Block.class3Left (b : Block) : Nat :=
  let ks := b.drainKeys
  0x20000000 - Bits.sum ((b.bm.bufs.filter fun e => e.2.live && e.2.general &&
    (ks.contains e.1 || e.2.out.any Prod.snd)).map fun e => Bm.size (e.1 / 2 ^ 32))

/-- The smallest pool whose buffers hold any output buffer of the CX or the CC: the largest record is 65,808 bytes. -/
abbrev outPool : Nat := 5

/-- Free bytes of the pools that hold any output buffer. -/
def Block.outFree (b : Block) : Nat := Bits.sum (((List.range 8).filter (outPool ≤ ·)).map fun p => b.poolFree p * Bm.size p)

/-- An allocation may take a buffer of pool `p`: it is draining work of class 3, or it leaves the reserve of that class, which lies in
buffers that can hold any of its output (R29, R248, R387, log entry 77). -/
def Block.mayTake (b : Block) (draining : Bool) (p : Nat) : Bool :=
  draining || decide (p < outPool) || decide (b.class3Left + Bm.size p ≤ b.outFree)

/-- The pool an allocation of `n` bytes takes, with the address of its buffer; a larger pool than the smallest fitting one is
a spill, which EXACT_POOL forbids (R384). -/
def Block.pick (b : Block) (n : Nat) (exact draining : Bool) : Option (Nat × Nat) :=
  let p0 := Bm.poolFor n
  ((List.range 8).filter fun p => p0 ≤ p && (!exact || p == p0) && b.mayTake draining p).findSome? fun p => (b.slot p).map fun a => (p, a)

/-- The block after an engine wrote `n` bytes from the start of a buffer it has taken: the units or words covered whole are no longer
poisoned (R369, R376). -/
def Block.bufWritten (a n : Nat) (scr : Bool) (b : Block) : Block :=
  if scr then { b with mc := { b.mc with srPoison := b.mc.srPoison.filter fun w => 8 * w < a || a + n < 8 * w + 8 } }
  else if b.noPoison then b
  else
    let whole (u : Nat) : Bool := a ≤ 32 * u && 32 * u + 32 ≤ a + n
    { b with mc := { b.mc with poison := b.mc.poison.filter fun u => !whole u,
                               clean := b.mc.clean ++ (unitsOf a n).filter fun u => whole u && !b.mc.clean.contains u } }

/-- An allocation from the general pools: the block after it and the pool, the address and whether it lies in scratch. -/
def Block.alloc (n owner : Nat) (exact draining : Bool) (b : Block) : Option (Block × Nat × Nat × Bool) :=
  (b.pick n exact draining).map fun (p, a) =>
    let scr := b.poolScr p
    let b := b.allocAt p a scr 0 owner
    (if p ≠ Bm.poolFor n then b.bump R.bmSpillCnt else b, p, a, scr)

/-- BUF_ALLOC (R384, R387, R504). -/
def Bm.bufAlloc (id : Nat) (r : Req) (b : Block) : Block :=
  let owner := r.a2
  let job := b.cmdJob r
  Ci.check8 id r [(16, r.nz 16 8), (24, r.a1 == 0 || 4194304 < r.a1), (28, owner / 2 ^ 20 != 0 || Own.bad owner),
    (32, r.u 32 1 / 2 != 0), (33, r.nz 33 31)] (fun b =>
    if Own.engine owner = 15 ∧ (b.ring r.ring).isJob then b.done id St.notOwner 0
    else if Own.engine owner ≠ 15 ∧ Own.job owner ≠ job then b.done id St.notOwner 0
    else
      match b.alloc r.a1 owner (Bits.bit (r.u 32 1) 0) false with
      | some (b, p, a, scr) => b.complete id ⟨St.ok, 0, 0, b.handleOf p a scr, if scr then a + 2 ^ 63 else a⟩
      | none => (b.bump R.bmNobufCnt).done id St.noResource 4) b

/-- The base, size and pool of a reserved region for a size class (R386): `res` 1 the recovery reserve, 2 the paging pool. -/
def Bm.reserved (res p : Nat) : Option (Nat × Nat) :=
  if res = 1 then some (0x180000000 + p * 0x10000000, 0x10000000)
  else if p = 2 then some (0x200000000 + 0x50000000, 768 * 2 ^ 20)
  else if p = 4 then some (0x200000000 + 0x50000000 + 768 * 2 ^ 20, 2048 * 2 ^ 20) else none

/-- An allocation from a reserved pool: the smallest size of its region that fits, or with a spill a larger one, unless EXACT_POOL forbids
it (R384, R386). -/
def Block.allocRes (res n owner : Nat) (exact : Bool) (b : Block) : Option (Block × Nat × Nat × Bool) :=
  let fit := (List.range 8).filter fun p => decide (n ≤ Bm.size p) && (Bm.reserved res p).isSome
  (if exact then fit.take 1 else fit).findSome? fun p =>
    match Bm.reserved res p with
    | none => none
    | some (base, len) => (Bm.search (fun a => !b.rangeUsed false a (Bm.size p)) (Bm.size p) (len / Bm.size p) base).map fun a =>
        let b := b.allocAt p a false res owner
        (if fit.head? = some p then b else b.bump R.bmSpillCnt, p, a, false)

/-- The class 3 output buffer of a handle, in pool `p`, reserves the entry of the queue an engine names (R256). -/
def Block.reserveEntry (a : EngAlloc) (p h : Nat) (b : Block) : Block :=
  { b with bm := { b.bm with bufs := AMap.adjust b.bm.bufs (Bm.key p (h % 2 ^ 32)) fun x => { x with out := a.queue.map fun n => (n, a.draining) } } }

/-- A request of an engine is answered, if a buffer may be taken now (R387). -/
def Block.engAlloc? (a : EngAlloc) (b : Block) : Option Block :=
  let owner := a.owner.toNat
  let r := if a.reserve ≠ 0 then b.allocRes a.reserve a.size owner a.exact else b.alloc a.size owner a.exact (a.cls == 3 && a.draining)
  r.map fun (b, p, ad, scr) =>
    let h := b.handleOf p ad scr
    (b.reserveEntry a p h).emit (.engBuf owner h ad)

/-- A buffer for a unit of the DX-64 itself, if one may be taken now, into which the unit writes `n` bytes: the block and the handle. Only
draining work of class 3 may use that class's reserve (R29, R207, R248, R387). A frozen BM gives none (R452). -/
def Block.takeOut (n owner : Nat) (draining : Bool) (b : Block) : Option (Block × Nat) :=
  if b.frozen 35 then none
  else (b.alloc n owner false draining).map fun (b, p, a, scr) => (b.bufWritten a n scr, b.handleOf p a scr)

/-- A class 4 buffer for a unit of the DX-64 itself. -/
def Block.takeBuf (n owner : Nat) (b : Block) : Option (Block × Nat) := b.takeOut n owner false

/-- A buffer of the paging pool or of the recovery reserve for a unit of the DX-64 itself (R30, R386). -/
def Block.takeRes (res n owner : Nat) (b : Block) : Option (Block × Nat) :=
  if b.frozen 35 then none
  else (b.allocRes res n owner false).map fun (b, p, a, scr) => (b.bufWritten a n scr, b.handleOf p a scr)

/-- POOL and INDEX name a buffer that the frames of the pool, or its share of a reserved region, hold now (log entry 8). -/
def Block.hasBuf (b : Block) (p ix : Nat) : Bool :=
  if ix < 2 ^ 31 then ix < b.poolTotal p
  else
    let res := if ix < Bm.firstIx 2 then 1 else 2
    (Bm.reserved res p).any fun e => ix - Bm.firstIx res < e.2 / Bm.size p

/-- The buffer a handle names, with its key; `none` when a reserved bit is set or POOL and INDEX name no buffer. A buffer that has never
been allocated is free and has no chain. -/
def Block.bufOf (b : Block) (h : Nat) : Option (Nat × Buf) :=
  let p := Bits.fld h 42 40
  let ix := Bits.fld h 31 0
  let k := Bm.key p ix
  if Bits.fld h 47 43 ≠ 0 ∨ Bits.fld h 39 32 ≠ 0 then none
  else match AMap.get? b.bm.bufs k with
    | some x => if x.live || b.hasBuf p ix then some (k, x) else none
    | none => if b.hasBuf p ix then some (k, ⟨0, b.poolScr p, 0, false, [], b.now, none⟩) else none

/-- The block with a buffer set. -/
def Block.setBuf (k : Nat) (x : Buf) (b : Block) : Block := { b with bm := { b.bm with bufs := AMap.set b.bm.bufs k x } }

/-- The holder: the last owner of the chain (R390). -/
def Buf.holder (x : Buf) : Nat := x.chain.getLastD 0

/-- The buffer's job: that of the first owner that is not device management (R389, log entry 9). -/
def Buf.job? (x : Buf) : Option Nat := (x.chain.find? fun o => Own.engine o != 15).map Own.job

/-- What R391 answers a free or pass of handle `h` by requester `who` with new owners: a status and DETAIL, or `none`. -/
def Block.bmCheck (b : Block) (h who : Nat) (new : List Nat) : Option (Nat × Nat) :=
  match b.bufOf h with
  | none => some (St.badParam, 16)
  | some (_, x) =>
    if !x.live || x.gen != h / 2 ^ 48 then some (St.doubleFree, 0)
    else if x.holder ≠ who then some (St.notOwner, 0)
    else if new.any fun o => Own.engine o != 15 && x.job? != some (Own.job o) then some (St.notOwner, 0)
    else if 8 < x.chain.length + new.length then some (St.noResource, 5)
    else none

/-- The registers of BM_ERR take a record. -/
def Block.bmErrPut (l : List Nat) (b : Block) : Block :=
  (l.zip [R.bmErrOwner, R.bmErrReq, R.bmErrHandleLo, R.bmErrHandleHi, R.bmErrAge]).foldl (fun b e => b.putN e.2 e.1) b

/-- Software has cleared VALID: a refusal of the same moment is recorded, and VALID stays 1 (R12, R396). -/
def Block.bmErrAgain (b : Block) : Block :=
  match b.bm.lastErr with
  | some (t, l) => if t = b.now then b.bmErrPut l else b
  | none => b

/-- The error record of a refusal by checks 2 to 4, its counter, its vector, its event and its trace (R391, R396). The specification gives
a buffer that has never been allocated no last holder and no age: they are free (log entry 8). -/
def Block.bmErr (h who st : Nat) (pass : Bool) (b : Block) : Block :=
  let fresh := (b.bufOf h).any fun e => e.2.chain.isEmpty
  let holder := if fresh then (Config.freeWord b.freeIx).toNat % 2 ^ 20 else ((b.bufOf h).map fun e => e.2.holder).getD 0
  let age := if fresh then (Config.freeWord (b.freeIx + 1)).toNat else ((b.bufOf h).map fun e => (b.now - e.2.at_) / 8000000).getD 0
  let b := if fresh then { b with freeIx := b.freeIx + 2 } else b
  let rec_ : List Nat := [2 ^ 31 + (if st = St.notOwner then 1 else 2) * 2 ^ 29 + Bits.ofBool pass * 2 ^ 28 + holder, who, h, h / 2 ^ 32, age]
  let b := { b with bm := { b.bm with lastErr := some (b.now, rec_) } }
  let b := if b.bit R.bmErrOwner 31 then b else b.bmErrPut rec_
  let d := Bits.leBytes 8 h ++ Bits.leBytes 4 holder ++ Bits.leBytes 4 who
  (((b.bump R.bmErrCnt).msix (b.fld R.bmErrIrq 10 0)).event 0x0070 1 (Own.job who) 35 d).trace 9 1 (Own.job who) d

/-- What a refused free or pass does beyond its completion: the record, and the stop of the requester's queue in strict mode
(R61, R391, R392). -/
def Block.bmRefuse (ring h who st : Nat) (pass : Bool) (b : Block) : Block :=
  if st = St.doubleFree ∨ st = St.notOwner then
    let b := b.bmErr h who st pass
    if (b.job (Own.job who)).strict && Own.engine who != 15 then
      if (b.ring ring).isJob then b.ringError ring 5
      else b
    else b
  else b

/-- A buffer is freed: its chain is kept for the error record (R390, R391). -/
def Block.freeBuf (k : Nat) (b : Block) : Block :=
  { b with bm := { b.bm with bufs := AMap.adjust b.bm.bufs k fun x => { x with live := false, at_ := b.now } } }

/-- What R391 answers an engine's request on a handle. Engines that share a buffer all stand in its chain, and each of them may leave it
or pass it on (R16, log entry 90). -/
def Block.engCheck (b : Block) (h who : Nat) (new : List Nat) : Option Nat :=
  match b.bufOf h with
  | none => some St.badParam
  | some (_, x) =>
    if !x.live || x.gen != h / 2 ^ 48 then some St.doubleFree
    else if !x.chain.contains who then some St.notOwner
    else if new.any fun o => Own.engine o != 15 && x.job? != some (Own.job o) then some St.notOwner
    else if 8 < x.chain.length + new.length then some St.noResource
    else none

/-- A refused request of an engine changes no state but the error record; in strict mode the engine takes no further work of the job
(R391, R392). -/
def Block.engRefuse (h who st : Nat) (pass : Bool) (b : Block) : Block :=
  if st = St.doubleFree ∨ st = St.notOwner then
    let b := b.bmErr h who st pass
    if (b.job (Own.job who)).strict && !b.bm.stopped.contains (Own.job who, Own.engine who) then
      { b with bm := { b.bm with stopped := b.bm.stopped ++ [(Own.job who, Own.engine who)] } }
    else b
  else b

/-- An engine, by its code, has been stopped for a job (R392). -/
def Block.engStopped (b : Block) (job engine : Nat) : Bool := b.bm.stopped.contains (job, engine)

/-- An engine leaves the chain of the buffer of a handle; the buffer is freed when no owner is left (R16, R207, R391). -/
def Block.dropOwner (h owner : Nat) (b : Block) : Block :=
  match b.engCheck h owner [] with
  | some st => b.engRefuse h owner st false
  | none => match b.bufOf h with
    | none => b
    | some (k, x) =>
      let rest := x.chain.erase owner
      if rest.isEmpty then b.freeBuf k else b.setBuf k { x with chain := rest, at_ := b.now }

/-- An engine passes the buffer of a handle on: another engine joins its chain (R16, R390, R391). -/
def Block.addOwner (h src dst : Nat) (b : Block) : Block :=
  match b.engCheck h src [dst] with
  | some st => b.engRefuse h src st true
  | none => match b.bufOf h with
    | none => b
    | some (k, x) => b.setBuf k { x with chain := x.chain ++ [dst], at_ := b.now }

/-- An engine that works for a job leaves a buffer, if there is one; it returns to its pool with its last owner. -/
def Block.freeOut (h : Option Nat) (job engine : Nat) (b : Block) : Block :=
  match h with
  | some h => b.dropOwner h (Own.of job engine)
  | none => b

/-- One engine that works for a job passes a buffer, if there is one, to another (R16). -/
def Block.passBuf (h : Option Nat) (job src dst : Nat) (b : Block) : Block :=
  match h with
  | some h => match b.engCheck h (Own.of job src) [Own.of job dst] with
    | some st => b.engRefuse h (Own.of job src) st true
    | none => (b.addOwner h (Own.of job src) (Own.of job dst)).dropOwner h (Own.of job src)
  | none => b

/-- A read of the buffer of a handle delivers poison. -/
def Block.bufPoison (b : Block) (h : Nat) : Bool :=
  match AMap.get? b.bm.bufs (Bm.key (Bits.fld h 42 40) (Bits.fld h 31 0)) with
  | none => false
  | some x =>
    let n := Bm.size (Bits.fld h 42 40)
    if x.scr then b.mc.srPoison.any fun w => x.addr ≤ 8 * w && 8 * w < x.addr + n else b.rangePoison x.addr n

/-- The oldest running revocation that covers an owner of the buffer of a handle (R61): any owner in its chain, and of a buffer that is free the
chain it had last. DESIGN CHOICE (log entry 92). -/
def Block.revoking (b : Block) (h : Nat) : Option Nat :=
  let owners := ((b.bufOf h).map fun e => e.2.chain).getD []
  (b.bm.revoke.find? fun v => Bits.bit v.scope 0 && owners.any (Own.hit v.owner v.mask)).map (·.cmd)

/-- A buffer operation joins those that wait for a revocation. -/
def Block.waitRevoke (cmd : Nat) (e : Nat × Nat × Req) (b : Block) : Block :=
  { b with bm := { b.bm with revoke := b.bm.revoke.map fun (v : Revoke) => if v.cmd = cmd then { v with waits := v.waits ++ [e] } else v } }

/-- BUF_FREE once no revocation covers it (R390 to R392). -/
def Bm.freeNow (id : Nat) (r : Req) (b : Block) : Block :=
  match b.bmCheck r.a0 r.a2 [] with
  | some (st, d) => (b.bmRefuse r.ring r.a0 r.a2 st false).done id st d
  | none => match b.bufOf r.a0 with
    | some (k, _) => (b.freeBuf k).ok id 0
    | none => b.badParam id 16

/-- The eight owner entries of BUF_PASS, with their offsets (R390). -/
def Bm.entries (r : Req) : List (Nat × Nat) := (List.range 8).map fun i => (32 + 4 * i, r.u (32 + 4 * i) 4)

/-- The owners BUF_PASS appends: the VALID entries. -/
def Bm.newOwners (r : Req) : List Nat := ((Bm.entries r).filter fun e => Bits.bit e.2 31).map fun e => e.2 % 2 ^ 20

/-- BUF_PASS once no revocation covers it (R390 to R392). -/
def Bm.passNow (id : Nat) (r : Req) (b : Block) : Block :=
  let new := Bm.newOwners r
  match b.bmCheck r.a0 r.a2 new with
  | some (st, d) => (b.bmRefuse r.ring r.a0 r.a2 st true).done id st d
  | none => match b.bufOf r.a0 with
    | some (k, x) => (b.setBuf k { x with chain := x.chain ++ new, at_ := b.now }).ok id (x.chain.length + new.length)
    | none => b.badParam id 16

/-- BUF_FREE (0x0502) or BUF_PASS waits for a revocation that covers an owner of its buffer, and for the next one while one still does; then
it is checked (R61). -/
def Bm.bufOp (opc id : Nat) (r : Req) (b : Block) : Block :=
  match b.revoking r.a0 with
  | some c => b.waitRevoke c (id, opc, r)
  | none => if opc = 0x0502 then Bm.freeNow id r b else Bm.passNow id r b

/-- BUF_FREE (R61, R390, R391). -/
def Bm.bufFree (id : Nat) (r : Req) (b : Block) : Block :=
  Ci.check8 id r [(24, r.nz 24 4), (28, r.a2 / 2 ^ 20 != 0), (32, r.nz 32 32)] (Bm.bufOp 0x0502 id r) b

/-- BUF_PASS (R61, R390, R391, R504). -/
def Bm.bufPass (id : Nat) (r : Req) (b : Block) : Block :=
  Ci.check8 id r ([(24, r.nz 24 4), (28, r.a2 / 2 ^ 20 != 0)] ++
    (Bm.entries r).map fun e => (e.1, Bits.fld e.2 30 20 != 0 || Bits.bit e.2 31 && Own.bad (e.2 % 2 ^ 20))) (Bm.bufOp 0x0503 id r) b

/-! ## Scratch banks -/

/-- A port of a bank after reset (Table 14-4). -/
def Bank.init (k : Nat) : Bank :=
  let n := k / 2
  ⟨n < 240, false, false, 0, if n < 128 then 26 else if n < 184 then 33 else if n < 240 then 34 else 0, 0⟩

/-- A port of a bank: the key is twice the bank number plus the port. -/
def Block.bank (b : Block) (k : Nat) : Bank := AMap.getD b.banks k (Bank.init k)

/-- The block with a port of a bank set. -/
def Block.setBank (k : Nat) (x : Bank) (b : Block) : Block := { b with banks := AMap.set b.banks k x }

/-- Ports of bank `n`: two for a dual-port bank. -/
def Bm.ports (n : Nat) : List Nat := if n < 768 then [2 * n] else [2 * n, 2 * n + 1]

/-- A bank whose ports the CI owns, with no handover pending. -/
def Block.ciBank (b : Block) (n : Nat) : Bool := (Bm.ports n).all fun k => (b.bank k).owner == 0 && !(b.bank k).pending && !(b.bank k).fixed

/-- A valid owner code (R377). -/
def Bm.ownerCode (c : Nat) : Bool := c == 0 || 4 ≤ c && c ≤ 39 || c == 41

/-- The owner code that admits a master (R377). -/
def Bm.admits (c master : Nat) : Bool := master == 40 || (if c = 0 then master < 4 else c == master)

/-- Zeros written to a whole bank. -/
def Block.clearBank (n : Nat) (b : Block) : Block :=
  let (a, l) := Bm.bankRange n
  { b with scratch := b.scratch.filter fun (c : Host.Cell) => c.1 < a || a + l ≤ c.1,
           mc := { b.mc with srPoison := b.mc.srPoison.filter fun w => 8 * w < a || a + l ≤ 8 * w } }

/-! ## Pools -/

/-- The pool shares and placements of a POOL_CONFIG descriptor at an address. -/
def Block.poolDesc (b : Block) (a : Nat) : List (Nat × Nat) :=
  (List.range 8).map fun n => (b.dxN (a + 8 * n) 1, b.dxN (a + 8 * n + 2) 2)

/-- The offset of the first field of a POOL_CONFIG descriptor that breaks R383, in the order of its checks: the first share of those that
together pass 1,024, then a placement or a reserved byte (R507). -/
def Block.poolDescBad (b : Block) (a : Nat) : Option Nat :=
  let d := b.poolDesc a
  let excess (pl : Nat) : Bool := pl ≤ 1 && 1024 < Bits.sum ((d.filter fun e => e.1 == pl).map Prod.snd)
  Req.firstBad ((List.range 8).map (fun n => (8 * n + 2, (d.getD n (0, 0)).2 != 0 && excess (d.getD n (0, 0)).1)) ++
    (List.range 8).flatMap fun n =>
      [(8 * n, decide (1 < (d.getD n (0, 0)).1)), (8 * n + 1, b.dxN (a + 8 * n + 1) 1 != 0), (8 * n + 4, b.dxN (a + 8 * n + 4) 4 != 0)])

/-- Banks owned by the BM become `want` in number: it takes CI banks in ascending number and returns its highest first. -/
def Block.setBmBanks (want : Nat) (b : Block) : Block :=
  let have_ := b.bm.banks
  if have_.length ≤ want then
    let take := ((List.range 800).filter b.ciBank).take (want - have_.length)
    let b := { b with bm := { b.bm with banks := (have_ ++ take).mergeSort } }
    (take.flatMap Bm.ports).foldl (fun b k => b.setBank k { b.bank k with owner := 35 }) b
  else
    let drop := have_.drop want
    let b := { b with bm := { b.bm with banks := have_.take want, scr := b.bm.scr.filter fun (e : Nat × Nat) => !drop.contains e.1 } }
    (drop.flatMap Bm.ports).foldl (fun b k => b.setBank k { b.bank k with owner := 0 }) b

/-- A bank holds an allocated buffer. -/
def Block.bankBusy (b : Block) (n : Nat) : Bool := b.rangeUsed true (Bm.bankRange n).1 (Bm.bankRange n).2

/-- POOL_CONFIG (R383). -/
def Bm.poolConfig (id : Nat) (r : Req) (b : Block) : Block :=
  let want := r.a1
  Ci.check8 id r [(16, badAddr r.a0 64 64), (28, r.nz 28 4), (32, r.nz 32 32)] (fun b =>
    let b := b.readCount r.a0 64
    match b.poolDescBad r.a0 with
    | some o => b.badDesc id o
    | none =>
      if ((List.range 800).filter b.ciBank).length + b.bm.banks.length < want then b.done id St.noResource 5
      else if (b.bm.banks.drop want).any b.bankBusy then b.done id St.state 1
      else
        let d := b.poolDesc r.a0
        let b := b.setBmBanks want
        { b with bm := { b.bm with place := d.map Prod.fst, share := d.map Prod.snd } }.ok id 0) b

/-- Frames of memory that one buffer size takes at a time. -/
def Bm.frameStep (p : Nat) : Nat := if p = 7 then 2 else 1

/-- The frames that one move from `src` to `dst` moves; 8 stands for what no pool holds. -/
def Bm.moveStep (src dst : Nat) : Nat := max (Bm.frameStep src) (Bm.frameStep dst)

/-- A move is one of scratch: its destination is placed there, or its source gives up scratch and no memory. -/
def Block.moveScr (b : Block) (src dst : Nat) : Bool :=
  if dst < 8 then b.poolScr dst else decide (b.bm.have_.getD src 0 ≤ b.poolTarget src)

/-- The free banks that a move of scratch moves: one, or as many side by side as a buffer of the destination takes. -/
def Block.moveBanks (b : Block) (src dst : Nat) : Option (List Nat) :=
  let held (n : Nat) : Bool := b.bm.banks.contains n && AMap.get? b.bm.scr n == (if src < 8 then some src else none)
  (Bm.groups (if dst < 8 then dst else 0)).find? fun g => g.all fun n => held n && !b.bankBusy n

/-- A move of frames or banks is allowed (R383): the source has free ones above its target, and the destination lies below its own. -/
def Block.canMove (b : Block) (src dst : Nat) : Bool :=
  src != dst && (decide (src < 8) || decide (dst < 8)) && decide (src ≤ 8 ∧ dst ≤ 8) &&
  if b.moveScr src dst then
    match b.moveBanks src dst with
    | none => false
    | some g =>
      (decide (8 ≤ src) || decide (b.scrTarget src < Bm.bytesOf (b.scrBanks src))) &&
      (decide (8 ≤ dst) || decide (Bm.bytesOf (b.scrBanks dst ++ g) ≤ b.scrTarget dst))
  else
    let held := b.bm.have_
    let step := Bm.moveStep src dst
    let srcOk := if src < 8 then decide (b.poolTarget src + Bm.frameStep src ≤ held.getD src 0 ∧ b.framesUsed src * Bm.frameStep src + step ≤ held.getD src 0)
      else decide (Bits.sum held + step ≤ b.poolArea / frameB)
    srcOk && (decide (8 ≤ dst) || decide (held.getD dst 0 + step ≤ b.poolTarget dst))

/-- What the pools hold after one moves. -/
def Bm.moved (step src dst : Nat) (l : List Nat) : List Nat :=
  let h := if src < 8 then l.set src (l.getD src 0 - step) else l
  if dst < 8 then h.set dst (h.getD dst 0 + step) else h

/-- Frames, or banks of scratch, move from one pool to another. -/
def Block.moveFrames (src dst : Nat) (b : Block) : Block :=
  if b.moveScr src dst then
    let g := (b.moveBanks src dst).getD []
    { b with bm := { b.bm with scr := g.foldl (fun l n => if dst < 8 then AMap.set l n dst else AMap.erase l n) b.bm.scr } }
  else { b with bm := { b.bm with have_ := Bm.moved (Bm.moveStep src dst) src dst b.bm.have_ } }

/-- POOL_FRAME_MOVE: one free frame or bank leaves a pool that is above its target for one that is below (R383). Pool 8 stands
for staging, or banks of the BM, that no pool holds. -/
def Bm.frameMove (src dst : Nat) (b : Block) : Block := if b.canMove src dst then b.moveFrames src dst else b

/-- Whole frames of staging for a table or bitmap, lowest first, marked with their user; `none` when staging holds too few or
would fall below 32 GiB (R19, R373). -/
def Block.takeFrames (n user : Nat) (b : Block) : Option (Block × Nat) :=
  let free (f : Nat) : Bool := (AMap.get? b.bm.tabs f).isNone && (b.frameUse f).isNone
  if b.poolArea < n * frameB then none
  else (Bm.search (fun f => (List.range n).all fun i => free (f + i)) 1 (b.stagingSize / frameB - n + 1) (b.stagingBase / frameB)).map fun f =>
    ({ b with bm := { b.bm with tabs := (List.range n).foldl (fun t i => AMap.set t (f + i) user) b.bm.tabs } }, f * frameB)

/-- The frames of a user return to the pools. -/
def Block.giveFrames (user : Nat) (b : Block) : Block :=
  { b with bm := { b.bm with tabs := b.bm.tabs.filter fun (e : Nat × Nat) => e.2 != user } }

/-! ## Leak audit -/

/-- AUDIT_START (R394). -/
def Bm.auditStart (id : Nat) (r : Req) (b : Block) : Block :=
  Ci.check8 id r [(16, r.nz 16 8), (24, r.nz 24 4), (28, r.a2 / 2 ^ 20 != 0), (32, r.u 32 4 / 2 ^ 20 != 0), (36, r.nz 36 28)] (fun b =>
    if b.bm.auditCmd.isSome then b.done id St.busy 0
    else ({ b with bm := { b.bm with auditCmd := some (id, r.a2, r.u 32 4), audit := [] } }).putN R.bmAuditStat (2 ^ 31)) b

/-- The age bin of an age in ms: below 10^n for n from 0 to 6, else 7. -/
def Bm.ageBin (ms : Nat) : Nat := ((List.range 7).find? fun n => ms < 10 ^ n).getD 7

/-- A buffer counted under its holder. -/
def AuditRow.add (rows : List AuditRow) (owner bytes ms : Nat) : List AuditRow :=
  let bin := Bm.ageBin ms
  if rows.any fun x => x.owner == owner then
    rows.map fun x => if x.owner = owner then
      ⟨owner, x.count + 1, x.bytes + bytes, max x.oldest ms, x.bins.set bin (x.bins.getD bin 0 + 1)⟩ else x
  else (rows.filter fun x => x.owner < owner) ++ ⟨owner, 1, bytes, ms, (List.replicate 8 0).set bin 1⟩ :: rows.filter fun x => owner < x.owner

/-- The audit rows of the live buffers of the owners a mask selects (R394): their number, bytes and ages in ms by holder. -/
def Block.auditRows (b : Block) (owner mask : Nat) : List AuditRow :=
  (b.bm.bufs.filter fun e => e.2.live && Own.hit owner mask e.2.holder).foldl (fun rows e =>
    AuditRow.add rows e.2.holder (Bm.size (e.1 / 2 ^ 32)) ((b.now - e.2.at_) / 8000000)) []

/-- AUDIT_WALK_DONE: the walk has read each buffer once and sorted it by owner and age (R394). -/
def Bm.auditDone (b : Block) : Block :=
  match b.bm.auditCmd with
  | none => b
  | some (id, owner, mask) =>
    let rows := b.auditRows owner mask
    let kept := rows.take 65536
    let b := { b with bm := { b.bm with auditCmd := none, audit := kept } }
    let b := b.putN R.bmAuditStat ((if 65536 < rows.length then 2 ^ 30 else 0) + kept.length)
    let b := (List.range 8).foldl (fun b n => b.putN (R.bmAuditAge n) (Bits.sum (kept.map fun x => x.bins.getD n 0))) b
    b.ok id kept.length

/-- An audit record (Table 14-6). -/
def AuditRow.record (x : AuditRow) : List Byte :=
  Bits.leBytes 4 x.owner ++ Bits.leBytes 4 x.count ++ Bits.leBytes 8 x.bytes ++ Bits.leBytes 4 x.oldest ++ Bits.leBytes 12 0 ++
  x.bins.flatMap (Bits.leBytes 4)

/-- AUDIT_READ (R395). -/
def Bm.auditRead (id : Nat) (r : Req) (b : Block) : Block :=
  Ci.check8 id r [(16, badAddr r.a0 r.a1 64), (28, r.nz 28 4), (32, r.nz 32 32)] (fun b =>
    if b.bm.auditCmd.isSome then b.done id St.state 1
    else
      let rows := b.bm.audit.take (r.a1 / 64)
      (b.dxWrite r.a0 (rows.flatMap AuditRow.record)).complete id ⟨St.ok, 0, 0, 64 * rows.length, b.bm.audit.length⟩) b

/-! ## Ownership revocation: buffers and banks -/

/-- Masters of an engine code (R60). -/
def Own.masters (e : Nat) : List Nat :=
  match e with
  | 1 => [26] | 2 => [27] | 3 => [28] | 4 => [29] | 5 => [30] | 6 => [31] | 7 => [32] | 8 => [33, 34] | 9 => [36] | 10 => [37]
  | 12 => (List.range 16).map (· + 10) | 13 => [9, 41] | _ => []

/-- The buffers of the owners that a test selects, but for those of the keys in `keep`: chains without them, and those with no owner left freed. -/
def Block.revokeBufs (hit : Nat → Bool) (b : Block) (keep : List Nat := []) : Block :=
  let cut (x : Buf) : List Nat := x.chain.filter fun o => !hit o
  let bufs := b.bm.bufs.map fun (e : Nat × Buf) =>
    if e.2.live && !keep.contains e.1 then (e.1, if (cut e.2).isEmpty then { e.2 with live := false, at_ := b.now } else { e.2 with chain := cut e.2 }) else e
  { b with bm := { b.bm with bufs := bufs } }

/-- The buffers of a job are reclaimed, not those of device management (R32, R389), and the engines that strict mode stopped for it work for
it again (R392). -/
def Block.jobBufs (job : Nat) (keep : List Nat) (b : Block) : Block :=
  let b := b.revokeBufs (fun o => Own.job o == job && Own.engine o != 15) (keep := keep)
  { b with bm := { b.bm with stopped := b.bm.stopped.filter fun e => e.1 != job } }

/-- The scratch banks of the masters of the engines that an owner and mask select return to the CI (R60). -/
def Block.revokeBanks (owner mask : Nat) (b : Block) : Block :=
  let ms := ((List.range 16).filter fun e => Own.hit owner (Nat.land mask 0x3C0) (e * 64)).flatMap Own.masters
  (List.range 1600).foldl (fun b k =>
    let x := b.bank k
    if (k % 2 = 0 ∨ 1536 ≤ k) ∧ !x.fixed ∧ x.owner ≠ 35 ∧ ms.contains x.owner then b.setBank k { x with owner := 0, pending := false } else b) b

end Sys2Proof.Machine
end

