-- ==== Sys2Proof/Machine/Mem.lean ====
section
/-! DEFINITION. The memory and scratch subsystem (chapter 14): errors, scrubbing, channel retirement, migration and bank
handovers. -/

namespace Sys2Proof.Machine

/-- 24 hours of crystal time. -/
abbrev day : Time := 86400 * 8000000000

/-- State of a stack by its retired channels: 0 NORMAL, 1 DEGRADED, 2 FAILED (R374). -/
def Mc.stackState (retired : List Nat) (st : Nat) : Nat :=
  let n := (retired.filter fun c => c / 16 == st).length
  if n = 0 then 0 else if n = 16 then 2 else 1

/-- Bits of a list of channels within a stack. -/
def Mc.bits (cs : List Nat) (st : Nat) : Nat := Bits.sum ((cs.filter fun c => c / 16 == st).eraseDups.map fun c => 2 ^ (c % 16))

/-- The MEM registers that follow from the channels in service (R374, Tables 14-8 and 14-9). -/
def Block.memRegs (b : Block) : Block :=
  let m := b.mc
  let inSvc := 128 - m.retired.length
  let mask (p : Nat → Bool) : Nat := Bits.sum (((List.range 8).filter p).map fun st => 2 ^ st)
  let ret := (m.retiring.map Prod.fst).toList
  let b := b.putN R.memStat (mask (fun st => Mc.stackState m.retired st == 1) * 2 ^ 16 +
    mask (fun st => Mc.stackState m.retired st == 2) * 2 ^ 8 + mask (fun st => ret.any fun c => c / 16 == st))
  let b := (b.putN R.memCap (3 * inSvc)).putN R.memBwFrac (inSvc * 65536 / 128)
  (List.range 8).foldl (fun b st =>
    let b := b.putN (R.memSStat st) (Mc.stackState m.retired st * 2 ^ 30 + Mc.bits m.retired st)
    let b := b.putN (R.memSRetire st) (Mc.bits (m.retired ++ ret ++ m.waiting.map Prod.fst) st)
    b.putN (R.memSMigLeft st) (match m.retiring with
      | some (c, n) => if c / 16 = st then 1536 - n else 0
      | none => 0)) b

/-- The next waiting channel begins to retire: the pools shrink by its 3 GiB (R373). -/
def Block.retireNext (b : Block) : Block :=
  match b.mc.retiring, b.mc.waiting with
  | none, (c, _) :: w =>
    ({ b with mc := { b.mc with retiring := some (c, 0), waiting := w }, bm := { b.bm with lost := b.bm.lost + 1536 } }).memRegs
  | _, _ => b

/-- A channel is to retire with a cause: 1 training, 2 UE_MAX, 3 software, 4 PHY (R372, log entry 10). -/
def Block.retire (c cause : Nat) (b : Block) : Block :=
  if b.mc.retired.contains c || (b.mc.retiring.map Prod.fst) == some c || b.mc.waiting.any (fun e => e.1 == c) then b
  else
    let b := { b with mc := { b.mc with waiting := b.mc.waiting ++ [(c, cause)] } }
    let b := (b.event 0x0031 1 devJob 40 (Bits.leBytes 1 c ++ Bits.leBytes 1 cause)).msix (b.fld R.memIrq 10 0)
    b.retireNext.memRegs

/-- A channel is retired: a stack whose last channel it was is FAILED (R374). -/
def Block.retired (c : Nat) (b : Block) : Block :=
  let b := { b with mc := { b.mc with retired := (b.mc.retired ++ [c]).mergeSort } }
  let b := if Mc.stackState b.mc.retired (c / 16) = 2 then
      (b.event 0x0032 3 devJob 40 (Bits.leBytes 1 (c / 16))).msix (b.fld R.memIrq 10 0) else b
  b.memRegs

/-- Channels are lost with their PHY: they retire at once, their frames are poison, units written whole since an earlier loss among them, and
each is to be remapped to a fresh frame (R373). -/
def Block.chansLost (all : List Nat) (b : Block) : Block :=
  let cs := all.filter fun c => !b.mc.retired.contains c
  let busy := (b.mc.retiring.map fun e => cs.contains e.1).getD false
  let b := { b with
    mc := { b.mc with
      waiting := b.mc.waiting.filter (fun (e : Nat × Nat) => !cs.contains e.1)
      retiring := if busy then none else b.mc.retiring
      clean := b.mc.clean.filter fun u => !cs.contains (b.chanOf (32 * u))
      lostCh := cs.foldl (fun l c => AMap.set l c 0) b.mc.lostCh }
    bm := { b.bm with lost := b.bm.lost + 1536 * cs.length - (if busy then 1536 - (b.mc.retiring.map Prod.snd).getD 0 else 0) } }
  let b := cs.foldl (fun b c => (b.event 0x0031 1 devJob 40 (Bits.leBytes 1 c ++ Bits.leBytes 1 4)).retired c) b
  (b.msix (b.fld R.memIrq 10 0)).retireNext.memRegs

/-- A stack's PHY loses its link: its 16 channels retire at once (R372). -/
def Block.phyLost (st : Nat) (b : Block) : Block := b.chansLost ((List.range 16).map fun i => 16 * st + i)

/-- CHANNEL_RETIRE: a channel whose uncorrectable units reached UE_MAX within 24 h, or the stack of a channel whose PHY lost
its link (R372). -/
def Mc.channelRetire (c : Nat) (phy : Bool) (b : Block) : Block :=
  if 128 ≤ c then b
  else if phy then b.phyLost (c / 16)
  else
    let recent := (AMap.getD b.mc.ues c []).filter fun t => b.now < t + day
    if b.fld R.memRetireCtl 31 24 ≤ recent.length then b.retire c 2 else b

/-- MEM_S_RETIRE: software retires the channels whose bits it writes as 1 (R372). -/
def Mc.retireWrite (st : Nat) (v : Word) (b : Block) : Block :=
  ((List.range 16).filter fun i => v.getLsbD i).foldl (fun b i => b.retire (16 * st + i) 3) b

/-- A corrected error of a memory read (R368) or a scratch read (R376). `store`: 0 memory, 1 scratch. -/
def Mc.readCe (store a : Nat) (b : Block) : Block :=
  if store = 0 then (b.bump (R.memSCeCnt (b.chanOf a / 16))).tally (b.chanOf a / 16) 1 else (b.bump R.srCeCnt).tally 16 1

/-- An uncorrectable error poisons its unit or word, is counted, latched and reported (R369, R376). -/
def Block.uncorrectable (store a : Nat) (b : Block) : Block :=
  if store = 0 then
    let c := b.chanOf a
    let u := a / 32 * 32
    let b := ((b.poisonUnit (a / 32)).bump (R.memSUeCnt (c / 16))).tally (8 + c / 16) 1
    let b := (b.putN (R.memSLastUeLo (c / 16)) u).putN (R.memSLastUeHi (c / 16)) (u / 2 ^ 32)
    let b := { b with mc := { b.mc with ues := AMap.set b.mc.ues c (b.now :: (AMap.getD b.mc.ues c []).take 254) } }
    (b.event 0x0030 1 devJob 40 (Bits.leBytes 1 0 ++ Bits.leBytes 5 u)).msix (b.fld R.memIrq 10 0)
  else if store = 1 then
    let w := a / 8
    let b := { b with mc := { b.mc with srPoison := (b.mc.srPoison.filter (· < w)) ++ w :: (b.mc.srPoison.filter (w < ·)) } }
    ((b.bump R.srUeCnt).tally 17 1).event 0x0030 1 devJob 40 (Bits.leBytes 1 1 ++ Bits.leBytes 5 (8 * w))
  else { b with mc := { b.mc with cmdPoison := a % 0x4000 / 64 :: b.mc.cmdPoison } }

/-- MEM_READ_UE: a read finds an uncorrectable error; its reader gets poison and the read is counted (R369, R370, R376, R501).
`store`: 0 memory, 1 scratch, 2 the recovery ring's command storage, `a` then counting from its start. -/
def Mc.readUe (store a : Nat) (b : Block) : Block :=
  let b := b.uncorrectable store a
  if store = 0 then b.bump R.memPoisonCnt else b

/-- A switchable function does its work: it is RUNNING, or DRAINING with its present unit of work unfinished. -/
def Block.funcOn (b : Block) (f : Nat) : Bool :=
  match AMap.get? b.funcs f with
  | some x => x.mode == 1 || x.mode == 2
  | none => false

/-- PATROL_SCRUB: the next unit is read, corrected or poisoned (R371). `finding`: 0 clean, 1 corrected, 2 uncorrectable. -/
def Mc.patrol (finding : Nat) (b : Block) : Block :=
  if !b.funcOn 0x0700 then b
  else
    let u := b.mc.patrolAt
    let a := 32 * u
    let b := if b.poisonedUnit u then b
      else if finding = 1 then Mc.readCe 0 a b
      else if finding = 2 then (b.uncorrectable 0 a).bump (R.memSScrubUe (b.chanOf a / 16)) else b
    let n := b.memTop / 32
    if u + 1 < n then { b with mc := { b.mc with patrolAt := u + 1 } }
    else ({ b with mc := { b.mc with patrolAt := 0 } }).putN R.memScrubPass (b.regN R.memScrubPass + 1)

/-- Words of scratch. -/
abbrev srWords : Nat := 0xC200000 / 8

/-- SRAM_SCRUB: the next scratch word is checked; `delayed` are the masters whose accesses it delayed (R376, R380). -/
def Mc.sramScrub (finding : Nat) (delayed : List Nat) (b : Block) : Block :=
  if !b.funcOn 0x0701 then b
  else
    let w := b.mc.sramAt
    let b := delayed.foldl (fun b m => b.bump (R.srMConf (m % 64))) b
    let b := if finding = 1 then Mc.readCe 1 (8 * w) b
      else if finding = 2 ∧ !b.mc.srPoison.contains w then b.uncorrectable 1 (8 * w) else b
    if w + 1 < srWords then { b with mc := { b.mc with sramAt := w + 1 } }
    else ({ b with mc := { b.mc with sramAt := 0 } }).putN R.srScrubPass (b.regN R.srScrubPass + 1)

/-- The frame that occupies slot `s` of channel `c`, if any. -/
def Block.frameAt (b : Block) (c s : Nat) : Option Nat :=
  match b.mc.moved.find? fun e => e.2 == 1536 * c + s with
  | some e => some e.1
  | none =>
    let cs := (List.range 128).filter fun c => !b.mc.bootRetired.contains c
    (cs.findIdx? (· == c)).bind fun j =>
      let f := s * cs.length + j
      if (AMap.get? b.mc.moved f).isSome then none else some f

/-- The mark of frames the MEM has taken from the pools. -/
abbrev memUser : Nat := 2 ^ 24

/-- A free frame outside channel `c`, and in no channel lost with its PHY, which a frame of a retiring or lost channel moves to. -/
def Block.frameFor (b : Block) (c : Nat) : Option Nat :=
  Bm.search (fun f => (AMap.get? b.bm.tabs f).isNone && (b.frameUse f).isNone && b.slotOf f / 1536 != c &&
    (AMap.get? b.mc.lostCh (b.slotOf f / 1536)).isNone) 1 (b.stagingSize / frameB) (b.stagingBase / frameB)

/-- The staging area has a frame that no pool holds. -/
def Block.frameSpare (b : Block) : Bool :=
  decide (Bits.sum b.bm.have_ + b.bm.tabs.length < b.stagingSize / frameB)

/-- A pool that can give up a frame: it holds more than its target, and one of its frames is unused. -/
def Block.frameGiver (b : Block) : Option Nat :=
  (List.range 8).find? fun p => b.poolTarget p < b.bm.have_.getD p 0 &&
    b.framesUsed p * (if p = 7 then 2 else 1) < b.bm.have_.getD p 0

/-- Frames of the staging region that retirement has taken: those the pools still owe, and those the MEM has received for the frames of
retired channels (R20, R373). -/
def Block.memLost (b : Block) : Nat := b.bm.lost + (b.bm.tabs.filter fun e => e.2 == memUser).length

/-- Slot `n` of channel `c` is remapped to frame `g`, which a pool gives up where none is spare (R373). -/
def Block.remapped (c n g : Nat) (b : Block) : Block :=
  let h := match (if b.frameSpare then none else b.frameGiver) with
    | some p => b.bm.have_.set p (b.bm.have_.getD p 0 - (if p = 7 then 2 else 1))
    | none => b.bm.have_
  let moved := match b.frameAt c n with
    | some f => AMap.set b.mc.moved f (b.slotOf g)
    | none => b.mc.moved
  { b with bm := { b.bm with have_ := h, lost := b.bm.lost - 1, tabs := AMap.set b.bm.tabs g memUser }, mc := { b.mc with moved := moved } }

/-- Slot `n` of the retiring channel `c` has been copied into frame `g`. -/
def Block.migrated (c n g : Nat) (b : Block) : Block :=
  let b := b.remapped c n g
  { b with mc := { b.mc with retiring := some (c, n + 1) } }

/-- Slot `n` of the lost channel `c` is remapped to frame `g`, filled with poison, whatever was written to it since the loss; after its last
slot the channel holds no frame (R373). -/
def Block.refilled (c n g : Nat) (b : Block) : Block :=
  let f := b.frameAt c n
  let b := b.remapped c n g
  { b with mc := { b.mc with
      lostFr := b.mc.lostFr ++ f.toList.filter fun x => !b.mc.lostFr.contains x
      clean := b.mc.clean.filter fun u => f != some (u / 65536)
      lostCh := if n + 1 < 1536 then AMap.set b.mc.lostCh c (n + 1) else AMap.erase b.mc.lostCh c } }

/-- A retiring channel after `n + 1` of its 1,536 slots: with the last one it is retired, and the next channel begins (R373). -/
def Block.migrateEnd (c n : Nat) (b : Block) : Block :=
  if n + 1 < 1536 then b.memRegs
  else (({ b with mc := { b.mc with retiring := none } }).retired c).retireNext.memRegs

/-- FRAME_MIGRATE: the MEM takes one empty frame of the pools, copies the next frame of the retiring channel into it and remaps
it; after the last one the channel is retired and the next one begins. Frames of lost channels come first (R373). -/
def Mc.migrate (b : Block) : Block :=
  let take (c : Nat) (f : Nat → Block) : Block :=
    match b.frameFor c with
    | none => b
    | some g => if !b.frameSpare && b.frameGiver.isNone then b else f g
  match b.mc.lostCh, b.mc.retiring with
  | (c, n) :: _, _ => take c fun g => b.refilled c n g
  | [], none => b
  | [], some (c, n) => take c fun g => (b.migrated c n g).migrateEnd c n

/-- A requester (R8), named by its master ID in Table 14-3: a control processor (0 to 9), a host core (10 to 25), the PCI Express endpoint
(38) or the sideband port (39). -/
def Rq.known (rq : Nat) : Bool := rq < 26 || rq == 38 || rq == 39

/-- Key of a port of a bank. -/
def Bm.portKey (bank : Nat) (p1 : Bool) : Nat := 2 * bank + Bits.ofBool p1

/-- The register that hands a port of a bank over: SR_BANK_OWN, or SR_BANK_OWN_P1 for port 1 of a dual-port bank (Table 14-10). -/
def Bm.ownReg (bank : Nat) (p1 : Bool) : Option Nat :=
  if p1 then (if 768 ≤ bank ∧ bank < 800 then some (R.srBankOwnP1 (bank - 768)) else none)
  else if bank < 800 then some (R.srBankOwn bank) else none

/-- SR_BANK_OWN: a write of NEW starts a handover, or is dropped (R378). `delayed` are the masters whose accesses it delays
(R380). -/
def Mc.bankWrite (rq bank : Nat) (p1 : Bool) (v : Word) (delayed : List Nat) (b : Block) : Block :=
  let k := Bm.portKey bank p1
  let x := b.bank k
  let new := Bits.fld v.toNat 13 8
  let may := Bm.admits x.owner rq || rq < 4 || rq == 38
  if 800 ≤ bank ∨ (p1 ∧ bank < 768) then b
  else if may && !x.fixed && !x.pending && x.owner != 35 && Bm.ownerCode new && new != 35 then
    let b := delayed.foldl (fun b m => b.bump (R.srMConf (m % 64))) b
    b.setBank k { x with pending := true, clear := v.getLsbD 29, new := new, since := b.now }
  else b.setBits R.srStat 1

/-- BANK_HANDOVER_DONE: the old owner's accesses have drained; the bank is cleared if asked and takes its new owner (R378). -/
def Mc.handoverDone (bank : Nat) (p1 : Bool) (b : Block) : Block :=
  let k := Bm.portKey bank p1
  let x := b.bank k
  if x.pending then
    let b := if x.clear then b.clearBank bank else b
    b.setBank k { x with pending := false, clear := false, owner := x.new }
  else b

/-- One write of bytes to scratch. A poisoned word that the write covers whole is poisoned no more; one that it covers in part stays
unchanged and poisoned (R376). -/
def Block.srWrite (a : Nat) (bs : List Byte) (b : Block) : Block :=
  let whole (w : Nat) : Bool := a ≤ 8 * w && 8 * w + 8 ≤ a + bs.length
  let keep (x : Nat) : Bool := whole (x / 8) || !b.mc.srPoison.contains (x / 8)
  { b with
    scratch := (bs.zipIdx.filter fun e => keep (a + e.2)).foldl (fun m e => m.write (a + e.2) e.1) b.scratch
    mc := { b.mc with srPoison := b.mc.srPoison.filter fun w => !whole w } }

/-- SCRATCH_NONOWNER_ACCESS: a master that does not own the bank, or whose bank is being handed over, reads poison or has its
write discarded, and the access is counted (R377, R378). -/
def Mc.nonOwner (master bank : Nat) (p1 : Bool) (b : Block) : Block :=
  let x := b.bank (Bm.portKey bank p1)
  if master = 40 ∨ (Bm.admits x.owner master ∧ !x.pending) then b else b.bump (R.srMNonown (master % 64))

/-- What a reset of masters cuts: the units and words that write bursts in progress touched are poisoned, and each transaction of another
master that targeted one of them gets a poisoned response (R382). -/
def Mc.cut (c : Cut) (b : Block) : Block :=
  let b := c.units.foldl (fun (b : Block) e => if e.1 = 0 then b.poisonUnit (e.2 / 32)
    else { b with mc := { b.mc with srPoison := (b.mc.srPoison.filter (· < e.2 / 8)) ++ e.2 / 8 :: (b.mc.srPoison.filter (e.2 / 8 < ·)) } }) b
  c.hit.foldl (fun b m => b.emit (.poisonTo m)) b

/-- When a master resets, the banks it owned return to the CI unless they are FIXED (R382). -/
def Mc.masterReset (master : Nat) (b : Block) : Block :=
  { b with banks := b.banks.map fun (e : Nat × Bank) =>
      if !e.2.fixed && e.2.owner == master && 4 ≤ master then (e.1, { e.2 with owner := 0, pending := false, clear := false }) else e }

end Sys2Proof.Machine
end

