-- ==== Sys2Proof/Machine/Fif.lean ====
section
/-! DEFINITION. The fabric interface (chapter 3): ports, credits, streams, tags, rank tables and the multicast mask table. -/

namespace Sys2Proof.Machine

/-- The block with its FIF changed. -/
def Block.onFif (f : FifState → FifState) (b : Block) : Block := { b with fif := f b.fif }

/-- Flits of a packet (R79). -/
def Fif.flits (len : Nat) : Nat := (32 + len + 4 + 63) / 64

/-- Key of a stream of a job, a rank or mask index, and a class. -/
def Fif.rxKey (job rank cls : Nat) : Nat := (job * 2 ^ 24 + rank) * 8 + cls

/-- Key of a multicast stream. -/
def Fif.mcKey (job mask cls : Nat) : Nat := (job * 2 ^ 12 + mask) * 8 + cls

/-- A fabric port is up with its 4 lanes (R73). -/
def Block.portUp (b : Block) (p : Nat) : Bool := b.bit R.fifPortUp p

/-- Mode of a switchable function: 0 OFF, 1 RUNNING, 2 DRAINING, 3 OFF and starting. -/
def Block.funcMode (b : Block) (f : Nat) : Nat := ((AMap.get? b.funcs f).map (·.mode)).getD 0

/-- A function is OFF, or starting from it (R55). -/
def Block.funcOff (b : Block) (f : Nat) : Bool := b.funcMode f == 0 || b.funcMode f == 3

/-- FIF_P_STAT of a port (Table 3-7, Table 2-10). -/
def Block.fabStat (b : Block) (p : Nat) : Nat :=
  let m := b.funcMode (0x100 + p)
  let st := if m = 1 then (if b.portUp p then 2 else 1) else if m = 2 then 3 else 0
  st + (if st = 2 ∧ b.bit R.fifCtl 0 ∧ b.bit R.fifPortSpray p then 4 else 0)

/-! ## Jobs and ranks -/

/-- The job whose rank table carries a fabric job ID, if it is OPEN (R74 check 5). -/
def Block.jobOfFab (b : Block) (fj : Nat) : Option Nat :=
  (b.fif.ranks.find? fun e => e.2.fabJob == fj && b.jobOpen e.1).map (·.1)

/-- The rank table of a job. -/
def Block.rankTab (b : Block) (job : Nat) : Option RankTab := AMap.get? b.fif.ranks job

/-- The fabric port address and delivery group of a VALID rank. -/
def Block.rankEntry (b : Block) (job rank : Nat) : Option (Nat × Nat) :=
  (b.rankTab job).bind fun t => AMap.get? t.entries rank

/-! ## Receive -/

/-- Flits that the held and delivered packets of a class occupy in the Eddy buffer. -/
def Block.eddyOcc (b : Block) (cls : Nat) : Nat :=
  let of (p : FabPkt) : Nat := if p.cls.toNat = cls then Fif.flits p.payload.length else 0
  Bits.sum (b.fif.got.map of) + Bits.sum (b.ce.wait.map of) + Bits.sum (b.fif.blocked.map of) + Bits.sum (b.fif.mgmt.map of) +
  Bits.sum (b.fif.rx.map fun e => Bits.sum (e.2.held.map fun h => of h.2.2))

/-- Receive credits of a class granted to a port and not yet used (R79). -/
def Block.rxCredOf (b : Block) (port cls : Nat) : Nat := AMap.getD b.fif.rxCred (port * 8 + cls) 0

/-- Flits of the Eddy buffer that a class occupies or has granted to the ports. -/
def Block.eddyUsed (b : Block) (cls : Nat) : Nat := b.eddyOcc cls + Bits.sum ((List.range 32).map fun p => b.rxCredOf p cls)

/-- Flits of the packets still due that may use the reserved flits of a class partition (Table 8-5): 65 for the response to each request the
DX-64 has issued on the class, and for each chunk that a tile with a tile context still awaits from a contributor. -/
def Block.eddyDue (b : Block) (cls : Nat) : Nat :=
  let tile (c : Coll) (e : Nat × TileCtx) : Nat :=
    if e.2.ready || (if c.scav then 7 else if e.1 < c.split then 2 else 3) != cls then 0
    else (c.contrib.length - e.2.last.length) * Bits.ceilDiv (2 ^ c.log2) 1024
  65 * ((b.fif.tags.filter fun e => e.2.cls == cls).length + Bits.sum (b.ce.colls.map fun e => Bits.sum (e.2.tiles.map (tile e.2))))

/-- Flits that a class may occupy and grant: its partition, of which the 1,024 reserved flits are granted only as far as packets that may use
them are due (R79, R101, R248; log entry 65). -/
def Block.eddyLimit (b : Block) (cls : Nat) : Nat := b.fif.parts.getD cls 0 * 1024 - (1024 - b.eddyDue cls)

/-- The partitions in force follow FIF_EDDY_PART: one that shrinks does so at once, and the others grow once every class fits its new size
(R101). -/
def Block.eddyParts (b : Block) : Block :=
  let set (c : Nat) : Nat := b.fld (R.fifEddyPart c) 9 0
  let fits := (List.range 8).all fun c => b.eddyUsed c ≤ set c * 1024
  b.onFif fun f => { f with parts := (List.range 8).map fun c => if fits then set c else min (set c) (f.parts.getD c 0) }

/-- A port is granted credits of a class, up to its share and the room that is left. -/
def Block.grantPort (cls share : Nat) (x : Nat × Block) (p : Nat) : Nat × Block :=
  let n := min (share - x.2.rxCredOf p cls) x.1
  if n = 0 then x
  else (x.1 - n, (x.2.onFif fun f => { f with rxCred := AMap.set f.rxCred (p * 8 + cls) (x.2.rxCredOf p cls + n) }).emit (.fabCredit p cls n))

/-- Receive credits of a class are granted to the ports that are up: as many as its partition in force allows (R79, R101). Each port gets up to
one part in 32 of the partition, the lowest port first (DESIGN CHOICE, log entry 65). -/
def Block.grant (cls : Nat) (b : Block) : Block :=
  let room := b.eddyLimit cls - b.eddyUsed cls
  (((List.range 32).filter b.portUp).foldl (Block.grantPort cls (b.fif.parts.getD cls 0 * 32)) (room, b)).2

/-- Payload lengths that Table 3-2 gives an opcode the DX-64 receives; `none` for an opcode it does not receive. -/
def Fif.lenOk (p : FabPkt) : Option Bool :=
  let l := p.length.toNat
  let n := p.payload.length
  match p.opcode.toNat with
  | 0x01 => some (1 ≤ l && l ≤ 4096 && n == 0)
  | 0x02 | 0x03 | 0x20 | 0x22 => some (l == n && 1 ≤ l && l ≤ 4096)
  | 0x04 | 0x06 | 0x07 | 0x51 => some (l == 0 && n == 0)
  | 0x10 | 0x11 | 0x13 | 0x14 | 0x15 | 0x1F => some (l == n && l == 8)
  | 0x12 => some (l == n && l == 16)
  | 0x30 | 0x52 | 0x53 => some (l == n && l == 2)
  | _ => none

/-- A management opcode: it belongs to no job and no stream (R74). -/
def Fif.isMgmt (opc : Nat) : Bool := opc == 0x51 || opc == 0x52 || opc == 0x53

/-- The packets at the front of a receive window: those delivered, and the stream after them. -/
def RxStream.drain : Nat → RxStream → List FabPkt × RxStream
  | 0, st => ([], st)
  | k + 1, st =>
    match st.held.find? fun h => h.1 == st.e with
    | some h =>
      let (ps, st') := RxStream.drain k { st with e := (st.e + 1) % 2 ^ 32, held := st.held.filter fun g => g.1 != st.e }
      (h.2.2 :: ps, st')
    | none => ([], st)

/-- The receive stream of a key. -/
def Block.rxStream (b : Block) (key : Nat) : RxStream := AMap.getD b.fif.rx key ⟨0, []⟩

/-- The block with a receive stream set and its deliverable packets delivered in order (R85). -/
def Block.deliver (key : Nat) (st : RxStream) (b : Block) : Block :=
  let (ps, st) := st.drain st.held.length
  b.onFif fun f => { f with rx := AMap.set f.rx key st, got := f.got ++ ps }

/-- A packet with its fabric job ID replaced by the job number, as the DX-64 names it from then on (R34). -/
def Fif.withJob (p : FabPkt) (job : Nat) : FabPkt := { p with job := BitVec.ofNat 10 job }

/-- A packet arrives on a port: it is counted, and it uses receive credits of its class (R79, R102). -/
def Fif.arrive (port : Nat) (p : FabPkt) (b : Block) : Block :=
  let b := (b.bump64 (R.fifPRxpktLo port) 1).bump64 (R.fifPRxbyteLo port) (36 + p.payload.length)
  let k := port * 8 + p.cls.toNat
  b.onFif fun f => { f with rxCred := AMap.set f.rxCred k (AMap.getD f.rxCred k 0 - Fif.flits p.payload.length) }

/-- A packet's header passes its check (R74 check 1). -/
def Fif.headOk (p : FabPkt) : Bool := p.hchk == Crc.crc16 p.head

/-- A packet may come in on a port: the port is up, and the link partner holds credits for all of its flits (R79). A packet whose header is
corrupted may name any class, and comes against the credits of the class it was sent in (R74, log entry 65). -/
def Block.linkTakes (b : Block) (port : Nat) (p : FabPkt) : Bool :=
  decide (port < 32) && b.portUp port && (!Fif.headOk p || decide (Fif.flits p.payload.length ≤ b.rxCredOf port p.cls.toNat))

/-- The job of a packet, where R74 check 5 and R97 let it through. -/
def Block.jobOfPkt (b : Block) (p : FabPkt) : Option Nat :=
  (b.jobOfFab p.job.toNat).filter fun job => (b.rankEntry job p.srcRank.toNat).any fun e => !b.fif.resets.contains e.1

/-- The counter of the first of checks 1 to 5 that a packet from a port fails (R74). -/
def Block.rxFault (b : Block) (port : Nat) (p : FabPkt) : Option Nat :=
  if !Fif.headOk p then some (R.fifPHdrErr port)
  else if p.pcheck ≠ Crc.crc32c p.payload then some (R.fifPPayErr port)
  else if p.poison ∧ p.opcode ≠ 0x30#8 then some (R.fifPPoison port)
  else if p.ver ≠ 1#2 ∨ p.rsvd1 ≠ 0#3 ∨ p.rsvd3 ≠ 0#6 ∨ p.mcast ∨ Fif.lenOk p ≠ some true then some R.fifOpcDiscardCnt
  else if !Fif.isMgmt p.opcode.toNat && (b.jobOfPkt p).isNone then some R.fifJobDiscardCnt
  else none

/-- FABRIC_PACKET_RX (R74, R85, R97, R102). -/
def Fif.packetRx (port : Nat) (p : FabPkt) (b : Block) : Block :=
  if !b.linkTakes port p then b
  else
    let b := Fif.arrive port p b
    if b.locked then b
    else match b.rxFault port p with
    | some r => b.bump r
    | none =>
      if Fif.isMgmt p.opcode.toNat then b.onFif fun f => { f with mgmt := f.mgmt ++ [p] }
      else
        let job := (b.jobOfPkt p).getD 0
        let key := Fif.rxKey job p.srcRank.toNat p.cls.toNat
        let st := b.rxStream key
        let d := (p.spraySeq.toNat + 2 ^ 32 - st.e) % 2 ^ 32
        if 4096 ≤ d || st.held.any fun h => h.1 == p.spraySeq.toNat then b.bump R.fifWinDiscardCnt
        else b.deliver key { st with held := st.held ++ [(p.spraySeq.toNat, b.now, Fif.withJob p job)] }

/-- The oldest arrival among the packets a stream holds behind a hole (R86). -/
def RxStream.oldest (st : RxStream) : Option Time := (st.held.map fun h => h.2.1).min?

/-- Skips of the missing packets at E while the oldest packet still held has waited `gap` and the missing one is not `coming` at this very
moment: the stream, how many skips, and the packets delivered (R86, R87). -/
def RxStream.skip (now gap : Time) (coming : Nat → Bool) : Nat → RxStream → RxStream × Nat × List FabPkt
  | 0, st => (st, 0, [])
  | k + 1, st =>
    match st.oldest with
    | none => (st, 0, [])
    | some t =>
      if now < t + gap || coming st.e then (st, 0, [])
      else
        let (ps, st) := RxStream.drain st.held.length { st with e := (st.e + 1) % 2 ^ 32 }
        let (st, n, qs) := RxStream.skip now gap coming k st
        (st, n + 1, ps ++ qs)

/-- A packet that comes in on a port passes checks 1 to 5 and brings packet `e` of a stream. -/
def Block.brings (b : Block) (key e : Nat) (x : Nat × FabPkt) : Bool :=
  !b.locked && b.linkTakes x.1 x.2 && (b.rxFault x.1 x.2).isNone && !Fif.isMgmt x.2.opcode.toNat &&
    Fif.rxKey ((b.jobOfPkt x.2).getD 0) x.2.srcRank.toNat x.2.cls.toNat == key && x.2.spraySeq.toNat == e

/-- GAP_TIMER_EXPIRY of a stream (R86): nothing is due until the gap time reaches GAP_US. `same` are the packets that arrive at the same
moment, each with its port: the FIF does not skip a number that one of them brings (R87). -/
def Fif.gapExpiry (key : Nat) (same : List (Nat × FabPkt)) (b : Block) : Block :=
  let st := b.rxStream key
  let (st', n, ps) := RxStream.skip b.now (b.fld R.fifGapTmo 13 0 * 8000) (fun e => same.any (b.brings key e)) 4096 st
  if n = 0 then b
  else (b.onFif fun f => { f with rx := AMap.set f.rx key st', got := f.got ++ ps }).bumpN R.fifGapSkipCnt n

/-- The delivered packet `sel`, when it is the first of its stream among those delivered and a test selects it (R85). -/
def Block.pickGot (b : Block) (sel : Nat) (want : FabPkt → Bool) : Option FabPkt :=
  match b.fif.got[sel]? with
  | none => none
  | some p =>
    let same (q : FabPkt) : Bool := q.job == p.job && q.srcRank == p.srcRank && q.cls == p.cls
    if want p && !((b.fif.got.take sel).any same) && !(b.fif.blocked.any same) then some p else none

/-- The block without delivered packet `sel`; its credits are granted again (R79). -/
def Block.dropGot (sel : Nat) (b : Block) : Block := b.onFif fun f => { f with got := Bits.removeAt f.got sel }

/-! ## Transmit -/

/-- Credits a port holds of a class (R78). -/
def Block.cred (b : Block) (p cls : Nat) : Nat := AMap.getD b.fif.cred (p * 8 + cls) 0

/-- A port may carry new packets: its function is RUNNING, it is up, and the device is not LOCKED (R505). -/
def Block.txReady (b : Block) (p : Nat) : Bool := !b.locked && b.portUp p && b.funcMode (0x100 + p) == 1

/-- The fixed port of a packet while SPRAY_EN is 0 (R84). -/
def Fif.fixedPort (x : TxPkt) : Nat :=
  let k := if x.mcast then x.pkt.maskIdx.toNat else x.pkt.dstRank.toNat
  let f := [0, 5, 10, 15, 20].foldl (fun acc s => Nat.xor acc (k / 2 ^ s % 32)) 0
  (f + 4 * x.pkt.cls.toNat) % 32

/-- The next port in round-robin order that sprays a packet of a class and size (R78, R84). -/
def Block.sprayPort (b : Block) (cls fl : Nat) : Option Nat :=
  ((List.range 32).map fun i => (b.fif.rr + i) % 32).find? fun p => b.txReady p && b.bit R.fifPortSpray p && fl ≤ b.cred p cls

/-- The fixed port of a stream carries it: it is up, a RUNNING or DRAINING function, and in FIF_PORT_SPRAY (R84, Table 2-10). -/
def Block.fixedReady (b : Block) (p : Nat) : Bool :=
  !b.locked && b.portUp p && (b.funcMode (0x100 + p) == 1 || b.funcMode (0x100 + p) == 2) && b.bit R.fifPortSpray p

/-- The port that sends a waiting packet now, if one can, and whether R84 sprays the packet (R78, R84, R94). -/
def Block.txPort (b : Block) (x : TxPkt) : Option (Nat × Bool) :=
  let cls := x.pkt.cls.toNat
  let fl := Fif.flits x.pkt.payload.length
  let on (p : Nat) : Option (Nat × Bool) := if fl ≤ b.cred p cls then some (p, false) else none
  let spray := (b.sprayPort cls fl).map fun p => (p, true)
  if x.link then ((List.range 32).find? fun p => b.txReady p && b.bit R.fifPortSpray p).bind on
  else if b.bit R.fifCtl 0 then spray
  else
    let p := Fif.fixedPort x
    if b.fixedReady p then on p else spray

/-- A packet leaves on a port: credits, counters, the round robin of R84 when it is sprayed, and the time limit of the request it ends (R78,
R90). -/
def Block.txOn (p : Nat) (spray : Bool) (x : TxPkt) (b : Block) : Block :=
  let cls := x.pkt.cls.toNat
  let fl := Fif.flits x.pkt.payload.length
  let k := p * 8 + cls
  let b := b.onFif fun f => { f with
    cred := AMap.set f.cred k (AMap.getD f.cred k 0 - fl)
    credOut := AMap.set f.credOut k (AMap.getD f.credOut k 0 + fl)
    rr := if spray then (p + 1) % 32 else f.rr
    tags := match x.tag with
      | some t => AMap.adjust f.tags t fun g => { g with sent := some b.now }
      | none => f.tags }
  let b := (b.bump64 (R.fifPTxpktLo p) 1).bump64 (R.fifPTxbyteLo p) (36 + x.pkt.payload.length)
  b.emit (.fab p x.pkt)

/-- A packet is sent at once, or waits for a port (R78, R84, R96). -/
def Block.tx (x : TxPkt) (b : Block) : Block :=
  match b.txPort x with
  | some (p, spray) => b.txOn p spray x
  | none => b.onFif fun f => { f with txq := f.txq ++ [x] }

/-- FABRIC_PACKET_TX of waiting packet `sel` (R84): sent once a port can take it. -/
def Fif.packetTx (sel : Nat) (b : Block) : Block :=
  match b.fif.txq[sel]? with
  | none => b
  | some x => match b.txPort x with
    | some (p, spray) => (b.onFif fun f => { f with txq := Bits.removeAt f.txq sel }).txOn p spray x
    | none => b

/-- FABRIC_CREDIT_RETURN: credits of a class return on a port (R78). -/
def Fif.creditReturn (p cls n : Nat) (b : Block) : Block :=
  let k := p % 32 * 8 + cls % 8
  b.onFif fun f => { f with
    cred := AMap.set f.cred k (AMap.getD f.cred k 0 + n)
    credOut := AMap.set f.credOut k (AMap.getD f.credOut k 0 - n) }

/-- A waiting packet is ready for a port that lacks its credits (Table 3-7): the ports that would take it by R84 or R94. -/
def Block.lacksCred (b : Block) (p : Nat) (x : TxPkt) : Bool :=
  let open_ (q : Nat) : Bool := b.txReady q && b.bit R.fifPortSpray q
  let mine := if x.link then (List.range 32).find? open_ == some p
    else if b.bit R.fifCtl 0 || !b.fixedReady (Fif.fixedPort x) then open_ p else Fif.fixedPort x == p
  mine && b.cred p x.pkt.cls.toNat < Fif.flits x.pkt.payload.length

/-- FIF_P_CRED_STALL of a port counts the microseconds, up to now, in which a packet, or a time message (R410), was ready for it but lacked
credit. -/
def Block.stallPort (b : Block) (p : Nat) : Block :=
  let wait := b.fif.txq.any (b.lacksCred p) || b.tu.msgWait.contains p
  let b := match AMap.get? b.fif.stall p with
    | some t => b.bumpN (R.fifPCredStall p) (b.now / 8000 - t / 8000)
    | none => b
  b.onFif fun f => { f with stall := if wait then AMap.set f.stall p b.now else AMap.erase f.stall p }

/-- Credits are granted again and credit stalls are counted: run at the end of each row. -/
def Block.fifSettle (b : Block) : Block :=
  let b := if b.fif.stall.isEmpty && b.fif.txq.isEmpty && b.tu.msgWait.isEmpty then b else (List.range 32).foldl Block.stallPort b
  let b := b.eddyParts
  if b.regN R.fifPortUp = 0 then b else (List.range 8).foldl (fun b c => b.grant c) b

/-- A packet of the DX-64 with every field but the stream number and the checks. -/
def Fif.packet (opc rank cls src gen tag job : Nat) (resp : Bool) (fpa addr len : Nat) (data : List Byte) (last : Bool := true) : FabPkt :=
  { opcode := BitVec.ofNat 8 opc, dstRank := BitVec.ofNat 24 rank, cls := BitVec.ofNat 3 cls, ver := 1, rsvd1 := 0,
    srcRank := BitVec.ofNat 24 src, gen := BitVec.ofNat 8 gen, tag := BitVec.ofNat 24 tag, job := BitVec.ofNat 10 job,
    maskIdx := 0, mcast := false, resp := resp, poison := false, last := last, rsvd3 := 0, length := BitVec.ofNat 16 len,
    dstFpa := BitVec.ofNat 16 fpa, spraySeq := 0, addr := BitVec.ofNat 48 addr, hchk := 0, payload := data, pcheck := 0 }

/-- A unicast packet of a job is numbered in its stream, sealed and sent; `none` when the rank is not VALID (R82, R83). -/
def Block.fabSend? (job rank cls opc gen tag : Nat) (resp : Bool) (addr len : Nat) (data : List Byte) (req : Option Nat)
    (b : Block) (last : Bool := true) : Option Block :=
  match b.rankTab job with
  | none => none
  | some t => (AMap.get? t.entries rank).map fun (fpa, _) =>
    let key := Fif.rxKey job rank cls
    let seq := AMap.getD b.fif.txSeq key 0
    let p := { Fif.packet opc rank cls t.gwRank gen tag t.fabJob resp fpa addr len data last with spraySeq := BitVec.ofNat 32 seq }
    (b.onFif fun f => { f with txSeq := AMap.set f.txSeq key ((seq + 1) % 2 ^ 32) }).tx ⟨p.seal, false, false, req, none⟩

/-- A response or NACK to a requester; nothing is sent to a rank that is not VALID or that is being reset (R82, R99). -/
def Block.fabReply (job rank cls opc gen tag addr : Nat) (data : List Byte) (b : Block) : Block :=
  match b.rankEntry job rank with
  | none => b
  | some (fpa, _) =>
    if b.fif.resets.contains fpa then b
    else (b.fabSend? job rank cls opc gen tag true addr data.length data none).getD b

/-- A multicast packet of a job on a mask entry is numbered, sealed and sent (R83, R96). -/
def Block.mcSend (job mask cls opc addr : Nat) (data : List Byte) (last : Bool) (holder : Option (Nat × Nat)) (b : Block) : Block :=
  match b.rankTab job with
  | none => b
  | some t =>
    let key := Fif.mcKey job mask cls
    let seq := AMap.getD b.fif.mcSeq key 0
    let p := { Fif.packet opc 0xFFFFFF cls t.gwRank 0 0 t.fabJob false 0 addr data.length data last with
      spraySeq := BitVec.ofNat 32 seq, mcast := true, maskIdx := BitVec.ofNat 12 mask }
    (b.onFif fun f => { f with mcSeq := AMap.set f.mcSeq key ((seq + 1) % 2 ^ 32) }).tx ⟨p.seal, true, false, none, holder⟩

/-! ## Tags -/

/-- Tags of the pool. -/
abbrev tagPool : Nat := 2 ^ 24

/-- FIF_TAG_FREE. -/
def Block.tagFree (b : Block) : Nat := tagPool - b.fif.tags.length - b.fif.quar.length

/-- The command whose operation a request serves (R91). -/
def Block.useCmd (b : Block) (u : TagUse) : Option Nat :=
  match u with
  | .mcast _ id => some id
  | .exec _ _ => none
  | .bulk i _ => (AMap.get? b.fwu.ctxs i).bind (·.cmd)

/-- A tag leaves the free pool: the lowest free number (log entry 13), its generation one more modulo 256 (R89). -/
def Block.takeTag (rank job cls : Nat) (use : TagUse) (b : Block) : Option (Block × Nat × Nat) :=
  let busy (t : Nat) : Bool := (AMap.get? b.fif.tags t).isSome || (AMap.get? b.fif.quar t).isSome
  (Bm.search (fun t => !busy t) 1 (b.fif.tags.length + b.fif.quar.length + 1) 0).bind fun t =>
    if tagPool ≤ t then none
    else
      let gen := (AMap.getD b.fif.gens t 0 + 1) % 256
      let ms := (b.job job).fabTmo
      some (b.onFif (fun f => { f with
        gens := AMap.set f.gens t gen
        tags := AMap.set f.tags t ⟨gen, rank, job, cls, use, ms * 8000000, none⟩
        owner := match b.useCmd use with
          | some id => AMap.set f.owner (256 * t + gen) id
          | none => AMap.erase f.owner (256 * t + gen) }), t, gen)

/-- A tag goes into quarantine for twice the job's fabric-local timeout (R90). -/
def Block.quarantine (t : Nat) (b : Block) : Block :=
  match AMap.get? b.fif.tags t with
  | none => b
  | some g => b.onFif fun f => { f with tags := AMap.erase f.tags t, quar := AMap.set f.quar t (b.now + 2 * g.limit, g.use) }

/-- MCAST_UPDATE goes out on a tag, link-local, on the lowest port in spraying; with no port up nothing is sent (R94). -/
def Block.mcastUpdate (w : TagWait) (t gen : Nat) (b : Block) : Block :=
  let p := Fif.packet 0x50 0xFFFFFF 0 0 gen t 0 false 0xFFFF 0 130 w.data
  let b := b.onFif fun f => { f with tags := AMap.adjust f.tags t fun g => { g with limit := (b.job w.job).fabTmo * 8000000 } }
  if (List.range 32).any (fun p => b.txReady p && b.bit R.fifPortSpray p) then b.tx ⟨p.seal, false, true, some t, none⟩ else b

/-- A request is issued on a tag (R89, R93): `none` when its rank is not VALID; it waits in its context while no tag is free. -/
def Block.issue (w : TagWait) (b : Block) : Option Block :=
  let wait := b.onFif fun f => { f with tagWait := f.tagWait ++ [w] }
  match w.use with
  | .mcast _ _ => match b.takeTag 0 devJob 0 w.use with
    | none => some wait
    | some (b, t, gen) => some (b.mcastUpdate w t gen)
  | _ =>
    if (b.rankEntry w.job w.rank).isNone then none
    else match b.takeTag w.rank w.job w.cls w.use with
      | none => some wait
      | some (b, t, gen) => b.fabSend? w.job w.rank w.cls w.opc gen t false w.addr w.len w.data (some t)

/-- TAG_QUARANTINE_END of a tag: it returns to the free pool once its quarantine has ended (R92). -/
def Fif.quarantineEnd (t : Nat) (b : Block) : Block :=
  match AMap.get? b.fif.quar t with
  | some (u, _) => if u ≤ b.now then b.onFif fun f => { f with quar := AMap.erase f.quar t } else b
  | none => b

/-- The outstanding tag a response matches by TAG, GEN, SRC_RANK and job (R91). -/
def Block.matchTag (b : Block) (p : FabPkt) : Option (Nat × Tag) :=
  (AMap.get? b.fif.tags p.tag.toNat).bind fun g =>
    if g.gen == p.gen.toNat && g.rank == p.srcRank.toNat && g.job == p.job.toNat then some (p.tag.toNat, g) else none

/-- A tag is freed by a successful match (R92). -/
def Block.freeTag (t : Nat) (b : Block) : Block := b.onFif fun f => { f with tags := AMap.erase f.tags t }

/-! ## The multicast mask table -/

/-- LATE_DISCARD is set for the command that owns the operation of a late response, while that command is open (R91). -/
def Block.lateWarn (p : FabPkt) (b : Block) : Block :=
  match AMap.get? b.fif.owner (256 * p.tag.toNat + p.gen.toNat) with
  | some id => b.warn id Warn.lateDiscard
  | none => b

/-- The block without management packet `sel`, which has been taken. -/
def Block.dropMgmt (sel : Nat) (b : Block) : Block := b.onFif fun f => { f with mgmt := Bits.removeAt f.mgmt sel }

/-- MCAST_SET once its checks have passed: the entry is written and MCAST_UPDATE goes out, or waits for a tag (R93, R94). -/
def Fif.mcastWrite (id idx job mask : Nat) (bits : List Byte) (b : Block) : Block :=
  let open_ := ((AMap.get? b.fif.masks idx).map (·.cmds)).getD []
  let b := b.onFif fun f => { f with masks := AMap.set f.masks idx ⟨job, mask, true, open_ ++ [(id, b.now + (b.job job).fabTmo * 8000000)]⟩ }
  (b.issue ⟨.mcast idx id, job, 0, 0, 0x50, 0, 130, Bits.leBytes 2 idx ++ bits⟩).getD b

/-- MCAST_UPDATE_ACK_RX: the acknowledgement matches by TAG and GEN, and its MCAST_SET completes OK; else it is late (R91, R94). -/
def Fif.mcastAck (sel : Nat) (b : Block) : Block :=
  match b.fif.mgmt[sel]? with
  | none => b
  | some p =>
    if p.opcode ≠ 0x51#8 then b
    else
      let b := b.dropMgmt sel
      let late := (b.bump R.fifLateCnt).lateWarn p
      match AMap.get? b.fif.tags p.tag.toNat with
      | none => late
      | some g =>
        match g.use with
        | .mcast idx id =>
          if g.gen ≠ p.gen.toNat then late
          else ((b.freeTag p.tag.toNat).onFif fun f => { f with
            masks := AMap.adjust f.masks idx fun m => { m with cmds := m.cmds.filter fun e => e.1 != id } }).ok id 0
        | _ => late

/-- An MCAST_SET is not answered: what waits for its tag is gone, its tag goes into quarantine, and it completes with a status (R90, R94). -/
def Block.mcastEnd (idx id st : Nat) (b : Block) : Block :=
  let b := b.onFif fun f => { f with
    masks := AMap.adjust f.masks idx fun m => { m with cmds := m.cmds.filter fun e => e.1 != id }
    tagWait := f.tagWait.filter fun w => w.use != .mcast idx id }
  let b := match b.fif.tags.find? fun e => e.2.use == .mcast idx id with
    | some (t, _) => b.quarantine t
    | none => b
  b.done id st 0

/-- MCAST_SET_TIMEOUT: no acknowledgement within the job's fabric-local timeout; MCAST_SET completes TIMEOUT and the entry is
invalid (R94). -/
def Fif.mcastTimeout (idx : Nat) (b : Block) : Block :=
  let due := (((AMap.get? b.fif.masks idx).map (·.cmds)).getD []).filter fun e => e.2 ≤ b.now
  due.foldl (fun b e => (b.onFif fun f => { f with masks := AMap.adjust f.masks idx fun m => { m with valid := false } }).mcastEnd idx e.1 St.timeout) b

/-! ## Ports -/

/-- A fabric port goes down: it leaves spraying and the credits of both directions are void (R73). -/
def Block.portDown (p : Nat) (b : Block) : Block :=
  let off (m : AMap Nat) : AMap Nat := m.filter fun (e : Nat × Nat) => e.1 / 8 != p
  (b.putBit R.fifPortUp p false).onFif fun f => { f with cred := off f.cred, credOut := off f.credOut, rxCred := off f.rxCred }

/-- FABRIC_LANE_LOSS: a lane fails, so the whole port goes down (R73). -/
def Fif.laneLoss (p : Nat) (b : Block) : Block := if p < 32 then b.portDown p else b

/-- FABRIC_PORT_UP: the four lanes of an enabled port have trained on their reference (R73, R427). -/
def Fif.portUpEv (p : Nat) (b : Block) : Block :=
  if p < 32 ∧ b.funcMode (0x100 + p) = 1 ∧ !b.pcr.lost.contains (p / 8 + 1) then b.putBit R.fifPortUp p true else b

/-- A fabric port has nothing left to drain: no packet waits for it and its credits are returned (Table 2-10). -/
def Block.fabDrained (b : Block) (p : Nat) : Bool :=
  (b.bit R.fifCtl 0 || !(b.fif.txq.any fun x => Fif.fixedPort x == p)) && b.fif.credOut.all fun e => e.1 / 8 != p || e.2 == 0

/-- A write of FIF_EDDY_PARTn is ignored when the partitions would sum to more than 512 units or one would fall below 16
(R101). -/
def Fif.eddyPart (n : Nat) (v : Word) (b : Block) : Block :=
  let x := Bits.fld v.toNat 9 0
  let sum := Bits.sum ((List.range 8).map fun i => if i = n then x else b.fld (R.fifEddyPart i) 9 0)
  if n < 8 ∧ 16 ≤ x ∧ sum ≤ 512 then b.putN (R.fifEddyPart n) x else b

/-! ## JOB_RANKS -/

/-- The entries of a rank table descriptor: word `i`. -/
def Block.rankWord (b : Block) (a i : Nat) : Nat := b.dxN (a + 32 + 4 * i) 4

/-- What is wrong with a JOB_RANKS descriptor at an address: its offset (R80, R81). -/
def Block.rankDescBad (b : Block) (job a : Nat) : Option Nat :=
  let f (o n : Nat) : Nat := b.dxN (a + o) n
  let op := f 2 1
  let n := f 4 4 % 2 ^ 24 + 1
  let first := f 12 4
  let count := f 16 4
  let old := b.rankTab job
  let used := b.fif.ranks.any fun e => e.1 != job && e.2.fabJob == f 0 2 % 1024 && (b.job e.1).state != 2
  match Req.firstBad [(0, f 0 2 / 1024 != 0), (2, 1 < op), (3, f 3 1 != 0), (4, f 4 4 / 2 ^ 24 != 0), (8, f 8 4 / 2 ^ 24 != 0),
    (12, first / 2 ^ 24 != 0), (16, op == 1 && count == 0), (20, f 20 12 != 0)] with
  | some o => some o
  | none =>
    match old.bind fun t => Req.firstBad [(0, t.fabJob != f 0 2), (4, t.count != n), (8, t.gwRank != f 8 4)] with
    | some o => some o
    | none =>
      if n < first + count then some 12
      else
        match (if op = 0 then (List.range count).find? fun i => b.rankWord a i / 2 ^ 26 % 32 != 0 ||
            ((old.bind fun t => AMap.get? t.entries (first + i)).isSome) else none) with
        | some i => some (32 + 4 * i)
        | none => if used then some 0 else none

/-- Frames a job's rank table and reorder state table take: 4 and 64 bytes per rank, each as whole frames. -/
def Fif.tabFrames (n : Nat) : Nat := Bits.ceilDiv (4 * n) frameB + Bits.ceilDiv (64 * n) frameB

/-- JOB_RANKS loads entries (OP 0): the table is allocated by the first load (R80). -/
def Block.loadRanks (job a : Nat) (b : Block) : Option Block :=
  let n := b.dxN (a + 4) 4 % 2 ^ 24 + 1
  let first := b.dxN (a + 12) 4
  let count := b.dxN (a + 16) 4
  let op := b.dxN (a + 2) 1
  let b? := match b.rankTab job with
    | some _ => some b
    | none => (b.takeFrames (Fif.tabFrames n) job).map fun (e : Block × Nat) =>
        e.1.onFif fun f => { f with ranks := AMap.set f.ranks job ⟨b.dxN a 2 % 1024, n, b.dxN (a + 8) 4 % 2 ^ 24, []⟩ }
  b?.map fun b' =>
    if op = 1 then b'
    else b'.onFif fun f => { f with ranks := AMap.adjust f.ranks job fun t =>
      { t with entries := (List.range count).foldl (fun m i =>
          let w := b.rankWord a i
          if Bits.bit w 31 then AMap.set m (first + i) (w % 2 ^ 16, Bits.fld w 25 16) else m) t.entries } }

end Sys2Proof.Machine
end

