-- ==== Sys2Proof/Machine/Fwu.lean ====
section
/-! DEFINITION. The far window unit (chapter 4): windows, operation contexts, ordering streams, fences, bulk copies and the
execution of far operations. -/

namespace Sys2Proof.Machine

/-- The block with its FWU changed. -/
def Block.onFwu (f : FwuState → FwuState) (b : Block) : Block := { b with fwu := f b.fwu }

/-! ## Messages for the line -/

/-- The peer slot of a gateway: 1 for the peer of port B when it differs from that of port A (R254). -/
def Block.peerSlot (b : Block) (peer : Nat) : Nat :=
  if AMap.get? b.peerGw 0 = some peer then 0 else if AMap.get? b.peerGw 1 = some peer then 1 else 0

/-- Aggregate kind of a line class (Table 9-1); class 7 travels in kind 3 (R255). -/
def Ss.kind (cls : Nat) : Nat :=
  match cls with
  | 1 | 5 => 0
  | 2 | 3 => 1
  | 4 => 2
  | _ => 3

/-- The transmit queue of a job, a peer slot, a line class and a sub-queue (R253 to R255). -/
def Ss.queueNo (job slot cls sub : Nat) : Nat := 64 * (8 * job + 4 * slot + Ss.kind cls) + 8 * cls + sub % 8

/-- The job of a transmit queue (R253). -/
def Ss.jobOf (queue : Nat) : Nat := queue / 512

/-- The block with its SS changed. -/
def Block.onSs (f : SsState → SsState) (b : Block) : Block := { b with ss := f b.ss }

/-- A message goes to the CC for its transmit queue, with the buffer of its data (R16) and the execution entry it answers (R113). -/
def Block.lineSend (job peer cls sub : Nat) (m : Msg) (cmd : Option Nat) (b : Block) (src : Option Nat := none) (ent : Option Nat := none) : Block :=
  { b with outq := b.outq ++ [⟨Ss.queueNo job (b.peerSlot peer) cls sub, peer, m, cmd, b.now, none, src, ent⟩] }

/-- Aggregate of a queue. -/
def Ss.aggOf (queue : Nat) : Nat := queue / 64
/-- Peer slot of an aggregate (R254). -/
def Ss.slotOf (agg : Nat) : Nat := agg / 4 % 2

/-- The block with its CC changed. -/
def Block.onCc (f : CcState → CcState) (b : Block) : Block := { b with cc := f b.cc }

/-- Records per key (Table 10-3). -/
abbrev ccMax : Nat := 2 ^ 31

/-- 30 s, the age limit of a key. -/
abbrev ccAge : Time := 30 * 8000000000

/-- Since when the transmit data key of a slot has been at a limit or absent (R287). -/
def Block.stallSince (b : Block) (slot : Nat) : Option Time :=
  match AMap.get? b.cc.tx slot with
  | none => some (AMap.getD b.cc.stall slot 0)
  | some k =>
    if ccMax ≤ k.rctr then some (AMap.getD b.cc.stall slot b.now)
    else if k.at_ + ccAge ≤ b.now then some (k.at_ + ccAge) else none

/-- The transmit data slot of a queue's peer slot (R273). -/
def Cc.slotOf (queue : Nat) : Nat := 4 * Ss.slotOf (Ss.aggOf queue)

/-- CC_STALL_US counts the microseconds in which some message waits on a stalled key, up to now. -/
def Block.ccSettle (b : Block) : Block :=
  let starts := b.outq.filterMap fun m => (b.stallSince (Cc.slotOf m.queue)).map fun t => max t m.at_
  let first := match b.cc.stallMark with
    | some t => some t
    | none => starts.foldl (fun (x : Option Time) t => some (match x with | some y => min y t | none => t)) none
  match first with
  | none => b
  | some t => (b.bumpN R.ccStallUs (b.now / 8000 - t / 8000)).onCc fun c => { c with stallMark := if starts.isEmpty then none else some b.now }

/-- The CC leaves the buffers of a message. -/
def Block.freeMsg (m : OutMsg) (b : Block) : Block := (b.freeOut m.buf (Ss.jobOf m.queue) 5).freeOut m.src (Ss.jobOf m.queue) 5

/-- Messages that a test selects leave the CC unsealed, once their wait is counted (R287), and their buffers are freed. -/
def Block.dropOut (gone : OutMsg → Bool) (b0 : Block) : Block :=
  let b := b0.ccSettle
  (b.outq.filter gone).foldl (fun b m => b.freeMsg m) { b with outq := b.outq.filter fun m => !gone m }

/-- A message is the request of operation context `i`. -/
def OutMsg.ofCtx (i : Nat) (m : OutMsg) : Bool :=
  match m.msg with
  | .far f => !f.flags.getLsbD 0 && f.opid.toNat / 256 % 2 ^ 20 == i
  | _ => false

/-- The unsent messages of operation context `i` toward a peer are discarded with their queue entries, and the execution credits they took
are free again (R31, R97). -/
def Block.dropFar (i peer : Nat) (b : Block) : Block :=
  let whole (s : Sealed) : Bool := s.msgs.all (OutMsg.ofCtx i)
  let gone := b.ss.queues.flatMap fun e => (e.2.filter whole).map fun s => (Ss.jobOf e.1, s)
  let n := (b.outq.filter (OutMsg.ofCtx i)).length + Bits.sum (gone.map fun s => s.2.msgs.length)
  let b := gone.foldl (fun b s => b.freeOut s.2.buf s.1 7) (b.dropOut (OutMsg.ofCtx i))
  let b := if gone.isEmpty then b
    else b.onSs fun s => { s with queues := (s.queues.map fun (e : Nat × List Sealed) => (e.1, e.2.filter fun x => !whole x)).filter fun e => !e.2.isEmpty }
  if n = 0 then b else b.onFwu fun f => { f with execSent := AMap.set f.execSent peer (AMap.getD f.execSent peer 0 - n) }

/-! ## Windows and contexts -/

/-- Operation contexts of the device, and those only draining work may use (R248). -/
abbrev opCtxs : Nat := 2 ^ 20

/-- A window by number. -/
def Block.win (b : Block) (w : Nat) : Option Win := AMap.get? b.fwu.wins w

/-- Outstanding contexts of a window. -/
def Block.winOut (b : Block) (w : Nat) : Nat := (b.fwu.ctxs.filter fun e => e.2.win == w).length

/-- Window `w` may hold `n` more outstanding operations (MAX_OUT, R108). -/
def Block.winRoom (b : Block) (w n : Nat) : Bool :=
  match b.win w with
  | some x => x.maxOut == 0 || b.winOut w + n ≤ x.maxOut
  | none => false

/-- `n` more contexts may be taken for window `w` by new work: the unreserved part of R248 and MAX_OUT (R108). -/
def Block.ctxRoom (b : Block) (w n : Nat) : Bool :=
  b.fwu.ctxs.length + b.fwu.quar.length + n ≤ opCtxs - 16384 && b.winRoom w n

/-- The import window of a job that holds a fabric address. -/
def Block.importAt (b : Block) (job a : Nat) : Option (Nat × Win) :=
  b.fwu.wins.find? fun e => e.2.kind == 1 && e.2.job == job && e.2.base ≤ a && a < e.2.base + e.2.length

/-- RTT of R124 in 0.125 ns units: the larger smoothed round trip of the ports that reach the peer and are UP or SHRUNK, or 50 ms. -/
def Block.farRtt (b : Block) (peer : Nat) : Time :=
  let us (p : Nat) : Nat :=
    let st := b.fld (R.lfStat p) 2 0
    if AMap.get? b.peerGw p = some peer ∧ (st = 3 ∨ st = 4) then b.regN (if p = 0 then R.fwuRttA else R.fwuRttB) else 0
  let m := max (us 0) (us 1)
  if m = 0 then 50 * 8000000 else m * 8000

/-- The far timeout of a new operation of a window (R124). -/
def Block.farTmo (b : Block) (w : Win) : Time :=
  if w.tmoMs ≠ 0 then w.tmoMs * 8000000
  else if (b.job w.job).farTmo ≠ 0 then (b.job w.job).farTmo * 8000000
  else 3 * b.farRtt w.peer + 20 * 8000000

/-- What R107 answers a request for `n` bytes at address `a` under window `w` that needs right `right` (none for a fence):
the status of the NACK, if any. A FENCE to a window that is being destroyed or has no path to its PEER is answered as other requests are: DESIGN
CHOICE (log entry 95), for R107 says at its end that a FENCE is checked against the range only. -/
def Block.winCheck (b : Block) (w : Win) (a n : Nat) (right : Option Nat) : Option Nat :=
  if a < w.base ∨ w.base + w.length < a + n then some St.badParam
  else if (match right with | some k => !Bits.bit w.perm k | none => false) then some St.notOwner
  else if w.dying.isSome then some St.state
  else if b.noPath.contains w.peer then some St.linkDown else none

/-- Line class of an operation of an import window (R109): `atomic` says whether it is an atomic. -/
def Win.cls (w : Win) (atomic : Bool) : Nat := if w.scav then 7 else if atomic && w.cls1 then 1 else 5

/-- The lowest free context index (log entry 13). -/
def Block.freeCtx (b : Block) : Nat :=
  (Bm.search (fun i => (AMap.get? b.fwu.ctxs i).isNone && (AMap.get? b.fwu.quar i).isNone) 1
    (b.fwu.ctxs.length + b.fwu.quar.length + 1) 0).getD 0

/-- Key of an originating ordering stream: window, rank and line class. -/
def Fwu.seqKey (w rank cls : Nat) : Nat := (w * 2 ^ 24 + rank) * 8 + cls

/-- The next STREAM_SEQ of a stream, and the block after it is used. -/
def Block.nextSeq (w rank cls : Nat) (b : Block) : Nat × Block :=
  let k := Fwu.seqKey w rank cls
  let n := AMap.getD b.fwu.seqs k 0
  (n, b.onFwu fun f => { f with seqs := AMap.set f.seqs k ((n + 1) % 2 ^ 32) })

/-- The data of an FWU trace record (Table 17-8). -/
def OpCtx.traceData (c : OpCtx) (i st : Nat) : List Byte :=
  Bits.leBytes 4 i ++ Bits.leBytes 1 c.gen ++ Bits.leBytes 1 c.fop ++ Bits.leBytes 2 c.win ++ Bits.leBytes 2 st

/-- A context is allocated: its generation counts one more modulo 256 (R126), and the operation takes the next position of its
stream unless it is a bulk copy, whose chunks take their own. -/
def Block.newCtx (c : OpCtx) (b : Block) : Nat × Block :=
  let i := b.freeCtx
  let gen := (AMap.getD b.fwu.gens i 0 + 1) % 256
  let (seq, b) := if c.bulk.isSome then (0, b) else b.nextSeq c.win c.rank c.lcls
  let c := { c with gen := gen, seq := seq }
  let b := b.onFwu fun f => { f with
    gens := AMap.set f.gens i gen
    ctxs := AMap.set f.ctxs i c
    owner := match c.cmd with
      | some id => AMap.set f.owner (256 * i + gen) id
      | none => AMap.erase f.owner (256 * i + gen) }
  let b := b.trace 1 1 c.job (c.traceData i 0)
  let b := if c.bulk.isSome then b else b.count c.job 1 (if c.fop = 1 then 0 else if c.fop = 2 then 1 else if c.fop = 3 then 2 else 3) 1
  (i, b)

/-- A fence reaches its end: a command completes; a fabric FENCE waits for FABRIC_FENCE_ACK (R117, R118). -/
def Block.fenceEnd (k : Nat) (b : Block) : Block :=
  match AMap.get? b.fwu.fences k with
  | none => b
  | some f =>
    if f.covers.isEmpty && f.entries.isEmpty && f.need.isEmpty then
      match f.cmd with
      | some id => (b.onFwu fun x => { x with fences := AMap.erase x.fences k }).done id f.status f.detail
      | none => b
    else b

/-- A covered operation or FFENCE ended with a status: every fence that covers it notes that (R117). -/
def Block.fenceNote (i st detail : Nat) (b : Block) : Block :=
  let ks := (b.fwu.fences.filter fun e => e.2.covers.contains i).map (·.1)
  let note (g : Fence) : Fence := { g with
    covers := g.covers.filter (· != i)
    status := if g.status = 0 then st else g.status
    detail := if g.status = 0 then detail else g.detail }
  let b := b.onFwu fun x => { x with fences := x.fences.map fun (e : Nat × Fence) => if e.2.covers.contains i then (e.1, note e.2) else e }
  ks.foldl (fun b k => b.fenceEnd k) b

/-- DETAIL that Table 2-6 gives a failing status of an operation on a line class toward a peer. -/
def Fwu.detail (st cls peer : Nat) : Nat := if st = St.timeout then cls else if st = St.linkDown then peer / 4096 else 0

/-- Data bytes that an operation has moved (R72): those of a bulk copy up to its contiguous completed offset; 8 of an atomic and none of an
FFENCE, which count as operations all the same (log entry 68). -/
def OpCtx.moved (c : OpCtx) (st : Nat) : Nat :=
  match c.bulk with
  | some k => k.done_ - k.start
  | none => if st = 0 then c.len else 0

/-- The requests into the local fabric that a test selects serve nobody any more: those that wait for a tag are dropped, and the tags of the
others go into quarantine (R31, R90). -/
def Block.useEnd (mine : TagUse → Bool) (b : Block) : Block :=
  let b := b.onFif fun f => { f with tagWait := f.tagWait.filter fun w => !mine w.use }
  (b.fif.tags.filter fun e => mine e.2.use).foldl (fun b e => b.quarantine e.1) b

/-- A request into the local fabric serves the bulk copy of context `i`. -/
def TagUse.ofBulk (i : Nat) (u : TagUse) : Bool := match u with | .bulk k _ => k == i | _ => false

/-- A request into the local fabric serves execution entry `i`. -/
def TagUse.ofEnt (i : Nat) (u : TagUse) : Bool := match u with | .exec k _ => k == i | _ => false

/-- What a context holds is freed: its data buffer, the responses held for it, and, when it ends without an answer, what it has not sent and its
requests into the local fabric (R31). -/
def Block.ctxRelease (i : Nat) (c : OpCtx) (quar : Bool) (b : Block) : Block :=
  let b := if quar then (b.dropFar i c.peer).useEnd (TagUse.ofBulk i) else b
  let b := b.onFwu fun f => { f with heldOrder := f.heldOrder.filter (· != i) }
  c.early.foldl (fun b e => b.dropOwner e.2 (Own.of c.job 2)) (b.freeOut c.buf c.job 2)

/-- A context ends with a status, with the DETAIL that its failure carries or that of Table 2-6. With `quar` it goes into quarantine for twice its
far timeout (R125, R128). -/
def Block.ctxEnd (i st : Nat) (quar : Bool) (b : Block) (det : Option Nat := none) : Block :=
  match AMap.get? b.fwu.ctxs i with
  | none => b
  | some c =>
    let detail := det.getD (Fwu.detail st c.lcls c.peer)
    let b := (b.ctxRelease i c quar).onFwu fun f => { f with
      ctxs := AMap.erase f.ctxs i
      quar := if quar then AMap.set f.quar i (b.now + 2 * c.tmo, some c.win) else f.quar
      wins := AMap.adjust f.wins c.win fun w => { w with
        ops := w.ops + 1
        bytes := w.bytes + c.moved st
        timeouts := if st = St.timeout then w.timeouts + 1 else w.timeouts } }
    let b := b.trace 1 (if st = St.timeout ∨ st = St.linkDown then 3 else 2) c.job (c.traceData i st)
    let b := if st = St.timeout then b.count c.job 1 26 1 else b
    let b := match c.bulk, c.cmd with
      | some k, some id => b.complete id ⟨st, detail, 0, k.done_ - k.start, 0⟩
      | _, _ => b
    b.fenceNote i st detail

/-- The fabric answer of an operation to its requester; FFENCEs and bulk copies have none. -/
def Block.ctxReply (c : OpCtx) (st : Nat) (data : List Byte) (b : Block) : Block :=
  if c.fence.isSome || c.bulk.isSome then b
  else if st ≠ 0 then b.fabReply c.job c.rank c.fcls 0x30 c.fgen c.tag c.addr (Bits.leBytes 2 st)
  else if c.fop = 1 then b.fabReply c.job c.rank c.fcls 0x02 c.fgen c.tag c.addr data
  else if c.fop = 2 then b.fabReply c.job c.rank c.fcls 0x04 c.fgen c.tag c.addr []
  else b.fabReply c.job c.rank c.fcls 0x1F c.fgen c.tag c.addr data

/-! ## Requests from the fabric -/

/-- A request opcode the FWU takes (R107). -/
def Fwu.isReq (p : FabPkt) : Bool :=
  let o := p.opcode.toNat
  o == 1 || o == 3 || o == 6 || 0x10 ≤ o && o ≤ 0x15

/-- Target bytes of a request (R107). -/
def Fwu.span (p : FabPkt) : Nat :=
  let o := p.opcode.toNat
  if o = 1 ∨ o = 3 then p.length.toNat else if o = 6 then 1 else 8

/-- The right a request needs (R107). -/
def Fwu.right (p : FabPkt) : Option Nat :=
  let o := p.opcode.toNat
  if o = 1 then some 0 else if o = 3 then some 1 else if o = 6 then none else some 2

/-- A request breaks the alignment rule of R76. -/
def Fwu.misaligned (p : FabPkt) : Bool :=
  let o := p.opcode.toNat
  let a := p.addr.toNat
  if o = 1 ∨ o = 3 then a / 4096 != (a + p.length.toNat - 1) / 4096
  else if o = 6 then false else a % 8 != 0

/-- A NACK to a request (R77, R107). -/
def Block.nack (p : FabPkt) (st : Nat) (b : Block) : Block :=
  b.fabReply p.job.toNat p.srcRank.toNat p.cls.toNat 0x30 p.gen.toNat p.tag.toNat p.addr.toNat (Bits.leBytes 2 st)

/-- A context for a request packet under window `w`. -/
def Block.reqCtx (b : Block) (p : FabPkt) (w : Nat) (x : Win) : OpCtx :=
  let o := p.opcode.toNat
  { gen := 0, job := p.job.toNat, rank := p.srcRank.toNat, tag := p.tag.toNat, fgen := p.gen.toNat, fcls := p.cls.toNat,
    lcls := x.cls (o ≥ 0x10), win := w, peer := x.peer, fop := if o = 3 then 2 else if o = 6 then 3 else o,
    off := p.addr.toNat - x.base, len := Fwu.span p, addr := p.addr.toNat, seq := 0, data := p.payload, tmo := b.farTmo x,
    deadline := b.now + b.farTmo x, sent := none, paged := false, early := [], buf := none, fence := none, cmd := none, bulk := none }

/-- The FFENCE of a stream for fence `k`. -/
def Block.ffence (k : Nat) (rank cls : Nat) (b : Block) : Block :=
  match AMap.get? b.fwu.fences k with
  | none => b
  | some f => match b.win f.win with
    | none => b
    | some x =>
      let (i, b) := b.newCtx {
        gen := 0, job := f.job, rank := rank, tag := 0, fgen := 0, fcls := 0, lcls := cls, win := f.win,
        peer := x.peer, fop := 3, off := f.addr - x.base, len := 0, addr := f.addr, seq := 0, data := [], tmo := b.farTmo x,
        deadline := b.now + b.farTmo x, sent := none, paged := false, early := [], buf := none, fence := some k, cmd := f.cmd, bulk := none }
      b.onFwu fun y => { y with fences := AMap.adjust y.fences k fun g => { g with covers := g.covers ++ [i] } }

/-- A context for a request, with a buffer for the data that it carries (R16); `none` when one of them may not be had now. -/
def Block.ctxFor (c : OpCtx) (b : Block) : Option Block :=
  if !b.ctxRoom c.win 1 then none
  else if c.data.isEmpty then some (b.newCtx c).2
  else (b.takeBuf c.data.length (Own.of c.job 2)).map fun e => (e.1.newCtx { c with buf := some e.2 }).2

/-- A request is accepted if a context may be had; `none` when it must wait (R108, R117). A FENCE that covers nothing waits all the same while
its window is at MAX_OUT. -/
def Block.accept (p : FabPkt) (w : Nat) (x : Win) (b : Block) : Option Block :=
  if p.opcode = 0x06#8 then
    let cov := b.fwu.ctxs.filter fun e => e.2.job == p.job.toNat && e.2.rank == p.srcRank.toNat && e.2.win == w && e.2.bulk.isNone
    let cs := (cov.map fun e => e.2.lcls).eraseDups
    if b.ctxRoom w cs.length && b.winRoom w 1 then
      let k := b.fwu.fenceNo
      let f : Fence := ⟨p.job.toNat, p.srcRank.toNat, w, p.tag.toNat, p.gen.toNat, p.cls.toNat, p.addr.toNat, none, cov.map (·.1), [], [], 0, 0⟩
      let b := b.onFwu fun y => { y with fenceNo := k + 1, fences := AMap.set y.fences k f }
      some (cs.foldl (fun b c => b.ffence k p.srcRank.toNat c) b)
    else none
  else b.ctxFor (b.reqCtx p w x)

/-- A request in the gateway's range: answered with NACK, accepted, or left in the Eddy buffer (R76, R107, R108). -/
def Block.request (p : FabPkt) (b : Block) : Block :=
  if Fwu.misaligned p then b.nack p St.badParam
  else match b.importAt p.job.toNat p.addr.toNat with
  | none => (b.bump R.fwuNackCnt).nack p St.badParam
  | some (w, x) =>
    match b.winCheck x p.addr.toNat (Fwu.span p) (Fwu.right p) with
    | some st => ((b.onFwu fun f => { f with wins := AMap.adjust f.wins w fun x => { x with nacks := x.nacks + 1 } }).bump R.fwuNackCnt).nack p st
    | none => match b.accept p w x with
      | some b => b
      | none => b.onFif fun f => { f with blocked := f.blocked ++ [p] }

/-- A FENCE stays behind requests of its rank for its window that the FIF delivered before it and that are not accepted yet, on any fabric
class: it covers them (R117). -/
def Block.fenceHeld (b : Block) (sel : Nat) (p : FabPkt) : Bool :=
  let w (q : FabPkt) : Option Nat := (b.importAt q.job.toNat q.addr.toNat).map Prod.fst
  p.opcode == 0x06#8 && ((b.fif.got.take sel).filter Fwu.isReq ++ b.fif.blocked).any fun q =>
    q.job == p.job && q.srcRank == p.srcRank && (w p).isSome && w q == w p

/-- FABRIC_REQUEST_RX: delivered packet `sel` is a request (R107). The FWU takes none of a job for which strict mode has stopped it (R392). -/
def Fwu.requestRx (sel : Nat) (b : Block) : Block :=
  match b.pickGot sel Fwu.isReq with
  | none => b
  | some p => if b.fenceHeld sel p || b.engStopped p.job.toNat 2 then b else (b.dropGot sel).request p

/-- FABRIC_REQUEST_UNBLOCK: waiting request `sel` is checked again and accepted once a context frees (R108). One whose window is meanwhile being
destroyed or has lost its path is answered NACK, as a new one is: DESIGN CHOICE (log entry 95), for R108 says that a waiting request is never
answered so. -/
def Fwu.unblock (sel : Nat) (b : Block) : Block :=
  match b.fif.blocked[sel]? with
  | none => b
  | some p =>
    let same (q : FabPkt) : Bool := q.job == p.job && q.srcRank == p.srcRank && q.cls == p.cls
    if (b.fif.blocked.take sel).any same || b.engStopped p.job.toNat 2 then b
    else
      let b' := b.onFif fun f => { f with blocked := Bits.removeAt f.blocked sel }
      match b.importAt p.job.toNat p.addr.toNat with
      | none => b'.request p
      | some (w, x) =>
        match b.winCheck x p.addr.toNat (Fwu.span p) (Fwu.right p), b'.accept p w x with
        | none, none => b
        | _, _ => b'.request p

/-- FABRIC_FENCE_ACK of fence `k`: once every covered operation and FFENCE has ended, the requester gets FENCE_ACK, or NACK with
the first failing status (R117). -/
def Fwu.fenceAck (k : Nat) (b : Block) : Block :=
  match AMap.get? b.fwu.fences k with
  | none => b
  | some f =>
    if f.cmd.isSome || !f.covers.isEmpty || !f.need.isEmpty then b
    else
      let b := b.onFwu fun y => { y with fences := AMap.erase y.fences k }
      if f.status = 0 then b.fabReply f.job f.rank f.fcls 0x07 f.fgen f.tag f.addr []
      else b.fabReply f.job f.rank f.fcls 0x30 f.fgen f.tag f.addr (Bits.leBytes 2 f.status)

/-! ## Sending and responses at the originating gateway -/

/-- Execution credits left toward a peer (R113). -/
def Block.execCredit (b : Block) (peer : Nat) : Nat := AMap.getD b.fwu.execLimit peer 0 - AMap.getD b.fwu.execSent peer 0

/-- A far request goes to the CC against an execution credit (R110, R113). The buffer of its data passes to the CC; that of a bulk copy stays
the FWU's as well, for the next chunk (R16). -/
def Block.farSend (i : Nat) (c : OpCtx) (flags fop seq off len : Nat) (data : List Byte) (b : Block) : Block :=
  let x := b.win c.win
  let m : FarMsg := {
    fop := BitVec.ofNat 8 fop, flags := BitVec.ofNat 8 flags, win := BitVec.ofNat 16 ((x.map (·.peerWin)).getD 0),
    opid := BitVec.ofNat 32 (i * 256 + c.gen), src := BitVec.ofNat 32 (AMap.getD b.fwu.winGen c.win 0 * 2 ^ 24 + c.rank),
    streamSeq := BitVec.ofNat 32 seq, offset := BitVec.ofNat 64 off, length := BitVec.ofNat 32 len, status := 0,
    impWin := BitVec.ofNat 16 c.win, data := data }
  let sub := if c.lcls = 1 then 4 + c.win % 4 else c.win
  let b := b.onFwu fun f => { f with execSent := AMap.set f.execSent c.peer (AMap.getD f.execSent c.peer 0 + 1) }
  let b := (b.count c.job 1 5 data.length).count c.job 1 4 (if c.bulk.isSome then 1 else 0)
  let b := match c.buf with
    | some h => if c.bulk.isSome then b.addOwner h (Own.of c.job 2) (Own.of c.job 5) else b.passBuf c.buf c.job 2 5
    | none => b
  b.lineSend c.job c.peer c.lcls sub (.far m) c.cmd (src := c.buf)

/-- LENGTH of a request message: bytes requested by a read, carried by all others (Table 4-2). -/
def OpCtx.msgLen (c : OpCtx) : Nat := if c.fop = 1 then c.len else c.data.length

/-- The bytes of the next chunk of a BULK_COPY: up to the next 64 KiB boundary or the end (R130). -/
def Fwu.chunkLen (k : Bulk) : Nat := min ((k.next / 65536 + 1) * 65536) (k.start + k.len) - k.next

/-- The data gathered for the next chunk of a copy to the far site. -/
def Bulk.chunk (k : Bulk) : List Byte := k.gathered.flatMap Prod.snd

/-- A BULK_COPY has a chunk left that its in-flight limit lets go (R130). -/
def Block.chunkDue (b : Block) (k : Bulk) : Bool :=
  decide (k.next < k.start + k.len) && decide (k.next - k.done_ + Fwu.chunkLen k ≤ b.fld R.fwuBulkCtl 7 0 * gib)

/-- A context is ready to issue: it has a request to send, or a chunk whose data it holds, and a credit (R113, R123), some line port reaches its
peer (R254), and strict mode has not stopped the FWU for its job (R392). -/
def Block.ctxReady (b : Block) (c : OpCtx) : Bool :=
  !c.paged && b.execCredit c.peer != 0 && b.peerGw.any (fun e => e.2 == c.peer) && !b.engStopped c.job 2 &&
  match c.bulk with
  | none => c.sent.isNone
  | some k => b.chunkDue k && (!k.toFar || k.chunk.length == Fwu.chunkLen k)

/-- The context whose turn it is among those ready to issue, round robin by index (R123). -/
def Block.issueTurn (b : Block) : Option Nat :=
  let rs := (b.fwu.ctxs.filter fun e => b.ctxReady e.2).map Prod.fst
  (rs.find? fun i => b.fwu.turn ≤ i).orElse fun _ => rs.head?

/-- FAR_REQUEST_SEND of a context: its request leaves once a credit is held, at its turn (R113, R123). -/
def Fwu.requestSend (i : Nat) (b : Block) : Block :=
  match AMap.get? b.fwu.ctxs i with
  | none => b
  | some c =>
    if c.bulk.isSome || b.issueTurn != some i then b
    else
      let b := b.farSend i c 0 c.fop c.seq c.off c.msgLen c.data
      b.onFwu fun f => { f with turn := i + 1, ctxs := AMap.adjust f.ctxs i fun c => { c with sent := some b.now, buf := none } }

/-- A late response is discarded, counted and traced; LATE_DISCARD is set for the command that owned the operation (R126). Its job is that of
the import window that it names. -/
def Block.farLate (m : FarMsg) (b : Block) : Block :=
  let i := m.opid.toNat / 256 % 2 ^ 20
  let gen := m.opid.toNat % 256
  let job := ((b.win (m.impWin.toNat % 4096)).map (·.job)).getD devJob
  let b := ((b.bump R.fwuLateCnt).count job 1 27 1).trace 1 4 job (Bits.leBytes 4 i ++ Bits.leBytes 1 gen ++ Bits.leBytes 1 m.fop.toNat ++
    Bits.leBytes 2 m.impWin.toNat ++ Bits.leBytes 2 m.status.toNat)
  match AMap.get? b.fwu.owner (256 * i + gen) with
  | some id => b.warn id Warn.lateDiscard
  | none => b

/-- A bulk copy after chunk completion: the contiguous completed offset moves on (R130). -/
def Bulk.advance : Nat → Bulk → Bulk
  | 0, k => k
  | n + 1, k =>
    match k.finished.find? fun e => e.1 == k.done_ with
    | some e => Bulk.advance n { k with done_ := e.1 + e.2, finished := k.finished.filter (· != e) }
    | none => k

/-- A bulk copy moves on; it completes when all of it is done (R130). Progress restarts its far timeout (log entry 14). -/
def Block.bulkStep (i : Nat) (k : Bulk) (b : Block) : Block :=
  let k := k.advance k.finished.length
  let b := b.onFwu fun f => { f with ctxs := AMap.adjust f.ctxs i fun c => { c with bulk := some k, deadline := b.now + c.tmo } }
  if k.start + k.len ≤ k.done_ then b.ctxEnd i St.ok false else b

/-- Pieces of a range that do not cross a 4,096-byte address boundary: address and length. -/
def Fwu.pieces : Nat → Nat → Nat → List (Nat × Nat)
  | 0, _, _ => []
  | k + 1, a, n => if n = 0 then [] else
    let l := min n (4096 - a % 4096)
    (a, l) :: Fwu.pieces k (a + l) (n - l)

/-- A response to a bulk copy: progress of a copy to the far site, or the data of a chunk read from it (R130). -/
def Block.bulkResponse (i : Nat) (c : OpCtx) (k : Bulk) (m : FarMsg) (b : Block) : Block :=
  if m.status ≠ 0#16 then
    let k := if k.toFar then { k with done_ := max k.done_ m.offset.toNat } else k
    (b.onFwu fun f => { f with ctxs := AMap.adjust f.ctxs i fun c => { c with bulk := some k } }).ctxEnd i m.status.toNat true
  else if k.toFar then b.bulkStep i { k with done_ := max k.done_ m.offset.toNat }
  else
    let off := m.offset.toNat
    let la := k.laddr + (off - k.start)
    let ps := Fwu.pieces 18 la m.data.length
    let b := b.count c.job 1 6 m.data.length
    let b := b.onFwu fun f => { f with ctxs := AMap.adjust f.ctxs i fun c =>
      { c with bulk := some { k with parts := k.parts ++ [(off, m.data.length, ps.length)] }, deadline := b.now + c.tmo } }
    let r := ps.foldl (fun (acc : Option Block) p => acc.bind fun b =>
      b.issue ⟨.bulk i off, c.job, k.lrank, c.lcls, 0x03, p.1, p.2, (m.data.drop (p.1 - la)).take p.2⟩) (some b)
    match r with
    | some b => b
    | none => b.ctxEnd i St.requesterGone true

/-- A far response meets its context (R116, R126): the requester is answered and the context freed. -/
def Block.farAnswer (i : Nat) (c : OpCtx) (m : FarMsg) (b : Block) : Block :=
  match c.bulk with
  | some k => b.bulkResponse i c k m
  | none =>
    let st := m.status.toNat
    let b := b.count c.job 1 6 m.data.length
    (b.ctxReply c st m.data).ctxEnd i st false

/-- The unit that takes an inbound message: 0 the FWU, 1 the CE, 2 the host cores for a fence notice. -/
def InMsg.unit (x : InMsg) : Nat :=
  match x.msg with
  | .far _ => 0
  | .coll _ => 1
  | .fence _ => 2

/-- The inbound message `sel`, when a test selects it and its unit has been handed every message accepted before it (R116, R230). -/
def Block.pickIn (b : Block) (sel : Nat) (want : InMsg → Bool) : Option InMsg :=
  match b.inbox[sel]? with
  | some m => if want m && (b.inbox.take sel).all fun y => y.held || y.unit != m.unit then some m else none
  | none => none

/-- An inbound message has been handed to its unit, which cannot take it yet: those behind it go on. -/
def Block.holdIn (sel : Nat) (b : Block) : Block := { b with inbox := b.inbox.zipIdx.map fun (x, i) => if i = sel then { x with held := true } else x }

/-- A consumer has taken a message of accepted content: with the last one its cells are freed (R232). -/
def Block.freeHeld (seg : Nat) (b : Block) : Block :=
  match AMap.get? b.te.held seg with
  | none => b
  | some h =>
    if 1 < h.left then { b with te := { b.te with held := AMap.set b.te.held seg { h with left := h.left - 1 } } }
    else { b with te := { b.te with
      held := AMap.erase b.te.held seg
      peers := AMap.adjust b.te.peers h.peer fun x => { x with freed := x.freed.set h.cls (x.freed.getD h.cls 0 + h.cells) } } }

/-- The engine that takes an inbound message: the FWU (2) a far operation, the CE (3) a collective message. -/
def InMsg.engine (x : InMsg) : Nat := if x.unit = 0 then 2 else 3

/-- The buffer of the data of an inbound message, which its unit owns, is freed (R16). -/
def Block.freeInBuf (x : InMsg) (b : Block) : Block :=
  match x.buf with
  | some (h, job) => b.dropOwner h (Own.of job x.engine)
  | none => b

/-- What holds an inbound message is freed: its buffer and its share of the receive pool (R232). -/
def Block.freeIn (x : InMsg) (b : Block) : Block := (b.freeInBuf x).freeHeld x.seg

/-- The block without inbound message `sel`, whose content its consumer keeps. -/
def Block.takeIn (sel : Nat) (b : Block) : Block := { b with inbox := Bits.removeAt b.inbox sel }

/-- The block without inbound message `sel`, which its consumer has taken. -/
def Block.dropIn (sel : Nat) (b : Block) : Block :=
  match b.inbox[sel]? with
  | some x => (b.takeIn sel).freeIn x
  | none => b.takeIn sel

/-- A far message that is a response. -/
def Fwu.isResp (m : FarMsg) : Bool := m.flags.getLsbD 0

/-- FOP of a bulk transfer. -/
def Fwu.isBulk (m : FarMsg) : Bool := m.fop == 0x20#8 || m.fop == 0x21#8

/-- An inbound message is a response that belongs to no bulk copy. -/
def InMsg.farResp (x : InMsg) : Bool := match x.msg with | .far m => Fwu.isResp m && !Fwu.isBulk m | _ => false

/-- An inbound message is a progress report of a bulk copy. -/
def InMsg.progress (x : InMsg) : Bool := match x.msg with | .far m => Fwu.isResp m && Fwu.isBulk m | _ => false

/-- An inbound message is a far request. -/
def InMsg.farReq (x : InMsg) : Bool := match x.msg with | .far m => !Fwu.isResp m | _ => false

/-- An inbound message is a fence notice. -/
def InMsg.notice (x : InMsg) : Bool := match x.msg with | .fence _ => true | _ => false

/-- An inbound message is data or a partial result of a collective. -/
def InMsg.collData (x : InMsg) : Bool := match x.msg with | .coll m => m.ckind == 1#8 || m.ckind == 2#8 | _ => false

/-- The operation context that a far response matches by OPID and generation (R126). -/
def Block.farCtx (b : Block) (m : FarMsg) : Option (Nat × OpCtx) :=
  let i := m.opid.toNat / 256 % 2 ^ 20
  (AMap.get? b.fwu.ctxs i).bind fun c => if c.gen = m.opid.toNat % 256 then some (i, c) else none

/-- A response to a context that is not paged, or a late one (R126). -/
def Block.farMatch (m : FarMsg) (b : Block) : Block :=
  match b.farCtx m with
  | none => b.farLate m
  | some (i, c) => b.farAnswer i c m

/-- An operation whose data is poison when the FWU reads it fails at once (R370, Table 14-2). -/
def Block.ctxPoison (i : Nat) (c : OpCtx) (b : Block) : Block := (b.ctxReply c St.timeout []).ctxEnd i St.timeout true

/-- The responses that wait for contexts to be paged in are answered in the order in which they came, up to the first whose context is still in
memory (R116, R121); `n` bounds their number. -/
def Block.heldAnswer : Nat → Block → Block
  | 0, b => b
  | n + 1, b =>
    match b.fwu.heldOrder with
    | [] => b
    | i :: rest =>
      let b' := b.onFwu fun f => { f with heldOrder := rest }
      match AMap.get? b.fwu.ctxs i with
      | none => Block.heldAnswer n b'
      | some c =>
        if c.paged then b
        else match c.early with
          | [] => Block.heldAnswer n b'
          | (m, h) :: es =>
            let b' := b'.onFwu fun f => { f with ctxs := AMap.set f.ctxs i { c with early := es } }
            Block.heldAnswer n ((b'.dropOwner h (Own.of c.job 2)).farMatch m)

/-- Inbound far response `sel` reaches the FWU: it is answered, discarded as late, or held in a buffer of the reserved paging pool for its
paged context (R30, R121, R126). While responses are held, one for a context on chip waits behind them (R116). -/
def Block.farTake (sel : Nat) (x : InMsg) (m : FarMsg) (b : Block) : Block :=
  match b.farCtx m with
  | none => (b.dropIn sel).farLate m
  | some (i, c) =>
    if !c.paged then
      if !b.fwu.heldOrder.isEmpty then b
      else if x.buf.any fun e => b.bufPoison e.1 then (b.dropIn sel).ctxPoison i c
      else (b.dropIn sel).farAnswer i c m
    else match b.takeRes 2 (max 1 m.data.length) (Own.of c.job 2) with
      | none => b
      | some (b, h) =>
        (b.dropIn sel).onFwu fun f => { f with
          ctxs := AMap.adjust f.ctxs i fun c => { c with early := c.early ++ [(m, h)] }
          heldOrder := f.heldOrder ++ [i] }

/-- FAR_RESPONSE_RX of inbound message `sel`. -/
def Fwu.responseRx (sel : Nat) (b : Block) : Block :=
  match b.pickIn sel InMsg.farResp with
  | some x => match x.msg with
    | .far m => b.farTake sel x m
    | _ => b
  | none => b

/-- BULK_PROGRESS_RX of inbound message `sel` (R130). -/
def Fwu.progressRx (sel : Nat) (b : Block) : Block :=
  match b.pickIn sel InMsg.progress with
  | some x => match x.msg with
    | .far m => b.farTake sel x m
    | _ => b
  | none => b

/-- FAR_DEADLINE_EXPIRY: every operation whose deadline has passed is answered TIMEOUT, or LINK_DOWN when no path to its peer
remains, and quarantined (R125, R127). An operation whose response has come is not timed out. -/
def Fwu.deadlines (b : Block) : Block :=
  let due := b.fwu.ctxs.filter fun e => e.2.deadline ≤ b.now && e.2.early.isEmpty
  due.foldl (fun b e =>
    let st := if b.noPath.contains e.2.peer then St.linkDown else St.timeout
    let b := if st = St.timeout then b.bump R.fwuTimeoutCnt else b
    (b.ctxReply e.2 st []).ctxEnd e.1 st true) b

/-- FAR_QUARANTINE_END of a context (R126). -/
def Fwu.quarEnd (i : Nat) (b : Block) : Block :=
  match AMap.get? b.fwu.quar i with
  | some (u, _) => if u ≤ b.now then b.onFwu fun f => { f with quar := AMap.erase f.quar i } else b
  | none => b

/-! ## Paging of operation contexts -/

/-- Home slot of a context in the context paging region (Table 14-12). -/
def Fwu.home (i : Nat) : Nat := 0x200000000 + 256 * i

/-- FWU_ONCHIP: contexts resident on chip. -/
def Block.fwuOnChip (b : Block) : Nat := (b.fwu.ctxs.filter fun e => !e.2.paged).length

/-- A context waits for the far site alone: its request, or the last chunk of its copy, has been sent, and no local packet is outstanding. -/
def OpCtx.farWait (c : OpCtx) : Bool :=
  match c.bulk with
  | none => true
  | some k => k.parts.isEmpty && decide (k.start + k.len ≤ k.next)

/-- The contexts that may be paged out, the longest waiting first. -/
def Block.pageable (b : Block) : List (Nat × Time) :=
  let idle := b.fld R.fwuPageCtl 15 0 * 8000
  let cs := b.fwu.ctxs.filterMap fun e => match e.2.sent with
    | some t => if !e.2.paged && e.2.early.isEmpty && e.2.farWait && t + idle ≤ b.now then some (e.1, t) else none
    | none => none
  cs.mergeSort fun x y => x.2 ≤ y.2

/-- A context goes to its home slot: 256 bytes whose layout the specification does not give (R121, log entry 67). -/
def Block.pageCtx (i : Nat) (b : Block) : Block :=
  (b.putFree (Fwu.home i) 256).onFwu fun f => { f with ctxs := AMap.adjust f.ctxs i fun c => { c with paged := true } }

/-- OP_CONTEXT_PAGE_OUT: above the watermark the longest-waiting idle contexts go to memory (R121). -/
def Fwu.pageOut (b : Block) : Block :=
  let lim := b.fld R.fwuPageCtl 23 16 * 1024
  let go := (b.pageable.take (b.fwuOnChip - lim)).map (·.1)
  (go.foldl (fun b i => b.pageCtx i) b).bump64 R.fwuPageoutLo go.length

/-- OP_CONTEXT_PAGE_IN of a context for which responses are held: it is read from memory, and what is held is answered in order (R116, R121). A
poisoned home slot fails the operation with TIMEOUT (Table 14-2). -/
def Fwu.pageIn (i : Nat) (b : Block) : Block :=
  match AMap.get? b.fwu.ctxs i with
  | none => b
  | some c =>
    if !c.paged || c.early.isEmpty then b
    else
      let b := b.bump64 R.fwuPageinLo 1
      if b.rangePoison (Fwu.home i) 256 then
        let b := b.readCount (Fwu.home i) 256
        b.ctxPoison i c
      else
        let b := b.onFwu fun f => { f with ctxs := AMap.set f.ctxs i { c with paged := false } }
        b.heldAnswer b.fwu.heldOrder.length

/-! ## Bulk copies -/

/-- FLAGS of the next chunk: bit 1 marks the last. -/
def Fwu.chunkFlag (k : Bulk) : Nat := if k.next + Fwu.chunkLen k = k.start + k.len then 2 else 0

/-- A BULK_COPY of a context moves on; its timeout runs from its first message (log entry 14). -/
def Block.putBulk (i : Nat) (k : Bulk) (b : Block) : Block := b.onFwu fun f => { f with ctxs := AMap.adjust f.ctxs i fun c =>
  { c with bulk := some k, deadline := if c.sent.isSome then c.deadline else b.now + c.tmo, sent := some (c.sent.getD b.now) } }

/-- The next chunk of a copy to the far site is read from the local fabric, into the buffer of the copy, once its last chunk has been sealed
and no packet is outstanding (R16, R129). -/
def Block.gather (i : Nat) (c : OpCtx) (k : Bulk) (b : Block) : Block :=
  if !b.chunkDue k || !k.parts.isEmpty || c.buf.any fun h => b.outq.any fun m => m.src == some h then b
  else
    let n := Fwu.chunkLen k
    let ps := Fwu.pieces 18 (k.laddr + (k.next - k.start)) n
    let b := b.putBulk i { k with parts := [(k.next, n, ps.length)], gathered := [] }
    match ps.foldl (fun (acc : Option Block) p => acc.bind fun b =>
        b.issue ⟨.bulk i (p.1 - k.laddr), c.job, k.lrank, c.lcls, 0x01, p.1, p.2, []⟩) (some b) with
    | some b => b
    | none => b.ctxEnd i St.requesterGone true

/-- BULK_CHUNK_SEND of a context: the next chunk is read from the local fabric; then it is sent, or requested from the far site, at its turn,
while the in-flight limit and the credits allow (R123, R129, R130). -/
def Fwu.chunkSend (i : Nat) (b : Block) : Block :=
  match AMap.get? b.fwu.ctxs i with
  | none => b
  | some c => match c.bulk with
    | none => b
    | some k =>
      let n := Fwu.chunkLen k
      if k.toFar && k.chunk.length != n then b.gather i c k
      else if b.issueTurn != some i then b
      else
        let q := b.nextSeq c.win c.rank c.lcls
        let b := q.2.farSend i c (Fwu.chunkFlag k) (if k.toFar then 0x20 else 0x21) q.1 k.next n k.chunk
        (b.putBulk i { k with next := k.next + n, gathered := [] }).onFwu fun f => { f with turn := i + 1 }

/-- A local packet of a bulk copy is answered. -/
def Block.bulkLocal (i piece st : Nat) (data : List Byte) (b : Block) : Block :=
  match AMap.get? b.fwu.ctxs i with
  | none => b
  | some c => match c.bulk with
    | none => b
    | some k =>
      if st ≠ 0 then b.ctxEnd i st true
      else if k.toFar then
        let parts := k.parts.filterMap fun p => if p.2.2 ≤ 1 then none else some (p.1, p.2.1, p.2.2 - 1)
        b.onFwu fun f => { f with ctxs := AMap.adjust f.ctxs i fun c =>
          { c with bulk := some { k with parts := parts, gathered := AMap.set k.gathered piece data } } }
      else
        let parts := k.parts.map fun p => if p.1 = piece then (p.1, p.2.1, p.2.2 - 1) else p
        let fin := (parts.filter fun p => p.2.2 == 0).map fun p => (p.1, p.2.1)
        b.bulkStep i { k with parts := parts.filter fun p => p.2.2 != 0, finished := k.finished ++ fin }

/-! ## Execution at the far gateway -/

/-- Target bytes of a far request (R111 check 4). -/
def FarExec.span (m : FarMsg) : Nat :=
  let o := m.fop.toNat
  if o = 1 ∨ o = 2 ∨ o = 0x20 ∨ o = 0x21 then m.length.toNat else if o = 3 then 0 else 8

/-- The rights a far request needs: all of these bits of PERM. A FOP that Table 4-3 does not list is taken for an atomic: DESIGN CHOICE (log
entry 96). -/
def FarExec.rights (m : FarMsg) : List Nat :=
  match m.fop.toNat with
  | 1 => [0] | 2 => [1] | 3 => [] | 0x20 => [3, 1] | 0x21 => [3, 0] | _ => [2]

/-- What the checks of R111 answer a request of a sender: a status, 0 when it may execute. -/
def Block.farCheck (b : Block) (x : InMsg) (m : FarMsg) : Nat :=
  match b.win (m.win.toNat % 4096) with
  | none => St.notOwner
  | some w =>
    if w.kind ≠ 2 then St.notOwner
    else if (b.job w.job).state = 1 then St.fenced
    else if w.peer ≠ x.peer ∨ w.peerJob ≠ x.job ∨ w.dying.isSome then St.notOwner
    else if (FarExec.rights m).any fun k => !Bits.bit w.perm k then St.notOwner
    else if m.fop ≠ 0x03#8 ∧ w.length < m.offset.toNat + FarExec.span m then St.badParam else 0

/-- A stream of R506 is the one a request names. -/
def FarStream.is (s : FarStream) (peer : Nat) (m : FarMsg) (cls : Nat) : Bool :=
  s.peer == peer && s.win == m.win.toNat % 4096 && s.impWin == m.impWin.toNat % 4096 && s.gen == m.src.toNat / 2 ^ 24 &&
  s.rank == m.src.toNat % 2 ^ 24 && s.cls == cls

/-- An entry belongs to the stream of a request. -/
def ExecEnt.same (e : ExecEnt) (peer : Nat) (m : FarMsg) (cls : Nat) : Bool :=
  e.peer == peer && e.cls == cls && e.msg.win == m.win && e.msg.impWin == m.impWin && e.msg.src == m.src

/-- Execution entries, and those only draining work may use (R113, R248). -/
abbrev execEnts : Nat := 131072

/-- The lowest free execution entry. -/
def Block.freeEnt (b : Block) : Nat := (Bm.search (fun i => (AMap.get? b.fwu.ents i).isNone) 1 (b.fwu.ents.length + 1) 0).getD 0

/-- An execution entry is freed with its buffer, its requests into the local fabric and the content that holds its request: its credit returns to
the peer (R31, R113). -/
def Block.entFree (i : Nat) (b : Block) : Block :=
  match AMap.get? b.fwu.ents i with
  | none => b
  | some e =>
    let b := match e.buf with
      | some (h, job) => b.dropOwner h (Own.of job 2)
      | none => b
    let b := ((b.useEnd (TagUse.ofEnt i)).freeHeld e.seg).onFwu fun f => { f with ents := AMap.erase f.ents i, execBack := AMap.set f.execBack e.peer (AMap.getD f.execBack e.peer 0 + 1) }
    let ks := (b.fwu.fences.filter fun g => g.2.entries.contains i).map (·.1)
    let b := b.onFwu fun f => { f with fences := f.fences.map fun (g : Nat × Fence) => (g.1, { g.2 with entries := g.2.entries.filter (· != i) }) }
    ks.foldl (fun b k => b.fenceEnd k) b

/-- An entry is discarded without execution or response and counted (R506). -/
def Block.entDiscard (i : Nat) (b : Block) : Block := (b.entFree i).bump R.fwuLateCnt

/-- An execution entry is taken (R113). -/
def Block.putEnt (i : Nat) (e : ExecEnt) (b : Block) : Block := b.onFwu fun f => { f with ents := AMap.set f.ents i e }

/-- A far request takes an execution entry in its stream, or is discarded (R111, R114, R506). Its content stays where it is until the entry is
freed. -/
def Block.farRequest (x : InMsg) (m : FarMsg) (b : Block) : Block :=
    let peer := x.peer
    let job := x.job
    let cls := x.cls
    let bad := b.farCheck x m
    let i := b.freeEnt
    let put (b : Block) : Block := b.putEnt i ⟨peer, cls, ((b.win (m.win.toNat % 4096)).map (·.job)).getD 0, m, bad, b.now, none, 0, 0, [], none, x.seg, false, x.buf⟩
    let known := (b.win (m.win.toNat % 4096)).any fun w => w.kind == 2 && w.peer == peer && w.peerJob == job
    if !known || bad == St.fenced then put b
    else
      let gen := m.src.toNat / 2 ^ 24
      let grp (s : FarStream) : Bool := s.peer == peer && s.win == m.win.toNat % 4096 && s.impWin == m.impWin.toNat % 4096
      let ahead := match b.fwu.streams.find? grp with
        | some s => (gen + 256 - s.gen) % 256
        | none => 0
      if 128 < ahead then (put b).entDiscard i
      else
        let old := (b.fwu.ents.filter fun e => e.2.peer == peer && e.2.msg.win == m.win && e.2.msg.impWin == m.impWin &&
          e.2.msg.src.toNat / 2 ^ 24 != gen && e.2.started.isNone).map (·.1)
        let b := if ahead = 0 then b
          else old.foldl (fun b k => b.entDiscard k) (b.onFwu fun f => { f with streams := f.streams.filter fun s => !grp s })
        let b := if b.fwu.streams.any fun s => s.is peer m cls then b
          else b.onFwu fun f => { f with streams := f.streams ++ [⟨peer, m.win.toNat % 4096, m.impWin.toNat % 4096, gen, m.src.toNat % 2 ^ 24, cls, 0, []⟩] }
        let exp := ((b.fwu.streams.find? fun s => s.is peer m cls).map (·.expect)).getD 0
        let d : Nat := (m.streamSeq.toNat + 2 ^ 32 - exp) % 2 ^ 32
        if 2 ^ 31 ≤ d then (put b).entDiscard i else put b

/-- A far request comes against an execution credit that this gateway has granted to its peer, and an entry is free for it (R24, R113). -/
def Block.execOk (b : Block) (peer : Nat) : Bool :=
  decide (AMap.getD b.fwu.execRecv peer 0 < AMap.getD b.fwu.execGrant peer 0) && decide (b.fwu.ents.length < execEnts)

/-- FAR_REQUEST_RX of inbound message `sel` (R24, R111, R113): a request without a credit stays where it is. -/
def Fwu.farRequestRx (sel : Nat) (b : Block) : Block :=
  match b.pickIn sel InMsg.farReq with
  | some x => match x.msg with
    | .far m =>
      if !b.execOk x.peer then b.holdIn sel
      else ((b.takeIn sel).onFwu fun f => { f with execRecv := AMap.set f.execRecv x.peer (AMap.getD f.execRecv x.peer 0 + 1) }).farRequest x m
    | _ => b
  | none => b

/-- How far a request's STREAM_SEQ lies ahead of the one that its stream expects. -/
def FarStream.ahead (x : FarStream) (m : FarMsg) : Nat := (m.streamSeq.toNat + 2 ^ 32 - x.expect) % 2 ^ 32

/-- The held requests of a stream: entries that have not issued. -/
def Block.heldOf (b : Block) (x : FarStream) : List (Nat × ExecEnt) := b.fwu.ents.filter fun e => e.2.started.isNone && x.is e.2.peer e.2.msg e.2.cls

/-- A request of a stream has been held behind a hole for 20 s (R506). -/
def Block.heldLate (b : Block) (x : FarStream) : Bool :=
  (b.heldOf x).any fun e => e.2.got + 160000000000 ≤ b.now && e.2.msg.streamSeq.toNat != x.expect

/-- Every held request of a stream is discarded, and the stream expects the number after the highest of them (R506). -/
def Block.holdSkip (x : FarStream) (b : Block) : Block :=
  let held := b.heldOf x
  let top := held.foldl (fun m e => max m (x.ahead e.2.msg)) 0
  let b := held.foldl (fun b e => b.entDiscard e.1) b
  b.onFwu fun f => { f with streams := f.streams.map fun (y : FarStream) => if y = x then { y with expect := (x.expect + top + 1) % 2 ^ 32 } else y }

/-- FAR_STREAM_HOLD_EXPIRY: a request held 20 s for an earlier STREAM_SEQ discards every held request of its stream, which then
expects the number above the highest discarded (R506). -/
def Fwu.holdExpiry (b : Block) : Block := b.fwu.streams.foldl (fun b x => if b.heldLate x then b.holdSkip x else b) b

/-- Two requests of one stream must keep their order (Table 4-4): an earlier one that is unanswered holds a later one. -/
def FarExec.mustWait (e l : FarMsg) : Bool :=
  let rd (m : FarMsg) : Bool := m.fop == 0x01#8 || m.fop == 0x21#8
  let ov := e.offset.toNat < l.offset.toNat + FarExec.span l && l.offset.toNat < e.offset.toNat + FarExec.span e
  if e.fop = 0x03#8 then true else if l.fop = 0x03#8 then false else ov && !(rd e && rd l)

/-- An entry that has issued waits for its target, or for what its FFENCE covers (R115, R117). -/
def ExecEnt.busy (e : ExecEnt) : Bool := e.started.isSome && !e.resp && (e.left != 0 || e.msg.fop == 0x03#8)

/-- The pieces of a far request: fabric address and length. -/
def FarExec.parts (w : Win) (m : FarMsg) : List (Nat × Nat) := Fwu.pieces 18 (w.base + m.offset.toNat) (FarExec.span m)

/-- The fabric opcode that executes a far operation (Table 4-3). -/
def FarExec.opc (m : FarMsg) : Nat :=
  match m.fop.toNat with
  | 1 | 0x21 => 0x01 | 2 | 0x20 => 0x03 | o => o

/-- FAR_REQUEST_EXECUTE of an entry: at its turn, and once the hazards of R115 have cleared, the request is issued into the local
fabric (R112, R114). -/
def Fwu.farExecute (i : Nat) (b : Block) : Block :=
  match AMap.get? b.fwu.ents i with
  | none => b
  | some e =>
    match b.fwu.streams.find? fun s => s.is e.peer e.msg e.cls with
    | none => b
    | some s =>
      if e.started.isSome || s.expect != e.msg.streamSeq.toNat || b.engStopped e.job 2 then b
      else
        let hazard := b.fwu.ents.any fun x => x.1 != i && x.2.busy && x.2.same e.peer e.msg e.cls && FarExec.mustWait x.2.msg e.msg
        if hazard && e.bad == 0 then
          b.onFwu fun f => { f with ents := AMap.adjust f.ents i fun x => { x with blockedAt := some (x.blockedAt.getD b.now) } }
        else
          let b := match e.blockedAt with
            | some t => b.bumpN R.fwuHazardStall ((b.now - t) / 8000)
            | none => b
          let b := b.onFwu fun f => { f with streams := f.streams.map fun (x : FarStream) => if x = s then { x with expect := (s.expect + 1) % 2 ^ 32 } else x }
          let set (left st : Nat) (b : Block) : Block := b.onFwu fun f => { f with ents := AMap.adjust f.ents i fun x =>
            { x with started := some b.now, left := left, status := st, blockedAt := none } }
          match b.win (e.msg.win.toNat % 4096) with
          | none => set 0 St.notOwner b
          | some w =>
            if e.bad ≠ 0 then set 0 e.bad b
            else if e.buf.any fun x => b.bufPoison x.1 then set 0 St.timeout b
            else if e.msg.fop = 0x03#8 then set 0 0 b
            else
              let ps := FarExec.parts w e.msg
              let b := (set ps.length 0 b).count w.job 1 7 1
              let isW := e.msg.fop == 0x02#8 || e.msg.fop == 0x20#8
              let isR := e.msg.fop == 0x01#8 || e.msg.fop == 0x21#8
              let a0 := w.base + e.msg.offset.toNat
              let r := ps.foldl (fun (acc : Option Block) p => acc.bind fun b =>
                b.issue ⟨.exec i (p.1 - a0), w.job, w.target, e.cls, FarExec.opc e.msg, p.1,
                  if isW then p.2 else if isR then p.2 else e.msg.data.length,
                  if isR then [] else if isW then (e.msg.data.drop (p.1 - a0)).take p.2 else e.msg.data⟩) (some b)
              match r with
              | some b => b
              | none => set 0 St.badParam b

/-- A fabric packet of an execution entry is answered with a status and data. -/
def Block.entAnswer (i piece st : Nat) (data : List Byte) (b : Block) : Block :=
  b.onFwu fun f => { f with ents := AMap.adjust f.ents i fun e => { e with
    left := e.left - 1, status := if e.status = 0 then st else e.status, data := AMap.set e.data piece data } }

/-- The response message of an entry (Table 4-2): FOP, WIN, OPID, SRC, STREAM_SEQ and IMP_WIN of its request. -/
def ExecEnt.response (e : ExecEnt) (st off : Nat) (data : List Byte) : FarMsg :=
  { e.msg with flags := 1 + (e.msg.flags &&& 2), status := BitVec.ofNat 16 st, offset := BitVec.ofNat 64 off,
               length := BitVec.ofNat 32 data.length, data := data }

/-- An operation executed for an export window has completed with a status (R72); one refused by R111 was not executed and does not count. -/
def Block.entCount (e : ExecEnt) (st : Nat) (b : Block) : Block :=
  if e.started.isNone || e.bad != 0 then b
  else b.onFwu fun f => { f with wins := AMap.adjust f.wins (e.msg.win.toNat % 4096) fun w =>
    { w with ops := w.ops + 1, bytes := if st = 0 then w.bytes + FarExec.span e.msg else w.bytes, timeouts := if st = St.timeout then w.timeouts + 1 else w.timeouts } }

/-- The response of an entry goes to the CC, the buffer of the entry with the data that it returns; the entry is held until it is sealed (R16,
R109, R112, R113). -/
def Block.entRespond (i : Nat) (e : ExecEnt) (st off : Nat) (data : List Byte) (b : Block) : Block :=
  if e.resp then b
  else
    let sub := if e.cls = 1 then 4 + e.msg.win.toNat % 4 else e.msg.win.toNat
    let src := if data.isEmpty then none else (e.buf.filter fun x => x.2 == e.job).map Prod.fst
    let b := (((b.entCount e st).count e.job 1 5 data.length).passBuf src e.job 2 5).onFwu fun f => { f with
      ents := AMap.adjust f.ents i fun x => { x with resp := true, buf := if src.isSome then none else x.buf } }
    b.lineSend e.job e.peer e.cls sub (.far (e.response st off data)) none (src := src) (ent := some i)

/-- Entries whose response the CC has sealed, or has discarded, are freed (R113): run at the end of each row. -/
def Block.entSettle (b : Block) : Block :=
  let sealed_ := b.fwu.ents.filter fun e => e.2.resp && !b.outq.any fun m => m.ent == some e.1
  sealed_.foldl (fun b e => b.entFree e.1) b

/-- What the executing gateway keeps of the bulk copy of an entry: its first failing status, and its contiguous completed window offset, which is
that of the chunk itself while none of the copy has completed (R130). -/
def Block.bulkRec (b : Block) (e : ExecEnt) : Nat × Nat :=
  (((b.fwu.streams.find? fun s => s.is e.peer e.msg e.cls).bind fun s => s.bulks.find? fun x => x.1 == e.msg.opid.toNat).map Prod.snd).getD
    (0, e.msg.offset.toNat)

/-- The contiguous completed window offset that a bulk write ended by a fence or a revocation reports: 0, of which the sender takes nothing, when
no chunk of its copy has completed; OFFSET of any other request. -/
def Block.entOffset (b : Block) (e : ExecEnt) : Nat :=
  if e.msg.fop = 0x20#8 then
    (((b.fwu.streams.find? fun s => s.is e.peer e.msg e.cls).bind fun s => s.bulks.find? fun x => x.1 == e.msg.opid.toNat).map fun x => x.2.2).getD 0
  else e.msg.offset.toNat

/-- The record of a bulk copy is set in the stream of an entry, or removed with the chunk marked FINAL; an older copy of the same context is
forgotten. -/
def Block.putBulkRec (e : ExecEnt) (r : Option (Nat × Nat)) (b : Block) : Block :=
  let id := e.msg.opid.toNat
  let put (s : FarStream) : FarStream := { s with bulks := (s.bulks.filter fun x => x.1 / 256 != id / 256) ++ (r.map fun x => (id, x)).toList }
  b.onFwu fun f => { f with streams := f.streams.map fun (s : FarStream) => if s.is e.peer e.msg e.cls then put s else s }

/-- A chunk of a bulk write is answered by its target, every earlier one of its stream before it (R130): progress at each 16 MiB of contiguous
completed offset and at FINAL; from the first failing chunk on, that chunk's status and the offset completed before it. -/
def Block.chunkDone (i : Nat) (e : ExecEnt) (b : Block) : Block :=
  let (st, off) := b.bulkRec e
  let here := e.msg.offset.toNat
  let fin := here + e.msg.data.length
  let last := e.msg.flags.getLsbD 1
  let st' := if st = 0 then e.status else st
  let off' := if st' = 0 && here == off then fin else off
  let b := b.putBulkRec e (if last then none else some (st', off'))
  if st' ≠ 0 || last || off' / 0x1000000 != off / 0x1000000 then b.entRespond i e st' off' [] else (b.entCount e 0).entFree i

/-- FAR_EXEC_RESPONSE of an entry whose fabric packets are all answered (R112, R130). A chunk of a bulk write whose window does not tell its
offset answers with 0 (log entry 15). -/
def Fwu.execResponse (i : Nat) (b : Block) : Block :=
  match AMap.get? b.fwu.ents i with
  | none => b
  | some e =>
    if e.resp then b
    else
    let known := b.fwu.streams.any fun s => s.is e.peer e.msg e.cls
    if e.bad ≠ 0 ∧ ¬known then b.entRespond i e e.bad (if e.msg.fop = 0x20#8 then 0 else e.msg.offset.toNat) []
    else if e.started.isNone || e.left != 0 || e.msg.fop == 0x03#8 then b
    else if e.msg.fop = 0x20#8 then
      let early := b.fwu.ents.any fun x => x.1 != i && x.2.started.isSome && !x.2.resp && x.2.same e.peer e.msg e.cls &&
        2 ^ 31 ≤ (x.2.msg.streamSeq.toNat + 2 ^ 32 - e.msg.streamSeq.toNat) % 2 ^ 32
      if early then b else b.chunkDone i e
    else
      let rd := e.msg.fop != 0x02#8
      b.entRespond i e e.status e.msg.offset.toNat (if e.status = 0 && rd then e.data.flatMap Prod.snd else [])

/-- FFENCE_COMPLETE of an entry: every earlier operation of its stream has been answered (R117). -/
def Fwu.ffenceComplete (i : Nat) (b : Block) : Block :=
  match AMap.get? b.fwu.ents i with
  | none => b
  | some e =>
    let early := b.fwu.ents.any fun x => x.1 != i && x.2.busy && x.2.same e.peer e.msg e.cls &&
      2 ^ 31 ≤ (x.2.msg.streamSeq.toNat + 2 ^ 32 - e.msg.streamSeq.toNat) % 2 ^ 32
    if e.started.isNone || e.msg.fop != 0x03#8 || early then b else b.entRespond i e e.status e.msg.offset.toNat []

/-! ## Responses and timeouts of the local fabric -/

/-- What a request served gets its answer. -/
def Block.tagAnswer (u : TagUse) (st : Nat) (data : List Byte) (b : Block) : Block :=
  match u with
  | .mcast _ _ => b
  | .exec i p => b.entAnswer i p st data
  | .bulk i p => b.bulkLocal i p st data

/-- What R82 completes an operation with whose destination rank is not VALID: the rank of an export window came from its descriptor. -/
def TagUse.gone (u : TagUse) : Nat :=
  match u with
  | .exec _ _ => St.badParam
  | _ => St.requesterGone

/-- FABRIC_REQUEST_ISSUE: the oldest request that waits for a tag is issued once a tag is free (R93), unless its rank is no longer VALID
(R82). -/
def Fif.requestIssue (b : Block) : Block :=
  match b.fif.tagWait with
  | [] => b
  | w :: ws =>
    if b.tagFree = 0 then b
    else
      let b := b.onFif fun f => { f with tagWait := ws }
      (b.issue w).getD (b.tagAnswer w.use w.use.gone [])

/-- A late fabric response is discarded and counted; LATE_DISCARD is set for the command that owns the operation (R91). -/
def Block.fabLate (p : FabPkt) (b : Block) : Block := ((b.bump R.fifLateCnt).count p.job.toNat 1 27 1).lateWarn p

/-- A response opcode. -/
def Fif.isResp (p : FabPkt) : Bool := p.opcode == 0x02#8 || p.opcode == 0x04#8 || p.opcode == 0x07#8 || p.opcode == 0x1F#8 || p.opcode == 0x30#8

/-- FABRIC_RESPONSE_RX of delivered packet `sel` (R91, R92). -/
def Fwu.fabResponse (sel : Nat) (b : Block) : Block :=
  match b.pickGot sel Fif.isResp with
  | none => b
  | some p =>
    let b := b.dropGot sel
    match b.matchTag p with
    | none => b.fabLate p
    | some (t, g) =>
      let st := if p.opcode = 0x30#8 then Bits.ofLe p.payload else 0
      (b.freeTag t).tagAnswer g.use st (if p.opcode = 0x30#8 then [] else p.payload)

/-- A request of a tag has been out for its limit; MCAST_SET has a timeout of its own (R90, R94). -/
def Tag.due (g : Tag) (now : Time) : Bool :=
  match g.sent with
  | some t => t + g.limit ≤ now && (match g.use with | .mcast _ _ => false | _ => true)
  | none => false

/-- FABRIC_REQUEST_TIMEOUT: every request past its limit reports TIMEOUT to its context and its tag is quarantined (R90). -/
def Fwu.fabTimeout (b : Block) : Block :=
  let due := b.fif.tags.filter fun e => e.2.due b.now
  due.foldl (fun b e => (b.quarantine e.1).tagAnswer e.2.use St.timeout []) b

/-! ## Commands -/

/-- A field of the descriptor at an address. -/
def Block.d (b : Block) (a off n : Nat) : Nat := b.dxN (a + off) n

/-- What breaks Table 4-1 in the window descriptor of a job at an address: the offset (R104). -/
def Block.winDescBad (b : Block) (a job : Nat) : Option Nat :=
  let f := b.d a
  let kind := f 0 1
  let imp := kind == 1
  let base := f 8 8
  let len := f 16 8
  let overlap := imp && b.fwu.wins.any fun e => e.2.kind == 1 && e.2.job == job && base < e.2.base + e.2.length && e.2.base < base + len
  Req.firstBad [(0, kind != 1 && kind != 2), (1, 15 < f 1 1), (2, 1 < f 2 1), (3, f 3 1 != 0),
    (6, 1024 ≤ f 6 2), (8, base / 2 ^ 48 != 0 || base % 4096 != 0 || overlap), (16, len % 4096 != 0 || len < 4096 || 2 ^ 40 < len),
    (24, f 24 4 / 2 ^ 24 != 0 || imp && f 24 4 != 0), (28, 4096 ≤ f 28 2 || !imp && f 28 2 != 0), (30, f 30 2 != 0),
    (32, if imp then 10000 < f 32 4 else f 32 4 != 0), (36, !imp && f 36 4 != 0), (40, f 40 8 + f 48 8 + f 56 8 != 0)]

/-- WIN_CREATE (R103, R104). -/
def Fwu.winCreate (id : Nat) (r : Req) (b : Block) : Block :=
  let a := r.a0
  let job := b.cmdJob r
  Ci.check8 id r [(16, badAddr a r.a1 64), (24, r.a1 != 64), (28, 4096 ≤ r.a2 && r.a2 != 0xFFFFFFFF), (32, r.nz 32 32)] (fun b =>
    let b := b.readCount a 64
    match b.winDescBad a job with
    | some o => b.badDesc id o
    | none =>
      let f := b.d a
      let peer := f 4 2
      if ¬(b.peerGw.any fun e => e.2 == peer) then b.badDesc id 4
      else
        let no := if r.a2 = 0xFFFFFFFF then AMap.freeKey b.fwu.wins 0 4096 else some r.a2
        match no with
        | none => b.done id St.noResource 5
        | some w =>
          match b.win w with
          | some x => b.done id St.state (if x.dying.isSome then 2 else 1)
          | none =>
            let imp := f 0 1 == 1
            let x : Win := ⟨f 0 1, f 1 1, f 2 1 == 1, peer, f 6 2, f 8 8, f 16 8, f 24 4, f 28 2, f 32 4, f 36 4, job,
              imp && r.flagScav, none, 0, 0, 0, 0⟩
            (b.onFwu fun y => { y with
              wins := AMap.set y.wins w x
              winGen := if imp then AMap.set y.winGen w ((AMap.getD y.winGen w 0 + 1) % 256) else y.winGen
              seqs := if imp then y.seqs.filter fun (e : Nat × Nat) => e.1 / 2 ^ 27 != w else y.seqs }).ok id w) b

/-- The window a command names: its own job's, or how the command completes (Table 2-14). -/
def Block.cmdWin (id : Nat) (r : Req) (k : Nat → Win → Block → Block) (b : Block) : Block :=
  match b.win r.a2 with
  | none => b.done id St.state 0
  | some x => if x.job ≠ b.cmdJob r then b.done id St.notOwner 0 else k r.a2 x b

/-- Fields a window command without a descriptor leaves 0. -/
def Fwu.winFields (r : Req) : List (Nat × Bool) := [(16, r.nz 16 8), (24, r.nz 24 4), (28, 4096 ≤ r.a2), (32, r.nz 32 32)]

/-- Contexts in quarantine belong to no window once theirs is gone. -/
def FwuState.forget (gone : Nat → Bool) (q : AMap (Time × Option Nat)) : AMap (Time × Option Nat) :=
  q.map fun (e : Nat × (Time × Option Nat)) => if e.2.2.any gone then (e.1, (e.2.1, none)) else e

/-- A window that is being destroyed and holds no operation, bulk copy, fence or execution entry any more is freed (R131). -/
def Block.winSettle (w : Nat) (b : Block) : Block :=
  match b.win w with
  | none => b
  | some x => match x.dying with
    | none => b
    | some id =>
      if b.winOut w ≠ 0 || b.fwu.ents.any (fun e => x.kind == 2 && e.2.msg.win.toNat % 4096 == w) || b.fwu.fences.any (fun e => e.2.win == w) then b
      else (b.onFwu fun f => { f with
        wins := AMap.erase f.wins w
        quar := FwuState.forget (· == w) f.quar
        streams := f.streams.filter fun s => !(x.kind == 2 && s.win == w) }).ok id 0

/-- WIN_DESTROY (R131). -/
def Fwu.winDestroy (id : Nat) (r : Req) (b : Block) : Block :=
  Ci.check8 id r (Fwu.winFields r) (fun b => b.cmdWin id r (fun w x b =>
    if x.dying.isSome then b.done id St.state 2
    else (b.onFwu fun f => { f with wins := AMap.adjust f.wins w fun y => { y with dying := some id } }).winSettle w)) b

/-- FFENCEs that wait for a context are sent as contexts free (R117). -/
def Block.fenceNeeds (k : Nat) (b : Block) : Block :=
  match AMap.get? b.fwu.fences k with
  | none => b
  | some f => f.need.foldl (fun b s =>
      if b.ctxRoom f.win 1 then
        (b.onFwu fun x => { x with fences := AMap.adjust x.fences k fun g => { g with need := g.need.filter (· != s) } }).ffence k s.1 s.2
      else b) b

/-- WIN_FENCE (R118). It covers no BULK_COPY of the window: DESIGN CHOICE (log entry 97). -/
def Fwu.winFence (id : Nat) (r : Req) (b : Block) : Block :=
  Ci.check8 id r (Fwu.winFields r) (fun b => b.cmdWin id r (fun w x b =>
    let k := b.fwu.fenceNo
    let cov := if x.kind = 1 then b.fwu.ctxs.filter fun e => e.2.win == w && e.2.bulk.isNone else []
    let ents := if x.kind = 2 then (b.fwu.ents.filter fun e => e.2.msg.win.toNat % 4096 == w).map (·.1) else []
    let f : Fence := ⟨x.job, 0, w, 0, 0, 0, x.base, some id, cov.map (·.1), ents, (cov.map fun e => (e.2.rank, e.2.lcls)).eraseDups, 0, 0⟩
    let b := b.onFwu fun y => { y with fenceNo := k + 1, fences := AMap.set y.fences k f }
    (b.fenceNeeds k).fenceEnd k)) b

/-- BULK_COPY (R129). What the rules do not say is the model's choice (DESIGN CHOICE, log entry 69): a length of 0 is BAD_PARAM, DETAIL 48;
when no context is free or the window is at MAX_OUT, the command completes NO_RESOURCE, DETAIL 2, and when no buffer is free for its chunks,
DETAIL 4. -/
def Fwu.bulkCopy (id : Nat) (r : Req) (b : Block) : Block :=
  let off := r.u 40 8
  let len := r.u 48 8
  Ci.check8 id r [(16, r.nz 16 8), (24, r.nz 24 4), (28, 4096 ≤ r.a2), (32, r.u 32 8 / 2 ^ 48 != 0), (40, off / 2 ^ 48 != 0), (48, len == 0),
    (56, r.u 56 4 / 2 ^ 24 != 0), (60, 1 < r.u 60 1), (61, r.nz 61 3)] (fun b =>
    let job := b.cmdJob r
    match b.win r.a2 with
    | none => b.badParam id 28
    | some x =>
      if x.job ≠ job ∨ x.kind ≠ 1 then b.badParam id 28
      else
        let toFar := r.u 60 1 == 0
        let st := match b.winCheck x (x.base + off) len (some 3) with
          | some s => some s
          | none => b.winCheck x (x.base + off) len (some (if toFar then 1 else 0))
        match st with
        | some s => if s = St.badParam then b.badParam id 40 else b.done id s (if s = St.state then 2 else Fwu.detail s 6 x.peer)
        | none =>
          if (b.rankEntry job (r.u 56 4)).isNone then b.badParam id 56
          else if ¬b.ctxRoom r.a2 1 then b.done id St.noResource 2
          else
            let c : OpCtx := {
              gen := 0, job := job, rank := r.u 56 4, tag := 0, fgen := 0, fcls := 0,
              lcls := if r.flagScav || x.scav then 7 else 6, win := r.a2, peer := x.peer, fop := if toFar then 0x20 else 0x21, off := off,
              len := len, addr := 0, seq := 0, data := [], tmo := b.farTmo x, deadline := b.now + b.farTmo x, sent := none, paged := false,
              early := [], buf := none, fence := none, cmd := some id,
              bulk := some ⟨toFar, r.u 56 4, r.u 32 8, off, len, off, off, [], [], []⟩ }
            if !toFar then (b.newCtx c).2
            else match b.takeBuf (min len 65536) (Own.of job 2) with
              | none => b.done id St.noResource 4
              | some (b, h) => (b.newCtx { c with buf := some h }).2) b

/-- Outstanding operations of a window: contexts, or, of an export window, requests that execute for it (R72). One whose response waits to be
sealed counts here and in OPS: DESIGN CHOICE (log entry 68). -/
def Block.winOps (b : Block) (w : Nat) (x : Win) : Nat :=
  if x.kind = 1 then b.winOut w else (b.fwu.ents.filter fun e => e.2.bad == 0 && e.2.msg.win.toNat % 4096 == w).length

/-- Bytes that the running bulk copies of a window have moved. -/
def Block.bulkBytes (b : Block) (w : Nat) : Nat :=
  Bits.sum (b.fwu.ctxs.map fun e => if e.2.win = w then (e.2.bulk.map fun k => k.done_ - k.start).getD 0 else 0)

/-- The 64-byte record of WIN_QUERY (Table 2-17). The model's choices (DESIGN CHOICE, log entry 68): TIMEOUT_MS rounds the far timeout down to
whole ms, counts are reported modulo the width of their fields, and an FFENCE counts in OPS and OUT. -/
def Block.winRecord (b : Block) (w : Nat) (x : Win) : List Byte :=
  Bits.leBytes 2 w ++ Bits.leBytes 1 (if x.dying.isSome then 2 else 1) ++ Bits.leBytes 1 (x.kind + if x.scav then 128 else 0) ++
  Bits.leBytes 4 (b.winOps w x) ++ Bits.leBytes 4 x.maxOut ++ Bits.leBytes 4 (b.fwu.quar.filter fun e => e.2.2 == some w).length ++
  Bits.leBytes 2 x.peer ++ Bits.leBytes 2 x.peerJob ++ Bits.leBytes 4 (if x.kind = 1 then b.farTmo x / 8000000 else 0) ++
  Bits.leBytes 8 x.ops ++ Bits.leBytes 8 (x.bytes + b.bulkBytes w) ++ Bits.leBytes 4 x.timeouts ++ Bits.leBytes 4 x.nacks ++ Bits.leBytes 16 0

/-- WIN_QUERY (R72). -/
def Fwu.winQuery (id : Nat) (r : Req) (b : Block) : Block :=
  Ci.check8 id r [(16, badAddr r.a0 r.a1 64), (28, 4096 ≤ r.a2), (32, r.nz 32 32)] (fun b => b.cmdWin id r (fun w x b =>
    if r.a1 < 64 then b.badParam id 24
    else (b.dxWrite r.a0 (b.winRecord w x)).ok id (b.winOps w x))) b

/-- A write of FWU_EXEC_CTL.PEER_CREDIT (R132): ignored outside its range, or when the credits of the current peers would exceed
the execution entries. -/
def Fwu.execCtl (v : Word) (b : Block) : Block :=
  let x := Bits.fld v.toNat 17 0
  let peers := (b.peerGw.map Prod.snd).eraseDups.length
  if 1024 ≤ x ∧ x ≤ 131072 ∧ x * peers ≤ 131072 then b.putN R.fwuExecCtl x else b

/-- Credits granted to a peer whose entries have not been freed. -/
def FwuState.execOpen (f : FwuState) (peer : Nat) : Nat := AMap.getD f.execGrant peer 0 - AMap.getD f.execBack peer 0

/-- The cumulative execution credit granted to a peer, for class 0 transport control (R113, R132). It never goes back. All grants together
leave the 8,192 entries of Table 8-5, which new requests may not use (R29, R248, log entry 66). -/
def Block.execGrant (peer : Nat) (b : Block) : Nat × Block :=
  let others := Bits.sum ((b.fwu.execGrant.filter fun e => e.1 != peer).map fun e => b.fwu.execOpen e.1)
  let n := min (b.fld R.fwuExecCtl 17 0) (execEnts - 8192 - others)
  let g := max (AMap.getD b.fwu.execGrant peer 0) (AMap.getD b.fwu.execBack peer 0 + n)
  (g, b.onFwu fun f => { f with execGrant := AMap.set f.execGrant peer g })

/-- What waits for contexts, fences and windows moves on: run at the end of each row. -/
def Block.fwuSettle (b : Block) : Block :=
  let b := b.entSettle.heldAnswer b.fwu.heldOrder.length
  let b := (b.fwu.fences.map Prod.fst).foldl (fun b k => (b.fenceNeeds k).fenceEnd k) b
  (b.fwu.wins.map Prod.fst).foldl (fun b w => b.winSettle w) b

/-- A requester's or a job's operations end without an answer: FENCED, or REQUESTER_GONE (R97, R128). -/
def Block.ctxsGone (st : Nat) (p : OpCtx → Bool) (b : Block) : Nat × Block :=
  let cs := (b.fwu.ctxs.filter fun e => p e.2).map (·.1)
  (cs.length, cs.foldl (fun b i => b.ctxEnd i st true) b)

end Sys2Proof.Machine
end

