-- ==== Sys2Proof/Machine/Num.lean ====
section
/-! DEFINITION. Numbers, element formats, rounding, the exact accumulator, block quantisation and residual blocks
(chapter 6). -/

namespace Sys2Proof.Machine

/-- A value of arithmetic: finite, (−1)^neg × m × 2^e with the sign of zero kept, an infinity, or NaN. -/
inductive Num where
  | fin (neg : Bool) (m : Nat) (e : Int)
  | inf (neg : Bool)
  | nan
deriving DecidableEq, Repr

/-- Positive zero. -/
abbrev Num.zero : Num := .fin false 0 0

/-- The exponent of the leading bit of a finite non-zero value. -/
def Num.log2? : Num → Option Int
  | .fin _ m e => if m = 0 then none else some (Nat.log2 m + e)
  | _ => none

/-- A finite value. -/
def Num.finite : Num → Bool
  | .fin _ _ _ => true
  | _ => false

/-- The value of an integer times 2^e, the sign of zero positive. -/
def Num.ofInt (i e : Int) : Num := .fin (i < 0) i.natAbs e

/-- The mantissa with its sign, at an exponent not above its own. -/
def Num.at (neg : Bool) (m : Nat) (e lo : Int) : Int :=
  let v : Int := (m : Int) * 2 ^ (e - lo).toNat
  if neg then -v else v

/-- The exact sum (IEEE 754): the zero of opposite addends is +0. -/
def Num.add : Num → Num → Num
  | .nan, _ => .nan
  | _, .nan => .nan
  | .inf a, .inf b => if a = b then .inf a else .nan
  | .inf a, _ => .inf a
  | _, .inf b => .inf b
  | .fin a m e, .fin b n f =>
    let lo := min e f
    let s := Num.at a m e lo + Num.at b n f lo
    if s = 0 then .fin (a && b && m == 0 && n == 0) 0 lo else Num.ofInt s lo

/-- The value with its sign inverted. -/
def Num.neg : Num → Num
  | .fin a m e => .fin (!a) m e
  | .inf a => .inf (!a)
  | .nan => .nan

/-- The magnitude. -/
def Num.abs : Num → Num
  | .fin _ m e => .fin false m e
  | .inf _ => .inf false
  | .nan => .nan

/-- The exact product (IEEE 754). -/
def Num.mul : Num → Num → Num
  | .nan, _ => .nan
  | _, .nan => .nan
  | .inf a, .inf b => .inf (xor a b)
  | .inf a, .fin b n _ => if n = 0 then .nan else .inf (xor a b)
  | .fin a m _, .inf b => if m = 0 then .nan else .inf (xor a b)
  | .fin a m e, .fin b n f => .fin (xor a b) (m * n) (e + f)

/-- Less than, of values that are not NaN; −0 and +0 are equal. -/
def Num.lt : Num → Num → Bool
  | .nan, _ => false
  | _, .nan => false
  | .inf a, .inf b => a && !b
  | .inf a, _ => a
  | _, .inf b => !b
  | .fin a m e, .fin b n f => let lo := min e f; Num.at a m e lo < Num.at b n f lo

/-- Equal values; NaN equals nothing, −0 equals +0. -/
def Num.eq (x y : Num) : Bool := x != .nan && y != .nan && !x.lt y && !y.lt x

/-- The sign bit of a value. -/
def Num.sign : Num → Bool
  | .fin a _ _ => a
  | .inf a => a
  | .nan => false

/-! ## Rounding -/

/-- m × 2^e over the step 2^k, rounded to nearest even, or stochastically with the 16-bit draw `u` (R171). -/
def Num.steps (m : Nat) (e k : Int) (draw : Option Nat) : Nat :=
  if k ≤ e then m * 2 ^ (e - k).toNat
  else
    let d := 2 ^ (k - e).toNat
    let q := m / d
    let r := m % d
    match draw with
    | some u => if 65536 ≤ r * 65536 / d + u then q + 1 else q
    | none => if d < 2 * r || 2 * r == d && q % 2 == 1 then q + 1 else q

/-- A binary element format: exponent bits, mantissa bits, bias, and what the top exponent means: 0 infinities and NaN,
1 NaN only at the all-ones code, 2 finite numbers only. -/
structure Fmt where
  eb   : Nat
  mb   : Nat
  bias : Int
  kind : Nat
deriving DecidableEq, Repr

/-- IEEE 754 binary32. -/
abbrev Fmt.fp32 : Fmt := ⟨8, 23, 127, 0⟩
/-- IEEE 754 binary64. -/
abbrev Fmt.fp64 : Fmt := ⟨11, 52, 1023, 0⟩

/-- Bits of an element. -/
def Fmt.width (f : Fmt) : Nat := 1 + f.eb + f.mb

/-- The value of a code. -/
def Fmt.dec (f : Fmt) (c : Nat) : Num :=
  let s := Bits.bit c (f.eb + f.mb)
  let ex := c / 2 ^ f.mb % 2 ^ f.eb
  let m := c % 2 ^ f.mb
  let top := ex == 2 ^ f.eb - 1
  if f.kind = 0 ∧ top then (if m = 0 then .inf s else .nan)
  else if f.kind = 1 ∧ top ∧ m = 2 ^ f.mb - 1 then .nan
  else if ex = 0 then .fin s m (1 - f.bias - f.mb)
  else .fin s (m + 2 ^ f.mb) (ex - f.bias - f.mb)

/-- The code of the largest finite magnitude. -/
def Fmt.maxCode (f : Fmt) : Nat :=
  match f.kind with
  | 0 => (2 ^ f.eb - 1) * 2 ^ f.mb - 1
  | 1 => 2 ^ (f.eb + f.mb) - 2
  | _ => 2 ^ (f.eb + f.mb) - 1

/-- The code of an infinity without its sign. -/
def Fmt.infCode (f : Fmt) : Nat := (2 ^ f.eb - 1) * 2 ^ f.mb

/-- The code of a NaN; its sign and payload are free where the format has several (log entry 16). -/
def Fmt.nanCode (f : Fmt) : Nat :=
  let s := Config.nanBits f.eb f.mb % 2 * 2 ^ (f.eb + f.mb)
  match f.kind with
  | 0 => s + f.infCode + 1 + Config.nanBits f.eb f.mb / 2 % (2 ^ f.mb - 1)
  | _ => s + (2 ^ (f.eb + f.mb) - 1)

/-- The code of a finite value rounded into the format, and whether it was limited or became an infinity (Table 6-4). -/
def Fmt.round (f : Fmt) (draw : Option Nat) (sat : Bool) (neg : Bool) (m : Nat) (e : Int) : Nat × Bool :=
  let s := if neg then 2 ^ (f.eb + f.mb) else 0
  if m = 0 then (s, false)
  else
    let k := max (Nat.log2 m + e) (1 - f.bias) - f.mb
    let q := Num.steps m e k draw
    let (q, k) := if 2 ^ (f.mb + 1) ≤ q then (q / 2, k + 1) else (q, k)
    let code := if 2 ^ f.mb ≤ q then (k + f.mb + f.bias).toNat * 2 ^ f.mb + (q - 2 ^ f.mb) else q
    if code ≤ f.maxCode then (s + code, false)
    else if f.kind = 0 ∧ !sat then (s + f.infCode, true)
    else (s + f.maxCode, true)

/-- The code of any value: an infinity stays one where the format has infinities and SAT is 0. -/
def Fmt.enc (f : Fmt) (draw : Option Nat) (sat : Bool) : Num → Nat × Bool
  | .nan => (f.nanCode, false)
  | .inf a => ((if a then 2 ^ (f.eb + f.mb) else 0) + (if f.kind = 0 ∧ !sat then f.infCode else f.maxCode), !(f.kind == 0 && !sat))
  | .fin a m e => f.round draw sat a m e

/-! ## FP32 arithmetic -/

/-- An FP32 code from a value, rounded to nearest even. A NaN inside the CE is the code 0x7FC00000. -/
def F32.of : Num → Nat
  | .nan => 0x7FC00000
  | x => (Fmt.fp32.enc none false x).1

/-- The value of an FP32 code. -/
def F32.val (c : Nat) : Num := Fmt.fp32.dec c

/-- FP32 addition with one rounding (R165). -/
def F32.add (a b : Nat) : Nat := F32.of ((F32.val a).add (F32.val b))

/-- FP32 multiplication. -/
def F32.mul (a b : Nat) : Nat := F32.of ((F32.val a).mul (F32.val b))

/-- The larger of two magnitudes of finite FP32 codes; other codes do not count. -/
def F32.maxAbs (m c : Nat) : Nat := if (F32.val c).finite then max m (c % 2 ^ 31) else m

/-! ## The exact accumulator (R166, R167): 320-bit two's complement, least significant bit 2^−160 -/

/-- The marker of NaN, −2^159. -/
abbrev Exact.nan : Nat := 2 ^ 319
/-- The marker of −∞, −2^159 + 1. -/
abbrev Exact.ninf : Nat := 2 ^ 319 + 2 ^ 160
/-- The marker of +∞, +2^159 − 1. -/
abbrev Exact.pinf : Nat := 2 ^ 319 - 2 ^ 160

/-- The accumulator of a value; every input converts without rounding. -/
def Exact.of : Num → Nat
  | .nan => Exact.nan
  | .inf a => if a then Exact.ninf else Exact.pinf
  | .fin a m e => Bits.ofInt 320 (let v : Int := Num.steps m e (-160) none; if a then -v else v)

/-- The value of an accumulator. -/
def Exact.val (x : Nat) : Num :=
  if x = Exact.nan then .nan else if x = Exact.ninf then .inf true else if x = Exact.pinf then .inf false
  else Num.ofInt (Bits.toInt 320 x) (-160)

/-- Exact addition; the markers are sticky. -/
def Exact.add (x y : Nat) : Nat := Exact.of ((Exact.val x).add (Exact.val y))

/-! ## Element formats of contributions, results and the wire (Table 6-2) -/

/-- A format code: a scalar, an MX block with the e_max of its elements, or a DX block with its element width and bias. -/
inductive FmtKind where
  | scalar (f : Fmt)
  | mx (f : Fmt) (emax : Int)
  | dxb (w : Nat) (bias : Int)
deriving DecidableEq, Repr

/-- The format of a code (Tables 6-2, 6-3, 6-4). -/
def fmtOf (c : Nat) : Option FmtKind :=
  match c with
  | 0x01 => some (.scalar Fmt.fp32)
  | 0x02 => some (.scalar ⟨5, 10, 15, 0⟩)
  | 0x03 => some (.scalar ⟨8, 7, 127, 0⟩)
  | 0x04 => some (.scalar ⟨4, 3, 7, 1⟩)
  | 0x05 => some (.scalar ⟨5, 2, 15, 0⟩)
  | 0x08 => some (.mx ⟨4, 3, 7, 1⟩ 8)
  | 0x09 => some (.mx ⟨5, 2, 15, 0⟩ 15)
  | 0x0A => some (.mx ⟨3, 2, 3, 2⟩ 4)
  | 0x0B => some (.mx ⟨2, 3, 1, 2⟩ 2)
  | 0x0C => some (.mx ⟨2, 1, 1, 2⟩ 2)
  | 0x10 => some (.dxb 8 133)
  | 0x11 => some (.dxb 6 131)
  | 0x12 => some (.dxb 4 129)
  | _ => none

/-- A code IN_FMT and OUT_FMT take (R162). -/
def Fmt.io (c : Nat) : Bool := 1 ≤ c && c ≤ 5 || 8 ≤ c && c ≤ 12
/-- A code WIRE_FMT takes (R162). -/
def Fmt.wire (c : Nat) : Bool := 0x10 ≤ c && c ≤ 0x12

/-- Element width of a block format; 0 for a scalar. -/
def FmtKind.block : FmtKind → Nat
  | .scalar _ => 0
  | .mx f _ => f.width
  | .dxb w _ => w

/-- Bytes of `n` elements (R163, R164). -/
def FmtKind.size (k : FmtKind) (n : Nat) : Nat :=
  match k with
  | .scalar f => n * f.width / 8
  | k =>
    let w := k.block
    n / 32 * (1 + 4 * w) + (if n % 32 = 0 then 0 else 1 + Bits.ceilDiv (n % 32 * w) 8)

/-- Bytes of `n` elements in a format code. -/
def fmtSize (c n : Nat) : Nat := ((fmtOf c).map fun k => k.size n).getD 0

/-- A number of `n` bytes from byte `a` of a partly received string. -/
def bytesAt (get : Nat → Option Byte) (a n : Nat) : Option Nat :=
  (List.range n).foldr (fun i acc => match get (a + i), acc with
    | some v, some r => some (v.toNat + 256 * r)
    | _, _ => none) (some 0)

/-- The value of element `i`, when its bytes have been received. -/
def FmtKind.elem (k : FmtKind) (get : Nat → Option Byte) (i : Nat) : Option Num :=
  let blockElem (w : Nat) : Option (Nat × Nat) :=
    let base := i / 32 * (1 + 4 * w)
    let bit := i % 32 * w
    let lo := bit / 8
    let hi := (bit + w - 1) / 8
    match bytesAt get base 1, bytesAt get (base + 1 + lo) (hi + 1 - lo) with
    | some s, some v => some (s, v / 2 ^ (bit % 8) % 2 ^ w)
    | _, _ => none
  match k with
  | .scalar f => (bytesAt get (i * f.width / 8) (f.width / 8)).map f.dec
  | .mx f _ => (blockElem f.width).map fun (s, c) =>
      if s = 255 then .nan
      else match f.dec c with
        | .fin a m e => .fin a m (e + s - 127)
        | x => x
  | .dxb w bias => (blockElem w).map fun (s, c) =>
      if c = 2 ^ (w - 1) then .nan else Num.ofInt (Bits.toInt w c) (s - bias)

/-- The values of `n` elements of a whole string. -/
def FmtKind.values (k : FmtKind) (bs : List Byte) (n : Nat) : List Num :=
  let a := bs.toArray
  (List.range n).map fun i => (k.elem (fun j => a[j]?) i).getD Num.zero

/-- Codes of `w` bits packed from bit 0 up (R163); the unused bits of the last byte are 0 (R164). -/
def packBits (w : Nat) (cs : List Nat) : List Byte :=
  Bits.leBytes (Bits.ceilDiv (cs.length * w) 8) (cs.foldr (fun c acc => c % 2 ^ w + 2 ^ w * acc) 0)

/-- A list in blocks of 32, the last one shorter; `k` bounds their number. -/
def blocksOf {α : Type} : Nat → List α → List (List α)
  | 0, _ => []
  | k + 1, l => if l.isEmpty then [] else l.take 32 :: blocksOf k (l.drop 32)

/-- The exponent of the leading bit of the largest finite non-zero value, if any. -/
def maxLog2 (xs : List Num) : Option Int := (xs.filterMap Num.log2?).max?

/-! ## Stochastic draw (R171) -/

/-- The mixing function of R171. -/
def Draw.mix (z : Nat) : Nat :=
  let m := 2 ^ 64
  let z := Nat.xor z (z / 2 ^ 30) * 0xBF58476D1CE4E5B9 % m
  let z := Nat.xor z (z / 2 ^ 27) * 0x94D049BB133111EB % m
  Nat.xor z (z / 2 ^ 31)

/-- A 16-bit draw: seed, collective, use (0 upward, 1 root, 2 output), tile and element. -/
def Draw.draw (seed coll use tile elem : Nat) : Nat :=
  let key := coll % 2 ^ 12 * 2 ^ 42 + use % 4 * 2 ^ 40 + tile % 2 ^ 24 * 2 ^ 16 + elem % 2 ^ 16
  Draw.mix (Nat.xor (seed % 2 ^ 64) key) / 2 ^ 48

/-! ## DX blocks (R172) -/

/-- What quantising one block gives: its exponent byte, its integers (none for the NaN code), and how many were limited. -/
structure QBlock where
  e   : Nat
  qs  : List (Option Int)
  sat : Nat
deriving DecidableEq, Repr

/-- A block quantised with a bias and a largest integer (R172, Table 6-4). -/
def quantBlock (bias : Int) (qmax : Nat) (draw : Nat → Option Nat) (xs : List Num) : QBlock :=
  let e : Nat := match maxLog2 xs with
    | none => 0
    | some l => (min (max (l + 127) 0) 255).toNat
  let q (x : Num × Nat) : Option (Nat × Bool) := match x.1 with
    | .fin a m ex => some (Num.steps m ex (e - bias) (draw x.2), a)
    | _ => none
  let rs := xs.zipIdx.map q
  ⟨e, rs.map fun r => r.map fun (n, a) => (let v : Int := (min n qmax : Nat); if a then -v else v),
    (rs.filter fun r => match r with | some (n, _) => decide (qmax < n) | none => false).length⟩

/-- The value of an integer of a block. -/
def QBlock.val (b : QBlock) (bias : Int) (q : Int) : Num := Num.ofInt q (b.e - bias)

/-- What quantising a tile to a DX block format gives: the wire bytes, the dequantised values (NaN for the NaN code), and the
counts of NaN codes, limited and zero elements. -/
structure Quant where
  bytes  : List Byte
  deq    : List Num
  nonfin : Nat
  qsat   : Nat
  zero   : Nat
deriving DecidableEq, Repr

/-- A tile quantised to DX blocks of element width `w` and bias `bias`. -/
def quantise (w : Nat) (bias : Int) (draw : Nat → Option Nat) (xs : List Num) : Quant :=
  let bs := (blocksOf xs.length xs).zipIdx.map fun (b, i) => quantBlock bias (2 ^ (w - 1) - 1) (fun j => draw (32 * i + j)) b
  let qs : List (Option Int) := bs.flatMap fun (b : QBlock) => b.qs
  { bytes := bs.flatMap fun b => BitVec.ofNat 8 b.e :: packBits w (b.qs.map fun q => match q with
      | some v => Bits.ofInt w v
      | none => 2 ^ (w - 1))
    deq := bs.flatMap fun b => b.qs.map fun q => match q with | some v => b.val bias v | none => .nan
    nonfin := (qs.filter (· == none)).length
    qsat := Bits.sum (bs.map (·.sat))
    zero := (qs.filter (· == some (0 : Int))).length }

/-! ## Residual blocks (R176) -/

/-- Bytes of a residual block of 32 elements at a width of 8 or 16 bits. -/
def Resid.block (bits : Nat) : Nat := if bits = 16 then 65 else 33
/-- The bias of a residual block. -/
def Resid.bias (bits : Nat) : Int := if bits = 16 then 141 else 133

/-- The residuals that blocks hold; the NaN code, which only software writes, reads as 0. -/
def Resid.decode (bits : Nat) (bs : List Byte) : List Num :=
  let e : Int := (bs.headD 0#8).toNat
  let w := bits / 8
  (List.range 32).map fun j =>
    let c := Bits.ofLe ((bs.drop (1 + w * j)).take w)
    if c = 2 ^ (bits - 1) then Num.zero else Num.ofInt (Bits.toInt bits c) (e - Resid.bias bits)

/-- A block of residuals stored, and how many were limited; a value that is not finite is stored as 0. -/
def Resid.encode (bits : Nat) (xs : List Num) : List Byte × Nat :=
  let xs := xs.map fun x => if x.finite then x else Num.zero
  let q := quantBlock (Resid.bias bits) (2 ^ (bits - 1) - 1) (fun _ => none) (xs ++ List.replicate (32 - xs.length) Num.zero)
  (BitVec.ofNat 8 q.e :: q.qs.flatMap fun v => Bits.leBytes (bits / 8) (Bits.ofInt bits (v.getD 0)), q.sat)

/-! ## Output (Table 6-4) -/

/-- What converting a tile to an output format gives: the bytes, the values written, and how many were limited. -/
structure Output where
  bytes : List Byte
  vals  : List Num
  osat  : Nat
deriving DecidableEq, Repr

/-- One MX block: the scale code, then the elements. -/
def mxBlock (f : Fmt) (emax : Int) (draw : Nat → Option Nat) (xs : List Num) : Output :=
  let s : Nat := match maxLog2 xs with
    | none => 127
    | some l => (min (max (l - emax + 127) 0) 254).toNat
  let down (x : Num) : Num := match x with
    | .fin a m e => .fin a m (e - s + 127)
    | x => x
  let cs := xs.zipIdx.map fun (x, i) =>
    if x = .nan ∧ f.kind = 2 then (Config.nanElem f.eb f.mb % 2 ^ f.width, false) else f.enc (draw i) true (down x)
  let bad := f.kind == 2 && xs.any (· == .nan)
  { bytes := BitVec.ofNat 8 (if bad then 255 else s) :: packBits f.width (cs.map Prod.fst)
    vals := if bad then xs.map fun _ => .nan else cs.map fun c => match f.dec c.1 with
      | .fin a m e => .fin a m (e + s - 127)
      | x => x
    osat := (cs.filter (·.2)).length }

/-- A tile converted to an output format under ROUND and SAT. -/
def FmtKind.output (k : FmtKind) (draw : Nat → Option Nat) (sat : Bool) (xs : List Num) : Output :=
  match k with
  | .scalar f =>
    let cs := xs.zipIdx.map fun (x, i) => f.enc (draw i) sat x
    ⟨cs.flatMap fun c => Bits.leBytes (f.width / 8) c.1, cs.map fun c => f.dec c.1, (cs.filter (·.2)).length⟩
  | .mx f emax =>
    let os := (blocksOf xs.length xs).zipIdx.map fun (b, i) => mxBlock f emax (fun j => draw (32 * i + j)) b
    ⟨os.flatMap (·.bytes), os.flatMap (·.vals), Bits.sum (os.map (·.osat))⟩
  | .dxb w bias =>
    let q := quantise w bias draw xs
    ⟨q.bytes, q.deq, q.qsat⟩

/-! ## Combiner programs (Tables 6-7, 6-8) -/

/-- Fields of an instruction. -/
def Comb.op (w : Nat) : Nat := Bits.fld w 31 26
/-- RD. -/
def Comb.rd (w : Nat) : Nat := Bits.fld w 25 23
/-- RA. -/
def Comb.ra (w : Nat) : Nat := Bits.fld w 22 20
/-- RB. -/
def Comb.rb (w : Nat) : Nat := Bits.fld w 19 17
/-- CI. -/
def Comb.ci (w : Nat) : Nat := Bits.fld w 16 13

/-- Fields an opcode uses: RD, RA, RB and CI; `none` for an opcode that is not in Table 6-8. -/
def Comb.uses (op : Nat) : Option (Bool × Bool × Bool × Bool) :=
  match op with
  | 0x00 | 0x3E | 0x3F => some (false, false, false, false)
  | 0x01 | 0x08 | 0x09 => some (true, true, false, false)
  | 0x02 | 0x03 | 0x04 | 0x05 | 0x06 | 0x07 | 0x0A | 0x10 => some (true, true, true, false)
  | 0x0B => some (true, false, false, true)
  | 0x0C => some (true, false, false, false)
  | 0x0D | 0x0E => some (false, true, true, false)
  | 0x0F | 0x11 => some (false, true, false, false)
  | _ => none

/-- An instruction word is one of Table 6-8 with its unused fields 0, allowed in its section (R189). -/
def Comb.wordOk (w : Nat) (acc weights : Bool) : Bool :=
  match Comb.uses (Comb.op w) with
  | none => false
  | some (d, a, b, c) =>
    w % 2 ^ 13 == 0 && (d || Comb.rd w == 0) && (a || Comb.ra w == 0) && (b || Comb.rb w == 0) && (c || Comb.ci w == 0) &&
    (if Comb.op w = 0x0C then acc && weights else if Comb.op w = 0x3E then acc else true)

/-- The machine of a section: eight FP32 registers, the predicate, the tile's norm, whether SKIP was taken and whether the
section has ended. -/
structure CombRun where
  r    : List Nat
  p    : Bool
  norm : Nat
  skip : Bool
  stop : Bool
  /-- instructions executed, END not counted (R190) -/
  slots : Nat
deriving DecidableEq, Repr

/-- minimumNumber and maximumNumber of IEEE 754-2019 on FP32 codes: −0 is below +0, and a NaN gives the other operand. -/
def F32.minMax (mx : Bool) (a b : Nat) : Nat :=
  let x := F32.val a
  let y := F32.val b
  if x = .nan then (if y = .nan then 0x7FC00000 else b)
  else if y = .nan then a
  else
    let less := x.lt y || x.eq y && x.sign && !y.sign
    if less = mx then b else a

/-- CLAMP: the first limited to the magnitude of the second. A NaN limit leaves the result open (log entry 17). -/
def F32.clamp (a b : Nat) : Nat :=
  let x := F32.val a
  let y := (F32.val b).abs
  if x = .nan then 0x7FC00000 else if y = .nan then (Config.clampNan a).toNat
  else if y.lt x then F32.of y else if x.lt y.neg then F32.of y.neg else a

/-- One instruction, with the constants and the contributor's weight. -/
def CombRun.exec (cs : List Nat) (weight : Nat) (w : Nat) (s : CombRun) : CombRun :=
  let a := s.r.getD (Comb.ra w) 0
  let b := s.r.getD (Comb.rb w) 0
  let put (v : Nat) : CombRun := { s with r := s.r.set (Comb.rd w) v }
  match Comb.op w with
  | 0x01 => put a
  | 0x02 => put (F32.add a b)
  | 0x03 => put (F32.of ((F32.val a).add (F32.val b).neg))
  | 0x04 => put (F32.mul a b)
  | 0x05 => put (F32.of (((F32.val a).mul (F32.val b)).add (F32.val (s.r.getD (Comb.rd w) 0))))
  | 0x06 => put (F32.minMax false a b)
  | 0x07 => put (F32.minMax true a b)
  | 0x08 => put (a % 2 ^ 31)
  | 0x09 => put (Nat.xor a (2 ^ 31))
  | 0x0A => put (F32.clamp a b)
  | 0x0B => put (cs.getD (Comb.ci w) 0)
  | 0x0C => put weight
  | 0x0D => { s with p := (F32.val a).lt (F32.val b) }
  | 0x0E => { s with p := (F32.val a).eq (F32.val b) }
  | 0x0F => { s with p := F32.val a == .nan }
  | 0x10 => put (if s.p then a else b)
  | 0x11 => { s with norm := F32.add s.norm (F32.mul a a) }
  | 0x3E => if s.p then { s with skip := true, stop := true } else s
  | 0x3F => { s with stop := true }
  | _ => s

/-- A section run on an element: the machine when it ends. -/
def Comb.run (cs : List Nat) (weight : Nat) (is : List Nat) (x norm : Nat) : CombRun :=
  is.foldl (fun s w => if s.stop then s else { s.exec cs weight w with slots := s.slots + if Comb.op w = 0x3F then 0 else 1 })
    { r := x :: List.replicate 7 0, p := false, norm := norm, skip := false, stop := false, slots := 0 }

end Sys2Proof.Machine
end

