-- ==== Sys2Proof/Machine/Ce.lean ====
section
/-! DEFINITION. The collective engine's objects (chapters 5 and 6): edges, trees, residual regions, combiner programs, the
checks of a collective descriptor, and the commands that set them up or report them. -/

namespace Sys2Proof.Machine

/-- The block with its CE changed. -/
def Block.onCe (f : CeState → CeState) (b : Block) : Block := { b with ce := f b.ce }

/-! ## Edges and trees -/

/-- KIND of an edge: 0 none, 1 line, 2 fabric. -/
def Edge.kind (e : Nat) : Nat := Bits.fld e 31 30
/-- The peer gateway of a line edge: [15:12] site, [11:0] gateway. -/
def Edge.peer (e : Nat) : Nat := e % 2 ^ 16
/-- The job number at the peer of a line edge. -/
def Edge.job (e : Nat) : Nat := Bits.fld e 25 16
/-- The rank of a fabric edge. -/
def Edge.rank (e : Nat) : Nat := e % 2 ^ 24

/-- An edge has a defined kind and no reserved bit. -/
def Edge.ok (e : Nat) : Bool :=
  match Edge.kind e with
  | 0 => e == 0
  | 1 => Bits.fld e 29 26 == 0
  | 2 => Bits.fld e 29 24 == 0
  | _ => false

/-- A line edge whose gateway PEER_KEYX has not authenticated (R135). -/
def Block.edgeUnauth (b : Block) (e : Nat) : Bool := Edge.kind e == 1 && !(b.peerGw.any fun p => p.2 == Edge.peer e)

/-- This gateway's site and number (SEC_GW). -/
def Block.gw (b : Block) : Nat := b.fld R.secGw 15 0
/-- This gateway's site. -/
def Block.site (b : Block) : Nat := b.gw / 4096

/-- A tree has site `s` below a child with mask `m`. -/
def Site.has (m s : Nat) : Bool := s < 16 && Bits.bit m s

/-- The tree descriptor at an address. -/
def Block.treeDesc (b : Block) (a job : Nat) : Tree :=
  let f := b.d a
  { job := job, dir := f 0 1, role := f 1 1, depth := f 2 1, parent := f 4 4, relayTo := f 8 4, rttUs := f 12 4,
    rootSite := f 16 1 % 16, sites := f 18 2,
    children := (List.range (min (f 3 1) 4)).map fun i => (f (24 + 8 * i) 4, f (28 + 8 * i) 2) }

/-- What breaks Table 5-2 or R135 in the tree descriptor at an address: its offset, in the order of the rule. -/
def Block.treeBad (b : Block) (a : Nat) : Option Nat :=
  let f := b.d a
  let t := b.treeDesc a 0
  let n := f 3 1
  let ix := List.range (min n 4)
  let edge (i : Nat) : Nat := f (24 + 8 * i) 4
  let mask (i : Nat) : Nat := f (28 + 8 * i) 2
  let kids (p : Nat → Bool) (o : Nat) : List (Nat × Bool) := ix.map fun i => (o + 8 * i, p i)
  let layout := Req.firstBad (([(0, 1 < f 0 1), (1, f 1 1 != 1 && f 1 1 != 2), (2, f 2 1 == 0 || 15 < f 2 1), (3, 4 < n),
    (4, !Edge.ok t.parent), (8, !Edge.ok t.relayTo), (16, 16 ≤ f 16 1), (17, f 17 1 != 0), (20, f 20 4 != 0)] : List (Nat × Bool)) ++
    ix.flatMap (fun i => [(24 + 8 * i, Edge.kind (edge i) == 0 || !Edge.ok (edge i)), (30 + 8 * i, f (30 + 8 * i) 2 != 0)]) ++
    [(56, f 56 8 != 0)])
  [layout,
    Req.firstBad [(4, t.role == 2 && t.parent != 0), (8, t.role == 2 && Edge.kind t.relayTo != 2)],
    Req.firstBad [(8, t.role == 1 && t.relayTo != 0)],
    Req.firstBad ((4, b.edgeUnauth t.parent) :: kids (fun i => b.edgeUnauth (edge i)) 24),
    Req.firstBad (kids (fun i => ix.any fun j => j != i && Nat.land (mask i) (mask j) != 0) 28),
    Req.firstBad (kids (fun i => Site.has (mask i) b.site) 28),
    Req.firstBad [(18, ix.any fun i => Nat.land (mask i) t.sites != mask i)],
    Req.firstBad [(16, !Site.has t.sites t.rootSite)]].findSome? id

/-- TREE_SET (R134, R135). -/
def Ce.treeSet (id : Nat) (r : Req) (b : Block) : Block :=
  Ci.check8 id r [(16, badAddr r.a0 r.a1 64), (24, r.a1 != 64), (28, r.nz 28 4), (32, r.nz 32 32)] (fun b =>
    let b := b.readCount r.a0 64
    match b.treeBad r.a0 with
    | some o => b.badDesc id o
    | none => match AMap.freeKey b.ce.trees 0 8192 with
      | none => b.done id St.noResource 5
      | some h => (b.onCe fun c => { c with trees := AMap.set c.trees h (b.treeDesc r.a0 (b.cmdJob r)) }).ok id h) b

/-! ## Geometry of a collective -/

/-- Key of a collective. -/
def Coll.keyOf (job cid : Nat) : Nat := job * 4096 + cid

/-- Tiles of a collective. -/
def Coll.ntiles (c : Coll) : Nat := if c.a2a.isSome then 0 else Bits.ceilDiv c.elems (2 ^ c.log2)

/-- Elements of a tile; the last one may be shorter. -/
def Coll.n (c : Coll) (t : Nat) : Nat := min (2 ^ c.log2) (c.elems - t * 2 ^ c.log2)

/-- The tree of a tile: 0 tree A, 1 tree B. -/
def Coll.treeNo (c : Coll) (t : Nat) : Nat := if t < c.split then 0 else 1

/-- A tree of a collective. -/
def Coll.tree (c : Coll) (k : Nat) : Tree := c.trees.getD k ⟨0, 0, 0, 0, 0, 0, 0, 0, 0, []⟩

/-- The line class of a tree's tiles (R48). -/
def Coll.cls (c : Coll) (k : Nat) : Nat := if c.scav then 7 else 2 + k

/-- The site that holds a tile, by the boundaries of SITE_TABLE; 16 for none. -/
def Coll.tileSite (c : Coll) (t : Nat) : Nat := (c.bounds.findIdx? fun u => t < u).getD 16

/-- This gateway is the tree's root. -/
def Tree.isRoot (t : Tree) : Bool := t.role == 1 && Edge.kind t.parent == 0

/-- A relay's line edge toward the root, if it has one: the child whose mask holds the root's site. -/
def Tree.upEdge (t : Tree) : Option (Nat × Nat) := t.children.find? fun c => Edge.kind c.1 == 1 && Site.has c.2 t.rootSite

/-- Sites below this gateway as a relay sees them: for a relay that faces the root, all but those beyond its line edge. -/
def Tree.below (t : Tree) (s : Nat) : Bool :=
  match t.upEdge with
  | some (_, m) => Site.has t.sites s && !Site.has m s
  | none => t.children.any fun c => Site.has c.2 s

/-- The tile has a level-1 part at this gateway (Table 5-4). -/
def Coll.hasL1 (c : Coll) (site t : Nat) : Bool :=
  let tr := c.tree (c.treeNo t)
  tr.role == 1 && !c.contrib.isEmpty &&
    (c.op == 1 || c.op == 2 || c.op == 3 && c.tileSite t == site || c.op == 4 && tr.isRoot)

/-- The child edges, by number, whose partial an owner needs of a tile (R146, Table 5-4). -/
def Coll.needKids (c : Coll) (t : Nat) : List Nat :=
  let tr := c.tree (c.treeNo t)
  if tr.role ≠ 1 then []
  else (tr.children.zipIdx.filter fun (k, _) => Nat.land k.2 tr.sites != 0 &&
    (c.op == 1 || c.op == 2 || c.op == 3 && Site.has k.2 (c.tileSite t))).map (·.2)

/-- The tile goes upward through this gateway. -/
def Coll.goesUp (c : Coll) (site t : Nat) : Bool :=
  let tr := c.tree (c.treeNo t)
  if tr.role = 1 then !tr.isRoot && (c.op == 1 || c.op == 2 || c.op == 3 && (c.hasL1 site t || !(c.needKids t).isEmpty))
  else c.op == 1 || c.op == 2 || c.op == 3 && tr.below (c.tileSite t)

/-- The tile's result comes to this gateway. -/
def Coll.comesDown (c : Coll) (site t : Nat) : Bool :=
  let tr := c.tree (c.treeNo t)
  if tr.role = 1 then tr.isRoot || c.op != 2 || c.tileSite t == site || tr.children.any fun k => Site.has k.2 (c.tileSite t)
  else c.op != 2 || tr.below (c.tileSite t)

/-- The child edges a result goes down on (Table 5-4). -/
def Coll.downEdges (c : Coll) (t : Nat) : List Nat :=
  let tr := c.tree (c.treeNo t)
  (tr.children.filter fun k => Nat.land k.2 tr.sites != 0 && (c.op != 2 || Site.has k.2 (c.tileSite t))).map (·.1)

/-- The default deadline of tiles of a tree, or the override. -/
def Coll.tmo (c : Coll) (k : Nat) : Time :=
  if c.tmoMs ≠ 0 then c.tmoMs * 8000000 else (c.tree k).depth * 3 * (c.tree k).rttUs * 8000 + 160000000

/-- The collective that an in-flight command runs. -/
def Block.collOf (b : Block) (id : Nat) : Option Coll := (b.ce.colls.find? fun e => e.2.id == id).map (·.2)

/-- A running collective. -/
def Block.coll (b : Block) (key : Nat) : Option Coll := AMap.get? b.ce.colls key

/-- The block with a collective changed. -/
def Block.modColl (key : Nat) (f : Coll → Coll) (b : Block) : Block := b.onCe fun c => { c with colls := AMap.adjust c.colls key f }

/-- The block with a tile context changed. -/
def Block.modTile (key t : Nat) (f : TileCtx → TileCtx) (b : Block) : Block :=
  b.modColl key fun c => { c with tiles := AMap.adjust c.tiles t f }

/-- Tile contexts in use, early ones among them (CE_TILE_ACTIVE). -/
def Block.tileActive (b : Block) : Nat :=
  Bits.sum (b.ce.colls.map fun e => e.2.tiles.length) + ((b.ce.early.map fun e => (e.job, e.cid, e.tile)).eraseDups).length

/-- Tile contexts on chip (CE_TILE_ONCHIP). -/
def Block.tileOnChip (b : Block) : Nat := b.tileActive - Bits.sum (b.ce.colls.map fun e => (e.2.tiles.filter fun t => t.2.paged).length)

/-! ## Residual regions -/

/-- Bytes of one array of a region (R177). -/
def Resid.array (bits elems : Nat) : Nat := Bits.ceilDiv elems 32 * Resid.block bits

/-- Bytes of a region, the gap before the downward array included (R177). -/
def Resid.bytes (bits elems dirs : Nat) : Nat :=
  (if dirs = 3 then Bits.ceilDiv (Resid.array bits elems) 4096 * 4096 else 0) + Resid.array bits elems

/-- The address of the upward or the downward array of a region. -/
def Resid.base (r : Resid) (up : Bool) : Nat :=
  if up || r.dirs != 3 then r.addr else r.addr + Bits.ceilDiv (Resid.array r.bits r.elems) 4096 * 4096

/-- Bytes of the residual regions (CE_RESID_BYTES). -/
def Block.residBytes (b : Block) : Nat := Bits.sum (b.ce.resids.map fun e => e.2.size)

/-- The highest aligned address at which a region of `n` bytes fits in the residual area: below the top of memory, or below an
allocated region (R503). -/
def Block.residPlace (b : Block) (n : Nat) : Option Nat :=
  let low := b.memTop - b.bm.residGib * gib
  let tops := b.memTop :: b.ce.resids.map fun e => e.2.addr
  let cand := (tops.filter (n ≤ ·)).map fun t => (t - n) / 4096 * 4096
  let ok (a : Nat) : Bool := low ≤ a && a + n ≤ b.memTop && b.ce.resids.all fun e => a + n ≤ e.2.addr || e.2.addr + e.2.size ≤ a
  (cand.filter ok).max?

/-- The 4,096-byte pages of a new region read 0 from now on (R178). -/
def Block.zeroRange (a len : Nat) (b : Block) : Block :=
  let n := Bits.ceilDiv len 4096 * 4096
  { b with
    dram := b.dram.filter fun (c : Nat × Byte) => c.1 < a || a + n ≤ c.1
    mc := { b.mc with poison := b.mc.poison.filter fun u => 32 * u < a || a + n ≤ 32 * u } }

/-- RESIDUAL_ALLOC (R175, R177, R178, R503). -/
def Ce.residAlloc (id : Nat) (r : Req) (b : Block) : Block :=
  let elems := r.u 32 8
  let dirs := r.u 40 1
  Ci.check8 id r [(16, r.nz 16 8), (24, r.nz 24 4), (28, r.nz 28 4), (32, elems == 0 || 2 ^ 40 < elems), (40, dirs == 0 || 4 ≤ dirs), (41, r.nz 41 23)] (fun b =>
    let job := b.cmdJob r
    let bits := if (b.job job).wide then 16 else 8
    let n := Resid.bytes bits elems dirs
    if b.bm.residGib * gib < b.residBytes + n ∨ b.stagingSize < 32 * gib + b.memLost * frameB then b.done id St.noResource 1
    else match b.residPlace n with
      | none => b.done id St.noResource 1
      | some a => match AMap.freeKey b.ce.resids 0 (2 ^ 32 - 1) with
        | none => b.done id St.noResource 1
        | some h =>
          let b := (b.zeroRange a n).onCe fun c => { c with resids := AMap.set c.resids h ⟨job, elems, dirs, bits, a, n⟩ }
          b.complete id ⟨St.ok, 0, 0, n, h + 2 ^ 32 * (a / 4096)⟩) b

/-- RESIDUAL_FREE (R179). -/
def Ce.residFree (id : Nat) (r : Req) (b : Block) : Block :=
  Ci.check8 id r [(16, r.nz 16 8), (24, r.nz 24 4), (32, r.nz 32 32)] (fun b =>
    match AMap.get? b.ce.resids r.a2 with
    | none => b.done id St.notOwner 0
    | some x =>
      if x.job ≠ b.cmdJob r then b.done id St.notOwner 0
      else if b.ce.colls.any fun e => e.2.resid == some r.a2 then b.done id St.state 1
      else (b.onCe fun c => { c with resids := AMap.erase c.resids r.a2 }).ok id x.size) b

/-- The residuals of elements of an array from index `first`, a block boundary, on (R176, R178, R182): a block whose read is
poisoned counts as 0 and is counted. -/
def Block.residRead (r : Resid) (up : Bool) (first n : Nat) (b : Block) : List Num × Block :=
  let sz := Resid.block r.bits
  let blocks := List.range (Bits.ceilDiv n 32)
  let addr (i : Nat) : Nat := r.base up + (first / 32 + i) * sz
  let bad := (blocks.filter fun i => b.rangePoison (addr i) sz).length
  let xs := blocks.flatMap fun i =>
    if b.rangePoison (addr i) sz then List.replicate 32 Num.zero else Resid.decode r.bits (b.dxBytes (addr i) sz)
  (xs.take n, b.bumpN R.ceRpoisonCnt bad)

/-- The residuals of elements written back; limited ones are counted (R176, R181). -/
def Block.residWrite (r : Resid) (up : Bool) (first : Nat) (xs : List Num) (b : Block) : Block :=
  let sz := Resid.block r.bits
  (blocksOf xs.length xs).zipIdx.foldl (fun b (blk, i) =>
    let (bs, sat) := Resid.encode r.bits blk
    (b.dxWrite (r.base up + (first / 32 + i) * sz) bs).bumpN R.ceRsatCnt sat) b

/-! ## Combiner programs -/

/-- The first offset of an image that breaks Table 6-7 or R189. -/
def Block.combBad (b : Block) (a len : Nat) : Option Nat :=
  let f := b.d a
  let n := f 1 1
  let fin := f 2 1
  let w := f 3 1 == 1
  let word (i : Nat) : Nat := f (80 + 4 * i) 4
  let ends (lo hi : Nat) (i : Nat) : Bool := lo ≤ i && i < hi && ((Comb.op (word i) == 0x3F) != (i + 1 == hi))
  [Req.firstBad [(0, f 0 1 != 1), (1, 64 < n), (2, n < fin), (3, 1 < f 3 1 || (f 3 1 == 1) != (len == 4432)), (4, f 4 8 + f 12 4 != 0)],
    Req.firstBad ((List.range 64).map fun i => (80 + 4 * i,
      if n ≤ i then word i != 0 else !Comb.wordOk (word i) (i < fin) w || ends 0 fin i || ends fin n i))].findSome? id

/-- The program of an image at an address. -/
def Block.combImage (b : Block) (a job : Nat) : Prog :=
  let f := b.d a
  let n := f 1 1
  let fin := f 2 1
  let word (i : Nat) : Nat := f (80 + 4 * i) 4
  { job := job, acc := (List.range fin).map word, fin := (List.range (n - fin)).map fun i => word (fin + i),
    consts := (List.range 16).map fun i => f (16 + 4 * i) 4,
    weights := if f 3 1 = 1 then (List.range 1024).map fun i => f (336 + 4 * i) 4 else [] }

/-- COMBINER_LOAD (R188, R189). -/
def Ce.combinerLoad (id : Nat) (r : Req) (b : Block) : Block :=
  Ci.check8 id r [(16, badAddr r.a0 r.a1 64), (24, r.a1 != 336 && r.a1 != 4432), (32, r.nz 32 32)] (fun b =>
    let b := b.readCount r.a0 r.a1
    let job := b.cmdJob r
    let new := r.a2 == 0xFFFFFFFF
    let old := AMap.get? b.ce.progs r.a2
    if !new && !(old.any fun p => p.job == job) then b.badParam id 28
    else match b.combBad r.a0 r.a1 with
    | some o => b.badDesc id o
    | none =>
      let free := b.d r.a0 1 1 == 0
      if new && free then b.badDesc id 1
      else if !new && b.ce.colls.any (fun e => e.2.comb == some r.a2) then b.done id St.state 1
      else if free then (b.onCe fun c => { c with progs := AMap.erase c.progs r.a2 }).ok id r.a2
      else match (if new then AMap.freeKey b.ce.progs 0 256 else some r.a2) with
        | none => b.done id St.noResource 5
        | some h => (b.onCe fun c => { c with progs := AMap.set c.progs h (b.combImage r.a0 job) }).ok id h) b

/-! ## Statistics -/

/-- A record with nothing counted. -/
def CollStats.zero : CollStats := ⟨0, 0, 0, 0, 0, 0, 0, 0, 0, 0, 0, 0, 0, 0⟩

/-- The binary64 of an exact total, rounded once (R184). -/
def Exact.f64 (x : Nat) : Nat := (Fmt.fp64.enc none false (Exact.val x)).1

/-- The statistics record (Table 6-6). -/
def CollStats.record (s : CollStats) : List Byte :=
  Bits.leBytes 8 s.upElems ++ Bits.leBytes 8 s.upNonfin ++ Bits.leBytes 8 s.upQsat ++ Bits.leBytes 8 s.upZero ++
  Bits.leBytes 8 (Exact.f64 s.upSumsq) ++ Bits.leBytes 8 (Exact.f64 s.upErrsq) ++ Bits.leBytes 4 s.upMaxabs ++ Bits.leBytes 4 0 ++
  Bits.leBytes 8 s.resElems ++ Bits.leBytes 8 s.resNonfin ++ Bits.leBytes 8 s.resOsat ++ Bits.leBytes 8 (Exact.f64 s.resSumsq) ++
  Bits.leBytes 4 s.resMaxabs ++ Bits.leBytes 4 0 ++ Bits.leBytes 8 (Exact.f64 s.norm) ++ Bits.leBytes 8 s.digest ++ Bits.leBytes 16 0

/-- The sum of squares of values, in FP32 and in element order (R184). -/
def F32.sumsq (xs : List Nat) : Nat := xs.foldl (fun s x => F32.add s (F32.mul x x)) 0

/-- STATS_READ (R183). -/
def Ce.statsRead (id : Nat) (r : Req) (b : Block) : Block :=
  Ci.check8 id r [(16, badAddr r.a0 r.a1 64), (24, r.a1 < 128), (28, 4096 ≤ r.a2), (32, r.nz 32 32)] (fun b =>
    let key := Coll.keyOf (b.cmdJob r) r.a2
    let s := match b.coll key with
      | some c => if Bits.bit c.flags 3 then some { c.stats with digest := c.digest } else none
      | none => AMap.get? b.ce.stats key
    match s with
    | none => b.badParam id 28
    | some s => (b.dxWrite r.a0 s.record).ok id 128) b

/-- COLL_QUERY: the tiles handled of a running or ended collective. An unknown one completes as COLL_ABORT does (R160). -/
def Ce.collQuery (id : Nat) (r : Req) (b : Block) : Block :=
  Ci.check8 id r [(16, r.nz 16 8), (24, r.nz 24 4), (28, 4096 ≤ r.a2), (32, r.nz 32 32)] (fun b =>
    let key := Coll.keyOf (b.cmdJob r) r.a2
    match b.coll key with
    | some c => b.ok id c.handled.length
    | none => match AMap.get? b.ce.fin key with
      | some (_, n) => b.ok id n
      | none => b.done id St.state 3) b

/-! ## The checks of a collective descriptor -/

/-- A peer is a line edge in both trees with the same part in both (R136). -/
def Tree.crossed (x y : Tree) : Bool :=
  let par (t : Tree) (e : Nat) : Bool := Edge.kind t.parent == 1 && Edge.peer t.parent == Edge.peer e
  let kid (t : Tree) (e : Nat) : Bool := t.children.any fun c => Edge.kind c.1 == 1 && Edge.peer c.1 == Edge.peer e
  (Edge.kind x.parent == 1 && par y x.parent) || x.children.any fun c => Edge.kind c.1 == 1 && kid y c.1

/-- The region lacks an array or elements that this gateway quantises (R180). -/
def Resid.short (r : Resid) (x y : Tree) (split log2 elems : Nat) : Bool :=
  let cut := min (split * 2 ^ log2) elems
  let a := x.role == 1 && cut != 0
  let bb := y.role == 1 && cut < elems
  let f0 := if x.role = 1 then 0 else split * 2 ^ log2
  let top := if bb then elems else if a then cut else f0
  (a && !x.isRoot || bb && !y.isRoot) && !Bits.bit r.dirs 0 || (a && x.isRoot || bb && y.isRoot) && !Bits.bit r.dirs 1 || r.elems < top - f0

/-- What breaks Table 5-6 or R152 in the all-to-all table at an address. -/
def Block.a2aBad (b : Block) (a : Nat) : Bool :=
  let f := b.d a
  let mode := f 0 1
  let rng (s : Nat) : Nat := f (80 + 8 * s) 8
  let valid (s : Nat) : Bool := Bits.bit (rng s) 63
  let route (s : Nat) : Nat := f (16 + 4 * s) 4
  let amt (s : Nat) : Bool := f (208 + 4 * s) 4 != 0 || f (272 + 4 * s) 4 != 0
  2 < mode || f 1 7 != 0 || f 336 48 != 0 || !valid b.site ||
  (List.range 16).any fun s =>
    !Edge.ok (route s) || Bits.fld (rng s) 62 48 != 0 ||
    (if s = b.site ∨ !valid s then route s != 0 else route s == 0) || amt s && (mode != 1 || !valid s)

/-- The trees of a descriptor, those that are the job's. -/
def Block.jobTree (b : Block) (job h : Nat) : Option Tree := (AMap.get? b.ce.trees h).bind fun t => if t.job = job then some t else none

/-- What breaks R136 to R138, R152, R162, R180 or R187 in the collective descriptor at an address: its offset, in the order of
the rules. -/
def Block.collBad (b : Block) (a job : Nat) : Option Nat :=
  let f := b.d a
  let op := f 0 1
  let a2a := op == 5
  let fmtBad (o : Nat) (ok : Nat → Bool) : Bool := if a2a then f o 1 != 0 else !ok (f o 1)
  let rnd := f 5 1
  let lg := f 6 1
  let elems := f 8 8
  let n := f 30 2
  let ca := f 32 8
  let x := b.jobTree job (f 16 4)
  let y := b.jobTree job (f 20 4)
  let z : Tree := ⟨0, 0, 0, 0, 0, 0, 0, 0, 0, []⟩
  let hasRes := f 44 4 != 0xFFFFFFFF
  let res := AMap.get? b.ce.resids (f 44 4)
  let hasComb := f 40 4 != 0xFFFFFFFF
  let table := op == 2 || op == 3 || a2a
  let ta := f 64 8
  let cBad := n != 0 && (!inDx ca (4 * n) || (List.range n).any fun i => b.dxN (ca + 4 * i) 4 / 2 ^ 24 != 0)
  let m := AMap.get? b.fif.masks (f 28 2 % 4096)
  [Req.firstBad [(0, op == 0 || 5 < op), (1, 16 ≤ f 1 1), (2, fmtBad 2 Fmt.io), (3, fmtBad 3 Fmt.io), (4, fmtBad 4 Fmt.wire),
      (5, if a2a then rnd != 0 else 1 < rnd % 16 || 32 ≤ rnd), (6, lg < 10 || 16 < lg), (7, f 7 1 != 0), (8, elems == 0 || 2 ^ 40 < elems),
      (16, a2a && f 16 4 != 0xFFFFFFFF), (20, a2a && f 20 4 != 0xFFFFFFFF), (28, 4096 ≤ f 28 2), (30, 1024 < n), (32, n ≤ 1024 && cBad),
      (56, 10000 < f 56 4), (60, f 60 4 != 0), (72, f 72 56 != 0)],
    Req.firstBad [(16, !a2a && x.isNone), (20, !a2a && y.isNone)],
    Req.firstBad [(16, x.any fun t => t.dir != 0), (20, y.any fun t => t.dir != 1)],
    Req.firstBad [(16, op == 4 && (x.getD z).rootSite != (y.getD z).rootSite)],
    Req.firstBad [(44, hasRes && op != 1 && op != 2)],
    Req.firstBad [(4, 49152 < fmtSize (f 4 1) (2 ^ lg))],
    Req.firstBad [(28, !(m.any fun e => e.valid && e.job == job))],
    Req.firstBad [(6, 2 ^ 24 < Bits.ceilDiv elems (2 ^ lg))],
    Req.firstBad [(64, if table then badAddr ta (if a2a then 384 else 64) 64 else ta != 0)],
    Req.firstBad [(20, !a2a && (x.getD z).crossed (y.getD z))],
    Req.firstBad [(40, hasComb && ((op != 1 && op != 2) || !((AMap.get? b.ce.progs (f 40 4)).any fun p => p.job == job)))],
    Req.firstBad [(44, hasRes && !(res.any fun e => e.job == job))],
    Req.firstBad [(44, hasRes && res.any fun e => e.short (x.getD z) (y.getD z) (f 24 4) lg elems)],
    Req.firstBad [(64, a2a && b.a2aBad ta)]].findSome? id

/-- The collective a descriptor at an address starts. -/
def Block.collDesc (b : Block) (id : Nat) (r : Req) : Coll :=
  let a := r.a0
  let f := b.d a
  let job := b.cmdJob r
  let a2a := f 0 1 == 5
  let ta := f 64 8
  let opt (v : Nat) : Option Nat := if v = 0xFFFFFFFF then none else some v
  { id := id, job := job, cid := r.a2, op := f 0 1, flags := f 1 1, inFmt := f 2 1, outFmt := f 3 1, wireFmt := f 4 1, round := f 5 1,
    log2 := f 6 1, elems := f 8 8, trees := if a2a then [] else [b.jobTree job (f 16 4), b.jobTree job (f 20 4)].filterMap (·),
    split := f 24 4, mask := f 28 2, contrib := (List.range (f 30 2)).map fun i => b.dxN (f 32 8 + 4 * i) 4, comb := opt (f 40 4),
    resid := opt (f 44 4), seed := f 48 8, localMs := f 56 4,
    bounds := if f 0 1 = 2 ∨ f 0 1 = 3 then (List.range 16).map fun s => b.dxN (ta + 4 * s) 4 else [],
    prio := r.u 32 1, tmoMs := r.u 36 4, scav := r.flagScav, start := b.now, state := 1, tiles := [], handled := [], stored := 0,
    digest := 0, digA := 0, digB := 0, sums := [], roots := [], told := [], latest := 0, stats := CollStats.zero,
    a2a := if a2a then
        let g := b.d ta
        some ⟨g 0 1, g 8 8, (List.range 16).map fun s => g (16 + 4 * s) 4, (List.range 16).map fun s => g (80 + 8 * s) 8,
          (List.range 16).map fun s => g (208 + 4 * s) 4, (List.range 16).map fun s => g (272 + 4 * s) 4, [], [], [], [], []⟩
      else none }

/-- The mask entry of a job is used by a running collective: that with the lowest collective ID (R95). -/
def Block.maskUser (b : Block) (idx : Nat) : Option Coll :=
  (b.ce.colls.filter fun e => e.2.mask == idx).foldl (fun (m : Option Coll) e =>
    match m with
    | some x => if e.2.cid < x.cid then some e.2 else m
    | none => some e.2) none

end Sys2Proof.Machine
end

