-- ==== Sys2Proof/Machine/CeRun.lean ====
section
/-! DEFINITION. The collective engine at work (chapters 5 and 6): how chunks and line messages reach tile contexts, how tiles are
accumulated, quantised, sent and multicast, and how collectives end. -/

namespace Sys2Proof.Machine

/-! ## Traces, failures and ends -/

/-- Master ID of the CE (Table 14-3). -/
abbrev ceMaster : Nat := 28

/-- A CE trace record (Table 17-8). -/
def Block.ceTrace (ev : Nat) (c : Coll) (t st : Nat) (b : Block) : Block :=
  b.trace 2 ev c.job (Bits.leBytes 2 c.cid ++ Bits.leBytes 4 t ++ Bits.leBytes 1 (c.treeNo t) ++ Bits.leBytes 2 st)

/-- The owner ID of a job's tile contexts (R60). -/
def Ce.owner (job : Nat) : Nat := Own.of job 3

/-- What is held for paged contexts and a test selects is discarded with its buffers. -/
def Block.dropHolds (gone : PageHold → Bool) (b : Block) : Block :=
  (b.ce.held.filter gone).foldl (fun b h => b.dropOwner h.buf (Ce.owner (h.key / 4096))) (b.onCe fun c => { c with held := c.held.filter fun h => !gone h })

/-- A tile context leaves: its buffer's ownership ends with it (R159). -/
def Block.tileDrop (key t : Nat) (b : Block) : Block :=
  match (b.coll key).bind fun c => AMap.get? c.tiles t with
  | none => b
  | some x =>
    let b := (b.modColl key fun c => { c with tiles := AMap.erase c.tiles t }).dropHolds fun h => h.key == key && h.tile == t
    match x.buf with
    | some h => b.dropOwner h (Ce.owner (key / 4096))
    | none => b

/-- The messages of a command that have not gone on the line leave with the buffers that hold them: streams of its collective `key` at the
compressor lanes, messages that wait to be sealed, and queued records that hold nothing else (R31, R159). -/
def Block.msgsDrop (key job id : Nat) (b : Block) : Block :=
  let mine (m : OutMsg) : Bool := m.cmd == some id
  let own (r : Sealed) : Bool := r.msgs.all mine
  let ins := b.cx.comp.flatMap fun e => (e.2.queue ++ e.2.busy.map Prod.fst).filter fun s => s.coll == key
  let outs := b.cx.comp.flatMap fun e => (e.2.busy.filter fun s => s.1.coll == key).map Prod.snd
  let msgs := b.outq.filter mine
  let recs := b.ss.queues.flatMap fun e => e.2.filter own
  let b := ins.foldl (fun b s => b.freeOut s.buf job 4) b
  let b := outs.foldl (fun b h => b.freeOut (some h) job 4) b
  let b := msgs.foldl (fun b m => (b.freeOut m.buf job 5).freeOut m.src job 5) b
  let b := recs.foldl (fun b r => b.freeOut r.buf job 7) b
  { b with
    cx := { b.cx with comp := b.cx.comp.map fun (e : Nat × CxLane) =>
      (e.1, { queue := e.2.queue.filter fun s => s.coll != key, busy := e.2.busy.filter fun s => s.1.coll != key }) }
    outq := b.outq.filter fun m => !mine m
    ss := { b.ss with queues := (b.ss.queues.map fun (e : Nat × List Sealed) => (e.1, e.2.filter fun r => !own r)).filter fun e => !e.2.isEmpty } }

/-- Everything a collective holds is discarded: contexts, buffers, tiles that wait for dispatch with the tokens held for them, messages and
chunks that wait (R31, R159). -/
def Block.collDrop (key : Nat) (b : Block) : Block :=
  match b.coll key with
  | none => b
  | some c =>
    let b := (c.tiles.map (·.1)).foldl (fun b t => b.tileDrop key t) b
    let mine (p : FabPkt) : Bool := p.job.toNat == c.job && p.addr.toNat / 2 ^ 36 == c.cid
    (b.msgsDrop key c.job c.id).onCe fun s => { s with
      colls := AMap.erase s.colls key
      tok := s.tok + Bits.sum ((s.items.filter fun i => i.coll == key).map (·.saved))
      items := s.items.filter fun i => i.coll != key
      wait := s.wait.filter fun p => !mine p }

/-- A collective ends with a status: its state and statistics are kept, its command completes, and COLL_FAILED is posted unless it
ended well (R154, R157, R183). `src` says that DETAIL counts in the collective descriptor. -/
def Block.collEnd (key st detail src : Nat) (b : Block) : Block :=
  match b.coll key with
  | none => b
  | some c =>
    let good := st == St.ok
    let b := b.collDrop key
    let b := b.onCe fun s => { s with
      fin := AMap.set s.fin key (if good then 3 else 5, c.handled.length)
      stats := if Bits.bit c.flags 3 then AMap.set s.stats key { c.stats with digest := c.digest } else s.stats }
    let b := if good then b.complete c.id ⟨St.ok, 0, 0, c.digest, c.handled.length + 2 ^ 32 * c.stored⟩
      else b.complete c.id ⟨st, detail, src, 0, 0⟩
    if good then b
    else b.event 0x20 2 c.job ceMaster (Bits.leBytes 2 c.cid ++ Bits.leBytes 2 st ++ Bits.leBytes 2 detail)

/-- A collective message of a kind for an edge (Table 5-5). -/
def Block.collMsg (b : Block) (c : Coll) (kind tree edge tile elems aux : Nat) (body : List Byte) : CollMsg :=
  { ckind := BitVec.ofNat 8 kind, flags := BitVec.ofNat 8 tree, job := BitVec.ofNat 16 (if Edge.kind edge = 1 then Edge.job edge else c.job),
    collId := BitVec.ofNat 16 c.cid, origin := BitVec.ofNat 16 b.gw, tile := BitVec.ofNat 32 tile, elems := BitVec.ofNat 32 elems,
    wireFmt := BitVec.ofNat 8 c.wireFmt, tileLog2 := BitVec.ofNat 8 c.log2, op := BitVec.ofNat 8 c.op, rsvd := 0,
    length := BitVec.ofNat 32 body.length, aux := BitVec.ofNat 64 aux, body := body }

/-- A DIGEST or ABORT goes over an edge: class 1 sub-queue 0 of the line (Table 9-2), or the fabric (log entry 18), where nothing is sent to a
rank that is not VALID (R82). The segments of a DIGEST are the command's, which waits for them (R154); an ABORT ends it. -/
def Block.sendCtrl (c : Coll) (kind tree edge tile aux : Nat) (b : Block) : Block :=
  let m := b.collMsg c kind tree edge tile 0 aux []
  if Edge.kind edge = 1 then b.lineSend c.job (Edge.peer edge) 1 0 (.coll m) (if kind = 5 then some c.id else none)
  else if Edge.kind edge = 2 ∧ (b.rankEntry c.job (Edge.rank edge)).isSome then b.emit (.edge c.job (Edge.rank edge) m) else b

/-- An edge through which a message can be sent now. -/
def Block.edgeReach (b : Block) (e : Nat) : Bool := Edge.kind e == 2 || Edge.kind e == 1 && !b.noPath.contains (Edge.peer e)

/-- The edges of a collective with their trees, each edge once: of both trees, or the routes of an all-to-all. -/
def Coll.edges (c : Coll) : List (Nat × Nat) :=
  let l : List (Nat × Nat) := match c.a2a with
    | some a => a.route.map fun e => (0, e)
    | none => c.trees.zipIdx.flatMap fun (x : Tree × Nat) => (x.1.parent :: x.1.relayTo :: x.1.children.map (·.1)).map fun e => (x.2, e)
  let l := l.filter fun e => Edge.kind e.2 != 0
  l.foldl (fun acc e => if acc.any fun x => x.2 == e.2 then acc else acc ++ [e]) []

/-- Two edges lead to the same neighbour. -/
def Edge.same (x y : Nat) : Bool :=
  Edge.kind x == Edge.kind y && (if Edge.kind x = 1 then Edge.peer x == Edge.peer y else Edge.rank x == Edge.rank y)

/-- A collective fails (R157, R159): ABORT goes over every edge that is still reachable but the one the failure came by, and the
command completes. FENCED replaces any status once the job is fenced. -/
def Block.collFail (key st detail src : Nat) (from_ : Option Nat) (b : Block) : Block :=
  match b.coll key with
  | none => b
  | some c =>
    let fenced := (b.job c.job).state == 1
    let st := if fenced then St.fenced else st
    let detail := if fenced then 0 else detail
    let es := c.edges.filter fun e => b.edgeReach e.2 && !(from_.any fun x => Edge.same x e.2)
    let b := es.foldl (fun b e => (b.sendCtrl c 6 e.1 e.2 0 (st + 2 ^ 16 * detail)).bump R.ceAbortCnt) b
    b.collEnd key st detail (if fenced then 0 else src)

/-- A DIGEST goes over an edge, or fails the collective when the edge is one of the fabric to a rank that is not VALID (R82). -/
def Block.sendDigest (key : Nat) (c : Coll) (tree edge tile aux : Nat) (b : Block) : Block :=
  if (b.coll key).isNone then b
  else if Edge.kind edge = 2 ∧ (b.rankEntry c.job (Edge.rank edge)).isNone then b.collFail key St.badParam 0 0 none
  else b.sendCtrl c 5 tree edge tile aux

/-- A tile fails: it is counted and its collective fails (R141, R156, R213, R214). -/
def Block.tileFail (key t st detail : Nat) (b : Block) : Block :=
  match b.coll key with
  | none => b
  | some c =>
    let b := (if st = St.timeout then b.bump R.ceTimeoutCnt else b).count c.job 1 16 1
    (b.ceTrace 4 c t st).collFail key st detail 0 none

/-! ## Tile contexts -/

/-- Tile contexts of the device, and those only draining work may use (R248). -/
abbrev tileCtxs : Nat := 2 ^ 22

/-- Bytes of the buffer of a tile context: the accumulators, or the wire bytes alone where nothing is accumulated (R141). -/
def Coll.bufBytes (c : Coll) (t : Nat) : Nat :=
  let acc := if (c.tree (c.treeNo t)).role = 1 then c.n t * (if Bits.bit c.flags 1 then 40 else 4) else 0
  max acc (max 1 (fmtSize c.wireFmt (c.n t)))

/-- A tile context with nothing in it. -/
def TileCtx.init (now : Time) (buf : Option Nat) : TileCtx :=
  ⟨[], 0, false, [], false, [], [], [], false, false, false, [], none, now, none, false, buf, 0⟩

/-- The lowest number that no tile context has (log entry 93). -/
def Block.tileIx (b : Block) : Nat :=
  let used := b.ce.colls.flatMap fun e => e.2.tiles.map fun x => x.2.ix
  ((List.range (used.length + 1)).find? fun i => !used.contains i).getD used.length

/-- The block with a context for a tile, if one exists or can be had (R142). -/
def Block.tileCtx? (key : Nat) (c : Coll) (t : Nat) (b : Block) : Option Block :=
  if (AMap.get? c.tiles t).isSome then some b
  else if tileCtxs - 16384 ≤ b.tileActive then none
  else (b.takeBuf (c.bufBytes t) (Ce.owner c.job)).map fun (b, h) =>
    (b.modColl key fun c => { c with tiles := AMap.set c.tiles t { TileCtx.init b.now (some h) with ix := b.tileIx } }).ceTrace 1 c t 0

/-- A tile's deadline starts, if it has not (R156). -/
def Block.startDeadline (key t : Nat) (b : Block) : Block :=
  b.modColl key fun c =>
    let d := b.now + c.tmo (c.treeNo t)
    match AMap.get? c.tiles t with
    | some x => if x.deadline.isSome then c
        else { c with tiles := AMap.set c.tiles t { x with deadline := some d }, latest := max c.latest d }
    | none => c

/-! ## Accumulation -/

/-- A term joins an accumulator: one FP32 addition, or exact (R165, R166). -/
def Coll.term (c : Coll) (a : Nat) (x : Num) : Nat := if Bits.bit c.flags 1 then Exact.add a (Exact.of x) else F32.add a (F32.of x)

/-- The program of a collective. -/
def Block.prog (b : Block) (c : Coll) : Option Prog := c.comb.bind fun h => AMap.get? b.ce.progs h

/-- The contribution element of a contributor by number becomes a term: as it is, or what the ACC section makes of it; with the
norm after it and the slots used (R187). -/
def Prog.accTerm (p : Option Prog) (k norm : Nat) (x : Num) : Option Num × Nat × Nat :=
  match p with
  | none => (some x, norm, 0)
  | some p =>
    if p.acc.isEmpty then (some x, norm, 0)
    else
      let s := Comb.run p.consts (p.weights.getD k 0) p.acc (F32.of x) norm
      (if s.skip then none else some (F32.val (s.r.getD 0 0)), s.norm, s.slots)

/-- Terms join the accumulators of a tile of `n` elements. -/
def Coll.addTerms (c : Coll) (n : Nat) (acc : List Nat) (xs : List (Nat × Num)) : List Nat :=
  let a := (if acc.isEmpty then List.replicate n 0 else acc).toArray
  (xs.foldl (fun (a : Array Nat) e => a.modify e.1 fun v => c.term v e.2) a).toList

/-- A byte of the chunks of one rank. -/
def chunkByte (m : List (Nat × Array Byte)) (a : Nat) : Option Byte := (List.lookup (a / 4096) m).bind fun v => v[a % 4096]?

/-- The elements of a contribution that a new chunk completes, in order: those with a byte in it whose every byte has come. -/
def Coll.chunkElems (_c : Coll) (fmt n : Nat) (parts : AMap (List Byte)) (k : Nat) (data : List Byte) : List (Nat × Num) :=
  match fmtOf fmt with
  | none => []
  | some f =>
    let m := (AMap.set parts k data).map fun (e : Nat × List Byte) => (e.1, e.2.toArray)
    let lo := 4096 * k
    let hi := lo + data.length
    let w := f.block
    let first := if w = 0 then lo * n / max 1 (f.size n) else lo / (1 + 4 * w) * 32
    let last := if w = 0 then Bits.ceilDiv (hi * n) (max 1 (f.size n)) else Bits.ceilDiv hi (1 + 4 * w) * 32
    let old := m.filter fun e => e.1 != k
    ((List.range (min last n - first)).map (· + first)).filterMap fun i =>
      match f.elem (chunkByte m) i with
      | some v => if (AMap.get? parts k).isNone && (f.elem (chunkByte old) i).isSome then none else some (i, v)
      | none => none

/-- The chunks of a rank are a whole string of a size: none is missing. -/
def chunksWhole (m : AMap (List Byte)) (size : Nat) : Bool :=
  let bs := m.map fun e => e.2
  (m.zipIdx.all fun (e, i) => e.1 == i && (i + 1 == m.length || e.2.length == 4096)) && Bits.sum (bs.map List.length) == size

/-! ## Sending over edges -/

/-- Chunks of a string, 4,096 bytes each but the last (R139). -/
def chunksOf (bs : List Byte) : AMap (List Byte) :=
  (List.range (max 1 (Bits.ceilDiv bs.length 4096))).map fun k => (k, (bs.drop (4096 * k)).take 4096)

/-- ADDR of a chunk (R139). -/
def Coll.addr (c : Coll) (t k : Nat) : Nat := c.cid * 2 ^ 36 + t * 2 ^ 12 + k

/-- Wire bytes go over a fabric edge as TILE_PUT chunks (R139, R146). The rank came from a tree descriptor: when it is not VALID, the
collective fails (R82). -/
def Block.tilePutTo (c : Coll) (rank t : Nat) (wire : List Byte) (b : Block) : Block :=
  if (b.rankEntry c.job rank).isNone then b.collFail (Coll.keyOf c.job c.cid) St.badParam 0 0 none
  else
  let ks := chunksOf wire
  ks.foldl (fun b e => (b.fabSend? c.job rank (c.cls (c.treeNo t)) 0x20 0 0 false (c.addr t e.1) e.2.length e.2 none (e.1 + 1 == ks.length)).getD b) b

/-- A tile's wire bytes go over an edge: at once over the fabric, and over the line when a dispatch slot takes them (R150). `kind`:
1 UP, 2 DOWN. -/
def Block.sendEdge (key : Nat) (c : Coll) (t kind e : Nat) (wire : List Byte) (b : Block) : Block :=
  if Edge.kind e = 2 then b.tilePutTo c (Edge.rank e) t wire
  else b.onCe fun s => { s with items := s.items ++ [⟨key, t, kind, e, wire, c.prio, 0, 0, 0⟩] }

/-! ## Quantising (R146, R181) -/

/-- The values of the accumulators of a tile, after the FIN section at the root; with the norm and the slots used. -/
def Block.finVals (b : Block) (c : Coll) (t : Nat) (x : TileCtx) : List Num × Nat × Nat :=
  let acc := if x.acc.isEmpty then List.replicate (c.n t) 0 else x.acc
  let vs := acc.map fun a => if Bits.bit c.flags 1 then Exact.val a else F32.val a
  match b.prog c with
  | none => (vs, x.norm, 0)
  | some p =>
    if p.fin.isEmpty || !(c.tree (c.treeNo t)).isRoot then (vs, x.norm, 0)
    else
      let (r, norm, slots) := vs.foldl (fun (acc : List Num × Nat × Nat) v =>
        let s := Comb.run p.consts 0 p.fin (F32.of v) acc.2.1
        (F32.val (s.r.getD 0 0) :: acc.1, s.norm, acc.2.2 + s.slots)) ([], x.norm, 0)
      (r.reverse, norm, slots)

/-- A tile's accumulators, with the stored residuals, become wire bytes; the new residuals are written and everything is counted
(R146, R147, R172, R174, R181, R184). -/
def Block.quantTile (key : Nat) (c : Coll) (t : Nat) (x : TileCtx) (b : Block) : List Byte × Block :=
  let root := (c.tree (c.treeNo t)).isRoot
  let exact := Bits.bit c.flags 1
  let n := c.n t
  let (vs, norm, slots) := b.finVals c t x
  let res := c.resid.bind fun h => AMap.get? b.ce.resids h
  let f0 := if (c.tree 0).role = 1 then 0 else c.split * 2 ^ c.log2
  let first := t * 2 ^ c.log2 - f0
  let (rs, b) := match res with
    | some r => b.residRead r (!root) first n
    | none => (List.replicate n Num.zero, b)
  let rnd (v : Num) : Num := if exact then v else F32.val (F32.of v)
  let xs := if res.isSome then List.zipWith (fun a r => rnd (a.add r)) vs rs else vs
  let draw (i : Nat) : Option Nat := if c.round % 16 = 1 then some (Draw.draw c.seed c.cid (if root then 1 else 0) t i) else none
  let (w, bias) := match fmtOf c.wireFmt with
    | some (.dxb w bias) => (w, bias)
    | _ => (8, 133)
  let q := quantise w bias draw xs
  let errs := List.zipWith (fun v d => rnd (v.add d.neg)) xs q.deq
  let b := match res with
    | some r => b.residWrite r (!root) first errs
    | none => b
  let b := ((b.bumpN R.ceNonfinCnt q.nonfin).bumpN R.ceQsatCnt q.qsat).bump64 R.ceQelemLo n
  let b := (b.count c.job 2 (24 + (c.wireFmt - 0x10)) n).count c.job 2 32 slots
  let xf := xs.map F32.of
  let b := if Bits.bit c.flags 3 then b.modColl key fun c => { c with stats := { c.stats with
      upElems := c.stats.upElems + n
      upNonfin := c.stats.upNonfin + q.nonfin
      upQsat := c.stats.upQsat + q.qsat
      upZero := c.stats.upZero + q.zero
      upSumsq := Exact.add c.stats.upSumsq (Exact.of (F32.val (F32.sumsq xf)))
      upErrsq := Exact.add c.stats.upErrsq (Exact.of (F32.val (F32.sumsq (errs.map F32.of))))
      upMaxabs := xf.foldl F32.maxAbs c.stats.upMaxabs
      norm := Exact.add c.stats.norm (Exact.of (F32.val norm)) } } else b
  (q.bytes, b)

/-! ## Results (R146, R147) -/

/-- The digest of a tile (R185). -/
def tileDigest (t n : Nat) (wire : List Byte) : Nat := (Crc.crc64 (Bits.leBytes 4 t ++ Bits.leBytes 4 n ++ wire)).toNat

/-- A result is converted to OUT_FMT and counted, at each owner and relay; with its bytes (R147, Tables 6-1, 6-4). -/
def Block.resultConv (key : Nat) (c : Coll) (t : Nat) (wire : List Byte) (b : Block) : List Byte × Block :=
  let n := c.n t
  match fmtOf c.wireFmt, fmtOf c.outFmt with
  | some wf, some f =>
    let draw (i : Nat) : Option Nat := if c.round % 16 = 1 then some (Draw.draw c.seed c.cid 2 t i) else none
    let o := f.output draw (Bits.bit c.round 4) (wf.values wire n)
    let b := (b.bumpN R.ceOsatCnt o.osat).count c.job 2 (12 + (c.outFmt - 1)) n
    let xf := o.vals.map F32.of
    let b := if Bits.bit c.flags 3 then b.modColl key fun c => { c with stats := { c.stats with
        resElems := c.stats.resElems + n
        resNonfin := c.stats.resNonfin + (o.vals.filter (· == .nan)).length
        resOsat := c.stats.resOsat + o.osat
        resSumsq := Exact.add c.stats.resSumsq (Exact.of (F32.val (F32.sumsq xf)))
        resMaxabs := xf.foldl F32.maxAbs c.stats.resMaxabs } } else b
    (o.bytes, b)
  | _, _ => ([], b)

/-- A result is for this gateway's site. -/
def Block.resultHere (b : Block) (c : Coll) (t : Nat) : Bool := c.op != 2 || c.tileSite t == b.site

/-- A result is converted and waits to be multicast (R147). -/
def Block.resultOut (key : Nat) (c : Coll) (t : Nat) (wire : List Byte) (b : Block) : Block :=
  let (bytes, b) := b.resultConv key c t wire
  (b.modTile key t fun x => { x with mc := chunksOf bytes }).ceTrace 3 c t 0

/-- A relay passes a result: it converts it and multicasts nothing, and counts it in the digest (R147, R154). -/
def Block.resultPass (key : Nat) (c : Coll) (t : Nat) (wire : List Byte) (b : Block) : Block :=
  let b := if b.resultHere c t then (b.resultConv key c t wire).2 else b
  b.modColl key fun c => { c with digest := (c.digest + tileDigest t (c.n t) wire) % 2 ^ 64 }

/-- An owner has a tile's result: it counts in the digests, is multicast where this site receives it, and goes down (R146, R147,
R154, R186). -/
def Block.result (key : Nat) (c : Coll) (t : Nat) (wire : List Byte) (b : Block) : Block :=
  let k := c.treeNo t
  let d := tileDigest t (c.n t) wire
  let here := b.resultHere c t
  let slot := 32 * k + (if c.op = 2 then c.tileSite t else 16)
  let b := b.modColl key fun c => { c with
    digest := if here then (c.digest + d) % 2 ^ 64 else c.digest
    digA := if here && k == 0 then (c.digA + d) % 2 ^ 64 else c.digA
    digB := if here && k == 1 then (c.digB + d) % 2 ^ 64 else c.digB
    sums := AMap.set c.sums slot ((AMap.getD c.sums slot 0 + d) % 2 ^ 64)
    roots := AMap.set c.roots k (AMap.getD c.roots k 0 + 1) }
  let b := if here then b.resultOut key c t wire else b
  let b := (c.downEdges t).foldl (fun b e => b.sendEdge key c t 2 e wire) b
  b.modTile key t fun x => { x with done_ := true }

/-- A tile has been sent upward (Table 17-8). -/
def Block.upSent (key : Nat) (c : Coll) (t : Nat) (b : Block) : Block :=
  (b.ceTrace 2 c t 0).modTile key t fun x => { x with sentUp := true }

/-- A tile becomes ready once its level-1 part is complete and every partial it needs has come (R146): it waits for a dispatch slot
to be quantised; a tile of an all-gather that came from below goes on in its wire form. -/
def Block.tileReady (key t : Nat) (b : Block) : Block :=
  match b.coll key with
  | none => b
  | some c => match AMap.get? c.tiles t with
    | none => b
    | some x =>
      let tr := c.tree (c.treeNo t)
      let l1 := c.hasL1 b.site t
      if tr.role ≠ 1 ∨ x.ready ∨ (l1 ∧ !x.level1) ∨ !(c.needKids t).all (x.kids.contains ·) ∨ !(tr.isRoot || c.goesUp b.site t) then b
      else if c.op = 3 ∧ !l1 then
        if x.wire.isEmpty then b
        else
          let b := b.modTile key t fun x => { x with ready := true }
          if tr.isRoot then b.result key c t x.wire
          else
            let b := b.sendEdge key c t 1 tr.parent x.wire
            if Edge.kind tr.parent = 2 then b.upSent key c t else b
      else
        (b.modTile key t fun x => { x with ready := true }).onCe fun s =>
          { s with items := s.items ++ [⟨key, t, 0, tr.parent, [], c.prio, 0, 0, 0⟩] }

/-! ## Wire bytes that arrive -/

/-- Where wire bytes come from, as this gateway's place in the tree has it (R140): a child by number, the parent, or for a relay its
owner or the line. -/
inductive Origin where
  | kid (i : Nat)
  | parent
  | owner
  | line
deriving DecidableEq, Repr

/-- The edge of a tree that a neighbour is: a line peer, or a fabric rank. -/
def Tree.origin (t : Tree) (line : Bool) (who : Nat) : Option Origin :=
  let hit (e : Nat) : Bool := if line then Edge.kind e == 1 && Edge.peer e == who else Edge.kind e == 2 && Edge.rank e == who
  if t.role = 2 then (if hit t.relayTo then some .owner else if t.children.any fun c => hit c.1 then some .line else none)
  else if hit t.parent then some .parent
  else (t.children.findIdx? fun c => hit c.1).map Origin.kid

/-- A partial joins the accumulators of a tile at its owner, or becomes the wire bytes of an all-gather (R165, Table 5-4). -/
def Block.partialIn (key : Nat) (c : Coll) (t i : Nat) (wire : List Byte) (b : Block) : Block :=
  let n := c.n t
  let b := if c.op = 3 then b.modTile key t fun x => { x with kids := x.kids ++ [i], wire := wire }
    else
      let vs := ((fmtOf c.wireFmt).map fun f => f.values wire n).getD []
      let b := (b.count c.job 2 (27 + (c.wireFmt - 0x10)) n).count c.job 2 (if Bits.bit c.flags 1 then 31 else 30) n
      b.modTile key t fun x => { x with kids := x.kids ++ [i], acc := c.addTerms n x.acc (vs.zipIdx.map fun e => (e.2, e.1)) }
  b.tileReady key t

/-- Wire bytes of a tile have arrived whole from a neighbour (R140, R146). -/
def Block.wireIn (key : Nat) (c : Coll) (t : Nat) (from_ : Origin) (wire : List Byte) (b : Block) : Block :=
  let tr := c.tree (c.treeNo t)
  let b := if c.hasL1 b.site t then b else b.startDeadline key t
  match from_, AMap.get? c.tiles t with
  | .kid i, some x => if x.kids.contains i then b.bump R.ceDupCnt else b.partialIn key c t i wire
  | .parent, some x => if x.done_ then b.bump R.ceDupCnt else b.result key c t wire
  | .owner, some _ =>
    match tr.upEdge with
    | some (e, _) => b.sendEdge key c t 1 e wire
    | none =>
      ((c.downEdges t).foldl (fun b e => b.sendEdge key c t 2 e wire) b).resultPass key c t wire
  | .line, some _ =>
    let b := b.tilePutTo c (Edge.rank tr.relayTo) t wire
    match tr.upEdge with
    | some _ => (b.resultPass key c t wire).modTile key t fun x => { x with done_ := true }
    | none => b.upSent key c t
  | _, none => b

/-! ## TILE_PUT (R139 to R145) -/

/-- COLL_ID of a chunk. -/
def Chunk.cid (p : FabPkt) : Nat := p.addr.toNat / 2 ^ 36
/-- Tile index of a chunk. -/
def Chunk.tile (p : FabPkt) : Nat := p.addr.toNat / 2 ^ 12 % 2 ^ 24
/-- Chunk index of a chunk. -/
def Chunk.ix (p : FabPkt) : Nat := p.addr.toNat % 4096

/-- An early message takes a context in state EARLY, if one is free (R145). -/
def Block.early (e : Early) (b : Block) : Option Block :=
  let has := b.ce.early.any fun x => x.job == e.job && x.cid == e.cid && x.tile == e.tile
  if has || b.tileActive < tileCtxs - 16384 then some (b.onCe fun c => { c with early := c.early ++ [e] }) else none

/-- A chunk that the CE discards is counted (R140). -/
def Block.dupChunk (b : Block) : Block := b.bump R.ceDupCnt

/-- A chunk of a fabric edge joins the wire bytes of its tile; the last one delivers them, or fails the tile when a chunk was
skipped (R140, R141). -/
def Block.edgeChunk (key : Nat) (c : Coll) (t : Nat) (o : Origin) (p : FabPkt) (b : Block) : Block :=
  let rank := p.srcRank.toNat
  let x := (AMap.get? c.tiles t).getD (TileCtx.init 0 none)
  let m := AMap.set ((AMap.get? x.parts rank).getD []) (Chunk.ix p) p.payload
  if !p.last then b.modTile key t fun x => { x with parts := AMap.set x.parts rank m }
  else
    let b := b.modTile key t fun x => { x with parts := AMap.erase x.parts rank }
    if chunksWhole m (fmtSize c.wireFmt (c.n t)) then b.wireIn key ((b.coll key).getD c) t o (m.flatMap (·.2))
    else b.tileFail key t St.timeout (c.cls (c.treeNo t))

/-- A contributor's chunk is accumulated; with LAST its bit is set, and the last bit completes the level-1 part or fails the tile
(R140, R141, R165). -/
def Block.contribChunk (key : Nat) (c : Coll) (t : Nat) (p : FabPkt) (b : Block) : Block :=
  let rank := p.srcRank.toNat
  let k := (c.contrib.findIdx? (· == rank)).getD 0
  let n := c.n t
  let x := (AMap.get? c.tiles t).getD (TileCtx.init 0 none)
  let old := (AMap.get? x.parts rank).getD []
  let es := c.chunkElems c.inFmt n old (Chunk.ix p) p.payload
  let prog := b.prog c
  let (terms, norm, slots) := es.foldl (fun (acc : List (Nat × Num) × Nat × Nat) e =>
    let (v, nm, s) := Prog.accTerm prog k acc.2.1 e.2
    ((match v with | some v => (e.1, v) :: acc.1 | none => acc.1), nm, acc.2.2 + s)) ([], x.norm, 0)
  let m := AMap.set old (Chunk.ix p) p.payload
  let last := if p.last then x.last ++ [rank] else x.last
  let miss := x.miss || (p.last && !chunksWhole m (fmtSize c.inFmt n))
  let full := c.contrib.all (last.contains ·)
  let b := (b.count c.job 2 (c.inFmt - 1) es.length).count c.job 2 (if Bits.bit c.flags 1 then 31 else 30) terms.length
  let b := b.count c.job 2 32 slots
  let b := b.modTile key t fun x => { x with
    acc := c.addTerms n x.acc terms.reverse
    norm := norm
    last := last
    miss := miss
    level1 := full && !miss
    parts := if p.last then AMap.erase x.parts rank else AMap.set x.parts rank m }
  if full && miss then b.tileFail key t St.timeout (c.cls (c.treeNo t))
  else if full then (b.startDeadline key t).tileReady key t
  else b

/-- Without Tailwind contexts are allocated in ascending order: a tile waits while a lower tile that passes here has had none (R144). -/
def Coll.mustWait (c : Coll) (site t : Nat) : Bool :=
  !Bits.bit c.flags 0 && (AMap.get? c.tiles t).isNone &&
  (List.range t).any fun u => (c.hasL1 site u || c.goesUp site u || c.comesDown site u) && (AMap.get? c.tiles u).isNone && !c.handled.contains u

/-- A chunk or message for a paged context goes into a buffer of the reserved paging pool until the context is back (R30, R143). -/
def Block.holdPaged (key t n : Nat) (line : Option InMsg) (pkt : Option FabPkt) (b : Block) : Option Block :=
  (b.takeRes 2 (max 1 n) (Ce.owner (key / 4096))).map fun (b, h) => b.onCe fun c => { c with held := c.held ++ [⟨key, t, h, line, pkt⟩] }

/-- A tile of an exact collective has a context on chip: what comes for it waits for lanes alone. -/
def Block.exactTile (b : Block) (key t : Nat) : Bool := (b.coll key).any fun c => Bits.bit c.flags 1 && (AMap.get? c.tiles t).any (!·.paged)

/-- Level-1 chunks of exact collectives wait in the Eddy buffer. -/
def Block.chunksWait (b : Block) : Bool := (b.ce.wait ++ b.fif.got).any fun p =>
  let key := Coll.keyOf p.job.toNat (Chunk.cid p)
  p.opcode == 0x20#8 && b.exactTile key (Chunk.tile p) && (b.coll key).any fun c => c.contrib.contains p.srcRank.toNat

/-- Line partials of exact collectives wait in staging. -/
def Block.partialsWait (b : Block) : Bool := b.inbox.any fun x => match x.msg with
  | .coll m => m.ckind == 1#8 && b.exactTile (Coll.keyOf (m.job.toNat % 1024) (m.collId.toNat % 4096)) (m.tile.toNat % 2 ^ 24)
  | _ => false

/-- Level-1 chunks and line partials of exact collectives that both wait are served one tile at a time in alternation (R168): work of one
kind, on line or not, for a tile waits while the other kind waits and this kind was served last for another tile. -/
def Block.otherTurn (b : Block) (c : Coll) (line : Bool) (key t : Nat) : Bool :=
  Bits.bit c.flags 1 && b.ce.lane.any (fun l => l.1 == line && (l.2.1 != key || l.2.2 != t)) && (if line then b.chunksWait else b.partialsWait)

/-- The lanes serve work of a kind for a tile. -/
def Block.serve (c : Coll) (line : Bool) (key t : Nat) (b : Block) : Block :=
  if Bits.bit c.flags 1 then b.onCe fun s => { s with lane := some (line, key, t) } else b

/-- A TILE_PUT chunk meets the CE; `none` when it must stay in the Eddy buffer (R140, R142 to R145), as it does when strict mode has stopped the
CE for its job (R392). -/
def Block.tilePut (p : FabPkt) (b : Block) : Option Block :=
  let job := p.job.toNat
  let key := Coll.keyOf job (Chunk.cid p)
  let t := (Chunk.tile p)
  let rank := p.srcRank.toNat
  if b.engStopped job 3 then none
  else match b.coll key with
  | none =>
    if b.ce.trees.any fun e => e.2.job == job && (e.2.origin false rank).isSome then b.early ⟨job, (Chunk.cid p), t, b.now, none, some p, none⟩
    else some b.dupChunk
  | some c =>
    if c.a2a.isSome || c.ntiles ≤ t || c.handled.contains t then some b.dupChunk
    else
      let x := AMap.get? c.tiles t
      if x.any (·.paged) then b.holdPaged key t p.payload.length none (some p)
      else match (c.tree (c.treeNo t)).origin false rank with
        | some o => if c.mustWait b.site t then none else (b.tileCtx? key c t).map fun b => b.edgeChunk key ((b.coll key).getD c) t o p
        | none =>
          if !c.contrib.contains rank || !c.hasL1 b.site t || x.any (fun y => y.last.contains rank) then some b.dupChunk
          else if c.mustWait b.site t || b.otherTurn c false key t then none
          else (b.tileCtx? key c t).map fun b => (b.serve c false key t).contribChunk key ((b.coll key).getD c) t p

/-- Chunks of one rank for one tile. -/
def Chunk.same (p q : FabPkt) : Bool := p.job == q.job && p.srcRank == q.srcRank && p.addr.toNat / 4096 == q.addr.toNat / 4096

/-- TILE_PUT_RX of delivered packet `sel`: accepted, discarded, or left in the Eddy buffer. -/
def Ce.tilePutRx (sel : Nat) (b : Block) : Block :=
  match b.pickGot sel (fun p => p.opcode == 0x20#8) with
  | none => b
  | some p =>
    let left (b : Block) : Block := (b.onCe fun c => { c with wait := c.wait ++ [p] }).onFif fun f => { f with got := Bits.removeAt f.got sel }
    if b.ce.wait.any (Chunk.same p) then left b
    else match b.tilePut p with
      | some b => b.dropGot sel
      | none => left b

/-- The first chunk in the Eddy buffer that the CE can take now, with the block after it and those before it left. -/
def Block.firstWaiting : List FabPkt → List FabPkt → Block → Option (Nat × Block)
  | _, [], _ => none
  | before, p :: ps, b =>
    if before.any (Chunk.same p) then Block.firstWaiting (before ++ [p]) ps b
    else match b.tilePut p with
      | some b' => some (before.length, b')
      | none => Block.firstWaiting (before ++ [p]) ps b

/-- TILE_CONTEXT_ALLOC: a waiting chunk gets its context once one is free and its turn has come (R142, R144). -/
def Ce.contextAlloc (b : Block) : Block :=
  match Block.firstWaiting [] b.ce.wait b with
  | none => b
  | some (i, b') =>
    b'.onCe fun c => { c with wait := (Bits.removeAt b.ce.wait i).filter (c.wait.contains ·) }

/-! ## UP and DOWN from the line (R148, R149) -/

/-- The descriptor offset of the first field of a message that differs from the collective's (R149). -/
def Coll.differs (c : Coll) (m : CollMsg) : Option Nat :=
  Req.firstBad [(0, m.op.toNat != c.op), (4, m.wireFmt.toNat != c.wireFmt), (6, m.tileLog2.toNat != c.log2),
    (8, m.elems.toNat != c.n (m.tile.toNat % 2 ^ 24))]

/-- An UP or DOWN message meets its collective; `none` when it must wait for a context or its turn (R143 to R145, R148, R149, R168), or while
strict mode has stopped the CE for its job (R392). A tile whose data is poison fails (R370). -/
def Block.lineTile (x : InMsg) (m : CollMsg) (b : Block) : Option Block :=
  let key := Coll.keyOf (m.job.toNat % 1024) (m.collId.toNat % 4096)
  let t := m.tile.toNat % 2 ^ 24
  if b.engStopped (key / 4096) 3 then none
  else match b.coll key with
  | none => b.early ⟨m.job.toNat % 1024, m.collId.toNat % 4096, t, b.now, some x, none, none⟩
  | some c =>
    match c.differs m with
    | some o => some (b.collFail key St.badParam o 1 none)
    | none =>
      let k := Bits.fld m.flags.toNat 0 0
      match (c.tree k).origin true x.peer with
      | none => some b.dupChunk
      | some o =>
        if c.a2a.isSome || c.ntiles ≤ t || c.treeNo t != k || c.handled.contains t then some b.dupChunk
        else if x.buf.any fun e => b.bufPoison e.1 then some (b.tileFail key t St.timeout x.cls)
        else if (AMap.get? c.tiles t).any (·.paged) then b.holdPaged key t m.body.length (some { x with buf := none }) none
        else if c.mustWait b.site t || m.ckind == 1#8 && b.otherTurn c true key t then none
        else (b.tileCtx? key c t).map fun b =>
          (if m.ckind = 1#8 then b.serve c true key t else b).wireIn key ((b.coll key).getD c) t o m.body

/-- The block without inbound message `sel`, which the CE keeps in its buffer in an early state: its share of the receive pool is free. -/
def Block.keepIn (sel : Nat) (b : Block) : Block :=
  match b.inbox[sel]? with
  | some x => (b.takeIn sel).freeHeld x.seg
  | none => b

/-- COLL_LINE_MSG_RX of inbound message `sel`: it is taken, or waits in staging. -/
def Ce.lineMsgRx (sel : Nat) (b : Block) : Block :=
  match b.pickIn sel InMsg.collData with
  | some x => match x.msg with
    | .coll m => match b.lineTile x m with
      | some b' => if (b.coll (Coll.keyOf (m.job.toNat % 1024) (m.collId.toNat % 4096))).isNone then b'.keepIn sel else b'.dropIn sel
      | none => b.holdIn sel
    | _ => b
  | none => b

/-- The time an early state of a job waits for its COLL_START: the default deadline of the largest depth and round trip among the
job's trees (R145). -/
def Block.earlyTmo (b : Block) (job : Nat) : Time :=
  let ts := b.ce.trees.filter fun e => e.2.job == job
  let mx (f : Tree → Nat) : Nat := ts.foldl (fun m e => max m (f e.2)) 0
  mx (·.depth) * 3 * mx (·.rttUs) * 8000 + 160000000

/-- The early state that a message belongs to began before its time ran out. -/
def Block.earlyDue (b : Block) (e : Early) : Bool := b.ce.early.any fun x =>
  x.job == e.job && x.cid == e.cid && x.tile == e.tile && decide (x.at_ + b.earlyTmo e.job ≤ b.now)

/-- EARLY_STATE_EXPIRY: early states whose time has passed are discarded whole and counted (R145). -/
def Ce.earlyExpiry (b : Block) : Block :=
  let due := b.ce.early.filter b.earlyDue
  let n := ((due.map fun e => (e.job, e.cid, e.tile)).eraseDups).length
  let b' := (b.bumpN R.ceEarlyDrop n).onCe fun c => { c with early := c.early.filter fun e => !b.earlyDue e }
  (due.filterMap (·.line)).foldl (fun b x => b.freeInBuf x) b'

/-! ## Compressor admission (R205, R206) -/

/-- Bytes queued at a compressor lane. -/
def Block.laneBytes (b : Block) (l : Nat) : Nat :=
  Bits.sum (((AMap.get? b.cx.comp l).map fun x => x.queue.map fun s => s.raw.length).getD [])

/-- The lane that admits `n` input bytes: the one with the fewest bytes queued, the lowest number on a tie. -/
def Block.admitLane (b : Block) (n : Nat) : Option Nat :=
  let best := (List.range 32).foldl (fun (m : Nat × Nat) l => if b.laneBytes l < m.1 then (b.laneBytes l, l) else m) (b.laneBytes 0, 0)
  if best.1 + n ≤ b.fld R.cxQlimit 12 0 * 1024 then some best.2 else none

/-- Compression is off or draining: new streams are forced stored, but for those of the very moment of the disable (R209). -/
def Block.cxForced (b : Block) : Bool :=
  match b.funcMode 0x900 with
  | 1 => false
  | 2 => (AMap.get? b.funcs 0x900).any fun x => x.since != b.now
  | _ => true

/-- A stream joins the input queue of a lane. -/
def Block.laneIn (l : Nat) (s : CxIn) (b : Block) : Block :=
  let x := (AMap.get? b.cx.comp l).getD ⟨[], []⟩
  { b with cx := { b.cx with comp := AMap.set b.cx.comp l { x with queue := x.queue ++ [s] } } }

/-- A CX trace record (Table 17-8). -/
def Block.cxTrace (ev job cid lane check origin : Nat) (b : Block) : Block :=
  b.trace 3 ev job (Bits.leBytes 2 cid ++ Bits.leBytes 1 lane ++ Bits.leBytes 1 check ++ Bits.leBytes 2 origin)

/-! ## Dispatch (R150, R151) -/

/-- Tokens of a tile of `n` wire bytes at a rate per KiB. -/
def Ce.cost (n rate : Nat) : Nat := Bits.ceilDiv (n * rate) 1024

/-- The job with 16-bit residuals whose upward pass a waiting tile is to be quantised for. -/
def Block.wideUp (b : Block) (i : CeItem) : Option Nat :=
  let job := i.coll / 4096
  if i.kind = 0 ∧ Edge.kind i.edge ≠ 0 ∧ (b.job job).wide then some job else none

/-- The oldest tile of a priority that waits for a dispatch slot. A job with 16-bit residuals has a tile quantised upward in every second
slot at most, half the rate of 8-bit residuals (R18, log entry 73). -/
def Block.oldest (b : Block) (p : Nat) : Option CeItem :=
  b.ce.items.find? fun i => i.prio == p && !b.engStopped (i.coll / 4096) 3 && !(b.ce.half.isSome && b.wideUp i == b.ce.half)

/-- The block with a waiting tile changed. -/
def Block.modItem (i : CeItem) (f : CeItem → CeItem) (b : Block) : Block :=
  b.onCe fun s => { s with items := s.items.map fun (x : CeItem) => if x = i then f x else x }

/-- A tile's wire bytes go to a compressor lane as an UP or DOWN message (R148). -/
def Block.toLane (l : Nat) (key : Nat) (c : Coll) (t kind e : Nat) (stored : Bool) (wire : List Byte) (b : Block) : Block :=
  let k := c.treeNo t
  let m := b.collMsg c kind k e t (c.n t) 0 []
  let buf := (AMap.get? c.tiles t).bind (·.buf)
  let b := match buf with
    | some h => b.addOwner h (Own.of c.job 3) (Own.of c.job 4)
    | none => b
  b.laneIn l ⟨m, wire, stored || b.cxForced, Edge.peer e, c.cls k, c.job, some c.id, key, t, buf⟩

/-- A waiting tile is dispatched: quantised when it is to be, and sent over its edge (R146, R150); one whose buffer is poison fails (R370). -/
def Block.dispatch (i : CeItem) (lane : Option Nat) (stored : Bool) (cost : Nat) (b : Block) : Block :=
  let b := b.onCe fun s => { s with items := s.items.filter (· != i), tok := s.tok + i.saved - cost, half := b.wideUp i }
  match b.coll i.coll with
  | none => b
  | some c =>
    if ((AMap.get? c.tiles i.tile).bind (·.buf)).any b.bufPoison then b.tileFail i.coll i.tile St.timeout (c.cls (c.treeNo i.tile))
    else
    let b := if stored then
        ((((b.modColl i.coll fun c => { c with stored := c.stored + 1 }).bump R.ceStoredCnt).warn c.id Warn.stored).count c.job 1 15 1).ceTrace 5 c i.tile 0
      else b
    let up (b : Block) : Block := b.upSent i.coll c i.tile
    let send (kind : Nat) (wire : List Byte) (b : Block) : Block := match lane with
      | some l => b.toLane l i.coll c i.tile kind i.edge stored wire
      | none => b
    if i.kind = 0 then
      let x := (AMap.get? c.tiles i.tile).getD (TileCtx.init 0 none)
      let (wire, b) := b.quantTile i.coll c i.tile x
      if (c.tree (c.treeNo i.tile)).isRoot then b.result i.coll ((b.coll i.coll).getD c) i.tile wire
      else if Edge.kind i.edge = 2 then up (b.tilePutTo c (Edge.rank i.edge) i.tile wire)
      else up (send 1 wire b)
    else if i.kind = 1 then up (send 1 i.wire b)
    else
      let b := send 2 i.wire b
      if (c.tree (c.treeNo i.tile)).role = 2 then b.modTile i.coll i.tile fun x => { x with done_ := true } else b

/-- Wire bytes of a waiting tile. -/
def Block.itemBytes (b : Block) (i : CeItem) : Nat :=
  ((b.coll i.coll).map fun c => fmtSize c.wireFmt (c.n i.tile)).getD 0

/-- One dispatch slot over priorities, as the procedure of "Energy-aware tile scheduling" states (R150, R151). -/
def Block.slotFrom : List Nat → Block → Block
  | [], b => b.onCe fun s => { s with half := none }
  | p :: ps, b =>
    match b.oldest p with
    | none => Block.slotFrom ps b
    | some i =>
      let line := Edge.kind i.edge == 1
      let n := b.itemBytes i
      let base := Ce.cost n (b.ce.cost % 2 ^ 16)
      let full := if line && !b.cxForced then Ce.cost n (b.ce.cost % 2 ^ 16 + b.ce.cost / 2 ^ 16) else base
      let have_ := b.ce.tok + i.saved
      let lane := if line then b.admitLane n else none
      let room := !line || lane.isSome
      let job := i.coll / 4096
      if full ≤ have_ && room then b.dispatch i lane false full
      else
        let b := if have_ < full then
            let b := b.onCe fun s => { s with short := true }
            if line && !b.cxForced then (b.bump R.cxDeclEnergy).cxTrace 2 job (i.coll % 4096) 0 0 b.gw else b
          else (b.bump R.cxDeclQueue).cxTrace 1 job (i.coll % 4096) 0 0 b.gw
        if line && room && p < Bits.fld b.ce.ctl 10 8 && base ≤ have_ then b.dispatch i lane true base
        else if b.ce.ctl % 256 ≤ i.defer then
          let b := (b.modItem i fun x => { x with saved := x.saved + b.ce.tok }).onCe fun s => { s with tok := 0, half := none }
          match b.coll i.coll with
          | some c => b.ceTrace 6 c i.tile 0
          | none => b
        else if i.mark = b.ce.epoch + 1 then Block.slotFrom ps b
        else Block.slotFrom ps ((b.modItem i fun x => { x with defer := x.defer + 1, mark := b.ce.epoch + 1 }).bump R.ceDeferCnt)

/-- CE_DISPATCH_SLOT. -/
def Ce.dispatchSlot (b : Block) : Block := Block.slotFrom [7, 6, 5, 4, 3, 2, 1, 0] b

/-! ## Multicast of results (R96) -/

/-- MCAST_RESULT_INJECT: the result of a tile goes to the FIF as packets of the mask entry. -/
def Ce.inject (key t : Nat) (b : Block) : Block :=
  match (b.coll key).bind fun c => (AMap.get? c.tiles t).map fun x => (c, x) with
  | none => b
  | some (c, x) =>
    let b := x.mc.foldl (fun b e => b.mcSend c.job c.mask (c.cls (c.treeNo t)) 0x21 (c.addr t e.1) e.2 (e.1 + 1 == x.mc.length) (some (key, t))) b
    b.modTile key t fun x => { x with mc := [] }

/-- A tile has been handled: everything that this gateway does with it is done, and its packets have left (R96, R154). -/
def Block.tileFinished (b : Block) (key : Nat) (c : Coll) (t : Nat) (x : TileCtx) : Bool :=
  (!c.goesUp b.site t || x.sentUp) && (!c.comesDown b.site t || x.done_) && x.mc.isEmpty &&
  !(b.ce.items.any fun i => i.coll == key && i.tile == t) && !(b.fif.txq.any fun p => p.holder == some (key, t))

/-- The root's digests of a tree go down once every result has gone (R155, R186). For reduce-scatter each site has a digest of its own, and
TILE carries the site it is for: DESIGN CHOICE (log entry 72). -/
def Block.rootDigests (key : Nat) (c : Coll) (k : Nat) (b : Block) : Block :=
  let tr := c.tree k
  let b := (tr.children.filter fun e => Nat.land e.2 tr.sites != 0).foldl (fun b e =>
    if c.op = 2 then ((List.range 16).filter fun s => Site.has e.2 s && Site.has tr.sites s).foldl
        (fun b s => b.sendDigest key c k e.1 s (AMap.getD c.sums (32 * k + s) 0)) b
    else b.sendDigest key c k e.1 0 (AMap.getD c.sums (32 * k + 16) 0)) b
  b.modColl key fun c => { c with told := AMap.set c.told k 0 }

/-- Tiles of tree `k` of a collective. -/
def Coll.treeTiles (c : Coll) (k : Nat) : Nat := if k = 0 then min c.split c.ntiles else c.ntiles - c.split

/-- This gateway is the root of tree `k` and its results have all gone. -/
def Block.rootDone (b : Block) (key : Nat) (c : Coll) (k : Nat) : Bool :=
  (c.tree k).isRoot && Bits.bit c.flags 2 && c.treeTiles k != 0 && (AMap.get? c.told k).isNone &&
  AMap.getD c.roots k 0 == c.treeTiles k && !(b.ce.items.any fun i => i.coll == key && c.treeNo i.tile == k)

/-- A tile waits for a child or for a result (R143): for a child once its level-1 part is complete, for a result once it has been sent upward,
or when it has nothing to send. The root waits for no result. -/
def Block.tileWaits (b : Block) (c : Coll) (t : Nat) (x : TileCtx) : Bool :=
  let l1 := !c.hasL1 b.site t || x.level1
  let kids := (c.needKids t).all (x.kids.contains ·)
  l1 && (!kids || !(c.tree (c.treeNo t)).isRoot && c.comesDown b.site t && !x.done_ && (!c.goesUp b.site t || x.sentUp))

/-- A collective notes since when its tiles wait for a child or a result. -/
def Block.collWaits (b : Block) (c : Coll) : Coll := { c with tiles := c.tiles.map fun (e : Nat × TileCtx) =>
  (e.1, { e.2 with waitAt := if b.tileWaits c e.1 e.2 then some (e.2.waitAt.getD b.now) else none }) }

/-- Tiles that need nothing before they are quantised at this gateway become ready once they have their contexts, in their turn (R144, R146). -/
def Block.readyAtOnce (key : Nat) (b : Block) : Block :=
  match b.coll key with
  | none => b
  | some c =>
    if !c.contrib.isEmpty || c.op == 3 || c.a2a.isSome || c.state != 1 then b
    else
      let ts := (List.range c.ntiles).filter fun t => (c.tree (c.treeNo t)).role == 1 && (c.needKids t).isEmpty &&
        ((c.tree (c.treeNo t)).isRoot || c.goesUp b.site t) && (AMap.get? c.tiles t).isNone && !c.handled.contains t
      ts.foldl (fun b t =>
        let c := (b.coll key).getD c
        match if c.mustWait b.site t then none else b.tileCtx? key c t with
        | some b => b.tileReady key t
        | none => b) b

/-- What a collective does by itself: finished tiles release their contexts, tiles that wait for nothing become ready, the root sends its
digests, and the collective drains once every tile is handled (R154, R155). Run at the end of each row. -/
def Block.collSettle (key : Nat) (b : Block) : Block :=
  let b := (b.readyAtOnce key).modColl key b.collWaits
  match b.coll key with
  | none => b
  | some c =>
    let done := c.tiles.filter fun e => b.tileFinished key c e.1 e.2
    let b := done.foldl (fun b e =>
      ((b.tileDrop key e.1).modColl key fun c => { c with handled := c.handled ++ [e.1] }).count c.job 1 14 1) b
    match b.coll key with
    | none => b
    | some c =>
      let b := [0, 1].foldl (fun b k => if b.rootDone key c k then b.rootDigests key c k else b) b
      if c.a2a.isNone && c.handled.length == c.ntiles && c.state == 1 then b.modColl key fun c => { c with state := 2 } else b

/-- What waits in the CE moves on. -/
def Block.ceSettle (b : Block) : Block := (b.ce.colls.map (·.1)).foldl (fun b k => b.collSettle k) b

/-! ## Digests (R155, R475) -/

/-- The trees whose DIGEST this gateway waits for. -/
def Coll.awaits (c : Coll) : List Nat :=
  [0, 1].filter fun k => Bits.bit c.flags 2 && (c.tree k).role == 1 && !(c.tree k).isRoot && c.treeTiles k != 0

/-- A DIGEST of tree `k` for a site arrives by an edge: a relay passes it on, an owner keeps it and sends it down (R155). -/
def Block.digestIn (key : Nat) (c : Coll) (k : Nat) (o : Origin) (site aux : Nat) (b : Block) : Block :=
  let tr := c.tree k
  match o with
  | .line => b.sendDigest key c k tr.relayTo site aux
  | .owner => tr.children.foldl (fun b e => b.sendDigest key c k e.1 site aux) b
  | _ =>
    let b := if (c.op != 2 || site == b.site) && (AMap.get? c.told k).isNone then b.modColl key fun c => { c with told := AMap.set c.told k aux } else b
    (tr.children.filter fun e => Nat.land e.2 tr.sites != 0 && (c.op != 2 || Site.has e.2 site)).foldl (fun b e => b.sendDigest key c k e.1 site aux) b

/-- The collective message of a kind that a source names, with its collective and the neighbour it came from: an inbound line
message, or one that came over a fabric edge. -/
def Block.collSrc (b : Block) (src : EdgeMsg) (kind : Nat) : Option (Nat × Coll × CollMsg × Bool × Nat) :=
  let look (m : CollMsg) (line : Bool) (who : Nat) : Option (Nat × Coll × CollMsg × Bool × Nat) :=
    let key := Coll.keyOf (m.job.toNat % 1024) (m.collId.toNat % 4096)
    if m.ckind.toNat = kind then (b.coll key).map fun c => (key, c, m, line, who) else none
  match src with
  | .line sel => match b.pickIn sel fun _ => true with
    | some ⟨peer, _, _, _, _, .coll m, _, _⟩ => look m true peer
    | _ => none
  | .fabric rank m => look m false rank

/-- The inbox without the message a source names, if it is of the kind. -/
def Block.takeSrc (src : EdgeMsg) (kind : Nat) (b : Block) : Block :=
  match src with
  | .line sel => match b.inbox[sel]? with
    | some ⟨_, _, _, _, _, .coll m, _, _⟩ => if m.ckind.toNat = kind then b.dropIn sel else b
    | _ => b
  | .fabric _ _ => b

/-- A message of a kind for a collective that does not run: early, unless the collective has ended here and the message tells of its
end (R145, log entry 21). An early message that finds no context stays where it is: in staging, or on the fabric (log entry 18). -/
def Block.srcEarly (src : EdgeMsg) (kind : Nat) (b : Block) : Block :=
  match src with
  | .line sel => match b.pickIn sel fun _ => true with
    | some x => match x.msg with
      | .coll m =>
        let job := m.job.toNat % 1024
        let cid := m.collId.toNat % 4096
        if m.ckind.toNat ≠ kind then b
        else if (kind = 5 ∨ kind = 6) ∧ (AMap.get? b.ce.fin (Coll.keyOf job cid)).isSome then b.dropIn sel
        else match b.early ⟨job, cid, 2 ^ 24 + kind, b.now, some x, none, none⟩ with
          | some b => b.keepIn sel
          | none => b.holdIn sel
      | _ => b
    | none => b
  | .fabric rank m =>
    let job := m.job.toNat % 1024
    let cid := m.collId.toNat % 4096
    let edge := b.ce.trees.any fun e => e.2.job == job && (e.2.origin false rank).isSome
    if m.ckind.toNat ≠ kind || !edge && kind ≠ 3 && kind ≠ 4 || (kind = 5 || kind = 6) && (AMap.get? b.ce.fin (Coll.keyOf job cid)).isSome then b
    else (b.early ⟨job, cid, 2 ^ 24 + kind, b.now, none, none, some (rank, m)⟩).getD b

/-- DIGEST_RX. -/
def Ce.digestRx (src : EdgeMsg) (b : Block) : Block :=
  match b.collSrc src 5 with
  | none => b.srcEarly src 5
  | some (key, c, m, line, who) =>
    let k := Bits.fld m.flags.toNat 0 0
    let b := b.takeSrc src 5
    match (c.tree k).origin line who with
    | none => b
    | some o => b.digestIn key c k o (m.tile.toNat % 2 ^ 24) m.aux.toNat

/-- The edge of a collective by which a neighbour's message came. -/
def Coll.edgeOf (c : Coll) (line : Bool) (who : Nat) : Option Nat :=
  (c.edges.find? fun e => if line then Edge.kind e.2 == 1 && Edge.peer e.2 == who else Edge.kind e.2 == 2 && Edge.rank e.2 == who).map (·.2)

/-- ABORT_RX: the collective completes with the status in ABORT, which goes on over the other edges (R157). -/
def Ce.abortRx (src : EdgeMsg) (b : Block) : Block :=
  match b.collSrc src 6 with
  | none => b.srcEarly src 6
  | some (key, c, m, line, who) =>
    (b.takeSrc src 6).collFail key (m.aux.toNat % 2 ^ 16) (m.aux.toNat / 2 ^ 16 % 2 ^ 16) 0 (c.edgeOf line who)

/-- The first collective that R475 fails now: draining past its latest deadline without a DIGEST it awaits. -/
def Ce.digestTimeout (b : Block) : Block :=
  let due := b.ce.colls.filter fun e => e.2.state == 2 && e.2.latest < b.now && e.2.awaits.any fun k => (AMap.get? e.2.told k).isNone
  due.foldl (fun b e => b.collFail e.1 St.timeout 1 0 none) b

/-- A collective whose tiles are handled and whose segments are acknowledged compares its digests and completes (R154, R155,
R475). -/
def Block.collFinish (key : Nat) (b : Block) : Block :=
  match b.coll key with
  | none => b
  | some c =>
    if c.awaits.any fun k => (AMap.get? c.told k).isNone then b
    else
      let mine (k : Nat) : Nat := if k = 0 then c.digA else c.digB
      let bad := c.awaits.filter fun k => AMap.getD c.told k 0 != mine k
      let b := bad.foldl (fun b k => (b.bump R.sysDigestMmCnt).event 0x21 2 c.job ceMaster
        (Bits.leBytes 2 c.cid ++ Bits.leBytes 1 k ++ Bits.leBytes 1 (c.tree k).rootSite ++ Bits.leBytes 8 (mine k) ++
          Bits.leBytes 4 (AMap.getD c.told k 0))) b
      match bad with
      | [] => b.collEnd key St.ok 0 0
      | k :: _ => b.collEnd key St.digestMismatch (c.tree k).rootSite 0

/-! ## Deadlines (R156, R158) -/

/-- The line peers a tile still waits on. -/
def Block.waitsOn (b : Block) (key : Nat) (c : Coll) (t : Nat) (x : TileCtx) : List Nat :=
  let tr := c.tree (c.treeNo t)
  let es := if tr.role = 2 then tr.children.map (·.1)
    else
      let kids := ((c.needKids t).filter fun i => !x.kids.contains i).map fun i => (tr.children.getD i (0, 0)).1
      if !kids.isEmpty then kids else if c.comesDown b.site t && !x.done_ then [tr.parent] else []
  let out := (b.ce.items.filter fun i => i.coll == key && i.tile == t).map (·.edge)
  ((es ++ out).filter fun e => Edge.kind e == 1).map Edge.peer

/-- The first tile of a collective past its deadline. -/
def Coll.late (c : Coll) (now : Time) : Option (Nat × TileCtx) := c.tiles.find? fun e => e.2.deadline.any (· ≤ now)

/-- The first tile whose level-1 part is not complete. -/
def Coll.l1Missing (c : Coll) (site : Nat) : Option Nat :=
  (List.range c.ntiles).find? fun t => c.hasL1 site t && !c.handled.contains t && !((AMap.get? c.tiles t).any (·.level1))

/-- A collective fails when a tile is past its deadline, or its level-1 timeout has passed (R156, R158). -/
def Block.collDeadline (key : Nat) (b : Block) : Block :=
  match b.coll key with
  | none => b
  | some c =>
    match c.late b.now with
    | some (t, x) =>
      match (b.waitsOn key c t x).find? (b.noPath.contains ·) with
      | some g => ((b.bump R.ceTimeoutCnt).tileFail key t St.linkDown (g / 4096))
      | none => b.tileFail key t St.timeout (c.cls (c.treeNo t))
    | none =>
      if c.localMs ≠ 0 ∧ c.start + c.localMs * 8000000 ≤ b.now then
        match c.l1Missing b.site with
        | some t => b.collFail key St.timeout (c.cls (c.treeNo t)) 0 none
        | none => b
      else b

/-- TILE_DEADLINE_EXPIRY: the 1 ms check. -/
def Ce.deadlines (b : Block) : Block := (b.ce.colls.map (·.1)).foldl (fun b k => b.collDeadline k) b

/-! ## Paging of tile contexts (R143) -/

/-- Home slot of tile context `ix` in the context paging region: contexts of 256 bytes after those of the FWU (Table 14-12). -/
def Ce.home (ix : Nat) : Nat := 0x210000000 + 256 * ix

/-- The tile contexts that may be paged out, those that have waited longest for a child or a result first, with since when. -/
def Block.pageableTiles (b : Block) : List (Time × Nat × Nat) :=
  let idle := b.fld R.cePageCtl 15 0 * 8000
  let cs := b.ce.colls.flatMap fun e => e.2.tiles.filterMap fun x => match x.2.waitAt with
    | some t => if !x.2.paged && t + idle ≤ b.now then some (t, e.1, x.1) else none
    | none => none
  cs.mergeSort fun x y => x.1 ≤ y.1

/-- A tile context goes to its home slot: 256 bytes whose layout the specification does not give (log entry 67). -/
def Block.pageTile (key t : Nat) (b : Block) : Block :=
  match (b.coll key).bind fun c => AMap.get? c.tiles t with
  | some x => (b.putFree (Ce.home x.ix) 256).modTile key t fun x => { x with paged := true }
  | none => b

/-- TILE_CONTEXT_PAGE_OUT: above the watermark the contexts that have waited longest for a child or a result go to memory (R143). -/
def Ce.pageOut (b : Block) : Block :=
  let go := b.pageableTiles.take (b.tileOnChip - b.fld R.cePageCtl 23 16 * 4096)
  (go.foldl (fun b g => b.pageTile g.2.1 g.2.2) b).bump64 R.cePageoutLo go.length

/-- What was held for a context that has come back on chip meets it, and its buffer of the paging pool is free (R143). -/
def Block.applyHold (h : PageHold) (b : Block) : Block :=
  let b := b.dropOwner h.buf (Ce.owner (h.key / 4096))
  match h.line, h.pkt with
  | some x, _ => match x.msg with
    | .coll m => (b.lineTile x m).getD { b with inbox := b.inbox ++ [{ x with seg := 0, held := true }] }
    | _ => b
  | none, some p => (b.tilePut p).getD (b.onCe fun c => { c with wait := c.wait ++ [p] })
  | none, none => b

/-- TILE_CONTEXT_PAGE_IN of a context, keyed collective × 2^24 + tile: it comes back on chip, or its tile fails when its home slot is
poisoned (R143, Table 14-2). -/
def Ce.pageIn (ctx : Nat) (b : Block) : Block :=
  let key := ctx / 2 ^ 24
  let t := ctx % 2 ^ 24
  match (b.coll key).bind fun c => (AMap.get? c.tiles t).map fun x => (c, x) with
  | none => b
  | some (c, x) =>
    if !x.paged then b
    else
      let b := b.bump64 R.cePageinLo 1
      if b.rangePoison (Ce.home x.ix) 256 then (b.readCount (Ce.home x.ix) 256).tileFail key t St.timeout (c.cls (c.treeNo t))
      else
        let mine (h : PageHold) : Bool := h.key == key && h.tile == t
        let hs := b.ce.held.filter mine
        let b := (b.modTile key t fun x => { x with paged := false, since := b.now }).onCe fun s => { s with held := s.held.filter fun h => !mine h }
        hs.foldl (fun b h => b.applyHold h) b

/-! ## COLL_START and COLL_ABORT -/

/-- Early messages of a collective are applied in their order (R145); a chunk that must wait joins those in the Eddy buffer. DIGEST, ABORT and
all-to-all messages follow at the end of the row. -/
def Block.applyEarly (job cid : Nat) (b : Block) : Block :=
  let now (e : Early) : Bool := e.job == job && e.cid == cid && e.edge.isNone
  let mine := b.ce.early.filter now
  let b := b.onCe fun c => { c with early := c.early.filter fun e => !now e }
  mine.foldl (fun b e => match e.line, e.pkt with
    | some x, _ => match x.msg with
      | .coll m =>
        let keep : Block := { b with inbox := b.inbox ++ [{ x with seg := 0, held := true }] }
        if m.ckind = 1#8 ∨ m.ckind = 2#8 then ((b.lineTile x m).map fun b => b.freeInBuf x).getD keep else keep
      | _ => b
    | none, some p => (b.tilePut p).getD (b.onCe fun c => { c with wait := c.wait ++ [p] })
    | none, none => b) b

/-- COLL_START (R136 to R138). -/
def Ce.collStart (id : Nat) (r : Req) (b : Block) : Block :=
  Ci.check8 id r [(16, badAddr r.a0 r.a1 64), (24, r.a1 != 128), (28, 4096 ≤ r.a2), (32, 8 ≤ r.u 32 1), (33, r.nz 33 3), (40, r.nz 40 24)] (fun b =>
    let b := b.readCount r.a0 128
    let job := b.cmdJob r
    let key := Coll.keyOf job r.a2
    match b.collBad r.a0 job with
    | some o => b.badDesc id o
    | none =>
      let c := b.collDesc id r
      match b.coll key with
      | some x => b.done id St.state x.state
      | none => match (if c.resid.isSome then b.ce.colls.find? fun e => e.2.resid == c.resid else none) with
        | some (_, x) => b.done id St.state x.state
        | none =>
          if 4096 ≤ b.ce.colls.length then b.done id St.noResource 2
          else
            let b := b.onCe fun s => { s with
              colls := AMap.set s.colls key c
              fin := AMap.erase s.fin key
              stats := AMap.erase s.stats key }
            let b := (b.count job 1 8 1).count job 1 (8 + c.op) 1
            (b.readyAtOnce key).applyEarly job r.a2) b

/-- COLL_ABORT (R160). -/
def Ce.collAbort (id : Nat) (r : Req) (b : Block) : Block :=
  Ci.check8 id r [(16, r.nz 16 8), (24, r.nz 24 4), (28, 4096 ≤ r.a2), (32, r.nz 32 32)] (fun b =>
    let key := Coll.keyOf (b.cmdJob r) r.a2
    match b.coll key with
    | none => b.done id St.state 3
    | some c =>
      if c.state = 2 then b.done id St.state 2
      else (b.collFail key St.state 4 0 none).ok id (c.ntiles - c.handled.length)) b

end Sys2Proof.Machine
end

