-- ==== Sys2Proof/Machine/Line.lean ====
section
/-! DEFINITION. Messages, records and segments as bytes (Tables 4-2, 5-5, 8-1, 10-2, 18-2), line ports and peers, what becomes of a
message that the line cannot deliver, and the acceptance of a segment (R227 to R231). -/

namespace Sys2Proof

/-! ## Bytes of a record and a segment -/

/-- Header of a message, 32 bytes. -/
def Msg.header : Msg → List Byte
  | .far m => Bits.leBytes 1 m.fop.toNat ++ Bits.leBytes 1 m.flags.toNat ++ Bits.leBytes 2 m.win.toNat ++ Bits.leBytes 4 m.opid.toNat ++
      Bits.leBytes 4 m.src.toNat ++ Bits.leBytes 4 m.streamSeq.toNat ++ Bits.leBytes 8 m.offset.toNat ++
      Bits.leBytes 4 m.length.toNat ++ Bits.leBytes 2 m.status.toNat ++ Bits.leBytes 2 m.impWin.toNat
  | .coll m => Bits.leBytes 1 m.ckind.toNat ++ Bits.leBytes 1 m.flags.toNat ++ Bits.leBytes 2 m.job.toNat ++
      Bits.leBytes 2 m.collId.toNat ++ Bits.leBytes 2 m.origin.toNat ++ Bits.leBytes 4 m.tile.toNat ++ Bits.leBytes 4 m.elems.toNat ++
      Bits.leBytes 1 m.wireFmt.toNat ++ Bits.leBytes 1 m.tileLog2.toNat ++ Bits.leBytes 1 m.op.toNat ++ Bits.leBytes 1 m.rsvd.toNat ++
      Bits.leBytes 4 m.length.toNat ++ Bits.leBytes 8 m.aux.toNat
  | .fence m => [0x40#8] ++ Bits.leBytes 1 m.hops.toNat ++ Bits.leBytes 2 m.job.toNat ++ Bits.leBytes 2 m.origin.toNat ++
      Bits.leBytes 2 0 ++ Bits.leBytes 4 m.serial.toNat ++ Bits.leBytes 2 m.cause.toNat ++ Bits.leBytes 2 m.detail.toNat ++
      Bits.leBytes 16 0

/-- Data of a message. -/
def Msg.body : Msg → List Byte
  | .far m => m.data
  | .coll m => m.body
  | .fence _ => []

/-- The JOB field of a message: the job number at the receiving gateway, for a collective message or a fence. -/
def Msg.job? : Msg → Option Nat
  | .far _ => none
  | .coll m => some (m.job.toNat % 1024)
  | .fence m => some (m.job.toNat % 1024)

/-- Header of a record, 32 bytes (Table 10-2). -/
def Rec.header (r : Rec) : List Byte :=
  Bits.leBytes 1 r.version.toNat ++ Bits.leBytes 1 r.flags.toNat ++ Bits.leBytes 1 r.cls.toNat ++ Bits.leBytes 1 r.nmsg.toNat ++
  Bits.leBytes 4 r.ptLen.toNat ++ Bits.leBytes 8 r.rctr.toNat ++ Bits.leBytes 2 r.keyEpoch.toNat ++ Bits.leBytes 2 r.job.toNat ++
  Bits.leBytes 2 r.sender.toNat ++ Bits.leBytes 2 r.receiver.toNat ++ Bits.leBytes 8 r.rsvd.toNat

/-- The additional authenticated data of a record (R276). -/
def Rec.aad (r : Rec) : List Byte := r.header ++ r.heads.flatten

/-- A record in its bytes (R276). -/
def Rec.bytes (r : Rec) : List Byte := r.aad ++ r.ct ++ Bits.beBytes 16 r.tag.toNat

/-- The record that begins some bytes. -/
def Rec.parse (bs : List Byte) : Rec :=
  let f := Bits.leAt bs
  let at_ := 32 + 32 * f 3 1
  { version := BitVec.ofNat 8 (f 0 1), flags := BitVec.ofNat 8 (f 1 1), cls := BitVec.ofNat 8 (f 2 1), nmsg := BitVec.ofNat 8 (f 3 1),
    ptLen := BitVec.ofNat 32 (f 4 4), rctr := BitVec.ofNat 64 (f 8 8), keyEpoch := BitVec.ofNat 16 (f 16 2), job := BitVec.ofNat 16 (f 18 2),
    sender := BitVec.ofNat 16 (f 20 2), receiver := BitVec.ofNat 16 (f 22 2), rsvd := BitVec.ofNat 64 (f 24 8),
    heads := (List.range (f 3 1)).map fun i => (bs.drop (32 + 32 * i)).take 32, ct := (bs.drop at_).take (f 4 4),
    tag := BitVec.ofNat 128 (Bits.ofBe ((bs.drop (at_ + f 4 4)).take 16)) }

/-- Bytes a record occupies (R276). -/
def Rec.size (r : Rec) : Nat := 48 + 32 * r.nmsg.toNat + r.ptLen.toNat

/-- The records that bytes hold one after the other, at most `n`; the last may run over their end. -/
def Rec.all : Nat → List Byte → List Rec
  | 0, _ => []
  | n + 1, bs => if bs.isEmpty then [] else Rec.parse bs :: Rec.all n (bs.drop (Rec.parse bs).size)

/-- The records of a segment (R219). -/
def Seg.recs (g : Seg) : List Rec := Rec.all g.body.length g.body

/-- A far operation, without data, from its header (Table 4-2). -/
def FarMsg.parse (h : List Byte) : FarMsg :=
  let f := Bits.leAt h
  { fop := BitVec.ofNat 8 (f 0 1), flags := BitVec.ofNat 8 (f 1 1), win := BitVec.ofNat 16 (f 2 2), opid := BitVec.ofNat 32 (f 4 4),
    src := BitVec.ofNat 32 (f 8 4), streamSeq := BitVec.ofNat 32 (f 12 4), offset := BitVec.ofNat 64 (f 16 8), length := BitVec.ofNat 32 (f 24 4),
    status := BitVec.ofNat 16 (f 28 2), impWin := BitVec.ofNat 16 (f 30 2), data := [] }

/-- A collective message, without its body, from its header (Table 5-5). -/
def CollMsg.parse (h : List Byte) : CollMsg :=
  let f := Bits.leAt h
  { ckind := BitVec.ofNat 8 (f 0 1), flags := BitVec.ofNat 8 (f 1 1), job := BitVec.ofNat 16 (f 2 2), collId := BitVec.ofNat 16 (f 4 2),
    origin := BitVec.ofNat 16 (f 6 2), tile := BitVec.ofNat 32 (f 8 4), elems := BitVec.ofNat 32 (f 12 4), wireFmt := BitVec.ofNat 8 (f 16 1),
    tileLog2 := BitVec.ofNat 8 (f 17 1), op := BitVec.ofNat 8 (f 18 1), rsvd := BitVec.ofNat 8 (f 19 1), length := BitVec.ofNat 32 (f 20 4),
    aux := BitVec.ofNat 64 (f 24 8), body := [] }

/-- A fence notice from its header (Table 18-2). -/
def FenceMsg.parse (h : List Byte) : FenceMsg :=
  let f := Bits.leAt h
  { hops := BitVec.ofNat 8 (f 1 1), job := BitVec.ofNat 16 (f 2 2), origin := BitVec.ofNat 16 (f 4 2), serial := BitVec.ofNat 32 (f 8 4),
    cause := BitVec.ofNat 16 (f 12 2), detail := BitVec.ofNat 16 (f 14 2) }

/-- A header of a line class is a collective message's: on classes 2 to 4, as DIGEST and ABORT on class 1, and on class 7 by its code, where the
codes 1 to 3 are those of far operations too (log entry 81). -/
def Msg.isColl (cls : Nat) (h : List Byte) : Bool :=
  let k := Bits.leAt h 0 1
  match cls with
  | 1 => k == 5 || k == 6
  | 7 => 4 ≤ k && k ≤ 6 || (1 ≤ k && k ≤ 3 && !Config.scavengerFar h)
  | c => 2 ≤ c && c ≤ 4

/-- The message, without data, that a header in a record of a line class begins (R110, R148, Table 18-2). -/
def Msg.ofHead (cls : Nat) (h : List Byte) : Msg :=
  if cls = 1 ∧ Bits.leAt h 0 1 = 0x40 then .fence (FenceMsg.parse h)
  else if Msg.isColl cls h then .coll (CollMsg.parse h) else .far (FarMsg.parse h)

/-- The messages of a segment, without data, as their headers state them. -/
def Seg.heads (g : Seg) : List Msg := g.recs.flatMap fun r => r.heads.map (Msg.ofHead (g.cls.toNat % 8))

/-- Bytes of data that a message's header states: those of Table 4-3 for a far operation, LENGTH for a collective message. -/
def Msg.dataLen : Msg → Nat
  | .far m =>
    let op := m.fop.toNat
    let atomic := decide (0x10 ≤ op ∧ op ≤ 0x15)
    if m.flags.getLsbD 0 then
      if m.status ≠ 0 then 0 else if op = 1 ∨ op = 0x21 then m.length.toNat else if atomic then 8 else 0
    else if op = 1 ∨ op = 3 ∨ op = 0x21 then 0 else if op = 0x12 then 16 else if atomic then 8 else m.length.toNat
  | .coll m => m.length.toNat
  | .fence _ => 0

/-- Bytes of the buffer that a far operation takes at the gateway that opens it: its data, and for a request the data that its execution returns
(R16). -/
def FarMsg.hold (m : FarMsg) : Nat :=
  let op := m.fop.toNat
  let back := if m.flags.getLsbD 0 then 0 else if op = 1 ∨ op = 0x21 then m.length.toNat else if 0x10 ≤ op ∧ op ≤ 0x15 then 8 else 0
  min 65536 (max (Msg.far m).dataLen back)

/-- A message with its data. -/
def Msg.withData (d : List Byte) : Msg → Msg
  | .far m => .far { m with data := d }
  | .coll m => .coll { m with body := d }
  | .fence m => .fence m

/-- The messages of a record of a line class, from their headers and the plaintext: the data lies in message order (R276). -/
def Msg.split (cls : Nat) : List (List Byte) → List Byte → List Msg
  | [], _ => []
  | h :: hs, d =>
    let m := Msg.ofHead cls h
    m.withData (d.take m.dataLen) :: Msg.split cls hs (d.drop m.dataLen)

/-- Bytes 0 to 27 of a segment header (Table 8-1). -/
def Seg.head (g : Seg) : List Byte :=
  Bits.leBytes 1 g.typ.toNat ++ Bits.leBytes 1 g.cls.toNat ++ Bits.leBytes 1 g.flags.toNat ++ Bits.leBytes 1 g.tryNo.toNat ++
  Bits.leBytes 6 g.seq.toNat ++ Bits.leBytes 6 g.origSeq.toNat ++ Bits.leBytes 4 g.bodyLen.toNat ++ Bits.leBytes 2 g.epoch.toNat ++
  Bits.leBytes 2 g.job.toNat ++ Bits.leBytes 4 g.bodyCrc.toNat

/-- Cells of a segment with a body of `n` bytes (R219). -/
def Seg.cellsOf (n : Nat) : Nat := Bits.ceilDiv (32 + n) 16

/-- A segment in its cells: header, body, and zero bytes up to the next cell boundary (R219). -/
def Seg.bytes (g : Seg) : List Byte :=
  g.head ++ Bits.leBytes 4 g.hdrCrc.toNat ++ g.body ++ List.replicate (16 * Seg.cellsOf g.body.length - 32 - g.body.length) 0#8

/-- The segment that begins some bytes; its body is as much as they hold of BODY_LEN bytes. -/
def Seg.parse (bs : List Byte) : Seg :=
  let f := Bits.leAt bs
  { typ := BitVec.ofNat 8 (f 0 1), cls := BitVec.ofNat 8 (f 1 1), flags := BitVec.ofNat 8 (f 2 1), tryNo := BitVec.ofNat 8 (f 3 1),
    seq := BitVec.ofNat 48 (f 4 6), origSeq := BitVec.ofNat 48 (f 10 6), bodyLen := BitVec.ofNat 32 (f 16 4), epoch := BitVec.ofNat 16 (f 20 2),
    job := BitVec.ofNat 16 (f 22 2), bodyCrc := BitVec.ofNat 32 (f 24 4), hdrCrc := BitVec.ofNat 32 (f 28 4), body := (bs.drop 32).take (f 16 4) }

/-- RETX of a segment. -/
def Seg.retx (g : Seg) : Bool := g.flags.getLsbD 0
/-- FO of a segment. -/
def Seg.fo (g : Seg) : Bool := g.flags.getLsbD 1
/-- ORIG_PORT of a segment. -/
def Seg.origPort (g : Seg) : Nat := Bits.ofBool (g.flags.getLsbD 2)

namespace Machine

/-! ## Line ports and peers of the TE -/

/-- A sealed record in its bytes. -/
def Sealed.raw (r : Sealed) : List Byte := r.rec_.bytes

/-- A line port of the TE after reset. -/
def TePort.init : TePort :=
  { usable := false, verBad := false, downAt := none, txEpoch := 0, rxEpoch := 0, txSeq := 0, sndLow := 0, segs := [], carry := [],
    retx := (0, 0), srtt := 0, rttvar := 0, sampled := false, sender := none, echo := none, lastEcho := none, rxCum := 0,
    rxHigh := 0, acc := [], skip := [], foBase := 0, naks := [], hunting := false, ctl := [], early := [], cells := [], tcs := [] }

/-- What the TE keeps of a peer it has not met. -/
def TePeer.init : TePeer :=
  let z := List.replicate 8 0
  ⟨z, z, z, z, z, z, z, none⟩

/-- A line port of the TE. -/
def Block.tp (b : Block) (p : Nat) : TePort := AMap.getD b.te.ports p TePort.init

/-- The block with a line port of the TE changed. -/
def Block.modTp (p : Nat) (f : TePort → TePort) (b : Block) : Block := { b with te := { b.te with ports := AMap.set b.te.ports p (f (b.tp p)) } }

/-- What the TE keeps of a peer. -/
def Block.pr (b : Block) (peer : Nat) : TePeer := AMap.getD b.te.peers peer TePeer.init

/-- The block with what the TE keeps of a peer changed. -/
def Block.modPr (peer : Nat) (f : TePeer → TePeer) (b : Block) : Block := { b with te := { b.te with peers := AMap.set b.te.peers peer (f (b.pr peer)) } }

/-- The peer authenticated on a line port. -/
def Block.peerOf (b : Block) (p : Nat) : Option Nat := AMap.get? b.peerGw p

/-- The line ports that reach a peer. -/
def Block.portsTo (b : Block) (peer : Nat) : List Nat := [0, 1].filter fun p => b.peerOf p == some peer

/-- Both line ports reach the same peer. -/
def Block.samePeer (b : Block) : Bool := (b.peerOf 0).isSome && b.peerOf 0 == b.peerOf 1

/-- A sequence number comes before another, modulo 2^48 (R220). -/
def Te.lt (x y : Nat) : Bool := 2 ^ 47 ≤ (x + 2 ^ 48 - y % 2 ^ 48) % 2 ^ 48

/-- The later of two cumulative values, modulo 2^48 (R223). -/
def Te.max (x y : Nat) : Nat := if Te.lt x y then y else x

/-- State of a line port (Table 11-5). -/
def Block.lfState (b : Block) (p : Nat) : Nat := b.fld (R.lfStat p) 2 0

/-- A TE trace record (Table 17-8). -/
def Block.teTrace (ev p try_ seq cls : Nat) (b : Block) : Block :=
  b.trace 4 ev devJob (Bits.leBytes 1 p ++ Bits.leBytes 1 try_ ++ Bits.leBytes 6 seq ++ Bits.leBytes 1 cls)

/-! ## Messages that cannot be delivered -/

/-- The owner of a message learns that it failed: a far request ends, a tile or a collective fails; nobody waits for a response or a
fence notice (R239, R279). -/
def Block.msgFail (m : OutMsg) (st detail : Nat) (b : Block) : Block :=
  match m.msg with
  | .far f =>
    let i := f.opid.toNat / 256 % 2 ^ 20
    match AMap.get? b.fwu.ctxs i with
    | some c => if f.flags.getLsbD 0 ∨ c.gen ≠ f.opid.toNat % 256 then b else (b.ctxReply c st []).ctxEnd i st true (det := some detail)
    | none => b
  | .coll c =>
    let key := Coll.keyOf (Ss.jobOf m.queue) (c.collId.toNat % 4096)
    if c.ckind = 1#8 ∨ c.ckind = 2#8 then b.tileFail key (c.tile.toNat % 2 ^ 24) st detail else b.collFail key st detail 0 none
  | .fence _ => b

/-- Messages for a peer that no line port reaches any more leave the CC, and their owners learn LINK_DOWN (R254): run at the end of each row. -/
def Block.lineLost (b : Block) : Block :=
  let far (m : OutMsg) : Bool := (b.portsTo m.peer).isEmpty
  let gone := b.outq.filter far
  if gone.isEmpty then b else gone.foldl (fun b m => b.msgFail m St.linkDown (m.peer / 4096)) (b.dropOut far)

/-! ## Receiving: NAKs and acceptance -/

/-- A NAK entry is to be reported in four group frames (R229). -/
def Block.nakSeg (p cause count check try_ start : Nat) (b : Block) : Block :=
  b.modTp p fun x => { x with naks := x.naks ++ [⟨cause, count, check, try_, start, 4⟩] }

/-- Entries for the SEQs from `s` on, `n` in number, that a test selects, each of at most 16 consecutive SEQs; `run` is the entry
that grows. -/
def Te.gaps (missing : Nat → Bool) : Nat → Nat → Option (Nat × Nat) → List (Nat × Nat)
  | 0, _, run => run.toList
  | n + 1, s, run =>
    let s' := (s + 1) % 2 ^ 48
    if missing s then
      match run with
      | some (a, k) => if k < 16 then Te.gaps missing n s' (some (a, k + 1)) else (a, k) :: Te.gaps missing n s' (some (s, 1))
      | none => Te.gaps missing n s' (some (s, 1))
    else run.toList ++ Te.gaps missing n s' none

/-- A SEQ of a port has been accepted; a skipped one has not (R231). -/
def TePort.accepted (x : TePort) (seq : Nat) : Bool :=
  if Te.lt seq x.rxCum then !(x.skip.any fun r => (seq + 2 ^ 48 - r.1) % 2 ^ 48 < r.2) else x.acc.contains seq

/-- A SEQ of a port is still known to have been accepted when a failover copy names it (R244). -/
def TePort.knownAccepted (x : TePort) (seq : Nat) : Bool := !Te.lt seq x.foBase && x.accepted seq

/-- CUM_ACK moves past accepted SEQs; `n` bounds their number. -/
def TePort.advance : Nat → TePort → TePort
  | 0, x => x
  | n + 1, x => if x.acc.contains x.rxCum then
      TePort.advance n { x with acc := x.acc.filter (· != x.rxCum), rxCum := (x.rxCum + 1) % 2 ^ 48 } else x

/-- A SEQ is marked accepted (R228). -/
def TePort.mark (seq : Nat) (x : TePort) : TePort :=
  if Te.lt seq x.rxCum || x.acc.contains seq then x
  else TePort.advance (x.acc.length + 1) { x with acc := x.acc ++ [seq] }

/-- A first transmission with SEQ above RX_HIGH shows the gap below it (R227). -/
def Block.rxGap (p seq : Nat) (b : Block) : Block :=
  let x := b.tp p
  if Te.lt seq x.rxHigh then b
  else
    let es := Te.gaps (fun s => !(Te.lt s x.rxCum || x.acc.contains s || x.early.contains s)) ((seq + 2 ^ 48 - x.rxHigh) % 2 ^ 48) x.rxHigh none
    let high := (seq + 1) % 2 ^ 48
    let b := b.modTp p fun x => { x with rxHigh := high, early := x.early.filter fun s => !Te.lt s high }
    es.foldl (fun b e => b.nakSeg p 1 e.2 0 0 e.1) b

/-- SEQs below a SND_LOW that have not been accepted are skipped (R231, R245). -/
def Block.rxSkip (p low : Nat) (b : Block) : Block :=
  let x := b.tp p
  if !Te.lt x.rxCum low then b
  else
    let n := (low + 2 ^ 48 - x.rxCum) % 2 ^ 48
    let below := x.acc.filter fun s => Te.lt s low
    let holes := below.foldl (fun (rs : List (Nat × Nat)) s => rs.flatMap fun r =>
      let o := (s + 2 ^ 48 - r.1) % 2 ^ 48
      if o < r.2 then [(r.1, o), ((s + 1) % 2 ^ 48, r.2 - o - 1)].filter (·.2 != 0) else [r]) [(x.rxCum, n)]
    let b := b.bumpN (R.tePRxSkip p) (n - below.length)
    b.modTp p fun x => TePort.advance (x.acc.length + 1)
      { x with rxCum := low % 2 ^ 48, acc := x.acc.filter fun s => !Te.lt s low, skip := x.skip ++ holes }

/-- A duplicate is marked accepted again (R228). -/
def Block.rxMark (p : Nat) (g : Seg) (b : Block) : Block :=
  let b := b.modTp p (TePort.mark g.seq.toNat)
  if g.fo then b.modTp g.origPort (TePort.mark g.origSeq.toNat) else b

/-- The line port here that faces a port of a gateway, by the SENDER of transport control (R280). -/
def Block.facing (b : Block) (gw port : Nat) : Option Nat := [0, 1].find? fun p => b.peerOf p == some gw && ((b.tp p).sender.map fun s => s / 65536 % 2) == some port

/-- Initialisation vector of a key for a counter (R277). -/
def CcKey.iv (k : CcKey) (rctr : Nat) : List Byte := k.salt ++ Bits.beBytes 8 rctr

/-- The plaintext of a record under a key, when its tag verifies (R276, R280). -/
def CcKey.opens (k : CcKey) (r : Rec) : Option (List Byte) := Gcm.unseal k.key (k.iv r.rctr.toNat) r.aad r.ct r.tag

/-- The receive data slot for a record: that of the local port which faces the sender's KEY_PORT (R280). -/
def Block.rxSlotOf (b : Block) (r : Rec) : Option Nat := (b.facing r.sender.toNat (r.flags.toNat % 2)).map fun p => 4 * p + 1

/-- The receive data keys held for a record's epoch, newest first. -/
def Block.rxKeysOf (b : Block) (r : Rec) : List RxKey :=
  match b.rxSlotOf r with
  | some s => ((AMap.getD b.cc.rx s []).filter fun k => k.key.epoch == r.keyEpoch.toNat).reverse
  | none => []

/-- The receive key under which a record opens. -/
def Block.rxKeyOf (b : Block) (r : Rec) : Option RxKey := (b.rxKeysOf r).find? fun k => (k.key.opens r).isSome

/-- The messages of a record, opened under the key that opens it. -/
def Block.recMsgs (b : Block) (r : Rec) : List Msg :=
  match (b.rxKeyOf r).bind fun k => k.key.opens r with
  | some d => Msg.split (r.cls.toNat % 8) r.heads d
  | none => []

/-- The bit of a record's RCTR is set (R281). -/
def Block.setSeen (r : Rec) (b : Block) : Block :=
  match b.rxSlotOf r, b.rxKeyOf r with
  | some s, some k => { b with cc := { b.cc with rx := AMap.adjust b.cc.rx s fun ks => ks.map fun (x : RxKey) =>
      if x.ex = k.ex ∧ x.key.epoch = k.key.epoch then { x with seen := x.seen ++ [r.rctr.toNat] } else x } }
  | _, _ => b

/-- The data of the far operations among some messages passes from the CC to the FWU (R16). -/
def Block.passFar (msgs : List InMsg) (b : Block) : Block :=
  msgs.foldl (fun b x => if x.unit = 0 then (match x.buf with
    | some (h, job) => b.passBuf (some h) job 5 2
    | none => b) else b) b

/-- The CC frees the data of the far operations among some messages. -/
def Block.dropFarIn (msgs : List InMsg) (b : Block) : Block :=
  msgs.foldl (fun b x => if x.unit = 0 then (match x.buf with
    | some (h, job) => b.dropOwner h (Own.of job 5)
    | none => b) else b) b

/-- A segment of a port is accepted with its messages: it is marked, its records' bits are set, its cells are charged to receive
credit, and its content waits for the CE and FWU in the order of acceptance (R228, R230, R281). A copy whose content another copy has
brought meanwhile is a duplicate. Collective messages of a FENCED job are discarded (R32). -/
def Block.acceptSeg (p : Nat) (g : Seg) (msgs : List InMsg) (b : Block) : Block :=
  let b := b.passFar msgs
  if g.recs.any fun r => (b.rxKeyOf r).any fun k => k.seen.contains r.rctr.toNat then
    msgs.foldl (fun b x => b.freeInBuf x) ((b.rxMark p g).bump (R.tePRxDup p))
  else
    let b := (b.rxMark p g).bump64 (R.tePRxsegLo p) 1
    let b := g.recs.foldl (fun b r => b.setSeen r) b
    let cells := Seg.cellsOf g.bodyLen.toNat
    let peer := (b.peerOf p).getD 0
    let c := g.cls.toNat % 8
    let b := b.modPr peer fun x => { x with got := x.got.set c (x.got.getD c 0 + cells) }
    let n := b.te.nextSeg + 1
    let gone (x : InMsg) : Bool := match x.msg with
      | .coll m => (b.job (m.job.toNat % 1024)).state == 1
      | _ => false
    let b : Block := { b with
      te := { b.te with nextSeg := n, held := AMap.set b.te.held n ⟨peer, c, cells, msgs.length⟩ }
      inbox := b.inbox ++ (msgs.filter fun x => !gone x).map fun m => { m with seg := n } }
    (msgs.filter gone).foldl (fun b x => b.freeIn { x with seg := n }) b

end Machine

end Sys2Proof
end

