-- ==== Sys2Proof/Machine/Ss.lean ====
section
/-! DEFINITION. Queue scheduling and rate shaping (chapter 9): queues and their entries, admission, the scale factor, buckets, and
the choice of the next segment. -/

namespace Sys2Proof.Machine

/-! ## Queues, aggregates and entries -/

/-- Line class of a queue (R255). -/
def Ss.clsOf (queue : Nat) : Nat := queue / 8 % 8
/-- An aggregate at the defaults of Table 9-3; its bucket is full. -/
def Agg.init : Agg := ⟨0, 1024, 65536, 0, 16, 0, 0, 1024 * 65536, 0⟩

/-- An aggregate. -/
def Block.agg (b : Block) (a : Nat) : Agg := AMap.getD b.ss.aggs a Agg.init

/-- The block with an aggregate changed. -/
def Block.modAgg (a : Nat) (f : Agg → Agg) (b : Block) : Block := b.onSs fun s => { s with aggs := AMap.set s.aggs a (f (b.agg a)) }

/-- Weight and start tag of a queue. -/
def Block.qw (b : Block) (n : Nat) : Nat × Nat := AMap.getD b.ss.qw n (65536, 0)

/-- The records of a queue, oldest first. -/
def Block.sq (b : Block) (n : Nat) : List Sealed := AMap.getD b.ss.queues n []

/-- The transmit queue of a stream at a compressor lane. -/
def Block.cxQueue (b : Block) (s : CxIn) : Nat := Ss.queueNo s.job (b.peerSlot s.peer) s.cls s.hdr.collId.toNat

/-- Streams that hold a class 3 output buffer in the CX. -/
def Block.cxBusy (b : Block) : List CxIn := b.cx.comp.flatMap fun e => e.2.busy.map Prod.fst

/-- Queues whose entries output buffers granted to engines reserve (R256). -/
def Block.reserved (b : Block) : List Nat := b.bm.bufs.filterMap fun e => if e.2.live then e.2.out.map Prod.fst else none

/-- Entries a queue holds, reserved ones included (R256, R257). -/
def Block.entries (b : Block) (n : Nat) : Nat :=
  (b.sq n).length + (b.outq.filter fun m => m.buf.isSome && m.queue == n).length + (b.cxBusy.filter fun s => b.cxQueue s == n).length +
    (b.reserved.filter (· == n)).length

/-- Entries of the pool in use. -/
def Block.entriesUsed (b : Block) : Nat :=
  Bits.sum (b.ss.queues.map fun e => e.2.length) + (b.outq.filter fun m => m.buf.isSome).length + b.cxBusy.length + b.reserved.length

/-- Entries of the pool (R256). -/
abbrev ssEntries : Nat := 2097152

/-- A class 3 output buffer may be granted for a queue: the queue is below its limit and an entry is free, of those that new work
leaves (R256, R257, Table 8-5). -/
def Block.entryOk (b : Block) (n : Nat) (draining : Bool) : Bool :=
  b.entries n < b.ss.force.limit && b.entriesUsed + (if draining then 0 else 8192) < ssEntries

/-- A class 3 output buffer with the entry of its queue, as one allocation. -/
def Block.takeQueued (n owner queue : Nat) (draining : Bool) (b : Block) : Option (Block × Nat) :=
  if b.entryOk queue draining then b.takeOut n owner draining else none

/-- A request of an engine is answered, if its buffer, and the entry of its queue with it, may be taken now (R256, R387). -/
def Block.engGrant? (a : EngAlloc) (b : Block) : Option Block :=
  if a.queue.all fun n => b.entryOk n a.draining then b.engAlloc? a else none

/-- ENGINE_BUF_ALLOC: an engine takes a buffer, or waits in its context when none is free (R387). -/
def Ss.engineAlloc (a : EngAlloc) (b : Block) : Block :=
  (b.engGrant? a).getD { b with bm := { b.bm with engWait := b.bm.engWait ++ [a] } }

/-- Engine requests that wait are answered as buffers are freed, in order of arrival: run at the end of each row. -/
def Block.engRetry : List EngAlloc → Block → Block
  | [], b => b
  | a :: l, b =>
    match b.engGrant? a with
    | some b => Block.engRetry l { b with bm := { b.bm with engWait := b.bm.engWait.erase a } }
    | none => Block.engRetry l b

/-! ## Guarantees (R267 to R271) -/

/-- The peer of a peer slot (R254). -/
def Block.slotPeer (b : Block) (slot : Nat) : Option Nat :=
  if slot = 0 then b.peerOf 0 else if b.peerOf 1 == b.peerOf 0 then none else b.peerOf 1

/-- The line ports whose peer is that of a slot. -/
def Block.slotPorts (b : Block) (slot : Nat) : List Nat :=
  match b.slotPeer slot with
  | some g => b.portsTo g
  | none => []

/-- Admitted sum of a slot in Mb/s. -/
def Block.admitSum (b : Block) (slot : Nat) : Nat := Bits.sum ((b.ss.aggs.filter fun e => Ss.slotOf e.1 == slot).map fun e => e.2.rate)

/-- Admitted memory sum, in units of 1/128,000 GB/s. -/
def Block.admitMem (b : Block) : Nat := Bits.sum (b.ss.aggs.map fun e => e.2.rate * e.2.memf)

/-- Members of a line port for R270: those in its own TX_MAP, or in slotted mode its cell-channel slots over 80, in 1/80. -/
def Block.members80 (b : Block) (p : Nat) : Nat :=
  if b.bit (R.lfStat p) 5 then b.fld (R.lfTsiStat p) 11 0 else 80 * Bits.ones 32 (b.regN (R.lfTxMap p))

/-- The scale factor of R270 in 1/65,536, and its cause. -/
def Block.scaleNow (b : Block) : Nat × Nat :=
  let pct := b.ss.force.line
  let line (slot : Nat) : Nat :=
    let sum := b.admitSum slot
    if sum = 0 then 65536
    else
      let m := Bits.sum (((b.slotPorts slot).filter fun p => (b.tp p).usable).map b.members80)
      65536 * 6400000 * m * pct / (80 * 32 * 100 * sum)
  let fl := min 65536 (min (line 0) (line 1))
  let ms := b.admitMem
  let fm := if ms = 0 then 65536 else
    min 65536 (65536 * b.ss.force.mem * b.fld R.memBwFrac 16 0 * b.fld R.pcrThrMemfrac 16 0 * 128000 / (2 ^ 32 * ms))
  (min fl fm, (if fl < 65536 then 1 else 0) + (if fm < 65536 then 2 else 0))

/-- SCALE_FACTOR_UPDATE: a new factor is applied and reported (R270, Table 18-4). -/
def Ss.scaleUpdate (b : Block) : Block :=
  let (f, cause) := b.scaleNow
  let old := b.ss.f
  let b := b.putN R.ssScale ((if f < 65536 then 2 ^ 31 else 0) + Bits.ofBool (b.bit R.ssScale 30) * 2 ^ 30 + cause * 2 ^ 28 + f)
  let b := b.onSs fun s => { s with f := f, scaledTill := if old < 65536 then some b.now else s.scaledTill }
  if f < 65536 ∧ old = 65536 then
    (b.setBits R.ssScale (2 ^ 30)).event 0x0005 1 devJob 32 (Bits.leBytes 4 f ++ Bits.leBytes 1 cause)
  else b

/-- The fields of JOB_RATE that break R267, in order. -/
def Ss.rateBad (b : Block) (r : Req) : List (Nat × Bool) :=
  let qw := Bits.bit r.a2 31
  let q := Bits.fld r.a2 13 8
  let ovh := Bits.toInt 16 (r.u 44 2)
  [(16, r.nz 16 8), (24, r.nz 24 4),
   (28, Bits.fld r.a2 30 14 != 0 || Bits.fld r.a2 7 3 != 0 || (if qw then decide (q < 8) else q != 0) ||
     Bits.bit r.a2 2 && ((b.peerOf 1).isNone || b.peerOf 1 == b.peerOf 0)),
   (32, if qw then r.nz 32 4 else 6400000 < r.u 32 4),
   (36, if qw then r.nz 36 4 else r.u 36 4 < 4 || 262144 < r.u 36 4),
   (44, if qw then r.nz 44 2 else decide (ovh < -128) || decide (1023 < ovh)),
   (46, if qw then r.nz 46 2 else r.u 46 2 < 16 || 1023 < r.u 46 2),
   (48, r.nz 48 16)]

/-- JOB_RATE (R267, R268). -/
def Ss.jobRate (id : Nat) (r : Req) (b : Block) : Block :=
  Ci.check8 id r (Ss.rateBad b r) (fun b =>
    let a := 8 * b.cmdJob r + r.a2 % 8
    if Bits.bit r.a2 31 then
      let n := 64 * a + Bits.fld r.a2 13 8
      (b.onSs fun s => { s with qw := AMap.set s.qw n (r.u 40 4, (b.qw n).2) }).complete id ⟨St.ok, 0, 0, 0, 0⟩
    else
      let old := b.agg a
      let rate := r.u 32 4
      let memf := r.u 46 2
      let burst := r.u 36 4
      let b' := b.modAgg a fun x => { x with
        rate := rate, burst := burst, weight := r.u 40 4, ovh := Bits.toInt 16 (r.u 44 2), memf := memf }
      let slot := Ss.slotOf a
      let raise := old.rate < rate || old.memf < memf
      let refuse (d : Nat) : Block := (b.bump R.ssRefuseCnt).done id St.overcommit d
      if raise && 6400000 * (b.slotPorts slot).length * b.ss.force.line < 100 * b'.admitSum slot then refuse 1
      else if raise && 128000 * b.ss.force.mem < b'.admitMem then refuse 2
      else
        let b' := Ss.scaleUpdate b'
        b'.complete id ⟨St.ok, 0, 0, rate, rate * b'.ss.f / 65536⟩) b

/-- The guarantees of a job are withdrawn (R271). -/
def Block.rateWithdraw (job : Nat) (b : Block) : Block :=
  Ss.scaleUpdate (b.onSs fun s => { s with aggs := s.aggs.map fun (e : Nat × Agg) => if e.1 / 8 = job then (e.1, { e.2 with rate := 0 }) else e })

/-- The aggregates and queues of a job return to the defaults (R271). -/
def Block.rateDefaults (job : Nat) (b : Block) : Block :=
  Ss.scaleUpdate (b.onSs fun s => { s with
    aggs := s.aggs.filter fun (e : Nat × Agg) => e.1 / 8 != job
    qw := s.qw.filter fun (e : Nat × (Nat × Nat)) => e.1 / 512 != job })

/-- A record holds a fence notice. -/
def Sealed.notice (r : Sealed) : Bool := r.msgs.any fun m => match m.msg with | .fence _ => true | _ => false

/-- The queued records of a job are discarded and their buffers and entries freed (R271), but for those that a test keeps. -/
def Block.ssDrop (job : Nat) (keep : Sealed → Bool) (b : Block) : Block :=
  let gone := (b.ss.queues.filter fun e => Ss.jobOf e.1 == job).flatMap fun e => e.2.filter fun r => !keep r
  let b := gone.foldl (fun b r => b.freeOut r.buf job 7) b
  b.onSs fun s => { s with queues := (s.queues.map fun (e : Nat × List Sealed) =>
    if Ss.jobOf e.1 = job then (e.1, e.2.filter keep) else e).filter fun (e : Nat × List Sealed) => !e.2.isEmpty }

/-! ## Lengths and buckets (R263 to R265) -/

/-- Counted length of a segment with a body of `n` bytes. -/
def Ss.len (n : Nat) (ovh : Int) : Nat := max 16 (16 * (Seg.cellsOf n : Int) + ovh).toNat

/-- Overhead of a port's buckets. -/
def Block.portOvh (b : Block) (p : Nat) : Int := b.ss.force.ovh.getD p 0

/-- The SS registers as they stand. -/
def Block.ssRegs (b : Block) : SsRegs :=
  let two {α : Type} (f : Nat → α) : List α := [f 0, f 1]
  ⟨b.fld R.ssAdmitLine 6 0, b.fld R.ssAdmitMem 13 0, b.fld R.ssQlimit 18 0, two fun p => b.fld (R.ssPRate p) 22 0, two fun p => b.fld (R.ssPBurst p) 18 0,
   two fun p => Bits.toInt 11 (b.fld (R.ssPOvh p) 10 0), two fun p => b.fld (R.ssPC1Rate p) 22 0, two fun p => b.fld (R.ssPC1Burst p) 18 0⟩

/-- The port bucket, and for a first transmission of class 1 the class 1 bucket, pay for a segment. -/
def Block.portCharge (p n : Nat) (first1 : Bool) (b : Block) : Block :=
  let l : Int := 64 * (Ss.len n (b.portOvh p) : Int)
  b.onSs fun s => { s with
    port := s.port.set p (s.port.getD p 0 - l)
    c1 := if first1 then s.c1.set p (s.c1.getD p 0 - l) else s.c1 }

/-- A bucket after one refill. -/
def Ss.fill (tok : Int) (rate burst : Nat) : Int := min (tok + rate) (burst * 65536)

/-- A queue's head record would make a segment its peer's credit covers (R233). -/
def Block.creditFor (b : Block) (peer cls n : Nat) : Bool :=
  let x := b.pr peer
  !Te.lt (x.lim.getD cls 0) ((x.sent.getD cls 0 + Seg.cellsOf n) % 2 ^ 48)

/-- Bytes of a port's half of the replay store in use (R221, R243). -/
def Block.replayUsed (b : Block) (p : Nat) : Nat :=
  Bits.sum (b.te.ports.flatMap fun e => (e.2.segs.filter fun g => g.2.home == p).map fun g => 16 * Seg.cellsOf g.2.len)

/-- A port's half has room for a segment; new work leaves 2 GiB (R235, Table 8-5). -/
def Block.replayRoom (b : Block) (p n : Nat) (draining : Bool) : Bool :=
  b.replayUsed p + 16 * Seg.cellsOf n + (if draining then 0 else 2 * gib) ≤ b.replayGib * gib / 2

/-- A record holds only draining work. -/
def Sealed.draining (r : Sealed) : Bool := r.msgs.all fun m => m.msg.draining

/-- The queues of a peer slot that hold a record, with their head. -/
def Block.heads (b : Block) (slot : Nat) : List (Nat × Sealed) :=
  b.ss.queues.filterMap fun e => match e.2 with
    | r :: _ => if Ss.slotOf (Ss.aggOf e.1) = slot then some (e.1, r) else none
    | [] => none

/-- The peer slot a port serves. -/
def Block.portSlot (b : Block) (p : Nat) : Nat := if p = 1 && b.slotPeer 1 == b.peerOf 1 && (b.peerOf 1).isSome then 1 else 0

/-- A queue is eligible for a port but for the port's bucket (R259); none of a job for which strict mode has stopped the SS or the TE (R392). -/
def Block.eligible (b : Block) (p : Nat) (e : Nat × Sealed) : Bool :=
  !b.engStopped (Ss.jobOf e.1) 7 && !b.engStopped (Ss.jobOf e.1) 6 && b.creditFor ((b.peerOf p).getD 0) (Ss.clsOf e.1) e.2.raw.length && b.replayRoom p e.2.raw.length e.2.draining

/-- A queue is weighted (R260). -/
def Block.weighted (b : Block) (n : Nat) : Bool := (b.qw n).1 != 0 && (b.agg (Ss.aggOf n)).weight != 0

/-- A stall counter counts the microsecond in which its condition held, once. -/
def Block.stallTick (p k r : Nat) (on : Bool) (b : Block) : Block :=
  if on && AMap.get? b.ss.stallAt (2 * p + k) != some (b.now / 8000) then
    (b.bump r).onSs fun s => { s with stallAt := AMap.set s.stallAt (2 * p + k) (b.now / 8000) }
  else b

/-- The stalls of a port in this microsecond: an eligible queue held by the port's bucket, and one held by credit (Table 9-7). -/
def Block.countStalls (b : Block) (p : Nat) : Block :=
  let hs := b.heads (b.portSlot p)
  let b := b.stallTick p 0 (R.ssPBktStall p) (decide (b.ss.port.getD p 0 < 0) && hs.any (b.eligible p))
  b.stallTick p 1 (R.ssPCredStall p) (hs.any fun e => !b.creditFor ((b.peerOf p).getD 0) (Ss.clsOf e.1) e.2.raw.length)

/-- BUCKET_REFILL: the stalls of this microsecond are counted, changes of RATE, BURST and the SS registers take effect, and every bucket gains
its rate and is capped (R264, R272, Table 9-7). -/
def Ss.refill (b : Block) : Block :=
  let b := (b.countStalls 0).countStalls 1
  let r := b.ssRegs
  b.onSs fun s => { s with
    force := r
    port := [0, 1].map fun p => Ss.fill (s.port.getD p 0) (r.rate.getD p 0) (r.burst.getD p 0)
    c1 := [0, 1].map fun p => Ss.fill (s.c1.getD p 0) (r.rate1.getD p 0) (r.burst1.getD p 0)
    aggs := s.aggs.map fun (e : Nat × Agg) => (e.1, { e.2 with on := e.2.rate, tok := Ss.fill e.2.tok (e.2.rate * s.f / 65536) e.2.burst }) }

/-! ## The choice of the next segment (R258 to R262) -/

/-- Virtual finish time. -/
def Ss.fin (s v len w : Nat) : Nat := (max s v + len * 2 ^ 32 / w) % 2 ^ 64

/-- A tag is earlier than another. -/
def Ss.earlier (x y : Nat) : Bool := 2 ^ 63 ≤ (x + 2 ^ 64 - y) % 2 ^ 64

/-- The candidate with the earliest tag, the first one on a tie. -/
def Ss.first (l : List (Nat × Nat)) : Option (Nat × Nat) :=
  l.foldl (fun (m : Option (Nat × Nat)) e => match m with
    | none => some e
    | some x => if Ss.earlier e.2 x.2 then some e else m) none

/-- The weighted queue that WFQ chooses among eligible ones: the aggregate's candidate by its inner tags, then the aggregate. -/
def Block.wfq (b : Block) (slot : Nat) (es : List (Nat × Sealed)) : Option Nat :=
  let v := b.ss.vt.getD slot 0
  let aggs := (es.map fun e => Ss.aggOf e.1).eraseDups
  let cands := aggs.filterMap fun a =>
    let x := b.agg a
    let qs := (es.filter fun e => Ss.aggOf e.1 == a).map fun e =>
      let w := b.qw e.1
      (e.1, Ss.fin w.2 x.v (Ss.len e.2.raw.length x.ovh) w.1)
    (Ss.first qs).bind fun q => (es.find? fun e => e.1 == q.1).map fun e =>
      (q.1, Ss.fin x.s v (Ss.len e.2.raw.length x.ovh) x.weight)
  (Ss.first cands).map Prod.fst

/-- The next queue of a round robin by queue number. -/
def Ss.next (last : Nat) (ns : List Nat) : Option Nat :=
  match ns.find? (last < ·) with
  | some n => some n
  | none => ns.head?

/-- The first tier with an eligible queue, and the queue it chooses (R260). -/
def Block.ssPick (b : Block) (p : Nat) : Option (Nat × Nat) :=
  let slot := b.portSlot p
  let es := (b.heads slot).filter (b.eligible p)
  let c1 := b.ss.force.rate1.getD p 0 != 0 && decide (0 ≤ b.ss.c1.getD p 0)
  let cls (e : Nat × Sealed) : Nat := Ss.clsOf e.1
  let w := es.filter fun e => b.weighted e.1
  let w16 := w.filter fun e => 1 ≤ cls e && cls e ≤ 6 && (cls e != 1 || !c1)
  let t1 := w16.filter fun e => let x := b.agg (Ss.aggOf e.1); x.on != 0 && decide (0 ≤ x.tok)
  let u := (es.filter fun e => !b.weighted e.1)
  let rr (k : Nat) (l : List (Nat × Sealed)) : Option Nat := Ss.next (AMap.getD b.ss.rr (2 * slot + k) 0) (l.map Prod.fst)
  let pick (t : Nat) (o : Option Nat) : Option (Nat × Nat) := o.map fun n => (t, n)
  if b.ss.port.getD p 0 < 0 then none
  else
    (pick 0 (if c1 then b.wfq slot (w.filter fun e => cls e == 1) else none)).orElse fun _ =>
    (pick 1 (b.wfq slot t1)).orElse fun _ =>
    (pick 2 (b.wfq slot w16)).orElse fun _ =>
    (pick 3 (rr 0 (u.filter fun e => 1 ≤ cls e && cls e ≤ 6))).orElse fun _ =>
    (pick 4 (b.wfq slot (w.filter fun e => cls e == 7))).orElse fun _ =>
    pick 4 (rr 1 (u.filter fun e => cls e == 7))

/-- The records of one segment: the head of a queue and each that follows while the body and the credit allow (R258). -/
def Block.batch (b : Block) (p n : Nat) : List Sealed → List Sealed → List Sealed
  | acc, [] => acc
  | acc, r :: rs =>
    let len := Bits.sum ((acc ++ [r]).map fun x => x.raw.length)
    if acc.isEmpty || len ≤ 66048 && b.creditFor ((b.peerOf p).getD 0) (Ss.clsOf n) len && b.replayRoom p len ((acc ++ [r]).all Sealed.draining) then
      Block.batch b p n (acc ++ [r]) rs
    else acc

/-- Tags and buckets pay for a segment taken from a queue in a tier (R261, R265). -/
def Block.ssCharge (p t n len : Nat) (b : Block) : Block :=
  let a := Ss.aggOf n
  let slot := Ss.slotOf a
  let x := b.agg a
  let l := Ss.len len x.ovh
  let b := b.portCharge p len (Ss.clsOf n == 1)
  let b := b.bump (R.ssPTierCnt0 p + 4 * t)
  let wf := b.weighted n
  let w := b.qw n
  let s' := Ss.fin x.s (b.ss.vt.getD slot 0) l x.weight
  let q' := Ss.fin w.2 x.v l w.1
  let b := b.modAgg a fun y => { y with
    tok := y.tok - 64 * (l : Int)
    s := if wf then s' else y.s
    v := if wf then q' else y.v }
  b.onSs fun z => { z with
    vt := if wf then z.vt.set slot s' else z.vt
    qw := if wf then AMap.set z.qw n (w.1, q') else z.qw
    rr := if wf then z.rr else AMap.set z.rr (2 * slot + (if t = 3 then 0 else 1)) n }

/-- The next segment for a port: the queue it comes from and its records, with the block after it is charged (R258). -/
def Block.ssTake (p : Nat) (b : Block) : Option (Nat × List Sealed × Block) :=
  (b.ssPick p).bind fun (t, n) =>
    let rs := b.batch p n [] (b.sq n)
    if rs.isEmpty then none
    else
      let rest := (b.sq n).drop rs.length
      let b := b.onSs fun s => { s with queues := if rest.isEmpty then AMap.erase s.queues n else AMap.set s.queues n rest }
      some (n, rs, b.ssCharge p t n (Bits.sum (rs.map fun x => x.raw.length)))

/-! ## Register views -/

/-- SS_ADMIT_MEMSUM: GB/s, rounded up. -/
def Block.memSumView (b : Block) : Nat := Bits.ceilDiv b.admitMem 128000

end Sys2Proof.Machine
end

