-- ==== Sys2Proof/Machine/Stream.lean ====
section
/-! DEFINITION. The compressed stream format (R194 to R203) and its checks (Table 7-6). -/

namespace Sys2Proof.Machine

/-- A symbol with the number and the value of its extra bits. -/
abbrev Sym : Type := Nat × Nat × Nat

/-- Symbols of a run of `n` zero bytes: a run symbol from 3 bytes on, else literals (R197, R198). -/
def Stream.run (n : Nat) : List Sym :=
  if n < 3 then List.replicate n (0, 0, 0)
  else
    let k := Nat.log2 (n - 1) - 1
    [(257 + k, k + 1, n - 2 ^ (k + 1) - 1)]

/-- The symbols of a block after `run` zero bytes, EOB last (R198). -/
def Stream.symbols : List Byte → Nat → List Sym
  | [], run => Stream.run run ++ [(256, 0, 0)]
  | b :: bs, run => if b = 0#8 then Stream.symbols bs (run + 1) else Stream.run run ++ (b.toNat, 0, 0) :: Stream.symbols bs 0

/-- How often each of the 271 symbols occurs. -/
def Stream.freq (ss : List Sym) : List Nat :=
  (ss.foldl (fun (a : Array Nat) s => a.modify s.1 (· + 1)) (List.replicate 271 0).toArray).toList

/-- A node of the builder: weight, identifier and the symbols below it. -/
abbrev Node : Type := Nat × Nat × List Nat

/-- A node placed in a list ordered by weight and identifier (R202). -/
def Stream.place (x : Node) : List Node → List Node
  | [] => [x]
  | y :: ys => if x.1 < y.1 ∨ x.1 = y.1 ∧ x.2.1 < y.2.1 then x :: y :: ys else y :: Stream.place x ys

/-- The two lowest nodes join until one is left; every symbol below a join is one bit longer. -/
def Stream.join : Nat → Nat → List Node → Array Nat → Array Nat
  | 0, _, _, len => len
  | k + 1, next, a :: b :: ns, len =>
    let ss := a.2.2 ++ b.2.2
    Stream.join k (next + 1) (Stream.place (a.1 + b.1, next, ss) ns) (ss.foldl (fun l s => l.modify s (· + 1)) len)
  | _, _, _, len => len

/-- Code lengths of counts, before the limit of 15 is looked at. -/
def Stream.lengths1 (freq : List Nat) : List Nat :=
  let leaves := (freq.zipIdx.filter fun e => e.1 != 0).map fun e => ((e.1, e.2, [e.2]) : Node)
  (Stream.join 271 271 (leaves.foldr Stream.place []) (List.replicate 271 0).toArray).toList

/-- Code lengths of counts: the counts are halved until no length is above 15 (R202); `k` bounds the halvings. -/
def Stream.lengths : Nat → List Nat → List Nat
  | 0, freq => Stream.lengths1 freq
  | k + 1, freq =>
    let l := Stream.lengths1 freq
    if l.all (· ≤ 15) then l else Stream.lengths k (freq.map fun f => (f + 1) / 2)

/-- Canonical codes: length, code and symbol of each symbol that occurs, in order (R200). -/
def Stream.codes (len : List Nat) : List (Nat × Nat × Nat) :=
  let step (acc : Nat × List (Nat × Nat × Nat)) (l : Nat) : Nat × List (Nat × Nat × Nat) :=
    let here := (len.zipIdx.filter fun e => e.1 == l).map (·.2)
    let r := here.foldl (fun (a : Nat × List (Nat × Nat × Nat)) s => (a.1 + 1, (l, a.1, s) :: a.2)) acc
    (2 * r.1, r.2)
  (((List.range 15).map (· + 1)).foldl step (0, [])).2.reverse

/-- The low `n` bits of `v`, most significant first. -/
def Stream.bitsOf : Nat → Nat → List Bool
  | 0, _ => []
  | n + 1, v => (v / 2 ^ n % 2 == 1) :: Stream.bitsOf n v

/-- Bytes filled from bit 7 down; the last one padded with 0 (R201). -/
def Stream.pack : Nat → List Bool → List Byte
  | 0, _ => []
  | k + 1, bs =>
    if bs.isEmpty then []
    else
      let h := bs.take 8 ++ List.replicate (8 - bs.length) false
      BitVec.ofNat 8 (h.foldl (fun v x => 2 * v + Bits.ofBool x) 0) :: Stream.pack k (bs.drop 8)

/-- The 136 bytes of code lengths (R199). -/
def Stream.lenBytes (len : List Nat) : List Byte :=
  (List.range 136).map fun i => BitVec.ofNat 8 (16 * len.getD (2 * i) 0 + len.getD (2 * i + 1) 0)

/-- The coded body of a block (R199 to R202). -/
def Stream.coded (blk : List Byte) : List Byte :=
  let ss := Stream.symbols blk 0
  let len := Stream.lengths 64 (Stream.freq ss)
  let tab := (Stream.codes len).map fun e => (e.2.2, e.1, e.2.1)
  let bits := ss.flatMap fun s =>
    let (l, c) := (List.lookup s.1 tab).getD (0, 0)
    Stream.bitsOf l c ++ Stream.bitsOf s.2.1 s.2.2
  Stream.lenBytes len ++ Stream.pack bits.length bits

/-- BTYPE and body of a block, and the reason it is stored: 0 coded, 1 stored by choice, 2 zero, 3 forced (R196). -/
def Stream.block (forced : Bool) (blk : List Byte) : Nat × List Byte × Nat :=
  if forced then (0, blk, 3)
  else if blk.all (· == 0#8) then (2, [], 2)
  else
    let c := Stream.coded blk
    if c.length < blk.length then (1, c, 0) else (0, blk, 1)

/-- Bytes of each block of an input of `n` bytes (R195). -/
def Stream.split (n : Nat) : List Nat :=
  let k := Bits.ceilDiv n 32768
  let s := Bits.ceilDiv n k
  (List.range k).map fun i => if i + 1 < k then s else n - s * (k - 1)

/-- The pieces of a list of given lengths. -/
def Stream.pieces : List Nat → List Byte → List (List Byte)
  | [], _ => []
  | n :: ns, bs => bs.take n :: Stream.pieces ns (bs.drop n)

/-- The stream of an input, and for each block the reason of `Stream.block` (R194 to R203). -/
def Stream.encode (forced : Bool) (raw : List Byte) : List Byte × List Nat :=
  let blks := Stream.pieces (Stream.split raw.length) raw
  let parts := blks.zipIdx.map fun (b, i) =>
    let (ty, body, why) := Stream.block forced b
    (Bits.leBytes 1 (ty + if i + 1 = blks.length then 128 else 0) ++ Bits.leBytes 1 0 ++ Bits.leBytes 2 (b.length - 1) ++
      Bits.leBytes 2 body.length ++ Bits.leBytes 2 0 ++ Bits.leBytes 4 (Crc.crc32c b).toNat ++ body, why)
  let body := parts.flatMap (·.1)
  (Bits.leBytes 1 1 ++ Bits.leBytes 1 blks.length ++ Bits.leBytes 1 (Bits.ofBool forced) ++ Bits.leBytes 1 0 ++
    Bits.leBytes 4 raw.length ++ Bits.leBytes 4 (16 + body.length) ++ Bits.leBytes 4 0 ++ body, parts.map (·.2))

/-! ## Decoding (R211, Table 7-6) -/

/-- Symbols with their extra values up to EOB, and the bits after it; `none` when the bits end first. `pend` is a run symbol whose
extra bits are being read. -/
def Stream.parse (tab : List ((Nat × Nat) × Nat)) : List Bool → Nat → Nat → Option (Nat × Nat × Nat) → Option (List (Nat × Nat) × List Bool)
  | [], _, _, _ => none
  | x :: xs, len, code, pend =>
    match pend with
    | some (s, n, v) =>
      let v := 2 * v + Bits.ofBool x
      if n ≤ 1 then (Stream.parse tab xs 0 0 none).map fun r => ((s, v) :: r.1, r.2) else Stream.parse tab xs 0 0 (some (s, n - 1, v))
    | none =>
      let code := 2 * code + Bits.ofBool x
      match List.lookup (len + 1, code) tab with
      | none => Stream.parse tab xs (len + 1) code none
      | some s =>
        if s = 256 then some ([], xs)
        else if s < 256 then (Stream.parse tab xs 0 0 none).map fun r => ((s, 0) :: r.1, r.2)
        else Stream.parse tab xs 0 0 (some (s, s - 256, 0))

/-- Bytes of a parsed symbol. -/
def Stream.expand (s : Nat × Nat) : List Byte :=
  if s.1 < 256 then [BitVec.ofNat 8 s.1] else List.replicate (2 ^ (s.1 - 256) + 1 + s.2) 0#8

/-- A coded body decoded to `want` bytes, or the number of the check of 4 to 8 that fails. -/
def Stream.decodeBlock (body : List Byte) (want : Nat) : List Byte × Nat :=
  let lens := (body.take 136).flatMap fun v => [v.toNat / 16, v.toNat % 16]
  let len := lens.take 271
  let kraft := Bits.sum (len.map fun l => if l = 0 then 0 else 2 ^ (15 - l))
  if kraft ≠ 2 ^ 15 ∨ len.getD 256 0 = 0 ∨ lens.getD 271 0 ≠ 0 then ([], 4)
  else
    let tab := (Stream.codes len).map fun e => ((e.1, e.2.1), e.2.2)
    match Stream.parse tab ((body.drop 136).flatMap fun v => Stream.bitsOf 8 v.toNat) 0 0 none with
    | none => ([], 5)
    | some (ss, rest) =>
      let n := Bits.sum (ss.map fun s => if s.1 < 256 then 1 else 2 ^ (s.1 - 256) + 1 + s.2)
      if want < n then ([], 6)
      else if n < want then ([], 7)
      else if 7 < rest.length || rest.any id then ([], 8)
      else (ss.flatMap Stream.expand, 0)

/-- A block as its header gives it. -/
structure StreamBlk where
  ty    : Nat
  want  : Nat
  crc   : Nat
  body  : List Byte
deriving DecidableEq, Repr

/-- The blocks of a stream of the given input lengths, when check 3 passes. -/
def Stream.blocks (forced : Bool) : List Nat → List Byte → Option (List StreamBlk)
  | [], bs => if bs.isEmpty then some [] else none
  | w :: ws, bs =>
    let f (o n : Nat) : Nat := Bits.ofLe ((bs.drop o).take n)
    let ty := f 0 1 % 4
    let blen := f 4 2
    let bad := bs.length < 12 + blen || bs.length < 12 || ty == 3 || f 0 1 / 4 % 32 != 0 || Bits.bit (f 0 1) 7 != ws.isEmpty || f 1 1 != 0 ||
      f 2 2 != w - 1 || f 6 2 != 0 || ty == 0 && blen != w || ty == 2 && blen != 0 || ty == 1 && blen < 137 || forced && ty != 0
    if bad then none
    else (Stream.blocks forced ws (bs.drop (12 + blen))).map fun r => ⟨ty, w, f 8 4, (bs.drop 12).take blen⟩ :: r

/-- Blocks decoded in order, or the first check that fails. -/
def Stream.decodeBlks : List StreamBlk → List Byte × Nat
  | [] => ([], 0)
  | b :: bs =>
    let (out, chk) := if b.ty = 0 then (b.body, 0) else if b.ty = 2 then (List.replicate b.want 0#8, 0) else Stream.decodeBlock b.body b.want
    if chk ≠ 0 then ([], chk)
    else if (Crc.crc32c out).toNat ≠ b.crc then ([], 9)
    else
      let (rest, c) := Stream.decodeBlks bs
      if c ≠ 0 then ([], c) else (out ++ rest, 0)

/-- A stream of a message of `length` bytes decoded, or the number of the check that fails (0 for none). `most` is the upper limit of
RAW_TOTAL, `expect` the size that a tile must have. -/
def Stream.decode (s : List Byte) (length most : Nat) (expect : Option Nat) : List Byte × Nat :=
  let f (o n : Nat) : Nat := Bits.ofLe ((s.drop o).take n)
  if s.length < 16 ∨ f 0 1 ≠ 1 ∨ f 2 1 / 2 ≠ 0 ∨ f 3 1 ≠ 0 ∨ f 12 4 ≠ 0 then ([], 1)
  else
    let total := f 4 4
    if f 8 4 ≠ length ∨ total = 0 ∨ most < total ∨ expect.any (· != total) then ([], 2)
    else
      let ws := Stream.split total
      if f 1 1 ≠ ws.length then ([], 3)
      else match Stream.blocks (Bits.bit (f 2 1) 0) ws (s.drop 16) with
        | none => ([], 3)
        | some bs => Stream.decodeBlks bs

/-- RAW_TOTAL of a stream, by its header. -/
def Stream.total (s : List Byte) : Nat := Bits.ofLe ((s.drop 4).take 4)

end Sys2Proof.Machine
end

