-- ==== Sys2Proof/Machine/Cx.lean ====
section
/-! DEFINITION. The compression engine at work (chapter 7): lanes, output buffers, decoding of opened segments, and its limits. -/

namespace Sys2Proof.Machine

/-- The block with its CX changed. -/
def Block.onCx (f : CxState → CxState) (b : Block) : Block := { b with cx := f b.cx }

/-- A compressor lane. -/
def Block.lane (b : Block) (l : Nat) : CxLane := (AMap.get? b.cx.comp l).getD ⟨[], []⟩

/-- The block with a compressor lane set. -/
def Block.setLane (l : Nat) (x : CxLane) (b : Block) : Block := b.onCx fun c => { c with comp := AMap.set c.comp l x }

/-- Bytes of the output buffer of a stream (R207). -/
def Cx.outBytes (n : Nat) : Nat := n + 16 + 12 * (Stream.split n).length

/-- CX_DRAUGHT_START of a lane: the first stream of its queue, of a job for which strict mode has not stopped the CX, gets its output buffer and
enters the draught pass (R205, R207, R392); a lane holds three streams, one in each stage. -/
def Cx.draughtStart (l : Nat) (b : Block) : Block :=
  let x := b.lane l
  match x.queue.findIdx? fun s => !b.engStopped s.job 4 with
  | none => b
  | some i => match x.queue[i]? with
    | none => b
    | some s =>
    if 3 ≤ x.busy.length then b
    else
      let draining := s.hdr.ckind != 3#8
      match b.takeQueued (Cx.outBytes s.raw.length) (Own.of s.job 4) (b.cxQueue s) draining with
      | none => b
      | some (b, h) => b.setLane l { queue := Bits.removeAt x.queue i, busy := x.busy ++ [(s, h)] }

/-- The owner of a stream that a compressor cannot read fails (R214). -/
def Block.cxFail (s : CxIn) (b : Block) : Block :=
  if s.hdr.ckind = 3#8 then b.collFail s.coll St.decodeError 10 0 none else b.tileFail s.coll s.tile St.decodeError 10

/-- Counter of blocks sent by what `Stream.block` chose: coded, stored by choice, zero, forced (Table 7-7). -/
def Cx.blkReg (k : Nat) : Nat := if k = 0 then R.cxBlkCoded else if k = 1 then R.cxBlkStored else if k = 2 then R.cxBlkZero else R.cxBlkForced

/-- An encoded stream goes on to the CC with its output buffer, and its input is freed (R207). -/
def Block.cxSend (s : CxIn) (h : Nat) (b : Block) : Block :=
  let (bytes, kinds) := Stream.encode s.forced s.raw
  let b := (b.bump64 R.cxCinBytesLo s.raw.length).bump64 R.cxCoutBytesLo bytes.length
  let b := kinds.foldl (fun b k => b.bump (Cx.blkReg k)) b
  let b := b.passBuf (some h) s.job 4 5
  let m := { s.hdr with body := bytes, length := BitVec.ofNat 32 bytes.length }
  ({ b with outq := b.outq ++ [(⟨b.cxQueue s, s.peer, .coll m, s.cmd, b.now, some h, none, none⟩ : OutMsg)] } : Block).freeOut s.buf s.job 4

/-- CX_STREAM_DONE of a lane: the oldest stream in it is finished and goes to the CC with its buffer, or its input was poison
(R207, R214). -/
def Cx.streamDone (l : Nat) (b : Block) : Block :=
  let x := b.lane l
  match x.busy with
  | [] => b
  | (s, h) :: rest =>
    let b := b.setLane l { x with busy := rest }
    if s.buf.any b.bufPoison then
      ((((((b.dropOwner h (Own.of s.job 4)).freeOut s.buf s.job 4).bump R.cxInPoison).bump (R.cxDecErr 9)).cxTrace 3 s.job (s.hdr.collId.toNat % 4096) l 10 b.gw).cxFail s)
    else b.cxSend s h

/-! ## Decoding (R210 to R213) -/

/-- A message carries a stream (R191). -/
def Cx.isStream (m : Msg) : Bool :=
  match m with
  | .coll c => c.ckind == 1#8 || c.ckind == 2#8 || c.ckind == 3#8
  | _ => false

/-- A collective message of a segment being decoded. -/
def CxSeg.msg (g : CxSeg) (ix : Nat) : Option CollMsg :=
  (g.msgs[ix]?).bind fun x => match x.msg with
    | .coll m => some m
    | _ => none

/-- Stream bytes queued at a decompressor lane. -/
def Block.decBytes (b : Block) (l : Nat) : Nat := Bits.sum ((AMap.getD b.cx.dec l []).map (·.len))

/-- The decompressor lane with the fewest queued bytes. -/
def Block.decLane (b : Block) : Nat :=
  ((List.range 32).foldl (fun (m : Nat × Nat) l => if b.decBytes l < m.1 then (b.decBytes l, l) else m) (b.decBytes 0, 0)).2

/-- The first waiting stream of a segment is of a job for which strict mode has stopped the CX (R392). -/
def Block.decStopped (b : Block) (g : CxSeg) : Bool := (g.wait.head?.bind g.msg).any fun m => b.engStopped (m.job.toNat % 1024) 4

/-- CX_DECODE_ACCEPT: the first waiting stream is accepted by a lane, with an output buffer of its RAW_TOTAL bytes (R210). -/
def Cx.decodeAccept (b : Block) : Block :=
  match b.cx.segs.find? fun e => !e.2.wait.isEmpty && !b.decStopped e.2 with
  | none => b
  | some (k, g) => match g.wait with
    | [] => b
    | ix :: rest => match g.msg ix with
      | none => b
      | some m =>
        let l := b.decLane
        let n := m.body.length
        let size := max 1 (min 49152 (Stream.total m.body))
        if b.fld R.cxDqlimit 10 0 * 1024 < b.decBytes l + n then b
        else match b.takeBuf size (Own.of (m.job.toNat % 1024) 4) with
          | none => b
          | some (b, h) => b.onCx fun c => { c with
              dec := AMap.set c.dec l (AMap.getD c.dec l [] ++ [⟨k, ix, n, h⟩])
              segs := AMap.set c.segs k { g with wait := rest, busy := g.busy ++ [ix], bufs := AMap.set g.bufs ix (h, m.job.toNat % 1024) } }

/-- The messages of a decoded segment, each stream with its buffer, which passes from the CX to the CE (R16). -/
def CxSeg.decoded (g : CxSeg) : List InMsg :=
  g.msgs.zipIdx.map fun (x, i) => if x.unit = 1 then { x with buf := AMap.get? g.bufs i } else x

/-- What a segment holds is freed: the output buffers of its streams, and the data of far operations in it. -/
def CxSeg.free (g : CxSeg) (b : Block) : Block := (g.bufs.foldl (fun b e => b.dropOwner e.2.1 (Own.of e.2.2 4)) b).dropFarIn g.msgs

/-- The decoded streams of a segment are released, or discarded when one failed (R213). -/
def Block.cxSegEnd (k : Nat) (g : CxSeg) (b : Block) : Block :=
  let b := b.onCx fun c => { c with segs := AMap.erase c.segs k }
  match g.bad with
  | some (ix, check) =>
    let b := g.free b
    let m := g.msg ix
    let cid := (m.map fun m => m.collId.toNat % 4096).getD 0
    let origin := (m.map fun m => m.origin.toNat).getD 0
    let b := b.putN R.cxLastErr (check * 2 ^ 28 + cid * 2 ^ 16 + origin)
    b.nakSeg g.port 5 1 check (g.seg.tryNo.toNat % 16) g.seg.seq.toNat
  | none => (g.bufs.foldl (fun b e => b.passBuf (some e.2.1) e.2.2 4 3) b).acceptSeg g.port g.seg g.decoded

/-- Index in a segment of the first failing message, with its check (R213). -/
def Cx.firstBad (old : Option (Nat × Nat)) (ix check : Nat) : Option (Nat × Nat) :=
  match old with
  | some (i, c) => if i ≤ ix then some (i, c) else some (ix, check)
  | none => some (ix, check)

/-- A decoded stream of a segment: what it holds, or the check that it fails; with its last stream the segment ends (R211, R213). -/
def Block.cxDecoded (l : Nat) (d : CxDec) (g : CxSeg) (m : CollMsg) (b : Block) : Block :=
  let a2a := m.ckind == 3#8
  let expect := if a2a then none else some (fmtSize m.wireFmt.toNat m.elems.toNat)
  let (raw, check) := Stream.decode m.body m.length.toNat (if a2a then 32768 else 49152) expect
  let b := b.bump64 R.cxDinBytesLo m.body.length
  let b := if check = 0 then b.bump64 R.cxDoutBytesLo raw.length
    else (b.bump (R.cxDecErr (check - 1))).cxTrace 3 (m.job.toNat % 1024) (m.collId.toNat % 4096) l check m.origin.toNat
  let m' := { m with body := raw, length := BitVec.ofNat 32 raw.length }
  let g := { g with
    busy := g.busy.filter (· != d.ix)
    bad := if check = 0 then g.bad else Cx.firstBad g.bad d.ix check
    msgs := if check = 0 then g.msgs.zipIdx.map fun (x, i) => if i = d.ix then { x with msg := .coll m' } else x else g.msgs }
  if g.wait.isEmpty && g.busy.isEmpty then b.cxSegEnd d.seg g
  else b.onCx fun c => { c with segs := AMap.set c.segs d.seg g }

/-- CX_DECODE_DONE of a lane: its oldest stream has been checked (R211, R213). -/
def Cx.decodeDone (l : Nat) (b : Block) : Block :=
  match AMap.getD b.cx.dec l [] with
  | [] => b
  | d :: rest =>
    let b := b.onCx fun c => { c with dec := AMap.set c.dec l rest }
    match (AMap.get? b.cx.segs d.seg).bind fun g => (g.msg d.ix).map fun m => (g, m) with
    | none => b
    | some (g, m) => b.cxDecoded l d g m

/-- An opened segment reaches the CX: its streams wait for lanes; one without streams is accepted at once (R191, R210, R213). -/
def Block.cxSegment (p : Nat) (g : Seg) (msgs : List InMsg) (b : Block) : Block :=
  let ws := (msgs.zipIdx.filter fun e => Cx.isStream e.1.msg).map Prod.snd
  if ws.isEmpty then b.acceptSeg p g msgs
  else
    let k := ((AMap.keys b.cx.segs).getLast?.map (· + 1)).getD 0
    b.onCx fun c => { c with segs := AMap.set c.segs k ⟨p, g, msgs, ws, [], none, []⟩ }

/-- The segments of a port that are being decoded are discarded with its session. -/
def Block.cxPurge (p : Nat) (b : Block) : Block :=
  let gone := b.cx.segs.filter fun e => e.2.port == p
  let b := gone.foldl (fun b e => e.2.free b) b
  b.onCx fun c => { c with
    segs := c.segs.filter fun (e : Nat × CxSeg) => e.2.port != p
    dec := c.dec.map fun (e : Nat × List CxDec) => (e.1, e.2.filter fun d => !gone.any fun g => g.1 == d.seg) }

/-! ## Registers -/

/-- CX_QLIMIT_WRITE: a value outside the range of R215 is ignored. -/
def Cx.limitWrite (dec : Bool) (v : Word) (b : Block) : Block :=
  if dec then
    let x := Bits.fld v.toNat 10 0
    if 128 ≤ x ∧ x ≤ 1024 then b.putN R.cxDqlimit x else b
  else
    let x := Bits.fld v.toNat 12 0
    if 256 ≤ x ∧ x ≤ 4096 then b.putN R.cxQlimit x else b

/-- The CX has nothing left to drain: no stream admitted for coding is in an input queue (R209). -/
def Block.cxDrained (b : Block) : Bool := b.cx.comp.all fun e => e.2.queue.all (·.forced)

end Sys2Proof.Machine
end

