-- ==== Sys2Proof/Machine/A2a.lean ====
section
/-! DEFINITION. All-to-all (R152, R153, R192): data from the fabric and from the line, announced totals, and completion. -/

namespace Sys2Proof.Machine

/-- RANGE of a site. -/
def A2a.rng (a : A2a) (s : Nat) : Nat := a.range.getD s 0
/-- A site takes part (R152). -/
def A2a.valid (a : A2a) (s : Nat) : Bool := Bits.bit (a.rng s) 63
/-- The site of a rank, by the VALID entries of RANGE (R153). -/
def A2a.siteOf (a : A2a) (rank : Nat) : Option Nat :=
  (List.range 16).find? fun s => a.valid s && a.rng s % 2 ^ 24 ≤ rank && rank ≤ a.rng s / 2 ^ 24 % 2 ^ 24
/-- The other sites that take part. -/
def A2a.others (a : A2a) (own : Nat) : List Nat := (List.range 16).filter fun s => a.valid s && s != own

/-- The block with the all-to-all part of a collective changed. -/
def Block.modA2a (key : Nat) (f : A2a → A2a) (b : Block) : Block := b.modColl key fun c => { c with a2a := c.a2a.map f }

/-- A2A_DATA goes over the edge to a site; `none` when no lane admits it or no buffer is free (R153, R192, R205, R206). Data that came over
the line stays in the buffer that holds it, `buf` (R16, R28). A rank of ROUTE that is not VALID fails the collective (R82). -/
def Block.a2aSend (key : Nat) (c : Coll) (edge dst src off : Nat) (body : List Byte) (buf : Option Nat) (b : Block) : Option Block :=
  let m := { b.collMsg c 3 0 edge (off % 2 ^ 32) (off / 2 ^ 32) (dst + src * 2 ^ 24) [] with
    length := BitVec.ofNat 32 body.length }
  if Edge.kind edge = 2 then
    some (if (b.rankEntry c.job (Edge.rank edge)).isNone then b.collFail key St.badParam 0 0 none
      else (b.freeOut buf c.job 3).emit (.edge c.job (Edge.rank edge) { m with body := body }))
  else match b.admitLane body.length with
    | none => none
    | some l =>
      let go (b : Block) (h : Nat) : Block := b.laneIn l ⟨m, body, b.cxForced, Edge.peer edge, if c.scav then 7 else 4, c.job, some c.id, key, 0, some h⟩
      match buf with
      | some h => some (go (b.passBuf buf c.job 3 4) h)
      | none => (b.takeBuf (max 1 body.length) (Own.of c.job 4)).map fun e => go e.1 e.2

/-- Data that a2aSend did not take waits: when no lane admits it, the CX has declined it for queue space (R206). -/
def Block.a2aDecline (c : Coll) (n : Nat) (b : Block) : Block :=
  if (b.admitLane n).isSome then b else (b.bump R.cxDeclQueue).cxTrace 1 c.job c.cid 0 0 b.gw

/-- Source data reaches a rank of this site as A2A_DELIVER, in packets of at most 4,096 bytes with TAG the source rank and ADDR the
offset (R153). The rank came with the data: when it is not VALID, the collective fails (R82). -/
def Block.a2aDeliver (c : Coll) (dst src off : Nat) (body : List Byte) (b : Block) : Block :=
  if (b.rankEntry c.job dst).isNone then b.collFail (Coll.keyOf c.job c.cid) St.requesterGone 0 0 none
  else (chunksOf body).foldl (fun b e =>
    (b.fabSend? c.job dst (if c.scav then 7 else 4) 0x23 0 src false (c.cid * 2 ^ 36 + (off + 4096 * e.1) % 2 ^ 36) e.2.length e.2 none).getD b)
    (b.count c.job 1 18 body.length)

/-- An A2A_END goes over an edge. Table 5-5 names no destination for it: TILE carries the site it is for, so that it can be forwarded (DESIGN
CHOICE, log entry 72). -/
def Block.a2aEndSend (c : Coll) (edge : Nat) (m : CollMsg) (b : Block) : Block :=
  if Edge.kind edge = 1 then b.lineSend c.job (Edge.peer edge) (if c.scav then 7 else 4) c.cid (.coll m) (some c.id)
  else if (b.rankEntry c.job (Edge.rank edge)).isSome then b.emit (.edge c.job (Edge.rank edge) m)
  else b.collFail (Coll.keyOf c.job c.cid) St.badParam 0 0 none

/-- A2A_END goes to each other site whose LAST has come from every contributor (R153, mode 2). -/
def Block.a2aEnds (key : Nat) (b : Block) : Block :=
  match b.coll key with
  | none => b
  | some c => match c.a2a with
    | none => b
    | some a =>
      if a.mode ≠ 2 then b
      else
        let due := (a.others b.site).filter fun s => !a.ended.contains s && c.contrib.all fun r => a.lasts.contains (r, s)
        due.foldl (fun b s =>
          let edge := a.route.getD s 0
          let m := b.collMsg c 4 0 edge s 0 (AMap.getD a.out s 0) []
          (b.a2aEndSend c edge m).modA2a key fun a => { a with ended := a.ended ++ [s] }) b

/-- An all-to-all has sent and delivered everything: it awaits acknowledgement (R153, R154). In modes 0 and 1 its send side is complete once the
bytes for each site have been taken: DESIGN CHOICE (log entry 94). -/
def A2a.complete (a : A2a) (own : Nat) : Bool :=
  (a.others own).all fun s =>
    let out := AMap.getD a.out s 0
    let got := AMap.getD a.got s 0
    match a.mode with
    | 0 => a.equal ≤ out && a.equal ≤ got
    | 1 => a.send.getD s 0 * 4096 ≤ out && a.recv.getD s 0 * 4096 ≤ got
    | _ => a.ended.contains s && (AMap.get? a.told s).any (· ≤ got)

/-- All-to-alls that are complete drain. Run at the end of each row. -/
def Block.a2aSettle (b : Block) : Block :=
  (b.ce.colls.map (·.1)).foldl (fun b k =>
    let b := b.a2aEnds k
    match b.coll k with
    | none => b
    | some c => match c.a2a with
      | none => b
      | some a => if c.state = 1 ∧ a.complete b.site then b.modColl k fun c => { c with state := 2 } else b) b

/-- What a contributor has sent to a site is noted, and its last chunk (R153). -/
def Block.a2aNote (key site : Nat) (p : FabPkt) (b : Block) : Block := b.modA2a key fun a => { a with
  out := AMap.set a.out site (AMap.getD a.out site 0 + p.payload.length)
  lasts := if p.last && !a.lasts.contains (p.srcRank.toNat, site) then a.lasts ++ [(p.srcRank.toNat, site)] else a.lasts }

/-- A2A_PUT_RX of delivered packet `sel` (R153). A packet that no lane admits stays in the Eddy buffer. One for no all-to-all that runs, from a
rank that is no contributor, or to a rank in no VALID RANGE is discarded and counted: DESIGN CHOICE (log entry 94). -/
def A2a.putRx (sel : Nat) (b : Block) : Block :=
  match b.pickGot sel (fun p => p.opcode == 0x22#8) with
  | none => b
  | some p =>
    let key := Coll.keyOf p.job.toNat (p.addr.toNat / 2 ^ 36)
    let off := p.addr.toNat % 2 ^ 36
    let src := p.srcRank.toNat
    let dst := p.tag.toNat
    match (b.coll key).bind fun c => c.a2a.map fun a => (c, a) with
    | none => (b.dropGot sel).dupChunk
    | some (c, a) =>
      match (if c.contrib.contains src then a.siteOf dst else none) with
      | none => (b.dropGot sel).dupChunk
      | some s =>
        if s = b.site then ((b.dropGot sel).a2aDeliver c dst src off p.payload).a2aNote key s p
        else match b.a2aSend key c (a.route.getD s 0) dst src off p.payload none with
          | some b => ((b.dropGot sel).count c.job 1 17 p.payload.length).a2aNote key s p
          | none => b.a2aDecline c p.payload.length

/-- The buffer of the data that a source names. -/
def Block.srcBuf (b : Block) (src : EdgeMsg) : Option Nat :=
  match src with
  | .line sel => ((b.inbox[sel]?).bind (·.buf)).map Prod.fst
  | .fabric _ _ => none

/-- The message that a source names is gone, its data kept in its buffer. -/
def Block.keepSrc (src : EdgeMsg) (b : Block) : Block :=
  match src with
  | .line sel => b.keepIn sel
  | .fabric _ _ => b

/-- The message that a source names waits. -/
def Block.holdSrc (src : EdgeMsg) (b : Block) : Block :=
  match src with
  | .line sel => b.holdIn sel
  | .fabric _ _ => b

/-- A2A_DATA_RX: delivered to a rank of this site, or forwarded by this gateway's own ROUTE (R153). -/
def A2a.dataRx (src : EdgeMsg) (b : Block) : Block :=
  match b.collSrc src 3 with
  | none => b.srcEarly src 3
  | some (key, c, m, _, _) =>
    let off := m.tile.toNat + m.elems.toNat * 2 ^ 32
    let dst := m.aux.toNat % 2 ^ 24
    let from_ := m.aux.toNat / 2 ^ 24 % 2 ^ 24
    match c.a2a.bind fun a => (a.siteOf dst).map fun s => (a, s) with
    | none => (b.takeSrc src 3).dupChunk
    | some (a, s) =>
      if s = b.site then
        let b := (b.takeSrc src 3).a2aDeliver c dst from_ off m.body
        match a.siteOf from_ with
        | some o => b.modA2a key fun a => { a with got := AMap.set a.got o (AMap.getD a.got o 0 + m.body.length) }
        | none => b
      else match b.a2aSend key c (a.route.getD s 0) dst from_ off m.body (b.srcBuf src) with
        | some b => b.keepSrc src
        | none => (b.holdSrc src).a2aDecline c m.body.length

/-- A2A_END_RX: the total a site announced, or one to be forwarded by this gateway's own ROUTE (R153, mode 2). -/
def A2a.endRx (src : EdgeMsg) (b : Block) : Block :=
  match b.collSrc src 4 with
  | none => b.srcEarly src 4
  | some (key, c, m, _, _) =>
    let b := b.takeSrc src 4
    let s := m.tile.toNat % 16
    if s = b.site then b.modA2a key fun a => { a with told := AMap.set a.told (m.origin.toNat / 4096) m.aux.toNat }
    else
      let edge := (c.a2a.map fun a => a.route.getD s 0).getD 0
      b.a2aEndSend c edge { b.collMsg c 4 0 edge s 0 m.aux.toNat [] with origin := m.origin }

/-- A message of a fabric edge meets the unit of its kind. -/
def Block.edgeIn (rank : Nat) (m : CollMsg) (b : Block) : Block :=
  let src := EdgeMsg.fabric rank m
  match m.ckind.toNat with
  | 3 => A2a.dataRx src b
  | 4 => A2a.endRx src b
  | 5 => Ce.digestRx src b
  | _ => Ce.abortRx src b

/-- Early messages of fabric edges whose collective has begun are applied in their order (R145). Run at the end of each row. -/
def Block.earlySettle (b : Block) : Block :=
  let due (e : Early) : Bool := e.edge.isSome && (b.coll (Coll.keyOf e.job e.cid)).isSome
  let ms := (b.ce.early.filter due).filterMap (·.edge)
  ms.foldl (fun b e => b.edgeIn e.1 e.2) (b.onCe fun c => { c with early := c.early.filter fun e => !due e })

end Sys2Proof.Machine
end

