-- ==== Sys2Proof/Machine/Cc.lean ====
section
/-! DEFINITION. The cipher cluster (chapter 10): keys and their derivation, sealing and opening of records, control slots, and the
rekey exchange. -/

namespace Sys2Proof.Machine

/-! ## Keys (R273, R274) -/

/-- Kind of the key of a slot (Table 10-1). -/
def Cc.kind (slot : Nat) : String := if slot / 2 % 2 = 0 then "data" else "ctrl"

/-- Two bytes, big-endian, as the labels of R274 carry them. -/
def Cc.be2 (v : Nat) : List Byte := Bits.beBytes 2 (v % 65536)

/-- C_0 of the chain of a kind and a sending gateway (R274). -/
def Cc.root (s : List Byte) (kind : String) (g : Nat) : List Byte :=
  Sha.expand s (Bits.ascii "dx64 " ++ Bits.ascii kind ++ Bits.ascii " root" ++ Cc.be2 g) 48

/-- C_(e+1) from C_e (R274). -/
def Cc.nextChain (c : List Byte) (e : Nat) : List Byte := Sha.expand c (Bits.ascii "dx64 next" ++ Cc.be2 e) 48

/-- The key of epoch `e` from C_e, installed at a moment (R274). -/
def Cc.keyOf (kind : String) (c : List Byte) (e : Nat) (at_ : Time) : CcKey :=
  { epoch := e, chain := c, rctr := 0, at_ := at_
    key := Sha.expand c (Bits.ascii "dx64 " ++ Bits.ascii kind ++ Bits.ascii " key" ++ Cc.be2 e) 32
    salt := Sha.expand c (Bits.ascii "dx64 " ++ Bits.ascii kind ++ Bits.ascii " salt" ++ Cc.be2 e) 4 }

/-- The key of the next epoch of a chain (R274). -/
def CcKey.next (kind : String) (k : CcKey) (at_ : Time) : CcKey :=
  Cc.keyOf kind (Cc.nextChain k.chain k.epoch) ((k.epoch + 1) % 65536) at_

/-- Receive keys of a slot, the newest last. -/
def Block.rxKeys (b : Block) (slot : Nat) : List RxKey := AMap.getD b.cc.rx slot []

/-- The frames of receive keys' bitmaps return to staging. -/
def Block.freeBitmaps (ks : List RxKey) (b : Block) : Block := ks.foldl (fun b k => if k.user = 0 then b else b.giveFrames k.user) b

/-- The receive keys of a slot are set, and the bitmaps of those left out are released. -/
def Block.setRx (slot : Nat) (ks : List RxKey) (b : Block) : Block :=
  let gone := (b.rxKeys slot).filter fun k => !ks.any fun x => x.ex == k.ex && x.key.epoch == k.key.epoch
  (b.freeBitmaps gone).onCc fun c => { c with rx := if ks.isEmpty then AMap.erase c.rx slot else AMap.set c.rx slot ks }

/-- Anti-replay bitmaps that the receive keys hold (R281). -/
def Block.bitmaps (b : Block) : Nat := Bits.sum (b.cc.rx.map fun e => (e.2.filter fun k => k.user != 0).length)

/-- A fifth bitmap would pass the 1 GiB of R281: the oldest receive data key goes, of a slot that holds another beside it, this slot
first (DEDUCED, log entry 75). -/
def Block.bitmapRoom (slot : Nat) (b : Block) : Block :=
  if b.bitmaps < 4 then b
  else
    let s := if 2 ≤ (b.rxKeys slot).length then slot else 6 - slot
    b.setRx s ((b.rxKeys s).drop 1)

/-- A receive key joins those of its slot, which stay (R361), with a cleared bitmap of 256 MiB in staging for a data key (R281). Beside two
of its own exchange, or without room in staging, the key is not taken. -/
def Block.addRx (slot ex : Nat) (k : CcKey) (b : Block) : Option Block :=
  if slot % 4 = 3 then some (b.setRx slot (b.rxKeys slot ++ [⟨k, [], 0, ex⟩]))
  else if 2 ≤ ((b.rxKeys slot).filter fun x => x.ex == ex).length then none
  else
    let (ix, b) := (b.bitmapRoom slot).free
    let user := 2 ^ 25 + ix
    (b.takeFrames 128 user).map fun (b, _) => b.setRx slot (b.rxKeys slot ++ [⟨k, [], user, ex⟩])

/-- A rekey of a transmit slot ends; a REKEY that waits on it completes STATE, DETAIL 1 (R288). -/
def Block.endRekey (slot : Nat) (b : Block) : Block :=
  let cmd := (AMap.get? b.cc.rekeys slot).bind (·.cmd)
  let b := b.onCc fun c => { c with rekeys := AMap.erase c.rekeys slot }
  match cmd with
  | some id => b.done id St.state 1
  | none => b

/-- Keys of slots are erased (R288, R353); a transmit data key that is erased stalls its records. -/
def Block.eraseKeys (slots : List Nat) (b0 : Block) : Block :=
  let b := b0.ccSettle
  slots.foldl (fun b s =>
    if s % 2 = 0 then
      (b.endRekey s).onCc fun c => { c with tx := AMap.erase c.tx s, stall := AMap.set c.stall s b.now }
    else b.setRx s []) b

/-- Every traffic key, chain value and control message of the CC is erased. -/
def Block.eraseCc (b : Block) : Block :=
  (b.eraseKeys (List.range 8)).onCc fun c => { c with stall := [], stallMark := none, slots := [], inq := [] }

/-! ## Sealing (R276 to R279, R287) -/

/-- A stall has lasted STALL_MS (R287). -/
def Block.stallOver (b : Block) (slot : Nat) : Bool :=
  (b.stallSince slot).any fun t => t + 8000000 * b.fld R.ccRekeyCtl 13 0 ≤ b.now

/-- The messages of a record fail at a limit of Table 10-3 or R287: they leave, their buffers are freed, and the owner of each receives
LENGTH_LIMIT. -/
def Block.sealFail (ms : List OutMsg) (b : Block) : Block :=
  let b := b.ccSettle
  ms.foldl (fun b m => (b.freeMsg m).msgFail m St.lengthLimit 0) ({ b with outq := b.outq.filter fun x => !ms.contains x }.bump R.ccLimitCnt)

/-- A message is a fence notice, whose buffers come from the recovery resources (R469). -/
def OutMsg.notice (m : OutMsg) : Bool := match m.msg with | .fence _ => true | _ => false

/-- The messages that one record takes: those of one queue from its oldest on, at most 7 and 65,536 bytes; a message that has its own
output buffer goes alone, and fence notices only with each other. -/
def Cc.pack (notice : Bool) : Nat → List OutMsg → List OutMsg
  | _, [] => []
  | n, m :: ms =>
    if m.buf.isSome || m.notice != notice then []
    else
      let n' := n + m.msg.body.length
      if 65536 < n' then [] else m :: Cc.pack notice n' ms

/-- The messages of the next record of a queue; with `drain` the next of draining messages only (R24, R248). -/
def Block.sealNext (b : Block) (queue : Nat) (drain : Bool) : List OutMsg :=
  match b.outq.filter fun m => m.queue == queue && (!drain || m.msg.draining) with
  | [] => []
  | m :: ms => if m.buf.isSome || 65536 < m.msg.body.length then [m] else m :: (Cc.pack m.notice m.msg.body.length ms).take 6

/-- A record sealed under a key (R276, R277). -/
def Cc.seal (k : CcKey) (port queue sender receiver : Nat) (ms : List Msg) : Rec :=
  let plain := ms.flatMap Msg.body
  let r : Rec := { version := 1, heads := ms.map Msg.header, ct := [], flags := BitVec.ofNat 8 port, cls := BitVec.ofNat 8 (Ss.clsOf queue), nmsg := BitVec.ofNat 8 ms.length, ptLen := BitVec.ofNat 32 plain.length,
                   rctr := BitVec.ofNat 64 k.rctr, keyEpoch := BitVec.ofNat 16 k.epoch, job := BitVec.ofNat 16 (Ss.jobOf queue), sender := BitVec.ofNat 16 sender,
                   receiver := BitVec.ofNat 16 receiver, rsvd := 0, tag := 0 }
  let (ct, tag) := Gcm.seal k.key (k.iv k.rctr) r.aad plain
  { r with ct := ct, tag := tag }

/-- Cycles that a record of `n` bytes of AAD and plaintext occupies a core (R283). -/
def Block.coreCycles (b : Block) (n : Nat) : Nat := 16 + Bits.ceilDiv (n * (14 + b.fld R.ccCm 3 0)) 1792

/-- Core cycles that opening and sealing have taken in this microsecond. -/
def Block.coreWork (b : Block) : Nat × Nat := if b.cc.work.1 = b.now / 8000 then b.cc.work.2 else (0, 0)

/-- A core takes a record of a class and `n` bytes, to seal or to open it: outside class 1 each record opened is followed by one sealed (R284). -/
def Block.coreTake (sealing : Bool) (cls n : Nat) (b : Block) : Block :=
  let (o, s) := b.coreWork
  let c := b.coreCycles n
  b.onCc fun x => { x with
    work := (b.now / 8000, if sealing then (o, s + c) else (o + c, s))
    owed := if cls = 1 then x.owed else if sealing then x.owed - 1 else x.owed + 1 }

/-- A record sealed under a transmit key goes with its buffer to its queue of the SS; the key's RCTR moves on, and the buffers that held its
messages' data are free (R16, R276, R283, R287). -/
def Block.sealed (queue : Nat) (k : CcKey) (ms : List OutMsg) (r : Rec) (h : Nat) (b : Block) : Block :=
  let slot := Cc.slotOf queue
  let b := ms.foldl (fun b m => b.freeOut m.src (Ss.jobOf queue) 5) { b with outq := b.outq.filter fun x => !ms.contains x }
  let b := (b.coreTake true (Ss.clsOf queue) (r.aad.length + r.ct.length)).passBuf (some h) (Ss.jobOf queue) 5 7
  let ms := ms.map fun m => { m with src := none }
  let b := b.onCc fun c => { c with
    tx := AMap.set c.tx slot { k with rctr := k.rctr + 1 }
    stall := if k.rctr + 1 = ccMax then AMap.set c.stall slot b.now else c.stall }
  let b := (b.bump64 R.ccSealCntLo 1).count (Ss.jobOf queue) 1 21 1
  b.onSs fun s => { s with queues := AMap.set s.queues queue (AMap.getD s.queues queue [] ++ [⟨r, ms, slot / 4, some h⟩]) }

/-- The transmit key under which a queue's records may be sealed now (R273, R287). -/
def Block.sealKey (b : Block) (queue : Nat) : Option CcKey :=
  if (b.stallSince (Cc.slotOf queue)).isSome then none else AMap.get? b.cc.tx (Cc.slotOf queue)

/-- The class 3 buffer for a record of `n` bytes: the one its message holds, a buffer of the recovery reserve for a fence, or one with an
entry of the queue (R30, R256). -/
def Block.sealBuf (queue n : Nat) (ms : List OutMsg) (b : Block) : Option (Block × Nat) :=
  let owner := Own.of (Ss.jobOf queue) 5
  match ms.findSome? (·.buf) with
  | some h => some (b, h)
  | none =>
    let own := if ms.all OutMsg.notice then b.takeRes 1 n owner else none
    own.orElse fun _ => b.takeQueued n owner queue (ms.all fun m => m.msg.draining)

/-- Bytes of the record of some messages (R276). -/
def Cc.size (ms : List OutMsg) : Nat := 48 + 32 * ms.length + Bits.sum (ms.map fun m => m.msg.body.length)

/-- The next record of a queue for which there is an output buffer: the oldest messages, or draining ones when new work finds no room
(R24), with the block after the buffer is taken. -/
def Block.sealGrant (b : Block) (queue : Nat) : Option (List OutMsg × Block × Nat) :=
  [false, true].findSome? fun d =>
    let ms := b.sealNext queue d
    if ms.isEmpty then none else (b.sealBuf queue (Cc.size ms) ms).map fun e => (ms, e)

/-- A message whose data is poison when the CC reads it (R370). -/
def Block.outPoison (b : Block) (m : OutMsg) : Bool := m.buf.any b.bufPoison || m.src.any b.bufPoison

/-- Messages whose data is poison fail at once with TIMEOUT, DETAIL their line class (R370, Table 14-2). -/
def Block.sealPoison (ms : List OutMsg) (b : Block) : Block :=
  ms.foldl (fun b m => (b.freeMsg m).msgFail m St.timeout (Ss.clsOf m.queue)) { b.ccSettle with outq := b.outq.filter fun x => !ms.contains x }

/-- The messages of a queue's next record when it can only fail: beyond a limit of Table 10-3, or after STALL_MS (R279, R287). -/
def Block.sealDead (b : Block) (queue : Nat) : List OutMsg :=
  let ms := b.sealNext queue false
  if b.stallOver (Cc.slotOf queue) || ms.any fun m => decide (65536 < m.msg.body.length) then ms else []

/-- A core could seal the next record of a queue now, or fail it; none of a job for which strict mode has stopped the CC (R392). -/
def Block.sealable (b : Block) (queue : Nat) : Bool :=
  !b.engStopped (Ss.jobOf queue) 5 && (!(b.sealDead queue).isEmpty || (b.sealKey queue).isSome && (b.sealGrant queue).isSome)

/-- The queue of the oldest message that a core could seal now, of class 1 or of the others. -/
def Block.sealPick (b : Block) (one : Bool) : Option Nat :=
  (b.outq.find? fun m => (Ss.clsOf m.queue == 1) == one && b.sealable m.queue).map (·.queue)

/-- The local job a message is for: the job it names, that of its export window, or that of its operation context. -/
def Block.msgJob (b : Block) (m : Msg) : Nat :=
  match m with
  | .far f =>
    if f.flags.getLsbD 0 then ((AMap.get? b.fwu.ctxs (f.opid.toNat / 256 % 2 ^ 20)).map (·.job)).getD devJob
    else ((b.win (f.win.toNat % 4096)).map (·.job)).getD devJob
  | m => m.job?.getD devJob

/-- The CC takes buffers for the data of the far operations of a segment, each charged to the job it is for; one for no job of this gateway, which
is discarded or refused, needs none (R16). `none` when one may not be had now. -/
def Block.takeFar (ms : List Msg) (b : Block) : Option (Block × List (Option (Nat × Nat))) :=
  ms.foldl (fun acc m => acc.bind fun (b, hs) =>
    let n := match m with | .far f => f.hold | _ => 0
    let job := b.msgJob m
    if n = 0 ∨ 1024 ≤ job then some (b, hs ++ [none]) else (b.takeBuf n (Own.of job 5)).map fun e => (e.1, hs ++ [some (e.2, job)])) (some (b, []))

/-- The place of the oldest segment that a core can open now, of class 1 or of the others: one whose data finds no buffer waits. -/
def Block.openPick (b : Block) (one : Bool) : Option Nat :=
  b.te.opening.findIdx? fun e => (e.2.cls.toNat % 8 == 1) == one && (b.takeFar e.2.heads).isSome

/-- What a free core takes next, a queue to seal from (`true`) or a segment to open (R284): a direction that waits is left 8 of the 24 cores'
cycles of each microsecond; then class 1, opening before sealing; then the two directions in turn, the oldest record of each. A segment is
opened whole, and as many records are sealed before the next. The microsecond and the first turn are the model's choice (log entry 76). -/
def Block.coreTurn (b : Block) : Option (Bool × Nat) :=
  let o := ((b.openPick true).orElse fun _ => b.openPick false).map fun n => (false, n)
  let s := ((b.sealPick true).orElse fun _ => b.sealPick false).map fun n => (true, n)
  let (wo, ws) := b.coreWork
  match o, s with
  | some x, some y =>
    let most := 16 * 50 * b.clkNow.1
    if most ≤ ws then some x
    else if most ≤ wo then some y
    else if (b.openPick true).isSome then some x
    else if (b.sealPick true).isSome then some y
    else some (if b.cc.owed = 0 then x else y)
  | x, y => x.orElse fun _ => y

/-- CC_SEAL_RECORD of a queue: a core seals its next record and the record enters the queue; a queue whose turn it is not waits
(R273 to R279, R284, R287). -/
def Cc.sealRecord (queue : Nat) (b : Block) : Block :=
  let dead := b.sealDead queue
  if b.coreTurn ≠ some (true, queue) then b
  else if !dead.isEmpty then b.sealFail dead
  else match b.sealKey queue, b.sealGrant queue with
    | some k, some (m :: ms, c, h) =>
      if (m :: ms).any b.outPoison then b.sealPoison ((m :: ms).filter b.outPoison)
      else c.sealed queue k (m :: ms) (Cc.seal k (Cc.slotOf queue / 4) queue b.gw m.peer ((m :: ms).map (·.msg))) h
    | _, _ => b

/-- The records of a stalled queue fail, `n` of them at most (R287). -/
def Block.sealFailAll (queue : Nat) : Nat → Block → Block
  | 0, b => b
  | n + 1, b =>
    let ms := b.sealNext queue false
    if ms.isEmpty then b else Block.sealFailAll queue n (b.sealFail ms)

/-- KEY_STALL_EXPIRY: every record waiting on a key that has stalled for STALL_MS fails (R287). -/
def Cc.stallExpiry (b : Block) : Block :=
  let late := ((b.outq.map (·.queue)).eraseDups).filter fun q => b.stallOver (Cc.slotOf q)
  late.foldl (fun b q => Block.sealFailAll q b.outq.length b) b

/-! ## Opening (R280 to R282) -/

/-- The check of R280 that a record of a segment fails, 0 when none; `before` is the size of the records before it. -/
def Block.recCheck (b : Block) (g : Seg) (before : Nat) (r : Rec) : Nat :=
  let n := r.nmsg.toNat
  if r.version ≠ 1 ∨ r.flags.toNat / 2 ≠ 0 ∨ r.cls.toNat / 8 ≠ 0 ∨ r.rsvd ≠ 0 ∨ n < 1 ∨ 7 < n ∨ 65536 < r.ptLen.toNat ∨
      g.body.length < before + r.size ∨ r.cls ≠ g.cls ∨ r.job ≠ g.job then 1
  else if r.receiver.toNat ≠ b.gw ∨ (b.rxSlotOf r).isNone then 2
  else if (b.rxKeysOf r).isEmpty then 3
  else if ccMax ≤ r.rctr.toNat then 4
  else if (b.rxKeyOf r).isNone then 5
  else 0

/-- The checks of R280 that the records of a segment fail, one number per record. -/
def Block.recChecks (b : Block) (g : Seg) : Nat → List Rec → List Nat
  | _, [] => []
  | before, r :: rs => b.recCheck g before r :: b.recChecks g (before + r.size) rs

/-- The counter of a check of R280. -/
def Cc.checkReg (p k : Nat) : Nat := if k = 3 then R.ccPEpochErr p else if k = 5 then R.ccPAuthFail p else R.ccPFmtErr p

/-- The first opening under a key of a new exchange drops the keys installed before those of that exchange (R361). -/
def Block.newExchange (slot ex : Nat) (b : Block) : Block :=
  let ks := (b.rxKeys slot).dropWhile fun k => k.ex != ex
  if ks.length = (b.rxKeys slot).length then b else b.setRx slot ks

/-- A record is opened: it counts, and a key exchange whose first record it is takes effect (R280, R289). -/
def Block.recOpened (r : Rec) (b : Block) : Block :=
  let b := b.bump64 R.ccOpenCntLo 1
  let b := match b.recMsgs r with
    | m :: _ => b.count (b.msgJob m) 1 22 1
    | [] => b
  match b.rxSlotOf r, b.rxKeyOf r with
  | some s, some k => b.newExchange s k.ex
  | _, _ => b

/-- The cores take the records of waiting segment `sel` to open them. With nothing to seal, no turn is owed for more than one (R284). -/
def Block.openTake (sel : Nat) (g : Seg) (b : Block) : Block :=
  let c := g.recs.foldl (fun b r => b.coreTake false (g.cls.toNat % 8) (r.aad.length + r.ct.length))
    { b with te := { b.te with opening := Bits.removeAt b.te.opening sel } }
  if (b.sealPick false).isSome then c else c.onCc fun x => { x with owed := min 1 x.owed }

/-- CC_OPEN_SEGMENT: the records of segment `sel` of those waiting are opened, when it is its turn (R280 to R282, R284). -/
def Cc.openSegment (sel : Nat) (b : Block) : Block :=
  match b.te.opening[sel]? with
  | none => b
  | some (p, g) =>
    if b.coreTurn ≠ some (false, sel) then b
    else
    let b := b.openTake sel g
    let checks := b.recChecks g 0 g.recs
    let bad : List Nat := checks.filter (· != 0)
    if g.recs.isEmpty || !bad.isEmpty then
      let b := if g.recs.isEmpty then b.bump (R.ccPFmtErr p) else bad.foldl (fun b k => b.bump (Cc.checkReg p k)) b
      b.nakSeg p 4 1 0 (g.tryNo.toNat % 16) g.seq.toNat
    else
      let set := g.recs.map fun r => (b.rxKeyOf r).any fun k => k.seen.contains r.rctr.toNat
      if set.any id then
        if g.fo && set.all id then (b.rxMark p g).bump (R.tePFoDup p)
        else b.bump (R.ccPReplay p)
      else
        match b.takeFar g.heads with
        | none => b
        | some (b, hs) =>
          let msgs := (g.recs.flatMap fun r => (b.recMsgs r).map fun m => (⟨r.sender.toNat, g.job.toNat % 1024, g.cls.toNat % 8, p, 0, m, false, none⟩ : InMsg)).zipIdx.map
            fun (x, i) => { x with buf := hs.getD i none }
          (g.recs.foldl (fun b r => b.recOpened r) b).cxSegment p g msgs

/-! ## Control slots (R285, R357, R358) -/

/-- Additional authenticated data of a control slot. -/
def Cc.slotAad (channel length sender : Nat) : List Byte :=
  Bits.leBytes 1 channel ++ Bits.leBytes 1 length ++ Bits.leBytes 4 sender

/-- An empty control slot. -/
def Cc.slotEmpty : CtrlSlot := ⟨0, 0, 0, 0, [], 0⟩

/-- A control slot sealed under a key with a counter; `epoch` is what KEY_EPOCH carries. -/
def Cc.slotSeal (key salt : List Byte) (epoch rctr channel sender : Nat) (pt : List Byte) : CtrlSlot :=
  let len := 26 + pt.length
  let (ct, tag) := Gcm.seal key (salt ++ Bits.beBytes 8 rctr) (Cc.slotAad channel len sender) pt
  ⟨BitVec.ofNat 8 channel, BitVec.ofNat 8 len, BitVec.ofNat 16 epoch, BitVec.ofNat 64 rctr, ct, tag⟩

/-- The plaintext of a control slot under a key and salt, if its tag verifies. -/
def Cc.slotOpen (s : CtrlSlot) (key salt : List Byte) (sender : Nat) : Option (List Byte) :=
  Gcm.unseal key (salt ++ Bits.beBytes 8 s.rctr.toNat) (Cc.slotAad s.channel.toNat s.length.toNat sender) s.data s.tag

/-- The length byte of a control slot fits its data. -/
def Cc.slotOk (s : CtrlSlot) : Bool := s.length.toNat == 26 + s.data.length && s.data.length ≤ 52

/-- P of R357: HKDF-Extract with salt 0. -/
def Cc.bootPrk : List Byte := Sha.hmac [] (Bits.ascii "dx64 bootstrap")

/-- Bootstrap key and salt of a sending gateway and an exchange identifier (R357). -/
def Cc.bootKey (g x : Nat) : List Byte × List Byte :=
  (Sha.expand Cc.bootPrk (Bits.ascii "dx64 boot key" ++ Cc.be2 g ++ Cc.be2 x) 32,
   Sha.expand Cc.bootPrk (Bits.ascii "dx64 boot salt" ++ Cc.be2 g ++ Cc.be2 x) 4)

/-- The content of a control slot opened on a port: management to the host cores (R224), a rekey message, only under a control key, or
a key agreement fragment. -/
def Block.ctrlIn (p channel : Nat) (keyed : Bool) (pt : List Byte) (b : Block) : Block :=
  if channel = 2 then b.emit (.mgmt p pt)
  else if pt.length = 52 ∧ pt.head? = some 0x10#8 then
    let f (o n : Nat) : Nat := Bits.ofLe ((pt.drop o).take n)
    let g : KxFrag := ⟨p, f 1 1, f 6 2, f 2 2, f 4 2, pt.drop 8⟩
    if g.ix < g.count ∧ ¬b.sec.frags.any fun h => h == g || h.port == p && h.msg == g.msg && h.x == g.x && h.count == 0 then { b with sec := { b.sec with frags := b.sec.frags ++ [g] } } else b
  else if keyed ∧ pt.length = 16 then b.onCc fun c => { c with inq := c.inq ++ [(p, pt)] }
  else b

/-- The control keys under which a slot may open: those of its KEY_EPOCH whose RCTR it reaches, the newest first (R285). -/
def Block.slotKeys (b : Block) (p : Nat) (s : CtrlSlot) : List RxKey :=
  ((b.rxKeys (4 * p + 3)).filter fun k => k.key.epoch == s.keyEpoch.toNat && k.key.rctr ≤ s.rctr.toNat).reverse

/-- A control slot has opened under a key: its exchange takes effect, and the key accepts only a higher RCTR from then on (R285). -/
def Block.slotUsed (p : Nat) (k : RxKey) (s : CtrlSlot) (b : Block) : Block :=
  let b := b.newExchange (4 * p + 3) k.ex
  b.onCc fun c => { c with rx := AMap.adjust c.rx (4 * p + 3) fun ks => ks.map fun (x : RxKey) =>
    if x.ex = k.ex ∧ x.key.epoch = k.key.epoch then { x with key := { x.key with rctr := s.rctr.toNat + 1 } } else x }

/-- CTRL_SLOT_RX of a port: the next control slot received on it is opened (R285, R357). -/
def Cc.ctrlRx (p : Nat) (b : Block) : Block :=
  match b.cc.slots.findIdx? fun e => e.1 == p with
  | none => b
  | some i => match b.cc.slots[i]? with
    | none => b
    | some (_, sender, s) =>
      let b := b.onCc fun c => { c with slots := Bits.removeAt c.slots i }
      let ch := s.channel.toNat
      let fail (b : Block) : Block := b.bump (R.ccPCtlErr p)
      let opened := (b.slotKeys p s).findSome? fun k => (Cc.slotOpen s k.key.key k.key.salt sender).map fun pt => (k, pt)
      if ¬Cc.slotOk s ∨ ch = 0 ∨ 2 < ch then fail b
      else match opened with
        | some (k, pt) =>
          (b.slotUsed p k s).ctrlIn p ch true pt
        | none =>
          let g := sender % 65536
          let x := s.keyEpoch.toNat
          let id := 65536 * g + x
          let (key, salt) := Cc.bootKey g x
          if ch = 1 ∧ AMap.getD b.sec.boot id 0 ≤ s.rctr.toNat then
            match Cc.slotOpen s key salt sender with
            | some pt => ({ b with sec := { b.sec with boot := AMap.set b.sec.boot id (s.rctr.toNat + 1) } }).ctrlIn p ch false pt
            | none => fail b
          else fail b

/-! ## Rekey (R286 to R288) -/

/-- A rekey message (Table 10-5). -/
def Cc.rkMsg (typ slot epoch : Nat) : List Byte :=
  Bits.leBytes 1 typ ++ Bits.leBytes 1 (slot / 2 % 2 + 2 * (slot / 4)) ++ Bits.leBytes 2 epoch ++ Bits.leBytes 12 0

/-- RK_TYPE, the sender's transmit slot, EPOCH, and whether the reserved bits are 0, of a rekey message. -/
def Cc.rkOf (pt : List Byte) : Nat × Nat × Nat × Bool :=
  let f (o n : Nat) : Nat := Bits.ofLe ((pt.drop o).take n)
  (f 0 1, 4 * (f 1 1 / 2 % 2) + 2 * (f 1 1 % 2), f 2 2, f 1 1 / 4 == 0 && f 4 12 == 0)

/-- A key whose chain value is erased, the next one being derived (R274). -/
def CcKey.spent (k : CcKey) : CcKey := { k with chain := [] }

/-- A key operation other than a key agreement runs at this moment (R365, R366). -/
def Block.keyRun (b : Block) : Block := { b with sec := { b.sec with keyAt := some b.now } }

/-- An alarm of this very moment is to come, which aborts the key operation that would end now (R366). -/
def Block.cutOff (b : Block) : Bool := b.sec.due == some b.now

/-- A rekey of a transmit slot starts: the next epoch is derived and C_e erased, and ANNOUNCE goes out until READY arrives. -/
def Block.startRekey (slot : Nat) (cmd : Option Nat) (b : Block) : Block :=
  match AMap.get? b.cc.tx slot with
  | none => b
  | some k => b.keyRun.onCc fun c => { c with
      tx := AMap.set c.tx slot k.spent
      rekeys := AMap.set c.rekeys slot ⟨1, k.next (Cc.kind slot) b.now, k.epoch, cmd⟩ }

/-- REKEY_TRIGGER of a transmit slot: its key has reached CNT_LOG2 or AGE_S and no rekey of it is in progress (R286). -/
def Cc.rekeyTrigger (slot : Nat) (b : Block) : Block :=
  match AMap.get? b.cc.tx slot with
  | none => b
  | some k =>
    let due := 2 ^ b.fld R.ccRekeyCtl 31 27 ≤ k.rctr || k.at_ + 8000000000 * b.fld R.ccRekeyCtl 26 21 ≤ b.now
    if due && (AMap.get? b.cc.rekeys slot).isNone && slot % 2 == 0 then b.startRekey slot none else b

/-- REKEY (R286, R288): bytes 28 to 31 name the key slot. -/
def Cc.rekey (id : Nat) (r : Req) (b : Block) : Block :=
  Ci.check8 id r [(16, r.nz 16 8), (24, r.nz 24 4), (28, 8 ≤ r.a2 || r.a2 % 2 == 1 || (b.peerOf (r.a2 / 4)).isNone), (32, r.nz 32 32)] (fun b =>
    if (AMap.get? b.cc.rekeys r.a2).isSome then b.done id St.busy 0
    else if (AMap.get? b.cc.tx r.a2).isNone then b.done id St.state 1
    else b.startRekey r.a2 (some id)) b

/-- KEY_ERASE (R288): the slots named in bytes 28 to 31 are erased at once, unless an alarm of the same moment aborts it (R366). -/
def Cc.keyErase (id : Nat) (r : Req) (b : Block) : Block :=
  Ci.check8 id r [(16, r.nz 16 8), (24, r.nz 24 4), (28, 256 ≤ r.a2), (32, r.nz 32 32)] (fun b =>
    let slots := (List.range 8).filter fun s => Bits.bit r.a2 s
    if b.cutOff then b.keyRun else (b.eraseKeys slots).keyRun.ok id slots.length) b

/-- The rekey message at place `sel` of those received, if it has a given type and is well formed: its port, the sender's slot and
the epoch. -/
def Block.takeRk (sel typ : Nat) (b : Block) : Option (Block × Nat × Nat × Nat) :=
  (b.cc.inq[sel]?).bind fun (p, pt) =>
    let (ty, slot, epoch, ok) := Cc.rkOf pt
    if ty = typ then
      let b := b.onCc fun c => { c with inq := Bits.removeAt c.inq sel }
      some (b, p, if ok then slot else 8, epoch)
    else none

/-- A rekey message answers on the port it came in on. -/
def Block.rkAnswer (p typ slot epoch : Nat) (b : Block) : Block :=
  b.modTp p fun x => { x with ctl := x.ctl ++ [(1, Cc.rkMsg typ slot epoch)] }

/-- The receive slot here that matches a transmit slot of the peer on a port. -/
def Block.rxSlotFor (b : Block) (p slot : Nat) : Option Nat :=
  (b.peerOf p).bind fun gw => (b.facing gw (slot / 4)).map fun q => 4 * q + slot % 4 + 1

/-- The chain values of a slot's receive keys before an epoch are erased (R274). -/
def Block.spendRx (slot epoch : Nat) (b : Block) : Block :=
  b.onCc fun c => { c with rx := AMap.adjust c.rx slot fun ks => ks.map fun (k : RxKey) => if k.key.epoch = epoch then k else { k with key := k.key.spent } }

/-- REKEY_ANNOUNCE_RX: the matching receive key is derived and held beside the current one, and READY answers (R286, R288). -/
def Cc.announceRx (sel : Nat) (b : Block) : Block :=
  match b.takeRk sel 1 with
  | none => b
  | some (b, p, slot, epoch) =>
    match b.rxSlotFor p slot with
    | none => b
    | some s =>
      match (b.rxKeys s).getLast? with
      | none => b
      | some k =>
        if k.key.epoch = epoch then b.rkAnswer p 2 slot epoch
        else if (k.key.epoch + 1) % 65536 = epoch then
          match b.addRx s k.ex (k.key.next (Cc.kind slot) b.now) with
          | some b => (b.keyRun.spendRx s epoch).rkAnswer p 2 slot epoch
          | none => b
        else b

/-- REKEY_READY_RX: sealing goes over to the new key, and the old transmit key is erased (R286). A control key's rekey then ends with
one RETIRE. -/
def Cc.readyRx (sel : Nat) (b : Block) : Block :=
  match b.takeRk sel 2 with
  | none => b
  | some (b, p, slot, epoch) =>
    match AMap.get? b.cc.rekeys slot with
    | none => b
    | some k =>
      if k.step ≠ 1 ∨ k.next.epoch ≠ epoch then b
      else
        let b := b.ccSettle
        let data := slot % 4 == 0
        let b := (b.onCc fun c => { c with
          tx := AMap.set c.tx slot { k.next with at_ := b.now, rctr := 0 }
          stall := AMap.erase c.stall slot
          rekeys := if data then AMap.set c.rekeys slot { k with step := 4, cmd := none } else AMap.erase c.rekeys slot }).bump (R.ccPRekeyCnt (slot / 4))
        let b := if data then b else b.rkAnswer p 3 slot k.old
        match k.cmd with
        | some id => b.ok id epoch
        | none => b

/-- A record is sealed under an epoch of a port's transmit data key. -/
def Sealed.under (x : Sealed) (port epoch : Nat) : Bool := x.port == port && x.rec_.keyEpoch.toNat == epoch

/-- Every record sealed under an epoch of a port's key has been released (R235, R286). -/
def Block.keyReleased (b : Block) (port epoch : Nat) : Bool :=
  (b.te.ports.all fun e => e.2.segs.all fun s => s.2.recs.all fun r => !r.under port epoch) &&
  b.ss.queues.all fun e => e.2.all fun r => !r.under port epoch

/-- REKEY_RETIRE_SEND of a slot: the records of the old key are released, and RETIRE goes out until RETIRE_ACK arrives (R286). -/
def Cc.retireSend (slot : Nat) (b : Block) : Block :=
  match AMap.get? b.cc.rekeys slot with
  | none => b
  | some k => if k.step = 4 ∧ b.keyReleased (slot / 4) k.old then
      b.onCc fun c => { c with rekeys := AMap.set c.rekeys slot { k with step := 5 } } else b

/-- REKEY_RETIRE_RX: the old receive key and its bitmap are erased, and RETIRE_ACK answers (R286). -/
def Cc.retireRx (sel : Nat) (b : Block) : Block :=
  match b.takeRk sel 3 with
  | none => b
  | some (b, p, slot, epoch) =>
    match b.rxSlotFor p slot with
    | none => b
    | some s =>
      let ks := b.rxKeys s
      let newest := ks.getLast?
      let b := if newest.any fun k => k.key.epoch == epoch then b
        else b.setRx s (ks.filter fun k => k.key.epoch != epoch || newest.any fun n => n.ex != k.ex)
      if newest.any fun k => k.key.epoch == epoch then b else b.rkAnswer p 4 slot epoch

/-- REKEY_RETIRE_ACK_RX: the rekey ends at the sender (R286). -/
def Cc.retireAckRx (sel : Nat) (b : Block) : Block :=
  match b.takeRk sel 4 with
  | none => b
  | some (b, _, slot, epoch) =>
    match AMap.get? b.cc.rekeys slot with
    | none => b
    | some k => if k.step = 5 ∧ k.old = epoch then b.onCc fun c => { c with rekeys := AMap.erase c.rekeys slot } else b

/-- The messages of rekeys in progress that every group frame of a port carries (R286): those of the keys that seal for its peer. -/
def Block.rkSend (b : Block) (p : Nat) : List (Nat × List Byte) :=
  b.cc.rekeys.filterMap fun e =>
    if b.peerOf (e.1 / 4) == b.peerOf p && (b.tp p).usable then
      if e.2.step = 1 then some (1, Cc.rkMsg 1 e.1 e.2.next.epoch)
      else if e.2.step = 5 then some (1, Cc.rkMsg 3 e.1 e.2.old) else none
    else none

/-- The next control slot of a port sealed under its transmit control key, with the block after its counter moved; a key at a limit of
Table 10-3 seals nothing. -/
def Block.ctrlSeal (p channel sender : Nat) (pt : List Byte) (b : Block) : Option (CtrlSlot × Block) :=
  ((AMap.get? b.cc.tx (4 * p + 2)).filter fun k => decide (k.rctr < ccMax) && decide (b.now < k.at_ + ccAge)).map fun k =>
    (Cc.slotSeal k.key k.salt k.epoch k.rctr channel sender pt, b.onCc fun c => { c with tx := AMap.set c.tx (4 * p + 2) { k with rctr := k.rctr + 1 } })

/-! ## Installing keys (R274, R361) -/

/-- The receive keys of epoch 0 of a port and exchange `ex` are installed beside the previous ones. -/
def Block.installRx (p peer ex : Nat) (s : List Byte) (b : Block) : Block :=
  [4 * p + 1, 4 * p + 3].foldl (fun b slot =>
    (b.addRx slot ex (Cc.keyOf (Cc.kind slot) (Cc.root s (Cc.kind slot) peer) 0 b.now)).getD b) b

/-- The transmit keys of epoch 0 of a port are installed; rekeys of the port end. -/
def Block.installTx (p : Nat) (s : List Byte) (b0 : Block) : Block :=
  let b := b0.ccSettle
  [4 * p, 4 * p + 2].foldl (fun b slot =>
    (b.endRekey slot).onCc fun c => { c with
      tx := AMap.set c.tx slot (Cc.keyOf (Cc.kind slot) (Cc.root s (Cc.kind slot) b.gw) 0 b.now)
      stall := AMap.erase c.stall slot }) b

/-- The receive keys of a failed exchange are removed (R362). -/
def Block.dropExchange (p ex : Nat) (b : Block) : Block :=
  [4 * p + 1, 4 * p + 3].foldl (fun b slot => b.setRx slot ((b.rxKeys slot).filter fun k => k.ex != ex)) b

/-! ## Registers -/

/-- CC_P_KEY_STAT of a port. -/
def Block.ccKeyStat (b : Block) (p : Nat) : Nat :=
  ((AMap.get? b.cc.tx (4 * p)).map (·.epoch)).getD 0 * 65536 + (((b.rxKeys (4 * p + 1)).getLast?).map (·.key.epoch)).getD 0

/-- CC_P_REKEY_STAT of a port: VALID while all four keys are held, RX_OLD, and the step of R286. -/
def Block.ccRekeyStat (b : Block) (p : Nat) : Nat :=
  let held := (AMap.get? b.cc.tx (4 * p)).isSome && (AMap.get? b.cc.tx (4 * p + 2)).isSome &&
    !(b.rxKeys (4 * p + 1)).isEmpty && !(b.rxKeys (4 * p + 3)).isEmpty
  16 * Bits.ofBool held + 8 * Bits.ofBool (decide (1 < (b.rxKeys (4 * p + 1)).length)) + ((AMap.get? b.cc.rekeys (4 * p)).map (·.step)).getD 0

/-- CC_P_TX_RCTR of a port. -/
def Block.ccRctr (b : Block) (p : Nat) : Nat := ((AMap.get? b.cc.tx (4 * p)).map (·.rctr)).getD 0

/-- CC_P_TX_AGE of a port, in ms. -/
def Block.ccAgeMs (b : Block) (p : Nat) : Nat := ((AMap.get? b.cc.tx (4 * p)).map fun k => (b.now - k.at_) / 8000000).getD 0

end Sys2Proof.Machine
end

