-- ==== Sys2Proof/Machine/LineCode.lean ====
section
/-! DEFINITION. What a member sends on the line, bit by bit: transport control (Table 8-2), the member frame with its alignment signal,
scrambler and parities (R290 to R293), the slots of a payload (R310), the inner code and the symbols (R324, R325). -/

namespace Sys2Proof

/-! ## The member frame -/

/-- The frame alignment signal: 16 bytes of 0xF6 and 16 of 0x28 (R291). -/
def Frame.fas : List Byte := List.replicate 16 0xF6#8 ++ List.replicate 16 0x28#8

/-- A control slot in its 80 bytes (Table 8-2, R285). -/
def CtrlSlot.bytes (s : CtrlSlot) : List Byte :=
  if s.channel = 0#8 then List.replicate 80 0#8
  else
    let d := Bits.leBytes 2 s.keyEpoch.toNat ++ Bits.leBytes 8 s.rctr.toNat ++ s.data ++ Bits.beBytes 16 s.tag.toNat
    (Bits.leBytes 1 s.channel.toNat ++ Bits.leBytes 1 s.length.toNat ++ d ++ List.replicate 80 0#8).take 80

/-- The control slot that 80 bytes hold. -/
def CtrlSlot.parse (bs : List Byte) : CtrlSlot :=
  let n := Bits.leAt bs 1 1 - 26
  if Bits.leAt bs 0 1 = 0 then ⟨0, 0, 0, 0, [], 0⟩
  else ⟨BitVec.ofNat 8 (Bits.leAt bs 0 1), BitVec.ofNat 8 (Bits.leAt bs 1 1), BitVec.ofNat 16 (Bits.leAt bs 2 2), BitVec.ofNat 64 (Bits.leAt bs 4 8),
    (bs.drop 12).take n, BitVec.ofNat 128 (Bits.ofBe ((bs.drop (12 + n)).take 16))⟩

/-- Bytes 0 to 507 of transport control (Table 8-2). -/
def TC.head (t : TC) : List Byte :=
  Bits.leBytes 4 (t.firstCell.toNat + 2 ^ 16 * t.member.toNat + 2 ^ 24 * t.version.toNat) ++ Bits.leBytes 4 t.sender.toNat ++
  Bits.leBytes 8 t.cumAck.toNat ++ Bits.leBytes 8 t.rxHigh.toNat ++ Bits.leBytes 4 t.tsVal.toNat ++ Bits.leBytes 4 t.tsEcho.toNat ++
  Bits.leBytes 4 t.holdNs.toNat ++ Bits.leBytes 2 t.epoch.toNat ++ Bits.leBytes 2 0 ++ Bits.leBytes 8 t.sackBase.toNat ++
  Bits.leBytes 240 t.sackMap.toNat ++ (((List.range 8).map fun i => t.naks.getD i 0).flatMap fun n => Bits.leBytes 8 n.toNat) ++
  (((List.range 7).map fun i => t.credit.getD i 0).flatMap fun n => Bits.leBytes 8 n.toNat) ++ Bits.leBytes 8 t.execCredit.toNat ++
  t.ctrl.bytes ++ Bits.leBytes 8 t.sndLow.toNat ++ Bits.leBytes 4 0

/-- Transport control with its TC_CRC. -/
def TC.bytes (t : TC) : List Byte := t.head ++ Bits.leBytes 4 (Crc.crc32c t.head).toNat

/-- TC_CRC of 512 bytes of transport control is right. -/
def TC.crcOk (bs : List Byte) : Bool := Crc.crc32c (bs.take 508) == BitVec.ofNat 32 (Bits.leAt bs 508 4)

/-- The transport control that 512 bytes hold. -/
def TC.parse (bs : List Byte) : TC :=
  let f := Bits.leAt bs
  { version := BitVec.ofNat 8 (f 3 1), member := BitVec.ofNat 8 (f 2 1), firstCell := BitVec.ofNat 16 (f 0 2), sender := BitVec.ofNat 32 (f 4 4),
    cumAck := BitVec.ofNat 64 (f 8 8), rxHigh := BitVec.ofNat 64 (f 16 8), tsVal := BitVec.ofNat 32 (f 24 4), tsEcho := BitVec.ofNat 32 (f 28 4),
    holdNs := BitVec.ofNat 32 (f 32 4), epoch := BitVec.ofNat 16 (f 36 2), sackBase := BitVec.ofNat 64 (f 40 8), sackMap := BitVec.ofNat 1920 (f 48 240),
    naks := (List.range 8).map fun i => BitVec.ofNat 64 (f (288 + 8 * i) 8), credit := (List.range 7).map fun i => BitVec.ofNat 64 (f (352 + 8 * i) 8),
    execCredit := BitVec.ofNat 64 (f 408 8), ctrl := CtrlSlot.parse ((bs.drop 416).take 80), sndLow := BitVec.ofNat 64 (f 496 8) }

/-- Bytes 32 to 95 of a member frame (Table 11-2). -/
def MFrame.secHead (f : MFrame) : List Byte :=
  [f.trace] ++ Bits.leBytes 1 f.sstat.toNat ++ Bits.leBytes 2 f.sbip.toNat ++ Bits.leBytes 2 f.srei.toNat ++ List.replicate 58 0#8

/-- Bytes 96 to 191 of a member frame (Table 11-3). -/
def MFrame.pathHead (f : MFrame) : List Byte :=
  Bits.leBytes 4 f.groupId.toNat ++ Bits.leBytes 1 f.member.toNat ++ Bits.leBytes 1 f.mfi.toNat ++ Bits.leBytes 2 f.pbip.toNat ++
  Bits.leBytes 2 f.prei.toNat ++ Bits.leBytes 1 f.pstat.toNat ++ Bits.leBytes 1 0 ++ Bits.leBytes 4 f.mfc.toNat ++ Bits.leBytes 4 f.txMap.toNat ++
  Bits.leBytes 4 f.rxReq.toNat ++ Bits.leBytes 4 f.planMap.toNat ++ Bits.leBytes 4 0 ++ Bits.leBytes 8 f.slotCtl.toNat ++ List.replicate 56 0#8

/-- A member frame before scrambling: 16,384 bytes (Table 11-1). -/
def MFrame.bytes (f : MFrame) : List Byte :=
  Frame.fas ++ f.secHead ++ f.pathHead ++ f.tc ++ List.replicate 48 0#8 ++ (f.payload ++ List.replicate 15632 0#8).take 15632

/-- The member frame that 16,384 bytes hold, descrambled. -/
def MFrame.parse (bs : List Byte) : MFrame :=
  let f := Bits.leAt bs
  { trace := BitVec.ofNat 8 (f 32 1), sstat := BitVec.ofNat 8 (f 33 1), sbip := BitVec.ofNat 16 (f 34 2), srei := BitVec.ofNat 16 (f 36 2),
    groupId := BitVec.ofNat 32 (f 96 4), member := BitVec.ofNat 8 (f 100 1), mfi := BitVec.ofNat 8 (f 101 1), pbip := BitVec.ofNat 16 (f 102 2),
    prei := BitVec.ofNat 16 (f 104 2), pstat := BitVec.ofNat 8 (f 106 1), mfc := BitVec.ofNat 32 (f 108 4), txMap := BitVec.ofNat 32 (f 112 4),
    rxReq := BitVec.ofNat 32 (f 116 4), planMap := BitVec.ofNat 32 (f 120 4), slotCtl := BitVec.ofNat 64 (f 128 8), tc := (bs.drop 192).take 512,
    payload := (bs.drop 752).take 15632 }

/-- Wrong bits of the 256 of an alignment signal (R296). -/
def Frame.fasErr (bs : List Byte) : Nat := Bits.sum (List.zipWith (fun x y => Bits.ones 8 (x ^^^ y).toNat) Frame.fas bs)

/-- The scrambler's register after one bit: x^31 + x^28 + 1, the oldest of its 31 bits going out (R291). -/
def Scramble.next (s : BitVec 31) : BitVec 31 := (s <<< 1) ||| (BitVec.ofBool (s.getLsbD 30 != s.getLsbD 27)).setWidth 31

/-- The register after the eight bits of a byte. -/
def Scramble.next8 (s : BitVec 31) : BitVec 31 := (List.range 8).foldl (fun s _ => Scramble.next s) s

/-- The next eight bits of the sequence, the first in bit 7. -/
def Scramble.byte (s : BitVec 31) : Byte := BitVec.ofNat 8 (s.toNat / 2 ^ 23)

/-- Bytes scrambled from a register on. Scrambling again with the same register gives them back. -/
def Scramble.run : BitVec 31 → List Byte → List Byte
  | _, [] => []
  | s, x :: xs => (x ^^^ Scramble.byte s) :: Scramble.run (Scramble.next8 s) xs

/-- A member frame as sent: everything after the FAS is scrambled from all ones (R291). -/
def Frame.scrambled (bs : List Byte) : List Byte := bs.take 32 ++ Scramble.run (BitVec.allOnes 31) (bs.drop 32)

/-- The even parity of each bit position over little-endian 16-bit words (R293). -/
def Bip.of : List Byte → BitVec 16
  | lo :: hi :: bs => (hi ++ lo) ^^^ Bip.of bs
  | _ => 0#16

/-- SBIP of the next frame: over the frame as sent. -/
def Frame.sbip (sent : List Byte) : BitVec 16 := Bip.of sent

/-- PBIP of the next frame: over bytes 96 on, before scrambling. -/
def Frame.pbip (plain : List Byte) : BitVec 16 := Bip.of (plain.drop 96)

/-- The BIP error count: differing bit positions, 0 to 16 (R293). -/
def Bip.errors (x y : BitVec 16) : Nat := Bits.ones 16 (x ^^^ y).toNat

/-- The slot of payload byte `k` of member `m` in slotted mode; the last 32 bytes are fixed stuff (R310). -/
def Slot.of (m k : Nat) : Option Nat := if k < 15600 then some (80 * m + k % 80) else none

/-! ## The inner code (R324) -/

/-- Information column `j` has a block in row `r`. -/
def Code.has (r j : Nat) : Bool := r == j % 11 || r == (j + 4) % 11 || r == (j + 7) % 11

/-- The shift of that block. -/
def Code.shift (r j : Nat) : Nat := (r + 1) * (j + 1) * (j + 3) % 1024

/-- The syndrome that the information bits give in row `r`, check `a`: entry (a, (a + s) mod 1,024) of each block. -/
def Code.syndrome (x : Nat → Bool) (r a : Nat) : Bool :=
  (List.range 37).foldl (fun acc j => if Code.has r j then acc != x (1024 * j + (a + Code.shift r j) % 1024) else acc) false

/-- The parity blocks: p_0 = s_0 and p_r = s_r ⊕ p_(r−1). -/
def Code.parity (x : Nat → Bool) : Nat → Nat → Bool
  | 0, a => Code.syndrome x 0 a
  | r + 1, a => Code.syndrome x (r + 1) a != Code.parity x r a

/-- The codeword of 37,888 information bits: bit 1,024 j + a belongs to column j. -/
def Code.word (x : Nat → Bool) (k : Nat) : Bool := if k < 37888 then x k else Code.parity x ((k - 37888) / 1024) ((k - 37888) % 1024)

/-- Check `a` of row `r` of a word: its information blocks, and the parity columns with a block in the row. -/
def Code.check (w : Nat → Bool) (r a : Nat) : Bool :=
  (Code.syndrome w r a != w (37888 + 1024 * r + a)) != (if r = 0 then false else w (37888 + 1024 * (r - 1) + a))

/-- Every check of a word of 49,152 bits is satisfied. -/
def Code.ok (bits : List Bool) : Bool :=
  let v := bits.toArray
  let w (i : Nat) : Bool := v.getD i false
  (List.range 11).all fun r => (List.range 1024).all fun a => !Code.check w r a

/-- Symbol `t` of the coded stream: X in-phase, X quadrature, Y in-phase, Y quadrature, bit 0 as +1 and bit 1 as −1 (R325). -/
def Code.symbol (w : Nat → Bool) (t : Nat) : Symbol :=
  let s (i : Nat) : Int := if w (4 * t + i) then -1 else 1
  (s 0, s 1, s 2, s 3)

/-- The 12,288 symbols of the codeword of 4,736 bytes of a frame stream, each byte most significant bit first (R290, R325). -/
def Code.light (info : List Byte) : List Symbol :=
  let v := (info.flatMap Crc.msbBits).toArray
  (List.range 12288).map (Code.symbol (Code.word fun i => v.getD i false))

/-! ## Receiving symbols (R326) -/

/-- A polarisation turned by `q` quadrants. -/
def Symbol.turn (q : Nat) (x : Int × Int) : Int × Int :=
  match q % 4 with
  | 0 => x
  | 1 => (-x.2, x.1)
  | 2 => (-x.1, -x.2)
  | _ => (x.2, -x.1)

/-- A symbol under one of the 32 alignments: the quadrants of both polarisations, and their order. -/
def Symbol.under (o : Nat) (s : Symbol) : Symbol :=
  let (a, b) := (Symbol.turn o (s.1, s.2.1), Symbol.turn (o / 4) s.2.2)
  if o / 16 = 0 then (a.1, a.2, b.1, b.2) else (b.1, b.2, a.1, a.2)

/-- The received values of symbols under an alignment, in the order of the code bits. -/
def Code.values (o : Nat) (syms : List Symbol) : List Int := syms.flatMap fun s => let t := s.under o; [t.1, t.2.1, t.2.2.1, t.2.2.2]

/-- What comes of the values of one codeword: its bits, and how many of them were corrected. The hard decisions stand when they satisfy
the checks; else the decoder's word when that does; a word that still has unsatisfied checks passes on as hard decisions, with none. -/
def Code.settle (v : List Int) : List Bool × Option Nat :=
  let hard := v.map fun x => decide (x < 0)
  if Code.ok hard then (hard, some 0)
  else
    let d := Config.decode v
    if d.length = hard.length && Code.ok d then (d, some ((List.zipWith (fun x y => x != y) hard d).filter id).length) else (hard, none)

/-- Where codewords begin in received symbols, and the alignment under which the checks of the one that begins there are satisfied; the first
that does is taken. -/
def Code.find (syms : List Symbol) : Option (Nat × Nat) :=
  (List.range (min 12288 (syms.length + 1 - 12288))).findSome? fun k =>
    ((List.range 32).find? fun o => (Code.settle (Code.values o ((syms.drop k).take 12288))).2.isSome).map fun o => (k, o)

/-- The bytes of bits, most significant bit first; `n` in number. -/
def Code.toBytes : Nat → List Bool → List Byte
  | 0, _ => []
  | n + 1, bits => BitVec.ofNat 8 ((bits.take 8).foldl (fun v b => 2 * v + Bits.ofBool b) 0) :: Code.toBytes n (bits.drop 8)

end Sys2Proof
end

