-- ==== Sys2Proof/Machine/Te.lean ====
section
/-! DEFINITION. The transport engine (chapter 8): receiving units and transport control, sending group frames, retransmission, receive
credit, port failover and loss of path. -/

namespace Sys2Proof.Machine

/-- The block with its TE changed. -/
def Block.onTe (f : TeState → TeState) (b : Block) : Block := { b with te := f b.te }

/-- A line port is UP or SHRUNK (Table 11-5). -/
def Block.lineUp (b : Block) (p : Nat) : Bool := b.lfState p == 3 || b.lfState p == 4

/-- Low 32 bits of the local time in ns. -/
def Block.nowNs (b : Block) : Nat := Bits.ofInt 32 (b.localTime / 8)

/-! ## Group payload (R298, R310 to R312) -/

/-- A line port of the LF after reset. -/
def LfPort.init : LfPort :=
  { mems := [], mfi := 0, sent := false, last := none, prev := none, gid := 0, mode := 0, slotCtl := 0, rdiOn := 0, rdiOff := 0, logAt := none,
    logOk := none, fewAt := none, txTrace := List.replicate 64 0, expTrace := List.replicate 64 0, pages := ([], []), rxPage := 0,
    rxWait := false, swapAt := 0, mapped := false, swap := none, thru := [], peerPlan := 0, adds := [], drops := [],
    inForce := (0x0A4B05DC, 0, 0x1C08), justIn := 0 }

/-- A line port of the LF. -/
def Block.lp (b : Block) (p : Nat) : LfPort := AMap.getD b.lf.ports p LfPort.init

/-- Slots of a member in a page whose entries satisfy a test; a page never written holds entries of 0. -/
def Lf.slots (page : List Nat) (m : Nat) (f : Nat → Bool) : Nat :=
  ((List.range 80).filter fun i => f (page.getD (80 * m + i) 0)).length

/-- A connection page of a port. -/
def LfPort.page (x : LfPort) (k : Nat) : List Nat := if k = 0 then x.pages.1 else x.pages.2

/-- Cells that a member's payload gives the TE in the group frame being sent: 0 outside TX_MAP, 977 in native mode, its cell-channel
share in slotted mode. -/
def Block.share (b : Block) (p m : Nat) : Nat :=
  if !Bits.bit (b.regN (R.lfTxMap p)) m then 0
  else if b.bit (R.lfStat p) 5 then
    195 * (Lf.slots ((b.lp p).page (b.fld (R.lfTsiStat p) 30 30)) m (fun e => e / 2 ^ 14 == 1) / 16)
  else 977

/-- FIRST_CELL of the members, from the cells each holds, the position of its first cell in the group payload, and the positions at
which units start; every cell from `stop` on starts a filler unit. -/
def Te.firstCells (starts : List Nat) (stop : Nat) : Nat → List Nat → List Nat
  | _, [] => []
  | base, n :: ns =>
    let own := (starts.filter fun s => base ≤ s && s < base + n).foldl (fun (x : Option Nat) s => some (min s (x.getD s))) none
    let fill := max stop base
    let first := match own with
      | some s => min s (if fill < base + n then fill else s)
      | none => fill
    (if first < base + n then first - base else 0xFFFF) :: Te.firstCells starts stop (base + n) ns

/-! ## Releasing segments (R235, R239) -/

/-- SND_LOW of a port: the lowest SEQ it may still retransmit. -/
def TePort.low (x : TePort) : TePort :=
  { x with sndLow := x.segs.foldl (fun m e => if Te.lt e.1 m then e.1 else m) x.txSeq }

/-- Segments leave a port's replay store, and SND_LOW moves on. -/
def TePort.release (gone : Nat → TxSeg → Bool) (x : TePort) : TePort :=
  TePort.low { x with segs := x.segs.filter fun (e : Nat × TxSeg) => !gone e.1 e.2 }

/-- The messages of a segment. -/
def TxSeg.msgs (g : TxSeg) : List OutMsg := g.recs.flatMap (·.msgs)

/-- The owners of a segment's messages learn that it is abandoned. -/
def Block.segFail (g : TxSeg) (st detail : Nat) (b : Block) : Block := g.msgs.foldl (fun b m => b.msgFail m st detail) b

/-- Segments of a port that a test selects are abandoned, their replay copies released and their owners told. -/
def Block.abandon (p : Nat) (gone : Nat → TxSeg → Bool) (st detail : Nat) (b : Block) : Block :=
  let gs := (b.tp p).segs.filter fun e => gone e.1 e.2
  gs.foldl (fun b e => b.segFail e.2 st detail) (b.modTp p (TePort.release gone))

/-- The unaccepted segments of a job are released without a report (R240), but for fence notices (R469). -/
def Block.teFence (job : Nat) (b : Block) : Block :=
  [0, 1].foldl (fun b p => b.modTp p (TePort.release fun _ g => g.job == job && !g.recs.any Sealed.notice)) b

/-! ## Receiving units (R225 to R231) -/

/-- Cells discarded while hunting (R226). -/
def Block.huntCells (p n : Nat) (b : Block) : Block := b.bumpN (R.tePHuntCells p) n

/-- The TE hunts: the unit that lost position is discarded. -/
def Block.hunt (p n : Nat) (b : Block) : Block := (b.modTp p fun x => { x with hunting := true }).huntCells p n

/-- TYPE is 1, the reserved bits of a segment header are 0, TRY and CLASS name an attempt and a line class, and BODY_LEN is in its range
(log entry 79). -/
def Te.headOk (g : Seg) : Bool :=
  g.typ == 1#8 && g.cls.toNat / 8 == 0 && g.flags.toNat / 8 == 0 && g.tryNo.toNat / 16 == 0 && g.job.toNat / 2 ^ 10 % 32 == 0 &&
    decide (1 ≤ g.bodyLen.toNat ∧ g.bodyLen.toNat ≤ 66048)

/-- The arrival of a segment whose header is good, before its body is checked: its cells count to what its class received of late, a first
transmission names the numbers it leaves missing, and a retransmission from RX_HIGH on is no gap later (R227, R232). -/
def Block.segArrive (p : Nat) (g : Seg) (b : Block) : Block :=
  let c := g.cls.toNat % 8
  let seq := g.seq.toNat
  let b := b.modPr ((b.peerOf p).getD 0) fun x => { x with recent := x.recent.set c (x.recent.getD c 0 + Seg.cellsOf g.bodyLen.toNat) }
  if !g.retx then b.rxGap p seq
  else if Te.lt seq (b.tp p).rxHigh then b
  else b.modTp p fun x => { x with early := x.early ++ [seq] }

/-- Cells of a peer and class in first transmissions that have passed the checks up to check 6 of R225 and are not accepted yet. -/
def Block.pendCells (b : Block) (peer c : Nat) : Nat :=
  Bits.sum (((b.te.opening ++ b.cx.segs.map fun e => (e.2.port, e.2.seg)).filter fun (q, g) =>
    b.peerOf q == some peer && g.cls.toNat % 8 == c && !g.retx && !g.fo).map fun e => Seg.cellsOf e.2.bodyLen.toNat)

/-- Cells up to the next one that FIRST_CELL names: how many there are, and what lies from that one on (R226). -/
def Te.toFirst : List LineItem → Nat × List LineItem
  | [] => (0, [])
  | .cell bs true :: l => (0, .cell bs true :: l)
  | .cell _ false :: l => ((Te.toFirst l).1 + 1, (Te.toFirst l).2)
  | .brk :: l => Te.toFirst l

/-- The bytes of the next `n` cells, when they have come and no break lies among them. -/
def Te.unit : Nat → List LineItem → Option (List Byte)
  | 0, _ => some []
  | n + 1, .cell bs _ :: l => (Te.unit n l).map (bs ++ ·)
  | _ + 1, _ => none

/-- The cells from a break on, and how many lie before it, when one lies among the next `n`. -/
def Te.toBreak : Nat → List LineItem → Option (Nat × List LineItem)
  | _, .brk :: l => some (0, l)
  | n + 1, .cell _ _ :: l => (Te.toBreak n l).map fun e => (e.1 + 1, e.2)
  | _, _ => none

/-- Cells are taken from those a port has received. -/
def Block.dropCells (p n : Nat) (b : Block) : Block := b.modTp p fun x => { x with cells := x.cells.drop n }

/-- The checks 4 to 7 of R225 on a segment of a port. -/
def Te.segmentIn (p : Nat) (g : Seg) (b : Block) : Block :=
  let cells := Seg.cellsOf g.bodyLen.toNat
  let c := g.cls.toNat % 8
  let seq := g.seq.toNat
  let try_ := g.tryNo.toNat % 16
  let b := b.segArrive p g
  let x := b.tp p
  let peer := (b.peerOf p).getD 0
  let r := b.pr peer
  if Crc.crc32c g.body ≠ g.bodyCrc then (b.bump (R.tePBodyErr p)).nakSeg p 2 1 0 try_ seq
  else if !g.retx && !g.fo && Te.lt (r.adv.getD c 0) ((r.got.getD c 0 + b.pendCells peer c + cells) % 2 ^ 48) then
    (b.bump (R.tePCredViol p)).nakSeg p 3 1 0 try_ seq
  else if Te.lt seq x.rxCum || x.acc.contains seq then
    let b := b.bump (R.tePRxDup p)
    if x.accepted seq then b.rxMark p g else b
  else if g.fo && (b.tp g.origPort).knownAccepted g.origSeq.toNat then (b.bump (R.tePFoDup p)).rxMark p g
  else b.onTe fun t => { t with opening := t.opening ++ [(p, g)] }

/-- A segment that `n` cells hold: when they have all come it is checked; when a break lies among them it is lost, and the TE hunts; till then
it waits. -/
def Te.segmentOf (p n : Nat) (b : Block) : Block :=
  let cs := (b.tp p).cells
  match Te.unit n cs, Te.toBreak n cs with
  | some bs, _ =>
    let g := Seg.parse bs
    let b := b.dropCells p n
    if g.epoch.toNat ≠ (b.tp p).rxEpoch then b.bump (R.tePHdrErr p) else Te.segmentIn p g b
  | none, some (k, rest) => (b.modTp p fun x => { x with cells := rest }).hunt p k
  | none, none => b

/-- The next unit of a port that has its place: a filler cell, a segment, or a loss of position (R218, R225). -/
def Te.unitIn (p : Nat) (b : Block) : Block :=
  match (b.tp p).cells with
  | [] => b
  | .brk :: rest => (b.modTp p fun x => { x with cells := rest }).hunt p 0
  | .cell bs f :: rest =>
    if bs.all (· == 0#8) then b.dropCells p 1
    else if bs.head? = some 0#8 then (b.dropCells p 1).hunt p 1
    else match Te.unit 2 (.cell bs f :: rest) with
      | none => Te.segmentOf p 2 b
      | some hd =>
        let g := Seg.parse hd
        if Crc.crc32c g.head ≠ g.hdrCrc ∨ ¬Te.headOk g then ((b.bump (R.tePHdrErr p)).dropCells p 1).hunt p 1
        else Te.segmentOf p (Seg.cellsOf g.bodyLen.toNat) b

/-- SEGMENT_RX: the next unit of those a port has received is checked; a receiver that hunts first discards the cells before the next one
that FIRST_CELL names (R225, R226). -/
def Te.segmentRx (p : Nat) (b : Block) : Block :=
  if !b.lineUp p || b.locked then b
  else if (b.tp p).hunting then
    let (n, rest) := Te.toFirst (b.tp p).cells
    let b := (b.huntCells p n).modTp p fun x => { x with cells := rest, hunting := rest.isEmpty }
    Te.unitIn p b
  else Te.unitIn p b

/-! ## Transport control (R222 to R224, R236 to R239) -/

/-- A new session of a port on receive (R216): its map starts anew. -/
def Block.rxSession (p epoch : Nat) (b : Block) : Block :=
  let b := b.cxPurge p
  let b := b.modTp p fun x => { x with rxEpoch := epoch, rxCum := 0, rxHigh := 0, acc := [], skip := [], foBase := 0, naks := [], early := [] }
  b.onTe fun t => { t with opening := t.opening.filter fun (o : Nat × Seg) => o.1 != p }

/-- A round-trip sample in ns (R236). -/
def TePort.sample (m : Nat) (x : TePort) : TePort :=
  if x.sampled then
    let s := ((x.srtt : Int) + ((m : Int) - x.srtt) / 8).toNat
    let d := if s < m then m - s else s - m
    { x with srtt := s, rttvar := ((x.rttvar : Int) + ((d : Int) - x.rttvar) / 4).toNat }
  else { x with sampled := true, srtt := m, rttvar := m / 2 }

/-- A segment has been accepted by the peer: below CUM_ACK, or marked in a SACK map. -/
def Te.acked (tc : TC) (seq : Nat) : Bool :=
  let i := (seq + 2 ^ 48 - tc.sackBase.toNat % 2 ^ 48) % 2 ^ 48
  Te.lt seq (tc.cumAck.toNat % 2 ^ 48) || i < 1920 && tc.sackMap.getLsbD i

/-- What a NAK entry does to the segments of a port: those it covers, with their current attempt, are due, or abandoned after attempt 8
(R237, R239). -/
def TePort.nak (e : BitVec 64) (x : TePort) : TePort :=
  let v := e.toNat
  let n := Bits.fld v 59 56 + 1
  let covers (seq : Nat) (g : TxSeg) : Bool := (seq + 2 ^ 48 - Bits.fld v 47 0) % 2 ^ 48 < n && g.try_ == Bits.fld v 51 48 && g.sent.isSome && !g.due && !g.failed
  { x with segs := x.segs.map fun (s : Nat × TxSeg) => if covers s.1 s.2 then
      (s.1, { s.2 with nak := some (Bits.fld v 63 60, Bits.fld v 55 52), due := decide (s.2.try_ < 8), again := true, failed := decide (8 ≤ s.2.try_) })
      else s }

/-- The session of a received transport control: the sender and version are good, and an epoch that differs begins a new session (R216,
R223). -/
def Block.tcSession (p : Nat) (tc : TC) (b : Block) : Block :=
  let b := b.modTp p fun x => { x with verBad := false, sender := some (tc.sender.toNat % 2 ^ 17) }
  if tc.epoch.toNat ≠ (b.tp p).rxEpoch then b.rxSession p tc.epoch.toNat else b

/-- The round trip of a received transport control: a new TS_ECHO gives a sample, and a new TS_VAL is what the port echoes next (R236). -/
def Block.tcTimes (p : Nat) (tc : TC) (b : Block) : Block :=
  let echo := tc.tsEcho.toNat
  let b := if b.lineUp p ∧ (b.tp p).lastEcho.getD 0 ≠ echo then
    b.modTp p fun x => { x.sample ((b.nowNs + 2 ^ 33 - echo - tc.holdNs.toNat) % 2 ^ 32) with lastEcho := some echo } else b
  if ((b.tp p).echo.map Prod.fst) = some tc.tsVal.toNat then b
  else b.modTp p fun x => { x with echo := some (tc.tsVal.toNat, b.now) }

/-- One NAK entry of a received transport control (R237): a segment that it makes due counts. -/
def Block.tcNak (p : Nat) (b : Block) (e : BitVec 64) : Block :=
  if e.toNat / 2 ^ 60 = 0 then b
  else
    let x := b.tp p
    let y := x.nak e
    (if (x.segs.filter fun g => g.2.due).length < (y.segs.filter fun g => g.2.due).length then b.bump (R.tePNakRx p) else b).modTp p fun _ => y

/-- What a received transport control accepts: CUM_ACK and the SACK map release segments, unless CUM_ACK lies beyond what was sent, and
the NAK entries follow (R228, R237). -/
def Block.tcAcks (p : Nat) (tc : TC) (b : Block) : Block :=
  tc.naks.foldl (Block.tcNak p) (if Te.lt (b.tp p).txSeq (tc.cumAck.toNat % 2 ^ 48) then b
    else b.modTp p (TePort.release fun seq g => g.sent.isSome && Te.acked tc seq))

/-- The credits of a received transport control: the class limits and the execution limit of the peer only rise (R232, R113). -/
def Block.tcCredits (p : Nat) (tc : TC) (b : Block) : Block :=
  match b.peerOf p with
  | none => b
  | some peer =>
    let b := b.modPr peer fun r => { r with lim := r.lim.zipIdx.map fun (l, c) => if c = 0 then l else Te.max l ((tc.credit.getD (c - 1) 0).toNat % 2 ^ 48) }
    b.onFwu fun f => { f with execLimit := AMap.set f.execLimit peer (Te.max (AMap.getD f.execLimit peer 0) (tc.execCredit.toNat % 2 ^ 48)) }

/-- The transport control of one member frame of a port, whose TC_CRC is right, is applied (R223). -/
def Te.controlIn (p : Nat) (tc : TC) (b : Block) : Block :=
  if tc.version ≠ 1#8 then b.modTp p fun x => { x with verBad := true }
  else
    let b := (((((b.tcSession p tc).tcTimes p tc).tcAcks p tc).rxSkip p (tc.sndLow.toNat % 2 ^ 48)).tcCredits p tc)
    if tc.ctrl.channel = 0#8 then b
    else b.onCc fun c => { c with slots := c.slots ++ [(p, tc.sender.toNat, tc.ctrl)] }

/-- TRANSPORT_CONTROL_RX: the next transport control of those a port has received; one whose TC_CRC fails is ignored and counted (R223). -/
def Te.controlRx (p : Nat) (b : Block) : Block :=
  if b.lfState p = 0 ∨ b.locked then b
  else match (b.tp p).tcs with
    | [] => b
    | bs :: rest =>
      let b := b.modTp p fun x => { x with tcs := rest }
      if TC.crcOk bs then Te.controlIn p (TC.parse bs) b else b.bump (R.tePTcErr p)

/-! ## Sending group frames (R218 to R224, R229, R238) -/

/-- The segment of Table 8-1 for a copy in the replay store. -/
def TxSeg.seg (g : TxSeg) (epoch seq : Nat) (retx : Bool) : Seg :=
  let body := g.recs.flatMap (·.raw)
  let s : Seg := {
    typ := 1, cls := BitVec.ofNat 8 g.cls, flags := BitVec.ofNat 8 (Bits.ofBool retx + (match g.fo with | some (q, _) => 2 + 4 * q | none => 0)), tryNo := BitVec.ofNat 8 g.try_,
    seq := BitVec.ofNat 48 seq, origSeq := BitVec.ofNat 48 ((g.fo.map Prod.snd).getD 0), bodyLen := BitVec.ofNat 32 g.len, epoch := BitVec.ofNat 16 epoch,
    job := BitVec.ofNat 16 g.job, bodyCrc := Crc.crc32c body, hdrCrc := 0, body := body }
  { s with hdrCrc := Crc.crc32c s.head }

/-- The oldest due segment of a port. -/
def TePort.nextDue (x : TePort) : Option (Nat × TxSeg) :=
  (x.segs.filter fun e => e.2.due && !e.2.failed).foldl (fun (m : Option (Nat × TxSeg)) e => match m with
    | none => some e
    | some y => if Te.lt e.1 y.1 then some e else m) none

/-- The address of the copy of a segment of `n` bytes, in 64-byte lines of its port's half of the replay store (log entry 98). -/
def Block.replayAddr (b : Block) (p seq n : Nat) : Nat :=
  let half := b.replayGib * gib / 2
  0x300000000 + p * half + Config.replaySlot p seq % ((half - n) / 64 + 1) * 64

/-- Bytes of a segment's copy. -/
def TxSeg.bytes (g : TxSeg) : Nat := 16 * Seg.cellsOf g.len

/-- A read of a segment's copy delivers poison. -/
def Block.copyPoison (b : Block) (g : TxSeg) : Bool := !b.noPoison && (unitsOf g.addr g.bytes).any b.poisonedUnit

/-- A segment is abandoned, counted and traced: its owners learn the status (R239). -/
def Block.abandonSeg (p seq : Nat) (g : TxSeg) (st detail : Nat) (b : Block) : Block :=
  ((b.bump R.teAbandonCnt).teTrace 3 p g.try_ seq g.cls).abandon p (fun s _ => s == seq) st detail

/-- A segment whose copy is poison when the TE reads it is abandoned at once (R239, R370, Table 14-2). -/
def Block.copyLost (p seq : Nat) (g : TxSeg) (b : Block) : Block :=
  (b.readCount g.addr g.bytes).abandonSeg p seq g St.timeout g.cls

/-- Records that cannot be read fail: the TE frees their buffers, and the owners of their messages learn TIMEOUT (R370, Table 14-2). -/
def Block.recsLost (queue engine : Nat) (rs : List Sealed) (b : Block) : Block :=
  (rs.flatMap (·.msgs)).foldl (fun b m => b.msgFail m St.timeout (Ss.clsOf queue)) (rs.foldl (fun b r => b.freeOut r.buf (Ss.jobOf queue) engine) b)

/-- A due copy is sent: its attempt and what records it (R220, R238). -/
def Block.resend (p seq : Nat) (g : TxSeg) (b : Block) : Block × Seg :=
  let first := g.sent.isNone
  let g' := { g with try_ := if g.again then g.try_ + 1 else g.try_, due := false, again := false, sent := some b.now }
  let b := b.modTp p fun x => { x with segs := AMap.set x.segs seq g' }
  let b := if first then b.teTrace 2 p g'.try_ seq g.cls
    else ((b.bump (R.tePRetxCnt p)).count g.job 1 20 1).teTrace 1 p g'.try_ seq g.cls
  let b := (b.bump64 (R.tePTxsegLo p) 1).portCharge p g.len false
  (b.count g.job 1 23 g.len, g'.seg (b.tp p).txEpoch seq (!first))

/-- A first transmission: a new SEQ, its replay copy in the port's half, its credit, and its class 3 buffers, which the SS has passed on, free
again (R16, R220, R221, R233). -/
def Block.sendNew (p queue : Nat) (rs : List Sealed) (b : Block) : Block × Seg :=
  let job := Ss.jobOf queue
  let cls := Ss.clsOf queue
  let len := Bits.sum (rs.map fun r => r.raw.length)
  let seq := (b.tp p).txSeq
  let g : TxSeg := ⟨cls, job, rs, len, 0, false, false, some b.now, none, false, none, p, b.replayAddr p seq (16 * Seg.cellsOf len)⟩
  let b := b.modTp p fun x => { x with txSeq := (x.txSeq + 1) % 2 ^ 48, segs := AMap.set x.segs seq g }
  let b := (rs.foldl (fun b r => (b.passBuf r.buf job 7 6).freeOut r.buf job 6) b).bufWritten g.addr g.bytes false
  let b := b.modPr ((b.peerOf p).getD 0) fun r => { r with sent := r.sent.set cls ((r.sent.getD cls 0 + Seg.cellsOf len) % 2 ^ 48) }
  let b := (b.bump64 (R.tePTxsegLo p) 1).count job 1 19 1
  (b.count job 1 23 len, g.seg (b.tp p).txEpoch seq false)

/-- A port may take a first transmission now. -/
def Block.takesNew (b : Block) (p : Nat) : Bool :=
  let x := b.tp p
  b.funcMode (0x200 + p) == 1 && (x.txSeq + 2 ^ 48 - x.sndLow) % 2 ^ 48 < 2 ^ 30

/-- Segments of one group frame from cell `pos` of `room` on: due copies within RETX_SHARE of the cells while first transmissions wait,
then first transmissions (R238). Returns the block, the segments and where they start, and the cells they take. -/
def Te.fillFrom (p room : Nat) : Nat → Nat → Block → Block × List (Nat × Seg) × Nat
  | 0, pos, b => (b, [], pos)
  | k + 1, pos, b =>
    if room ≤ pos then (b, [], pos)
    else
      let x := b.tp p
      let waits := b.takesNew p && (b.ssPick p).isSome
      let x := if waits then x else { x with retx := (0, 0) }
      let share := b.fld R.teCtl 15 8
      let copy := match x.nextDue with
        | some d => if !waits || 100 * x.retx.1 ≤ share * x.retx.2 then some d else none
        | none => none
      let b := b.modTp p fun _ => x
      let add (re : Bool) (n : Nat) (b : Block) : Block := if waits then b.modTp p fun y => { y with retx := (y.retx.1 + (if re then n else 0), y.retx.2 + n) } else b
      match copy with
      | some (seq, g) =>
        let n := Seg.cellsOf g.len
        if b.copyPoison g then Te.fillFrom p room k pos (b.copyLost p seq g)
        else
        let (b, s) := b.resend p seq g
        let (b, ss, stop) := Te.fillFrom p room k (pos + n) (add true n b)
        (b, (pos, s) :: ss, stop)
      | none =>
        if !waits then (b, [], pos)
        else match b.ssTake p with
          | none => (b, [], pos)
          | some (queue, rs, b) =>
            let n := Seg.cellsOf (Bits.sum (rs.map fun r => r.raw.length))
            if rs.any fun r => r.buf.any b.bufPoison then Te.fillFrom p room k pos (b.recsLost queue 7 rs)
            else
            let (b, s) := b.sendNew p queue rs
            let (b, ss, stop) := Te.fillFrom p room k (pos + n) (add false n b)
            (b, (pos, s) :: ss, stop)

/-- An 8-byte NAK entry (Table 8-3). -/
def Nak.word (n : Nak) : BitVec 64 :=
  BitVec.ofNat 64 (n.cause * 2 ^ 60 + (n.count - 1) % 16 * 2 ^ 56 + n.check % 16 * 2 ^ 52 + n.try_ % 16 * 2 ^ 48 + n.start % 2 ^ 48)

/-- The map of 1,920 SEQs from a base. -/
def TePort.sack (x : TePort) (base : Nat) : BitVec 1920 :=
  x.acc.foldl (fun (m : BitVec 1920) s =>
    let i := (s + 2 ^ 48 - base % 2 ^ 48) % 2 ^ 48
    if i < 1920 then m ||| (1#1920 <<< i) else m) 0

/-- Fragments of 44 bytes of a key agreement message (R358). -/
def KxSend.count (s : KxSend) : Nat := Bits.ceilDiv s.msg.length 44

/-- The next fragment of a port's key agreement message, sealed under the bootstrap key (R357, R358). -/
def Block.kxFragment (p sender : Nat) (b : Block) : Option (CtrlSlot × Block) :=
  (AMap.get? b.sec.send p).bind fun s =>
    if s.until_ ≤ b.now ∨ s.msg = [] then none
    else
      let chunk := (s.msg.drop (44 * s.next)).take 44
      let pt := [0x10#8] ++ s.msg.take 1 ++ Bits.leBytes 2 s.next ++ Bits.leBytes 2 s.count ++ Bits.leBytes 2 s.x ++ chunk ++ List.replicate (44 - chunk.length) 0#8
      let (key, salt) := Cc.bootKey b.gw s.x
      let s' := { s with next := (s.next + 1) % s.count, rctr := s.rctr + 1 }
      some (Cc.slotSeal key salt s.x s.rctr 1 sender pt, { b with sec := { b.sec with send := AMap.set b.sec.send p s' } })

/-- Control slots of a group frame, `n` of them, after `k` that hold fragments: rekey messages first, then management messages, then key
agreement fragments, at most 16 while management messages wait (R285, R286, R358). -/
def Te.ctrlSlots (p sender : Nat) : Nat → Nat → List (Nat × List Byte) → Block → List CtrlSlot × List (Nat × List Byte) × Block
  | 0, _, msgs, b => ([], msgs, b)
  | n + 1, k, msgs, b =>
    let frag (msgs : List (Nat × List Byte)) : List CtrlSlot × List (Nat × List Byte) × Block :=
      match if 16 ≤ k && msgs.any (·.1 == 2) then none else b.kxFragment p sender with
      | some (s, b) =>
        let (ss, rest, b) := Te.ctrlSlots p sender n (k + 1) msgs b
        (s :: ss, rest, b)
      | none =>
        let (ss, rest, b) := Te.ctrlSlots p sender n k msgs b
        (Cc.slotEmpty :: ss, rest, b)
    match msgs with
    | (ch, pt) :: ms => match b.ctrlSeal p ch sender pt with
      | some (s, b) =>
        let (ss, rest, b) := Te.ctrlSlots p sender n k ms b
        (s :: ss, rest, b)
      | none => frag ((ch, pt) :: ms)
    | [] => frag []

/-- The smallest grant of a class in cells, TE_RXCRED_MIN (R232). -/
def Block.lowGrant (b : Block) : Nat := b.fld R.teRxcredMin 15 0 * 65536

/-- Limits advertised to a peer: F_c + G_c, never lowered, where G_c is at least `low` (R232). -/
def TePeer.advance (low : Nat) (r : TePeer) : TePeer :=
  { r with adv := r.adv.zipIdx.map fun (a, c) => Te.max a ((r.freed.getD c 0 + max (r.grant.getD c 0) (if c = 0 then 0 else low)) % 2 ^ 48) }

/-- The cells of a port's next group frame and the FIRST_CELL of each member (R218, R219, R222): what is left of the unit begun before, the
segments that begin, and filler. A port that may not send begins none. -/
def Block.groupCells (p : Nat) (b : Block) : List Byte × List Nat × Block :=
  let shares := (List.range 32).map (b.share p)
  let room := Bits.sum shares
  let x := b.tp p
  let old := x.carry.length / 16
  let (b, segs, stop) := if x.usable && !x.verBad && !b.locked then Te.fillFrom p room (room + 1) old b else (b, [], old)
  let bytes := x.carry ++ segs.flatMap fun e => e.2.bytes
  ((bytes ++ List.replicate (16 * room) 0#8).take (16 * room), Te.firstCells (segs.map Prod.fst) stop 0 shares,
    b.modTp p fun y => { y with carry := bytes.drop (16 * room) })

/-- Pieces of at most 52 bytes of management messages, from the management OS, wait for the control slots of a port (R224, R285). -/
def Te.mgmtIn (p : Nat) (msgs : List (List Byte)) (b : Block) : Block :=
  b.modTp p fun x => { x with ctl := x.ctl ++ (msgs.filter fun m => decide (m.length ≤ 52)).map fun m => (2, m) }

/-- The control slots of a port's next group frame (R285, R286): the messages of rekeying first, then what waits for the port. -/
def Block.groupSlots (p : Nat) (b : Block) : List CtrlSlot × Block :=
  let own := (b.tp p).ctl
  let (slots, rest, b) := if b.locked then (List.replicate 32 Cc.slotEmpty, own, b)
    else Te.ctrlSlots p (b.gw + 65536 * p) 32 0 (b.rkSend p ++ own) b
  (slots, b.modTp p fun y => { y with ctl := if rest.length ≤ own.length then rest else own })

/-- The NAK words of a port's next group frame: the first 256 entries, each of which is sent four times and counted the first time
(R229). -/
def Block.groupNaks (p : Nat) (b : Block) : List (BitVec 64) × Block :=
  let (now, later) := (b.tp p).naks.splitAt 256
  let b := (now.filter fun n => n.left == 4).foldl (fun b _ => b.bump (R.tePNakTx p)) b
  (now.map Nak.word, b.modTp p fun y => { y with naks := ((now.map fun (n : Nak) => { n with left := n.left - 1 }).filter fun n => n.left != 0) ++ later })

/-- The credits of a port's next group frame (R232, R113): those of classes 1 to 7, and the execution credit. -/
def Block.groupCredits (p : Nat) (b : Block) : List (BitVec 64) × Nat × Block :=
  match b.peerOf p with
  | some g =>
    let b := b.modPr g (TePeer.advance b.lowGrant)
    (((b.pr g).adv.drop 1).map (BitVec.ofNat 64), b.execGrant g)
  | none => (List.replicate 7 0, 0, b)

/-- The transport control of member `m` of a port at this instant (R223, Table 8-3), with its share of the frame's lists. -/
def Block.controlOf (b : Block) (p m : Nat) (firsts : List Nat) (slots : List CtrlSlot) (words credit : List (BitVec 64)) (exec : Nat) : TC :=
  let x := b.tp p
  let base := (x.rxCum + 1920 * m) % 2 ^ 48
  { version := 1, member := BitVec.ofNat 8 m, firstCell := BitVec.ofNat 16 (firsts.getD m 0xFFFF), sender := BitVec.ofNat 32 (b.gw + 65536 * p),
    cumAck := BitVec.ofNat 64 x.rxCum, rxHigh := BitVec.ofNat 64 x.rxHigh, tsVal := BitVec.ofNat 32 b.nowNs,
    tsEcho := BitVec.ofNat 32 ((x.echo.map Prod.fst).getD 0),
    holdNs := BitVec.ofNat 32 (match x.echo with
      | some (_, t) => (b.now - t) / 8
      | none => 0),
    epoch := BitVec.ofNat 16 x.txEpoch,
    sackBase := BitVec.ofNat 64 base, sackMap := x.sack base, naks := (List.range 8).map fun i => words.getD (8 * m + i) 0,
    credit := credit, execCredit := BitVec.ofNat 64 exec, ctrl := slots.getD m Cc.slotEmpty, sndLow := BitVec.ofNat 64 x.sndLow }

/-- What the TE gives a port's next group frame: the transport control of its 32 members, and the cells of its payload (R218 to R224). -/
def Te.groupOut (p : Nat) (b : Block) : List TC × List Byte × Block :=
  let (cells, firsts, b) := b.groupCells p
  let (slots, b) := b.groupSlots p
  let (words, b) := b.groupNaks p
  let (credit, exec, b) := b.groupCredits p
  ((List.range 32).map fun m => b.controlOf p m firsts slots words credit exec, cells, b)

/-! ## Timers (R232, R236, R237, R239) -/

/-- The retransmission timeout of a port (R237), in time units. -/
def Block.rtoOf (b : Block) (p : Nat) : Nat := 8 * ((b.tp p).srtt + max (4 * (b.tp p).rttvar) (1000 * b.fld R.teRtoCtl 15 0))

/-- An attempt of a segment is outstanding and older than the timeout. -/
def Block.rtoLate (b : Block) (p : Nat) (g : TxSeg) : Bool := !g.due && !g.failed && g.sent.any fun t => t + b.rtoOf p ≤ b.now

/-- An attempt has run past the timeout: the segment is due again, and after its eighth attempt it has failed (R237, R239). -/
def TxSeg.rto (g : TxSeg) : TxSeg := { g with nak := none, due := decide (g.try_ < 8), again := true, failed := decide (8 ≤ g.try_) }

/-- The timeouts of one usable port. -/
def Block.rtoPort (b : Block) (p : Nat) : Block :=
  if !(b.tp p).usable then b
  else
    (b.bumpN (R.tePRtoCnt p) ((b.tp p).segs.filter fun e => b.rtoLate p e.2).length).modTp p fun x =>
      { x with segs := x.segs.map fun (e : Nat × TxSeg) => if b.rtoLate p e.2 then (e.1, e.2.rto) else e }

/-- RTO_EXPIRY: the check of every 100 µs makes attempts due that are unaccepted past the timeout of R237. -/
def Te.rtoCheck (b : Block) : Block := (b.rtoPort 0).rtoPort 1

/-- SEGMENT_ABANDON: a segment whose attempt 8 has failed is abandoned and reported (R239). -/
def Te.segAbandon (p seq : Nat) (b : Block) : Block :=
  match AMap.get? (b.tp p).segs seq with
  | none => b
  | some g =>
    if !g.failed then b
    else
      let (st, detail) := match g.nak with
        | some (4, _) => (St.authFail, 0)
        | some (5, k) => (St.decodeError, k)
        | _ => (St.timeout, g.cls)
      b.abandonSeg p seq g st detail

/-- The peers that PEER_KEYX has authenticated. -/
def Block.gws (b : Block) : List Nat := (b.peerGw.map Prod.snd).eraseDups

/-- Cells of the receive pool of a peer (R232). -/
def Block.poolCells (b : Block) : Nat := b.fld R.teRxpool 7 0 * gib / 16 / max 1 b.gws.length

/-- RX_CREDIT_RECOMPUTE: the grants of the receive pool, from what each class received in the last 1 ms (R232). -/
def Te.creditRecompute (b : Block) : Block :=
  let low := b.lowGrant
  let rest := b.poolCells - 7 * low
  b.gws.foldl (fun b g => b.modPr g fun r =>
    let total := Bits.sum (r.recent.drop 1)
    { r with
      grant := (List.range 8).map fun c => if c = 0 then 0 else low + (if total = 0 then rest / 7 else rest * r.recent.getD c 0 / total)
      recent := List.replicate 8 0 }) b

/-- FWU_RTT_UPDATE: SRTT in µs for each port, 0 for one that is not UP or SHRUNK (R124, R236, Table 4-6). -/
def Te.rttUpdate (b : Block) : Block :=
  let live (p : Nat) : Bool := (b.tp p).sampled && (b.lfState p == 3 || b.lfState p == 4)
  let put (p r : Nat) (b : Block) : Block := b.putN r (if live p then (b.tp p).srtt / 1000 else 0)
  put 1 R.fwuRttB (put 0 R.fwuRttA b)

/-! ## Failover and loss of path (R242 to R247) -/

/-- The map of accepted SEQs of a port is no longer kept for failover copies (R244). -/
def TePort.dropMap (x : TePort) : TePort := { x with foBase := x.acc.foldl (fun m s => Te.max m ((s + 1) % 2 ^ 48)) (Te.max x.rxCum x.rxHigh) }

/-- The unaccepted segments of a port get new SEQs on the other port, as failover copies (R243). -/
def Block.failover (p q : Nat) (b : Block) : Block :=
  let x := b.tp p
  let order := (List.range x.segs.length).foldl (fun (acc : List (Nat × TxSeg) × List (Nat × TxSeg)) _ =>
    match acc.2.foldl (fun (m : Option (Nat × TxSeg)) e => match m with
      | none => some e
      | some y => if Te.lt e.1 y.1 then some e else m) none with
    | some e => (acc.1 ++ [e], acc.2.filter fun f => f.1 != e.1)
    | none => acc) ([], x.segs)
  let b := b.modTp p (TePort.release fun _ _ => true)
  order.1.foldl (fun b e =>
    let g := e.2
    let ids := g.msgs.filterMap (·.cmd)
    let b := b.modTp q fun y => { y with
      txSeq := (y.txSeq + 1) % 2 ^ 48
      segs := AMap.set y.segs y.txSeq { g with try_ := 0, due := true, again := false, sent := none, nak := none, failed := false, fo := some (p, e.1) } }
    (b.bump (R.tePFoOut p)).warnAll Warn.failover fun f => ids.contains f.id) b

/-- No usable port leads to a peer: the FWU and the CE learn of it (R247). -/
def Block.pathCheck (peer : Nat) (b : Block) : Block :=
  if (b.portsTo peer).any fun p => (b.tp p).usable then b
  else if b.noPath.contains peer then b
  else
    let b := { b with noPath := b.noPath ++ [peer] }
    (b.modPr peer fun r => { r with noPathAt := some b.now }).event 0x0003 2 devJob 31 (Bits.leBytes 2 peer)

/-- A usable port leads to a peer again. -/
def Block.pathBack (peer : Nat) (b : Block) : Block :=
  ({ b with noPath := b.noPath.filter (· != peer) } : Block).modPr peer fun r => { r with noPathAt := none }

/-- PORT_UNUSABLE: a port that LOG or PRDI has taken out of UP and SHRUNK carries no segments; its segments go to the other port when
that reaches the same peer (R242, R243, R247). -/
def Te.portUnusable (p : Nat) (b : Block) : Block :=
  if !(b.tp p).usable || b.lineUp p then b
  else
    let peer := (b.peerOf p).getD 0
    let b := b.modTp p fun x => { x with usable := false, sampled := false, downAt := some b.now, hunting := true, carry := [] }
    let b := (b.event 0x0001 1 devJob 31 (Bits.leBytes 1 p ++ Bits.leBytes 2 peer)).teTrace 5 p 0 0 0
    let q := 1 - p
    let b := if b.samePeer && (b.tp q).usable then b.failover p q else b
    b.pathCheck peer

/-- PORT_USABLE: a port in UP or SHRUNK with its first round-trip sample carries segments again (R245, R247). -/
def Te.portUsable (p : Nat) (b : Block) : Block :=
  let x := b.tp p
  match b.peerOf p with
  | none => b
  | some peer =>
    if x.usable || !b.lineUp p || !x.sampled || x.verBad || b.locked then b
    else
      let b := b.modTp p fun x => TePort.dropMap { x with usable := true, downAt := none, segs := x.segs.map fun (e : Nat × TxSeg) =>
        if e.2.failed then e else (e.1, { e.2 with due := true, again := e.2.again && e.2.due }) }
      let b := (b.event 0x0002 0 devJob 31 (Bits.leBytes 1 p ++ Bits.leBytes 2 peer)).teTrace 4 p 0 0 0
      let q := 1 - p
      let b := if b.samePeer && !(b.tp q).usable && !(b.tp q).segs.isEmpty then b.failover q p else b
      b.pathBack peer

/-- 10 s. -/
abbrev tenSec : Time := 80000000000

/-- ACCEPT_MAP_EXPIRY: a port has been unusable for 10 s, and its accepted-state map is dropped (R244). -/
def Te.mapExpiry (p : Nat) (b : Block) : Block :=
  let x := b.tp p
  if !x.usable && x.downAt.any fun t => t + tenSec ≤ b.now then b.modTp p TePort.dropMap else b

/-- A segment goes to a peer: its records name it as their receiver. -/
def TxSeg.goesTo (g : TxSeg) (peer : Nat) : Bool := g.recs.any fun r => r.rec_.receiver.toNat == peer

/-- NO_PATH_EXPIRY: no path to a peer for 10 s, and every segment to it is abandoned with LINK_DOWN (R247). -/
def Te.noPathExpiry (peer : Nat) (b : Block) : Block :=
  match (b.pr peer).noPathAt with
  | none => b
  | some t =>
    if t + tenSec ≤ b.now then
      let b := (b.bump R.teNopathCnt).modPr peer fun r => { r with noPathAt := none }
      [0, 1].foldl (fun b p => b.abandon p (fun _ g => g.goesTo peer) St.linkDown (peer / 4096)) b
    else b

/-- A new session of a port at PEER_KEYX (R216, R275): its unaccepted segments, and those of any port sealed under the replaced
transmit data key, are abandoned with LINK_DOWN, and SEQ starts at 0 in the next epoch. -/
def Block.newSession (p : Nat) (b : Block) : Block :=
  let site := ((b.peerOf p).getD 0) / 4096
  let under (g : TxSeg) : Bool := g.recs.any fun r => r.port == p
  let b := [0, 1].foldl (fun b q => b.abandon q (fun _ g => q == p || under g) St.linkDown site) b
  b.modTp p fun x => { x with txEpoch := (x.txEpoch + 1) % 65536, txSeq := 0, sndLow := 0, segs := [] }

/-- The queue of a record or message for another peer slot of its job (R253, R254). -/
def Ss.reslot (queue slot : Nat) : Nat := queue - 256 * Ss.slotOf (Ss.aggOf queue) + 256 * slot

/-- After PEER_KEYX has changed the peer of a port, messages and queued records move to the aggregates of the slot that their peer has now;
those of a peer that no port reaches are discarded with LINK_DOWN, so that the aggregates of a slot hold records of its peer only (R254, log
entry 74). -/
def Block.reslot (b : Block) : Block :=
  let b := b.lineLost
  let far (m : OutMsg) : Bool := (b.portsTo m.peer).isEmpty
  let recs := b.ss.queues.flatMap fun e => e.2.map fun r => (e.1, r)
  let lost := recs.filter fun e => e.2.msgs.any far
  let kept := recs.filter fun e => !e.2.msgs.any far
  let place (n : Nat) (ms : List OutMsg) : Nat := match ms with
    | m :: _ => Ss.reslot n (b.peerSlot m.peer)
    | [] => n
  let b := ({ b with outq := b.outq.map fun m => { m with queue := place m.queue [m] } } : Block).onSs fun s => { s with
    queues := kept.foldl (fun q e => let n := place e.1 e.2.msgs; AMap.set q n (AMap.getD q n [] ++ [e.2])) [] }
  let b := lost.foldl (fun b e => b.freeOut e.2.buf (Ss.jobOf e.1) 7) b
  (lost.flatMap fun e => e.2.msgs).foldl (fun b m => b.msgFail m St.linkDown (m.peer / 4096)) b

/-! ## Registers -/

/-- TE_P_STAT of a port. -/
def Block.teStat (b : Block) (p : Nat) : Nat :=
  let x := b.tp p
  let fo := b.te.ports.any fun e => e.2.segs.any fun s => (s.2.fo.map Prod.fst) == some p
  2 ^ 31 * Bits.ofBool x.usable + 2 ^ 30 * Bits.ofBool fo + 2 ^ 29 * Bits.ofBool x.verBad + (b.peerOf p).getD 0

/-- MiB of the receive pool that a class holds. -/
def Block.rxUsed (b : Block) (c : Nat) : Nat :=
  16 * Bits.sum ((b.te.held.filter fun e => e.2.cls == c).map fun e => e.2.cells) / 2 ^ 20

/-- MiB of a port's half of the replay store in use. -/
def Block.replayMib (b : Block) (p : Nat) : Nat := Bits.ceilDiv (b.replayUsed p) (2 ^ 20)

/-- Every segment of a port is acknowledged or handed over (Table 2-10). -/
def Block.lineDrained (b : Block) (p : Nat) : Bool := (b.tp p).segs.isEmpty

end Sys2Proof.Machine
end

