-- ==== Sys2Proof/Machine/Lf.lean ====
section
/-! DEFINITION. Line framing (chapter 11): members and their frames, defects, member maps, planned removals, port states, slotted mode
and the configuration commands of a line port. -/

namespace Sys2Proof.Machine

/-- The LO of a line port after reset (log entry 45: no ceiling of total launch until PORT_CONFIG sets one). -/
def LoPort.init : LoPort :=
  { target := 1, picked := false, totMax := 161, bring := none, reacq := none, reFail := false, lines := 0xFFFFFFFF, freq := [], lowAt := none,
    rings := [], med := [], cals := [], temp := 0, relock := [], unlock := [], drop := [], dim := 0, rx := [], coder := [], att := [], cal := none,
    calNext := (0, 0), calSoon := [], tune := none, tuneWait := none, darkAt := none, reflAt := none, powerAt := none, probe := none,
    probeNext := 0, sat := [], past := [], bounds := [], main := [], spare := [] }

/-- The LO of a line port. -/
def Block.lo1 (b : Block) (p : Nat) : LoPort := AMap.getD b.lo p LoPort.init

/-- The block with the LO of a line port changed. -/
def Block.modLo (p : Nat) (f : LoPort → LoPort) (b : Block) : Block := { b with lo := AMap.set b.lo p (f (b.lo1 p)) }

/-- A member of the LF after reset or entry to DARK. -/
def LfMem.init : LfMem :=
  { stream := [], inFrame := false, aligned := false, fasBad := 0, mfi := none, mfiOk := 0, mfiBad := 0, gidOk := 0, gidBad := 0, mimOk := 0,
    mimBad := 0, rdiOn := 0, rdiOff := 0, oofAt := none, inAt := none, loaAt := none, loaOk := none, skew := 0, bip := none, buf := [], srei := 0,
    prei := 0, txBip := (0, 0), cyc := [], cycs := ([], 0), trace := [], plan := 0, planBy := 0, freed := false, back := none, degHi := 0, degLo := 0, degOff := true }

/-- A member of a line port. -/
def LfPort.mem (x : LfPort) (m : Nat) : LfMem := AMap.getD x.mems m LfMem.init

/-- The block with a line port of the LF changed. -/
def Block.modLp (p : Nat) (f : LfPort → LfPort) (b : Block) : Block := { b with lf := { b.lf with ports := AMap.set b.lf.ports p (f (b.lp p)) } }

/-- A member of a line port. -/
def Block.lm (b : Block) (p m : Nat) : LfMem := (b.lp p).mem m

/-- The block with a member changed. -/
def Block.modLm (p m : Nat) (f : LfMem → LfMem) (b : Block) : Block := b.modLp p fun x => { x with mems := AMap.set x.mems m (f (x.mem m)) }

/-- A member of a line port is lit by the LO. -/
def Block.lit (b : Block) (p m : Nat) : Bool := b.bit (R.loMStat p m) 31

/-- LIT of a member is set; its coded stream starts anew with the first frame after it is lit (R325). -/
def Block.setLit (p m : Nat) (v : Bool) (b : Block) : Block :=
  let b' := b.putBit (R.loMStat p m) 31 v
  if v && !b.lit p m then b'.modLo p fun x => { x with coder := AMap.erase x.coder m } else b'

/-- The active laser of a port: 0 none, 1 main, 2 spare. -/
def Block.combActive (b : Block) (p : Nat) : Nat := b.fld (R.loStat p) 1 0

/-- A port is in eye-safety shutdown: it emits only as R346 allows. -/
def Block.safe (b : Block) (p : Nat) : Bool := b.bit (R.loStat p) 31

/-- The comb of a port is in service: active, and neither in bring-up nor re-acquiring. -/
def Block.combOn (b : Block) (p : Nat) : Bool := b.combActive p != 0 && (b.lo1 p).bring.isNone && (b.lo1 p).reacq.isNone

/-- A member is provisioned. -/
def Block.prov (b : Block) (p m : Nat) : Bool := Bits.bit (b.regN (R.lfProvMap p)) m

/-- A member's transmitter is lit (R329, R332, R335, R338, R346). -/
def Block.litNow (b : Block) (p m : Nat) : Bool :=
  let x := b.lo1 p
  let probe := x.probe.isSome && (List.range 32).find? (b.prov p) == some m
  b.combOn p && b.prov p m && Bits.bit x.lines m && !b.bit (R.loMStat p m) 27 && !x.relock.contains m &&
    !(x.cal.any fun c => c.mem == m && (c.phase == 2 || c.phase == 5)) && (!b.safe p || probe)

/-- LOS_DBM. -/
def Block.losDbm (b : Block) (p : Nat) : Int := Bits.toInt 16 (b.fld (R.loRxCfg p) 15 0)

/-- A receive power is reported as no power: below LOS_DBM, or within 2 dB above it for a member that is reported so (R327). -/
def Block.noPower (b : Block) (p m : Nat) (x : Int) : Bool := decide (x < b.losDbm p + (if Bits.bit (b.lo1 p).dim m then 20 else 0))

/-- A member's DSP is, or is not, locked to the carrier; one that loses it finds its codewords anew (R326). Without a comb in service there is no
local oscillator, and no lock (R15). -/
def Block.setLock (p m : Nat) (locked : Bool) (b : Block) : Block :=
  let lock := locked && b.combOn p
  (b.putBit (R.loMStat p m) 30 lock).modLo p fun x => { x with
    rx := if lock then x.rx else AMap.adjust x.rx m fun r => { r with orient := none, syms := [] } }

/-- What the LO sees of a member's light: its receive power, the report of R327, and the lock of its DSP. -/
def Block.lightIn (p m : Nat) (power : Int) (lock : Bool) (b : Block) : Block :=
  let dim := b.noPower p m power
  ((b.putN (R.loMRxpwr p m) (Bits.ofInt 16 power)).setLock p m lock).modLo p fun x => { x with dim := Bits.put x.dim m m (Bits.ofBool dim) }

/-- An LF trace record (Table 17-8). -/
def Block.lfTrace (ev p m code : Nat) (b : Block) : Block :=
  b.trace 5 ev devJob (Bits.leBytes 1 p ++ Bits.leBytes 1 m ++ Bits.leBytes 1 code)

/-! ## Performance monitoring: what a second collects (R315) -/

/-- A second that has collected nothing. -/
def PmSec.init (sec : Nat) : PmSec := ⟨sec, 0, 0, false, false, false, 0, none⟩

/-- A bin that starts. -/
def PmBin.init (start : Nat) : PmBin := ⟨start, 0, 0, 0, 0, 0, 0, 0, 0, 0, 0, 0, false⟩

/-- An object without history. -/
def PmObj.init : PmObj :=
  let old := { PmBin.init 0 with suspect := true }
  ⟨PmSec.init 0, [], false, PmBin.init 0, List.replicate 32 old, PmBin.init 0, old⟩

/-- Performance monitoring of an object of a port: a member, or 32 the group. -/
def Block.pm (b : Block) (p o : Nat) : PmObj := AMap.getD b.lf.pm (64 * p + o) PmObj.init

/-- The block with the monitoring of an object changed. -/
def Block.modPm (p o : Nat) (f : PmObj → PmObj) (b : Block) : Block := { b with lf := { b.lf with pm := AMap.set b.lf.pm (64 * p + o) (f (b.pm p o)) } }

/-- The second in progress of an object changes. -/
def Block.pmCur (p o : Nat) (f : PmSec → PmSec) (b : Block) : Block := b.modPm p o fun x => { x with cur := f x.cur }

/-! ## Members (R296, R299, R303, R307) -/

/-- Member `m` is in a planned removal at either end (R303). -/
def Block.planned (b : Block) (p m : Nat) : Bool := (b.lm p m).plan != 0 || Bits.bit (b.lp p).peerPlan m

/-- The defect bits that take action: LOS, LOF, LOM, LOA, GIM and MIM, with TIM and DEG when configured (Table 11-6). -/
def Block.actMask (b : Block) (p : Nat) : Nat :=
  let cfg := (b.lp p).inForce.2.1
  0x3F + 64 * (cfg % 2) + 128 * (cfg / 2 % 2)

/-- A member has a defect with consequent action. -/
def Block.actDef (b : Block) (p m : Nat) : Bool := Nat.land (b.regN (R.lfMDef p m)) (b.actMask p) != 0 && !b.planned p m

/-- A defect of a second's classification (R315). -/
def Block.secDef (b : Block) (p m : Nat) : Bool :=
  Nat.land (b.regN (R.lfMDef p m)) (0x3F + 64 * ((b.lp p).inForce.2.1 % 2)) != 0 && !b.planned p m

/-- A member is received in frame and multiframe-aligned. -/
def LfMem.good (x : LfMem) : Bool := x.inFrame && x.aligned

/-- Members that a test selects, as a map. -/
def Lf.map (f : Nat → Bool) : Nat := Bits.sum ((List.range 32).map fun m => if f m then 2 ^ m else 0)

/-- How many members a map holds. -/
def Lf.count (m : Nat) : Nat := Bits.ones 32 m

/-- RX_REQ of a port (R299). -/
def Block.rxReqNow (b : Block) (p : Nat) : Nat :=
  Lf.map fun m => b.prov p m && (b.lm p m).good && !b.actDef p m && !((b.lm p m).plan == 1 || (b.lm p m).plan == 2)

/-- TX_MAP of a port (R300, Table 11-5). -/
def Block.txMapNow (b : Block) (p : Nat) : Nat :=
  if b.bit (R.lfGdef p) 0 || b.lfState p == 1 || b.lfState p == 0 then 0
  else Lf.map fun m => b.prov p m && b.lit p m && Bits.bit (b.regN (R.lfPeerReq p)) m && (b.lm p m).plan != 2

/-- LF_M_STAT.STATE of a member (Table 11-10). -/
def Block.memState (b : Block) (p m : Nat) : Nat :=
  let x := b.lm p m
  if !b.prov p m then 0
  else if x.plan ≠ 0 then 3 + x.plan
  else if Bits.bit (b.regN (R.lfRxReq p)) m then 3
  else if x.good then 2 else 1

/-- The member registers and LF_GDEF follow the maps. -/
def Block.lfRegs (p : Nat) (b : Block) : Block :=
  let tx := b.regN (R.lfTxMap p)
  let rx := b.regN (R.lfRxMap p)
  let b := (List.range 32).foldl (fun b m =>
    b.putN (R.lfMStat p m) (512 * Bits.ofBool (Bits.bit rx m) + 256 * Bits.ofBool (Bits.bit tx m) + b.memState p m)) b
  let b := b.putN (R.lfPlanMap p) (Lf.map fun m => (b.lm p m).plan != 0)
  b.putFld (R.lfGdef p) 4 2 ((if Lf.count tx < 32 then 1 else 0) + (if Lf.count rx < 32 then 2 else 0) + (if b.regN (R.lfPlanMap p) = 0 then 0 else 4))

/-! ## Port states (R306) -/

/-- A member that MEMBER_SET removes is no longer provisioned and stays dark; the command completes with the members in the own TX_MAP
(R305). -/
def Block.memRemoved (p k : Nat) (b : Block) : Block :=
  let b := b.putN (R.lfProvMap p) (Lf.map fun m => b.prov p m && m != k)
  let b := (b.modLm p k fun x => { x with plan := 0, freed := false, back := none }).setLit p k false
  let ids := ((b.lp p).drops.filter fun d => d.2 == k).map Prod.fst
  let b := b.modLp p fun x => { x with drops := x.drops.filter fun (d : Nat × Nat) => d.2 != k }
  ids.foldl (fun b id => b.ok id (Lf.count (Lf.map fun m => Bits.bit (b.regN (R.lfTxMap p)) m && m != k))) b

/-- Removals that wait when the port stops carrying payload are complete: no member is in TX_MAP any more (R304, R305, log entry 78). -/
def Block.dropsDone (p : Nat) (b : Block) : Block := ((b.lp p).drops.map Prod.snd).eraseDups.foldl (fun b k => b.memRemoved p k) b

/-- Every planned removal of a port is cleared (R304). -/
def Block.planClear (p : Nat) (b : Block) : Block :=
  (b.dropsDone p).modLp p fun x => { x with mems := x.mems.map fun (e : Nat × LfMem) => (e.1, { e.2 with plan := 0, freed := false, back := none }) }

/-- LF_MEM_STICKY of a port. -/
def Block.memSticky (b : Block) (p : Nat) : Nat := Lf.map fun m => b.regN (R.lfMDefSticky p m) != 0

/-- A member's entry into a defect is recorded, and the first sticky bit raises the interrupt unless the member is planned out (R303, R309). -/
def Block.memEntry (p m bit : Nat) (b : Block) : Block :=
  let first := b.memSticky p == 0 && !b.planned p m
  let b := (b.setBits (R.lfMDefSticky p m) (2 ^ bit)).lfTrace 2 p m bit
  if first && b.bit (R.lfDefIrq p) 1 then b.msix (b.fld (R.lfDefIrq p) 20 10) else b

/-- The group's entry into a defect is recorded, and the first sticky bit raises the interrupt (R309). -/
def Block.groupEntry (p bit : Nat) (b : Block) : Block :=
  let first := b.regN (R.lfGdefSticky p) == 0
  let b := (b.setBits (R.lfGdefSticky p) (2 ^ bit)).lfTrace 2 p 0xFF bit
  if first && b.bit (R.lfDefIrq p) 0 then b.msix (b.fld (R.lfDefIrq p) 20 10) else b

/-- A port that enters DARK no longer frames: its members start anew, its maps are empty, every member is in LOS and the port in LOG, which
the sticky bits record, and the second in progress of every object holds that (Table 11-5, R309, R315, R318). -/
def Block.lfDark (p : Nat) (b : Block) : Block :=
  let b := ((List.range 32).filter fun m => !b.bit (R.lfMDef p m) 0).foldl (fun b m => b.memEntry p m 0) b
  let b := if b.bit (R.lfGdef p) 0 then b else b.groupEntry p 0
  let b := (b.dropsDone p).modLp p fun x => { x with
    mems := x.mems.map fun (e : Nat × LfMem) => (e.1, { LfMem.init with degHi := e.2.degHi, degLo := e.2.degLo })
    logAt := none, logOk := none, rdiOn := 0, rdiOff := 0, peerPlan := 0, last := none, prev := none, thru := [] }
  let b := ((((b.putN (R.lfTxMap p) 0).putN (R.lfRxMap p) 0).putN (R.lfRxReq p) 0).putN (R.lfPeerReq p) 0).putN (R.lfGdef p) 1
  let b := (List.range 32).foldl (fun b m => b.putN (R.lfMDef p m) 1) b
  ((List.range 33).foldl (fun b o => b.pmCur p o fun s => { s with defect := true, suspect := true }) b).lfRegs p

/-- A line port enters a state. Frames are numbered from 0 again in ACQUIRE (R295), and a TE that gains or loses the port must find its place
in the cells (R226). -/
def Block.setLf (p st : Nat) (b : Block) : Block :=
  let old := b.lfState p
  let up (s : Nat) : Bool := s == 3 || s == 4
  if old = st then b
  else
    let b := (b.putFld (R.lfStat p) 2 0 st).lfTrace 1 p 0xFF st
    let b := if up st then b else b.modTp p fun x => { x with sampled := false }
    let b := if up old == up st then b else b.modTp p fun x => { x with cells := [], hunting := true }
    let b := if old = 4 then { b with shrunkTill := AMap.set b.shrunkTill p b.now } else b
    let b := b.modLp p fun x => { x with fewAt := none }
    if st = 1 then ((b.modLp p fun x => { x with mfi := 0, sent := false }).putN (R.lfMfc p) 0).lfRegs p
    else if st = 0 then b.lfDark p
    else b

/-- A comb laser of a port is available: not both are FAILED (R15, R306). -/
def Block.combAvail (b : Block) (p : Nat) : Bool :=
  !(b.fld (R.loCombStat p) 31 30 == 2 && b.fld (R.loCombStat p) 29 28 == 2)

/-- The function of a line port serves it: RUNNING, or DRAINING until its segments are acknowledged (R306, Table 2-10). -/
def Block.lineServed (b : Block) (p : Nat) : Bool := b.funcMode (0x200 + p) == 1 || b.funcMode (0x200 + p) == 2

/-- DEFECT of the group: LOG is entered, with its consequent actions (R304, R307, R309); TX_MAP follows at the next boundary (R300). -/
def Block.enterLog (p : Nat) (b : Block) : Block :=
  let b := b.putBit (R.lfGdef p) 0 true
  let b := (b.planClear p).pmCur p 32 fun s => { s with defect := true }
  let b := if 2 ≤ b.lfState p && b.lfState p ≤ 4 then b.setLf p 1 else b
  b.lfRegs p

/-- MIN_MEMBERS in force at a port (R321). -/
def Block.minMem (b : Block) (p : Nat) : Nat := Bits.fld (b.lp p).inForce.2.2 5 0

/-- Members in frame. -/
def Block.inFrameCount (b : Block) (p : Nat) : Nat := ((List.range 32).filter fun m => (b.lm p m).inFrame).length

/-- Members aligned and free of defects with action. -/
def Block.usable (b : Block) (p : Nat) : Nat := ((List.range 32).filter fun m => (b.lm p m).good && !b.actDef p m).length

/-- The transitions of Table 11-5 at a boundary. -/
def Block.lfStep (p : Nat) (b : Block) : Block :=
  let min_ := b.minMem p
  let tx := b.regN (R.lfTxMap p)
  let rx := b.regN (R.lfRxMap p)
  let log := b.bit (R.lfGdef p) 0
  let rdi := b.bit (R.lfGdef p) 1
  let up := if Lf.count tx = 32 && Lf.count rx = 32 then 3 else 4
  if !b.lineServed p || !b.combAvail p then b.setLf p 0
  else if b.bit (R.loStat p) 31 && b.lfState p != 0 then b.setLf p 5
  else
    match b.lfState p with
    | 0 => if b.funcMode (0x200 + p) = 1 then b.setLf p 1 else b
    | 1 => if min_ ≤ b.inFrameCount p then b.setLf p 2 else b
    | 2 =>
      if !log && !rdi && min_ ≤ Lf.count tx && min_ ≤ Lf.count rx then b.setLf p up
      else if min_ ≤ b.inFrameCount p then b.modLp p fun x => { x with fewAt := none }
      else
        let since := (b.lp p).fewAt.getD b.now
        let b := b.modLp p fun x => { x with fewAt := some since }
        if since + 8000000 ≤ b.now then b.setLf p 1 else b
    | 3 => if log then b.setLf p 1 else if rdi then b.setLf p 2 else b.setLf p up
    | 4 => if log then b.setLf p 1 else if rdi then b.setLf p 2 else b.setLf p up
    | _ => b.setLf p 1

/-! ## Planned removals (R302 to R305) -/

/-- The LF grants the removal of a member: the conditions of step 1 of R302, a member that has entered a defect in this group frame already out
of the maps (R304). -/
def Block.planOk (b : Block) (p k : Nat) : Bool :=
  let keep (v : Nat) : Nat := Lf.count (Lf.map fun m => Bits.bit v m && m != k && !Bits.bit (b.lp p).justIn m)
  let low := Bits.fld (b.lp p).inForce.2.2 13 8
  b.lineUp p && !b.bit (R.lfStat p) 5 && low ≤ keep (b.regN (R.lfTxMap p)) && low ≤ keep (b.regN (R.lfRxMap p))

/-- A planned removal is requested by the LO (`by_` 0) or MEMBER_SET (1): whether it is granted, and the block. -/
def Block.planRequest (p k by_ : Nat) (b : Block) : Bool × Block :=
  if b.planOk p k then
    (true, ((b.modLm p k fun x => { x with plan := 1, planBy := by_, back := none, degOff := true }).pmCur p k fun s => { s with planned := true }).lfRegs p)
  else (false, b.bump (R.lfPlanRefuseCnt p))

/-- A leaving member is out (R302 step 3, R304); TX_MAP loses it at the next boundary (R300). -/
def Block.memOut (p k : Nat) (b : Block) : Block := b.modLm p k fun x => { x with plan := 2, freed := false }

/-- A group frame has been sent: members that are out and not in its TX_MAP are released to the LO, and a removal by MEMBER_SET is complete
(R302 step 3, R305). -/
def Block.release (p : Nat) (b : Block) : Block :=
  (List.range 32).foldl (fun b k =>
    let x := b.lm p k
    if x.plan ≠ 2 || x.freed || Bits.bit (b.regN (R.lfTxMap p)) k then b
    else if x.planBy = 1 then b.memRemoved p k
    else b.modLm p k fun x => { x with freed := true }) b

/-- A member that the LO returns lit is returning (R302 step 4). -/
def Block.memBack (p k : Nat) (b : Block) : Block :=
  b.modLm p k fun x => if x.plan = 2 then { x with plan := 3, back := some b.now } else x

/-- PLAN_MAP_CLEAR_EXPIRY: 10 s after its return, a member that has not rejoined leaves PLAN_MAP (R302 step 4). -/
def Lf.planExpiry (p k : Nat) (b : Block) : Block :=
  let x := b.lm p k
  if x.plan = 3 ∧ x.back.any (fun t => t + tenSec ≤ b.now) then (b.modLm p k fun x => { x with plan := 0, back := none }).lfRegs p else b

/-- The packet fields of a command of group 0x06 with a port, a member field and bytes from 32 on. -/
def Lf.portFields (r : Req) (mem : Nat → Bool) : List (Nat × Bool) := [(16, r.nz 16 8), (24, decide (2 ≤ r.a1)), (28, !mem r.a2)]

/-- MEMBER_SET (R305). -/
def Lf.memberSet (id : Nat) (r : Req) (b : Block) : Block :=
  Ci.check8 id r (Lf.portFields r (fun m => decide (m < 32)) ++ [(32, decide (2 ≤ r.u 32 1)), (33, r.nz 33 31)]) (fun b =>
    let p := r.a1
    let k := r.a2
    if r.u 32 1 = 0 then
      let wait (b : Block) : Block := b.modLp p fun x => { x with drops := x.drops ++ [(id, k)] }
      if !b.prov p k then b.ok id (Lf.count (b.regN (R.lfTxMap p)))
      else if (b.lm p k).plan = 1 ∨ (b.lm p k).plan = 2 then
        let b := wait (b.modLm p k fun x => { x with planBy := 1 })
        if (b.lm p k).freed then b.memRemoved p k else b
      else
        match b.planRequest p k 1 with
        | (true, b) => wait b
        | (false, b) => b.done id St.state (b.lfState p)
    else if b.prov p k then b.ok id (Lf.count (b.regN (R.lfTxMap p)))
    else
      let b := b.putN (R.lfProvMap p) (Nat.lor (b.regN (R.lfProvMap p)) (2 ^ k))
      (b.setLit p k (b.litNow p k)).modLp p fun x => { x with adds := x.adds ++ [(id, k, b.now)] }) b

/-- MEMBER_ADD_TIMEOUT: additions that have waited 10 s complete TIMEOUT, and the member stays provisioned (R305). -/
def Lf.addTimeout (p : Nat) (b : Block) : Block :=
  let late := (b.lp p).adds.filter fun a => a.2.2 + tenSec ≤ b.now
  let b := b.modLp p fun x => { x with adds := x.adds.filter fun (a : Nat × Nat × Time) => !late.contains a }
  late.foldl (fun b a => b.done a.1 St.timeout 0) b

/-- Additions whose member is in both maps complete, with the members in the own TX_MAP (R305, Table 2-9). -/
def Block.addsDone (p : Nat) (b : Block) : Block :=
  let both := Nat.land (b.regN (R.lfTxMap p)) (b.regN (R.lfRxMap p))
  let ready := (b.lp p).adds.filter fun a => Bits.bit both a.2.1
  let b := b.modLp p fun x => { x with adds := x.adds.filter fun (a : Nat × Nat × Time) => !ready.contains a }
  ready.foldl (fun b a => b.ok a.1 (Lf.count (b.regN (R.lfTxMap p)))) b

/-! ## Group frames (R294, R295, R298, R306) -/

/-- The value that most of a list carries, the earliest on a tie (R294). -/
def Lf.vote (l : List Nat) : Option Nat :=
  (l.foldl (fun (m : Option (Nat × Nat)) v =>
    let n := (l.filter (· == v)).length
    match m with
    | some (k, _) => if k < n then some (n, v) else m
    | none => some (n, v)) none).map Prod.snd

/-- Since when too few members deliver, or enough do (Table 11-6, LOG). -/
def Block.logTimes (p : Nat) (b : Block) : Block :=
  let few := decide (b.usable p < b.minMem p)
  b.modLp p fun x => { x with logAt := if few then some (x.logAt.getD b.now) else none, logOk := if few then none else some (x.logOk.getD b.now) }

/-- Transmit cell-channel slots of a page. -/
def Lf.cellSlots (page : List Nat) : Nat := (page.filter fun e => e / 2 ^ 14 == 1).length

/-! ## Defects (R307 to R309) -/

/-- Since a moment, `n` time units have passed. -/
def Lf.past (now : Time) (n : Nat) (t : Option Time) : Bool := t.any fun t => t + n ≤ now

/-- The LO's report of a member is of no power or of no carrier lock (R327, Table 11-6). -/
def Block.losBad (b : Block) (p m : Nat) (r : LosReport) : Bool := !(r.lock && b.combOn p) || b.noPower p m r.power

/-- The entry criterion of a member's defect holds (Table 11-6), that of LOS by the LO's report. -/
def Block.defIn (b : Block) (p m bit : Nat) (rep : Option LosReport) : Bool :=
  let x := b.lm p m
  let e := (b.lp p).expTrace
  match bit with
  | 0 => rep.any fun r => b.losBad p m r && decide (r.since + 80000 ≤ b.now)
  | 1 => Lf.past b.now 400000 x.oofAt
  | 2 => 8 ≤ x.mfiBad
  | 3 => Lf.past b.now 400000 x.loaAt
  | 4 => b.regN (R.lfExpGid p) != 0 && 8 ≤ x.gidBad
  | 5 => 8 ≤ x.mimBad
  | 6 => e.any (· != 0) && x.trace.length == 64 && x.trace != e
  | 7 => Bits.fld (b.lp p).inForce.1 31 24 ≤ x.degHi
  | 8 => 3 ≤ x.rdiOn
  | _ => false

/-- The exit criterion of a member's defect holds. -/
def Block.defOut (b : Block) (p m bit : Nat) (rep : Option LosReport) : Bool :=
  let x := b.lm p m
  let e := (b.lp p).expTrace
  match bit with
  | 0 => rep.any fun r => !b.losBad p m r && decide (r.since + 8000000 ≤ b.now)
  | 1 => Lf.past b.now 8000000 x.inAt
  | 2 => 8 ≤ x.mfiOk
  | 3 => Lf.past b.now 8000000 x.loaOk
  | 4 => b.regN (R.lfExpGid p) == 0 || 8 ≤ x.gidOk
  | 5 => 8 ≤ x.mimOk
  | 6 => !e.any (· != 0) || x.trace == e
  | 7 => Bits.fld (b.lp p).inForce.1 31 24 ≤ x.degLo
  | 8 => 3 ≤ x.rdiOff
  | _ => false

/-- A member's defect is entered. -/
def Block.enterDef (p m bit : Nat) (b : Block) : Block :=
  let b := (b.putBit (R.lfMDef p m) bit true).memEntry p m bit
  let b := if bit = 0 then b.modLm p m fun x => { x with
      stream := [], inFrame := false, aligned := false, fasBad := 0, mfi := none, oofAt := some b.now, inAt := none, bip := none, buf := [],
      cyc := [], cycs := ([], 0) } else b
  let b := if bit = 7 then b else b.modLm p m fun x => { x with degOff := true }
  let b := if Bits.bit (b.actMask p) bit && !b.planned p m then b.modLp p fun x => { x with justIn := Bits.put x.justIn m m 1 } else b
  let b := if b.secDef p m then b.pmCur p m fun s => { s with defect := true } else b
  if (b.lm p m).plan = 1 then (b.memOut p m).lfRegs p else b

/-- What the LO reports of a member with a change of LOS is what its registers show (R327). -/
def Block.losTake (p m bit : Nat) (rep : Option LosReport) (b : Block) : Block :=
  match bit, rep with
  | 0, some r => b.lightIn p m r.power r.lock
  | _, _ => b

/-- DEFECT_ENTRY of a member, or of the group as object 32 (bit 0 LOG, 1 PRDI): when its entry criterion holds. -/
def Lf.defectEntry (p o bit : Nat) (rep : Option LosReport) (b : Block) : Block :=
  if b.lfState p = 0 then b
  else if o < 32 then
    if 9 ≤ bit || b.bit (R.lfMDef p o) bit || !b.defIn p o bit rep then b.losTake p o bit rep
    else ((b.losTake p o bit rep).enterDef p o bit).logTimes p
  else
    let x := b.lp p
    let due := if bit = 0 then Lf.past b.now 80000 x.logAt else bit == 1 && 3 ≤ x.rdiOn
    if 2 ≤ bit || b.bit (R.lfGdef p) bit || !due then b
    else
      let b := b.groupEntry p bit
      if bit = 0 then b.enterLog p
      else
        let b := b.putBit (R.lfGdef p) 1 true
        if b.lineUp p then b.setLf p 2 else b

/-- DEFECT_EXIT: when the exit criterion holds and the entry criterion does not. -/
def Lf.defectExit (p o bit : Nat) (rep : Option LosReport) (b : Block) : Block :=
  if b.lfState p = 0 then b
  else if o < 32 then
    if 9 ≤ bit || !b.bit (R.lfMDef p o) bit || !b.defOut p o bit rep || b.defIn p o bit rep then b.losTake p o bit rep
    else (((b.losTake p o bit rep).putBit (R.lfMDef p o) bit false).lfTrace 3 p o bit).logTimes p
  else
    let x := b.lp p
    let done := if bit = 0 then Lf.past b.now 8000000 x.logOk else bit == 1 && 3 ≤ x.rdiOff
    if 2 ≤ bit || !b.bit (R.lfGdef p) bit || !done then b
    else (b.putBit (R.lfGdef p) bit false).lfTrace 3 p 0xFF bit

/-! ## Slotted mode (R310 to R314) -/

/-- The packet fields of PORT_CONFIG and SLOT_MAP. -/
def Lf.descFields (r : Req) (len : Nat) : List (Nat × Bool) :=
  [(16, badAddr r.a0 (r.u 32 4) 64), (24, decide (2 ≤ r.a1)), (28, r.a2 != 0xFF), (32, r.u 32 4 != len), (36, r.nz 36 28)]

/-- An entry of a connection page breaks R311. -/
def Lf.entryBad (other : Bool) (e : Nat) : Bool :=
  let src := e / 2 ^ 14
  let low := e % 2 ^ 12
  src == 3 || Bits.bit e 12 || (if src = 2 then decide (2560 ≤ low) || !other else low != 0)

/-- A number of slots that R312 admits in a member. -/
def Lf.shareOk (n : Nat) : Bool := n % 16 == 0

/-- The byte offset of the first offending entry of a page. -/
def Lf.pageBad (other : Bool) (page : List Nat) : Option Nat :=
  (List.range 2560).findSome? fun i =>
    let m := i / 80
    let share := i % 80 == 0 && !(Lf.shareOk (Lf.slots page m fun e => e / 2 ^ 14 == 1) && Lf.shareOk (Lf.slots page m fun e => Bits.bit e 13))
    if Lf.entryBad other (page.getD i 0) || share then some (2 * i) else none

/-- SLOT_MAP (R313). -/
def Lf.slotMap (id : Nat) (r : Req) (b : Block) : Block :=
  Ci.check8 id r (Lf.descFields r 5120) (fun b =>
    let p := r.a1
    let b := b.readCount r.a0 5120
    let page := (List.range 2560).map fun i => b.dxN (r.a0 + 2 * i) 2
    if !b.bit (R.lfStat p) 5 then b.done id St.state (b.lfState p)
    else if (b.lp p).swap.isSome then b.done id St.busy 0
    else match Lf.pageBad (b.bit (R.lfStat (1 - p)) 5) page with
      | some o => b.badDesc id o
      | none =>
        let k := 1 - b.fld (R.lfTsiStat p) 30 30
        (b.modLp p fun x => { x with mapped := true, pages := if k = 0 then (page, x.pages.2) else (x.pages.1, page) }).ok id 0) b

/-- PAGE_SWAP (R314). -/
def Lf.pageSwap (id : Nat) (r : Req) (b : Block) : Block :=
  Ci.check8 id r (Lf.portFields r (· == 0xFF) ++ [(32, r.nz 32 32)]) (fun b =>
    let p := r.a1
    let x := b.lp p
    if !x.mapped || !b.bit (R.lfStat p) 5 then b.done id St.state (b.lfState p)
    else if x.swap.isSome then b.done id St.busy 0
    else (b.modLp p fun x => { x with swap := some id }).putBit (R.lfTsiStat p) 31 true) b

/-- TSI_PAGE_SWITCH of a port: at the first transmit group frame with MFI 0 after PAGE_SWAP, the pages are exchanged, before that frame is sent (R314). -/
def Lf.pageSwitch (p : Nat) (b : Block) : Block :=
  match (b.lp p).swap with
  | none => b
  | some id =>
    let mfc := b.regN (R.lfMfc p)
    if (b.lp p).mfi ≠ 0 ∨ (b.lp p).sent ∨ b.lfState p = 0 then b
    else
      let k := 1 - b.fld (R.lfTsiStat p) 30 30
      let b := b.modLp p fun x => { x with swap := none, rxWait := true, swapAt := mfc }
      (b.putN (R.lfTsiStat p) (k * 2 ^ 30 + Lf.cellSlots ((b.lp p).page k))).ok id mfc

/-! ## Configuration (R320, R321, R342) -/

/-- The linear power of `x` in 0.1 dBm, 10^(x/100), in units of 10^-40: a power of ten times a power of 10^(1/100). -/
def Lf.linear (x : Int) : Nat :=
  let y := (x + 1000).toNat
  (List.range (y % 100)).foldl (fun v _ => v * 102329299228075413097 / 10 ^ 20) (10 ^ 30) * 10 ^ (y / 100)

/-- The first reserved byte of a range of a descriptor that is not 0: each is a field of its own (DESIGN CHOICE, log entry 99). -/
def Block.rsvdBad (b : Block) (a off n : Nat) : Option Nat :=
  ((List.range n).find? fun i => b.dram.read (a + off + i) != 0#8).map (· + off)

/-- The descriptor offset at which a port descriptor breaks R320 or R342, in the order of their checks (R507). A sum of setpoints above
TOTAL_MAX is broken by several fields together: DETAIL is the setpoint of the lowest provisioned member. -/
def Block.portDescBad (b : Block) (p a : Nat) : Option Nat :=
  let f (o n : Nat) : Nat := b.dxN (a + o) n
  let prov := f 12 4
  let set (k : Nat) : Int := Bits.toInt 8 (f (192 + k) 1)
  let tot := Bits.toInt 16 (f 224 2)
  let sum := Bits.sum ((List.range 32).map fun k => if Bits.bit prov k then Lf.linear (set k) else 0)
  let one (o : Nat) (bad : Bool) : Option Nat := if bad then some o else none
  ((one 0 (2 ≤ f 0 1)).orElse fun _ => (one 4 (f 4 4 == 0)).orElse fun _ =>
    (one 12 (Lf.count prov < b.fld (R.lfGrpCfg p) 5 0)).orElse fun _ => (b.rsvdBad a 1 3).orElse fun _ => (b.rsvdBad a 16 48)).orElse fun _ =>
  (((List.range 32).find? fun k => decide (set k < -80) || decide (10 < set k)).map (· + 192)).orElse fun _ =>
  (one 224 (decide (tot < -80) || decide (161 < tot))).orElse fun _ =>
  (one (192 + ((List.range 32).find? fun k => Bits.bit prov k).getD 0) (decide (Lf.linear tot < sum))).orElse fun _ =>
  (one 226 (f 226 1 / 2 != 0)).orElse fun _ => b.rsvdBad a 227 29

/-- PORT_CONFIG (R320). -/
def Lf.portConfig (id : Nat) (r : Req) (b : Block) : Block :=
  Ci.check8 id r (Lf.descFields r 256) (fun b =>
    let p := r.a1
    let a := r.a0
    if b.lfState p ≠ 0 then b.done id St.state (b.lfState p)
    else
      let b := b.readCount a 256
      match b.portDescBad p a with
      | some o => b.badDesc id o
      | none =>
        let mode := b.dxN a 1
        let tx := b.dxBytes (a + 64) 64
        let ex := b.dxBytes (a + 128) 64
        let b := b.modLp p fun x => { x with txTrace := tx, expTrace := ex }
        let b := b.putBit (R.lfStat p) 5 (mode == 1)
        let b := ((b.putN (R.lfGid p) (b.dxN (a + 4) 4)).putN (R.lfExpGid p) (b.dxN (a + 8) 4)).putN (R.lfProvMap p) (b.dxN (a + 12) 4)
        let b := if Bits.bit (b.dxN (a + 226) 1) 0 then
            (List.range 32).foldl (fun b k => b.putFld (R.loMLaunch p k) 15 0 (Bits.ofInt 16 (Bits.toInt 8 (b.dxN (a + 192 + k) 1)))) (b.modLo p fun x => { x with totMax := Bits.toInt 16 (b.dxN (a + 224) 2) })
          else b
        (b.lfRegs p).ok id 0) b

/-- LF_DEG_CFG, LF_DEF_CFG and LF_GRP_CFG values are in the ranges of Table 11-9 and R321. -/
def Lf.degOk (v : Nat) : Bool :=
  let w := Bits.fld v 31 24
  let c := Bits.fld v 23 12
  let t := Bits.fld v 11 0
  2 ≤ w && w ≤ 60 && 1 ≤ c && c ≤ 2400 && 1 ≤ t && t ≤ 2400 && c ≤ t

/-- A group configuration value is in range. -/
def Lf.grpOk (v : Nat) : Bool :=
  let hi := Bits.fld v 13 8
  let lo := Bits.fld v 5 0
  v / 2 ^ 14 == 0 && Bits.fld v 7 6 == 0 && 1 ≤ hi && hi ≤ 32 && 1 ≤ lo && lo ≤ 32 && lo ≤ hi

/-- DEG runs start again (R321). -/
def Block.degRestart (p : Nat) (b : Block) : Block :=
  b.modLp p fun x => { x with mems := x.mems.map fun (e : Nat × LfMem) => (e.1, { e.2 with degHi := 0, degLo := 0 }) }

/-- DEFECT_CONFIG (R321). -/
def Lf.defectConfig (id : Nat) (r : Req) (b : Block) : Block :=
  Ci.check8 id r (Lf.portFields r (· == 0xFF) ++
      [(32, !Lf.degOk (r.u 32 4)), (36, decide (4 ≤ r.u 36 4)), (40, !Lf.grpOk (r.u 40 4)), (44, r.nz 44 20)]) (fun b =>
    let p := r.a1
    ((((b.putN (R.lfDegCfg p) (r.u 32 4)).putN (R.lfDefCfg p) (r.u 36 4)).putN (R.lfGrpCfg p) (r.u 40 4)).degRestart p).ok id 0) b

end Sys2Proof.Machine
end

