-- ==== Sys2Proof/Machine/Pm.lean ====
section
/-! DEFINITION. Performance monitoring of the line (R315 to R319): seconds, bins, what the LO reports each second, and PM_READ. -/

namespace Sys2Proof.Machine

/-- The binary32 code of n / d, rounded to nearest even. -/
def F32.ofRatio (n d : Nat) : Nat :=
  let q := n * 2 ^ 200 / d
  F32.of (.fin false (2 * q + (if n * 2 ^ 200 % d = 0 then 0 else 1)) (-201))

/-- A positive finite binary32 code in units of 2^-149. -/
def F32.units (c : Nat) : Nat :=
  match F32.val c with
  | .fin _ m e => m * 2 ^ (e + 149).toNat
  | _ => 0

/-- Seconds of TU time. -/
def Block.tuSec (b : Block) : Nat := (b.localTime / 8000000000).toNat

/-- A second is severely errored: a defect second, or one whose errored blocks reach SES_PCT percent (R316). -/
def PmSec.ses (pct : Nat) (s : PmSec) : Bool := s.defect || s.blocks != 0 && pct * s.blocks ≤ 100 * s.errd

/-- A second is errored. -/
def PmSec.es (s : PmSec) : Bool := s.defect || s.errd != 0

/-- A bin takes a second; `un` says whether it is unavailable time (R316, R317). -/
def PmBin.add (pct : Nat) (s : PmSec) (un : Bool) (x : PmBin) : PmBin :=
  let x := { x with elapsed := x.elapsed + 1, suspect := x.suspect || s.suspect }
  if s.planned then { x with planned := x.planned + 1 }
  else
  let x := { x with corr := (x.corr + s.corr) % 2 ^ 64 }
  if un then { x with uas := x.uas + 1 }
  else
    let ses := s.ses pct
    let x := { x with es := x.es + Bits.ofBool s.es, ses := x.ses + Bits.ofBool ses, bbe := x.bbe + (if ses then 0 else s.errd) }
    match s.ber with
    | none => x
    | some v => { x with
        berMin := if x.berN = 0 then v else min x.berMin v
        berMax := max x.berMax v, berSum := x.berSum + F32.units v, berN := x.berN + 1 }

/-- A second goes into the bins that cover it (R318). -/
def PmObj.into (pct : Nat) (s : PmSec) (un : Bool) (x : PmObj) : PmObj :=
  let x := if x.c15.start ≤ s.sec then { x with c15 := x.c15.add pct s un }
    else match x.hist with
      | h :: t => { x with hist := h.add pct s un :: t }
      | [] => x
  if x.c24.start ≤ s.sec then { x with c24 := x.c24.add pct s un } else { x with prev24 := x.prev24.add pct s un }

/-- The second in progress ends and joins the ten that are held; ten SES in a row begin unavailable time, ten seconds that are not SES end it,
and the second before those ten goes into the bins (R316). A planned second counts as such only, so it is not SES. -/
def PmObj.close (pct : Nat) (next : PmSec) (x : PmObj) : PmObj :=
  let bad (s : PmSec) : Bool := !s.planned && s.ses pct
  let pend : List (PmSec × Bool) := x.pend ++ [(x.cur, x.unavail)]
  let ten := pend.drop (pend.length - 10)
  let turn := decide (10 ≤ pend.length) && ten.all fun e => bad e.1 != x.unavail
  let un := x.unavail != turn
  let pend : List (PmSec × Bool) := if turn then pend.take (pend.length - 10) ++ ten.map (fun e => (e.1, un)) else pend
  let x := { x with cur := next, unavail := un, pend := pend }
  match pend with
  | e :: rest => if 10 < pend.length then { x.into pct e.1 e.2 with pend := rest } else x
  | [] => x

/-- The objects of a port: its members and the group. -/
def Pm.objects : List Nat := List.range 33

/-- SES_PCT of a port. -/
def Block.sesPct (b : Block) (p : Nat) : Nat := b.fld (R.lfPmCtl p) 7 0

/-- A second that starts, with what holds at its start. -/
def Block.pmStart (b : Block) (p o : Nat) : PmSec :=
  { PmSec.init b.tuSec with
    defect := if o < 32 then b.secDef p o else b.bit (R.lfGdef p) 0
    planned := decide (o < 32) && b.planned p o
    suspect := b.lfState p == 0 }

/-- The second of a monitored object ends when the time of day has moved on from it: it is closed, and the next one begins (R316). -/
def Block.pmSec (p : Nat) (b : Block) (o : Nat) : Block :=
  let x := b.pm p o
  if x.cur.sec = b.tuSec then b
  else
    let next := b.pmStart p o
    let ends : PmSec := { x.cur with
      defect := x.cur.defect || next.defect, planned := x.cur.planned || next.planned, suspect := x.cur.suspect || next.suspect }
    b.modPm p o fun x => ({ x with cur := ends }).close (b.sesPct p) next

/-- PM_SECOND: each object's second ends when the seconds of TU time have moved on (R315, R316). -/
def Pm.second (b : Block) : Block :=
  ([0, 1].filter fun p => !b.frozen (33 + p)).foldl (fun b p => Pm.objects.foldl (Block.pmSec p) b) b

/-- The bins of a monitored object at the start `s15` of a quarter hour and `s24` of a day: a bin whose period is over moves to the
history, SUSPECT when it did not run its whole length, and a new one begins (R318). -/
def PmObj.roll (s15 s24 : Nat) (x : PmObj) : PmObj :=
  let whole (n : Nat) (x : PmBin) : PmBin := { x with suspect := x.suspect || decide (x.start + n ≠ s15 ∧ x.start + n ≠ s24) }
  let x := if x.c15.start = s15 then x else { x with hist := (whole 900 x.c15 :: x.hist).take 32, c15 := PmBin.init s15 }
  if x.c24.start = s24 then x else { x with prev24 := whole 86400 x.c24, c24 := PmBin.init s24 }

/-- PM_BIN_ROLLOVER: a 15-minute bin starts at a multiple of 900 s and a 24-hour bin at a multiple of 86,400 s of TU time (R318). -/
def Pm.rollover (b : Block) : Block :=
  ([0, 1].filter fun p => !b.frozen (33 + p)).foldl (fun b p => Pm.objects.foldl (fun b o =>
    b.modPm p o (PmObj.roll (b.tuSec / 900 * 900) (b.tuSec / 86400 * 86400))) b) b

/-- A step of TU time makes the current bins suspect (R318). -/
def Block.pmStep (b : Block) : Block :=
  { b with lf := { b.lf with pm := b.lf.pm.map fun (e : Nat × PmObj) =>
      (e.1, { e.2 with c15 := { e.2.c15 with suspect := true }, c24 := { e.2.c24 with suspect := true } }) } }

/-- LF_PM_CTL is written: SES_PCT in its range, and CLEAR clears every current bin of the port and sets SUSPECT (Table 11-9). -/
def Pm.ctlWrite (p : Nat) (v : Word) (b : Block) : Block :=
  let pct := Bits.fld v.toNat 7 0
  let b := if 1 ≤ pct ∧ pct ≤ 100 then b.putN (R.lfPmCtl p) pct else b
  if Bits.bit v.toNat 8 then
    Pm.objects.foldl (fun b o => b.modPm p o fun x => { x with
      c15 := { PmBin.init x.c15.start with suspect := true }, c24 := { PmBin.init x.c24.start with suspect := true } }) b
  else b

/-! ## What the LO reports each second (R317, R327, Table 11-6 DEG) -/

/-- A pre-code error rate n / d exceeds `k` units of 10^-5. -/
def Pm.above (n d k : Nat) : Bool := k * d < 100000 * n

/-- The windows of DEG after one second (Table 11-6). A second of which some moment was planned, or in another defect, leaves them as they are. -/
def Block.degWindow (p m n d : Nat) (b : Block) : Block :=
  let now := Nat.land (b.regN (R.lfMDef p m)) 0x17F != 0 || b.planned p m
  let off := now || (b.lm p m).degOff
  let cfg := (b.lp p).inForce.1
  let b := b.modLm p m fun x => { x with degOff := now }
  if off || d = 0 then b
  else
    let hi := Pm.above n d (Bits.fld cfg 11 0)
    let lo := !Pm.above n d (Bits.fld cfg 23 12)
    b.modLm p m fun x => { x with degHi := if hi then x.degHi + 1 else 0, degLo := if lo then x.degLo + 1 else 0 }

/-- A member's receiver that has decoded nothing. -/
def MemRx.init : MemRx := ⟨none, [], 0, 0⟩

/-- Corrected bits and code bits of decoded codewords of a member since the last report (R327). -/
def Block.secCounts (b : Block) (p m : Nat) : Nat × Nat := let x := AMap.getD (b.lo1 p).rx m MemRx.init; (x.corr, x.code)

/-- The pre-code error rate of a second, none where no codeword was decoded (R327). -/
def Pm.rate (s : Nat × Nat) : Option Nat := if s.2 = 0 then none else some (F32.ofRatio s.1 s.2)

/-- The second report of one member (R317, R327): its error rate, which is free where no codeword was decoded, the degradation window, the
tallied maximum and the member's current second. -/
def Block.reportMember (p : Nat) (b : Block) (m : Nat) : Block :=
  let s := b.secCounts p m
  let b := match Pm.rate s with
    | none =>
      let (ix, b) := b.free
      b.setReg (R.lfMBer p m) (Config.freeWord ix)
    | some v => b.putN (R.lfMBer p m) v
  let b := b.degWindow p m s.1 s.2
  let b := if s.2 = 0 then b else b.tallyMax (32 + 32 * p + m) (min 65535 (s.1 * 65536 * 1000 / (24 * s.2)))
  b.pmCur p m fun c => { c with corr := c.corr + s.1, ber := Pm.rate s }

/-- The highest of some error rates. -/
def Pm.worst (rates : List (Option Nat)) : Option Nat :=
  rates.foldl (fun (v : Option Nat) r => match r with
    | some x => some (max x (v.getD 0))
    | none => v) none

/-- LO_SECOND_REPORT of a port: what each member showed in one second, and for the group the highest rate of the members of the received
TX_MAP (R317, R326, R327). -/
def Pm.report (p : Nat) (b : Block) : Block :=
  let mine := ((List.range 32).filter fun m => Bits.bit (b.regN (R.lfRxMap p)) m).map (b.secCounts p)
  let b := (List.range 32).foldl (Block.reportMember p) b
  let b := b.pmCur p 32 fun c => { c with corr := c.corr + Bits.sum (mine.map Prod.fst), ber := Pm.worst (mine.map Pm.rate) }
  b.modLo p fun x => { x with rx := x.rx.map fun (e : Nat × MemRx) => (e.1, { e.2 with corr := 0, code := 0 }) }

/-! ## PM_READ (R318, R319, Table 11-7) -/

/-- A bin as a record of Table 11-7. A bin that has ended is suspect while it covers fewer seconds than its length (R318). -/
def PmBin.record (p o kind : Nat) (x : PmBin) : List Byte :=
  let short := kind == 1 && decide (x.elapsed < 900) || kind == 3 && decide (x.elapsed < 86400)
  let avg := if x.berN = 0 then 0 else F32.ofRatio x.berSum (x.berN * 2 ^ 149)
  Bits.leBytes 6 x.start ++ Bits.leBytes 1 kind ++ Bits.leBytes 1 (Bits.ofBool (x.suspect || short) + 2 * p) ++ Bits.leBytes 1 o ++ Bits.leBytes 3 0 ++
  Bits.leBytes 4 x.elapsed ++ Bits.leBytes 4 x.es ++ Bits.leBytes 4 x.ses ++ Bits.leBytes 4 x.uas ++ Bits.leBytes 4 x.planned ++
  Bits.leBytes 8 x.bbe ++ Bits.leBytes 8 x.corr ++ Bits.leBytes 4 x.berMin ++ Bits.leBytes 4 avg ++ Bits.leBytes 4 x.berMax ++ Bits.leBytes 4 0

/-- The records of an object that a kind mask selects, kinds in code order. -/
def PmObj.records (p o mask : Nat) (x : PmObj) : List (List Byte) :=
  (if Bits.bit mask 0 then [x.c15.record p o 0] else []) ++ (if Bits.bit mask 1 then x.hist.map (PmBin.record p o 1) else []) ++
  (if Bits.bit mask 2 then [x.c24.record p o 2] else []) ++ (if Bits.bit mask 3 then [x.prev24.record p o 3] else [])

/-- PM_READ. -/
def Pm.read (id : Nat) (r : Req) (b : Block) : Block :=
  let recs := ((Pm.objects.filter fun o => Bits.bit (r.u 32 8) o).map fun o => (b.pm r.a2 o).records r.a2 o (r.u 40 1)).flatten
  Ci.check8 id r [(16, badAddr r.a0 r.a1 64), (24, decide (r.a1 < 64 * recs.length)), (28, decide (2 ≤ r.a2)), (32, decide (2 ^ 33 ≤ r.u 32 8)), (40, decide (16 ≤ r.u 40 1)), (41, r.nz 41 23)]
    (fun b => (b.dxWrite r.a0 recs.flatten).ok id recs.length) b

end Sys2Proof.Machine
end

