-- ==== Sys2Proof/Machine/Lo.lean ====
section
/-! DEFINITION. The optics of a line port (chapter 12): comb lasers, ring tuning, the calibration cycle, launch power, bounds, eye safety
and ageing. What the optics measure comes with the commands. -/

namespace Sys2Proof.Machine

/-- 1 ms. -/
abbrev ms : Time := 8000000

/-- An LO trace record (Table 17-8). -/
def Block.loTrace (ev p m laser : Nat) (b : Block) : Block := b.trace 6 ev devJob (Bits.leBytes 1 p ++ Bits.leBytes 1 m ++ Bits.leBytes 1 laser)

/-- State of a laser: 0 cold, 1 active, 2 FAILED. -/
def Block.laser (b : Block) (p k : Nat) : Nat := if k = 1 then b.fld (R.loCombStat p) 31 30 else b.fld (R.loCombStat p) 29 28

/-- A laser enters a state. -/
def Block.setLaser (p k v : Nat) (b : Block) : Block := if k = 1 then b.putFld (R.loCombStat p) 31 30 v else b.putFld (R.loCombStat p) 29 28 v

/-- LIT of every member follows. -/
def Block.relight (p : Nat) (b : Block) : Block :=
  (List.range 32).foldl (fun b m => b.setLit p m (b.litNow p m)) b

/-- A sticky bit of the LO. -/
def Block.loSticky (p bit : Nat) (b : Block) : Block := b.setBits (R.loSticky p) (2 ^ bit)

/-- The loops of Table 12-6 that are at a bound, or past one: what LO_STAT shows, and, as another loop comes to be, LO_STICKY and the warning of
every command in flight (R344). -/
def Block.loopFlags (p : Nat) (sat past : List Nat) (b : Block) : Block :=
  let old := b.lo1 p
  let b := b.modLo p fun x => { x with sat := sat, past := past }
  let b := if sat.any fun k => !old.sat.contains k then (b.loSticky p 0).warnAll Warn.loopSaturated fun _ => true else b
  let b := if past.any fun k => !old.past.contains k then (b.loSticky p 1).warnAll Warn.policyOverridden fun _ => true else b
  (b.putBit (R.loStat p) 29 (!sat.isEmpty)).putBit (R.loStat p) 30 (!past.isEmpty)

/-- One loop is, or is no longer, at a bound or past one. -/
def Block.loopFlag (p k : Nat) (sat past : Bool) (b : Block) : Block :=
  let x := b.lo1 p
  b.loopFlags p ((x.sat.filter (· != k)) ++ (if sat then [k] else [])) ((x.past.filter (· != k)) ++ (if past then [k] else []))

/-! ## The wavelength plan and the comb's lines (R322, R323, R329) -/

/-- Central frequency of the slot of member `k` in MHz: 193.1 THz + n × 6.25 GHz with n = 12k − 196 (R322). -/
def Lo.centre (k : Nat) : Nat := (193100000 + 6250 * (12 * (k : Int) - 196)).toNat

/-- Width of a member's slot in MHz (R322). -/
abbrev Lo.slotWidth : Nat := 75000

/-- With line 16 locked to the reference cavity, every line lies within ±1.0 GHz of the plan (R323). -/
def Lo.onPlan (freq : List Nat) : Bool :=
  (List.range 32).all fun k => decide (Lo.centre k ≤ freq.getD k 0 + 1000 ∧ freq.getD k 0 ≤ Lo.centre k + 1000)

/-- The usable lines of a scan: within ±3 dB of the mean power of lines 0 to 31, when every line outside them lies at least 20 dB below that
mean (R329). -/
def LineScan.usable (x : LineScan) : Nat :=
  let pw (k : Nat) : Int := x.lines.getD k (-1000)
  let sum := Bits.sum ((List.range 32).map fun k => Lf.linear (pw k))
  let quiet := x.outer.all fun o => decide (32 * Lf.linear (o + 200) ≤ sum)
  Lf.map fun k => quiet && decide (sum ≤ 32 * Lf.linear (pw k + 30) ∧ 32 * Lf.linear (pw k - 30) ≤ sum)

/-! ## Assigning rings to lines (R332) -/

/-- The place of a peak in its sweep, in slots of the plan from the first peak. -/
def Sweep.place (s : Sweep) (x : Peak) : Nat := (x.shift + 37500 - (s.head?.map (·.shift)).getD 0) / 75000

/-- The line of each peak of a sweep, when one gap fits: 34 slots make one free spectral range, and heating passes the lines downward, so after
the gap comes the highest line present, and before it the lowest. `gone` are the lines that rings earlier on the bus drop. -/
def Sweep.label (gone : Nat → Bool) (s : Sweep) : Option (List (Nat × Peak)) :=
  let here := (List.range 32).filter fun k => !gone k
  let hi := (here.getLast?).getD 0
  let lo := (here.head?).getD 0
  (List.zip s s.tail).findSome? fun (x, y) =>
    if Sweep.place s y - Sweep.place s x ≠ 34 - (hi - lo) then none
    else
      let l := s.map fun p => ((hi + Sweep.place s y + 34 * 34 - Sweep.place s p) % 34, p)
      if here.isEmpty || l.any fun e => !here.contains e.1 then none else some l

/-- The median of some powers: the lower one of two (log entry 84). -/
def Lo.median (l : List Int) : Int :=
  (l.find? fun x => decide ((l.filter (· < x)).length ≤ (l.length - 1) / 2 ∧ (l.length - 1) / 2 < (l.filter (· ≤ x)).length)).getD 0

/-- The peak of line `k` in a sweep that lies lowest in heater power, unless there is no gap or it lies more than 6 dB below the median peak of
its bank (R332). -/
def Sweep.find (gone : Nat → Bool) (med : Int) (k : Nat) (s : Sweep) : Option Peak :=
  ((((Sweep.label gone s).getD []).filter fun e => e.1 == k).foldl (fun (m : Option Peak) e => match m with
    | some y => if e.2.heat < y.heat then some e.2 else some y
    | none => some e.2) none).filter fun x => decide (med ≤ x.power + 60)

/-- Ring `k` of a bank takes the outcome of its search; a ring that fails is left unassigned. -/
def Lo.searchRing (bank k : Nat) (med temp : Int) (s : Sweep) (rs : AMap RingSet) : AMap RingSet :=
  let r := 32 * bank + k
  match Sweep.find (fun j => decide (j < k) && (AMap.get? rs (32 * bank + j)).isSome) med k s with
  | some x => AMap.set rs r ⟨x.heat, x.power, temp, ((AMap.get? rs r).map (·.coef)).getD 0⟩
  | none => AMap.erase rs r

/-- The median peak of a bank in its sweeps. -/
def Lo.bankMedian (sweeps : List Sweep) (bank : Nat) : Int := Lo.median (((sweeps.drop (32 * bank)).take 32).flatMap fun s => s.map (·.power))

/-- The rings of a bank are searched in turn, from the bus input onward. -/
def Lo.searchBank (sweeps : List Sweep) (temp : Int) (rs : AMap RingSet) (bank : Nat) : AMap RingSet :=
  (List.range 32).foldl (fun rs k => Lo.searchRing bank k (Lo.bankMedian sweeps bank) temp (sweeps.getD (32 * bank + k) []) rs) rs

/-- Heater power of a ring in 0.1 mW, as its register shows it. -/
def R.loMHeat (p r : Nat) : Nat := if r < 32 then R.loMHeatTx p r else if r < 64 then R.loMHeatLo p (r - 32) else R.loMHeatRx p (r - 64)

/-- A target held within a floor and a ceiling. -/
def Lo.clamp (lo hi x : Int) : Int := max lo (min hi x)

/-- Floor and ceiling of a bound register. -/
def Block.bounds (b : Block) (a : Nat) : Int × Int := (Bits.toInt 16 (b.fld a 15 0), Bits.toInt 16 (b.fld a 31 16))

/-- The bias loop drives the active laser at a current, within its bounds unless the laser is forced past them (R344). -/
def Block.setBias (p : Nat) (forced : Bool) (want : Int) (b : Block) : Block :=
  let (lo, hi) := b.bounds (R.loBndBias p)
  let out := decide (want < lo) || decide (hi < want)
  (b.putFld (R.loCombStat p) 9 0 (if forced then want else Lo.clamp lo hi want).toNat).loopFlag p 1 (out && !forced) (out && forced)

/-- A ring's heater is driven at a power, within the bounds of the heater loop unless the loop is forced past them (R344). -/
def Block.setHeat (p r : Nat) (forced : Bool) (want : Int) (b : Block) : Block :=
  let (lo, hi) := b.bounds (R.loBndHeater p)
  b.putN (R.loMHeat p r) ((if forced then want else Lo.clamp lo hi want).toNat % 65536)

/-- The outcome of a search shows at a member: its rings stand at their searched values, and a member with a ring unassigned has failed
assignment and stays unlit (R332). -/
def Block.assign (p m : Nat) (b : Block) : Block :=
  let rs := (b.lo1 p).rings
  let own := [m, 32 + m, 64 + m]
  let ok := own.all fun r => (AMap.get? rs r).isSome
  let b := own.foldl (fun b r => match AMap.get? rs r with
    | some x => b.setHeat p r false x.heat
    | none => b) b
  let b := b.modLo p fun x => { x with
    unlock := x.unlock.filter fun (e : Nat × Time) => !own.contains e.1
    drop := (List.range 96).map fun r => if own.contains r then ((AMap.get? rs r).map (·.power)).getD 0 else x.drop.getD r 0 }
  let b := (b.putBit (R.loMStat p m) 27 (!ok)).putBit (R.loMStat p m) 29 ok
  if ok then b else b.loSticky p 2

/-- The three rings of a member are searched anew, in their transmit, LO and receive banks (R332, R335, R338). -/
def Block.searchMember (p m : Nat) (sweeps : List Sweep) (temp : Int) (b : Block) : Block :=
  (b.modLo p fun x => { x with
    rings := (List.range 3).foldl (fun rs k => Lo.searchRing k m (x.med.getD k 0) temp (sweeps.getD k []) rs) x.rings }).assign p m

/-! ## Comb lasers (R328 to R331) -/

/-- The calibration of a port is abandoned (R349). -/
def Block.calDrop (p : Nat) (b : Block) : Block :=
  match (b.lo1 p).cal with
  | none => b
  | some c => (b.putBit (R.loMStat p c.mem) 26 false).modLo p fun x => { x with cal := none }

/-- No member of a port has carrier lock: its comb, and with it its local oscillator, is gone (R15). -/
def Block.noCarrier (p : Nat) (b : Block) : Block := (List.range 32).foldl (fun b m => b.setLock p m false) b

/-- A laser is brought into service: the attenuator closes and the other laser goes cold unless it is FAILED. -/
def Block.bringUp (p k : Nat) (cmd : Option Nat) (back : Bool) (b : Block) : Block :=
  let b := [1, 2].foldl (fun b j => if b.laser p j = 1 then b.setLaser p j 0 else b) b
  let b := (b.putFld (R.loStat p) 1 0 0).calDrop p
  ((b.modLo p fun x => { x with bring := some ⟨k, b.now, cmd, back⟩, reacq := none, reFail := false, lowAt := none, picked := false }).noCarrier p).relight p

/-- COMB_BRING_UP: a port that is not DARK, is not being disabled (R349) and has no laser in service begins the bring-up of its target, or of the other laser when
the target is FAILED and COMB_SWITCH has not named it (R328, R331). -/
def Lo.bringUp (p : Nat) (b : Block) : Block :=
  let x := b.lo1 p
  if b.lfState p = 0 ∨ b.funcMode (0x200 + p) ≠ 1 ∨ b.combActive p ≠ 0 ∨ x.bring.isSome then b
  else
    let k := if b.laser p x.target = 2 && !x.picked then 3 - x.target else x.target
    if b.laser p k = 2 && !x.picked then b else b.bringUp p k none false

/-- Bounds that have waited for the end of SAFE apply (R349). -/
def Block.boundsIn (p : Nat) (b : Block) : Block :=
  ((b.lo1 p).bounds.foldl (fun b e => b.setReg e.1 e.2) b).modLo p fun x => { x with bounds := [] }

/-- The lasers of a port are powered off; a bring-up stops, and its COMB_SWITCH completes STATE, DETAIL 0 (R349). -/
def Block.loStop (p : Nat) (b : Block) : Block :=
  let cmd := (b.lo1 p).bring.bind (·.cmd)
  let b := b.boundsIn p
  let b := [1, 2].foldl (fun b j => if b.laser p j = 1 then b.setLaser p j 0 else b) b
  let b := ((b.putFld (R.loStat p) 1 0 0).putFld (R.loStat p) 31 29 0).putBit (R.loStat p) 27 false
  let b := (b.calDrop p).modLo p fun x => { x with bring := none, reacq := none, reFail := false, lowAt := none, relock := [], darkAt := none, reflAt := none, powerAt := none, probe := none, sat := [], past := [] }
  let b := (b.noCarrier p).relight p
  match cmd with
  | some id => b.done id St.state 0
  | none => b

/-- The port enters DARK and its lasers go off (R15, R306). -/
def Block.portDark (p : Nat) (b : Block) : Block := (b.loStop p).setLf p 0

/-- A bring-up has failed: its laser is FAILED. A failed COMB_SWITCH brings the other laser back; after any other, the other laser is
the next target; a port without a laser enters DARK (R330, R331, R349). -/
def Block.bringFail (p : Nat) (g : Bring) (b : Block) : Block :=
  let o := 3 - g.laser
  let b := (b.setLaser p g.laser 2).modLo p fun x => { x with bring := none, target := o }
  let code := if b.laser p o = 2 then 0 else b.lfState p
  let b := if b.laser p o = 2 then b.portDark p else if g.cmd.isSome then b.bringUp p o none true else b
  match g.cmd with
  | some id => b.done id St.state code
  | none => b

/-- The latest end of each step of Table 12-4 before the members are lit, in ms. -/
def Lo.stepEnds : List Nat := [300, 350, 450, 470, 570, 634, 644]

/-- Every step of a bring-up ended in time, the line check passed, and line 16 was locked with every line on the plan (R323, R328, R329). -/
def BringUp.passed (x : BringUp) : Bool :=
  ((List.range 7).all fun i => (x.ends[i]?).any fun e => decide (e ≤ Lo.stepEnds.getD i 0 * ms)) && LineScan.usable x.comb.scan == 0xFFFFFFFF && Lo.onPlan x.comb.freq

/-- A laser has come up: it is on and active, the lines are there, the rings of the three banks are assigned and the modulators set, and a switch
is counted and traced when the laser, or its command, is a new one (R328, R331, R332). -/
def Block.bringLit (p : Nat) (g : Bring) (x : BringUp) (b : Block) : Block :=
  let b := (b.setLaser p g.laser 1).putFld (R.loStat p) 1 0 g.laser
  let b := (b.putFld (R.loCombStat p) 21 16 32).setBias p false x.bias
  let changed := g.laser ≠ (b.lo1 p).target
  let b := b.modLo p fun y => { y with
    bring := none, lines := LineScan.usable x.comb.scan, freq := x.comb.freq, target := g.laser, relock := [], temp := x.rings.temp
    rings := (List.range 3).foldl (Lo.searchBank x.rings.sweeps x.rings.temp) y.rings, med := (List.range 3).map (Lo.bankMedian x.rings.sweeps)
    cals := (List.range 32).foldl (fun cs m => AMap.set cs m { AMap.getD cs m ⟨[], 0, 0, 0⟩ with points := x.rings.points.getD m [] }) y.cals }
  let b := (List.range 32).foldl (fun b m => b.assign p m) b
  let b := if changed ∨ g.cmd.isSome ∨ g.back then ((b.bump (R.loCombSwitchCnt p)).loSticky p 4).loTrace 1 p 0xFF g.laser else b
  b.relight p

/-- COMB_BRING_UP_DONE: the bring-up ends with what its steps found; a step that did not end in time, or whose check did not pass, fails it
(R328, R332). -/
def Lo.bringUpDone (p : Nat) (x : BringUp) (b : Block) : Block :=
  match (b.lo1 p).bring with
  | none => b
  | some g =>
    if !BringUp.passed x || g.since + 645 * ms < b.now then b.bringFail p g
    else
      let b := b.bringLit p g x
      match g.cmd with
      | some id => b.ok id 0
      | none => b

/-- COMB_STATE_LOSS: the comb state of the active laser is lost; the members go dark and one re-acquisition begins (R330). -/
def Lo.stateLoss (p : Nat) (b : Block) : Block :=
  if !b.combOn p then b
  else
    let b := (b.calDrop p).modLo p fun x => { x with reacq := some b.now, reFail := false, lowAt := none }
    (b.noCarrier p).relight p

/-- COMB_REACQUIRED: the comb state is acquired again in time; when the line check finds every line usable the members light again, and else
the one re-acquisition has failed (R329, R330). -/
def Lo.reacquired (p : Nat) (scan : LineScan) (b : Block) : Block :=
  match (b.lo1 p).reacq with
  | none => b
  | some t =>
    if t + 120 * ms < b.now || (b.lo1 p).reFail then b
    else if LineScan.usable scan ≠ 0xFFFFFFFF then b.modLo p fun x => { x with reFail := true }
    else ((b.modLo p fun x => { x with reacq := none, reFail := false, lowAt := none, lines := LineScan.usable scan }).putFld (R.loCombStat p) 21 16 32).relight p

/-- The laser left behind is FAILED and the other laser is brought up; with none left the port enters DARK (R15, R330). -/
def Block.autoSwitch (p : Nat) (b : Block) : Block :=
  let a := b.combActive p
  let o := 3 - a
  let b := (b.setLaser p a 2).modLo p fun x => { x with target := a }
  if b.laser p o = 2 then b.portDark p else b.bringUp p o none false

/-- A COMB_SWITCH runs on a port. -/
def Block.switching (b : Block) (p : Nat) : Bool := (b.lo1 p).bring.any fun g => g.cmd.isSome || g.back

/-- COMB_AUTO_SWITCH: the one re-acquisition has failed, by its line check or by its 120 ms (R330). -/
def Lo.autoSwitch (p : Nat) (b : Block) : Block :=
  let late := (b.lo1 p).reacq.any fun t => (b.lo1 p).reFail || decide (t + 120 * ms ≤ b.now)
  if late && b.bit (R.loCombCfg p) 8 && b.combActive p != 0 && !b.switching p then b.autoSwitch p else b

/-- LINES_LOW_EXPIRY: LINES_OK has stayed below SWITCH_LINES for 1 s, and the other laser is not FAILED (R330). -/
def Lo.linesLow (p : Nat) (b : Block) : Block :=
  let late := (b.lo1 p).lowAt.any fun t => t + 1000 * ms ≤ b.now
  if late && b.bit (R.loCombCfg p) 8 && b.combOn p && b.laser p (3 - b.combActive p) != 2 then b.autoSwitch p else b

/-- COMB_SWITCH (R331, R349): bytes 24 to 27 the port, byte 32 the target, 0 spare and 1 main. The lasers of a port whose disable has powered
them off stay off until it is DARK: the command then completes as one that the disable stops (DEDUCED, log entry 101). -/
def Lo.combSwitch (id : Nat) (r : Req) (b : Block) : Block :=
  Ci.check8 id r (Lf.portFields r (· == 0xFF) ++ [(32, decide (2 ≤ r.u 32 1)), (33, r.nz 33 31)]) (fun b =>
    let p := r.a1
    let k := if r.u 32 1 = 1 then 1 else 2
    if b.combActive p = k then b.ok id 0
    else if b.lfState p = 0 then (b.modLo p fun x => { x with target := k, picked := true }).ok id 0
    else if b.switching p then b.done id St.busy 0
    else if b.funcMode (0x200 + p) ≠ 1 ∧ b.combActive p = 0 ∧ (b.lo1 p).bring.isNone then b.done id St.state 0
    else (b.modLo p fun x => { x with target := 3 - k }).bringUp p k (some id) false) b

/-! ## What the LO measures every 1 ms -/

/-- The readings of a port's optics of this moment, member by member, and the total launch power (Table 12-10). -/
def Block.loReadings (p : Nat) (x : LoTick) (b : Block) : Block :=
  let b := (List.range 32).foldl (fun b m =>
    let b := b.lightIn p m (x.rx.getD m (-400)) (x.lock.getLsbD m)
    let b := (b.putN (R.loMFoff p m) (Bits.ofInt 32 (x.foff.getD m 0))).putN (R.loMCd p m) (Bits.ofInt 32 (x.cd.getD m 0))
    b.putN (R.loMDgd p m) (x.dgd.getD m 0 % 65536)) b
  b.putN (R.loTotalLaunch p) (Bits.ofInt 16 x.total)

/-- The lines of an active comb: their number, the bias current within its bounds unless the laser is hot, and how long the lines have
been too few (R329, R330, R344). -/
def Block.combLines (p : Nat) (x : LoTick) (b : Block) : Block :=
  let n := Lf.count (LineScan.usable x.scan)
  let b := (b.putFld (R.loCombStat p) 21 16 n).setBias p x.hot x.bias
  let low := n < b.fld (R.loCombCfg p) 5 0
  (b.modLo p fun y => { y with lines := LineScan.usable x.scan, lowAt := if low then some (y.lowAt.getD b.now) else none }).relight p

/-- Since when a port receives no light, reflects too much, and sees light again (R345, R346). -/
def Block.lightTimes (p : Nat) (x : LoTick) (b : Block) : Block :=
  let provs := (List.range 32).filter (b.prov p)
  let dark := !provs.isEmpty && provs.all fun m => x.rx.getD m (-400) < b.losDbm p
  let seen := (List.range 32).any fun m => b.losDbm p ≤ x.rx.getD m (-400)
  let refl := decide (x.total - 10 * (b.fld (R.loReflCfg p) 7 0 : Int) < x.refl)
  b.modLo p fun y => { y with
    darkAt := if dark then some (y.darkAt.getD b.now) else none
    reflAt := if refl then some (y.reflAt.getD b.now) else none
    powerAt := if seen then some (y.powerAt.getD b.now) else none }

/-- COMB_LINE_CHECK: the lines, the receivers, the bias loop, and since when the conditions of R330 and R345 hold (R327, R329, R344). -/
def Lo.lineCheck (p : Nat) (x : LoTick) (b : Block) : Block :=
  let b := b.loReadings p x
  (if b.combOn p then b.combLines p x else b).lightTimes p x

/-! ## Ring tuning (R332 to R336) -/

/-- The method in use: DITHER in slotted mode, whatever is selected. -/
def Block.tuneEff (b : Block) (p : Nat) : Nat := if b.bit (R.lfStat p) 5 then 0 else b.fld (R.loTuneCtl p) 0 0

/-- Every ring of every lit member is locked. -/
def Block.ringsLocked (b : Block) (p : Nat) : Bool := (List.range 32).all fun m => !b.lit p m || b.bit (R.loMStat p m) 29

/-- TUNE_METHOD takes effect (R336): from DITHER to SEARCH each heater holds its present value; from SEARCH to DITHER every lit ring must lock by
the criterion of DITHER, which the next sample judges, unless slotted mode has used DITHER already. -/
def Block.tuneSet (p id method : Nat) (b : Block) : Block :=
  let old := b.fld (R.loTuneCtl p) 0 0
  let b := if old = 0 ∧ method = 1 then b.modLo p fun x => { x with rings := x.rings.map fun (e : Nat × RingSet) =>
      (e.1, { e.2 with heat := b.regN (R.loMHeat p e.1), temp := x.temp }) } else b
  let b := b.putFld (R.loTuneCtl p) 0 0 method
  let b := b.putFld (R.loStat p) 3 2 (b.tuneEff p)
  let b := if old = method then b else b.modLo p fun x => { x with unlock := [] }
  let judged := b.bit (R.lfStat p) 5 && b.ringsLocked p
  if old = method ∨ method = 1 ∨ judged ∨ (List.range 32).all (fun m => !b.lit p m) then b.ok id 0
  else b.modLo p fun x => { x with tune := some (id, b.now) }

/-- TUNE_METHOD (R336, R349). -/
def Lo.tuneMethod (id : Nat) (r : Req) (b : Block) : Block :=
  Ci.check8 id r (Lf.portFields r (· == 0xFF) ++ [(32, decide (2 ≤ r.u 32 1)), (33, r.nz 33 31)]) (fun b =>
    let p := r.a1
    let x := b.lo1 p
    if x.tune.isSome ∨ x.tuneWait.isSome then b.done id St.busy 0
    else if x.cal.isSome then b.modLo p fun x => { x with tuneWait := some (id, r.u 32 1) }
    else b.tuneSet p id (r.u 32 1)) b

/-- TUNE_METHOD_TIMEOUT: not every lit ring has locked within 100 ms (R336). -/
def Lo.tuneTimeout (p : Nat) (b : Block) : Block :=
  match (b.lo1 p).tune with
  | none => b
  | some (id, t) => if t + 100 * ms ≤ b.now then (b.modLo p fun x => { x with tune := none }).done id St.timeout 0 else b

/-- The tone that dithers a ring's heater, in Hz: 20 kHz + 250 Hz × ring number (R333). -/
def Lo.tone (r : Nat) : Nat := 20000 + 250 * r

/-- The largest detuning of the dither in MHz, and the largest error of a locked ring (R333). -/
abbrev Lo.ditherPeak : Nat := 500
abbrev Lo.lockRange : Nat := 2000

/-- The error of a ring in MHz, by the lock-in signal at its tone. -/
def RingTick.err (x : RingTick) (r : Nat) : Option Int := List.lookup (Lo.tone r) x.tones

/-- How far a ring's drop power lies below its value at the last search, in 0.1 dB (R334, R335). -/
def LoPort.fall (y : LoPort) (r : Nat) : Int := ((AMap.get? y.rings r).map fun s => s.power - y.drop.getD r s.power).getD 0

/-- The heater power that the loop wants for a ring (R333, R334): with DITHER its present one, moved by the error at 25 GHz for each mW; with
SEARCH its searched value, corrected by its temperature coefficient. A ring that no search has assigned keeps its heater. The step of the
dither loop is log entry 84. -/
def Block.heatWant (b : Block) (p : Nat) (x : RingTick) (r : Nat) : Int :=
  let now : Int := b.regN (R.loMHeat p r)
  match AMap.get? (b.lo1 p).rings r with
  | none => now
  | some s =>
    if b.tuneEff p = 0 then now + ((RingTick.err x r).getD 0 + 1250) / 2500
    else s.heat + s.coef * (x.temp - s.temp) / 100

/-- A ring is on target (R333): with DITHER its error lies within ±2 GHz; with SEARCH, which has no error signal, its drop power lies within
3.0 dB of its searched value (log entry 84). -/
def Block.ringOn (b : Block) (p : Nat) (x : RingTick) (r : Nat) : Bool :=
  (AMap.get? (b.lo1 p).rings r).any fun s =>
    if b.tuneEff p = 0 then (RingTick.err x r).any fun e => decide (e.natAbs ≤ Lo.lockRange) else decide (s.power ≤ x.drop.getD r s.power + 30)

/-- The heaters and the lock of one member's three rings; `c` is the block as the sample finds it. -/
def Block.ringMember (p : Nat) (x : RingTick) (c : Block) (b : Block) (m : Nat) : Block :=
  let own := [m, 32 + m, 64 + m]
  (own.foldl (fun b r => b.setHeat p r x.lim (c.heatWant p x r)) b).putBit (R.loMStat p m) 29 (own.all (c.ringOn p x))

/-- What the tuning remembers of a sample: rings that a search has put on target and that are off, the drop powers, and with SEARCH the members that ask for an early calibration
(R334, R335); `c` is the block as the sample finds it. -/
def Block.ringNotes (p : Nat) (x : RingTick) (c : Block) (b : Block) : Block :=
  b.modLo p fun y =>
    let y := { y with drop := x.drop, temp := x.temp }
    let soon := if b.tuneEff p = 1 && b.funcMode (0x600 + p) == 1 then
        (List.range 32).filter fun m => 10 < y.fall m || 10 < y.fall (32 + m) else []
    { y with
      unlock := (List.range 96).foldl (fun u r => if c.ringOn p x r || (AMap.get? y.rings r).isNone then AMap.erase u r
        else AMap.set u r (AMap.getD u r b.now)) y.unlock
      calSoon := y.calSoon ++ soon.filter fun m => !y.calSoon.contains m && !(y.cal.any fun c => c.mem == m) }

/-- Some ring heater wants more than its bounds give. -/
def Block.heatOut (b : Block) (p : Nat) (x : RingTick) : Bool :=
  (List.range 96).any fun r => decide (b.heatWant p x r < (b.bounds (R.loBndHeater p)).1) || decide ((b.bounds (R.loBndHeater p)).2 < b.heatWant p x r)

/-- RING_TUNE_TICK: each heater is driven within its bounds, locks are judged, and power that has fallen schedules a calibration (R333,
R334, R344). -/
def Lo.ringTick (p : Nat) (x : RingTick) (b : Block) : Block :=
  let out := b.heatOut p x
  let b := ((List.range 32).foldl (Block.ringMember p x b) (b.loopFlag p 2 (out && !x.lim) (out && x.lim))).ringNotes p x b
  match (b.lo1 p).tune with
  | some (id, _) => if b.ringsLocked p then (b.modLo p fun y => { y with tune := none }).ok id 0 else b
  | none => b

/-- The rings of a member for which it is relocked now (R335). -/
def Block.lostRings (b : Block) (p m : Nat) : List Nat :=
  let x := b.lo1 p
  let pending := b.funcMode (0x600 + p) == 1 && x.calSoon.contains m || x.cal.any fun c => c.mem == m
  [m, 32 + m, 64 + m].filter fun r =>
    if b.tuneEff p = 0 then (AMap.get? x.unlock r).any fun t => decide (t + ms ≤ b.now) else !pending && decide (30 < x.fall r)

/-- The members light as they may, and one that a planned removal holds returns once it is lit (R302 step 4). -/
def Block.relit (p m : Nat) (b0 : Block) : Block :=
  let b := b0.relight p
  if b.lit p m && (b.lm p m).freed then b.memBack p m else b

/-- RING_RELOCK of a member: it is unlit, and without carrier lock where its LO or receive ring is concerned, while its rings are searched,
and relit when the search has ended (R335). -/
def Lo.relock (p m : Nat) (res : Option (List Sweep × Int)) (b : Block) : Block :=
  let x := b.lo1 p
  match res with
  | none =>
    let lost := b.lostRings p m
    if !lost.isEmpty && b.combOn p && !x.relock.contains m && m < 32 then
      let b := (((b.bump (R.loRelockCnt p)).tally (24 + p) 1).loTrace 2 p m (b.combActive p)).modLo p fun y => { y with relock := y.relock ++ [m] }
      (if lost.any (32 ≤ ·) then b.setLock p m false else b).relight p
    else b
  | some (sweeps, temp) =>
    if x.relock.contains m then
      ((b.modLo p fun y => { y with relock := y.relock.filter (· != m) }).searchMember p m sweeps temp).relit p m
    else b

/-! ## Calibration (R337 to R340) -/

/-- The calibration of a provisioned member begins: at once on one that is dark, else with a planned removal (R337, R338). -/
def Block.calBegin (p m : Nat) (cycle : Bool) (b : Block) : Block :=
  if !b.prov p m then b
  else
    let dark := !b.lit p m
    let b := b.loTrace 3 p m (b.combActive p)
    let b := if dark then b.putBit (R.loMStat p m) 26 true else b
    b.modLo p fun y => { y with cal := some ⟨m, cycle, if dark then 5 else 0, 0, b.now⟩ }

/-- CALIBRATION_START: the next member, or one scheduled ahead, asks for its planned removal, or is calibrated without one when it is
not lit. -/
def Lo.calStart (p : Nat) (b : Block) : Block :=
  let x := b.lo1 p
  let runs := b.funcMode (0x600 + p) == 1 && b.lineUp p && !b.bit (R.lfStat p) 5 && x.cal.isNone
  if !runs then b
  else match x.calSoon with
    | m :: rest => (b.modLo p fun y => { y with calSoon := rest }).calBegin p m false
    | [] =>
      let (m, t) := x.calNext
      if b.now < t then b
      else
        let step : Time := 250000000 * b.fld (R.loCalCtl p) 15 0
        let next := if t + step ≤ b.now then b.now + step else t + step
        (b.modLo p fun y => { y with calNext := ((m + 1) % 32, next) }).calBegin p m true

/-- PLANNED_REMOVAL_REQUEST: the LF grants or refuses the removal that a calibration asks for; after 8 refusals the LO passes the member
over (R302, R304, R339). -/
def Lo.removal (p m : Nat) (b : Block) : Block :=
  match (b.lo1 p).cal with
  | none => b
  | some c =>
    if c.mem ≠ m ∨ c.phase ≠ 0 then b
    else if (b.lm p m).plan ≠ 0 ∧ (b.lm p m).planBy = 1 then b.modLo p fun y => { y with cal := none }
    else
      match b.planRequest p m 0 with
      | (true, b) => b.modLo p fun y => { y with cal := some { c with phase := 1, since := b.now } }
      | (false, b) =>
        if 7 ≤ c.refuse then (((b.bump (R.loCalSkipCnt p)).tally (26 + p) 1).loSticky p 3).modLo p fun y => { y with cal := none }
        else b.modLo p fun y => { y with cal := some { c with phase := 4, refuse := c.refuse + 1, since := b.now } }

/-- CALIBRATION_RETRY: a refused removal is requested again after 1 s (R339). -/
def Lo.calRetry (p : Nat) (b : Block) : Block :=
  match (b.lo1 p).cal with
  | some c => if c.phase = 4 ∧ c.since + 1000 * ms ≤ b.now then b.modLo p fun y => { y with cal := some { c with phase := 0 } } else b
  | none => b

/-- What a calibration has found is kept (R338): the rings' searched values and coefficients, and the member's other settings. -/
def Block.calKeep (p m : Nat) (x : CalFound) (b : Block) : Block :=
  (b.searchMember p m x.sweeps x.temp).modLo p fun y => { y with
    rings := (List.range 3).foldl (fun rs k => AMap.adjust rs (32 * k + m) fun s => { s with coef := x.coef.getD k 0 }) y.rings
    cals := AMap.set y.cals m ⟨x.points, x.gain, x.skew, x.line⟩ }

/-- CALIBRATION_WORK: the released member goes dark and is worked on for 20 ms; then what the work found is kept, and the member is relit
and returns (R338). One whose search has failed stays unlit, and returns when it is lit; one that LOG has let go rejoins by itself (R302,
R304). -/
def Lo.calWork (p : Nat) (res : Option CalFound) (b : Block) : Block :=
  match (b.lo1 p).cal with
  | none => b
  | some c =>
    let m := c.mem
    match res with
    | none =>
      if c.phase = 1 ∧ (b.lm p m).plan = 2 ∧ (b.lm p m).freed then
        ((b.putBit (R.loMStat p m) 26 true).modLo p fun y => { y with cal := some { c with phase := 2, since := b.now } }).relight p
      else b
    | some x =>
      if (c.phase = 2 ∨ c.phase = 5) ∧ c.since + 20 * ms ≤ b.now then
        let b := ((b.bump (R.loCalCnt p)).loTrace 4 p m (b.combActive p)).putBit (R.loMStat p m) 26 false
        let b := ((b.calKeep p m x).modLo p fun y => { y with cal := none }).relit p m
        (b.modLo p fun y => { y with cal := if c.phase = 2 && (b.lm p m).plan == 3 then some { c with phase := 3, since := b.now } else none }).lfRegs p
      else b

/-- A calibration whose member has rejoined ends, and so does one whose removal LOG has cleared before the LO held the member, whose member has
been removed, or which has not begun when the calibration function no longer runs; a TUNE_METHOD that waited takes effect (R304, R340, R349; log
entry 101). -/
def Block.loSettle (b : Block) : Block :=
  [0, 1].foldl (fun b p =>
    match (b.lo1 p).cal with
    | none =>
      match (b.lo1 p).tuneWait with
      | some (id, m) => (b.modLo p fun y => { y with tuneWait := none }).tuneSet p id m
      | none => b
    | some c =>
      if ((c.phase == 1 || c.phase == 3) && (b.lm p c.mem).plan == 0) || !b.prov p c.mem || ((c.phase == 0 || c.phase == 4) && b.funcMode (0x600 + p) != 1) then
        let b := (b.calDrop p).relight p
        match (b.lo1 p).tuneWait with
        | some (id, m) => (b.modLo p fun y => { y with tuneWait := none }).tuneSet p id m
        | none => b
      else b) b

/-- The wavelength under calibration has rejoined (Table 2-10). -/
def Block.calDrained (b : Block) (p : Nat) : Bool :=
  match (b.lo1 p).cal with
  | none => true
  | some c => c.phase == 0 || c.phase == 4

/-! ## Launch power and bounds (R341 to R344) -/

/-- The launch power that the loop aims at for a lit member: its setpoint within the bounds, and −8.0 dBm in a probe (R341, R344, R346). -/
def Block.launchAim (b : Block) (p m : Nat) : Int :=
  let (lo, hi) := b.bounds (R.loBndLaunch p)
  if b.safe p then -80 else Lo.clamp lo hi (Bits.toInt 16 (b.fld (R.loMLaunch p m) 15 0))

/-- The launch of one member: its attenuation takes up what the monitor shows above or below the aim, and a member that stays more than 0.3 dB
below it without attenuation is low (R341, log entry 85). -/
def Block.launchMember (p : Nat) (x : LaunchTick) (b : Block) (m : Nat) : Block :=
  if b.lit p m then
    let meas := x.meas.getD m 0
    let diff := meas - b.launchAim p m
    let att := AMap.getD (b.lo1 p).att m 0
    let b := b.modLo p fun y => { y with att := AMap.set y.att m ((att : Int) + diff).toNat }
    (b.putFld (R.loMLaunch p m) 31 16 (Bits.ofInt 16 meas)).putBit (R.loMStat p m) 28 (att == 0 && decide (diff < -3))
  else b.putBit (R.loMStat p m) 28 false

/-- Some lit member's launch setting lies outside its bounds. -/
def Block.launchOut (b : Block) (p : Nat) : Bool :=
  (List.range 32).any fun m => b.lit p m && (decide (Bits.toInt 16 (b.fld (R.loMLaunch p m) 15 0) < (b.bounds (R.loBndLaunch p)).1) ||
    decide ((b.bounds (R.loBndLaunch p)).2 < Bits.toInt 16 (b.fld (R.loMLaunch p m) 15 0)))

/-- LAUNCH_ADJUST: the launch of each lit member is held at its setpoint within the bounds, which the eye-safety shutdown overrides (R341,
R344). -/
def Lo.launch (p : Nat) (x : LaunchTick) (b : Block) : Block :=
  let out := b.launchOut p
  ((List.range 32).foldl (Block.launchMember p x) (b.loopFlag p 0 (out && !b.safe p) (b.safe p))).putN (R.loTotalLaunch p) (Bits.ofInt 16 x.total)

/-- The launch power of one member, or of all thirty-two for the member number FFh. -/
def Block.launchSet (p m : Nat) (v : Int) (b : Block) : Block :=
  if m = 0xFF then (List.range 32).foldl (fun b k => b.putFld (R.loMLaunch p k) 15 0 (Bits.ofInt 16 v)) b
  else b.putFld (R.loMLaunch p m) 15 0 (Bits.ofInt 16 v)

/-- LAUNCH_POWER (R342, R343). -/
def Lo.launchPower (id : Nat) (r : Req) (b : Block) : Block :=
  let p := r.a1
  let v := Bits.toInt 16 (r.u 32 2)
  let hit (k : Nat) : Bool := r.a2 == 0xFF || r.a2 == k
  let set (k : Nat) : Int := if hit k then v else Bits.toInt 16 (b.fld (R.loMLaunch p k) 15 0)
  let sum := Bits.sum ((List.range 32).map fun k => if b.prov p k then Lf.linear (set k) else 0)
  Ci.check8 id r (Lf.portFields r (fun m => decide (m < 32) || m == 0xFF) ++
      [(32, decide (v < -80) || decide (10 < v) || decide (Lf.linear (b.lo1 p).totMax < sum)), (34, r.nz 34 30)]) (fun b =>
    (b.launchSet p r.a2 v).ok id 0) b

/-- The register, range and port of an optics loop (Table 12-6). -/
def Lo.loop (i : Nat) : Option (Nat × Int × Int) :=
  match i with
  | 0x1000 => some (R.loBndLaunch 0, -80, 10)
  | 0x1001 => some (R.loBndLaunch 1, -80, 10)
  | 0x1010 => some (R.loBndBias 0, 0, 600)
  | 0x1011 => some (R.loBndBias 1, 0, 600)
  | 0x1020 => some (R.loBndHeater 0, 0, 1300)
  | 0x1021 => some (R.loBndHeater 1, 0, 1300)
  | _ => none

/-- New bounds of an optics loop; in SAFE they wait for its end (R349). -/
def Block.loBounds (i a : Nat) (v : Word) (b : Block) : Block :=
  let p := i % 16
  if b.safe p then b.modLo p fun x => { x with bounds := x.bounds ++ [(a, v)] } else b.setReg a v

/-! ## Eye safety (R345 to R347) -/

/-- EYE_SAFETY_SHUTDOWN: no power for DWELL_MS, or a reflection for 10 ms (R345). -/
def Lo.eyeSafety (p : Nat) (b : Block) : Block :=
  let x := b.lo1 p
  let late (n : Nat) (t : Option Time) : Bool := t.any fun t => t + n * ms ≤ b.now
  if b.bit (R.loSafeCfg p) 31 || b.safe p || b.lfState p == 0 || !(late (b.fld (R.loSafeCfg p) 11 0) x.darkAt || late 10 x.reflAt) then b
  else
    let b := match x.cal with
      | some c => (b.calDrop p).modLm p c.mem fun y => if y.planBy = 0 then { y with plan := 0, freed := false, back := none } else y
      | none => b
    let b := (((b.putBit (R.loStat p) 31 true).loSticky p 5).bump (R.loSafeCnt p)).loTrace 5 p 0xFF (b.combActive p)
    let b := b.modLo p fun y => { y with probe := none, powerAt := none, probeNext := b.now + 1000 * ms * b.fld (R.loSafeCfg p) 25 16 }
    ((b.loopFlag p 0 false true).relight p).setLf p 5

/-- The shutdown ends: the port enters ACQUIRE, the members light, and bounds that waited apply (R346, R349). -/
def Block.safeEnd (p : Nat) (b : Block) : Block :=
  let b := (b.boundsIn p).loopFlag p 0 false false
  let b := ((b.putBit (R.loStat p) 31 false).putBit (R.loStat p) 27 false).loTrace 6 p 0xFF (b.combActive p)
  let b := b.modLo p fun y => { y with probe := none, darkAt := none, reflAt := none }
  (b.relight p).setLf p 1

/-- SAFE_PROBE: power that has persisted for 100 ms ends the shutdown; otherwise a probe begins when one is due, or when power has been seen
(R346, log entry 85). -/
def Lo.safeProbe (p : Nat) (b : Block) : Block :=
  let x := b.lo1 p
  if !b.safe p then b
  else if x.powerAt.any fun t => t + 100 * ms ≤ b.now then b.safeEnd p
  else if x.probe.isNone && (x.powerAt.isSome || decide (x.probeNext ≤ b.now)) then
    ((b.putBit (R.loStat p) 27 true).modLo p fun y => { y with probe := some b.now, probeNext := b.now + 1000 * ms * b.fld (R.loSafeCfg p) 25 16 }).relight p
  else b

/-- SAFE_PROBE_END: a probe ends after 2 s (R346). -/
def Lo.probeEnd (p : Nat) (b : Block) : Block :=
  if (b.lo1 p).probe.any fun t => t + 2000 * ms ≤ b.now then
    ((b.putBit (R.loStat p) 27 false).modLo p fun y => { y with probe := none }).relight p
  else b

/-! ## Ageing (R348) -/

/-- Hours until a line fitted by least squares to hourly samples, newest first, reaches a limit: 0 when it is there already, 0xFFFF_FFFF
with fewer than 168 samples or a slope that is not positive. -/
def Lo.eol (ys : List Nat) (limit : Int) : Nat :=
  let n : Int := ys.length
  if ys.length < 168 then 0xFFFFFFFF
  else
    let pts : List (Int × Int) := ys.reverse.zipIdx.map fun (y, x) => ((x : Int), (y : Int))
    let sx : Int := (pts.map Prod.fst).sum
    let sy : Int := (pts.map Prod.snd).sum
    let sxx : Int := (pts.map fun e => e.1 * e.1).sum
    let sxy : Int := (pts.map fun e => e.1 * e.2).sum
    let num := n * sxy - sx * sy
    let den := n * sxx - sx * sx
    -- fitted value at the newest sample, times n · den
    let fit := sy * den + num * (n * (n - 1) - sx)
    if limit * n * den ≤ fit then 0
    else if num ≤ 0 then 0xFFFFFFFF
    else min 0xFFFFFFFF ((limit * n * den - fit) / (n * num)).toNat

/-- The hour of the active laser of a port: its hours, the latest 720 hourly bias currents, and the hours left by R348. -/
def Block.agePort (b : Block) (p : Nat) : Block :=
  let a := b.combActive p
  if a = 0 then b
  else
    let y := b.fld (R.loCombStat p) 9 0
    let b := b.bump (if a = 1 then R.loAgeOnhrsMain p else R.loAgeOnhrsSpare p)
    let b := b.modLo p fun x => if a = 1 then { x with main := (y :: x.main).take 720 } else { x with spare := (y :: x.spare).take 720 }
    let ys := if a = 1 then (b.lo1 p).main else (b.lo1 p).spare
    let limit := min (b.fld (R.loBiasEol p) 9 0 : Int) (b.bounds (R.loBndBias p)).2
    let old := b.regN (R.loAgeEolHrs p)
    let hrs := Lo.eol ys limit
    let b := b.putN (R.loAgeEolHrs p) hrs
    if hrs < 2160 ∧ 2160 ≤ old then b.loSticky p 6 else b

/-- AGEING_HOURLY: the active laser's bias is recorded, its hours count, and the estimate of its end of life is renewed. -/
def Lo.ageing (b : Block) : Block := (b.agePort 0).agePort 1

/-! ## Registers -/

/-- LO_CAL_STAT of a port. -/
def Block.calStat (b : Block) (p : Nat) : Nat :=
  let x := b.lo1 p
  let (m, t) := x.calNext
  match x.cal with
  | some c => 2 ^ 31 + c.mem * 2 ^ 24 + min 65535 (Bits.ceilDiv (t - b.now) 8000000000)
  | none => m * 2 ^ 24 + min 65535 (Bits.ceilDiv (t - b.now) 8000000000)

/-- LO_STAT of a port: CAL_OFF while the calibration function is OFF (R340), and the method in use (R336). -/
def Block.loStatView (b : Block) (p : Nat) : Nat :=
  let v := Bits.put (b.regN (R.loStat p)) 28 28 (Bits.ofBool (b.funcOff (0x600 + p)))
  Bits.put v 3 2 (b.tuneEff p)

end Sys2Proof.Machine
end

