-- ==== Sys2Proof/Machine/Sec.lean ====
section
/-! DEFINITION. Identity, keys and peers (chapter 13): measurement registers, attestation, key agreement, the tamper configuration, and
what erases the key store. The tamper alarm itself stands with the power states it depends on. -/

namespace Sys2Proof.Machine

/-- The block with its SEC changed. -/
def Block.onSec (f : SecState → SecState) (b : Block) : Block := { b with sec := f b.sec }

/-- Bytes cut or padded with zeros to a length. -/
def Sec.fit (n : Nat) (bs : List Byte) : List Byte := (bs ++ List.replicate n 0#8).take n

/-- 48 bytes of zeros. -/
def Sec.zero48 : List Byte := List.replicate 48 0#8

/-- Bytes of the random source, from free words `i` on (log entry 2). -/
def Sec.random (i n : Nat) : List Byte := ((List.range (Bits.ceilDiv n 4)).flatMap fun k => Bits.leBytes 4 (Config.freeWord (i + k)).toNat).take n

/-- The block after `n` bytes have been drawn, and the number of the first free word of the draw. -/
def Block.draw (n : Nat) (b : Block) : Nat × Block := (b.freeIx, { b with freeIx := b.freeIx + Bits.ceilDiv n 4 })

/-! ## Identity (R350 to R352) -/

/-- The order of the group of P-384 (log entry 86). -/
def Sec.order : Nat := 2 ^ 384 - 0x389cb27e0bc8d220a7e5f24db74f58851313e695333ad68d

/-- A private scalar from its 48 bytes of key material: reduced modulo the group order, and 1 in place of 0 (R350). -/
def Sec.scalar (bs : List Byte) : Nat := max 1 (Bits.ofBe bs % Sec.order)

/-- The private scalar of the DeviceID key (R350). -/
def Sec.deviceScalar : Nat := Sec.scalar (Sha.expand (Sha.hmac [] Config.uds) (Bits.ascii "dx64 device id") 48)

/-- CDI_1 of an M1 (Table 13-1). -/
def Sec.cdi1 (m1 : List Byte) : List Byte := Sha.hmac m1 Config.uds

/-- CDI_2 of an M2 and CDI_1 (Table 13-1). -/
def Sec.cdi2 (m2 cdi1 : List Byte) : List Byte := Sha.hmac m2 cdi1

/-- M1 of the layer-1 image (Table 13-1). -/
def Sec.m1 (image : List Byte) : List Byte := Sha.sha384 image
/-- M2 of the layer-2 images, in the order of the manifest. -/
def Sec.m2 (images : List (List Byte)) : List Byte := Sha.sha384 (images.flatMap Sha.sha384)

/-- The private scalar of the alias key (R352). -/
def Block.aliasScalar (b : Block) : Nat := Sec.scalar (Sha.expand b.sec.cdi (Bits.ascii "dx64 alias") 48)

/-- The alias certificate (R352). -/
def Block.aliasCert (b : Block) : List Byte :=
  Config.aliasCert Sec.deviceScalar b.aliasScalar b.sec.m1 b.sec.m2 (b.fld R.secFwSvn 31 16) (b.regN R.secCompat) (b.bit R.secStat 27)

/-- The DeviceID certificate, which carries the serial (R350). -/
def Block.deviceCert (b : Block) : List Byte :=
  Config.deviceCert Sec.deviceScalar (Bits.ofLe ((List.range 4).flatMap fun k => Bits.leBytes 4 (b.regN (R.secSerial k))))

/-- Alias certificate, then DeviceID certificate. -/
def Block.certs (b : Block) : List Byte := (b.aliasCert ++ b.deviceCert).take 65535

/-- A signature over bytes with the alias key: r and s, 96 bytes; the draw of its random number. -/
def Block.sign (msg : List Byte) (b : Block) : List Byte × Block :=
  let (i, b) := b.free
  (Sec.fit 96 (Config.ecdsaSign b.aliasScalar (Sha.sha384 msg) i), b)

/-- SEC_SVN_COMMIT: the fused security version rises to the running one (R351). -/
def Sec.svnCommit (v : Word) (b : Block) : Block :=
  if v = 0x53564E31#32 ∧ b.fld R.secFwSvn 15 0 < b.fld R.secFwSvn 31 16 then b.putFld R.secFwSvn 15 0 (b.fld R.secFwSvn 31 16) else b

/-- A word of SEC_MR3_EXT: word 11 sets MR3 to SHA-384 of MR3 and the twelve words (R352). -/
def Sec.mr3Write (n : Nat) (v : Word) (b : Block) : Block :=
  let b := b.setReg (R.secMr3Ext n) v
  if n = 11 then
    let d := (List.range 12).flatMap fun k => Bits.leBytes 4 (b.regN (R.secMr3Ext k))
    b.onSec fun s => { s with mr3 := Sha.sha384 (s.mr3 ++ d) }
  else b

/-- SEC_GW: the site and gateway of this device, while no port has an authenticated peer. -/
def Sec.gwWrite (v : Word) (b : Block) : Block := if b.peerGw.isEmpty then b.putN R.secGw (v.toNat % 65536) else b

/-! ## Attestation (R355, Table 13-3) -/

/-- The part of a report about the peer of a port. -/
def Block.attestPeer (b : Block) (p : Nat) : List Byte :=
  match b.peerOf p with
  | some gw =>
    let (serial, m2) := AMap.getD b.sec.peers p (0, [])
    Sec.fit 96 (Bits.leBytes 2 gw ++ Bits.leBytes 16 serial ++ Sec.fit 48 m2)
  | none => List.replicate 96 0#8

/-- The body of a report with a nonce. -/
def Block.attestBody (b : Block) (nonce : List Byte) : List Byte :=
  let safe (p : Nat) : Nat := Bits.ofBool (b.bit (R.loSafeCfg p) 31)
  Bits.leBytes 2 1 ++ Bits.leBytes 2 512 ++ Bits.leBytes 2 b.aliasCert.length ++ Bits.leBytes 2 b.deviceCert.length ++
  Bits.leBytes 4 (b.regN R.sysId) ++ (List.range 4).flatMap (fun k => Bits.leBytes 4 (b.regN (R.secSerial k))) ++
  Bits.leBytes 2 b.gw ++ Bits.leBytes 2 0 ++ Sec.fit 32 nonce ++
  Bits.leBytes 8 (Bits.ofInt 48 (b.localTime / 8000000000)) ++ Bits.leBytes 4 (b.regN R.secBootCnt) ++
  Bits.leBytes 2 (b.fld R.secFwSvn 15 0) ++ Bits.leBytes 2 (b.fld R.secFwSvn 31 16) ++ Bits.leBytes 4 (b.regN R.secCompat) ++
  Bits.leBytes 4 (b.fld R.secStat 27 27 + 2 * b.fld R.secStat 26 26 + 4 * safe 0 + 8 * safe 1) ++
  Bits.leBytes 4 (b.regN R.secTamperCnt) ++ Bits.leBytes 4 0 ++
  Sec.fit 48 b.sec.m1 ++ Sec.fit 48 b.sec.m2 ++ Sec.fit 48 b.sec.mr3 ++ b.attestPeer 0 ++ b.attestPeer 1 ++ List.replicate 80 0#8

/-- ATTEST (R355): bytes 32 to 63 carry the verifier's nonce. An alarm of the same moment aborts the signing (R366). -/
def Sec.attest (id : Nat) (r : Req) (b : Block) : Block :=
  let n := 512 + 96 + b.certs.length
  Ci.check8 id r [(16, badAddr r.a0 r.a1 64), (24, decide (r.a1 < n)), (28, r.nz 28 4)] (fun b =>
    if b.cutOff then b.keyRun
    else
      let body := b.attestBody (Bits.leBytes 32 (r.u 32 32))
      let (sig, b) := b.keyRun.sign body
      ((b.dxWrite r.a0 (body ++ sig ++ b.certs)).bump R.secAttestCnt).ok id n) b

/-! ## Key agreement (R356 to R362) -/

/-- STATE and X of SEC_P_KX_STAT. -/
def Block.kxStat (p state x : Nat) (b : Block) : Block := (b.putFld (R.secPKxStat p) 31 28 state).putFld (R.secPKxStat p) 15 0 x

/-- The exchange in progress on a port. -/
def Block.kxOf (b : Block) (p : Nat) : Option Kx := AMap.get? b.sec.kx p

/-- The block with the exchange of a port set. -/
def Block.setKx (p : Nat) (k : Kx) (b : Block) : Block := b.onSec fun s => { s with kx := AMap.set s.kx p k }

/-- A message goes out in fragments on a port until another takes its place or its exchange's deadline passes, a message that ends the
exchange too (R358, log entry 41). -/
def Block.kxSend (p : Nat) (k : Kx) (msg : List Byte) (b : Block) : Block :=
  b.onSec fun s =>
    let rctr := match AMap.get? s.send p with
      | some o => if o.x = k.x then o.rctr else 0
      | none => 0
    { s with send := AMap.set s.send p ⟨msg, k.x, 0, rctr, k.until_⟩ }

/-- Bytes 0 to 5 of a message of a port's exchange. -/
def Block.kxHead (b : Block) (k : Kx) (msg : Nat) : List Byte := [BitVec.ofNat 8 msg, 1#8] ++ Bits.leBytes 2 b.gw ++ Bits.leBytes 2 k.peer

/-- The ephemeral ECDH secret, the ML-KEM secret and the nonce of an exchange, from its draws. -/
def Kx.ecdh (k : Kx) : List Byte := Sec.random k.rnd 48
/-- The random secret of ML-KEM. -/
def Kx.kem (k : Kx) : List Byte := Sec.random (k.rnd + 12) 64
/-- The nonce of a hello. -/
def Kx.nonce (k : Kx) : List Byte := Sec.random (k.rnd + 28) 32

/-- A hello of this gateway without a signature (Table 13-5); `kem` is its 1,568-byte part. -/
def Block.kxHello (b : Block) (k : Kx) (msg : Nat) (kem : List Byte) : List Byte :=
  b.kxHead k msg ++ Bits.leBytes 2 b.certs.length ++ Bits.leBytes 4 (b.regN R.secCompat) ++ k.nonce ++
  Sec.fit 97 (Config.ecdhPub k.ecdh) ++ Sec.fit 1568 kem ++ b.certs

/-- CERT_LEN of a hello. -/
def Kx.certLen (m : List Byte) : Nat := Bits.ofLe ((m.drop 6).take 2)

/-- Length of message number `n` (Table 13-5), from its bytes. -/
def Kx.length (n : Nat) (m : List Byte) : Nat :=
  match n with
  | 1 => 1709 + Kx.certLen m
  | 2 => 1709 + Kx.certLen m + 96
  | 3 => 104
  | 4 => 56
  | _ => 8

/-- MSG 2 without its signature. -/
def Kx.unsigned (m : List Byte) : List Byte := m.take (1709 + Kx.certLen m)

/-- H123 of an exchange. -/
def Kx.h123 (k : Kx) : List Byte := Sha.sha384 (k.m1 ++ k.m2 ++ k.m3)

/-- PRK of an exchange from the ECDH shared value and the ML-KEM shared key (R360). -/
def Kx.prk (k : Kx) : List Byte :=
  let peer := (((if k.init then k.m2 else k.m1).drop 44).take 97)
  let z := Sec.fit 48 (Config.ecdhShared k.ecdh peer)
  let s := Sec.fit 32 (if k.init then Config.kemOpen k.kem ((k.m2.drop 141).take 1568) else Config.kemShared ((k.m1.drop 141).take 1568) k.kem)
  Sha.hmac k.h123 (z ++ s)

/-- The port secret S (R360). -/
def Kx.portSecret (k : Kx) : List Byte := Sha.expand k.prk (Bits.ascii "dx64 port secret") 48

/-- The confirmation of MSG 4 (R360). -/
def Kx.confirm (k : Kx) : List Byte := Sha.hmac (Sha.expand k.prk (Bits.ascii "dx64 confirm") 48) k.h123

/-- An exchange ends without keys: the receive keys it installed go, its secrets are erased, and PEER_KEYX completes (R362). -/
def Block.kxFail (p status cause : Nat) (k : Kx) (b : Block) : Block :=
  let b := (b.dropExchange p k.rnd).onSec fun s => { s with kx := AMap.erase s.kx p }
  let b := (b.kxStat p 0 k.x).putFld (R.secPKxStat p) 27 24 cause
  match k.cmd with
  | some id => (b.bump R.secKxFailCnt).done id status 0
  | none => b

/-- A check of this side fails: MSG 5 carries the cause (R359). -/
def Block.kxReject (p cause : Nat) (k : Kx) (b : Block) : Block :=
  (b.kxSend p k (b.kxHead k 5 ++ [BitVec.ofNat 8 cause, 0#8])).kxFail p St.authFail cause k

/-- An exchange succeeds: the peer is the port's authenticated peer, a new transmit session begins and PEER_KEYX completes (R361,
R275, R216). -/
def Block.kxDone (p : Nat) (k : Kx) (b : Block) : Block :=
  let old := b.peerOf p
  let b := b.newSession p
  let b := { b with peerGw := AMap.set b.peerGw p k.peer }
  let b := if old = some k.peer then b else b.reslot
  let b := match old with
    | some g => if g = k.peer then b else b.pathCheck g
    | none => b
  let b := if (b.tp p).usable then b.pathBack k.peer else b.pathCheck k.peer
  let b := b.onSec fun s => { s with
    kx := AMap.erase s.kx p
    policies := AMap.set s.policies p k.policy
    peers := AMap.set s.peers p (k.serial, k.tcb) }
  let b := (b.kxStat p 5 k.x).putFld (R.secPKxStat p) 27 24 0
  match k.cmd with
  | some id => b.complete id ⟨St.ok, 0, 0, (b.tp p).txEpoch, k.serial % 2 ^ 64⟩
  | none => b

/-- What a policy says: ACCEPT_CNT, NO_DEBUG, MIN_SVN and the accepted values of M2. -/
def Sec.policyAccept (pol : List Byte) : List (List Byte) := (Bits.pieces 48 8 (pol.drop 16)).take (Bits.ofLe ((pol.drop 1).take 1))

/-- The first of checks 1 to 7 of R359 that a peer's hello fails, as its cause; `len` bytes came in its fragments. -/
def Block.kxCheck (b : Block) (p : Nat) (k : Kx) (n len : Nat) (m : List Byte) (v : KxView) : Nat :=
  let f (o w : Nat) : Nat := Bits.ofLe ((m.drop o).take w)
  if len ≠ 44 * Bits.ceilDiv (Kx.length n m) 44 ∨ f 0 1 ≠ n ∨ f 1 1 ≠ 1 then 10
  else if ¬v.chainOk then 1
  else if f 2 2 ≠ k.peer ∨ ((b.tp p).sender.map fun s => s % 65536) ≠ some (f 2 2) ∨ f 4 2 ≠ b.gw then 3
  else if f 8 4 / 65536 ≠ b.fld R.secCompat 31 16 then 5
  else if v.svn < Bits.ofLe ((k.policy.drop 4).take 4) then 6
  else if Bits.bit (Bits.ofLe ((k.policy.drop 2).take 1)) 0 ∧ v.debug then 7
  else if Sec.policyAccept k.policy ≠ [] ∧ Sec.fit 48 v.m2 ∉ Sec.policyAccept k.policy then 4
  else 0

/-- Checks 1 and 3 of R359 on MSG 3 and MSG 4. -/
def Block.kxCheckEnd (b : Block) (k : Kx) (n len : Nat) (m : List Byte) : Nat :=
  let f (o w : Nat) : Nat := Bits.ofLe ((m.drop o).take w)
  if len ≠ 44 * Bits.ceilDiv (Kx.length n m) 44 ∨ f 0 1 ≠ n ∨ f 1 1 ≠ 1 ∨ f 6 2 ≠ 0 then 10
  else if f 2 2 ≠ k.peer ∨ f 4 2 ≠ b.gw then 3
  else 0

/-- An exchange begins on a port: a fresh identifier and secrets. The gateway with the lower value sends MSG 1 (R356, R357). -/
def Block.kxStart (p peer : Nat) (policy : List Byte) (cmd : Option Nat) (b : Block) : Block :=
  let (ix, b) := b.draw 4
  let (rnd, b) := b.draw 144
  let x := (Config.freeWord ix).toNat % 65536
  let init := decide (b.gw < peer)
  let k : Kx := { cmd := cmd, init := init, peer := peer, policy := policy, x := x, px := none, step := if init then 2 else 1, rnd := rnd,
                  m1 := [], m2 := [], m3 := [], secret := [], serial := 0, tcb := [], until_ := b.now + 8000000000 * b.fld R.secKxCtl 7 0 }
  let b := b.onSec fun s => { s with frags := s.frags.filter fun (g : KxFrag) => g.port != p }
  let b := b.kxStat p (if init then 2 else 1) x
  if init then
    let m := b.kxHello k 1 (Config.kemKey k.kem)
    (b.setKx p { k with m1 := m }).kxSend p k m
  else (b.setKx p k).onSec fun s => { s with send := AMap.erase s.send p }

/-- The field of a policy descriptor that breaks Table 13-4. -/
def Sec.policyBad (d : List Byte) : Option Nat :=
  let f (o w : Nat) : Nat := Bits.ofLe ((d.drop o).take w)
  let n := f 1 1
  Req.firstBad ([(0, f 0 1 != 1), (1, decide (8 < n)), (2, decide (f 2 1 / 2 ≠ 0)), (3, f 3 1 != 0), (8, f 8 8 != 0)] ++
    (List.range 8).map fun k => (16 + 48 * k, decide (n ≤ k) && f (16 + 48 * k) 48 != 0))

/-- PEER_KEYX (R356). In its policy and in the port descriptor each reserved byte is a field of its own (DESIGN CHOICE, log entry 99). -/
def Sec.peerKeyx (id : Nat) (r : Req) (b : Block) : Block :=
  let p := r.a2
  let peer := r.u 32 2
  Ci.check8 id r ([(16, badAddr r.a0 r.a1 64), (24, r.a1 != 400), (28, decide (2 ≤ p)), (32, peer == b.gw)] ++
      (List.range 30).map fun i => (34 + i, r.nz (34 + i) 1)) (fun b =>
    let st := b.lfState p
    if st < 2 ∨ 4 < st then b.done id St.state st
    else if (b.peerOf p).any fun g => g != peer && b.admitSum (b.portSlot p) != 0 then b.done id St.state 1
    else if (b.kxOf p).isSome then b.done id St.busy 0
    else
      let d := b.dxBytes r.a0 400
      match Sec.policyBad d with
      | some o => b.badDesc id o
      | none => b.kxStart p peer d (some id)) b

/-- The newest complete set of fragments of a message number on a port: its exchange identifier and bytes. -/
def Block.kxMessage (b : Block) (p n : Nat) : Option (Nat × List Byte) :=
  let mine := b.sec.frags.filter fun g => g.port == p && g.msg == n
  mine.reverse.findSome? fun (g : KxFrag) =>
    let set := mine.filter fun h => h.x == g.x && h.count == g.count
    let parts : List (Option (List Byte)) := (List.range g.count).map fun i => (set.find? fun h => h.ix == i).map (·.bytes)
    let done := mine.any fun h => h.x == g.x && h.count == 0
    if g.count != 0 && parts.all Option.isSome && !done then some (g.x, (parts.filterMap fun o => o).flatten) else none

/-- The fragments of a message are done with; `keep` leaves a mark so that copies of it that still arrive are not taken again. -/
def Block.kxTaken (p n x : Nat) (keep : Bool) (b : Block) : Block :=
  b.onSec fun s => { s with frags := (s.frags.filter fun (g : KxFrag) => !(g.port == p && g.msg == n && g.x == x)) ++
    (if keep then [⟨p, n, x, 0, 0, []⟩] else []) }

/-- The responder takes a MSG 1: checks 1 to 7 of R359, then MSG 2 with its signature. A MSG 1 with a new identifier restarts the exchange, with
a fresh identifier of this side (R357, R362). -/
def Block.kxMsg1 (p x : Nat) (bytes : List Byte) (v : KxView) (k : Kx) (b : Block) : Block :=
  let b := b.kxTaken p 1 x true
  let c := b.kxCheck p k 1 bytes.length bytes v
  if c ≠ 0 then b.kxReject p c k
  else
    let m1 := bytes.take (Kx.length 1 bytes)
    let (rnd, b) := b.draw 144
    let (ix, b) := if k.px.isSome then b.draw 4 else (0, b)
    let k := if k.px.isSome then { k with x := (Config.freeWord ix).toNat % 65536 } else k
    let k := { k with px := some x, rnd := rnd, m1 := m1, serial := v.serial.toNat, tcb := Sec.fit 48 v.m2, step := 2 }
    let body := b.kxHello k 2 (Config.kemCipher ((m1.drop 141).take 1568) k.kem)
    let (sig, b) := b.sign (Sha.sha384 (m1 ++ body) ++ Bits.ascii "dx64 kx resp")
    let k := { k with m2 := body ++ sig }
    ((b.setKx p k).kxSend p k k.m2).kxStat p 2 k.x

/-- The initiator takes a MSG 2: every check of R359, then MSG 3; it derives S and installs its receive keys (R361). -/
def Block.kxMsg2 (p x : Nat) (bytes : List Byte) (v : KxView) (k : Kx) (b : Block) : Block :=
  let b := b.kxTaken p 2 x true
  let c := b.kxCheck p k 2 bytes.length bytes v
  if c ≠ 0 then b.kxReject p c k
  else if ¬v.sigOk then b.kxReject p 2 k
  else
    let m2 := bytes.take (Kx.length 2 bytes)
    let k := { k with px := some x, m2 := m2, serial := v.serial.toNat, tcb := Sec.fit 48 v.m2, step := 3 }
    let (sig, b) := b.sign (Sha.sha384 (k.m1 ++ k.m2) ++ Bits.ascii "dx64 kx init")
    let k := { k with m3 := b.kxHead k 3 ++ [0#8, 0#8] ++ sig }
    let k := { k with secret := k.portSecret }
    (((b.installRx p k.peer k.rnd k.secret).setKx p k).kxSend p k k.m3).kxStat p 3 k.x

/-- The responder takes a MSG 3: it derives S, installs all four keys, sends MSG 4 and completes (R361). -/
def Block.kxMsg3 (p x : Nat) (bytes : List Byte) (v : KxView) (k : Kx) (b : Block) : Block :=
  let b := b.kxTaken p 3 x true
  let c := b.kxCheckEnd k 3 bytes.length bytes
  if c ≠ 0 then b.kxReject p c k
  else if ¬v.sigOk then b.kxReject p 2 k
  else
    let k := { k with m3 := bytes.take 104 }
    let s := k.portSecret
    let b := (b.installRx p k.peer k.rnd s).kxDone p k
    (b.installTx p s).kxSend p k (b.kxHead k 4 ++ [0#8, 0#8] ++ k.confirm)

/-- The initiator takes a MSG 4: the confirmation verifies, its transmit keys are installed and PEER_KEYX completes (R361). -/
def Block.kxMsg4 (p x : Nat) (bytes : List Byte) (k : Kx) (b : Block) : Block :=
  let b := b.kxTaken p 4 x true
  let c := b.kxCheckEnd k 4 bytes.length bytes
  if c ≠ 0 then b.kxReject p c k
  else if (bytes.drop 8).take 48 ≠ k.confirm then b.kxReject p 2 k
  else ((b.kxDone p k).installTx p k.secret).onSec fun s => { s with send := AMap.erase s.send p }

/-- A responder that may answer a MSG 1 without a PEER_KEYX (R362). -/
def Block.autoResponds (b : Block) (p sender : Nat) : Bool :=
  b.bit R.secKxCtl 8 && b.peerOf p == some sender && (AMap.get? b.sec.policies p).isSome && decide (sender < b.gw)

/-- KX_MESSAGE_RX: message `n` of a port is complete; `v` is what its certificates and signature say (R357 to R362). -/
def Sec.kxMessage (p n : Nat) (v : KxView) (b : Block) : Block :=
  match b.kxMessage p n with
  | none => b
  | some (x, bytes) =>
    match b.kxOf p with
    | none =>
      if n ≠ 1 then b.kxTaken p n x true
      else
        let sender := Bits.ofLe ((bytes.drop 2).take 2)
        if b.autoResponds p sender then
          let b := b.kxStart p sender (AMap.getD b.sec.policies p []) none
          match b.kxOf p with
          | some k => b.kxMsg1 p x bytes v k
          | none => b
        else (b.kxTaken p 1 x false).bump R.secKxIgnoreCnt
    | some k =>
      if n = 5 ∧ k.px.any (· != x) then b.kxTaken p 5 x true
      else if n = 5 then ((b.kxTaken p 5 x true).onSec fun s => { s with send := AMap.erase s.send p }).kxFail p St.authFail 9 k
      else if k.init then
        if n = 2 ∧ k.step = 2 then b.kxMsg2 p x bytes v k
        else if n = 4 ∧ k.step = 3 ∧ k.px = some x then b.kxMsg4 p x bytes k
        else b.kxTaken p n x true
      else if n = 1 ∧ k.px ≠ some x then b.kxMsg1 p x bytes v k
      else if n = 3 ∧ k.step = 2 ∧ k.px = some x then b.kxMsg3 p x bytes v k
      else b.kxTaken p n x true

/-- KX_TIMEOUT of a port: its exchange has not ended TIMEOUT_S after dispatch (R362). -/
def Sec.kxTimeout (p : Nat) (b : Block) : Block :=
  match b.kxOf p with
  | some k => if k.until_ ≤ b.now then (b.onSec fun s => { s with send := AMap.erase s.send p }).kxFail p St.timeout 8 k else b
  | none => b

/-- A step of a port's exchange, unless it would end the exchange at the moment of an alarm: that counts as during it (R366). -/
def Block.unlessCut (p : Nat) (f : Block → Block) (b : Block) : Block :=
  let b' := f b
  if b.cutOff && (b.kxOf p).isSome && (b'.kxOf p).isNone then b else b'

/-! ## The key store (R353, R354) -/

/-- The traffic slots, chain values and port secrets are erased, with what key agreement holds; no port has an authenticated peer
(R354, R365). -/
def Block.eraseTraffic (b : Block) : Block :=
  let b := b.eraseCc.onSec fun s => { s with kx := [], send := [], frags := [], boot := [], policies := [], peers := [] }
  b.gws.foldl (fun b g => b.pathCheck g) { b with peerGw := [] }

/-- The whole key store is erased (R353, R365). -/
def Block.eraseStore (b : Block) : Block := b.eraseTraffic.onSec fun s => { s with cdi1 := [], cdi := [] }

/-! ## Tamper sensors (R363, R364) -/

/-- A VCORE limit in millivolts lies outside the fixed limits or inside the operating range (R363, log entry 51). -/
def Sec.voltBad (x : Nat) : Bool := decide (x < 560 ∨ 840 < x ∨ 605 < x ∧ x < 795)

/-- A temperature limit in degrees lies outside the fixed limits or inside the operating range (R363, log entry 51). -/
def Sec.tempBad (x : Int) : Bool := decide (x < -40 ∨ 125 < x ∨ 0 < x ∧ x < 105)

/-- The offset of the first field of a tamper-limit descriptor that is out of its range: the supply limits in millivolts, the
temperature limits in degrees, the LOCK byte and the bytes that are zero. -/
def Sec.tamperBad (d : List Byte) : Option Nat :=
  let f (o w : Nat) : Nat := Bits.ofLe ((d.drop o).take w)
  Req.firstBad ([(0, Sec.voltBad (f 0 2)), (2, Sec.voltBad (f 2 2)), (4, Sec.tempBad (Bits.toInt 16 (f 4 2))),
    (6, Sec.tempBad (Bits.toInt 16 (f 6 2))), (8, decide (1 < f 8 1))] ++ (List.range 7).map fun i => (9 + i, f (9 + i) 1 != 0))

/-- TAMPER_CONFIG (R363). -/
def Sec.tamperConfig (id : Nat) (r : Req) (b : Block) : Block :=
  Ci.check8 id r [(16, badAddr r.a0 r.a1 64), (24, r.a1 != 16), (28, r.nz 28 4), (32, r.nz 32 32)] (fun b =>
    if b.bit R.secStat 26 then b.done id St.state 1
    else
      let d := b.dxBytes r.a0 16
      let f (o w : Nat) : Nat := Bits.ofLe ((d.drop o).take w)
      match Sec.tamperBad d with
      | some o => b.badDesc id o
      | none =>
        let b := b.onSec fun s => { s with vcore := ((f 0 2 : Nat), (f 2 2 : Nat)), temp := (Bits.toInt 16 (f 4 2), Bits.toInt 16 (f 6 2)) }
        (if f 8 1 = 1 then b.putBit R.secStat 26 true else b).ok id 0) b

/-- The sensors of Table 13-7 whose trip condition a reading meets; in Calm the VCORE sensor is off, and the CLOCK sensor watches the reference
only. -/
def Block.tripping (b : Block) (x : TamperTick) (calm : Bool) : Nat :=
  Bits.ofBool x.mesh + 2 * Bits.ofBool x.light + 4 * Bits.ofBool (decide (x.vcore < b.sec.vcore.1 ∨ b.sec.vcore.2 < x.vcore) && !calm) +
  8 * Bits.ofBool (decide (500 < x.vaon ∧ (x.vaon < 720 ∨ 880 < x.vaon))) + 16 * Bits.ofBool (decide (50 < x.ref.natAbs) || decide (x.period < 80) && !calm) +
  32 * Bits.ofBool (decide (x.temp < b.sec.temp.1 ∨ b.sec.temp.2 < x.temp))

/-- Filter times of the sensors (Table 13-7). -/
def Sec.filters : List Time := [8000, 8000, 16, 16, 80000, 8000000]

/-- The sensors, of those that trip now, whose condition has held for its filter time; one short engine clock period is enough (R364). -/
def TamperTick.lasting (x : TamperTick) (now : Nat) (calm : Bool) : Nat :=
  Bits.sum ((List.range 6).map fun i =>
    if Bits.bit now i && (decide (Sec.filters.getD i 0 ≤ x.held.getD i 0) || (i == 4 && decide (x.period < 80) && !calm)) then 2 ^ i else 0)

end Sys2Proof.Machine
end

