-- ==== Sys2Proof/Machine/Ptp.lean ====
section
/-! DEFINITION. PTP messages in Ethernet frames (R402, R407, R408): the three encapsulations that the transparent clock knows, the fields of
a message by the standard's layout (log entry 52), and what the transparent clock changes in a frame. -/

namespace Sys2Proof

/-- A big-endian field of a frame. -/
def PtpMsg.be (m : PtpMsg) (at_ n : Nat) : Nat := Bits.ofBe ((m.frame.drop at_).take n)

/-- The port of a PTP event or general message. -/
def PtpMsg.udpPort (p : Nat) : Bool := p == 319 || p == 320

/-- Where the PTP message of a frame begins, behind its Ethernet header or its UDP header; `none` for any other frame (R407). -/
def PtpMsg.start (m : PtpMsg) : Option Nat :=
  let ip4 := 14 + 4 * (m.be 14 1 % 16)
  match m.be 12 2 with
  | 0x88F7 => some 14
  | 0x0800 => if m.be 14 1 / 16 = 4 ∧ m.be 23 1 = 17 ∧ PtpMsg.udpPort (m.be (ip4 + 2) 2) then some (ip4 + 8) else none
  | 0x86DD => if m.be 20 1 = 17 ∧ PtpMsg.udpPort (m.be 56 2) then some 62 else none
  | _ => none

/-- A field of the PTP message of a frame. -/
def PtpMsg.fld (m : PtpMsg) (at_ n : Nat) : Nat := m.be (m.start.getD 0 + at_) n

/-- Kind of a message: 0 Sync, 1 Follow_Up, 2 Delay_Req, 3 Delay_Resp, 4 Announce, 5 any other, and a frame without one. -/
def PtpMsg.kind (m : PtpMsg) : Nat :=
  match m.start, m.fld 0 1 % 16 with
  | none, _ => 5
  | some _, 0 => 0
  | some _, 8 => 1
  | some _, 1 => 2
  | some _, 9 => 3
  | some _, 11 => 4
  | some _, _ => 5

/-- domainNumber. -/
def PtpMsg.domain (m : PtpMsg) : Nat := m.fld 4 1
/-- twoStepFlag. -/
def PtpMsg.twoStep (m : PtpMsg) : Bool := Bits.bit (m.fld 6 1) 1
/-- leap61. -/
def PtpMsg.leap61 (m : PtpMsg) : Bool := Bits.bit (m.fld 7 1) 0
/-- leap59. -/
def PtpMsg.leap59 (m : PtpMsg) : Bool := Bits.bit (m.fld 7 1) 1
/-- correctionField, in 2^-16 ns. -/
def PtpMsg.correction (m : PtpMsg) : Int := Bits.toInt 64 (m.fld 8 8)
/-- sourcePortIdentity. -/
def PtpMsg.source (m : PtpMsg) : BitVec 80 := BitVec.ofNat 80 (m.fld 20 10)
/-- sequenceId. -/
def PtpMsg.seq (m : PtpMsg) : Nat := m.fld 30 2
/-- The timestamp of a message in 0.125 ns units. -/
def PtpMsg.origin (m : PtpMsg) : Int := ((m.fld 34 6 * 1000000000 + m.fld 40 4) * 8 : Nat)
/-- currentUtcOffset of an Announce. -/
def PtpMsg.utcOffset (m : PtpMsg) : BitVec 16 := BitVec.ofNat 16 (m.fld 44 2)
/-- grandmasterPriority1 of an Announce. -/
def PtpMsg.priority1 (m : PtpMsg) : Nat := m.fld 47 1
/-- clockClass of an Announce. -/
def PtpMsg.clockClass (m : PtpMsg) : Nat := m.fld 48 1
/-- clockAccuracy of an Announce. -/
def PtpMsg.accuracy (m : PtpMsg) : Nat := m.fld 49 1
/-- offsetScaledLogVariance of an Announce. -/
def PtpMsg.variance (m : PtpMsg) : Nat := m.fld 50 2
/-- grandmasterPriority2 of an Announce. -/
def PtpMsg.priority2 (m : PtpMsg) : Nat := m.fld 52 1
/-- grandmasterIdentity of an Announce. -/
def PtpMsg.gmId (m : PtpMsg) : BitVec 64 := BitVec.ofNat 64 (m.fld 53 8)
/-- stepsRemoved of an Announce. -/
def PtpMsg.steps (m : PtpMsg) : Nat := m.fld 61 2

/-- A frame with some of its bytes replaced. -/
def PtpMsg.put (m : PtpMsg) (at_ : Nat) (bs : List Byte) : PtpMsg :=
  { m with frame := m.frame.take at_ ++ bs ++ m.frame.drop (at_ + bs.length) }

/-- The one's complement sum of 16-bit words. -/
def PtpMsg.fold (n : Nat) : Nat := if n = 0 then 0 else (n - 1) % 65535 + 1

/-- A UDP checksum after a field of eight bytes has gone from `x` to `y`; a checksum of 0 says that there is none (R408). -/
def PtpMsg.sum (c x y : Nat) : Nat :=
  let ws (v : Nat) : List Nat := [v % 65536, v / 65536 % 65536, v / 2 ^ 32 % 65536, v / 2 ^ 48]
  if c = 0 then 0
  else
    let n := 65535 - PtpMsg.fold (65535 - c + Bits.sum ((ws x).map fun w => 65535 - w) + Bits.sum (ws y))
    if n = 0 then 65535 else n

/-- A message with its correctionField raised, and its UDP checksum updated (R408). -/
def PtpMsg.correct (m : PtpMsg) (d : Int) : PtpMsg :=
  match m.start with
  | none => m
  | some k =>
    let x := m.fld 8 8
    let y := Bits.ofInt 64 (m.correction + d)
    let m' := m.put (k + 8) (Bits.beBytes 8 y)
    if k = 14 then m' else m'.put (k - 2) (Bits.beBytes 2 (PtpMsg.sum (m.be (k - 2) 2) x y))

/-- The FCS of a frame: the CRC-32 of Ethernet, least significant byte first (log entry 52). -/
def PtpMsg.fcs (m : PtpMsg) : List Byte :=
  Bits.leBytes 4 (~~~ (Crc.run 0x04C11DB7#32 0xFFFFFFFF#32 (m.frame.flatMap Crc.lsbBits)).reverse).toNat

end Sys2Proof
end

