-- ==== Sys2Proof/Machine/Tu.lean ====
section
/-! DEFINITION. The time unit (chapter 15): local time and its steps, the PTP domains, selection and switch-over, the transparent
clock, time messages, pulses, input timestamps and the offset measurement. -/

namespace Sys2Proof.Machine

/-- The block with its TU changed. -/
def Block.onTu (f : TuState → TuState) (b : Block) : Block := { b with tu := f b.tu }

/-- One second in 0.125 ns units. -/
abbrev second : Nat := 8000000000

/-- An instance before PTP_CONFIG. -/
def TuInst.init : TuInst :=
  { conf := false, dom := 0, ports := 1, logSync := 0, logDreq := 0, annTmo := 3, gms := [], gm := none, lastAnn := 0, lastSync := 0, sync := none,
    t21 := none, dreq := none, nextReq := 0, seq := 0, mpd := none, off := none, good := 0, ref := 0, far := 0, lossy := 0 }

/-- A domain instance. -/
def Block.inst (b : Block) (d : Nat) : TuInst := AMap.getD b.tu.inst d TuInst.init

/-- The block with a domain instance changed. -/
def Block.modInst (d : Nat) (f : TuInst → TuInst) (b : Block) : Block := b.onTu fun t => { t with inst := AMap.set t.inst d (f (b.inst d)) }

/-- State of an instance (Table 15-2). -/
def Block.instState (b : Block) (d : Nat) : Nat := b.fld R.tuStat (3 * d + 2) (3 * d)

/-- An instance enters a state. -/
def Block.setInst (d s : Nat) (b : Block) : Block :=
  if b.instState d = s then b
  else (b.putFld R.tuStat (3 * d + 2) (3 * d) s).trace 8 3 devJob (Bits.leBytes 1 d ++ Bits.leBytes 1 s)

/-- The selected instance. -/
def Block.selected (b : Block) : Nat := b.fld R.tuStat 28 28

/-! ## Local time (R397 to R399, R404) -/

/-- The clock starts anew at a local time; its frequency adjustment stays. -/
def Block.rebase (x : Int) (b : Block) : Block :=
  let r := b.clk.rem - b.clk.slewed b.now
  { b with clk := { b.clk with base := x, at_ := b.now, rem := r, slewAt := b.now, ppb := b.clk.ppb } }

/-- The servo's frequency adjustment changes: TU_FREQ_ADJ, and the record of the last 64 s (R399, R405). -/
def Block.setPpt (x : Int) (b : Block) : Block :=
  let b := b.rebase b.localTime
  let b := { b with clk := { b.clk with ppt := x } }
  let b := b.putN R.tuFreqAdj (Bits.ofInt 32 x)
  b.onTu fun t =>
    let old := t.hist.filter fun e => b.now < e.1 + 64 * second
    let before := (t.hist.filter fun e => e.1 + 64 * second ≤ b.now).take 1
    { t with hist := (b.now, x) :: old ++ before }

/-- Local time starts at 0 s and runs free, as the device comes up (R398, log entry 102). -/
def Block.clockStart (b : Block) : Block :=
  { b with clk := { TuClock.init with at_ := b.now }, tu := { b.tu with hist := [(b.now, 0)] } }

/-- The mean frequency adjustment of the last 64 s (R405); `stop` is when the newest entry of the list ended. -/
def Tu.meanFrom (start : Nat) : Nat → List (Time × Int) → Int × Nat
  | _, [] => (0, 0)
  | stop, (t, x) :: es =>
    let lo := max t start
    let (s, n) := Tu.meanFrom start (min stop t) es
    (s + x * ((stop - lo : Nat) : Int), n + (stop - lo))

/-- The mean frequency adjustment of the last 64 s. -/
def Block.meanPpt (b : Block) : Int :=
  let (s, n) := Tu.meanFrom (b.now - 64 * second) b.now b.tu.hist
  if n = 0 then b.clk.ppt else s / (n : Int)

/-- A pulse output that holds no programme. -/
def PulseOut.init : PulseOut := ⟨⟨0, 0, 0, 0, false⟩, none, 0, false⟩

/-- A pulse output. -/
def Block.po (b : Block) (n : Nat) : PulseOut := AMap.getD b.tu.outs n PulseOut.init

/-- The block with a pulse output set, and TU_PO_STAT after it. -/
def Block.setPo (n : Nat) (x : PulseOut) (b : Block) : Block :=
  (b.onTu fun t => { t with outs := AMap.set t.outs n x }).putN (R.tuPoStat n) (4 * Bits.ofBool x.active + x.prog.mode)

/-- The local time of the next active edge of an output. -/
def PulseOut.edge (x : PulseOut) : Int := x.prog.start + ((x.k * x.prog.period : Nat) : Int)

/-- A pulse output runs: its function is RUNNING or DRAINING. -/
def Block.poRuns (b : Block) (n : Nat) : Bool := b.funcMode (0x500 + n) == 1 || b.funcMode (0x500 + n) == 2

/-- An output misses the active edges that fall after `lo` and not after `hi` (R414): how many, and the output behind them. -/
def PulseOut.miss (lo hi : Int) (x : PulseOut) : Nat × PulseOut :=
  if x.prog.mode = 0 ∨ hi < x.edge ∨ x.edge ≤ lo then (0, x)
  else if x.prog.mode = 1 then (1, { x with prog := { x.prog with mode := 0 } })
  else
    let n := (hi - x.edge).toNat / (max 1 x.prog.period) + 1
    (n, { x with k := x.k + n })

/-- A programme takes effect in an output: a periodic one goes on with its first edge that is still to come. -/
def PulseOut.take (p : Pulse) (t : Int) (x : PulseOut) : PulseOut :=
  let k := if p.mode = 2 ∧ p.start ≤ t then ((t - p.start).toNat / max 1 p.period + 1) else 0
  { x with prog := p, next := none, k := k, active := false }

/-- The current pulse of an output is over: a one-shot has run, and the programme that waited takes effect while the output runs (R413). -/
def Block.pulseOver (b : Block) (n : Nat) (t : Int) (x : PulseOut) : PulseOut :=
  let x := { x with active := false, k := x.k + 1, prog := { x.prog with mode := if x.prog.mode = 1 then 0 else x.prog.mode } }
  match x.next with
  | some p => if b.funcMode (0x500 + n) = 1 then x.take p t else x
  | none => x

/-- The programme that an output holds: the one that waits, else the one in force. -/
def PulseOut.held (x : PulseOut) : Pulse := x.next.getD x.prog

/-- The one-shot that an output holds is missed when its start has passed (R414). -/
def Block.poMissed (n : Nat) (b : Block) : Block :=
  let x := b.po n
  if x.held.mode ≠ 1 ∨ b.localTime < x.held.start then b
  else
    let p := { x.held with mode := 0 }
    ((b.bump (R.tuPoMissCnt n)).setBits R.tuSticky 32).setPo n (if x.next.isSome then { x with next := some p } else { x with prog := p })

/-- A one-shot whose start has passed while its output is OFF is missed (R414). -/
def Block.poPassed (n : Nat) (b : Block) : Block := if b.poRuns n then b else b.poMissed n

/-- Every output that is OFF misses the one-shot that has passed. -/
def Block.poSettle (b : Block) : Block := (List.range 4).foldl (fun b n => b.poPassed n) b

/-- A step forward of local time emits no edge that falls inside it (R414); a pulse whose end it passes is over. -/
def Block.poStep (lo hi : Int) (n : Nat) (b : Block) : Block :=
  if !b.poRuns n then b
  else
    let x := b.po n
    let ended := x.active && decide (x.edge + (x.prog.width : Int) ≤ hi)
    if x.active && !ended then b
    else
      let x := if ended then b.pulseOver n lo x else x
      let (m, x) := x.miss lo hi
      let b := if m = 0 then b else (b.bumpN (R.tuPoMissCnt n) m).setBits R.tuSticky 32
      b.setPo n x

/-- A step of local time by `d` units (R399, R414, R464, R318). -/
def Block.tuStep (d : Int) (b : Block) : Block :=
  if d = 0 then b
  else
    let t0 := b.localTime
    let before := b.traceTime
    let b := (b.rebase (t0 + d)).setBits R.tuSticky 1
    let b := b.trace 8 1 devJob (Bits.leBytes 8 before ++ Bits.leBytes 8 b.traceTime)
    let b := b.pmStep.onTu fun t => { t with meas := t.meas.map fun (e : Nat × OffMeas) => (e.1, { e.2 with steps := e.2.steps + d }) }
    if 0 < d then (List.range 4).foldl (fun b n => b.poStep t0 (t0 + d) n) b else b

/-- The slew ends where it stands; a DOMAIN_SELECT that waits for it completes with a status. -/
def Block.slewStop (st detail : Nat) (b : Block) : Block :=
  let b := b.rebase b.localTime
  let b := ({ b with clk := { b.clk with rem := 0 } }).putBit R.tuStat 29 false
  match b.tu.sel with
  | none => b
  | some (cmd, s, d) =>
    let b := b.onTu fun t => { t with sel := none }
    if st = St.ok then b.complete cmd ⟨St.ok, 0, 0, Bits.ofInt 64 s, Bits.ofInt 64 d⟩ else b.done cmd st detail

/-- SLEW_END: the remainder has reached 0 (R404). -/
def Tu.slewEnd (b : Block) : Block :=
  if b.bit R.tuStat 29 ∧ b.clk.slewed b.now = b.clk.rem then b.slewStop St.ok 0 else b

/-- A switch makes an instance the selected domain (R404): a step of at most 1 ns, the remainder slewed. A switch ends holdover and
interrupts a slew (R406). -/
def Block.switchTo (d : Nat) (cmd : Option Nat) (b : Block) : Block :=
  let b := if b.bit R.tuStat 29 then b.slewStop St.state 4 else b
  let delta := (b.inst d).off.getD 0
  let s := max (-8) (min 8 delta)
  let b := (b.putFld R.tuStat 28 28 d).putBit R.tuStat 30 false
  let b := (b.setBits R.tuSticky 8).trace 8 2 devJob (Bits.leBytes 1 d ++ Bits.leBytes 4 (Bits.ofInt 32 delta))
  let b := b.tuStep s
  let b := [0, 1].foldl (fun b i => b.modInst i fun x => { x with off := x.off.map fun o => o - s, far := 0 }) b
  let r := delta - s
  if r = 0 then
    match cmd with
    | some id => b.complete id ⟨St.ok, 0, 0, Bits.ofInt 64 s, Bits.ofInt 64 delta⟩
    | none => b
  else
    let b := { b with clk := { b.clk with rem := r, slewAt := b.now, ppb := b.fld R.tuSlew 9 0 } }
    (b.putBit R.tuStat 29 true).onTu fun t => { t with sel := cmd.map fun id => (id, s, delta) }

/-- Holdover begins: the mean frequency adjustment of the last 64 s is kept (R405). -/
def Block.holdover (b : Block) : Block :=
  if b.bit R.tuStat 30 then b else ((b.setPpt b.meanPpt).putBit R.tuStat 30 true).setBits R.tuSticky 16

/-- The selected instance is lost to the TU: it switches to the other when that is LOCKED, else it enters holdover (R405). -/
def Block.loseSelected (auto : Bool) (b : Block) : Block :=
  let o := 1 - b.selected
  if auto && b.instState o == 3 then b.switchTo o none else b.holdover

/-! ## PTP domains (R401 to R403) -/

/-- The announce interval of the default profile, 2 s (log entry 52). -/
abbrev annInt : Time := 2 * second

/-- A signed 8-bit field. -/
def Tu.log (v : Nat) : Int := Bits.toInt 8 v

/-- 2^k seconds in 0.125 ns units. -/
def Tu.interval (k : Int) : Nat := if 0 ≤ k then second * 2 ^ k.toNat else second / 2 ^ (-k).toNat

/-- The function of an instance is OFF, be it starting (R55). -/
def Block.instOff (b : Block) (d : Nat) : Bool := b.funcMode (0x400 + d) == 0 || b.funcMode (0x400 + d) == 3

/-- PTP_CONFIG (R401, Table 15-1). Only an instance that has been configured has a DOMAIN_NUM to differ from (log entry 103). -/
def Tu.ptpConfig (id : Nat) (r : Req) (b : Block) : Block :=
  let d := r.a2
  let set := r.u 37 1 == 1
  let sync := Tu.log (r.u 34 1)
  let dreq := Tu.log (r.u 35 1)
  Ci.check8 id r [(16, decide (2 ^ 48 ≤ r.a0)), (24, decide (999999999 < r.a1)), (28, decide (1 < d)),
      (32, decide (127 < r.u 32 1 ∨ d ≤ 1 ∧ (b.inst (1 - d)).conf ∧ (b.inst (1 - d)).dom = r.u 32 1)), (33, r.u 33 1 == 0 || decide (3 < r.u 33 1)),
      (34, decide (sync < -7 ∨ 1 < sync)), (35, decide (dreq < -7 ∨ 5 < dreq)), (36, decide (r.u 36 1 < 2 ∨ 10 < r.u 36 1)),
      (37, decide (1 < r.u 37 1)), (38, r.nz 38 26)] (fun b =>
    if set && (b.instState 0 == 3 || b.instState 1 == 3) then b.done id St.state 1
    else if !set && !b.instOff d then b.done id St.state 2
    else
      let b := if b.instOff d then
          (b.modInst d fun _ => { TuInst.init with conf := true, dom := r.u 32 1, ports := r.u 33 1, logSync := sync, logDreq := dreq, annTmo := r.u 36 1 }).putFld
            (R.tuDStat d) 14 8 (r.u 32 1)
        else b
      let b := if set then b.tuStep (((r.a0 * 1000000000 + r.a1) * 8 : Nat) - b.localTime) else b
      b.ok id 0) b

/-- A master is better than another by the default best master clock algorithm. -/
def PtpGm.better (x y : PtpGm) : Bool :=
  let k (g : PtpGm) : List Nat := [g.pri1, g.cls, g.acc, g.var, g.pri2, g.gmId.toNat, g.steps, g.source.toNat]
  decide (k x < k y)

/-- A master is qualified: two Announces within four announce intervals, and fewer than 255 steps (log entry 52). -/
def PtpGm.qualified (now : Time) (g : PtpGm) : Bool :=
  decide (2 ≤ (g.times.filter fun t => now < t + 4 * annInt).length) && decide (g.steps < 255)

/-- An instance follows the best qualified master it hears (R402). -/
def Block.chooseGm (d : Nat) (b : Block) : Block :=
  let x := b.inst d
  let best := (x.gms.filter fun g => g.qualified b.now).foldl (fun (m : Option PtpGm) g => match m with
    | none => some g
    | some y => if g.better y then some g else m) none
  match best with
  | none => b
  | some g =>
    let same := (x.gm.map (·.source)) == some g.source
    let b := b.modInst d fun x => if same then { x with gm := some g }
      else { x with gm := some g, sync := none, t21 := none, dreq := none, mpd := none, off := none, good := 0, lastSync := b.now }
    let b := ((b.putFld (R.tuDStat d) 7 0 g.port).putN (R.tuDGmLo d) (g.gmId.toNat % 2 ^ 32)).putN (R.tuDGmHi d) (g.gmId.toNat / 2 ^ 32)
    if b.instState d = 1 ∨ b.instState d = 4 then b.setInst d 2 else b

/-- The servo steers local time by a sample of the selected, LOCKED instance: its new adjustment is a free value within ±100 ppm (R399, log
entry 53). -/
def Block.servo (b : Block) : Block :=
  let (i, b) := b.free
  let x := Bits.toInt 32 (Config.freeWord i).toNat
  b.setPpt (max (-100000000) (min 100000000 x))

/-- Local time steps by an offset that was measured: the instances' samples lie by as much less ahead of it (R402). -/
def Block.stepBy (o : Int) (b : Block) : Block :=
  [0, 1].foldl (fun b i => b.modInst i fun x => { x with off := x.off.map fun v => v - o, far := 0, lossy := 0 }) (b.tuStep o)

/-- The first domain is LOCKED: local time is VALID, and from now on samples are judged against it, not against the first of a run
(R398, log entry 52). -/
def Block.setValid (d : Nat) (b : Block) : Block :=
  (((b.modInst d fun x => { x with ref := 0 }).modInst (1 - d) fun x => { x with ref := 0, good := 0 }).putBit R.tuStat 31 true)

/-- An instance reaches LOCKED with a sample of `o`. The first steps local time to it when it lies beyond STEP_NS (R402); in holdover the TU
switches to it (R405), and to the first one when it is not the selected (DESIGN CHOICE, log entry 103). -/
def Block.reachLocked (d : Nat) (o : Int) (b : Block) : Block :=
  let first := !b.timeValid
  let stp := 8 * b.fld R.tuStepCfg 19 0
  let b := b.setInst d 3
  let b := if first then (if stp < o.natAbs then b.stepBy o else b).setValid d else b
  if first && b.selected != d || b.bit R.tuStat 30 && (b.bit R.tuDomCtl 0 || b.selected == d) then b.switchTo d none else b

/-- An offset sample of an instance: how far its grandmaster is ahead of local time, in 0.125 ns units (R402, R403). While local time has never
been set, samples are compared with the first of them (log entry 52). -/
def Block.sample (d : Nat) (o : Int) (b : Block) : Block :=
  let lock : Int := 8 * b.fld R.tuLockCfg 15 0
  let loss : Int := 8 * b.fld R.tuLockCfg 31 16
  let stp : Int := 8 * b.fld R.tuStepCfg 19 0
  let big (x k : Int) : Bool := decide (k < x ∨ x < -k)
  let fresh := !b.timeValid
  let b := b.modInst d fun x =>
    let ref := if fresh then (if x.good = 0 then o else x.ref) else 0
    let ok := !big (o - ref) lock
    { x with off := some o, ref := if ok then ref else (if fresh then o else 0), good := if ok then x.good + 1 else (if fresh then 1 else 0),
             far := if big o stp then x.far + 1 else 0, lossy := if big (o - ref) loss then x.lossy + 1 else 0 }
  let b := b.putN (R.tuDOffset d) (Bits.ofInt 32 o)
  if b.instState d = 2 then (if 16 ≤ (b.inst d).good then b.reachLocked d o else b)
  else if b.instState d = 3 ∧ b.selected = d ∧ !b.bit R.tuStat 30 then
    if b.bit R.tuStat 29 then b
    else if 4 ≤ (b.inst d).far then b.stepBy o
    else b.servo
  else b

/-- Correction of an Ethernet port for ingress or egress, signed (TU_ETH_ADJ). -/
def Block.ethAdj (b : Block) (port : Nat) (tx : Bool) : Int :=
  let v := b.regN (R.tuEthAdj (port % 2))
  Bits.toInt 16 (if tx then Bits.fld v 15 0 else Bits.fld v 31 16)

/-- A correctionField in 0.125 ns units. -/
def Tu.corr (c : Int) : Int := c / 8192

/-- An Announce of an instance: its source is kept with the announces of the last four intervals, sources that announce too seldom are
forgotten, and the best source is chosen (R402). -/
def Block.announceIn (d : Nat) (m : PtpMsg) (b : Block) : Block :=
  let x := b.inst d
  let old := x.gms.find? fun g => g.source == m.source
  let times := b.now :: ((old.map (·.times)).getD []).filter fun t => b.now < t + 4 * annInt
  let g : PtpGm := ⟨m.source, m.ethPort, m.gmId, m.priority1, m.clockClass, m.accuracy, m.variance, m.priority2, m.steps, m.utcOffset, m.leap61, m.leap59, times⟩
  let keep (h : PtpGm) : Bool := h.source != m.source && h.times.any fun t => decide (b.now < t + x.annTmo * annInt)
  (b.modInst d fun x => { x with gms := g :: x.gms.filter keep, lastAnn := b.now }).chooseGm d

/-- The time from the source to the device, as a Sync measures it: with the path delay known it is a sample of the offset (R402). -/
def Block.syncIn (d : Nat) (t21 : Int) (b : Block) : Block :=
  match (b.inst d).mpd with
  | some p => (b.modInst d fun x => { x with t21 := some t21 }).sample d (p - t21)
  | none => b.modInst d fun x => { x with t21 := some t21 }

/-- A message is one for an instance: enabled, of its domain, on a port of it that serves. -/
def Block.ptpFor (b : Block) (d : Nat) (m : PtpMsg) : Bool :=
  decide (d ≤ 1) && m.start.isSome && b.instState d != 0 && m.domain == (b.inst d).dom && Bits.bit (b.inst d).ports m.ethPort && decide (m.ethPort ≤ 1) &&
  !b.funcOff (0x300 + m.ethPort)

/-- PTP_MESSAGE_RX: a message that an instance hears (R402). -/
def Tu.ptpMessage (d : Nat) (m : PtpMsg) (b : Block) : Block :=
  let x := b.inst d
  let st := b.instState d
  if !b.ptpFor d m then b
  else
    let mine := (x.gm.map (·.source)) == some m.source
    let rx := b.localTime + b.ethAdj m.ethPort false
    match m.kind with
    | 4 => b.announceIn d m
    | 0 =>
      if st < 2 ∨ st = 4 ∨ !mine then b
      else
        let b := (b.bump (R.tuDSyncCnt d)).modInst d fun x => { x with lastSync := b.now }
        if m.twoStep then b.modInst d fun x => { x with sync := some (m.seq, rx - Tu.corr m.correction) }
        else b.syncIn d (rx - m.origin - Tu.corr m.correction)
    | 1 =>
      match x.sync with
      | some (q, t2) => if mine && q == m.seq && 2 ≤ st && st != 4 then
          (b.modInst d fun x => { x with sync := none }).syncIn d (t2 - m.origin - Tu.corr m.correction) else b
      | none => b
    | 3 =>
      match x.dreq, x.t21 with
      | some (q, t3), some t21 => if mine && q == m.seq then
          let t43 := m.origin - Tu.corr m.correction - t3
          let p := (t21 + t43) / 2
          (b.modInst d fun x => { x with dreq := none, mpd := some p }).putN (R.tuDMpd d) (Bits.ofInt 32 p)
        else b
      | _, _ => b
    | _ => b

/-- PTP_DELAY_REQ_SEND: at each logMinDelayReqInterval an instance with a grandmaster sends a Delay_Req (R402). -/
def Tu.delayReq (d : Nat) (b : Block) : Block :=
  let x := b.inst d
  match x.gm with
  | none => b
  | some g =>
    if b.instState d < 2 ∨ b.instState d = 4 ∨ b.now < x.nextReq ∨ b.funcMode (0x300 + g.port) ≠ 1 then b
    else
      let t3 := b.localTime + b.ethAdj g.port true
      let b := b.modInst d fun x => { x with dreq := some (x.seq, t3), seq := (x.seq + 1) % 65536, nextReq := b.now + Tu.interval x.logDreq }
      b.emit (.delayReq g.port x.dom x.seq)

/-- PTP_INSTANCE_LOST: no Announce, no Sync, or four samples past LOSS_NS (R403). -/
def Tu.instanceLost (d : Nat) (b : Block) : Block :=
  let x := b.inst d
  let st := b.instState d
  let quiet := decide (x.lastAnn + x.annTmo * annInt ≤ b.now ∨ x.lastSync + 3 * Tu.interval x.logSync ≤ b.now ∨ 4 ≤ x.lossy)
  if 1 < d ∨ (st ≠ 2 ∧ st ≠ 3) ∨ !quiet then b
  else
    let b := ((b.setInst d 4).setBits R.tuSticky (2 ^ (1 + d))).bump (R.tuDLossCnt d)
    let b := b.modInst d fun x => { TuInst.init with conf := x.conf, dom := x.dom, ports := x.ports, logSync := x.logSync, logDreq := x.logDreq, annTmo := x.annTmo, seq := x.seq, nextReq := x.nextReq }
    if b.selected = d then b.loseSelected (b.bit R.tuDomCtl 0) else b

/-- DOMAIN_SELECT (R406). -/
def Tu.domainSelect (id : Nat) (r : Req) (b : Block) : Block :=
  Ci.check8 id r [(16, r.nz 16 8), (24, r.nz 24 4), (28, decide (1 < r.a2)), (32, r.nz 32 32)] (fun b =>
    if b.selected = r.a2 then b.ok id 0
    else if b.instState r.a2 ≠ 3 then b.done id St.state (b.instState r.a2)
    else b.switchTo r.a2 (some id)) b

/-- A PTP domain function begins to run: its instance listens (Table 15-2). -/
def Block.ptpRun (d : Nat) (b : Block) : Block := b.setInst d 1

/-- A PTP domain function is disabled: the selected instance is switched from, whatever AUTO holds (R406). -/
def Block.ptpStop (d : Nat) (b : Block) : Block := if b.selected = d then b.loseSelected true else b

/-- A PTP domain function is OFF. -/
def Block.ptpOff (d : Nat) (b : Block) : Block :=
  (b.setInst d 0).modInst d fun x => { TuInst.init with conf := x.conf, dom := x.dom, ports := x.ports, logSync := x.logSync, logDreq := x.logDreq, annTmo := x.annTmo, seq := x.seq }

/-! ## Transparent clock (R407 to R409) -/

/-- TC_FORWARD: a message from one Ethernet port goes out of the other after a residence of `residence` units, with its FCS; `up` says whether
the egress link is up. No other frame is forwarded (R407). -/
def Tu.tcForward (m : PtpMsg) (residence : Nat) (up : Bool) (b : Block) : Block :=
  let q := 1 - m.ethPort
  let ours (d : Nat) : Bool := b.bit R.tuTcCtl d && (b.inst d).dom == m.domain
  if m.start.isNone || !b.bit R.tuTcCtl 31 || decide (1 < m.ethPort) || !(ours 0 || ours 1) || b.funcOff (0x300 + m.ethPort) then b
  else if !up || b.funcMode (0x300 + q) != 1 || decide (80000 < residence) then b.bump R.tuTcDropCnt
  else
    let two := m.kind == 0 && m.twoStep || m.kind == 1
    let adds := m.kind == 0 && !m.twoStep || m.kind == 2
    let b := (b.bump R.tuTcFwdCnt)
    let b := if two then b.bump R.tuTc2stepCnt else b
    let m := if adds then m.correct (8192 * (residence : Int)) else m
    b.emit (.eth q (m.frame ++ m.fcs))

/-! ## Time toward the fabric (R410, R411) -/

/-- The payload of a TIME_MSG (Table 15-4). -/
def Block.timePayload (b : Block) : List Byte :=
  let gm := (b.inst b.selected).gm
  let t := (b.localTime + Bits.toInt 16 (b.fld R.tuFabTxAdj 15 0)).toNat
  let flags := Bits.ofBool b.timeValid + 2 * b.fld R.tuStat 30 30 + 4 * b.fld R.tuStat 29 29 + 8 * b.selected +
    16 * Bits.ofBool (gm.any (·.leap61)) + 32 * Bits.ofBool (gm.any (·.leap59))
  Bits.leBytes 1 1 ++ Bits.leBytes 1 flags ++ Bits.leBytes 2 ((gm.map fun g => g.utc.toNat).getD 0) ++ Bits.leBytes 4 0 ++
  Bits.leBytes 6 (t / second) ++ Bits.leBytes 2 (t % 8) ++ Bits.leBytes 4 (t % second / 8) ++
  Bits.leBytes 8 ((gm.map fun g => g.gmId.toNat).getD 0) ++ Bits.leBytes 2 ((gm.map (·.steps)).getD 0 + 1) ++ Bits.leBytes 2 0

/-- A time message leaves on a fabric port in TU_FAB_PORTS, or waits for credits of class 0 (R78, R407, R410, log entry 71). -/
def Tu.timeMsgOn (b : Block) (p : Nat) : Block :=
  let wait (on : Bool) (b : Block) : Block := b.onTu fun t => { t with msgWait := t.msgWait.filter (· != p) ++ if on then [p] else [] }
  if !b.portUp p || !b.bit R.tuFabPorts p then wait false b
  else
    let n := AMap.getD b.tu.msgSeq p 0
    let pkt := { Fif.packet 0x40 0xFFFFFF 0 0 0 0 0 false 0xFFFF 0 32 b.timePayload with spraySeq := BitVec.ofNat 32 n }
    if b.cred p 0 < Fif.flits pkt.payload.length then wait true b
    else
      let b := (wait false b).onTu fun t => { t with msgSeq := AMap.set t.msgSeq p ((n + 1) % 2 ^ 32) }
      (b.txOn p false ⟨pkt.seal, false, true, none, none⟩).bump R.tuFabMsgCnt

/-- Time messages that wait for credits leave as they come; the payload is written as a message leaves. Run at the end of each row. -/
def Block.timeSettle (b : Block) : Block := if b.locked then b else b.tu.msgWait.foldl Tu.timeMsgOn b

/-- TIME_MSG_SEND: at each interval, a time message on every enabled fabric port that is up. -/
def Tu.timeMsg (b : Block) : Block :=
  if b.now < b.tu.msgAt ∨ b.locked then b
  else
    let b := b.onTu fun t => { t with msgAt := b.now + Tu.interval (Bits.toInt 4 (b.fld R.tuFabCfg 3 0)) }
    (List.range 32).foldl Tu.timeMsgOn b

/-! ## Pulses (R412 to R414) -/

/-- 10^12 units × 8: 1,000 s. -/
abbrev pulseMax : Nat := 8000000000000

/-- PULSE_SET (R412, R413): of a RUNNING output it takes effect when the current pulse ends, else it is stored. -/
def Tu.pulseSet (id : Nat) (r : Req) (b : Block) : Block :=
  let n := r.a2
  let mode := r.u 48 1
  let period := r.u 32 8
  let width := r.u 40 8
  let start : Int := ((r.a0 * 1000000000 + r.a1) * 8 + r.u 50 1 : Nat)
  Ci.check8 id r [(32, mode == 2 && decide (period < 800 ∨ pulseMax < period)), (40, decide (width < 80)),
      (32, mode == 2 && decide (period < width + 80)), (40, mode == 1 && decide (pulseMax < width)),
      (16, decide (start < b.localTime + 8000000)),
      (16, decide (2 ^ 48 ≤ r.a0)), (24, decide (999999999 < r.a1)), (28, decide (3 < n)), (48, decide (2 < mode)), (49, decide (1 < r.u 49 1)),
      (50, decide (7 < r.u 50 1)), (51, r.nz 51 13)] (fun b =>
    let p : Pulse := ⟨mode, start, period, width, r.u 49 1 == 1⟩
    let b := b.poPassed n
    let x := b.po n
    let x := if x.active ∨ b.funcMode (0x500 + n) ≠ 1 then { x with next := some p } else x.take p b.localTime
    (b.setPo n x).ok id 0) b

/-- PULSE_EDGE of an output: the edge that its programme places at or before the present local time (R413). -/
def Tu.pulseEdge (n : Nat) (b : Block) : Block :=
  let x := b.po n
  let t := b.localTime
  if 3 < n ∨ !b.poRuns n ∨ x.prog.mode = 0 ∧ !x.active then b
  else if x.active then
    let stop := x.edge + (x.prog.width : Int)
    if t < stop then b
    else
      let b := b.emit (.pulse n x.prog.low stop)
      b.setPo n (b.pulseOver n t x)
  else if b.funcMode (0x500 + n) = 2 ∨ t < x.edge then b
  else (b.emit (.pulse n (!x.prog.low) x.edge)).setPo n { x with active := true }

/-- A pulse output begins to run: a one-shot whose start has passed is missed (R414), a programme that was stored takes effect (R413), and a
periodic one in force goes on with its first edge that is still to come and was not yet emitted. -/
def Block.poRun (n : Nat) (b : Block) : Block :=
  let b := b.poMissed n
  let x := b.po n
  let t := b.localTime
  match x.next with
  | some p => b.setPo n (x.take p t)
  | none => if x.prog.mode = 2 then b.setPo n { x with k := max x.k (x.take x.prog t).k } else b

/-- The current pulse of an output has ended. -/
def Block.poDrained (b : Block) (n : Nat) : Bool := !(b.po n).active

/-! ## Inputs and the offset measurement (R415, R416) -/

/-- OFFSET_MEASURE (R416). -/
def Tu.offsetMeasure (id : Nat) (r : Req) (b : Block) : Block :=
  let exp : Int := ((r.a0 * 1000000000 + r.a1) * 8 + r.u 32 1 : Nat)
  Ci.check8 id r [(16, decide (2 ^ 48 ≤ r.a0)), (24, decide (999999999 < r.a1)), (28, decide (1 < r.a2)), (32, decide (7 < r.u 32 1)), (33, r.nz 33 31)] (fun b =>
    if (AMap.get? b.tu.meas r.a2).isSome then b.done id St.busy 0
    else b.onTu fun t => { t with meas := AMap.set t.meas r.a2 ⟨id, exp, 0⟩ }) b

/-- How far local time, without the steps since dispatch, lies behind the expected time of an OFFSET_MEASURE (R416). -/
def Block.measAhead (b : Block) (m : OffMeas) : Int := m.exp - (b.localTime - m.steps)

/-- OFFSET_MEASURE_TIMEOUT: no edge came by the end of a window. -/
def Tu.offsetTimeout (b : Block) : Block :=
  let late := b.tu.meas.filter fun e => decide (b.measAhead e.2 < -(second : Int))
  late.foldl (fun b e => (b.onTu fun t => { t with meas := AMap.erase t.meas e.1 }).done e.2.cmd St.timeout 0) b

/-- PULSE_INPUT_EDGE: an edge of an input is timestamped, measured and dropped when the FIFO is full. -/
def Tu.inputEdge (i : Nat) (rising : Bool) (b : Block) : Block :=
  let e := b.fld (R.tuPiCtl i) 2 1
  if 1 < i ∨ !Bits.bit e (if rising then 0 else 1) then b
  else
    let t := b.localTime
    let q := AMap.getD b.tu.fifo i []
    let b := if b.bit (R.tuPiCtl i) 0 then
        (if q.length < 16 then b.onTu fun u => { u with fifo := AMap.set u.fifo i (q ++ [t]) } else b.bump (R.tuPiOvfCnt i))
      else b
    match AMap.get? b.tu.meas i with
    | some m => if (b.measAhead m).natAbs ≤ second then
        (b.onTu fun u => { u with meas := AMap.erase u.meas i }).complete m.cmd ⟨St.ok, 0, 0, Bits.ofInt 64 (t - m.exp), Bits.ofInt 48 (t / second)⟩ else b
    | none => b

/-! ## Captured reads (R400, R415) -/

/-- Nanoseconds of a local time. -/
def Tu.ns (t : Int) : Nat := (t / 8 % 1000000000).toNat

/-- A read of TU_NOW_NS captures local time for a requester and returns its nanoseconds. -/
def Block.nowRead (rq : Nat) (b : Block) : Word × Block :=
  (BitVec.ofNat 32 (Tu.ns b.localTime), b.onTu fun t => { t with caps := AMap.set t.caps (4 * rq) b.localTime })

/-- A read of TU_PI_TS_NS removes the oldest entry of an input and captures it for a requester; VALID is 0 when there is none. -/
def Block.piRead (rq i : Nat) (b : Block) : Word × Block :=
  match AMap.getD b.tu.fifo i [] with
  | [] => (0, b)
  | t :: q => (BitVec.ofNat 32 (2 ^ 31 + Tu.ns t), b.onTu fun u => { u with fifo := AMap.set u.fifo i q, caps := AMap.set u.caps (4 * rq + 1 + i) t })

/-- What a requester captured: 0 local time, 1 + i input i; 0 before a capture. -/
def Block.captured (b : Block) (rq k : Nat) : Int := AMap.getD b.tu.caps (4 * rq + k) 0

end Sys2Proof.Machine
end

