-- ==== Sys2Proof/Machine/Func.lean ====
section
/-! DEFINITION. Switchable functions: FUNC_ENABLE, FUNC_DISABLE, FUNC_STATE, and what ends starting and draining (R55, R56, R502,
Tables 2-10 and 2-11). -/

namespace Sys2Proof.Machine

/-- The functions of Table 2-10. -/
def Func.known (f : Nat) : Bool :=
  (0x100 ≤ f && f ≤ 0x11F) || (0x200 ≤ f && f ≤ 0x201) || (0x300 ≤ f && f ≤ 0x301) || (0x400 ≤ f && f ≤ 0x401) ||
  (0x500 ≤ f && f ≤ 0x503) || (0x600 ≤ f && f ≤ 0x601) || f == 0x700 || f == 0x701 || f == 0x800 || f == 0x900

/-- A function that is OFF. -/
def Func.off : Func := ⟨0, none, none, [], false, 0⟩

/-- A function. -/
def Block.func (b : Block) (f : Nat) : Func := AMap.getD b.funcs f Func.off

/-- The block with a function set. -/
def Block.setFunc (f : Nat) (x : Func) (b : Block) : Block := { b with funcs := AMap.set b.funcs f x }

/-- The state code of R69: a starting function is OFF. -/
def Func.code (x : Func) : Nat := if x.mode = 3 then 0 else x.mode

/-- An optional command completes with a status, DETAIL and RESULT0. -/
def Block.doneOpt (cmd : Option Nat) (status detail r0 : Nat) (b : Block) : Block :=
  match cmd with
  | some id => b.complete id (Comp.of status detail r0)
  | none => b

/-- What a function does when its draining begins: a line port in bring-up or COMB_SWITCH stops it (R349), a PTP domain is switched
from (R406). -/
def Block.drainBegin (f : Nat) (b : Block) : Block :=
  if f / 0x100 = 2 then (if ((b.lo1 (f % 2)).bring).isSome then b.loStop (f % 2) else b)
  else if f / 0x100 = 4 then b.ptpStop (f % 2) else b

/-- A RUNNING function enters DRAINING for a disable. -/
def Block.drain (f : Nat) (cmd : Option Nat) (b : Block) : Block :=
  let x := b.func f
  (b.setFunc f { x with mode := 2, cmd := cmd, pend := none, deferred := false, since := b.now }).drainBegin f

/-- A disable, by a command or by a power state, meets a function that is not starting (Table 2-11). -/
def Block.disable (f : Nat) (cmd : Option Nat) (b : Block) : Block :=
  let x := b.func f
  match x.mode with
  | 0 => b.doneOpt cmd St.ok 0 0
  | 1 => b.drain f cmd
  | _ =>
    match x.pend with
    | none => b.doneOpt cmd St.busy 0 2
    | some e =>
      -- the disable that began the draining and this one both complete on reaching OFF
      (b.setFunc f { x with pend := none, offWait := x.offWait ++ cmd.toList }).doneOpt (some e) St.state 2 2

/-- What holds a draining function back is gone (Table 2-10). -/
def Block.drained (b : Block) (f : Nat) : Bool :=
  match f / 0x100 with
  | 1 => b.fabDrained (f % 0x100)
  | 2 => b.lineDrained (f % 2)
  | 4 =>
    let x := b.inst (f % 2)
    x.lastSync + Tu.interval x.logSync ≤ b.now || x.gm.isNone
  | 5 => b.poDrained (f % 4)
  | 6 => b.calDrained (f % 2)
  | 9 => b.cxDrained
  | _ => true

/-- What reaching OFF means for a function. -/
def Block.offNow (f : Nat) (b : Block) : Block :=
  match f / 0x100 with
  | 1 => b.portDown (f % 0x100)
  | 2 => b.portDark (f % 2)
  | 4 => b.ptpOff (f % 2)
  | _ => b

/-- A draining function reaches OFF: its disables complete, then a pending enable restarts it, whose completion is posted after that of the
disable that began the draining (R56, Table 2-11). -/
def Block.reachOff (f : Nat) (b : Block) : Block :=
  let x := b.func f
  let b := b.offNow f
  let b := match x.pend, x.cmd with
    | some e, some d => b.setAfter e d
    | _, _ => b
  let b := match x.pend with
    | none => b.setFunc f Func.off
    | some e => b.setFunc f { mode := 3, cmd := some e, pend := none, offWait := [], deferred := true, since := b.now }
  (x.cmd.toList ++ x.offWait).foldl (fun b id => b.complete id (Comp.of St.ok 0 0)) b

/-- What reaching RUNNING means for a function. -/
def Block.runNow (f : Nat) (b : Block) : Block :=
  match f / 0x100 with
  | 4 => b.ptpRun (f % 2)
  | 5 => b.poRun (f % 4)
  | _ => b

/-- FUNC_RUNNING_REACHED: a starting function is RUNNING; its enable completes, then the disables that waited act (R55, R56). -/
def Func.runningReached (f : Nat) (b : Block) : Block :=
  let x := b.func f
  if x.mode ≠ 3 then b
  else
    let b := (b.setFunc f { Func.off with mode := 1 }).runNow f
    let b := x.offWait.foldl (fun b id => match x.cmd with
      | some e => b.setAfter id e
      | none => b) b
    let b := b.doneOpt x.cmd (if x.deferred then St.deferred else St.ok) 0 1
    x.offWait.foldl (fun b id => b.disable f (some id)) b

/-- FUNC_DRAIN_END: what the function drained is done, and it reaches OFF (Table 2-10). -/
def Func.drainEnd (f : Nat) (b : Block) : Block :=
  if (b.func f).mode = 2 ∧ b.drained f then b.reachOff f else b

/-- FABRIC_PORT_DRAIN_TIMEOUT: 10 ms after its disable a fabric port leaves DRAINING whatever it holds; its packets go by the other
ports, and its credits are abandoned (R502). -/
def Func.portTimeout (p : Nat) (b : Block) : Block :=
  let x := b.func (0x100 + p)
  if p < 32 ∧ x.mode = 2 ∧ x.since + 80000000 ≤ b.now then b.reachOff (0x100 + p) else b

/-- The engine whose freeze stops a function (log entry 55). -/
def Func.engine (f : Nat) : Option Nat :=
  match f / 0x100 with
  | 1 => some 26
  | 2 => some 31
  | 4 => some 36
  | 5 => some 36
  | 9 => some 29
  | _ => none

/-- The fields of a function command: FUNC, and nothing else. -/
def Func.fields (r : Req) : List (Nat × Bool) := [(16, r.nz 16 8), (24, !Func.known r.a1), (28, r.nz 28 4), (32, r.nz 32 32)]

/-- FUNC_ENABLE (R55, R431, Table 2-11). -/
def Func.enable (id : Nat) (r : Req) (b : Block) : Block :=
  let f := r.a1
  Ci.check8 id r (Func.fields r) (fun b =>
    let x := b.func f
    if f / 0x100 = 1 ∧ b.fld R.pcrStat 31 30 = 1 then b.done id St.state 1
    else match x.mode with
      | 0 => b.setFunc f { Func.off with mode := 3, cmd := some id, since := b.now }
      | 1 => b.ok id 1
      | 2 => if x.pend.isSome then b.complete id (Comp.of St.busy 0 2) else b.setFunc f { x with pend := some id }
      | _ => b.complete id (Comp.of St.busy 0 0)) b

/-- FUNC_DISABLE (R55, Table 2-11). -/
def Func.disable (id : Nat) (r : Req) (b : Block) : Block :=
  let f := r.a1
  Ci.check8 id r (Func.fields r) (fun b =>
    let x := b.func f
    if x.mode = 3 then b.setFunc f { x with offWait := x.offWait ++ [id] } else b.disable f (some id)) b

/-- FUNC_STATE (R55, R69). -/
def Func.state (id : Nat) (r : Req) (b : Block) : Block :=
  Ci.check8 id r (Func.fields r) (fun b =>
    let x := b.func r.a1
    b.ok id (x.code + 256 * Bits.ofBool (x.pend.isSome || x.mode == 3))) b

end Sys2Proof.Machine
end

