-- ==== Sys2Proof/Machine/Pcr.lean ====
section
/-! DEFINITION. Power, clocks and bring-up (chapter 16), the tamper alarm whose response depends on them (R364 to R366), and the pins of
chapter 20: the boot sequence, resets, power states, the ramp governor, energy tokens, the thermal throttle and trip, references,
and the adaptive loops of the PCR. -/

namespace Sys2Proof.Machine

/-- The block with its PCR changed. -/
def Block.onPcr (f : PcrState → PcrState) (b : Block) : Block := { b with pcr := f b.pcr }

/-- 1 µs. -/
abbrev us : Time := 8000

/-- PCR_STAT.PSTATE. -/
def Block.pstate (b : Block) : Nat := b.fld R.pcrStat 31 30

/-! ## Processors (R424, R449) -/

/-- The hart of a master (Table 17-1). -/
def Cp.hart (m : Nat) : Option Nat :=
  if m < 4 then some (16 + m) else if 5 ≤ m ∧ m ≤ 9 then some (15 + m) else if 10 ≤ m ∧ m ≤ 25 then some (m - 10) else none

/-- A control processor is held in reset or halted: its role is suspended. -/
def Block.cpOut (b : Block) (m : Nat) : Bool :=
  (AMap.get? b.pcr.held m).isSome || (Cp.hart m).any fun h => (AMap.get? b.dbg.halted h).isSome

/-- The role of a processor stops: the TU enters holdover without its processor (R424, R449). -/
def Block.roleStop (m : Nat) (b : Block) : Block :=
  if m = 8 ∧ !b.bit R.tuStat 30 then b.holdover.onTu fun t => { t with cpHold := true } else b

/-- The role of a processor that runs again goes on: the TU leaves the holdover that began when its processor stopped (R424, R449). -/
def Block.roleBack (m : Nat) (b : Block) : Block :=
  if m = 8 ∧ !b.cpOut 8 ∧ b.tu.cpHold then (b.putBit R.tuStat 30 false).onTu fun t => { t with cpHold := false } else b

/-- A control processor is reset and held until its firmware is reloaded (R422, R424, R446). -/
def Block.cpReset (m : Nat) (b : Block) : Block :=
  let h := (Cp.hart m).getD 25
  let b := b.onPcr fun x => { x with held := AMap.set x.held m b.now }
  let b := { b with dbg := { b.dbg with
    halted := AMap.erase b.dbg.halted h
    hregs := b.dbg.hregs.filter fun (e : Nat × Nat) => e.1 / 65536 != h
    trigs := b.dbg.trigs.filter fun (e : Nat × (BitVec 64 × BitVec 64)) => e.1 / 8 != h } }
  let b := Mc.masterReset m b
  let b := if m < 4 then b.putBit R.cmdStatus (4 + m) false else b
  b.roleStop m

/-- The host cores are reset (R422, R382). DESIGN CHOICE (log entry 88): the register-pair latches of the requesters it reaches stay as
they are, since Table 16-4 keeps everything else and R7 names no such reset. -/
def Block.hostReset (b : Block) : Block :=
  let b := (List.range 16).foldl (fun b i => Mc.masterReset (10 + i) b) b
  { b with dbg := { b.dbg with
    halted := b.dbg.halted.filter fun (e : Nat × Time) => 16 ≤ e.1
    hregs := b.dbg.hregs.filter fun (e : Nat × Nat) => 16 ≤ e.1 / 65536
    trigs := b.dbg.trigs.filter fun (e : Nat × (BitVec 64 × BitVec 64)) => 16 ≤ e.1 / 8 } }

/-- CP_RESTART: a reset control processor has reloaded its firmware and runs again (R424). -/
def Pcr.cpRestart (m : Nat) (b : Block) : Block :=
  if (AMap.get? b.pcr.held m).isNone then b
  else
    let b := (b.onPcr fun x => { x with held := AMap.erase x.held m }).roleBack m
    if m < 4 then b.putBit R.cmdStatus (4 + m) true else b

/-! ## Clocks (R429) -/

/-- Engine clock cycles, in 1/160, of `n` whole µs from setting `x` toward `y` and of what is left after them, under a cap. -/
def Pcr.cycles (cap y : Nat) : Nat → Nat → Nat → Nat
  | 0, x, rest => min x cap * rest
  | n + 1, x, rest => min x cap * us + Pcr.cycles cap y n (if x < y then x + 1 else if y < x then x - 1 else x) rest

/-- Engine clock cycles from reset, in 1/160. -/
def Block.engCycles (b : Block) : Nat :=
  let d := b.now - b.pcr.clkAt
  let n := min (d / us) 36
  if b.coasts 1 then b.pcr.cycles + 18 * d
  else b.pcr.cycles + Pcr.cycles b.clkCap.1 (b.fld R.pcrClkSet 7 0) n b.pcr.clkFrom.1 (d - n * us)

/-- The clocks are marked where they stand, before anything that moves them changes. -/
def Block.clkMark (b : Block) : Block :=
  let from_ := b.clkSet
  let n := b.engCycles
  b.onPcr fun x => { x with clkFrom := from_, clkAt := b.now, cycles := n }

/-- A step joins those that wait for the ramp governor (R435). -/
def Block.rampAsk (amps : Int) (act : Nat) (b : Block) : Block := b.onPcr fun x => { x with ramp := x.ramp ++ [⟨amps, b.now, act⟩] }

/-- The ENG clock that is set, under the throttle and the coast frequency, in 50 MHz units. -/
def Block.engGoal (b : Block) : Nat := if b.coasts 1 then 18 else min (b.fld R.pcrClkSet 7 0) b.clkCap.1

/-- The ENG clock is to move from what was set before: a step of the modelled current when the engines are awake, which waits for the
governor while the clock itself moves as its own rule says (R435, log entry 104). -/
def Block.engStep (before : Nat) (b : Block) : Block :=
  if b.pstate ≠ 2 ∨ b.engGoal = before then b else b.rampAsk (((b.engGoal : Int) - (before : Int)) * (Config.engAmps : Int)) 1

/-- PCR_CLK_SET_WRITE: each field within its range moves its clock (R429, R435, R442). -/
def Pcr.clkWrite (v : Word) (b : Block) : Block :=
  let old := b.engGoal
  let b := b.clkMark
  let eng := Bits.fld v.toNat 7 0
  let noc := Bits.fld v.toNat 15 8
  let b := if 18 ≤ eng ∧ eng ≤ 36 then b.putFld R.pcrClkSet 7 0 eng else b
  (if 20 ≤ noc ∧ noc ≤ 40 then b.putFld R.pcrClkSet 15 8 noc else b).engStep old

/-! ## Adaptive loops (R440, R441) -/

/-- A loop of Table 16-9 (0 power, 1 voltage, 2 host cores) is, or is no longer, held at a bound or forced past one. -/
def Block.pcrLoop (k : Nat) (sat past : Bool) (b : Block) : Block :=
  let old := b.pcr
  let put (l : List Nat) (v : Bool) : List Nat := (l.filter (· != k)) ++ (if v then [k] else [])
  let sats := put old.sat sat
  let pasts := put old.past past
  let b := b.onPcr fun x => { x with sat := sats, past := pasts }
  let b := if sat && !old.sat.contains k then (b.setBits R.pcrSticky 1).warnAll Warn.loopSaturated fun _ => true else b
  let b := if past && !old.past.contains k then (b.setBits R.pcrSticky 2).warnAll Warn.policyOverridden fun _ => true else b
  (b.putBit R.pcrStat 26 (!sats.isEmpty)).putBit R.pcrStat 25 (!pasts.isEmpty)

/-- The bounds register and range of a loop of Table 16-9. -/
def Pcr.loop (i : Nat) : Option (Nat × Int × Int) :=
  match i with
  | 0x2000 => some (R.pcrBndPwr, 300, 750)
  | 0x2010 => some (R.pcrBndAvs, 620, 780)
  | 0x2020 => some (R.pcrBndHcf, 10, 30)
  | _ => none

/-- POLICY_BOUNDS (R440, R344). -/
def Pcr.policyBounds (id : Nat) (r : Req) (b : Block) : Block :=
  let i := r.a1
  let lo := Bits.toInt 16 (r.u 32 2)
  let hi := Bits.toInt 16 (r.u 34 2)
  let out (x : Int) (l h : Int) : Bool := decide (x < l) || decide (h < x)
  match (match Lo.loop i with
    | some x => some x
    | none => Pcr.loop i) with
  | none => b.badParam id 24
  | some (a, l, h) =>
    Ci.check8 id r [(16, r.nz 16 8), (28, r.nz 28 4), (32, out lo l h || decide (hi < lo)), (34, out hi l h), (36, r.nz 36 28)] (fun b =>
      let v := BitVec.ofNat 32 (r.u 34 2 * 65536 + r.u 32 2)
      (if i / 0x1000 = 1 then b.loBounds i a v else b.setReg a v).ok id 0) b

/-- A new VDD_CORE setpoint, written to the regulator when it changes (R492). -/
def Block.vcore (mv : Int) (b : Block) : Block :=
  if (b.regN R.pcrVcore : Int) = mv then b else (b.putN R.pcrVcore mv.toNat).emit (.avs mv.toNat)

/-- The adaptive-voltage loop: its timing monitors need `target` mV (R441, R492, Table 16-9). -/
def Pcr.avs (target : Int) (b : Block) : Block :=
  let (lo, hi) := b.bounds R.pcrBndAvs
  if b.pcr.alert then b.pcrLoop 1 (b.pcr.sat.contains 1) true
  else
    let want := if hi < target then min target 780 else max lo target
    let cur : Int := b.regN R.pcrVcore
    if !b.pcr.ramp.isEmpty ∧ want ≠ cur ∧ cur ≠ 0 then b.pcrLoop 1 (decide (target < lo)) true
    else
      let next := if cur = 0 then want else Lo.clamp (cur - 5) (cur + 5) want
      (b.vcore next).pcrLoop 1 (decide (target < lo)) (decide (hi < target))

/-- The HC clock in force in 100 MHz units: the throttle caps it at 2.0 GHz, and a lost crystal at 1.0 GHz (R427, R438). -/
def Block.hcNow (b : Block) (x : Nat) : Nat :=
  let x := if b.fld R.pcrStat 28 27 = 0 then x else min x 20
  if b.coasts 2 then 10 else x

/-- The throttle cap forces the host cores below the floor of their loop (Table 16-9). -/
def Block.hcPast (b : Block) : Bool := decide (b.fld R.pcrStat 28 27 ≠ 0 ∧ 20 < (b.bounds R.pcrBndHcf).1)

/-- The HC clock is to move to `x` × 100 MHz: a step for the governor, `act` as it says what waits for it (R435). -/
def Block.hcStep (x act : Nat) (b : Block) : Block :=
  let cur := b.fld R.pcrClkNow 23 16
  if x = cur then b else b.rampAsk (((x : Int) - (cur : Int)) * (Config.hcAmps : Int)) act

/-- The host-core frequency loop: the load asks for `target` × 100 MHz; the clock changes when the governor grants its step (R435, R441). -/
def Pcr.hcf (target : Int) (b : Block) : Block :=
  let (lo, hi) := b.bounds R.pcrBndHcf
  let want := (Lo.clamp lo hi target).toNat
  let cap := b.hcNow want
  let b := b.pcrLoop 2 (decide (target < lo) || decide (hi < target)) b.hcPast
  if b.pcr.ramp.any fun (s : RampStep) => decide (1 < s.act) then b else b.hcStep cap (cap + 1)

/-- ADAPTIVE_LOOP_UPDATE of the voltage or the host-core loop, which the power processor runs. -/
def Pcr.loopUpdate (i target : Nat) (b : Block) : Block :=
  if b.pcr.phase ≠ 4 ∨ b.cpOut 5 then b
  else if i = 0x2010 then Pcr.avs target b
  else if i = 0x2020 then Pcr.hcf target b
  else b

/-- AVS_ALERT_N_CHANGE: while the regulator asserts its alert, the setpoint holds and the loop is overridden (R492). -/
def Pcr.avsAlert (level : Bool) (b : Block) : Block :=
  let b := b.onPcr fun x => { x with alert := !level }
  b.pcrLoop 1 (b.pcr.sat.contains 1) (!level)

/-! ## The ramp governor (R434, R435) -/

/-- Sums of the newest steps of a list, the empty sum first. -/
def Pcr.sums : Int → List (Time × Int) → List Int
  | s, [] => [s]
  | s, (_, x) :: l => s :: Pcr.sums (s + x) l

/-- The part of a step that both limits let through now: no run of the newest steps within 1 µs may pass A_US, none within 100 µs A_100US. -/
def Block.rampRoom (b : Block) (want : Int) : Int :=
  let cfg := b.pcr.rampIn.toNat
  let within (w : Nat) : List (Time × Int) := b.pcr.steps.filter fun s => b.now < s.1 + w
  let dir : Int := if want < 0 then -1 else 1
  let room (w : Nat) (a : Int) : Int := (Pcr.sums 0 (within w)).foldl (fun r s => min r (a - dir * s)) (dir * want)
  dir * max 0 (min (room us (Bits.fld cfg 7 0)) (room (100 * us) (Bits.fld cfg 23 8)))

/-- RAMP_GOVERNOR_GRANT: the oldest step that waits goes as far as the limits let it (R434, R435). -/
def Pcr.rampGrant (b : Block) : Block :=
  match b.pcr.ramp with
  | [] => b
  | s :: rest =>
    let g := b.rampRoom s.amps
    let done := g = s.amps
    let steps := (if g = 0 then [] else [(b.now, g)]) ++ b.pcr.steps.filter fun x => b.now < x.1 + 100 * us
    let b := b.onPcr fun x => { x with steps := steps, ramp := if done then rest else { s with amps := s.amps - g } :: rest }
    let b := b.putN R.pcrImodel ((b.regN R.pcrImodel : Int) + g).toNat
    if done then
      let b := b.bumpN R.pcrRampHoldUs ((b.now - s.at_) / us)
      if s.act < 2 then b else b.putFld R.pcrClkNow 23 16 (b.hcNow (s.act - 1))
    else b

/-! ## Power states (R430 to R433) -/

/-- The fabric port functions. -/
def Func.fabric : List Nat := (List.range 32).map (· + 0x100)

/-- Every fabric port function is OFF and not starting. -/
def Block.fabricOff (b : Block) : Bool := Func.fabric.all fun f => b.funcMode f == 0

/-- A POWER_STATE to Breeze disables the fabric ports and, when they are OFF, sends the engines to sleep (R432). -/
def Block.pcrSettle (b : Block) : Block :=
  match b.pcr.trans with
  | some (id, 1, ph) =>
    let b := Func.fabric.foldl (fun b f => if b.funcMode f = 1 ∨ b.funcMode f = 2 then b.disable f none else b) b
    if ph = 0 ∧ b.fabricOff then (b.onPcr fun x => { x with trans := some (id, 1, 1) }).rampAsk (-(Config.wakeAmps : Int)) 0 else b
  | _ => b

/-- The state a boot begins from: the always-on domain of a block, and everything else at reset (R422, Table 16-4). The capability and
security fuses, and what lies outside the device, stay. -/
def Block.aonOnly (b : Block) : Block :=
  let failed (p : Nat) : Nat := (if b.laser p 1 = 2 then 2 ^ 31 else 0) + (if b.laser p 2 = 2 then 2 ^ 29 else 0)
  let n := { Block.init with
    now := b.now
    out := b.out
    host := b.host
    pcieUp := b.pcieUp
    freeIx := b.freeIx
    nextId := b.nextId
    clk := { TuClock.init with at_ := b.now }
    health := { Health.init with hourAt := b.now, snapAt := b.now }
    mc := { MemCtl.init with retired := b.mc.retired, bootRetired := b.mc.retired }
    pcr := { PcrState.init with since := b.now, bootAt := b.now, clkAt := b.now, mainEn := b.pcr.mainEn, good := b.pcr.good,
                                lost := b.pcr.lost, alert := b.pcr.alert } }
  let n := [R.secTamperCause, R.secTamperCnt, R.secBootCnt, R.secSerial 0, R.secSerial 1, R.secSerial 2, R.secSerial 3, R.srRepairUsed].foldl
    (fun n a => n.setReg a (b.reg a)) n
  let n := (n.putBit R.secStat 29 (b.bit R.secStat 29)).putFld R.secFwSvn 15 0 (b.fld R.secFwSvn 15 0)
  let n := (n.putBit R.pcrSticky 5 (b.bit R.pcrSticky 5)).putFld R.pcrBootStat 11 8 (b.fld R.pcrBootStat 11 8)
  let n := (n.putN (R.loCombStat 0) (failed 0)).putN (R.loCombStat 1) (failed 1)
  let n := if n.mc.retired.isEmpty then n else n.memRegs
  { n with bm := { n.bm with have_ := (List.range 8).map n.poolTarget } }

/-- What a warm reset keeps besides: the frame map and the memory outside the management OS region (Table 16-4, R367). -/
def Block.keepMemory (old b : Block) : Block :=
  let b := { b with
    mc := { old.mc with cmdPoison := [], srPoison := [], patrolAt := 0, sramAt := 0 }
    dram := old.dram.filter fun (c : Host.Cell) => 6 * gib ≤ c.1
    bm := { b.bm with lost := old.bm.lost, tabs := old.bm.tabs.filter fun (e : Nat × Nat) => e.2 == memUser } }
  let b := b.memRegs
  { b with bm := { b.bm with have_ := (List.range 8).map b.poolTarget } }

/-- 2.62 ms, the time until the crystal is stable (R418). -/
abbrev crystalTime : Time := 20960000

/-- A cold (1) or warm (2) reset: the device is held, or boots from step 2 when the main rails are good (R418, R422, R496). -/
def Block.bigReset (kind : Nat) (go : Bool) (b : Block) : Block :=
  let n := b.aonOnly
  let n := if kind = 2 then Block.keepMemory b n else n
  (n.putFld R.pcrBootStat 11 8 kind).onPcr fun x => { x with phase := if go then 2 else 1, early := crystalTime, mainEn := true, good := go }

/-- Entry to Calm: the traffic keys are erased, everything outside the always-on domain stops, and MAIN_PWR_EN goes low. The SEC's CDI_2,
its measurements, security version and sensor limits, and the debug latch stay for the wake (R354, R433, R447). -/
def Block.enterCalm (b : Block) : Block :=
  let b := b.eraseTraffic
  let n := b.aonOnly
  let n := { n with sec := { n.sec with cdi := b.sec.cdi, m1 := b.sec.m1, m2 := b.sec.m2, vcore := b.sec.vcore, temp := b.sec.temp } }
  let n := (n.putFld R.secFwSvn 31 16 (b.fld R.secFwSvn 31 16)).putFld R.secStat 27 26 (b.fld R.secStat 27 26)
  (n.putFld R.pcrStat 31 30 0).onPcr fun x => { x with phase := 5, mainEn := false, good := false }

/-- POWER_STATE (R430 to R433, R453). Once a freeze has stopped a transition, the state stays until the reset (R454, log entry 105). -/
def Pcr.powerState (id : Nat) (r : Req) (b : Block) : Block :=
  let t := r.u 16 1
  Ci.check8 id r [(16, decide (2 < t)), (17, r.nz 17 7), (24, r.nz 24 4), (28, r.nz 28 4), (32, r.nz 32 32)] (fun b =>
    let lineOn := !b.funcOff 0x200 || !b.funcOff 0x201
    if t = b.pstate then b.ok id t
    else if b.pcr.trans.isSome then b.done id St.busy 0
    else if t < 2 ∧ b.jobs.any (fun j => j.2.state != 2) then b.done id St.state 1
    else if t = 0 ∧ lineOn then b.done id St.state 2
    else if t < 2 ∧ b.regN R.dbgFrozen ≠ 0 ∨ b.pcr.stuck then b.done id St.state 3
    else if t = 0 then (b.ok id 0).enterCalm
    else
      let b := (b.onPcr fun x => { x with trans := some (id, t, if t = 2 then 1 else 0) }).putBit R.pcrStat 29 true
      if t = 2 then b.rampAsk Config.wakeAmps 0 else b) b

/-- POWER_TRANSITION_DONE: the engines are awake, or asleep with every fabric port OFF, and POWER_STATE completes (R432). -/
def Pcr.transitionDone (b : Block) : Block :=
  match b.pcr.trans with
  | some (id, t, 1) =>
    if b.pcr.ramp.any (fun (s : RampStep) => s.act == 0) || (t == 1 && !b.fabricOff) then b
    else
      let b := ((b.onPcr fun x => { x with trans := none }).putBit R.pcrStat 29 false).putFld R.pcrStat 31 30 t
      (b.trace 7 1 devJob (Bits.leBytes 1 t ++ Bits.leBytes 4 (b.regN R.pcrTokGrant))).ok id t
  | _ => b

/-- A freeze during a POWER_STATE stops the transition where it stands (R454). -/
def Block.transStop (b : Block) : Block :=
  match b.pcr.trans with
  | some (id, _, _) =>
    ((b.onPcr fun x => { x with trans := none, stuck := true, ramp := x.ramp.filter fun s => s.act != 0 }).putBit R.pcrStat 29 false).done id St.state 3
  | none => b

/-! ## RESET (R422, R423) -/

/-- RESET: it completes, then the reset starts; a warm, host or control-processor reset cuts the transactions that `cut` names (R382). -/
def Pcr.reset (cut : Cut) (id : Nat) (r : Req) (b : Block) : Block :=
  let t := r.u 16 1
  let m := r.a2
  Ci.check8 id r [(16, decide (t < 1 ∨ 4 < t)), (17, r.nz 17 7), (24, r.nz 24 4),
      (28, if t = 4 then !(decide (m ≤ 3) || decide (5 ≤ m ∧ m ≤ 9)) else m != 0), (32, r.nz 32 32)] (fun b =>
    let b := b.ok id 0
    match t with
    | 1 => b.bigReset 1 true
    | 2 => Mc.cut cut (b.bigReset 2 true)
    | 3 => Mc.cut cut (b.hostReset.putFld R.pcrBootStat 11 8 3)
    | _ => Mc.cut cut ((b.cpReset m).putFld R.pcrBootStat 11 8 4)) b

/-! ## The boot sequence (R418 to R421, Table 16-1) -/

/-- The latest end of a step, in units of 10 µs. -/
def Boot.time (k : Nat) : Nat := [0, 0, 262, 270, 700, 900, 2000, 6000, 19000, 20000, 20500].getD k 0

/-- The moment by which a step must have ended: 2.62 ms earlier after a cold or warm reset, 7.0 ms earlier on a wake (R418, R433). Step 2
then ends before step 3 must. -/
def Block.stepLimit (b : Block) (k : Nat) : Time :=
  let from_ (k : Nat) : Time := Boot.time k * 80000 - b.pcr.early
  b.pcr.since + (if k = 2 then min crystalTime (from_ 3) else from_ k)

/-- Boot stops in LOCKED (R418, R505). -/
def Block.bootStop (b : Block) : Block :=
  ((b.onPcr fun x => { x with phase := 3 }).putFld R.secStat 31 30 2).putBit R.pcrBootStat 31 true

/-- A tamper alarm is latched (R364). -/
def Block.tampered (b : Block) : Bool := b.bit R.secStat 29

/-- The PLLs that run from a reference: bits of PCR_PLL_STAT (Table 16-5). -/
def Pcr.plls (k : Nat) : List Nat := if k = 0 then [0, 1, 2, 3, 4, 5, 6] else if k = 5 then [11] else [6 + k]

/-- PLLs start from their stable references (R426). -/
def Block.lockPlls (is : List Nat) (b : Block) : Block :=
  let ok (i : Nat) : Bool := (List.range 6).all fun k => !(Pcr.plls k).contains i || !b.pcr.lost.contains k
  (is.filter ok).foldl (fun b i => b.putBit R.pcrPllStat i true) b

/-- A reference has no edge for 1 µs, or lies more than 1,000 ppm off (R426). -/
def RefCount.gone (x : RefCount) : Bool := decide (us ≤ x.idle) || decide (1000 < x.ppm.natAbs)

/-- A reference is stable: 65,536 cycles of it are counted, and one other than the crystal lies within 200 ppm (R426). -/
def RefCount.stable (x : RefCount) (k : Nat) : Bool := !RefCount.gone x && decide (65536 ≤ x.cycles) && (k == 0 || decide (x.ppm.natAbs ≤ 200))

/-- Step 7: the channels have trained; those that failed are retired, or lost with their PHY when a warm reset keeps the map (R367, R372,
R419). -/
def Boot.memory (failed : List Nat) (b : Block) : Block :=
  let bad := (failed.filter fun c => decide (c < 128) && !b.mc.retired.contains c).eraseDups
  if b.fld R.pcrBootStat 11 8 = 2 ∧ !b.pcr.wake then (if bad.isEmpty then b else b.chansLost bad)
  else
    let b := bad.foldl (fun b c => ((b.event 0x0031 1 devJob 40 (Bits.leBytes 1 c ++ Bits.leBytes 1 1)).msix (b.fld R.memIrq 10 0)).retired c) b
    let b := { b with mc := { b.mc with bootRetired := b.mc.retired } }
    { b with bm := { b.bm with have_ := (List.range 8).map b.poolTarget } }

/-- The functions that run at the end of boot (Table 16-2). -/
def Boot.funcs : AMap Func :=
  [0x300, 0x301, 0x600, 0x601, 0x700, 0x701, 0x800, 0x900].map fun f => (f, ⟨1, none, none, [], false, 0⟩)

/-- What a boot step does, once it has ended in time. -/
def Boot.effect (k : Nat) (x : BootIn) (b : Block) : Block :=
  let b := match k with
    | 2 =>
      let ok (k : Nat) : Bool := k == 0 || (x.refs[k]?).any fun c => RefCount.stable c k
      let b := b.onPcr fun y => { y with lost := (List.range 6).filter fun k => !ok k }
      (b.putN R.secBootCnt (b.regN R.secBootCnt + 1)).putN R.pcrRefStat (Bits.sum ((List.range 6).map fun k => 2 ^ k * Bits.ofBool (ok k)))
    | 3 => b.lockPlls [0]
    | 4 =>
      let b := b.onSec fun s => { s with m1 := Sec.m1 x.image, cdi1 := Sec.cdi1 (Sec.m1 x.image) }
      (b.putFld R.secFwSvn 31 16 x.svn).putFld R.secStat 17 16 1
    | 5 => ((b.putFld R.secStat 17 16 2).lockPlls (List.range 12)).clkMark
    | 7 => Boot.memory x.failed b
    | 8 => b.onSec fun s => { s with m2 := Sec.m2 x.images, cdi := if b.pcr.wake then s.cdi else Sec.cdi2 (Sec.m2 x.images) s.cdi1 }
    | 9 =>
      let b := (b.onSec fun s => { s with cdi1 := [] }).setReg R.secCompat x.compat
      let b := if b.pcr.wake then b else b.putBit R.secStat 27 (b.bit R.dbgCtl 0)
      b.putFld R.secStat 31 30 1
    | 10 =>
      let b := { b with funcs := Boot.funcs }.clockStart
      let b := if b.pcr.wake then b.putFld R.pcrBootStat 11 8 5 else b
      let b := if b.locked then b.putBit R.cmdStatus 3 true else b
      (b.onPcr fun y => { y with phase := 4, wake := false }).putFld R.pcrStat 31 30 1
    | _ => b
  b.putFld R.pcrBootStat 7 0 k

/-- BOOT_STEP: the next step of Table 16-1 ends, with what it found (R351, R418, R419, R433, R505). -/
def Pcr.bootStep (x : BootIn) (b : Block) : Block :=
  let k := b.fld R.pcrBootStat 7 0 + 1
  let k := if k = 1 then 2 else k
  if b.pcr.phase ≠ 2 ∨ 10 < k then b
  else if b.stepLimit k < b.now then b.bootStop
  else if k = 3 ∧ b.tampered then b.bootStop
  else if k = 4 ∧ (!x.sigOk || decide (x.svn < b.fld R.secFwSvn 15 0)) then (b.putBit R.secStat 28 true).bootStop
  else if k = 8 ∧ b.pcr.wake ∧ Sec.m2 x.images ≠ b.sec.m2 then b.bigReset 1 true
  else
    let b := Boot.effect k x b
    if k = 7 ∧ 128 - b.mc.retired.length < 64 then (b.putFld R.pcrBootStat 7 0 6).bootStop else b

/-- BOOT_STEP_TIMEOUT: a step has not ended by its time (R418). -/
def Pcr.bootTimeout (b : Block) : Block :=
  let k := b.fld R.pcrBootStat 7 0 + 1
  let k := if k = 1 then 2 else k
  if b.pcr.phase = 2 ∧ b.stepLimit k ≤ b.now then b.bootStop else b

/-- POWER_ON: VDD_AON is applied and RESET_N goes high, step 1 of Table 16-1. -/
def Pcr.powerOn (b : Block) : Block :=
  if b.pcr.phase = 0 ∨ (b.pcr.phase = 1 ∧ b.pcr.good) then
    let n := b.aonOnly
    let n := (n.putN R.pcrBootStat 1).onPcr fun x => { x with phase := 2, mainEn := true, good := true }
    n
  else b

/-- VDD_AON_LOSS: the always-on domain is lost, the fuses stay (R364, Table 16-4). -/
def Pcr.aonLoss (b : Block) : Block :=
  let fused := b.fld R.secFwSvn 15 0
  let n := { Block.init with
    now := b.now
    out := b.out
    host := b.host
    pcieUp := b.pcieUp
    freeIx := b.freeIx
    nextId := b.nextId
    clk := { TuClock.init with at_ := b.now }
    pcr := { PcrState.init with phase := 0, since := b.now, bootAt := b.now, clkAt := b.now, mainEn := false, good := false,
                                lost := b.pcr.lost, alert := b.pcr.alert } }
  let n := [R.secSerial 0, R.secSerial 1, R.secSerial 2, R.secSerial 3, R.srRepairUsed].foldl (fun n a => n.setReg a (b.reg a)) n
  n.putFld R.secFwSvn 15 0 fused

/-- RESET_N_ASSERT: a low pulse of `dur` ends; below 1 µs it is ignored. A trip ends only when Tj, in 0.1 °C, is below 95 °C (R417, R439). -/
def Pcr.resetPin (dur : Time) (tj : Int) (b : Block) : Block :=
  if dur < us ∨ b.pcr.phase = 0 ∨ (b.pcr.phase = 7 ∧ 950 ≤ tj) then b
  else if b.pcr.phase = 1 ∧ b.pcr.good then b
  else b.bigReset 1 (b.pcr.phase != 5 && b.pcr.phase != 6 && b.pcr.good)

/-- PWR_GOOD_LOSS: PWR_GOOD has been low for `dur`; a thermal trip goes on (R439, R496). -/
def Pcr.pwrLoss (dur : Time) (b : Block) : Block :=
  if dur < us then b
  else if b.pcr.phase = 7 then b.onPcr fun x => { x with good := false }
  else if b.pcr.phase = 0 ∨ b.pcr.phase = 1 ∨ b.pcr.phase = 5 ∨ b.pcr.phase = 6 ∨ b.pcr.wake then b
  else b.bigReset 1 false

/-- PWR_GOOD_RISE: a held device boots from step 2, and a wake goes on with step 5, or stops before it when an alarm is latched (R365,
R433, R496). -/
def Pcr.pwrRise (b : Block) : Block :=
  if b.pcr.phase = 1 then
    if b.pcr.good then b
    else b.onPcr fun x => { x with phase := 2, since := b.now, bootAt := b.now, good := true }
  else if b.pcr.phase = 6 then
    let b := (b.onPcr fun x => { x with phase := 2, since := b.now, early := 56000000, good := true, wake := true }).putFld R.pcrBootStat 7 0 4
    if b.tampered then b.bootStop
    else
      let b := b.lockPlls [0]
      b.putN R.pcrRefStat (((List.range 6).filter fun i => !b.pcr.lost.contains i).foldl (fun n i => n + 2 ^ i) 0)
  else if b.pcr.phase = 7 then b.onPcr fun x => { x with good := true }
  else b

/-! ## Calm (R433) -/

/-- A wake begins: SEC_BOOT_CNT counts and MAIN_PWR_EN goes high. -/
def Block.wake (b : Block) : Block :=
  if b.pcr.phase ≠ 5 then b
  else (b.putN R.secBootCnt (b.regN R.secBootCnt + 1)).onPcr fun x => { x with phase := 6, since := b.now, bootAt := b.now, mainEn := true }

/-- WAKE_N_ASSERT: WAKE_N has been low for `dur`. -/
def Pcr.wakePin (dur : Time) (b : Block) : Block := if dur < us then b else b.wake

/-- PCR_WAKE_REQ: a write of PCR_WAKE.REQ through the sideband port, requester `rq` 39 (R433, R486). -/
def Pcr.wakeReq (rq : Nat) (v : Word) (b : Block) : Block := if rq = 39 ∧ v.getLsbD 0 then b.wake else b

/-- CALM_WAKE_TIMEOUT: PWR_GOOD has not arrived within 50 ms; the device stays in Calm. -/
def Pcr.wakeTimeout (b : Block) : Block :=
  if b.pcr.phase = 6 ∧ b.pcr.since + 400000000 ≤ b.now then
    (b.onPcr fun x => { x with phase := 5, mainEn := false }).putBit R.pcrBootStat 31 true
  else b

/-! ## The tamper alarm (R364 to R366, Table 13-8) -/

/-- The device is locked while running: key store, cipher cores and sessions are erased, what is being opened is discarded, and every
command in flight completes LOCKED (R365, R505). -/
def Block.lockRunning (b : Block) : Block :=
  let b := (b.putFld R.secStat 31 30 2).putBit R.cmdStatus 3 true
  let b := (b.infl.filter fun f => f.done.isNone).foldl (fun b f => b.done f.id St.locked 0) b
  let b := b.endHeld St.locked fun _ _ => true
  let b := { b with rings := b.rings.map fun (e : Nat × Ring) => (e.1, { e.2 with reset := none }),
                    bm := { b.bm with revoke := [], auditCmd := none } }
  let b := (b.onPcr fun x => { x with trans := none, ramp := x.ramp.filter fun s => s.act != 0 }).putBit R.pcrStat 29 false
  let b := ((b.cxPurge 0).cxPurge 1).onTe fun t => { t with opening := [] }
  [0, 1].foldl (fun b p => b.kxStat p 0 (b.fld (R.secPKxStat p) 15 0)) b.eraseStore

/-- A key operation runs: a key agreement, or at this very moment a rekey derivation, an ATTEST signing or a KEY_ERASE (R365, R366). -/
def Block.keyOp (b : Block) : Bool := !b.sec.kx.isEmpty || b.sec.keyAt == some b.now

/-- The case of Table 13-8 in which an alarm is raised now. -/
def Block.tamperCase (b : Block) : Nat :=
  if b.pcr.phase = 5 then 2
  else if b.pcr.phase = 7 then 5
  else if b.fld R.secStat 31 30 = 1 then (if b.keyOp then 3 else 4) else 1

/-- The response to the first alarm (Table 13-8). -/
def Block.tamperAct (c : Nat) (b : Block) : Block :=
  match c with
  | 2 => b.eraseStore.wake
  | 5 => b.eraseStore
  | 1 =>
    let b := b.eraseStore
    if b.pcr.phase = 1 ∨ b.pcr.phase = 3 then b
    else if b.pcr.phase = 6 then (b.putFld R.pcrBootStat 7 0 4).bootStop
    else b.bootStop
  | _ => b.lockRunning

/-- The sensors watch: always, but for the time from power-on until step 2 arms them. -/
def Block.armed (b : Block) : Bool :=
  b.pcr.phase != 0 && !((b.pcr.phase == 1 || b.pcr.phase == 2) && b.fld R.pcrBootStat 11 8 == 0 && decide (b.fld R.pcrBootStat 7 0 < 2))

/-- Sensors raise the alarm (R364, R366). -/
def Block.alarm (sensors : Nat) (b : Block) : Block :=
  if sensors = 0 then b
  else
    let first := !b.tampered
    let c := b.tamperCase
    let b := (b.putBit R.secStat 29 true).putFld R.secTamperCause 5 0 (Nat.lor (b.fld R.secTamperCause 5 0) sensors)
    let b := b.putN R.secTamperCnt (b.regN R.secTamperCnt + Bits.ones 6 sensors)
    if first then (b.putFld R.secTamperCause 10 8 c).tamperAct c else b

/-- The sensors that raise the alarm on a reading: those whose condition has held for its filter time, once for each beginning of it
(R364). -/
def Block.raises (b : Block) (x : TamperTick) : Nat :=
  let calm := b.pcr.phase == 5
  let now := b.tripping x calm
  let up := TamperTick.lasting x now calm
  if b.armed then up - Nat.land up (Nat.land b.sec.raised now) else 0

/-- TAMPER_ALARM: what the sensors read raises the alarm (R364). -/
def Pcr.tamper (x : TamperTick) (b : Block) : Block :=
  if !b.armed then b
  else
    let calm := b.pcr.phase == 5
    let now := b.tripping x calm
    ((b.alarm (b.raises x)).putN R.secTamperStat now).onSec fun s =>
      { s with raised := Nat.lor (Nat.land s.raised now) (TamperTick.lasting x now calm) }

/-! ## References (R426, R427) -/

/-- PCR_STAT.COAST follows the PLLs that have lost their source (R427). -/
def Block.coastStat (b : Block) : Block := b.putBit R.pcrStat 24 (decide (b.fld R.pcrPllStat 26 16 ≠ 0) || b.pcr.pcieOff)

/-- The CLOCK sensor raises the alarm when the crystal is lost. -/
def Block.clockAlarm (b : Block) : Bool := b.armed && !Bits.bit b.sec.raised 4

/-- A loss of reference `k`, as counted, raises the alarm (R364). -/
def Block.raisesRef (b : Block) (k : Nat) (x : RefCount) : Bool := k == 0 && !b.pcr.lost.contains 0 && RefCount.gone x && b.clockAlarm

/-- REFERENCE_LOSS of the crystal (0), a fabric reference (1 to 4) or the PCI Express reference (5), as counted (R426, R427). -/
def Pcr.refLoss (k : Nat) (x : RefCount) (b : Block) : Block :=
  if 5 < k ∨ b.pcr.lost.contains k ∨ !RefCount.gone x then b
  else
    let goal := b.engGoal
    let b := b.clkMark
    let run := (Pcr.plls k).filter fun i => b.bit R.pcrPllStat i
    let b := (b.onPcr fun x => { x with lost := k :: x.lost, pcieOff := x.pcieOff || run.contains 11 }).putBit R.pcrRefStat k false
    let b := run.foldl (fun b i => let b := b.putBit R.pcrPllStat i false
                                   if i < 11 then b.putBit R.pcrPllStat (16 + i) true else b) b
    let b := if run.isEmpty then b
      else ((b.setBits R.pcrSticky 8).coastStat).event 0x0051 3 devJob 5 (Bits.leBytes 2 (Bits.sum (run.map fun i => 2 ^ i)))
    if k = 0 then
      let b := b.engStep goal
      let b := if b.coasts 2 then (b.hcStep 10 1).putFld R.pcrClkNow 23 16 10 else b
      if b.clockAlarm then
        ((b.alarm 16).putBit R.secTamperStat 4 true).onSec fun s => { s with raised := Nat.lor s.raised 16 }
      else b
    else if k = 5 then { b with pcieUp := false }
    else (List.range 8).foldl (fun b i => b.portDown (8 * (k - 1) + i)) b

/-- REFERENCE_RECOVERY: the reference is stable again, as counted. Its PLLs have relocked, and one whose source came too late for its boot
step starts (R426, R427). -/
def Pcr.refBack (k : Nat) (x : RefCount) (b : Block) : Block :=
  if !b.pcr.lost.contains k ∨ !RefCount.stable x k then b
  else
    let goal := b.engGoal
    let b := b.clkMark
    let b := (b.onPcr fun x => { x with lost := x.lost.filter (· != k), pcieOff := x.pcieOff && k != 5 }).putBit R.pcrRefStat k true
    let stage := b.fld R.pcrBootStat 7 0
    let b := (Pcr.plls k).foldl (fun b i =>
      if i < 11 ∧ b.coasts i then (b.putBit R.pcrPllStat (16 + i) false).putBit R.pcrPllStat i true
      else if (if i = 0 then 3 else 5) ≤ stage then b.putBit R.pcrPllStat i true else b) b
    ((if k = 5 then { b with pcieUp := true } else b).coastStat).engStep goal

/-! ## Energy tokens (R436, R437, R442) -/

/-- The package limit follows its bounds: at the old ceiling it moves with the ceiling, and it never stays above (R440, R441). -/
def Block.newBounds (b : Block) : Block :=
  let bnd := b.bounds R.pcrBndPwr
  let l : Int := b.regN R.pcrPkgLimit
  let level := b.fld R.pcrStat 28 27
  let l' := if l = b.pcr.pwrIn.2 ∧ level = 0 then bnd.2 else min l bnd.2
  ((b.onPcr fun x => { x with pwrIn := bnd }).putN R.pcrPkgLimit l'.toNat).pcrLoop 0 false (decide (l' < bnd.1))

/-- The start of an epoch (R436): the power of the last one is shown and tallied, a shortage of tokens is reported, and the limits that
software wrote take effect. -/
def Block.epochMark (watts : Nat) (b : Block) : Block :=
  let b := (b.putN R.pcrPwrW (min watts 1023)).tally 21 watts |>.tally 22 1
  let b := if b.ce.short then
      ((b.setBits R.pcrSticky 4).bump R.pcrTokShortCnt).trace 7 3 devJob (Bits.leBytes 1 0 ++ Bits.leBytes 4 (b.regN R.pcrTokGrant)) else b
  (b.onPcr fun x => { x with rampIn := b.reg R.pcrRampCfg, tokIn := b.fld R.pcrTokMax 22 0 }).newBounds

/-- The tokens that an epoch grants (R436): none outside power state 2, those of the last epoch with the power processor out, else what
the power limit leaves over what was spent. -/
def Block.tokensFor (b : Block) (watts grant spent : Nat) : Nat :=
  if b.pstate ≠ 2 then 0 else if b.cpOut 5 then grant
  else min b.pcr.tokIn (((b.regN R.pcrPkgLimit : Int) - (watts : Int)) * 50000 + (spent : Int)).toNat

/-- The tile that takes every token of an epoch: of those deferred for DEFER_MAX epochs the first in the order of the dispatch slots (R150). -/
def Block.starved (b : Block) : Option CeItem :=
  [7, 6, 5, 4, 3, 2, 1, 0].findSome? fun p =>
    b.ce.items.find? fun i => i.prio == p && decide (b.ce.ctl % 256 ≤ i.defer) && !b.engStopped (i.coll / 4096) 3

/-- The epoch's tokens are granted, with the energy settings that hold through it; those left of the one before expire, also what a tile held
(R437), and a tile deferred for long enough holds all of the new ones (R150). -/
def Block.tokensGranted (n : Nat) (b : Block) : Block :=
  let b := (b.putN R.pcrTokGrant n).onCe fun c => { c with
    tok := n, epoch := c.epoch + 1, short := false, ctl := b.regN R.ceEnergyCtl, cost := b.regN R.ceEcost
    items := c.items.map fun (i : CeItem) => { i with saved := 0 } }
  match b.starved with
  | some i => b.onCe fun c => { c with tok := 0, items := c.items.map fun (x : CeItem) => if x = i then { x with saved := n } else x }
  | none => b

/-- The tokens of the present epoch that have been spent: neither left nor held for a tile. -/
def Block.spent (b : Block) : Nat := b.regN R.pcrTokGrant - b.ce.tok - Bits.sum (b.ce.items.map (·.saved))

/-- ENERGY_EPOCH: a 10 µs epoch begins; `watts` is the package power measured in the one before, in every power state, Calm too (R436). -/
def Pcr.epoch (watts : Nat) (b : Block) : Block :=
  if b.pcr.phase ≠ 4 ∧ b.pcr.phase ≠ 5 then b
  else
    let c := b.epochMark watts
    c.tokensGranted (c.tokensFor watts (b.regN R.pcrTokGrant) b.spent)

/-! ## Temperature (R438, R439) -/

/-- The main domain is powered and the die sensors are on (R439). -/
def Block.sensing (b : Block) : Bool :=
  b.pcr.phase == 4 || (b.pcr.phase == 2 || b.pcr.phase == 3) && (decide (2 ≤ b.fld R.pcrBootStat 7 0) || b.pcr.wake)

/-- A throttle level is entered or left. -/
def Block.setLevel (l : Nat) (b : Block) : Block :=
  let old := b.fld R.pcrStat 28 27
  let goal := b.engGoal
  let b := b.clkMark
  let b := ((b.putFld R.pcrStat 28 27 l).putN R.pcrThrMemfrac (if l = 2 then 49152 else 65536)).engStep goal
  let x := b.hcNow (b.fld R.pcrClkNow 23 16)
  let b := (if 0 < l then b.hcStep x (x + 1) else b).pcrLoop 2 (b.pcr.sat.contains 2) b.hcPast
  let b := b.trace 7 2 devJob (Bits.leBytes 1 l ++ Bits.leBytes 4 (b.regN R.pcrTokGrant))
  let b := if old < l then (b.setBits R.pcrSticky 16).event 0x0050 1 devJob 5 (Bits.leBytes 1 l) else b
  b.onPcr fun x => { x with thrMark := if l = 0 then none else some (x.thrMark.getD b.now) }

/-- PCR_THR_MS counts the milliseconds at level 1 or 2. -/
def Block.thrCount (b : Block) : Block :=
  match b.pcr.thrMark with
  | none => b
  | some t =>
    let n := (b.now - t) / 8000000
    ((b.bumpN R.pcrThrMs n).tally 20 n).onPcr fun x => { x with thrMark := some (t + 8000000 * n) }

/-- Since when a condition has held. -/
def Pcr.since (now : Time) (old : Option Time) (c : Bool) : Option Time := if c then some (old.getD now) else none

/-- A condition has held for a time. -/
def Pcr.held (now : Time) (t : Option Time) (d : Time) : Bool := t.any fun s => s + d ≤ now

/-- A sample of the junction temperature is shown, its maximum kept, and the conditions of R438 and R439 last from it or end. -/
def Block.tjSample (tj : Int) (b : Block) : Block :=
  let b := b.thrCount
  let old := b.regN R.pcrTj
  let b := b.putFld R.pcrTj 15 0 (Bits.ofInt 16 tj)
  let b := if Bits.toInt 16 (b.fld R.pcrTj 31 16) < tj then b.putFld R.pcrTj 31 16 (Bits.ofInt 16 tj) else b
  let b := b.note R.pcrTj old fun x => if Bits.fld x 31 16 = 0 ∨ Bits.toInt 16 (Bits.fld x 31 16) < tj then Bits.put 0 31 16 (Bits.ofInt 16 tj) else x
  let b := { b with health := { b.health with tj := some (max tj (b.health.tj.getD tj)) } }
  let t1 : Int := 10 * b.fld R.pcrThrCfg 7 0
  let t2 : Int := 10 * b.fld R.pcrThrCfg 15 8
  b.onPcr fun x => { x with
    hot1 := Pcr.since b.now x.hot1 (decide (t1 ≤ tj))
    hot2 := Pcr.since b.now x.hot2 (decide (t2 ≤ tj))
    hotTrip := Pcr.since b.now x.hotTrip (decide (1050 ≤ tj))
    cool1 := Pcr.since b.now x.cool1 (decide (tj < t1 - 30))
    cool2 := Pcr.since b.now x.cool2 (decide (tj < t2 - 30)) }

/-- The throttle level moves as the conditions of R438 have lasted. -/
def Block.levelStep (b : Block) : Block :=
  let lv := b.fld R.pcrStat 28 27
  let b := if lv = 0 ∧ Pcr.held b.now b.pcr.hot1 8000000 then b.setLevel 1
    else if lv = 1 ∧ Pcr.held b.now b.pcr.cool1 80000000 then b.setLevel 0
    else if lv = 2 ∧ Pcr.held b.now b.pcr.cool2 80000000 then b.setLevel 1 else b
  if b.fld R.pcrStat 28 27 = 1 ∧ Pcr.held b.now b.pcr.hot2 8000000 then b.setLevel 2 else b

/-- The package limit after a sample (R438): 1 W lower while hot at a throttle level, not below 300 W, 1 W higher at level 0 up to the
ceiling of the power loop. -/
def Block.limitAfter (b : Block) (tj : Int) : Int :=
  let l : Int := b.regN R.pcrPkgLimit
  if 0 < b.fld R.pcrStat 28 27 then (if 10 * (b.fld R.pcrThrCfg 7 0 : Int) ≤ tj then max 300 (l - 1) else l) else min b.pcr.pwrIn.2 (l + 1)

/-- THERMAL_SAMPLE: the hottest die sensor reads `tj`, in 0.1 °C (Table 16-8). -/
def Pcr.thermal (tj : Int) (b : Block) : Block :=
  if !b.sensing then b
  else
    let b := (b.tjSample tj).levelStep
    (b.putN R.pcrPkgLimit (b.limitAfter tj).toNat).pcrLoop 0 false (decide (b.limitAfter tj < b.pcr.pwrIn.1))

/-- THERMAL_TRIP: Tj has been at or above 105 °C for 100 µs; THERMTRIP_N goes low (R439). -/
def Pcr.trip (b : Block) : Block :=
  if !b.sensing ∨ !Pcr.held b.now b.pcr.hotTrip (100 * us) then b
  else
    let b := b.eraseTraffic
    let n := b.aonOnly
    let n := { n with sec := { n.sec with cdi := b.sec.cdi, vcore := b.sec.vcore, temp := b.sec.temp } }
    (n.setBits R.pcrSticky 32).onPcr fun x => { x with phase := 7, tripped := true }

end Sys2Proof.Machine
end

