-- ==== Sys2Proof/Machine/Dbg.lean ====
section
/-! DEFINITION. Processors, debug, hangs and freezes, counters and trace (chapter 17). The dump of a frozen engine stands with the
registers it copies. -/

namespace Sys2Proof.Machine

/-- The block with its DBG changed. -/
def Block.onDbg (f : DbgState → DbgState) (b : Block) : Block := { b with dbg := f b.dbg }

/-- An engine that can be frozen and dumped (R450). -/
def Dbg.engine (e : Nat) : Bool := 26 ≤ e && e ≤ 36

/-! ## Hangs and freeze (R450 to R454) -/

/-- HANG_CONFIG (R451). -/
def Dbg.hangConfig (id : Nat) (r : Req) (b : Block) : Block :=
  let e := r.a2
  let msLim := r.u 32 4
  let fl := r.u 36 1
  Ci.check8 id r [(16, r.nz 16 8), (24, r.nz 24 4), (28, !(Dbg.engine e || e == 0xFF || e == 0x100)), (32, decide (msLim < 1 ∨ 10000 < msLim)),
      (36, decide (fl / 4 ≠ 0)), (37, r.nz 37 27)] (fun b =>
    let put (b : Block) (k : Nat) : Block := b.putN (R.dbgEHangMs k) (Bits.fld fl 1 1 * 2 ^ 31 + Bits.fld fl 0 0 * 2 ^ 30 + msLim)
    let b := if e = 0x100 then b.onDbg fun d => { d with wdMs := msLim, wdOn := Bits.bit fl 0 }
      else if e = 0xFF then (List.range 11).foldl put b
      else put b (e - 26)
    b.ok id 0) b

/-- DBG_E_STALL_US: the current stall of an engine in µs, known from its hang limit on; of a frozen one that at the freeze (R450, log
entry 108). -/
def Block.stallUs (b : Block) (e : Nat) : Nat :=
  match AMap.get? b.dbg.frozen e, AMap.get? b.dbg.stall e with
  | some f, _ => f.stall
  | none, some t => (b.now - t) / 8000
  | none, none => 0

/-- An engine freezes with a cause, 1 ENGINE_FREEZE or 2 hang; a power transition stops (R452, R454). Its register words are taken at the
end of the step. -/
def Block.freeze (e cause : Nat) (b : Block) : Block :=
  if b.frozen e then b
  else
    let (ix, b) := b.free
    let f : Freeze := ⟨cause, Bits.ofInt 64 b.localTime, b.engCycles / 160, b.stallUs e, [], ix⟩
    let b := b.onDbg fun d => { d with frozen := AMap.set d.frozen e f }
    let b := ((b.putBit R.dbgFrozen (e - 26) true).putN (R.dbgEFreeze (e - 26)) cause).trace 15 3 devJob [BitVec.ofNat 8 e, BitVec.ofNat 8 cause]
    b.transStop

/-- ENGINE_FREEZE (R452). -/
def Dbg.engineFreeze (id : Nat) (r : Req) (b : Block) : Block :=
  Ci.check8 id r [(16, r.nz 16 8), (24, r.nz 24 4), (28, !Dbg.engine r.a2), (32, r.nz 32 32)] (fun b => (b.freeze r.a2 1).ok id 0) b

/-- An engine has hung (R450): its stall is shown from now on, and the hang is counted, traced and reported by interrupt and event. -/
def Block.hung (e : Nat) (b : Block) : Block :=
  let stall := 1000 * b.fld (R.dbgEHangMs (e - 26)) 13 0
  let b := (b.onDbg fun d => { d with stall := AMap.set d.stall e (b.now - 8000 * stall) }).setBits R.dbgHangStat (2 ^ (e - 26))
  let b := (b.bump R.dbgHangCnt).trace 15 4 devJob [BitVec.ofNat 8 e, 2#8]
  (b.msix (b.fld R.dbgHangIrq 10 0)).event 0x0040 3 devJob 9 (Bits.leBytes 1 e ++ Bits.leBytes 4 stall)

/-- ENGINE_HANG: the stall of an engine has reached its hang limit (R450), once in a stall. -/
def Dbg.hang (e : Nat) (b : Block) : Block :=
  if !Dbg.engine e ∨ b.frozen e ∨ (AMap.get? b.dbg.stall e).isSome ∨ !b.bit (R.dbgEHangMs (e - 26)) 30 then b
  else
    let b := b.hung e
    if b.bit (R.dbgEHangMs (e - 26)) 31 then b.freeze e 2 else b

/-- DBG_E_DUMP_SIZE in bytes (Table 17-6). -/
def Dbg.dumpSize (e : Nat) : Nat :=
  match e with
  | 26 => 3 * 2 ^ 20 | 27 => 17 * 2 ^ 20 | 28 => 66 * 2 ^ 20 | 29 => 2 * 2 ^ 20 | 30 => 2 ^ 20 | 31 => 4 * 2 ^ 20 | 32 => 9 * 2 ^ 20
  | 33 => 2 ^ 20 | 34 => 2 ^ 20 | 35 => 2 * 2 ^ 20 | _ => 256 * 2 ^ 10

/-- ENGINE_DUMP: the dump engine begins to write (R455). -/
def Dbg.engineDump (id : Nat) (r : Req) (b : Block) : Block :=
  let e := r.a2
  Ci.check8 id r [(16, badAddr r.a0 r.a1 64), (24, Dbg.engine e && decide (r.a1 < Dbg.dumpSize e)), (28, !Dbg.engine e), (32, r.nz 32 32)] (fun b =>
    if !b.frozen e then b.done id St.state 0
    else if (AMap.get? b.dbg.dumps e).isSome then b.done id St.busy 0
    else b.onDbg fun d => { d with dumps := AMap.set d.dumps e ⟨id, r.a0, r.a1, b.now⟩ }) b

/-! ## Control-processor watchdog and the debug port (R446 to R449) -/

/-- CP_WATCHDOG_EXPIRY: the heartbeat of a control processor has been missing for the limit (R446). -/
def Dbg.watchdog (x : CpFail) (b : Block) : Block :=
  let m := x.master
  if b.pcr.phase ≠ 4 ∨ !b.dbg.wdOn ∨ b.cpOut 9 then b
  else if m = 4 then (b.setBits R.dbgHangStat (2 ^ 31)).msix (b.fld R.dbgHangIrq 10 0)
  else if 8 < m ∨ b.cpOut m then b
  else ((Mc.cut x.cut ((b.cpReset m).putFld R.pcrBootStat 11 8 4)).bump R.dbgCpWdCnt).event 0x0041 1 devJob 9 (Bits.leBytes 1 m)

/-- CI_HEARTBEAT_LAPSE: a CI processor has been halted for more than 1 ms (R449). -/
def Dbg.heartbeatLapse (k : Nat) (b : Block) : Block :=
  match (if k < 4 then AMap.get? b.dbg.halted (16 + k) else none) with
  | some t => if t + 8000000 < b.now then b.putBit R.cmdStatus (4 + k) false else b
  | none => b

/-- Master of a hart (Table 17-1). -/
def Dbg.master (h : Nat) : Nat := if h < 16 then 10 + h else if h < 20 then h - 16 else h - 15

/-- A match-control trigger fires on a load (`store` false) or store at an address: it matches loads or stores in some mode, its address
comparison holds, and its action is to halt the hart. The layout is that of the RISC-V debug specification (PRESUMED, log entry 106). -/
def Dbg.trigFires (x : BitVec 64 × BitVec 64) (wide store : Bool) (a : Nat) : Bool :=
  let c := x.1.toNat
  let y := x.2.toNat % (if wide then 2 ^ 64 else 2 ^ 32)
  let typ := if wide then Bits.fld c 63 60 else Bits.fld c 31 28
  let low := Nat.xor y (y + 1)
  let eq := match Bits.fld c 10 7 with
    | 0 => a == y
    | 1 => a / (low + 1) == y / (low + 1)
    | 2 => decide (y ≤ a)
    | 3 => decide (a < y)
    | _ => false
  (typ == 2 || typ == 6) && Bits.fld c 15 12 == 1 && Bits.bit c (if store then 1 else 0) && (Bits.bit c 3 || Bits.bit c 4 || Bits.bit c 6) && eq

/-- An access of a running hart, by its master ID, to a register meets a trigger of its own (R443, R448). -/
def Block.trigHit (b : Block) (rq a : Nat) (store : Bool) : Bool :=
  match Cp.hart rq with
  | none => false
  | some h =>
    b.bit R.secStat 27 && !b.dbg.trigs.isEmpty && (AMap.get? b.dbg.halted h).isNone && (List.range (if h < 16 then 8 else 4)).any fun i =>
      (AMap.get? b.dbg.trigs (h * 8 + i)).any fun x => Dbg.trigFires x (decide (h < 16)) store (if h < 16 then 2 ^ 39 + a else a)

/-- A hart halts in debug, and its role stops (R448, R449). -/
def Block.haltHart (h : Nat) (b : Block) : Block :=
  (b.onDbg fun d => { d with halted := AMap.set d.halted h b.now }).roleStop (Dbg.master h)

/-- A trigger that an access meets halts the hart before it. -/
def Block.trigHalt (rq a : Nat) (store : Bool) (b : Block) : Block :=
  if b.trigHit rq a store then b.haltHart ((Cp.hart rq).getD 25) else b

/-- DBG_CTL_UNLOCK_WRITE: UNLOCK_REQ is written only through the sideband port (39) between steps 6 and 8 of the boot (R447). -/
def Dbg.unlockWrite (rq : Nat) (v : Word) (b : Block) : Block :=
  let k := b.fld R.pcrBootStat 7 0
  if rq = 39 ∧ b.pcr.phase = 2 ∧ 6 ≤ k ∧ k < 8 then b.putBit R.dbgCtl 0 (v.getLsbD 0) else b

/-- HC_CP_WIN_WRITE of the window of hart 16 + k; one beyond memory keeps the previous value (R443, R466). -/
def Dbg.cpWin (k : Nat) (v : Word) (b : Block) : Block :=
  if k < 9 ∧ (Bits.fld v.toNat 31 18 + 1) * 2 ^ 30 ≤ dxTop then b.putN (R.hcCpWin k) (Bits.fld v.toNat 31 18 * 2 ^ 18) else b

/-- HC_CACHE_ERROR: a read in L2 or L3 finds an error that is corrected, or an uncorrectable one: that poisons the line, and the core that
read takes a synchronous access fault (R445, Table 14-2). -/
def Dbg.cacheError (x : CacheRead) (ue : Bool) (a : Nat) (b : Block) : Block :=
  if x.level ≠ 2 ∧ x.level ≠ 3 then b
  else if ue then
    ((((b.bump (if x.level = 2 then R.hcL2UeCnt else R.hcL3UeCnt)).tally 19 1)).poisonUnit (a / 32)).emit (.poisonTo x.core)
  else (b.bump (if x.level = 2 then R.hcL2CeCnt else R.hcL3CeCnt)).tally 18 1

/-! ## Counters (R458, R459) -/

/-- Counters in a set (Table 17-7). -/
def Dbg.setSize (s : Nat) : Option Nat :=
  match s % 0x80 with
  | 1 => if s = 0x01 ∨ s = 0x81 then some 28 else none
  | 2 => if s = 0x02 ∨ s = 0x82 then some 33 else none
  | 3 => if s = 0x03 ∨ s = 0x83 then some 30 else none
  | _ => none

/-- The record of a set of a scope (a job, or 1,024 for the device) with the counters that a mask selects. -/
def Block.cntRecord (b : Block) (set scope : Nat) (sel : List Nat) : List Byte :=
  Bits.leBytes 1 set ++ Bits.leBytes 1 1 ++ Bits.leBytes 2 sel.length ++ Bits.leBytes 2 (if scope = 1024 then devJob else scope) ++ Bits.leBytes 2 0 ++
  Bits.leBytes 8 b.traceTime ++ Bits.leBytes 16 0 ++ sel.flatMap fun i => Bits.leBytes 8 (b.cntGet scope (set % 0x80) i)

/-- COUNTER_READ (R458, R459). -/
def Dbg.counterRead (id : Nat) (r : Req) (b : Block) : Block :=
  let s := r.a2
  let n := Dbg.setSize s
  let mask := r.u 32 8
  let sel := (List.range (n.getD 0)).filter fun i => mask == 0 || Bits.bit mask i
  let dev := decide (0x80 ≤ s) && n.isSome
  if dev ∧ (b.ring r.ring).isJob then b.done id St.notOwner 0
  else
    Ci.check8 id r [(28, n.isNone), (16, badAddr r.a0 r.a1 64), (24, decide (r.a1 < 32 + 8 * sel.length)),
        (32, decide (mask / 2 ^ n.getD 0 ≠ 0)), (40, r.nz 40 24)] (fun b =>
      let rec_ := b.cntRecord s (if dev then 1024 else b.cmdJob r) sel
      (b.dxWrite r.a0 rec_).ok id rec_.length) b

/-! ## Trace (R460 to R465) -/

/-- A trace record in its 32 bytes. -/
def TraceRec.bytes (x : TraceRec) : List Byte :=
  Bits.leBytes 8 x.time ++ Bits.leBytes 1 x.src ++ Bits.leBytes 1 x.event ++ Bits.leBytes 1 (Bits.ofBool x.valid) ++ Bits.leBytes 1 0 ++
  Bits.leBytes 2 x.job ++ Bits.leBytes 2 0 ++ (x.data ++ List.replicate 16 0#8).take 16

/-- A record is written at the next slot of the ring. -/
def Block.tracePut (x : TraceRec) (b : Block) : Block :=
  let wr := b.reg64 R.dbgTraceWrLo
  let b := b.dxWrite (b.dbg.traceBase + wr % (b.dbg.traceLen / 32) * 32) x.bytes
  b.bump64 R.dbgTraceWrLo 1

/-- Slots that mode 2 still has free. -/
def Block.traceRoom (b : Block) : Nat := b.dbg.traceLen / 32 - (b.reg64 R.dbgTraceWrLo + 2 ^ 64 - b.reg64 R.dbgTraceRdLo) % 2 ^ 64

/-- A record enters the ring, or finds it full in mode 2 and is dropped (R462, R463). -/
def Block.traceStore (x : TraceRec) (b : Block) : Block :=
  if b.dbg.traceMode = 2 ∧ b.traceRoom = 0 then
    ((b.bump R.dbgTraceDrop).putBit R.dbgTraceStat 29 true).onDbg fun d => { d with traceLost := d.traceLost + 1 }
  else b.tracePut x

/-- A LOST marker enters the ring for the records dropped since the one before, when there are any and the ring has room (R463). -/
def Block.traceMark (b : Block) : Block :=
  if b.dbg.traceLost = 0 ∨ b.dbg.traceMode = 2 ∧ b.traceRoom = 0 then b
  else (b.tracePut ⟨15, 1, devJob, b.traceTime, b.timeValid, Bits.leBytes 8 b.dbg.traceLost⟩).onDbg fun d => { d with traceLost := 0 }

/-- A record reaches the ring: it is left out, dropped, or written, behind a LOST marker when others were dropped (R462, R463). -/
def Block.traceIn (x : TraceRec) (b : Block) : Block := if !b.tracePass x then b else b.traceMark.traceStore x

/-- The records that found the trace path busy are counted (R463). -/
def Block.traceSettle (b : Block) : Block :=
  if b.traceBusy = 0 then b
  else { (b.bumpN R.dbgTraceDrop b.traceBusy).onDbg fun d => { d with traceLost := d.traceLost + b.traceBusy } with traceBusy := 0 }

/-- TRACE_RECORD_WRITE: the DBG takes the oldest record. -/
def Dbg.traceWrite (b : Block) : Block :=
  match b.traceq with
  | [] => b
  | x :: q => { b with traceq := q }.traceIn x

/-- Every record that waits is written under the configuration in force. -/
def Block.traceFlush (b : Block) : Block := b.traceq.foldl (fun b x => b.traceIn x) { b with traceq := [] }

/-- The management OS region of Table 1-6 holds a range. -/
def inMgmtOs (a n : Nat) : Bool := a + n ≤ 6 * gib

/-- A length that is a power of two within bounds. -/
def powerWithin (n lo hi : Nat) : Bool := lo ≤ n && n ≤ hi && n == 2 ^ Nat.log2 n

/-- TRACE_CONFIG (R461, R464). -/
def Dbg.traceConfig (id : Nat) (r : Req) (b : Block) : Block :=
  let off := Bits.toInt 32 (r.u 36 4)
  let mode := r.u 40 1
  Ci.check8 id r [(16, decide (r.a0 % 64 ≠ 0) || !inMgmtOs r.a0 r.a1), (24, !powerWithin r.a1 (2 ^ 20) (2 ^ 30)), (28, Bits.fld r.a2 30 10 != 0),
      (32, Nat.land (r.u 32 4) 0xFFFF7800 != 0), (40, decide (2 < mode)), (41, r.nz 41 23)] (fun b =>
    let b := b.traceFlush
    let old := b.dbg
    let b := b.onDbg fun d => { d with
      traceBase := r.a0, traceLen := r.a1, traceAll := Bits.bit r.a2 31, traceJob := r.a2 % 1024, traceMask := r.u 32 4, traceMode := mode,
      traceOff := off }
    let b := if old.traceBase = r.a0 ∧ old.traceLen = r.a1 then b else (b.put64 R.dbgTraceWrLo 0).put64 R.dbgTraceRdLo 0
    let b := (b.putN R.dbgTraceStat (mode * 2 ^ 30)).putN R.dbgTraceOffset (r.u 36 4)
    let b := if off = old.traceOff then b else b.trace 15 2 devJob (Bits.leBytes 4 (Bits.ofInt 32 old.traceOff) ++ Bits.leBytes 4 (r.u 36 4))
    b.ok id 0) b

/-- A requester writes DBG_TRACE_SWn (R465). -/
def Dbg.swWrite (rq n : Nat) (v : Word) (b : Block) : Block := b.onDbg fun d => { d with sw := AMap.set d.sw (rq * 4 + n % 4) v }

/-- DBG_TRACE_SW_CMT_WRITE: the requester's software record is committed (R465). -/
def Dbg.swCommit (rq : Nat) (v : Word) (b : Block) : Block :=
  let job := if v.getLsbD 31 then devJob else Bits.fld v.toNat 25 16
  b.trace 10 (v.toNat % 256) job ((List.range 4).flatMap fun n => Bits.leBytes 4 (AMap.getD b.dbg.sw (rq * 4 + n) 0#32).toNat)

end Sys2Proof.Machine
end

