-- ==== Sys2Proof/Machine/Rel.lean ====
section
/-! DEFINITION. Fault notification, health and the telemetry snapshot (chapter 18, R472 to R474 and R478 to R483). Job fences stand with
the jobs. -/

namespace Sys2Proof.Machine

/-! ## The event ring (R472 to R474) -/

/-- Records that fit in the event ring. -/
def Block.evtSize (b : Block) : Nat := 2 ^ b.fld R.sysEvtCfg 4 0

/-- Records written and not consumed. -/
def Block.evtWaiting (b : Block) : Nat := (b.regN R.sysEvtTail + 2 ^ 32 - b.regN R.sysEvtHead) % 2 ^ 32

/-- The level of SB_ALERT_N: low while an event record is written and not consumed (Table 20-4). DEDUCED (log entry 87): an unread event
is one of the event ring, and the board management controller reads it there. -/
def Rel.sbAlertN (b : Block) : Bool := b.evtWaiting = 0

/-- Address of event record `i`. -/
def Block.evtAddr (b : Block) (i : Nat) : Nat := basePair (b.reg R.sysEvtBaseLo) (b.reg R.sysEvtBaseHi) + i % b.evtSize * 32

/-- The ring is enabled, has room and its storage answers. -/
def Block.evtOpen (b : Block) : Bool :=
  b.bit R.sysEvtCfg 31 && decide (b.evtWaiting < b.evtSize) &&
  (if b.bit R.sysEvtBaseHi 31 then b.pcieUp else inDx (b.evtAddr (b.regN R.sysEvtTail)) 32)

/-- The 32 bytes of an event (Table 18-3). -/
def Event.bytes (e : Event) (phase : Nat) : List Byte :=
  Bits.leBytes 2 e.typ ++ Bits.leBytes 1 e.sev ++ Bits.leBytes 1 (phase + 2 * Bits.ofBool e.valid) ++ Bits.leBytes 2 e.job ++
  Bits.leBytes 2 e.source ++ Bits.leBytes 8 e.time ++ (e.data ++ List.replicate 16 0#8).take 16

/-- A record is written, then SYS_EVT_TAIL moves, then the vector is raised (R472). -/
def Block.evtPut (e : Event) (b : Block) : Block :=
  let t := b.regN R.sysEvtTail
  let bs := e.bytes (1 - t / b.evtSize % 2)
  let b := if b.bit R.sysEvtBaseHi 31 then { b with host := b.host.put (b.evtAddr t) bs } else b.dxWrite (b.evtAddr t) bs
  (b.putN R.sysEvtTail (t + 1)).msix (b.fld R.sysEvtCfg 26 16)

/-- A LOST event with the number dropped is the next record once room has returned (R473). -/
def Block.evtLost (b : Block) : Block :=
  if b.dbg.eventLost = 0 ∨ !b.evtOpen then b
  else (b.evtPut ⟨0xFF, 1, devJob, 9, b.traceTime, b.timeValid, Bits.leBytes 8 b.dbg.eventLost⟩).onDbg fun d => { d with eventLost := 0 }

/-- EVENT_RECORD_WRITE: the debug and telemetry processor writes the oldest event, or drops and counts it (R472, R473). Nothing is written
while the processor is held or halted. -/
def Rel.eventWrite (b : Block) : Block :=
  if b.pcr.phase ≠ 4 ∨ b.cpOut 9 then b
  else
    let b := b.evtLost
    match b.evq with
    | [] => b
    | e :: q =>
      let b := { b with evq := q }
      if b.evtOpen then b.evtPut e else (b.bump R.sysEvtDrop).onDbg fun d => { d with eventLost := d.eventLost + 1 }

/-- SYS_EVT_HEAD_WRITE: a value that R45 would ignore is ignored (R472). -/
def Rel.evtHead (v : Word) (b : Block) : Block :=
  if (b.regN R.sysEvtTail + 2 ^ 32 - v.toNat) % 2 ^ 32 ≤ b.evtSize then b.setReg R.sysEvtHead v else b

/-! ## Health (R478, R479) -/

/-- SYS_UPTIME_S. -/
def Block.uptime (b : Block) : Nat := (b.now - b.pcr.bootAt) / 8000000000

/-- A line port is not DARK. -/
def Block.notDark (b : Block) (p : Nat) : Bool := b.lfState p != 0

/-- SYS_EOL_HRS (R479). -/
def Block.eolHrs (b : Block) : Nat :=
  (([0, 1].filter b.notDark).map fun p => b.regN (R.loAgeEolHrs p)).foldl min 0xFFFFFFFF

/-- The bits of SYS_HEALTH in a mask are evaluated: a rise sets SYS_HEALTH_STICKY and raises HEALTH_WARN (R478). -/
def Block.healthSet (mask bits : Nat) (b : Block) : Block :=
  let old := b.regN R.sysHealth
  let new := Nat.lor (Nat.land old (Nat.xor 0xFFF mask)) (Nat.land bits mask)
  let risen := Nat.land new (Nat.xor 0xFFF (Nat.land old 0xFFF))
  let b := b.putN R.sysHealth new
  if risen = 0 then b
  else (b.setBits R.sysHealthSticky risen).event 0x0060 1 devJob 9 (Bits.leBytes 4 risen ++ Bits.leBytes 4 new)

/-- The sum of the bits of a list whose condition holds. -/
def Rel.bitsOf (l : List (Nat × Bool)) : Nat := Bits.sum (l.map fun e => if e.2 then 2 ^ e.1 else 0)

/-- State conditions are evaluated continuously (Table 18-6): run at the end of each row. -/
def Block.healthSettle (b : Block) : Block :=
  if b.pcr.phase ≠ 4 ∨ b.cpOut 9 then b
  else
    let failed (p : Nat) : Bool := b.laser p 1 == 2 || b.laser p 2 == 2
    let mem := (List.range 8).any fun st => Mc.stackState b.mc.retired st != 0
    let b := b.healthSet 0xC1C (Rel.bitsOf [(2, failed 0), (3, failed 1), (4, mem), (10, b.bit R.dbgHangStat 31), (11, b.regN R.dbgFrozen != 0)])
    b.putN R.sysEolHrs b.eolHrs

/-- 1 h. -/
abbrev hour : Time := 28800000000000

/-- Quantity `k` of the last complete hour (Table 18-7). -/
def Block.lastHour (b : Block) (k : Nat) : Nat := AMap.getD b.health.last k 0

/-- An hour of telemetry ends: what it tallied becomes the last hour, and the next one begins (R478). -/
def Block.hourTurn (b : Block) : Block :=
  let b := b.thrCount
  let h := b.health
  { b with health := { h with last := h.cur, cur := [], tjLast := h.tj.getD h.tjLast, tj := none, hourAt := h.hourAt + hour } }

/-- The health conditions that an hour decides (R478, Table 18-6), by bit of SYS_HEALTH. -/
def Block.hourBits (b : Block) : Nat :=
  let cfg := b.regN R.sysHealthCfg
  let margin (p : Nat) : Bool := (List.range 32).any fun m => decide (cfg % 65536 ≤ b.lastHour (32 + 32 * p + m))
  Rel.bitsOf [(0, decide (b.regN (R.loAgeEolHrs 0) < 2160)), (1, decide (b.regN (R.loAgeEolHrs 1) < 2160)),
    (5, (List.range 8).any fun k => decide (cfg / 65536 ≤ b.lastHour k)), (6, margin 0), (7, margin 1), (8, decide (36000 ≤ b.lastHour 20)),
    (9, b.lastHour 26 != 0 || b.lastHour 27 != 0)]

/-- HEALTH_HOURLY: on each hour since boot the quantities of the hour are kept and the hourly bits evaluated (R478, Table 18-6). -/
def Rel.hourly (b : Block) : Block :=
  if b.pcr.phase ≠ 4 ∨ b.cpOut 9 ∨ b.now < b.health.hourAt + hour then b
  else b.hourTurn.healthSet 0x3E3 b.hourTurn.hourBits

/-! ## The health record (R480) -/

/-- A number limited to the largest value of a field of `n` bytes. -/
def Rel.sat (n v : Nat) : List Byte := Bits.leBytes n (min v (256 ^ n - 1))

/-- The part of a line port (Table 18-8). -/
def Block.healthPort (b : Block) (p : Nat) : List Byte :=
  Bits.leBytes 1 (b.lfState p) ++ Bits.leBytes 1 (b.combActive p + 4 * b.laser p 1 + 16 * b.laser p 2) ++
  Bits.leBytes 2 (b.fld (R.loCombStat p) 9 0) ++ Bits.leBytes 4 (b.regN (R.loAgeEolHrs p)) ++ Bits.leBytes 4 (b.regN (R.loAgeOnhrsMain p)) ++
  Bits.leBytes 4 (b.regN (R.loAgeOnhrsSpare p)) ++ Rel.sat 2 (b.lastHour (24 + p)) ++ Rel.sat 2 (b.lastHour (26 + p)) ++ Bits.leBytes 12 0 ++
  ((List.range 32).flatMap fun m => Rel.sat 2 (b.lastHour (32 + 32 * p + m)) ++ Bits.leBytes 2 (b.fld (R.loMRxpwr p m) 15 0)) ++ Bits.leBytes 32 0

/-- The health record (Table 18-7). -/
def Block.healthRecord (b : Block) : List Byte :=
  let boot (k : Nat) : Nat := AMap.getD b.health.boot k 0
  let avg := if b.lastHour 22 = 0 then 0 else b.lastHour 21 / b.lastHour 22
  Bits.leBytes 2 1 ++ Bits.leBytes 2 0 ++ Bits.leBytes 4 (b.regN R.sysHealth) ++ Bits.leBytes 8 b.traceTime ++ Bits.leBytes 4 b.uptime ++
  Bits.leBytes 4 (b.regN R.secBootCnt) ++ Bits.leBytes 4 b.eolHrs ++ Bits.leBytes 2 (Bits.ofInt 16 b.health.tjLast) ++ Rel.sat 2 avg ++
  Rel.sat 4 (b.lastHour 20) ++ Bits.leBytes 4 0 ++ ((List.range 8).flatMap fun k => Rel.sat 2 (b.lastHour k)) ++
  ((List.range 8).flatMap fun k => Rel.sat 1 (boot (8 + k))) ++ Bits.leBytes 2 b.mc.retired.length ++ Bits.leBytes 2 (b.fld R.memCap 8 0) ++
  Rel.sat 4 (b.lastHour 16) ++ Rel.sat 4 (boot 17) ++ Rel.sat 4 (b.lastHour 18) ++ Rel.sat 4 (boot 19) ++ Bits.leBytes 12 0 ++
  b.healthPort 0 ++ b.healthPort 1 ++ Bits.leBytes 32 0

/-- HEALTH_READ (R480). -/
def Rel.healthRead (id : Nat) (r : Req) (b : Block) : Block :=
  Ci.check8 id r [(16, badAddr r.a0 r.a1 64), (24, decide (r.a1 < 512)), (28, r.nz 28 4), (32, r.nz 32 32)] (fun b =>
    let b := b.thrCount
    (b.dxWrite r.a0 b.healthRecord).ok id 512) b

/-! ## The telemetry snapshot (R482, R483) -/

/-- SNAPSHOT_CONFIG (R482). -/
def Rel.snapConfig (id : Nat) (r : Req) (b : Block) : Block :=
  Ci.check8 id r [(16, decide (r.a0 % 2048 ≠ 0) || !inMgmtOs r.a0 r.a1), (24, !powerWithin r.a1 (2 ^ 15) (2 ^ 27)), (28, r.nz 28 4),
      (32, r.nz 32 32)] (fun b =>
    { b with health := { b.health with snap := (r.a0, r.a1 / 2048) } }.ok id 0) b

/-- A snapshot slot (Table 18-10). -/
def Block.snapshot (b : Block) : List Byte :=
  let sec := (b.localTime / 8000000000).toNat
  let ns := (b.localTime % 8000000000).toNat / 8
  let set (k n : Nat) : List Byte := b.cntRecord k 1024 (List.range n)
  Bits.leBytes 1 1 ++ Bits.leBytes 1 (Bits.ofBool b.timeValid + (if b.regN R.dbgFrozen = 0 then 0 else 2)) ++ Bits.leBytes 2 0 ++
  Bits.leBytes 4 (b.regN R.sysSnapSeq) ++ Bits.leBytes 8 b.traceTime ++ Bits.leBytes 8 (sec % 2 ^ 48) ++ Bits.leBytes 4 ns ++
  Bits.leBytes 4 b.uptime ++ Bits.leBytes 4 b.health.missed ++ Bits.leBytes 28 0 ++ set 0x81 28 ++ set 0x82 33 ++ set 0x83 30 ++
  Bits.leBytes 136 0 ++ b.healthRecord ++ Bits.leBytes 512 0

/-- The time of the next snapshot is one second on (R483). -/
def Block.snapNext (b : Block) : Block := { b with health := { b.health with snapAt := b.health.snapAt + 8000000000 } }

/-- A snapshot is written to its slot, and the run of missed ones ends (R483). -/
def Block.snapPut (addr slots : Nat) (b : Block) : Block :=
  let n := b.regN R.sysSnapSeq
  let b := (b.dxWrite (addr + n % slots * 2048) b.snapshot).putN R.sysSnapSeq (n + 1)
  { b with health := { b.health with missed := 0 } }

/-- TELEMETRY_SNAPSHOT: at each second of crystal time a snapshot is written, or counted as missed; an hourly evaluation of the same tick comes
first (R483). -/
def Rel.takeSnapshot (b : Block) : Block :=
  if b.pcr.phase ≠ 4 ∨ b.now < b.health.snapAt + 8000000000 then b
  else
    let b := (Rel.hourly b).snapNext
    if b.cpOut 9 ∨ b.funcMode 0x800 ≠ 1 ∨ b.health.snap.2 = 0 then
      { b.bump R.sysSnapMiss with health := { b.health with missed := b.health.missed + 1 } }
    else b.thrCount.snapPut b.health.snap.1 b.health.snap.2

end Sys2Proof.Machine
end

