-- ==== Sys2Proof/Machine/Job.lean ====
section
/-! DEFINITION. Jobs, rings and regions (chapter 2), the rank and mask tables of a job and requester resets (chapter 3), ownership
revocation, and the job fence with its notices (R468 to R471). -/

namespace Sys2Proof.Machine

/-- Every parameter byte that no field takes is 0: those outside the listed ranges of Table 2-8. -/
def Job.noParams (r : Req) : List (Nat × Bool) := [(16, r.nz 16 8), (24, r.nz 24 4), (28, r.nz 28 4), (32, r.nz 32 32)]

/-! ## SYS_NOP, SYS_QUERY and REGION_CONFIG (R68, R70) -/

/-- SYS_NOP. -/
def Sys.nop (id : Nat) (r : Req) (b : Block) : Block := Ci.check8 id r (Job.noParams r) (fun b => b.ok id 0) b

/-- The SYS_QUERY record (Table 2-15). -/
def Block.sysRecord (b : Block) : List Byte :=
  Bits.leBytes 4 (b.regN R.sysId) ++ Bits.leBytes 4 (b.regN R.sysCap0) ++ Bits.leBytes 4 (b.regN R.sysCap1) ++ Bits.leBytes 4 (b.regN R.sysCap2) ++
  Bits.leBytes 1 b.pstate ++ Bits.leBytes 1 (b.fld R.secStat 31 30) ++ Bits.leBytes 2 (b.fld R.memCap 8 0) ++ Bits.leBytes 2 b.replayGib ++
  Bits.leBytes 2 b.bm.residGib ++ Bits.leBytes 8 b.stagingSize ++ Bits.leBytes 2 (b.jobs.filter fun e => e.2.state != 2).length ++
  Bits.leBytes 1 (b.lfState 0) ++ Bits.leBytes 1 (b.lfState 1) ++ Bits.leBytes 4 (b.regN R.sysHealth) ++ Bits.leBytes 4 (b.regN R.secCompat) ++
  Bits.leBytes 4 (b.regN R.secFwSvn) ++ Bits.leBytes 4 b.uptime ++ Bits.leBytes 12 0

/-- SYS_QUERY (R70). -/
def Sys.query (id : Nat) (r : Req) (b : Block) : Block :=
  Ci.check8 id r [(16, badAddr r.a0 r.a2 64), (24, r.nz 24 4), (28, decide (r.a2 < 64)), (32, r.nz 32 32)] (fun b =>
    (b.dxWrite r.a0 b.sysRecord).ok id 64) b

/-- What staging holds now: tables and bitmaps, the receive pool, and allocated buffers (R68). -/
def Block.stagingUsed (b : Block) : Nat :=
  b.bm.tabs.length * frameB + b.fld R.teRxpool 7 0 * gib +
  Bits.sum ((b.bm.bufs.filter fun e => e.2.live && !e.2.scr && e.2.general).map fun e => Bm.size (e.1 / 2 ^ 32))

/-- REGION_CONFIG (R19, R68, R234). -/
def Sys.regionConfig (id : Nat) (r : Req) (b : Block) : Block :=
  let rep := r.u 32 2
  let res := r.u 34 2
  Ci.check8 id r [(16, r.nz 16 8), (24, r.nz 24 4), (28, r.nz 28 4), (32, decide (rep ≠ 0 ∧ (rep < 16 ∨ 160 < rep))),
      (34, decide (res ≠ 0xFFFF ∧ 352 < res)), (36, r.nz 36 28)] (fun b =>
    let rep := if rep = 0 then b.replayGib else rep
    let res := if res = 0xFFFF then b.bm.residGib else res
    let low := (b.ce.resids.map fun e => e.2.addr).foldl min b.memTop
    let service := b.fld R.memCap 8 0 * gib
    if rep ≠ b.replayGib ∧ (!b.funcOff 0x200 || !b.funcOff 0x201) then b.done id St.state 1
    else if res * gib < b.memTop - low then b.done id St.state 2
    else if service < (12 + rep + res) * gib + max (32 * gib) b.stagingUsed then b.done id St.noResource 1
    else
      let b := { b.putFld R.teReplaySize 7 0 rep with bm := { b.bm with residGib := res } }
      b.ok id b.stagingSize) b

/-! ## Opening, configuring and querying a job (R65, R66, R71) -/

/-- A job number is free: CLOSED, with no JOB_CLOSE still running. -/
def Block.jobFree (b : Block) (j : Nat) : Bool := (b.job j).state == 2 && (b.job j).closing.isNone

/-- JOB_OPEN (R65, R431). -/
def Job.openJob (id : Nat) (r : Req) (b : Block) : Block :=
  let j := r.a2
  if b.pstate = 1 then b.done id St.state 1
  else
    Ci.check8 id r [(16, r.nz 16 8), (24, r.nz 24 4), (28, decide (1023 < j ∧ j ≠ 0xFFFFFFFF)), (32, r.nz 32 32)] (fun b =>
      if j ≠ 0xFFFFFFFF ∧ !b.jobFree j then b.done id St.state (b.job j).state
      else match (if j = 0xFFFFFFFF then Bits.findBelow 1024 b.jobFree else some j) with
        | none => b.done id St.noResource 5
        | some n =>
          let b := { b with jobs := AMap.set b.jobs n ⟨0, none, none, 0, 0, false, false, 5, 0⟩ }
          ((b.clearCounts n).rateDefaults n).ok id n) b

/-- JOB_CONFIG (R66, R175). -/
def Job.config (id : Nat) (r : Req) (b : Block) : Block :=
  let fab := r.u 32 4
  let far := r.u 36 4
  let bits := r.u 40 1
  let strict := r.u 41 1
  let tmoBad (v : Nat) : Bool := decide (10000 < v ∧ v ≠ 0xFFFFFFFF)
  Ci.check8 id r [(16, r.nz 16 8), (24, r.nz 24 4), (28, r.nz 28 4), (32, tmoBad fab), (36, tmoBad far),
      (40, decide (bits ≠ 0 ∧ bits ≠ 8 ∧ bits ≠ 16)), (41, decide (1 < strict ∧ strict ≠ 0xFF)), (42, r.nz 42 22)] (fun b =>
    let job := b.cmdJob r
    let j := b.job job
    let wide := if bits = 0 then j.wide else bits == 16
    if wide ≠ j.wide ∧ b.ce.resids.any (fun e => e.2.job == job) then b.done id St.state 1
    else (b.modJob job fun j => { j with
      fabTmo := if fab = 0xFFFFFFFF then j.fabTmo else if fab = 0 then 5 else fab
      farTmo := if far = 0xFFFFFFFF then j.farTmo else far
      wide := wide
      strict := if strict = 0xFF then j.strict else strict == 1 }).ok id 0) b

/-- The rings bound to a job. -/
def Block.jobRings (b : Block) (job : Nat) : List Nat :=
  (b.rings.filter fun e => e.2.isJob && e.2.job == job).map (·.1)

/-- Tile contexts that a job holds, early ones among them. -/
def Block.jobTiles (b : Block) (job : Nat) : Nat :=
  Bits.sum ((b.ce.colls.filter fun e => e.2.job == job).map fun e => e.2.tiles.length) +
  (((b.ce.early.filter fun e => e.job == job).map fun e => (e.cid, e.tile)).eraseDups).length

/-- The JOB_QUERY record (Table 2-16). -/
def Block.jobRecord (b : Block) (job : Nat) : List Byte :=
  let j := b.job job
  let mine {α : Type} (m : AMap α) (f : α → Nat) : Nat := (m.filter fun e => f e.2 == job).length
  let held := b.bm.bufs.filter fun e => e.2.live && Own.engine e.2.holder != 15 && Own.job e.2.holder == job
  Bits.leBytes 2 job ++ Bits.leBytes 1 j.state ++
  Bits.leBytes 1 (Bits.ofBool j.fence.isSome + 2 * Bits.ofBool j.strict + 4 * Bits.ofBool j.wide) ++ Bits.leBytes 4 j.fabTmo ++
  Bits.leBytes 4 j.farTmo ++ Bits.leBytes 4 (((b.rankTab job).map (·.count)).getD 0) ++ Bits.leBytes 2 (mine b.fwu.wins (·.job)) ++
  Bits.leBytes 2 (mine b.ce.trees (·.job)) ++ Bits.leBytes 2 (mine b.ce.colls (·.job)) ++ Bits.leBytes 2 (b.jobRings job).length ++
  Bits.leBytes 4 (mine b.fwu.ctxs (·.job)) ++ Bits.leBytes 4 (b.jobTiles job) ++
  Bits.leBytes 8 (Bits.sum (held.map fun e => Bm.size (e.1 / 2 ^ 32))) ++
  Bits.leBytes 8 (Bits.sum ((b.ce.resids.filter fun e => e.2.job == job).map fun e => e.2.size)) ++
  Bits.leBytes 4 (Bits.sum ((b.ss.aggs.filter fun e => e.1 / 8 == job).map fun e => e.2.rate)) ++ Bits.leBytes 2 j.fenceCause ++
  Bits.leBytes 2 j.fenceDetail ++ Bits.leBytes 8 0

/-- JOB_QUERY (R69, R71). -/
def Job.query (id : Nat) (r : Req) (b : Block) : Block :=
  Ci.check8 id r [(16, badAddr r.a0 r.a1 64), (24, decide (r.a1 < 64)), (28, r.nz 28 4), (32, r.nz 32 32)] (fun b =>
    let job := b.cmdJob r
    (b.dxWrite r.a0 (b.jobRecord job)).ok id ((b.job job).state + 256 * Bits.ofBool (b.job job).fence.isSome)) b

/-! ## Binding and resetting rings (R59, R67) -/

/-- RING_BIND (R67). -/
def Job.ringBind (id : Nat) (r : Req) (b : Block) : Block :=
  let n := r.a2
  let mgmt := Bits.bit (r.u 32 1) 0
  Ci.check8 id r [(16, r.nz 16 8), (24, r.nz 24 4), (28, decide (n = 0 ∨ 255 ≤ n)), (32, decide (1 < r.u 32 1)), (33, r.nz 33 31)] (fun b =>
    let x := b.ring n
    if x.enable then b.done id St.state (x.state n)
    else if x.isJob ∧ x.job ≠ r.jobN ∧ (b.job x.job).state ≠ 2 then b.done id St.notOwner 0
    else if !mgmt ∧ !b.jobOpen r.jobN then b.done id St.state (b.job r.jobN).state
    else (b.modRing n fun x => { x with bound := true, mgmt := mgmt, job := if mgmt then x.job else r.jobN }).ok id 0) b

/-- RING_RESET: the ring fetches nothing more until it ends (R59). -/
def Job.ringReset (id : Nat) (r : Req) (b : Block) : Block :=
  let n := r.a1
  Ci.check8 id r [(16, r.nz 16 8), (24, decide (255 ≤ n)), (28, r.nz 28 4), (32, r.nz 32 32)] (fun b =>
    let x := b.ring n
    if x.reset.isSome then b.complete id (Comp.of St.busy 0 0)
    else b.modRing n fun x => { x with reset := some id }) b

/-- The zeroing of a completion ring succeeds: the first and the last entry can be written. -/
def Block.zeroable (b : Block) (n : Nat) : Bool := b.cqWritable n 0 && b.cqWritable n (2 ^ (b.ring n).cqSize - 1)

/-- A RING_RESET whose ring has posted every command in flight ends: its unfetched packets are discarded and its indices return to 0, or,
when the storage cannot be zeroed, the ring stays in ERROR with its indices and kept completions (R59). A packet held behind a BARRIER for a
completion that the ring keeps is in flight and keeps the reset waiting: DESIGN CHOICE (log entry 91). -/
def Block.resetStep (n : Nat) (b : Block) : Block :=
  let x := b.ring n
  match x.reset with
  | none => b
  | some id =>
    if !(b.inflOn n).isEmpty || !x.held.isEmpty then b
    else if !b.zeroable n then
      let b := if x.err = 4 then b else b.ringError n 4
      (b.modRing n fun x => { x with reset := none, enable := false }).done id St.state 2
    else
      let b := b.cqWrite n 0 (List.replicate (32 * 2 ^ x.cqSize) 0#8)
      let b := b.modRing n fun x => { x with
        reset := none, kept := [], prod := 0, head := 0, tail := 0, cqHead := 0, enable := false, stopped := false, err := 0,
        passed := 0, unsig := 0 }
      b.complete id ⟨St.ok, 0, 0, x.unfetched, x.kept.length⟩

/-- Ring resets that wait: run at the end of each row. -/
def Block.ringSettle (b : Block) : Block := (b.rings.map (·.1)).foldl (fun b n => b.resetStep n) b

/-! ## Rank tables and requester resets (R80, R81, R97 to R100) -/

/-- The collective still awaits a contribution of a rank (R98): of a contributor, or of the DX-64 at the end of a fabric edge, whose partials,
results and, between an owner and its relay, tiles it awaits. -/
def Block.awaitsRank (b : Block) (c : Coll) (rank : Nat) : Bool :=
  match c.a2a with
  | some a => c.state == 1 && c.contrib.contains rank && (a.others b.site).any fun s => match a.mode with
      | 0 => decide (AMap.getD a.out s 0 < a.equal)
      | 1 => decide (AMap.getD a.out s 0 < a.send.getD s 0 * 4096)
      | _ => !a.lasts.contains (rank, s)
  | none =>
    let kid (k : Nat) (i : Nat) : Bool := ((c.tree k).children[i]?).any fun e => Edge.kind e.1 == 2 && Edge.rank e.1 == rank
    let far (e : Nat) : Bool := Edge.kind e == 2 && Edge.rank e == rank
    c.state == 1 && (List.range c.ntiles).any fun t =>
      let x := AMap.get? c.tiles t
      let tr := c.tree (c.treeNo t)
      let sent := x.any (·.sentUp) || b.ce.items.any fun i => i.coll == Coll.keyOf c.job c.cid && i.tile == t && i.kind == 1
      let got := x.any (·.done_) || b.ce.items.any fun i => i.coll == Coll.keyOf c.job c.cid && i.tile == t && i.kind == 2
      !c.handled.contains t &&
      (tr.role == 2 && far tr.relayTo && (if tr.upEdge.isSome then c.goesUp b.site t && !sent else c.comesDown b.site t && !got) ||
       tr.role == 1 && far tr.parent && c.comesDown b.site t && !got ||
       c.contrib.contains rank && c.hasL1 b.site t && !(x.any fun y => y.level1 || y.last.contains rank) ||
       (c.needKids t).any fun i => kid (c.treeNo t) i && !(x.any fun y => y.kids.contains i))

/-- Packets that the Eddy buffer holds and a test selects are discarded. -/
def Block.dropEddy (gone : FabPkt → Bool) (b : Block) : Block :=
  let b := b.onFif fun f => { f with
    got := f.got.filter fun p => !gone p
    blocked := f.blocked.filter fun p => !gone p
    rx := f.rx.map fun (e : Nat × RxStream) => (e.1, { e.2 with held := e.2.held.filter fun h => !gone h.2.2 }) }
  b.onCe fun c => { c with wait := c.wait.filter fun p => !gone p, early := c.early.filter fun e => !(e.pkt.any gone) }

/-- Outstanding tags that a test selects end at once with a status, in quarantine (R90, R97). -/
def Block.tagsEnd (gone : Tag → Bool) (st : Nat) (b : Block) : Block :=
  (b.fif.tags.filter fun e => gone e.2).foldl (fun b e => (b.quarantine e.1).tagAnswer e.2.use st []) b

/-- What a reset does to a VALID rank of a job (R97 steps 1, 2 and 4 to 6, R98, R99): its operations end with `st`, and requests to it time out, or end FENCED with a fenced job (R100). -/
def Block.rankReset (st job rank : Nat) (b : Block) : Block :=
  let key (k : Nat) : Bool := k / 8 == job * 2 ^ 24 + rank
  let fab := ((b.rankTab job).map (·.fabJob)).getD 1024
  let b := b.dropEddy fun p => p.job.toNat == job && p.srcRank.toNat == rank
  let b := b.onFif fun f => { f with
    rx := f.rx.filter fun (e : Nat × RxStream) => !key e.1
    txSeq := f.txSeq.filter fun (e : Nat × Nat) => !key e.1
    txq := f.txq.filter fun x => x.mcast || x.link || x.pkt.job.toNat != fab || x.pkt.dstRank.toNat != rank }
  let mine (c : OpCtx) : Bool := c.job == job && c.rank == rank && c.bulk.isNone
  let b := if b.jobOpen job then
      let b := b.onFwu fun f => { f with fences := f.fences.filter fun (e : Nat × Fence) => !(e.2.job == job && e.2.rank == rank && e.2.cmd.isNone) }
      (b.ctxsGone st mine).2
    else b
  let b := b.tagsEnd (fun g => g.job == job && g.rank == rank) (if st = St.fenced then St.fenced else St.timeout)
  let hit := b.ce.colls.filter fun e => e.2.job == job && b.awaitsRank e.2 rank
  hit.foldl (fun b e => b.collFail e.1 st 0 0 none) b

/-- JOB_RANKS (R80, R81). The model's choices (DESIGN CHOICE, log entry 70): with OP 0 DESC_LEN may be any length that holds the entries, and
with OP 1 RESULT0 returns COUNT. -/
def Job.ranks (id : Nat) (r : Req) (b : Block) : Block :=
  Ci.check8 id r [(16, badAddr r.a0 r.a1 64), (24, decide (r.a1 < 32)), (28, r.nz 28 4), (32, r.nz 32 32)] (fun b =>
    let b := b.readCount r.a0 r.a1
    let job := b.cmdJob r
    let op := b.d r.a0 2 1
    let count := b.d r.a0 16 4
    if op = 1 ∧ r.a1 ≠ 32 ∨ op = 0 ∧ r.a1 < 32 + 4 * count then b.badParam id 24
    else match b.rankDescBad job r.a0 with
    | some o => b.badDesc id o
    | none => match b.loadRanks job r.a0 with
      | none => b.done id St.noResource 1
      | some b' =>
        if op = 0 then b'.ok id count
        else
          let first := b.d r.a0 12 4
          let gone := (((b'.rankTab job).map (·.entries)).getD []).filter fun e => first ≤ e.1 && e.1 < first + count
          let b' := gone.foldl (fun b e => b.rankReset St.requesterGone job e.1) b'
          let b' := b'.onFif fun f => { f with ranks := AMap.adjust f.ranks job fun t =>
            { t with entries := t.entries.filter fun (e : Nat × (Nat × Nat)) => !(first ≤ e.1 && e.1 < first + count) } }
          b'.ok id count) b

/-- RESET_NOTICE `sel` of a fabric port address acts: every rank at the address is reset (R97). `fenced` are the jobs that a JOB_FENCE of the
same moment fences, whose operations end FENCED (R100). -/
def Fif.notice (sel fpa : Nat) (fenced : List Nat) (b : Block) : Block :=
  let hit := b.fif.ranks.flatMap fun e => ((e.2.entries.filter fun x => x.2.1 == fpa).map fun x => (e.1, x.1))
  let b := ((b.dropMgmt sel).onFif fun f => { f with
    resets := if f.resets.contains fpa then f.resets else f.resets ++ [fpa] }).bump R.fifResetCnt
  let b := hit.foldl (fun b e => b.rankReset (if fenced.contains e.1 then St.fenced else St.requesterGone) e.1 e.2) b
  b.event 0x0010 2 devJob 26 (Bits.leBytes 2 fpa ++ Bits.leBytes 4 hit.length)

/-- RESET_NOTICE_RX of management packet `sel`: every VALID rank at the address is reset, and its packets are discarded until
RESET_DONE (R97, R100). -/
def Fif.resetNotice (sel : Nat) (fenced : List Nat) (b : Block) : Block :=
  match b.fif.mgmt[sel]? with
  | none => b
  | some p => if p.opcode ≠ 0x52#8 then b else Fif.notice sel (Bits.ofLe (p.payload.take 2)) fenced b

/-- RESET_DONE_RX of management packet `sel` (R97 step 3). -/
def Fif.resetDone (sel : Nat) (b : Block) : Block :=
  match b.fif.mgmt[sel]? with
  | none => b
  | some p =>
    if p.opcode ≠ 0x53#8 then b
    else (b.dropMgmt sel).onFif fun f => { f with
      resets := f.resets.filter fun a => a != Bits.ofLe (p.payload.take 2) }

/-- MCAST_SET (R94, R95). -/
def Job.mcastSet (id : Nat) (r : Req) (b : Block) : Block :=
  let ix := r.a2
  Ci.check8 id r [(16, badAddr r.a0 r.a1 64), (24, r.a1 != 128), (28, decide (4096 ≤ ix)), (32, r.nz 32 32)] (fun b =>
    let b := b.readCount r.a0 128
    let job := b.cmdJob r
    let other := (AMap.get? b.fif.masks ix).any fun m => m.job != job && (b.job m.job).state != 2
    if other then b.done id St.notOwner 0
    else match b.maskUser ix with
      | some c => b.done id St.state c.state
      | none =>
        let bits := b.dxBytes r.a0 128
        Fif.mcastWrite id ix job (Bits.ofLe bits) bits b) b

/-! ## Ownership revocation (R60, R61) -/

/-- OWNER_REVOKE: the revocation runs (R60). -/
def Job.revoke (id : Nat) (r : Req) (b : Block) : Block :=
  let owner := r.a2
  let mask := r.u 32 4
  let scope := r.u 36 1
  Ci.check8 id r [(16, r.nz 16 8), (24, r.nz 24 4), (28, decide (2 ^ 20 ≤ owner)),
      (32, decide (2 ^ 20 ≤ mask) || Bits.bit scope 1 && Nat.land mask 0xFFC3F != 0), (36, decide (16 ≤ scope)), (37, r.nz 37 27)] (fun b =>
    { b with bm := { b.bm with revoke := b.bm.revoke ++ [⟨id, owner, mask, scope, []⟩] } }) b

/-- Contexts of a matching owner end with REQUESTER_GONE (R60). -/
def Block.revokeCtxs (owner mask : Nat) (b : Block) : Block :=
  let cs := b.fwu.ctxs.filter fun e => Own.hit owner mask (Own.of e.2.job 2)
  let b := cs.foldl (fun b e => (b.ctxReply e.2 St.requesterGone []).ctxEnd e.1 St.requesterGone true) b
  let es := b.fwu.ents.filter fun e => Own.hit owner mask (Own.of e.2.job 2)
  let b := es.foldl (fun b e => b.entRespond e.1 e.2 St.requesterGone (b.entOffset e.2) []) b
  let ks := b.ce.colls.filter fun e => Own.hit owner mask (Own.of e.2.job 3)
  ks.foldl (fun b e => b.collFail e.1 St.requesterGone 0 0 none) b

/-- What OWNER_REVOKE takes from the owners it names, by SCOPE (R60): contexts, queue entries, banks and buffers; the buffers' number
and bytes are counted, those that go with a context or a queue entry among them. A queue entry belongs to its job, engine 7 (SS) and
sub-owner 0: DESIGN CHOICE (log entry 64), for R60 names the owners of contexts only. -/
def Block.revokeAll (v : Revoke) (b : Block) : Block × Nat × Nat :=
  let live := b.bm.bufs.filter fun e => e.2.live
  let jobs := (b.ss.queues.map fun e => Ss.jobOf e.1).eraseDups.filter fun j => Own.hit v.owner v.mask (Own.of j 7)
  let b := if Bits.bit v.scope 3 then b.revokeCtxs v.owner v.mask else b
  let b := if Bits.bit v.scope 2 then jobs.foldl (fun b j => b.ssDrop j fun _ => false) b else b
  let b := if Bits.bit v.scope 1 then b.revokeBanks v.owner v.mask else b
  let b := if Bits.bit v.scope 0 then b.revokeBufs (Own.hit v.owner v.mask) else b
  let gone := live.filter fun e => !((AMap.get? b.bm.bufs e.1).any fun x => x.live && x.gen == e.2.gen)
  (b, gone.length, Bits.sum (gone.map fun e => Bm.size (e.1 / 2 ^ 32)))

/-- OWNER_REVOKE_DONE: the oldest revocation takes effect and completes, then the buffer commands that waited for it are checked (R60,
R61). -/
def Job.revokeDone (b : Block) : Block :=
  match b.bm.revoke with
  | [] => b
  | v :: vs =>
    let (b, n, bytes) := ({ b.ccSettle with bm := { b.bm with revoke := vs } } : Block).revokeAll v
    let b := b.complete v.cmd ⟨St.ok, 0, 0, n, bytes⟩
    v.waits.foldl (fun b w => if (b.cmd? w.1).any (·.done.isNone) then Bm.bufOp w.2.1 w.1 w.2.2 b else b) b

/-! ## The job fence (R32, R62, R64, R100, R240, R271, R468 to R471) -/

/-- The distinct pairs of peer gateway and peer job of a job, from its windows and the line edges of its trees (R469). -/
def Block.fencePairs (b : Block) (job : Nat) : List (Nat × Nat) :=
  let ws := (b.fwu.wins.filter fun e => e.2.job == job).map fun e => (e.2.peer, e.2.peerJob)
  let line (e : Nat) : List (Nat × Nat) := if Edge.kind e = 1 then [(Edge.peer e, Edge.job e)] else []
  let ts := (b.ce.trees.filter fun e => e.2.job == job).flatMap fun e =>
    line e.2.parent ++ line e.2.relayTo ++ e.2.children.flatMap fun c => line c.1
  (ws ++ ts).eraseDups

/-- The packets, operations, tags and messages of a job are discarded and ended FENCED; answers the operations that were (R32, R128). -/
def Block.fenceFar (job : Nat) (b : Block) : Nat × Block :=
  let fab := ((b.rankTab job).map (·.fabJob)).getD 1024
  let b := b.dropEddy fun p => p.job.toNat == job
  let b := b.onFif fun f => { f with
    txq := f.txq.filter fun x => x.link || x.pkt.job.toNat != fab
    tagWait := f.tagWait.filter fun w => w.job != job }
  let sets := (b.fif.masks.filter fun e => e.2.job == job).flatMap fun e => e.2.cmds.map fun c => (e.1, c.1)
  let b := sets.foldl (fun b e => b.mcastEnd e.1 e.2 St.fenced) b
  let b := b.onFwu fun f => { f with fences := f.fences.filter fun (e : Nat × Fence) => e.2.job != job }
  let (n, b) := b.ctxsGone St.fenced fun c => c.job == job
  let b := b.tagsEnd (fun g => g.job == job) St.fenced
  let held := (b.fwu.ents.filter fun e => e.2.job == job && e.2.started.isNone && !e.2.resp).map (·.1)
  (n, held.foldl (fun b i => b.entDiscard i) b)

/-- A collective message for a job. -/
def InMsg.collOf (job : Nat) (x : InMsg) : Bool :=
  match x.msg with
  | .coll m => m.job.toNat % 1024 == job
  | _ => false

/-- Received collective messages of a job are discarded: those that wait for the CE, and those that it keeps for collectives that do not run
yet (R32, R145). -/
def Block.dropColl (job : Nat) (b : Block) : Block :=
  let early := (b.ce.early.filter fun e => e.job == job).filterMap (·.line)
  let gone := b.inbox.filter (InMsg.collOf job)
  let b := { b with inbox := b.inbox.filter fun x => !x.collOf job }
  (gone ++ early).foldl (fun b x => b.freeIn x) (b.onCe fun c => { c with early := c.early.filter fun e => e.job != job })

/-- The job's traffic in the CE, the CX, the CC, the SS and the TE is discarded and its collectives end FENCED. Fence notices stay (R32,
R240, R271, R469). -/
def Block.fenceLine (job : Nat) (b : Block) : Block :=
  let ks := (b.ce.colls.filter fun e => e.2.job == job).map (·.1)
  let b := ks.foldl (fun b k => b.collEnd k St.fenced 0 0) b
  let b := b.dropColl job
  let b := b.onCx fun c => { c with comp := c.comp.map fun (e : Nat × CxLane) =>
    (e.1, { queue := e.2.queue.filter fun s => s.job != job, busy := e.2.busy.filter fun s => s.1.job != job }) }
  let b := b.dropOut fun m => Ss.jobOf m.queue == job && !m.notice
  let b := (b.ssDrop job Sealed.notice).teFence job
  { b.rateWithdraw job with bm := { b.bm with engWait := b.bm.engWait.filter fun a => Own.job a.owner.toNat != job } }

/-- Responses FENCED to the peers whose requests the job's export windows were executing; then the streams of those windows are discarded
(R506). -/
def Block.fenceAnswers (job : Nat) (b : Block) : Block :=
  let b := (b.fwu.ents.filter fun e => e.2.job == job).foldl (fun b e => b.entRespond e.1 e.2 St.fenced (b.entOffset e.2) []) b
  let ws := (b.fwu.wins.filter fun e => e.2.job == job && e.2.kind == 2).map (·.1)
  b.onFwu fun f => { f with streams := f.streams.filter fun s => !ws.contains s.win }

/-- The buffers of a job are reclaimed, and what the units keep of them is forgotten (R32); records that hold fence notices keep theirs
(R469). -/
def Block.bufsGone (job : Nat) (b : Block) : Block :=
  let keep := b.ss.queues.flatMap fun e => e.2.filterMap fun r => if r.notice then r.buf.map fun h => Bm.key (Bits.fld h 42 40) (h % 2 ^ 32) else none
  let mine (o : Option (Nat × Nat)) : Bool := o.any fun e => e.2 == job
  let b : Block := { b with inbox := b.inbox.map fun x => if mine x.buf then { x with buf := none } else x }
  let b := b.onFwu fun f => { f with ents := f.ents.map fun (e : Nat × ExecEnt) => if mine e.2.buf then (e.1, { e.2 with buf := none }) else e }
  let b := b.onCx fun c => { c with segs := c.segs.map fun (e : Nat × CxSeg) => (e.1, { e.2 with
    bufs := e.2.bufs.filter fun (h : Nat × (Nat × Nat)) => h.2.2 != job
    msgs := e.2.msgs.map fun x => if mine x.buf then { x with buf := none } else x }) }
  b.jobBufs job keep

/-- One fence notice (Table 18-2) on class 1, queue 1 (R469). -/
def Block.sendNotice (job : Nat) (m : FenceMsg) (pair : Nat × Nat) (b : Block) : Block :=
  (b.lineSend job pair.1 1 1 (.fence { m with job := BitVec.ofNat 16 pair.2 }) none).bump R.sysFenceTxCnt

/-- Every command of a job that has not posted its completion completes FENCED, but for the fence `cmd` itself (R62): one that another order
still holds back loses the status it had (R157), and one held behind a BARRIER does not start. -/
def Block.fenceCmds (job : Nat) (cmd : Option Nat) (b : Block) : Block :=
  let mine (f : InFlight) : Bool := f.job == job && some f.id != cmd
  let b := { b with infl := b.infl.map fun (f : InFlight) => if mine f then { f with done := none } else f }
  let b := ((b.infl.filter mine).map (·.id)).foldl (fun b id => b.done id St.fenced 0) b
  b.endHeld St.fenced fun opc r => b.countJob opc r == job

/-- A fence takes effect: the job is FENCED, its commands, operations and collectives complete FENCED, its resources are reclaimed, and
notices go to its pairs but `skip` while `hops` is not 0. It stays in progress until JOB_FENCE_COMPLETE. -/
def Block.fenceJob (job : Nat) (m : FenceMsg) (cmd : Option Nat) (hops : Nat) (skip : Option Nat) (b : Block) : Block :=
  let b := b.ccSettle.modJob job fun j => { j with state := 1, fenceCause := m.cause.toNat, fenceDetail := m.detail.toNat, fence := some (cmd, 0) }
  let b := b.event 0x0011 2 job 0
    (Bits.leBytes 2 m.origin.toNat ++ Bits.leBytes 4 m.serial.toNat ++ Bits.leBytes 2 m.cause.toNat ++ Bits.leBytes 2 m.detail.toNat)
  let (n, b) := (b.fenceCmds job cmd).fenceFar job
  let b := b.fenceLine job
  let b := (b.bufsGone job).fenceAnswers job
  let b := b.modJob job fun j => { j with fence := some (cmd, n) }
  if hops = 0 then b
  else ((b.fencePairs job).filter fun p => some p.1 != skip).foldl (fun b p => b.sendNotice job { m with hops := BitVec.ofNat 8 hops } p) b

/-- JOB_FENCE (R64, R468). -/
def Job.fenceStart (id : Nat) (r : Req) (b : Block) : Block :=
  let prop := r.u 32 1
  let hops := r.u 33 1
  let cause := r.u 34 2
  let code := cause == 0 || decide (cause ≤ 3) || decide (0x10 ≤ cause ∧ cause ≤ 0x1F)
  Ci.check8 id r [(16, r.nz 16 8), (24, r.nz 24 4), (28, r.nz 28 4), (32, decide (1 < prop)),
      (33, if prop = 1 then decide (hops < 1 ∨ 15 < hops) else hops != 0), (34, !code), (38, r.nz 38 26)] (fun b =>
    let job := b.cmdJob r
    let j := b.job job
    if j.fence.isSome then b.complete id (Comp.of St.busy 0 0)
    else if j.state = 1 then b.ok id 0
    else
      let n := b.health.fences + 1
      let b := { b with health := { b.health with fences := n } }
      let m : FenceMsg := ⟨0, 0, BitVec.ofNat 16 b.gw, BitVec.ofNat 32 n, BitVec.ofNat 16 cause, BitVec.ofNat 16 (r.u 36 2)⟩
      b.fenceJob job m (some id) hops none) b

/-- JOB_FENCE_COMPLETE: the job's resources are reclaimed, and a JOB_FENCE that began the fence completes OK (R62). -/
def Job.fenceDone (job : Nat) (b : Block) : Block :=
  match (b.job job).fence with
  | none => b
  | some (cmd, n) =>
    let b := b.modJob job fun j => { j with fence := none }
    match cmd with
    | some id => b.ok id n
    | none => b

/-- FENCE_NOTICE_RX of inbound message `sel` (R470, R471). -/
def Job.noticeRx (sel : Nat) (b : Block) : Block :=
  match b.pickIn sel InMsg.notice with
  | some ⟨peer, sjob, _, _, _, .fence m, _, _⟩ =>
    let b := b.dropIn sel
    let job := m.job.toNat % 1024
    if !b.jobOpen job || !(b.fencePairs job).contains (peer, sjob) then b.bump R.sysFenceRejCnt
    else (b.bump R.sysFenceRxCnt).fenceJob job m none (m.hops.toNat - 1) (some peer)
  | _ => b

/-! ## Closing a job (R63) -/

/-- JOB_CLOSE (R63). -/
def Job.close (id : Nat) (r : Req) (b : Block) : Block :=
  Ci.check8 id r (Job.noParams r) (fun b =>
    let job := b.cmdJob r
    let j := b.job job
    if j.state = 0 then b.done id St.state 0
    else if j.fence.isSome then b.done id St.state 1
    else
      let b := b.modJob job fun j => { j with state := 2, closing := some id }
      (b.jobRings job).foldl (fun b n => b.modRing n fun x => { x with enable := false }) b) b

/-- Everything a closed job held is freed. -/
def Block.jobGone (job : Nat) (b : Block) : Block :=
  let seg (k : Nat) : Bool := k / 2 ^ 27 == job
  let b := b.onFif fun f => { f with
    ranks := AMap.erase f.ranks job
    rx := f.rx.filter fun (e : Nat × RxStream) => !seg e.1
    txSeq := f.txSeq.filter fun (e : Nat × Nat) => !seg e.1
    mcSeq := f.mcSeq.filter fun (e : Nat × Nat) => e.1 / 2 ^ 15 != job
    masks := f.masks.filter fun (e : Nat × Mask) => e.2.job != job }
  let gone := (b.fwu.wins.filter fun e => e.2.job == job).map (·.1)
  let b := b.onFwu fun f => { f with
    wins := f.wins.filter fun (e : Nat × Win) => e.2.job != job
    quar := FwuState.forget gone.contains f.quar
    seqs := f.seqs.filter fun (e : Nat × Nat) => !gone.contains (e.1 / 2 ^ 27)
    streams := f.streams.filter fun s => !gone.contains s.win }
  let b := b.onCe fun c => { c with
    trees := c.trees.filter fun (e : Nat × Tree) => e.2.job != job
    resids := c.resids.filter fun (e : Nat × Resid) => e.2.job != job
    progs := c.progs.filter fun (e : Nat × Prog) => e.2.job != job
    fin := c.fin.filter fun (e : Nat × (Nat × Nat)) => e.1 / 4096 != job
    stats := c.stats.filter fun (e : Nat × CollStats) => e.1 / 4096 != job }
  let b := b.onFwu fun f => { f with ents := f.ents.map fun (e : Nat × ExecEnt) =>
    if e.2.job = job && e.2.bad == 0 then (e.1, { e.2 with bad := St.fenced }) else e }
  (((b.dropColl job).giveFrames job).bufsGone job).rateDefaults job

/-- A JOB_CLOSE whose rings hold no other command in flight ends: the rings are unbound and the number is free again (R63). -/
def Block.closeStep (job id : Nat) (b : Block) : Block :=
  let rs := b.jobRings job
  let busy (n : Nat) : Bool := (b.inflOn n).any (fun f => f.id != id) || !(b.ring n).kept.isEmpty || !(b.ring n).held.isEmpty
  if rs.any busy then b
  else
    let b := rs.foldl (fun b n => b.modRing n fun x => { x with bound := false, job := 0 }) b
    let b := b.jobGone job
    { b with jobs := AMap.erase b.jobs job }.ok id 0

/-- Jobs that are closing: run at the end of each row. -/
def Block.jobSettle (b : Block) : Block :=
  b.jobs.foldl (fun b e => match e.2.closing with
    | some id => b.closeStep e.1 id
    | none => b) b

end Sys2Proof.Machine
end

