-- ==== Sys2Proof/Machine/Regs.lean ====
section
/-! DEFINITION. The register space as requesters reach it: which accesses get through (R6, R11, R420, R484, R486, R505), what a read
returns (R7, R8, R10), what a read clears (R12), and what a write changes (R10, R13 and the registers' own rules). -/

namespace Sys2Proof.Machine

/-! ## Which accesses get through -/

/-- What becomes of an access: no answer comes (the path is not there), the register reads 0 and ignores writes, or it acts. -/
inductive Reach where
  | gone
  | void
  | acts
deriving DecidableEq, Repr

/-- A register that the sideband port reaches in Calm and while boot has stopped (R486, R505). -/
def Reg.calm (a : Nat) : Bool := a ≤ 0xC || 0x200000 ≤ a && a ≤ 0x20000C || a == 0x200030 || 0x280000 ≤ a && a < 0x2A0000

/-- A register of SYS, PCR, SEC, MEM or SR, which boot gives a value (R420). -/
def Reg.early (a : Nat) : Bool :=
  a < 0x10000 || 0x200000 ≤ a && a < 0x220000 || 0x240000 ≤ a && a < 0x260000 || 0x280000 ≤ a && a < 0x2A0000

/-- What becomes of an access of a requester to an address (R420, R484 to R486, R505, log entry 61). -/
def Block.reach (b : Block) (rq a : Nat) (write : Bool) : Reach :=
  let stage := b.fld R.pcrBootStat 7 0
  if !Rq.known rq ∨ 0x400000 ≤ a ∨ b.trigHit rq a write then .gone
  else match b.pcr.phase with
    | 4 => if write && b.locked && 10 ≤ rq then .void else .acts
    | 2 =>
      if rq = 38 ∧ stage < 6 then .gone
      else if Reg.early a ∨ a = R.dbgCtl ∧ rq = 39 ∧ 6 ≤ stage then .acts else .void
    | 3 =>
      if rq = 39 then (if Reg.calm a then .acts else .void)
      else if rq = 4 ∨ rq = 38 ∧ 6 ≤ stage then (if Reg.early a then .acts else .void)
      else .gone
    | 5 | 6 | 7 => if rq = 39 then (if Reg.calm a then .acts else .void) else .gone
    | _ => .gone

/-! ## _LO/_HI pairs (R7) -/

/-- The _LO registers of a 64 KiB block: offset, stride, number, and whether software writes the pair. -/
def Reg.los (blk : Nat) : List (Nat × Nat × Nat × Bool) :=
  match blk with
  | 0x0 => [(0x100, 0, 1, true)]
  | 0x1 => [(0x40, 0, 1, false), (0x1000, 0x40, 256, true), (0x1010, 0x40, 256, true)]
  | 0x2 => [(0x1000, 0x40, 32, false), (0x1008, 0x40, 32, false), (0x1010, 0x40, 32, false), (0x1018, 0x40, 32, false)]
  | 0x4 => [(0x30, 0, 1, false), (0x38, 0, 1, false)]
  | 0x6 => [(0x38, 0, 1, false), (0x40, 0, 1, false), (0x120, 0, 1, false), (0x128, 0, 1, false)]
  | 0x8 => [(0x10, 0, 1, false), (0x18, 0, 1, false), (0x20, 0, 1, false), (0x28, 0, 1, false)]
  | 0x9 => [(0x10, 0, 1, false), (0x18, 0, 1, false), (0x1008, 0x100, 2, false)]
  | 0xA => [(0x1008, 0x100, 2, false), (0x1010, 0x100, 2, false), (0x1018, 0x100, 2, false), (0x1060, 0x100, 2, false), (0x1068, 0x100, 2, false)]
  | 0x18 | 0x1C => [(0x1024, 0x40, 32, false)]
  | 0x22 => [(0x98, 0, 1, false)]
  | 0x24 => [(0x1014, 0x100, 8, false)]
  | 0x26 => [(0x4C, 0x20, 2, false)]
  | 0x2A => [(0x24, 0, 1, false), (0x2C, 0, 1, true)]
  | _ => []

/-- An address is a _LO register: whether its pair is written by software. -/
def Reg.lo? (a : Nat) : Option Bool :=
  let o := a % 0x10000
  ((Reg.los (a / 0x10000)).find? fun e =>
    e.1 ≤ o && (if e.2.2.1 = 1 then o == e.1 else (o - e.1) % e.2.1 == 0 && (o - e.1) / e.2.1 < e.2.2.1)).map (·.2.2.2)

/-- An address is a _HI register: whether its pair is written by software. -/
def Reg.hi? (a : Nat) : Option Bool := if 4 ≤ a then Reg.lo? (a - 4) else none

/-! ## What a register shows -/

/-- The registers of a ring (Table 2-2), those of ring 255 as R501 states. -/
def Block.ringView (b : Block) (n o : Nat) : Nat :=
  let r := b.ring n
  match o with
  | 0x00 => r.rqBaseLo.toNat
  | 0x04 => r.rqBaseHi.toNat
  | 0x08 => 2 ^ 31 * Bits.ofBool r.enable + 2 ^ 30 * Bits.ofBool r.bound + 2 ^ 29 * Bits.ofBool r.mgmt + 2 ^ 27 * r.prio + 2 ^ 16 * r.size + r.job
  | 0x0C => r.head
  | 0x10 => r.cqBaseLo.toNat
  | 0x14 => r.cqBaseHi.toNat
  | 0x18 => 2 ^ 21 * r.msix + 2 ^ 16 * r.cqSize + 2 ^ 8 * r.coalCnt + r.coalUs
  | 0x1C => r.tail
  | 0x20 => r.cqHead
  | 0x24 =>
    2 ^ 15 * b.inflight n + 2 ^ 4 * (if n = recRing then 0 else r.err) + 2 ^ 2 * r.state n + 2 * Bits.ofBool (!r.enable && b.inflight n == 0)
  | 0x28 => r.errCnt.toNat
  | _ => 0

/-- State of a hart in HC_CORE_STAT and HC_CP_STAT: 0 running, 1 halted by debug, 2 in reset. -/
def Block.hartStat (b : Block) (h : Nat) : Nat :=
  if (b.pcr.held.any fun e => Cp.hart e.1 == some h) then 2 else if (AMap.get? b.dbg.halted h).isSome then 1 else 0

/-- OWNER, NEW, PENDING and FIXED of a port of a bank. -/
def Bank.view (x : Bank) : Nat := 2 ^ 31 * Bits.ofBool x.fixed + 2 ^ 30 * Bits.ofBool x.pending + 2 ^ 8 * x.new + x.owner

/-- Low or high word of a number of 64 bits. -/
def Reg.half (hi : Bool) (v : Nat) : Nat := if hi then v / 2 ^ 32 else v

/-- Registers that show state which other fields hold, by block and offset; none where the register holds its own value. -/
def Block.derived (b : Block) (rq blk o : Nat) : Option Nat :=
  match blk with
  | 0x0 => if o = 0x128 then some b.uptime else none
  | 0x1 => if 0x1000 ≤ o ∧ o < 0x5000 then some (b.ringView ((o - 0x1000) / 0x40) (o % 0x40)) else none
  | 0x2 =>
    if o = 0x54 then some b.tagFree
    else if 0x1000 ≤ o ∧ o < 0x1800 ∧ o % 0x40 = 0x30 then some (b.fabStat ((o - 0x1000) / 0x40)) else none
  | 0x4 => match o with
    | 0x10 => some b.fwu.ctxs.length
    | 0x14 => some b.fwuOnChip
    | 0x18 => some b.fwu.quar.length
    | 0x1C => some b.fwu.ents.length
    | _ => none
  | 0x6 => match o with
    | 0x10 => some b.ce.colls.length
    | 0x14 => some b.tileActive
    | 0x18 => some b.tileOnChip
    | 0x114 => some b.ce.progs.length
    | 0x118 => some (b.ce.colls.filter fun e => Bits.bit e.2.flags 1).length
    | 0x120 => some b.residBytes
    | 0x124 => some (b.residBytes / 2 ^ 32)
    | _ => none
  | 0x8 =>
    if o = 0x8 then some (Bits.ofBool b.cxForced)
    else if 0x100 ≤ o ∧ o < 0x180 then some (Bits.ceilDiv (b.laneBytes ((o - 0x100) / 4)) 1024)
    else if 0x180 ≤ o ∧ o < 0x200 then some (Bits.ceilDiv (b.decBytes ((o - 0x180) / 4)) 1024) else none
  | 0x9 =>
    let p := (o - 0x1000) / 0x100
    if o = 0x8 then some 0
    else if 0x1000 ≤ o ∧ o < 0x1200 then match o % 0x100 with
      | 0x00 => some (b.ccKeyStat p)
      | 0x04 => some (b.ccRekeyStat p)
      | 0x08 => some (b.ccRctr p)
      | 0x0C => some (b.ccRctr p / 2 ^ 32)
      | 0x10 => some (b.ccAgeMs p)
      | _ => none
    else none
  | 0xA =>
    let p := (o - 0x1000) / 0x100
    let x := b.tp p
    if 0x40 ≤ o ∧ o < 0x5C then some (b.rxUsed ((o - 0x40) / 4 + 1))
    else if 0x1000 ≤ o ∧ o < 0x1200 then match o % 0x100 with
      | 0x00 => some (b.teStat p)
      | 0x04 => some (2 ^ 16 * x.rxEpoch + x.txEpoch)
      | 0x08 => some x.txSeq
      | 0x0C => some (x.txSeq / 2 ^ 32)
      | 0x10 => some x.sndLow
      | 0x14 => some (x.sndLow / 2 ^ 32)
      | 0x18 => some x.rxCum
      | 0x1C => some (x.rxCum / 2 ^ 32)
      | 0x20 => some x.srtt
      | 0x24 => some x.rttvar
      | 0x28 => some (b.replayMib p)
      | _ => none
    else none
  | 0xC => match o with
    | 0x10 => some (ssEntries - b.entriesUsed)
    | 0x14 => some (b.admitSum 0)
    | 0x18 => some (b.admitSum 1)
    | 0x1C => some b.memSumView
    | _ => none
  | 0x10 => if o = 0x1C then some (b.memSticky 0) else none
  | 0x14 => if o = 0x1C then some (b.memSticky 1) else none
  | 0x18 => if o = 0 then some (b.loStatView 0) else if o = 0x18 then some (b.calStat 0) else none
  | 0x1C => if o = 0 then some (b.loStatView 1) else if o = 0x18 then some (b.calStat 1) else none
  | 0x22 =>
    if o = 0 then some (Bits.sum ((List.range 8).map fun p => if b.poolFree p = 0 then 2 ^ p else 0))
    else if o = 4 then some b.bm.banks.length
    else if 0x10 ≤ o ∧ o < 0x30 then some (2 ^ 31 * Bits.ofBool (b.poolScr ((o - 0x10) / 4)) + b.bm.share.getD ((o - 0x10) / 4) 0)
    else if 0x40 ≤ o ∧ o < 0x60 then some (b.poolFree ((o - 0x40) / 4))
    else if 0x60 ≤ o ∧ o < 0x80 then some (b.poolTotal ((o - 0x60) / 4)) else none
  | 0x24 =>
    if 0xC000 ≤ o ∧ o < 0xCC80 then some (b.bank (2 * ((o - 0xC000) / 4))).view
    else if 0xCD00 ≤ o ∧ o < 0xCD80 then some (b.bank (2 * ((o - 0xCD00) / 4 + 768) + 1)).view else none
  | 0x26 =>
    let now := b.captured rq 0
    let pi (i : Nat) : Int := b.captured rq (1 + i)
    let frac (t : Int) : Nat := (t % 8).toNat
    let sec (t : Int) : Nat := (t / 8000000000).toNat
    match o with
    | 0x0C => some (frac now)
    | 0x10 => some (sec now)
    | 0x14 => some (sec now / 2 ^ 32)
    | 0x308 => some (frac (pi 0))
    | 0x30C => some (sec (pi 0))
    | 0x310 => some (2 ^ 16 * (AMap.getD b.tu.fifo 0 []).length + sec (pi 0) / 2 ^ 32)
    | 0x328 => some (frac (pi 1))
    | 0x32C => some (sec (pi 1))
    | 0x330 => some (2 ^ 16 * (AMap.getD b.tu.fifo 1 []).length + sec (pi 1) / 2 ^ 32)
    | _ => none
  | 0x28 => if o = 0x10 then some (b.fld R.pcrClkNow 23 16 * 2 ^ 16 + b.clkNow.2 * 2 ^ 8 + b.clkNow.1) else none
  | 0x2A => if 0x1000 ≤ o ∧ o < 0x1160 ∧ o % 0x20 = 4 then some (b.stallUs ((o - 0x1000) / 0x20 + 26))
    else if 0x1000 ≤ o ∧ o < 0x1160 ∧ o % 0x20 = 8 then some (Dbg.dumpSize ((o - 0x1000) / 0x20 + 26) / 1024) else none
  | 0x2C =>
    if o = 0 then some (Bits.sum ((List.range 16).map fun h => 4 ^ h * b.hartStat h))
    else if o = 4 then some (Bits.sum ((List.range 9).map fun k => 4 ^ k * b.hartStat (16 + k))) else none
  | _ => none

/-- What a register of the map shows to a requester, before anything the read does: WO bits read 0 (Table 0-4), an offset without a
register reads 0 (R11), and the recovery ring's storage reads as memory (R501). -/
def Block.show (b : Block) (rq a : Nat) : Word :=
  if 0x1A000 ≤ a ∧ a < 0x20000 then BitVec.ofNat 32 (Bits.ofLe (b.sram.bytes a 4))
  else match RegMap.find? a with
    | none => 0
    | some e => match b.derived rq (a / 0x10000) (a % 0x10000) with
      | some v => BitVec.ofNat 32 v
      | none => b.reg a &&& ~~~ BitVec.ofNat 32 e.wo

/-! ## Reads -/

/-- A read returns a word to its requester. -/
def Block.returns (rq : Nat) (v : Word) (b : Block) : Block := { b with answer := AMap.set b.answer rq v }

/-- What the events of the present moment alone make of the bits `mask` of a register (R12). -/
def Block.kept (b : Block) (a mask : Nat) : Nat := ((AMap.get? b.fresh a).map fun x => Nat.land x.2 mask).getD 0

/-- What a read of a register returns: its RC bits as they were before the events of the same moment (R12). -/
def Block.readVal (b : Block) (rq a : Nat) : Word :=
  match RegMap.find? a, AMap.get? b.fresh a with
  | some e, some x => BitVec.ofNat 32 (Nat.lor (Nat.land (b.show rq a).toNat (Nat.xor e.rc 0xFFFFFFFF)) (Nat.land x.1 e.rc))
  | _, _ => b.show rq a

/-- What a read clears: the RC bits of the register (R10). The events of the same moment stay in it, and the next read of that moment
returns them (R12, R487). -/
def Block.readClear (a : Nat) (b : Block) : Block :=
  match RegMap.find? a with
  | none => b
  | some e =>
    if e.rc = 0 then b
    else
      let v := BitVec.ofNat 32 (b.kept a e.rc)
      let b := { b with fresh := AMap.erase b.fresh a }
      if 0x11000 ≤ a ∧ a < 0x15000 then b.modRing ((a - 0x11000) / 0x40) fun r => { r with errCnt := v }
      else b.setReg a ((b.reg a &&& ~~~ BitVec.ofNat 32 e.rc) ||| v)

/-- A read of a register that acts: TU_NOW_NS and TU_PI_TS_NS capture (R400, R415), a _LO register loads the requester's read latch with
its _HI, a _HI register returns the latch that holds its pair (R7), and any other returns its value and clears its RC bits. -/
def Block.readReg (rq a : Nat) (b : Block) : Block :=
  if a = R.tuNowNs then let x := b.nowRead rq; x.2.returns rq x.1
  else if a = R.tuPiTsNs 0 then let x := b.piRead rq 0; x.2.returns rq x.1
  else if a = R.tuPiTsNs 1 then let x := b.piRead rq 1; x.2.returns rq x.1
  else if (Reg.lo? a).isSome then
    ({ b with rdLatch := AMap.set b.rdLatch rq (a, b.show rq (a + 4)) }).returns rq (b.show rq a)
  else if (Reg.hi? a).isSome then
    match AMap.get? b.rdLatch rq with
    | some (lo, v) => b.returns rq (if lo + 4 = a then v else b.show rq a)
    | none => b.returns rq (b.show rq a)
  else (b.readClear a).returns rq (b.readVal rq a)

/-- A counter of elapsed time counts up to the moment of a read: the wait on keys (R287), throttled milliseconds, and stalls of a fabric port. -/
def Block.elapsed (a : Nat) (b : Block) : Block :=
  let b' := if a = R.ccStallUs then b.ccSettle
    else if a = R.pcrThrMs then b.thrCount
    else if a = R.tuSticky ∨ 0x260200 ≤ a ∧ a < 0x260240 then b.poSettle
    else if 0x21000 ≤ a ∧ a < 0x21800 ∧ a % 0x40 = 0x2C then b.stallPort ((a - 0x21000) / 0x40) else b
  { b' with fresh := b.fresh }

/-- A read access: one that is not 32 bits wide and aligned reads 0xFFFF_FFFF (R6). -/
def Reg.read (rq a width : Nat) (b : Block) : Block :=
  match b.reach rq a false with
  | .gone => b.trigHalt rq a false
  | .void => b.returns rq (if width = 32 ∧ a % 4 = 0 then 0 else 0xFFFFFFFF#32)
  | .acts => if width = 32 ∧ a % 4 = 0 then (b.elapsed a).readReg rq a else b.returns rq 0xFFFFFFFF#32

/-! ## Writes -/

/-- The RW fields with a range, by block and offset (within an instance of a set): the field and the ranges of its codes (R13, R442 and
the register tables). A code outside them keeps the previous value. -/
def Reg.ranges (blk o : Nat) : List (Nat × Nat × List (Nat × Nat)) :=
  match blk with
  | 0x0 => if o = 0x120 then [(31, 16, [(1, 65535)]), (15, 0, [(1, 65535)])] else if o = 0x108 then [(4, 0, [(6, 16)])] else []
  | 0x2 => if o = 0x4 then [(13, 0, [(10, 10000)])] else []
  | 0x4 => if o = 0x0 then [(23, 16, [(8, 63)])] else if o = 0x8 then [(7, 0, [(1, 160)])] else []
  | 0x6 => if o = 0x0 then [(23, 16, [(8, 63)])] else if o = 0x4 then [(7, 0, [(1, 255)])] else []
  | 0x9 => if o = 0x0 then [(3, 0, [(4, 8)])] else if o = 0x4 then [(31, 27, [(20, 30)]), (26, 21, [(1, 29)]), (13, 0, [(10, 10000)])] else []
  | 0xA => match o with
    | 0x0 => [(15, 8, [(25, 100)])]
    | 0x4 => [(15, 0, [(100, 20000)])]
    | 0xC => [(7, 0, [(8, 160)])]
    | 0x10 => [(15, 0, [(16, 4096)])]
    | _ => []
  | 0xC => match (if o < 0x1000 then o else 0x1000 + o % 0x100) with
    | 0x0 => [(6, 0, [(50, 100)])]
    | 0x4 => [(13, 0, [(1000, 12800)])]
    | 0xC => [(18, 0, [(64, 262144)])]
    | 0x1000 => [(22, 0, [(1, 6400000)])]
    | 0x1004 => [(18, 0, [(4, 262144)])]
    | 0x1008 => [(10, 0, [(0, 1023), (1920, 2047)])]
    | 0x100C => [(22, 0, [(0, 6400000)])]
    | 0x1010 => [(18, 0, [(4, 262144)])]
    | _ => []
  | 0x10 | 0x14 => match o with
    | 0x4 => [(13, 8, [(1, 32)]), (5, 0, [(1, 32)])]
    | 0x8 => [(31, 24, [(2, 60)]), (23, 12, [(1, 2400)]), (11, 0, [(1, 2400)])]
    | _ => []
  | 0x18 | 0x1C => match o with
    | 0xC => [(5, 0, [(1, 32)])]
    | 0x14 => [(15, 0, [(64, 65535)])]
    | 0x1C => [(15, 0, [(65186, 65386)])]
    | 0x20 => [(25, 16, [(10, 1000)]), (11, 0, [(100, 3000)])]
    | 0x24 => [(7, 0, [(10, 30)])]
    | 0x3C => [(9, 0, [(300, 600)])]
    | _ => []
  | 0x20 => if o = 0x10 then [(7, 0, [(1, 60)])] else []
  | 0x24 => match o with
    | 0xC => [(31, 24, [(1, 255)]), (15, 0, [(1, 200)])]
    | 0x10 => [(15, 0, [(64, 1024)])]
    | _ => []
  | 0x26 => match o with
    | 0x20 => [(9, 0, [(1, 1000)])]
    | 0x24 => [(19, 0, [(100, 1000000)])]
    | 0x28 => [(31, 16, [(100, 65535)]), (15, 0, [(10, 10000)])]
    | 0x120 => [(3, 0, [(0, 0), (9, 15)])]
    | 0x300 | 0x320 => [(2, 1, [(1, 3)])]
    | _ => []
  | 0x28 => match o with
    | 0x24 => [(22, 0, [(100000, 8000000)])]
    | 0x40 => [(23, 8, [(20, 200)]), (7, 0, [(4, 40)])]
    | 0x54 => [(15, 8, [(71, 102)]), (7, 0, [(70, 98)])]
    | _ => []
  | _ => []

/-- The value that a write of RW fields leaves: each field whose code its ranges do not name keeps the old code (R13). -/
def Reg.merge (old new mask : Nat) (rs : List (Nat × Nat × List (Nat × Nat))) : Nat :=
  let v := Nat.lor (Nat.land old (Nat.xor mask 0xFFFFFFFF)) (Nat.land new mask)
  rs.foldl (fun v f =>
    let x := Bits.fld new f.1 f.2.1
    if f.2.2.any fun g => g.1 ≤ x && x ≤ g.2 then v else Bits.put v f.1 f.2.1 (Bits.fld old f.1 f.2.1)) v

/-- The whole of staging and buffer pools can hold a receive pool of so many GiB (R232, Table 8-8). -/
def Block.poolFits (b : Block) (g : Nat) : Bool := b.stagingUsed + g * gib ≤ b.stagingSize + b.fld R.teRxpool 7 0 * gib

/-- A write of the fields of a register (R10): RW fields within their ranges, W1C bits cleared but for those that hardware has set at
the same moment (R12). Relations between fields that a write would break keep the fields: TE_RXPOOL and TE_RXCRED_MIN while a line port is not OFF (Table 8-8), LO_SAFE_CFG.DISABLE unless the port
is DARK (R347), DEG_CLR above DEG_THR and PLAN_MIN below MIN_MEMBERS (R321), THR2 alone where it would not be above THR1 (Table 16-10, R442),
and the event ring's base and size while it is enabled (R472). A clear of BM_ERR's VALID at the moment of a refusal writes that refusal's
record (R396). -/
def Block.writeFields (a : Nat) (v : Word) (b : Block) : Block :=
  match RegMap.find? a with
  | none => b
  | some e =>
    let blk := a / 0x10000
    let o := a % 0x10000
    let p := if blk = 0x14 ∨ blk = 0x1C then 1 else 0
    let old := b.regN a
    let new := Reg.merge old v.toNat e.rw (Reg.ranges blk o)
    let new := Nat.lor (Nat.land new (Nat.xor 0xFFFFFFFF (Nat.land v.toNat e.w1c))) (b.kept a e.w1c)
    if blk = 0xA ∧ (o = 0xC ∨ o = 0x10) ∧ !(b.funcOff 0x200 && b.funcOff 0x201) then b
    else if blk = 0xA ∧ o = 0xC ∧ !b.poolFits (new % 256) then b
    else if (blk = 0x18 ∨ blk = 0x1C) ∧ o = 0x20 ∧ b.notDark p then b.putN a (Bits.put new 31 31 (Bits.fld old 31 31))
    else if (blk = 0x10 ∨ blk = 0x14) ∧ o = 0x8 then
      (b.putN a (if Bits.fld new 23 12 ≤ Bits.fld new 11 0 then new else Bits.put new 23 0 (Bits.fld old 23 0))).degRestart p
    else if (blk = 0x10 ∨ blk = 0x14) ∧ o = 0x4 then
      b.putN a (if Bits.fld new 5 0 ≤ Bits.fld new 13 8 then new else old)
    else if (blk = 0x10 ∨ blk = 0x14) ∧ o = 0xC then (b.putN a new).degRestart p
    else if a = R.pcrThrCfg then b.putN a (if Bits.fld new 7 0 < Bits.fld new 15 8 then new else Bits.put new 15 8 (Bits.fld old 15 8))
    else if a = R.bmErrOwner ∧ v.getLsbD 31 then (b.putN a new).bmErrAgain
    else if (a = R.sysEvtBaseLo ∨ a = R.sysEvtBaseHi) ∧ b.bit R.sysEvtCfg 31 then b
    else if a = R.sysEvtCfg ∧ b.bit R.sysEvtCfg 31 then b.putN a (Bits.put new 4 0 (Bits.fld old 4 0))
    else b.putN a new

/-- CMD_DB: a doorbell beyond the ring or backwards puts a general ring into ERROR, and ring 255 ignores it (R40, R501). A value behind
CMD_RQ_HEAD is both; the specification does not say which cause is reported, and the model takes cause 1 (DESIGN CHOICE, log entry 63).
What is published while a RING_RESET waits is discarded with the ring's packets (R59). -/
def Ci.doorbell (n : Nat) (v : Word) (b : Block) : Block :=
  let r := b.ring n
  let size := 2 ^ r.size
  let d := (v.toNat + 2 ^ 32 - r.head) % 2 ^ 32
  let cause := if size < d then 1 else if d < r.unfetched then 2 else 0
  if 256 ≤ n then b
  else if cause = 0 then b.setRing n { r with prod := v.toNat }
  else if n = recRing ∨ r.err ≠ 0 ∧ !r.stopped then b
  else b.ringError n cause

/-- CMD_RQ_CFG of a general ring: ENABLE stays 0 on an unbound ring, and SIZE_LOG2 keeps its value while ENABLE is 1 (R37, R38, R44). A size
below the number of unfetched packets is taken as any other and the indices stay as they are (DESIGN CHOICE, log entry 100). -/
def Ci.rqCfg (n : Nat) (v : Word) (b : Block) : Block :=
  let r := b.ring n
  let size := Bits.fld v.toNat 20 16
  if recRing ≤ n then b
  else b.setRing n { r with enable := v.getLsbD 31 && r.bound, prio := Bits.fld v.toNat 28 27,
                            size := if !r.enable && 4 ≤ size && size ≤ 16 then size else r.size }

/-- CMD_CQ_HEAD: a value ahead of CMD_CQ_TAIL, or behind it by more than the completion ring, is ignored (R45). -/
def Ci.cqHead (n : Nat) (v : Word) (b : Block) : Block :=
  let r := b.ring n
  if 256 ≤ n then b
  else if (r.tail + 2 ^ 32 - v.toNat) % 2 ^ 32 ≤ 2 ^ r.cqSize then b.setRing n { r with cqHead := v.toNat } else b

/-- CMD_CQ_CFG: vector and size keep their values while ENABLE is 1 (R38), but for the vector of ring 255 (R501). -/
def Ci.cqCfg (n : Nat) (v : Word) (b : Block) : Block :=
  let r := b.ring n
  let size := Bits.fld v.toNat 20 16
  b.setRing n { r with coalCnt := Bits.fld v.toNat 15 8, coalUs := Bits.fld v.toNat 7 0,
                       msix := if r.enable && n != recRing then r.msix else Bits.fld v.toNat 31 21,
                       cqSize := if !r.enable && 4 ≤ size && size ≤ 16 then size else r.cqSize }

/-- A write to a base register of a ring, ignored while ENABLE is 1 (R38); ring 255 is always enabled (R501). -/
def Ci.base (n o : Nat) (v : Word) (b : Block) : Block :=
  let r := b.ring n
  if r.enable then b
  else match o with
    | 0x00 => b.setRing n { r with rqBaseLo := v &&& 0xFFFFFFC0#32 }
    | 0x04 => b.setRing n { r with rqBaseHi := v }
    | 0x10 => b.setRing n { r with cqBaseLo := v &&& 0xFFFFFFE0#32 }
    | 0x14 => b.setRing n { r with cqBaseHi := v }
    | _ => b

/-- A write to a register of a ring. -/
def Ci.ringWrite (n o : Nat) (v : Word) (b : Block) : Block :=
  match o with
  | 0x00 | 0x04 | 0x10 | 0x14 => Ci.base n o v b
  | 0x08 => Ci.rqCfg n v b
  | 0x18 => Ci.cqCfg n v b
  | 0x20 => Ci.cqHead n v b
  | _ => b

/-- A word of the recovery ring's storage is written (R501); the packet it belongs to is no longer poisoned. -/
def Ci.sramWrite (a : Nat) (v : Word) (b : Block) : Block :=
  { b with sram := b.sram.put a (Bits.leBytes 4 v.toNat),
           mc := { b.mc with cmdPoison := b.mc.cmdPoison.filter fun k => k != (a - 0x1A000) / 64 } }

/-- A write to one register, latches apart: the registers with a rule of their own first, then the fields of the others. `delayed` are
the masters whose scratch accesses a bank handover delays. -/
def Block.writeReg (rq a : Nat) (v : Word) (delayed : List Nat) (b : Block) : Block :=
  let blk := a / 0x10000
  let o := a % 0x10000
  if 0x1A000 ≤ a ∧ a < 0x20000 then Ci.sramWrite a v b
  else if blk = 0x1 ∧ 0x1000 ≤ o ∧ o < 0x5000 then Ci.ringWrite ((o - 0x1000) / 0x40) (o % 0x40) v b
  else if blk = 0x1 ∧ 0x8000 ≤ o ∧ o < 0x8400 then Ci.doorbell ((o - 0x8000) / 4) v b
  else if blk = 0x2 ∧ 0x20 ≤ o ∧ o < 0x40 then Fif.eddyPart ((o - 0x20) / 4) v b
  else if a = R.fwuExecCtl then Fwu.execCtl v b
  else if a = R.cxQlimit then Cx.limitWrite false v b
  else if a = R.cxDqlimit then Cx.limitWrite true v b
  else if a = R.lfPmCtl 0 then Pm.ctlWrite 0 v b
  else if a = R.lfPmCtl 1 then Pm.ctlWrite 1 v b
  else if a = R.secSvnCommit then Sec.svnCommit v b
  else if a = R.secGw then Sec.gwWrite v b
  else if blk = 0x20 ∧ 0x80 ≤ o ∧ o < 0xB0 then Sec.mr3Write ((o - 0x80) / 4) v b
  else if blk = 0x24 ∧ 0x1000 ≤ o ∧ o < 0x1800 ∧ o % 0x100 = 4 then Mc.retireWrite ((o - 0x1000) / 0x100) v b
  else if blk = 0x24 ∧ 0xC000 ≤ o ∧ o < 0xCC80 then Mc.bankWrite rq ((o - 0xC000) / 4) false v delayed b
  else if blk = 0x24 ∧ 0xCD00 ≤ o ∧ o < 0xCD80 then Mc.bankWrite rq ((o - 0xCD00) / 4 + 768) true v delayed b
  else if a = R.pcrClkSet then Pcr.clkWrite v b
  else if a = R.pcrWake then Pcr.wakeReq rq v b
  else if a = R.dbgCtl then Dbg.unlockWrite rq v b
  else if blk = 0x2A ∧ 0x40 ≤ o ∧ o < 0x50 then Dbg.swWrite rq ((o - 0x40) / 4) v b
  else if a = R.dbgTraceSwCmt then Dbg.swCommit rq v b
  else if blk = 0x2C ∧ 0x100 ≤ o ∧ o < 0x124 then Dbg.cpWin ((o - 0x100) / 4) v b
  else if a = R.sysEvtHead then Rel.evtHead v b
  else b.writeFields a v

/-- A write of an aligned word: a _HI register that software writes loads the requester's write latch; a write of its _LO register
writes both halves when the latch holds the pair, and empties it (R7). -/
def Block.writePair (rq a : Nat) (v : Word) (delayed : List Nat) (b : Block) : Block :=
  match Reg.hi? a with
  | some true => { b with wrLatch := AMap.set b.wrLatch rq (a - 4, v) }
  | some false => b
  | none => match Reg.lo? a, AMap.get? b.wrLatch rq with
    | some true, some (lo, h) =>
      if lo = a then ({ (b.writeReg rq (a + 4) h delayed) with wrLatch := AMap.erase b.wrLatch rq }).writeReg rq a v delayed
      else b.writeReg rq a v delayed
    | _, _ => b.writeReg rq a v delayed

/-- A write access: one that is not 32 bits wide and aligned is discarded (R6). -/
def Reg.write (rq a width : Nat) (v : Word) (delayed : List Nat) (b : Block) : Block :=
  if width = 32 ∧ a % 4 = 0 ∧ b.reach rq a true = .acts then b.writePair rq a v delayed else b.trigHalt rq a true

end Sys2Proof.Machine
end

