-- ==== Sys2Proof/Machine/Dump.lean ====
section
/-! DEFINITION. The dump of a frozen engine (R455 to R457). -/

namespace Sys2Proof.Machine

/-- The register block of an engine (Table 19-1). -/
def Dump.base (e : Nat) : Nat :=
  match e with
  | 26 => 0x20000 | 27 => 0x40000 | 28 => 0x60000 | 29 => 0x80000 | 30 => 0x90000 | 31 => 0xA0000 | 32 => 0xC0000 | 33 => 0x100000
  | 34 => 0x140000 | 35 => 0x220000 | _ => 0x260000

/-- How many words the registers of an engine's block take, from offset 0 to its last register. -/
def Dump.count (e : Nat) : Nat := ((RegMap.block (Dump.base e / 0x10000)).foldl (fun m r => max m (r.off + (r.n - 1) * r.stride + 4)) 0) / 4

/-- The engine's registers as words from offset 0 of its block (R456); reading them clears nothing. -/
def Block.engWords (b : Block) (e : Nat) : List Word :=
  (List.range (Dump.count e)).map fun i =>
    if Dump.base e + 4 * i = R.tuNowNs then (b.nowRead 41).1 else b.show 41 (Dump.base e + 4 * i)

/-- The register words of engines that have frozen in this step are kept, so that every dump of a freeze is the same (R455). -/
def Block.freezeSettle (b : Block) : Block :=
  if b.dbg.frozen.all fun e => !e.2.words.isEmpty then b
  else b.onDbg fun d => { d with frozen := d.frozen.map fun (e : Nat × Freeze) =>
    if e.2.words.isEmpty then (e.1, { e.2 with words := b.engWords e.1 }) else e }

/-- Section descriptors of a dump: 1 to 64, and how many is free (log entry 57). -/
def Freeze.nsect (f : Freeze) : Nat := 1 + (Config.dumpWord f.ix 0).toNat % 64

/-- Where the first section starts. -/
def Freeze.first (f : Freeze) : Nat := (64 + 16 * f.nsect + 63) / 64 * 64

/-- A section of a dump (Table 17-5). -/
structure DumpSection where
  typ   : Nat
  unit  : Nat
  off   : Nat
  len   : Nat
  count : Nat
deriving DecidableEq, Repr

/-- The next place where a section may start. -/
def Dump.align (n : Nat) : Nat := (n + 63) / 64 * 64

/-- Section `i` of a dump after the registers, which starts at `off` of `size` bytes: its TYPE, 2 to 6, its UNIT, LENGTH and COUNT are free
within what Table 17-5 allows; an entry of the wait matrix, TYPE 6, takes 8 bytes. -/
def Freeze.section (f : Freeze) (size off i : Nat) : DumpSection :=
  let v (k : Nat) : Nat := (Config.dumpWord f.ix (16 + 4 * i + k)).toNat
  let typ := 2 + v 0 % 5
  let unit := v 0 / 2 ^ 16 % 257
  let len := v 2 % (size - off + 1)
  let count := if typ = 6 then len / 8 else v 3
  ⟨typ, if unit = 256 then 0xFFFF else unit, off, if typ = 6 then 8 * count else len, count⟩

/-- The sections of a dump from number `i` on, each on the next 64-byte boundary. -/
def Freeze.sectionsFrom (f : Freeze) (size : Nat) : Nat → Nat → Nat → List DumpSection
  | 0, _, _ => []
  | n + 1, i, off =>
    let x := f.section size off i
    x :: Freeze.sectionsFrom f size n (i + 1) (min size (Dump.align (x.off + x.len)))

/-- The sections of a dump: the registers, then those whose contents the specification leaves to the engine. -/
def Freeze.sections (f : Freeze) (e : Nat) : List DumpSection :=
  let n := 4 * f.words.length
  ⟨1, 0xFFFF, f.first, n, f.words.length⟩ :: f.sectionsFrom (Dbg.dumpSize e) (f.nsect - 1) 1 (Dump.align (f.first + n))

/-- A descriptor as four words (Table 17-5). -/
def DumpSection.word (x : DumpSection) (k : Nat) : Nat := [x.typ + 2 ^ 16 * x.unit, x.off, x.len, x.count].getD k 0

/-- A word that the specification leaves to the engine: in a dump of the CC 0 where it would hold what R457 names, and with the reserved bits of
a wait matrix entry 0. -/
def Freeze.free (f : Freeze) (e j : Nat) : Nat :=
  let v := (Config.dumpWord f.ix (j + 1)).toNat
  if e = 30 ∧ Config.dumpSecret f.ix j then 0
  else match (f.sections e).find? fun x => x.typ == 6 && decide (x.off ≤ 4 * j ∧ 4 * j < x.off + x.len) with
    | some x => if (4 * j - x.off) % 8 = 0 then Bits.put v 23 19 0 else v
    | none => v

/-- Word `j` of a dump: the header of Table 17-4, the descriptors of its sections, the registers, and what the specification leaves to the
engine (log entry 57). -/
def Freeze.word (f : Freeze) (e part j : Nat) : Nat :=
  match j with
  | 0 => 1 + 2 ^ 8 * e + 2 ^ 16 * f.cause + 2 ^ 24 * f.nsect
  | 1 => part
  | 2 => f.time
  | 3 => f.time / 2 ^ 32
  | 4 => f.cycles
  | 5 => f.cycles / 2 ^ 32
  | 6 => Dbg.dumpSize e
  | 7 => f.stall
  | _ =>
    if j < 16 then (Config.dumpWord f.ix (j + 1)).toNat
    else if j < 16 + 4 * f.nsect then (((f.sections e)[(j - 16) / 4]?).map fun x => x.word (j % 4)).getD 0
    else if f.first / 4 ≤ j ∧ j < f.first / 4 + f.words.length then (f.words.getD (j - f.first / 4) 0).toNat
    else f.free e j

/-- The bytes of a dump. -/
def Freeze.dump (f : Freeze) (e part : Nat) : List Byte :=
  (List.range (Dbg.dumpSize e / 4)).flatMap fun j => Bits.leBytes 4 (f.word e part j)

/-- ENGINE_DUMP_DONE: at 4 GB/s the dump engine has written the dump, and ENGINE_DUMP completes OK with its bytes (R455). -/
def Dump.done (e : Nat) (b : Block) : Block :=
  match AMap.get? b.dbg.dumps e, AMap.get? b.dbg.frozen e with
  | some j, some f =>
    if b.now < j.since + 2 * Dbg.dumpSize e then b
    else ((b.onDbg fun d => { d with dumps := AMap.erase d.dumps e }).dxWrite j.addr (f.dump e (b.regN R.sysId))).ok j.cmd (Dbg.dumpSize e)
  | _, _ => b

end Sys2Proof.Machine
end

