-- ==== Sys2Proof/Machine/CiExec.lean ====
section
/-! DEFINITION. How the CI comes by its commands and gets rid of their completions (chapter 2): the effect of every opcode, dispatch, BARRIER,
the coalescing timer and the retry of a failed completion write. -/

namespace Sys2Proof.Machine

/-- The effect of an opcode, its check 8 included (Table 2-9). -/
def Ci.execOp (opc id : Nat) (r : Req) : Block → Block :=
  match opc with
  | 0x0101 => Sys.nop id r
  | 0x0102 => Sys.query id r
  | 0x0103 => Func.enable id r
  | 0x0104 => Func.disable id r
  | 0x0105 => Func.state id r
  | 0x0106 => Sys.regionConfig id r
  | 0x0107 => Pcr.reset Cut.none id r
  | 0x0108 => Pcr.powerState id r
  | 0x0109 => Pcr.policyBounds id r
  | 0x010A => Job.revoke id r
  | 0x010B => Job.ringReset id r
  | 0x0201 => Job.openJob id r
  | 0x0202 => Job.ranks id r
  | 0x0203 => Job.ringBind id r
  | 0x0204 => Job.config id r
  | 0x0205 => Ss.jobRate id r
  | 0x0206 => Job.fenceStart id r
  | 0x0207 => Job.close id r
  | 0x0208 => Job.query id r
  | 0x0209 => Job.mcastSet id r
  | 0x0301 => Fwu.winCreate id r
  | 0x0302 => Fwu.winDestroy id r
  | 0x0303 => Fwu.winFence id r
  | 0x0304 => Fwu.bulkCopy id r
  | 0x0305 => Fwu.winQuery id r
  | 0x0401 => Ce.treeSet id r
  | 0x0402 => Ce.collStart id r
  | 0x0403 => Ce.collAbort id r
  | 0x0404 => Ce.combinerLoad id r
  | 0x0405 => Ce.collQuery id r
  | 0x0406 => Ce.residAlloc id r
  | 0x0407 => Ce.residFree id r
  | 0x0501 => Bm.bufAlloc id r
  | 0x0502 => Bm.bufFree id r
  | 0x0503 => Bm.bufPass id r
  | 0x0504 => Bm.poolConfig id r
  | 0x0505 => Bm.auditStart id r
  | 0x0506 => Bm.auditRead id r
  | 0x0601 => Lf.portConfig id r
  | 0x0602 => Lf.memberSet id r
  | 0x0603 => Lf.slotMap id r
  | 0x0604 => Lf.pageSwap id r
  | 0x0605 => Lo.tuneMethod id r
  | 0x0606 => Lf.defectConfig id r
  | 0x0607 => Lo.combSwitch id r
  | 0x0608 => Lo.launchPower id r
  | 0x0701 => Tu.ptpConfig id r
  | 0x0702 => Tu.domainSelect id r
  | 0x0703 => Tu.pulseSet id r
  | 0x0704 => Tu.offsetMeasure id r
  | 0x0801 => Sec.attest id r
  | 0x0802 => Sec.peerKeyx id r
  | 0x0803 => Cc.rekey id r
  | 0x0804 => Cc.keyErase id r
  | 0x0805 => Sec.tamperConfig id r
  | 0x0901 => Dbg.counterRead id r
  | 0x0902 => Pm.read id r
  | 0x0903 => Ce.statsRead id r
  | 0x0904 => Rel.snapConfig id r
  | 0x0905 => Rel.healthRead id r
  | 0x0A01 => Dbg.engineFreeze id r
  | 0x0A02 => Dbg.engineDump id r
  | 0x0A03 => Dbg.traceConfig id r
  | 0x0A04 => Dbg.hangConfig id r
  | _ => fun b => b

/-- A CI processor serves a ring: the device runs, and the ring's processor, or any for the recovery ring, is neither reset nor halted
(R42, R43, R420, R424, R449). -/
def Block.ciServes (b : Block) (ring : Nat) : Bool :=
  b.pcr.phase == 4 && ring < 256 && (if ring = recRing then (List.range 4).any fun m => !b.cpOut m else !b.cpOut (ring % 4))

/-- A command of a ring comes to its CI processor with its opcode's effect; while none serves the ring it has none. -/
def Ci.cmd (opc : Nat) (r : Req) (eff : Nat → Req → Block → Block) (b : Block) : Block :=
  if b.ciServes r.ring then Ci.take opc r eff b else b

/-- A packet of the recovery ring whose read found an uncorrectable error completes BAD_PARAM, DETAIL 0 (R501). -/
def Ci.poisoned (opc : Nat) (r : Req) (b : Block) : Block :=
  let id := b.freshId
  let b := b.bump64 R.cmdDispCntLo 1
  ({ b with nextId := id + 1,
            infl := b.infl ++ [(⟨id, r.ring, r.index, opc, r.cookie.toNat, r.flags.toNat, devJob, 0, none, b.now, none⟩ : InFlight)] }).badParam id 0

/-- The CI reads the packet at the head of a ring, whole and once (R39), and takes it. A read that returns poison puts a general ring into
ERROR with cause 3 and fetches nothing. So does, DESIGN CHOICE (log entry 63), a read that host memory does not answer and one whose
address lies outside DX-64 memory, of which the specification says nothing. -/
def Ci.fetch (n : Nat) (b : Block) : Block :=
  let r := b.ring n
  let i := r.head % 2 ^ r.size
  let a := basePair r.rqBaseLo r.rqBaseHi + 64 * i
  let host := r.rqBaseHi.getLsbD 31
  let bad := if n = recRing then false else if host then !b.pcieUp else !inDx a 64 || b.rangePoison a 64
  let bs := if n = recRing then b.sram.bytes a 64 else if host then b.host.bytes a 64 else b.dxBytes a 64
  let b := if n ≠ recRing && !host then b.readCount a 64 else b
  if bad then b.ringError n 3
  else
    let p := Req.ofBytes n r.head bs
    let b := b.setRing n { r with head := (r.head + 1) % 2 ^ 32 }
    if n = recRing ∧ b.mc.cmdPoison.contains i then Ci.poisoned p.1 p.2 b else Ci.take p.1 p.2 (Ci.execOp p.1) b

/-- Rings that a CI processor may fetch from. -/
def Block.candidates (b : Block) (cp : Nat) : List Nat :=
  ((b.rings.map (·.1)).filter fun n => n != recRing && n % 4 == cp && b.fetchable n)

/-- The ring that a CI processor serves next: one passed over 64 times, else the highest PRIO with round robin within it (R42). Of several
passed over 64 times the lowest is served; the specification does not say which (DESIGN CHOICE, log entry 63). -/
def Block.pickRing (b : Block) (cp : Nat) : Option (Nat × Block) :=
  let cs := b.candidates cp
  match cs.find? fun n => 64 ≤ (b.ring n).passed with
  | some n => some (n, b)
  | none =>
    let prio := (cs.map fun n => (b.ring n).prio).foldl max 0
    let level := cs.filter fun n => (b.ring n).prio == prio
    let last := AMap.get? b.rrLast (4 * cp + prio)
    match (level.find? fun n => last.all fun l => l < n).or level.head? with
    | some n => some (n, { b with rrLast := AMap.set b.rrLast (4 * cp + prio) n })
    | none => none

/-- CI processor `cp` has picked ring `n`: every other candidate has been passed over once more; of the other rings the dispatches are not
consecutive (R42). -/
def Block.passOver (cp : Nat) (cs : List Nat) (n : Nat) (b : Block) : Block :=
  { b with rings := b.rings.map fun (e : Nat × Ring) =>
      if e.1 = recRing ∨ e.1 % 4 ≠ cp then e
      else (e.1, { e.2 with passed := if e.1 ≠ n ∧ cs.contains e.1 then e.2.passed + 1 else 0 }) }

/-- CI_DISPATCH: a CI processor fetches the next packet, of the recovery ring first (R41 to R43). `hostOk` says whether host memory
answers. -/
def Ci.dispatch (cp : Nat) (hostOk : Bool) (b : Block) : Block :=
  let b := { b with pcieUp := hostOk }
  if b.pcr.phase ≠ 4 ∨ 4 ≤ cp ∨ b.cpOut cp then b
  else
    let cs := b.candidates cp
    let pick := if b.fetchable recRing then some (recRing, b) else b.pickRing cp
    match pick with
    | none => b
    | some (n, b) => Ci.fetch n (b.passOver cp cs n)

/-- COAL_TIMER_EXPIRY: COAL_US after the first unsignalled completion the vector is raised (R49). -/
def Ci.coalExpiry (n : Nat) (b : Block) : Block :=
  let r := b.ring n
  if n < 256 ∧ r.unsig ≠ 0 ∧ r.coalUs ≠ 0 ∧ r.unsigAt + r.coalUs * us ≤ b.now then b.ringIrq n else b

/-- Kept completions of a ring are written in order while their writes succeed (R41). -/
def Ci.writeKept (n : Nat) : List (InFlight × Comp) → Block → Block
  | [], b => b.modRing n fun r => { r with kept := [] }
  | (f, c) :: l, b =>
    if b.cqWritable n (b.ring n).tail then Ci.writeKept n l (b.cqPost f c) else b.modRing n fun r => { r with kept := (f, c) :: l, triedAt := b.now }

/-- COMPLETION_WRITE_RETRY: every 100 µs the CI retries the oldest kept completion (R41). -/
def Ci.retry (n : Nat) (hostOk : Bool) (b : Block) : Block :=
  let b := { b with pcieUp := hostOk }
  let r := b.ring n
  if 256 ≤ n ∨ r.kept.isEmpty ∨ b.now < r.triedAt + 100 * us ∨ !b.ciServes n then b else Ci.writeKept n r.kept b

/-- The oldest packet that a ring holds may start: a CI processor serves the ring, and every earlier command of the ring has posted when
the packet carries BARRIER (R53). -/
def Block.barrierOpen (b : Block) (n : Nat) : Bool :=
  match (b.ring n).held with
  | [] => false
  | (_, r) :: _ => b.ciServes n && (!r.flagBarrier || (b.inflOn n).isEmpty && (b.ring n).kept.isEmpty)

/-- The packets that a ring holds start in order, up to the first that must wait on (R52, R53); `k` bounds their number. -/
def Ci.barrier : Nat → Nat → Block → Block
  | 0, _, b => b
  | k + 1, n, b =>
    match (b.ring n).held with
    | [] => b
    | (opc, r) :: l =>
      if b.barrierOpen n then Ci.barrier k n (Ci.start opc r (Ci.execOp opc) (b.modRing n fun x => { x with held := l })) else b

end Sys2Proof.Machine
end

