-- ==== Sys2Proof/Machine/Framer.lean ====
section
/-! DEFINITION. The framer of a line port (chapter 11, R325, R326): received symbols become member frames, member frames a group frame, and
a group frame what the TE takes; group frames are numbered, filled, scrambled and coded for the line. -/

namespace Sys2Proof.Machine

/-! ## From symbols to bytes (R326, R327) -/

/-- The block with a member's receiver changed. -/
def Block.modRx (p m : Nat) (f : MemRx → MemRx) (b : Block) : Block :=
  b.modLo p fun x => { x with rx := AMap.set x.rx m (f (AMap.getD x.rx m MemRx.init)) }

/-- One codeword of a member: its bytes join the frame stream, and its corrected bits count, or the word counts as not decoded. -/
def Block.codeword (p m : Nat) (v : List Int) (b : Block) : Block :=
  let (bits, n) := Code.settle v
  let b := b.modLm p m fun x => { x with stream := x.stream ++ Code.toBytes 4736 bits }
  match n with
  | some k => (b.bump64 (R.loMCorrLo p m) k).modRx p m fun r => { r with corr := r.corr + k, code := r.code + 49152 }
  | none => b.bump (R.loMUncorr p m)

/-- The first `n` codewords of some symbols, under an alignment; the rest waits. -/
def Block.codewords (p m o : Nat) : Nat → List Symbol → Block → Block
  | 0, syms, b => b.modRx p m fun r => { r with syms := syms }
  | n + 1, syms, b => Block.codewords p m o n (syms.drop 12288) (b.codeword p m (Code.values o (syms.take 12288)))

/-- Symbols of a member arrive. Until the alignment of its codewords is found, it is looked for. -/
def Block.symbolsIn (p m : Nat) (syms : List Symbol) (b : Block) : Block :=
  let r := AMap.getD (b.lo1 p).rx m MemRx.init
  let all := r.syms ++ syms
  match r.orient with
  | some o => b.codewords p m o (all.length / 12288) all
  | none => match Code.find all with
    | some (k, o) => (b.modRx p m fun r => { r with orient := some o }).codewords p m o ((all.length - k) / 12288) (all.drop k)
    | none => b.modRx p m fun r => { r with syms := all.drop (all.length - 12287) }

/-! ## From bytes to member frames (R293, R296, Table 11-6) -/

/-- A frame alignment signal stands at an offset: at most 16 of its bits are wrong (log entry 83). -/
def Frame.fasAt (bs : List Byte) (i : Nat) : Bool := decide (i + 32 ≤ bs.length) && decide (Frame.fasErr (bs.drop i) ≤ 16)

/-- The first offset at which the FAS stands in two consecutive frames (R296). -/
def Frame.search (bs : List Byte) : Option Nat := (List.range bs.length).find? fun i => Frame.fasAt bs i && Frame.fasAt bs (i + 16384)

/-- A member goes out of frame. -/
def LfMem.lose (now : Time) (x : LfMem) : LfMem :=
  { x with inFrame := false, aligned := false, fasBad := 0, oofAt := some now, inAt := none, mfi := none, mfiOk := 0, mfiBad := 0, bip := none, buf := [], cyc := [],
           cycs := ([], 0) }

/-- A frame joins the alignment of a member in frame; `bad` says that more than 16 bits of its FAS are wrong (R296). -/
def LfMem.align (now : Time) (bad : Bool) (f : MFrame) (x : LfMem) : LfMem :=
  let n := if bad then x.fasBad + 1 else 0
  if 4 ≤ n then x.lose now
  else
    let v := f.mfi.toNat
    let next := x.mfi.any fun m => (m + 1) % 256 == v
    let mOk := if next then x.mfiOk + 1 else 0
    let mBad := if next || x.mfi.isNone then 0 else x.mfiBad + 1
    { x with fasBad := n, mfi := some v, mfiOk := mOk, mfiBad := mBad, aligned := if x.aligned then decide (mBad < 8) else decide (8 ≤ mOk) }

/-- A frame's section trace byte joins the cycle of 64 frames; a cycle that comes three times running, none of them broken, is accepted
(R307). -/
def LfMem.traceIn (f : MFrame) (y : LfMem) : LfMem :=
  let i := f.mfi.toNat % 64
  let x := if y.cyc.length = i then y else { y with cyc := [], cycs := ([], 0) }
  let cyc := if x.cyc.length = i then x.cyc ++ [f.trace] else []
  if cyc.length = 64 then
    let n := if x.cycs.1 = cyc then x.cycs.2 + 1 else 1
    { x with cyc := [], cycs := (cyc, n), trace := if 3 ≤ n then cyc else x.trace }
  else { x with cyc := cyc }

/-- Runs of frames whose overhead is right or wrong (Table 11-6). -/
def LfMem.runs (expGid m : Nat) (f : MFrame) (x : LfMem) : LfMem :=
  let gid := expGid != 0 && f.groupId.toNat != expGid
  let mim := f.member.toNat % 32 != m
  let rdi := f.sstat.getLsbD 0
  { x with
    gidBad := if gid then x.gidBad + 1 else 0, gidOk := if gid then 0 else x.gidOk + 1
    mimBad := if mim then x.mimBad + 1 else 0, mimOk := if mim then 0 else x.mimOk + 1
    rdiOn := if rdi then x.rdiOn + 1 else 0, rdiOff := if rdi then 0 else x.rdiOff + 1 }

/-- Section and path BIP errors that a frame shows in the frame before it (R293). -/
def LfMem.bipErrs (f : MFrame) (x : LfMem) : Nat × Nat :=
  match x.bip with
  | some (s, q) => (Bip.errors f.sbip s, Bip.errors f.pbip q)
  | none => (0, 0)

/-- A member after one more frame, received as `raw` and descrambled as `plain`: its alignment, the runs and the trace, the error counts that the
next frame sent returns, and the deskew buffer, which holds 448 KiB, 28 frames (R293, R296, R297, R307). -/
def LfMem.take (now : Time) (expGid m : Nat) (raw plain : List Byte) (x : LfMem) : LfMem :=
  let f := MFrame.parse plain
  let e := x.bipErrs f
  let y := x.align now (decide (16 < Frame.fasErr raw)) f
  if !y.inFrame then y
  else
    let y := (y.runs expGid m f).traceIn f
    let buf := if y.aligned then y.buf ++ [⟨now, f, e.2⟩] else []
    { y with srei := e.1, prei := e.2, bip := some (Frame.sbip raw, Frame.pbip plain), buf := buf.drop (buf.length - 28) }

/-- What a frame adds to the member's counters, and the accepted trace (Table 11-10). -/
def Block.frameCounted (p m : Nat) (f : MFrame) (e : Nat × Nat) (trace : List Byte) (b : Block) : Block :=
  let b := (((b.bumpN (R.lfMSbip p m) e.1).bumpN (R.lfMPbip p m) e.2).bumpN (R.lfMSrei p m) (f.srei.toNat % 32)).bumpN (R.lfMPrei p m) (f.prei.toNat % 32)
  if trace.length = 64 then
    (List.range 16).foldl (fun b i => b.putN (R.lfMTrace p (16 * m + i)) (Bits.ofLe ((trace.drop (4 * i)).take 4))) b
  else b

/-- A frame of a member in frame is whole. It closes the block before it, whose errors it shows (R293, R315). -/
def Block.frameIn (p m : Nat) (raw : List Byte) (b : Block) : Block :=
  let plain := Frame.scrambled raw
  let f := MFrame.parse plain
  let x := b.lm p m
  let e := x.bipErrs f
  let y := x.take b.now (b.regN (R.lfExpGid p)) m raw plain
  let b := b.modLm p m fun _ => y
  let b := if y.inFrame then b.frameCounted p m f e y.trace else b
  if x.bip.isNone then b else b.pmCur p m fun s => { s with blocks := s.blocks + 1, errd := s.errd + (if e.2 = 0 then 0 else 1) }

/-- Frames are taken from a member's bytes, `n` steps of them: in frame, the next 16,384 bytes; out of frame, what lies before the second of two
FAS at the same position, which puts the member in frame (R290, R296). -/
def Block.deframe (p m : Nat) : Nat → Block → Block
  | 0, b => b
  | n + 1, b =>
    let x := b.lm p m
    if x.inFrame then
      if x.stream.length < 16384 then b
      else Block.deframe p m n ((b.modLm p m fun x => { x with stream := x.stream.drop 16384 }).frameIn p m (x.stream.take 16384))
    else match Frame.search x.stream with
      | some i => Block.deframe p m n (b.modLm p m fun x => { x with
          stream := x.stream.drop (i + 16384), inFrame := true, fasBad := 0, oofAt := none, inAt := some b.now })
      | none => b.modLm p m fun x => { x with stream := x.stream.drop (x.stream.length - 16415), oofAt := some (x.oofAt.getD b.now) }

/-! ## From member frames to a group frame (R294, R297, R298) -/

/-- The number of a frame: MFC × 256 + MFI. -/
def MFrame.key (f : MFrame) : Nat := 256 * f.mfc.toNat + f.mfi.toNat

/-- How many frames a number lies ahead of another, modulo 2^40. -/
def Lf.ahead (k last : Nat) : Nat := (k + 2 ^ 40 - last % 2 ^ 40) % 2 ^ 40

/-- The greatest skew, 16 µs. -/
abbrev Lf.skewMax : Time := 128000

/-- A member takes part in the group: aligned, and not in LOA (R297). -/
def Block.partakes (b : Block) (p m : Nat) : Bool := (b.lm p m).good && !b.bit (R.lfMDef p m) 3

/-- Since when a member's skew or MFC differs from the group's, or agrees with it (Table 11-6, LOA). -/
def LfMem.loa (now : Time) (off : Bool) (x : LfMem) : LfMem :=
  { x with loaAt := if off then some (x.loaAt.getD now) else none, loaOk := if off then none else some (x.loaOk.getD now) }

/-- The oldest frame of each member that takes part. -/
def Block.memHeads (b : Block) (p : Nat) : List (Nat × RxFrame) :=
  (List.range 32).filterMap fun m => if b.partakes p m then (b.lm p m).buf.head?.map fun f => (m, f) else none

/-- Frames in a member's deskew buffer that are not ahead of the group frame passed on last leave it: one of that group frame came after it,
and its skew is its own; any other belongs to no group frame to come. -/
def LfMem.stale (now last : Nat) (t0 : Time) : List RxFrame → LfMem → LfMem
  | [], x => { x with buf := [] }
  | f :: l, x =>
    let d := Lf.ahead (MFrame.key f.frame) last
    if 1 ≤ d && d ≤ 28 then { x with buf := f :: l }
    else LfMem.stale now last t0 l (x.loa now !(d == 0 && decide (f.at_ ≤ t0 + Lf.skewMax)))

/-- The group frames begin anew when most members that take part hold frames neither ahead of nor shortly behind the last (the peer has
numbered its frames anew, R295); else frames that no group frame waits for leave the deskew buffers. -/
def Block.clean (p : Nat) (b : Block) : Block :=
  match (b.lp p).last with
  | none => b
  | some (k, t0) =>
    let odd := (b.memHeads p).filter fun e => let d := Lf.ahead (MFrame.key e.2.frame) k; 28 < d && d < 2 ^ 40 - 28
    if ((List.range 32).filter (b.partakes p)).length < 2 * odd.length then b.modLp p fun x => { x with last := none, prev := none }
    else b.modLp p fun x => { x with mems := x.mems.map fun (e : Nat × LfMem) => (e.1, LfMem.stale b.now k t0 e.2.buf e.2) }

/-- The number of the group frame in assembly: the nearest ahead of the last, or at the start what most members hold. -/
def Block.nextKey (b : Block) (p : Nat) : Option Nat :=
  let keys := (b.memHeads p).map fun e => (MFrame.key e.2.frame)
  match (b.lp p).last with
  | none => Lf.vote keys
  | some (k, _) => keys.foldl (fun (m : Option Nat) v => match m with
    | some w => some (if Lf.ahead v k < Lf.ahead w k then v else w)
    | none => some v) none

/-- The next group frame when it can be passed on: its number, the arrival of its earliest member frame, and its member frames within 16 µs of
that. Every member that takes part has a frame waiting, or 16 µs have passed (R297). -/
def Block.assembled (b : Block) (p : Nat) : Option (Nat × Time × List (Nat × RxFrame)) :=
  (b.nextKey p).bind fun k =>
    let fs := (b.memHeads p).filter fun e => (MFrame.key e.2.frame) == k
    let t0 := fs.foldl (fun t e => min t e.2.at_) b.now
    let all := (List.range 32).all fun m => !b.partakes p m || !(b.lm p m).buf.isEmpty
    if all || decide (t0 + Lf.skewMax ≤ b.now) then some (k, t0, fs.filter fun e => decide (e.2.at_ ≤ t0 + Lf.skewMax)) else none

/-- FIRST_CELL of a member frame whose transport control passes R223, when it names a cell (R226). -/
def MFrame.first (f : MFrame) : Option Nat :=
  let t := TC.parse f.tc
  if TC.crcOk f.tc && t.version == 1 && t.firstCell != 0xFFFF#16 then some t.firstCell.toNat else none

/-- The bytes of a payload in the slots of a member that a test on page entries selects, in payload order (R310, R312). -/
def Slot.share (entry : Nat → Nat) (sel : Nat → Bool) (m : Nat) (payload : List Byte) : List Byte :=
  (payload.zipIdx.filter fun e => match Slot.of m e.2 with
    | some s => sel (entry s)
    | none => false).map Prod.fst

/-- What the LF passes to the TE of one member of a group frame: its cells, or a break when it is missing or in a defect with action (R298,
R312). -/
def Block.itemsOf (b : Block) (p m : Nat) (f : Option RxFrame) : List LineItem :=
  match f with
  | some x =>
    if b.actDef p m then [.brk]
    else
      let page := ((b.lp p).page (b.lp p).rxPage)
      let bytes := if b.bit (R.lfStat p) 5 then Slot.share (fun s => page.getD s 0) (fun e => Bits.bit e 13) m x.frame.payload else x.frame.payload
      (Bits.pieces 16 (bytes.length / 16) bytes).zipIdx.map fun (c, i) => .cell c (MFrame.first x.frame == some i)
  | none => [.brk]

/-- The overhead of a group frame, by vote (R294). -/
def Block.groupHead (p : Nat) (fs : List MFrame) (b : Block) : Block :=
  let take (f : MFrame → Nat) : Nat := (Lf.vote (fs.map f)).getD 0
  let pstat := take (fun f => f.pstat.toNat)
  let rdi := pstat % 2
  let mfi := take (fun f => f.mfi.toNat)
  let b := b.modLp p fun x => { x with
    gid := take (fun f => f.groupId.toNat), mode := pstat / 2 % 2, slotCtl := take (fun f => f.slotCtl.toNat)
    peerPlan := take (fun f => f.planMap.toNat)
    rdiOn := if rdi = 1 then x.rdiOn + 1 else 0, rdiOff := if rdi = 1 then 0 else x.rdiOff + 1
    rxPage := if x.rxWait && mfi == 0 then b.fld (R.lfTsiStat p) 30 30 else x.rxPage
    rxWait := x.rxWait && mfi != 0 }
  let b := (List.range 32).foldl (fun b m => if Bits.bit (b.lp p).peerPlan m
    then (b.pmCur p m fun s => { s with planned := true }).modLm p m fun x => { x with degOff := true } else b) b
  (b.putN (R.lfRxMap p) (take (fun f => f.txMap.toNat))).putN (R.lfPeerReq p) (take (fun f => f.rxReq.toNat))

/-- The group block before this group frame ends, with the errors that its members' frames now show (R293, R315). -/
def Block.groupBlock (p : Nat) (fs : List (Nat × RxFrame)) (b : Block) : Block :=
  match (b.lp p).prev with
  | none => b
  | some (map, missing) =>
    let errd := missing || fs.any fun e => Bits.bit map e.1 && e.2.errs != 0
    b.pmCur p 32 fun s => { s with blocks := s.blocks + 1, errd := s.errd + (if errd then 1 else 0) }

/-- A group frame is passed on: skew and LOA of its members; what its overhead says; members out by it (R302 step 3); its cells and breaks, and
its transport control, to the TE; and in slotted mode its payloads to the other port (R294, R297, R298, R301, R311). -/
def Block.groupIn (p k : Nat) (t0 : Time) (fs : List (Nat × RxFrame)) (b : Block) : Block :=
  let of (m : Nat) : Option RxFrame := List.lookup m fs
  let b := b.modLp p fun x => { x with last := some (k, t0) }
  let b := ((List.range 32).filter (b.partakes p)).foldl (fun b m => match of m with
    | some f => (b.modLm p m fun x => ({ x with buf := x.buf.tail, skew := (f.at_ - t0) / 8 } : LfMem).loa b.now false).putN (R.lfMSkew p m) (min ((f.at_ - t0) / 8) (2 ^ 15 - 1))
    | none => if (b.lm p m).buf.isEmpty then b.modLm p m (LfMem.loa b.now true) else b) b
  let b := (b.groupBlock p fs).groupHead p (fs.map fun e => e.2.frame)
  let map := b.regN (R.lfRxMap p)
  let mine := (List.range 32).filter (Bits.bit map)
  let b := b.modLp p fun x => { x with prev := some (map, mine.any fun m => (of m).isNone) }
  let b := ((List.range 32).filter fun m => (b.lm p m).plan == 1 && !Bits.bit map m).foldl (fun b m => b.memOut p m) b
  let items := mine.flatMap fun m => b.itemsOf p m (of m)
  let b := b.bumpN (R.lfBreakCnt p) (mine.filter fun m => (of m).isNone || b.actDef p m).length
  let b := if b.frozen 31 then b else b.modTp p fun x => { x with
    cells := if b.lineUp p then x.cells ++ items else x.cells
    tcs := x.tcs ++ fs.map fun e => e.2.frame.tc }
  let b := if b.bit (R.lfStat p) 5 then b.modLp p fun x =>
      let l := x.thru ++ [(fs.filter fun e => !b.actDef p e.1).map fun e => (e.1, e.2.frame.payload)]
      { x with thru := l.drop (l.length - 2) } else b
  b.lfRegs p

/-- Group frames that can be passed on are, `n` of them at most. -/
def Block.assemble (p : Nat) : Nat → Block → Block
  | 0, b => b
  | n + 1, b =>
    let b := b.clean p
    match b.assembled p with
    | some (k, t0, fs) => Block.assemble p n (b.groupIn p k t0 fs)
    | none => b

/-- MEMBER_FRAME_RX: symbols of member `m` of a port arrive, as far as its DSP is locked; frames that become whole are aligned, checked and
deskewed, and group frames that become whole are passed on (R290 to R298, R326). -/
def Lf.frameRx (p m : Nat) (syms : List Symbol) (b : Block) : Block :=
  if b.lfState p = 0 ∨ !b.bit (R.loMStat p m) 30 then b
  else
    let b := b.symbolsIn p m syms
    (b.deframe p m ((b.lm p m).stream.length / 16384 + 2)).assemble p 32

/-! ## Boundaries (R295, R299, R300, R306, R321) -/

/-- The configuration of a port's defects comes into force; runs of DEG start again when it changes (R321). -/
def Block.latch (p : Nat) (b : Block) : Block :=
  let new := (b.regN (R.lfDegCfg p), b.regN (R.lfDefCfg p), b.regN (R.lfGrpCfg p))
  if (b.lp p).inForce = new then b else (b.modLp p fun x => { x with inForce := new }).degRestart p

/-- Maps and planned removals at a boundary (R299, R300, R302). -/
def Block.maps (p : Nat) (b : Block) : Block :=
  let old := b.regN (R.lfTxMap p)
  let b := b.putN (R.lfRxReq p) (b.rxReqNow p)
  let b := b.putN (R.lfTxMap p) (b.txMapNow p)
  let tx := b.regN (R.lfTxMap p)
  let back := (List.range 32).filter fun m => (b.lm p m).plan == 3 && Bits.bit tx m
  let b := back.foldl (fun b m => b.modLm p m fun x => { x with plan := 0, back := none }) b
  let lost := (List.range 32).any fun m => Bits.bit old m && !Bits.bit tx m && (b.lm p m).plan != 2
  let b := if Lf.count old = 32 && Lf.count tx < 32 && lost then b.event 0x0004 1 devJob 32 (Bits.leBytes 1 p ++ Bits.leBytes 1 (Lf.count tx)) else b
  b.lfRegs p

/-- The next group frame is numbered, once the one before it has been sent (R295). -/
def Block.nextFrame (p : Nat) (b : Block) : Block :=
  if !(b.lp p).sent then b
  else
    let mfi := ((b.lp p).mfi + 1) % 256
    let b := b.modLp p fun x => { x with mfi := mfi, sent := false }
    if mfi = 0 then b.putN (R.lfMfc p) (b.regN (R.lfMfc p) + 1) else b

/-- GROUP_FRAME_BOUNDARY of a port: the configuration in force, group frames that need wait no longer, the number of the next group frame, the
maps, the state, and additions that are complete (R295 to R306). -/
def Lf.boundary (p : Nat) (b : Block) : Block :=
  let b := (b.latch p).modLp p fun x => { x with justIn := 0 }
  if b.lfState p = 0 then b.lfStep p
  else
    let b := (((b.assemble p 32).logTimes p).nextFrame p).maps p
    let b := b.lfStep p
    if b.lfState p = 0 then b else ((b.putN (R.lfTxMap p) (b.txMapNow p)).lfRegs p).addsDone p

/-! ## Sending a group frame (R290 to R293, R298, R309 to R312, R325) -/

/-- PSTAT that a port sends: PRDI in LOG, in ACQUIRE and in LOCKED (R309, R505, Table 11-5), and MODE. -/
def Block.pstat (b : Block) (p : Nat) : Nat :=
  Bits.ofBool (b.bit (R.lfGdef p) 0 || b.lfState p == 1 || b.locked) + 2 * b.fld (R.lfStat p) 5 5

/-- A member frame of the group frame that a port sends, with its transport control and payload (Tables 11-1 to 11-3). A planned member's defects
send no SRDI (R303, R309). -/
def Block.memFrame (b : Block) (p m : Nat) (tc payload : List Byte) : MFrame :=
  let x := b.lp p
  let y := x.mem m
  let rdi := Nat.land (b.regN (R.lfMDef p m)) 7 != 0 && !b.planned p m
  { trace := x.txTrace.getD (x.mfi % 64) 0, sstat := BitVec.ofNat 8 (Bits.ofBool rdi), sbip := y.txBip.1
    srei := BitVec.ofNat 16 y.srei, groupId := b.reg (R.lfGid p), member := BitVec.ofNat 8 m, mfi := BitVec.ofNat 8 x.mfi, pbip := y.txBip.2
    prei := BitVec.ofNat 16 y.prei, pstat := BitVec.ofNat 8 (b.pstat p), mfc := b.reg (R.lfMfc p), txMap := b.reg (R.lfTxMap p)
    rxReq := b.reg (R.lfRxReq p), planMap := b.reg (R.lfPlanMap p)
    slotCtl := BitVec.ofNat 64 (if b.bit (R.lfStat p) 5 then b.fld (R.lfTsiStat p) 30 30 + 2 ^ 32 * x.swapAt else 0), tc := tc, payload := payload }

/-- Byte `k` of a member's payload in slotted mode (R310, R311): 0x00 from an idle source, the next byte of the member's share of the cells, or
the byte in that row of a slot that the other port has received. -/
def Slot.byte (entry : Nat → Nat) (share : Array Byte) (thru : Nat → Nat → Byte) (m k : Nat) : Byte :=
  let src (i : Nat) : Nat := entry (80 * m + i) / 2 ^ 14
  let cells (n : Nat) : Nat := ((List.range n).filter fun i => src i == 1).length
  let e := entry (80 * m + k % 80)
  if 15600 ≤ k then 0
  else if e / 2 ^ 14 = 1 then share.getD (k / 80 * cells 80 + cells (k % 80)) 0
  else if e / 2 ^ 14 = 2 then thru (e % 2 ^ 12 / 80) (k / 80 * 80 + e % 2 ^ 12 % 80)
  else 0

/-- The payloads of a group frame from member `m` on: the cells go to the members of TX_MAP in ascending order, in native mode 977 to each, in
slotted mode to its share of the slots; a member outside TX_MAP has none (R298, R312). -/
def Block.payloads (b : Block) (p : Nat) (thru : Nat → Nat → Byte) : Nat → Nat → List Byte → List (List Byte)
  | 0, _, _ => []
  | n + 1, m, cells =>
    let own := 16 * b.share p m
    let page := (b.lp p).page (b.fld (R.lfTsiStat p) 30 30)
    let bytes := if b.bit (R.lfStat p) 5 then (List.range 15632).map (Slot.byte (fun s => page.getD s 0) (cells.take own).toArray thru m) else cells.take own
    bytes :: Block.payloads b p thru n (m + 1) (cells.drop own)

/-- What the slots of a port that pass through send, from the oldest group frame that the other port has received for them; a byte of a slot
that was not received is free (log entry 82). -/
def Block.thruByte (b : Block) (p ix : Nat) : Nat → Nat → Byte :=
  let got := ((b.lp (1 - p)).thru.head?).getD []
  fun m k => match (AMap.get? got m).bind fun l => l[k]? with
    | some v => v
    | none => Config.lostSlot ix (15632 * m + k)

/-- A lit member's frame joins its coded stream, and the codewords that are full go out as light (R325). -/
def Block.lightOut (p m : Nat) (sent : List Byte) (b : Block) : Block :=
  if !b.lit p m then b
  else
    let bytes := AMap.getD (b.lo1 p).coder m [] ++ sent
    let n := bytes.length / 4736
    (b.modLo p fun x => { x with coder := AMap.set x.coder m (bytes.drop (4736 * n)) }).emit (.light p m ((Bits.pieces 4736 n bytes).flatMap Code.light))

/-- The 32 member frames of a group frame go out: scrambled, their parities kept for the next, and as light where the member is lit (R291 to
R293, R325). -/
def Block.framesOut (p : Nat) (fs : List MFrame) (b : Block) : Block :=
  let sent := fs.map fun f => (f.bytes, Frame.scrambled f.bytes)
  let b := sent.zipIdx.foldl (fun b (e, m) => (b.modLm p m fun x => { x with txBip := (Frame.sbip e.2, Frame.pbip e.1) }).lightOut p m e.2) b
  b.emit (.frames p (sent.map Prod.snd))

/-- GROUP_FRAME_TX of a port: the group frame that the last boundary numbered is sent, once: transport control, the TE's cells and the slots of
its members, after a PAGE_SWAP that waits for MFI 0; members out by it are released. While the TE is frozen the frame is filler (R218 to R224,
R290 to R293, R298, R302, R314, R325, Table 17-3). -/
def Lf.groupTx (p : Nat) (b : Block) : Block :=
  if b.lfState p = 0 ∨ (b.lp p).sent then b
  else
    let b := Lf.pageSwitch p b
    let (tcs, cells, b) := if b.frozen 31 then ([], [], b) else Te.groupOut p b
    let slotted := b.bit (R.lfStat p) 5
    let (ix, b) := if slotted then b.free else (0, b)
    let pays := b.payloads p (b.thruByte p ix) 32 0 cells
    let b := b.framesOut p ((List.range 32).map fun m => b.memFrame p m ((tcs[m]?.map TC.bytes).getD (List.replicate 512 0#8)) (pays.getD m []))
    let b := if slotted then b.modLp (1 - p) fun x => { x with thru := x.thru.drop 1 } else b
    ((b.modLp p fun x => { x with sent := true }).release p).lfRegs p

/-- GROUP_FRAME_TX with the management messages that the TE of a port has been given since the last one; a frozen TE takes none. -/
def Lf.frameTx (x : GroupTx) (b : Block) : Block :=
  Lf.groupTx x.port (if x.mgmt.isEmpty || b.frozen 31 then b else Te.mgmtIn x.port x.mgmt b)

end Sys2Proof.Machine
end

