-- ==== Sys2Proof/Machine/Run.lean ====
section
/-! DEFINITION. How every command acts: the clock moves to its moment, its effect happens, and what has come to wait on it moves on. -/

namespace Sys2Proof.Machine

/-- An engine, by master ID, works: the device runs and the engine is not frozen (R420, R452). -/
def Block.works (b : Block) (m : Nat) : Bool := b.pcr.phase == 4 && !b.frozen m

/-- An effect of a unit that works only while the device runs. -/
def Block.whenUp (f : Block → Block) (b : Block) : Block := if b.pcr.phase = 4 then f b else b

/-- An effect of an engine, by master ID; a frozen engine does nothing (R452). -/
def Block.whenWorks (m : Nat) (f : Block → Block) (b : Block) : Block := if b.works m then f b else b

/-- An engine, by master ID, works, and so does the BM. -/
def Block.worksBm (b : Block) (m : Nat) : Bool := b.works m && !b.frozen 35

/-- An effect of an engine, by master ID, that may take, pass or free buffers: one that does waits while the BM is frozen (R452). -/
def Block.whenBufs (m : Nat) (f : Block → Block) (b : Block) : Block :=
  let b' := b.whenWorks m f
  if b.frozen 35 && b'.bm.bufs != b.bm.bufs then b else b'

/-- An effect of the LF of a line port (masters 33 and 34). -/
def Block.whenLf (p : Nat) (f : Block → Block) (b : Block) : Block := if p < 2 then b.whenWorks (33 + p) f else b

/-- An effect for which a control processor, by master ID, must run (R424, R449). -/
def Block.whenCp (m : Nat) (f : Block → Block) (b : Block) : Block := if b.pcr.phase = 4 ∧ !b.cpOut m then f b else b

/-- An effect of the LO of a line port, which the port's optics processor brings about (masters 6 and 7). -/
def Block.whenLo (p : Nat) (f : Block → Block) (b : Block) : Block := if p < 2 then b.whenCp (6 + p) f else b

/-- PTP processing, for which the TU and the time processor (master 8) must work. -/
def Block.whenPtp (f : Block → Block) (b : Block) : Block := if b.works 36 ∧ !b.cpOut 8 then f b else b

/-- Fences, collectives, rekeys, calibrations, power transitions, ring resets, job closings, buffer requests and health conditions that what
has just happened lets move on. -/
def Block.moveOn (b : Block) : Block :=
  let b := b.whenBufs 27 Block.fwuSettle
  let b := b.whenBufs 28 fun b => b.earlySettle.ceSettle.a2aSettle
  let b := b.whenWorks 26 fun b => (b.poSettle.whenWorks 36 Block.timeSettle).fifSettle
  let b := b.whenBufs 30 fun b => b.lineLost.ccSettle
  let b := b.loSettle
  let b := b.pcrSettle
  let b := b.ringSettle
  let b := b.jobSettle
  let b := b.whenWorks 35 fun b => Block.engRetry b.bm.engWait b
  b.healthSettle

/-- Packets whose BARRIER has opened start, and what waits on them moves on. -/
def Block.barriers (b : Block) : Block :=
  let ns := (b.rings.map (·.1)).filter b.barrierOpen
  if ns.isEmpty then b else (ns.foldl (fun b n => Ci.barrier (b.ring n).held.length n b) b).moveOn

/-- The moment of a command that comes at time `t`. -/
def State.at_ (s : State) (t : Time) : Time := max s.blk.now t

/-- A waiting command raises the first alarm at the moment `t` (R364, R366). -/
def State.alarmAt (s : State) (t : Time) : Bool :=
  let b := s.blk.tick t
  !b.tampered && s.pending.any fun i => match i with
    | .tamperAlarm u x => decide (u ≤ s.at_ t) && b.raises x != 0
    | .referenceLoss u x => decide (u ≤ s.at_ t) && b.raisesRef x.ref x.count
    | _ => false

/-- The block that a key operation finds: it knows whether an alarm comes at the same moment (R366). -/
def State.foresee (s : State) (t : Time) (b : Block) : Block := if s.alarmAt t then { b with sec := { b.sec with due := some b.now } } else b

/-- The memories in canonical form: addresses rising, no byte 0 listed. -/
def Block.canon (b : Block) : Block :=
  { b with dram := b.dram.norm, host := b.host.norm, sram := b.sram.norm, scratch := b.scratch.norm }

/-- The end of every command. -/
def Block.settle (b : Block) : Block := b.moveOn.barriers.freezeSettle.traceSettle.canon

/-- An engine has done something since a block was as it was. -/
def Block.engMoved (old b : Block) (e : Nat) : Bool :=
  match e with
  | 26 => b.fif != old.fif
  | 27 => b.fwu != old.fwu
  | 28 => b.ce != old.ce
  | 29 => b.cx != old.cx
  | 30 => b.cc != old.cc
  | 31 => b.te != old.te
  | 32 => b.ss != old.ss
  | 33 | 34 => b.lf != old.lf
  | 35 => b.bm != old.bm
  | _ => b.tu != old.tu

/-- The stall of an engine is over once it has done something (R450, log entry 108). -/
def Block.stallEnd (old b : Block) : Block :=
  if b.dbg.stall.isEmpty then b
  else { b with dbg := { b.dbg with stall := b.dbg.stall.filter fun (e : Nat × Time) => b.frozen e.1 || !old.engMoved b e.1 } }

/-- A command's effect at its moment. -/
def State.run (s : State) (t : Time) (f : Block → Block) : State := { s with blk := s.blk.stallEnd (f (s.blk.tick t)).settle }

end Sys2Proof.Machine
end

