-- ==== Sys2Proof/Machine/CollEnd.lean ====
section
/-! DEFINITION. When a collective may end (R154), and the gates of a function's events. -/

namespace Sys2Proof.Machine

/-- A message of a command has not been acknowledged: it waits to be sealed, to be coded, to be scheduled, or for its segment's
acknowledgement. -/
def Block.unacked (b : Block) (id : Nat) : Bool :=
  (b.outq.any fun m => m.cmd == some id) ||
  (b.cx.comp.any fun e => (e.2.queue.any fun s => s.cmd == some id) || e.2.busy.any fun s => s.1.cmd == some id) ||
  (b.ss.queues.any fun e => e.2.any fun r => r.msgs.any fun m => m.cmd == some id) ||
  (b.te.ports.any fun e => e.2.segs.any fun s => s.2.msgs.any fun m => m.cmd == some id)

/-- COLL_COMPLETE: the tiles of a collective, keyed job × 4096 + collective ID, are handled and its segments acknowledged (R154). -/
def Ce.complete (key : Nat) (b : Block) : Block :=
  match b.coll key with
  | some c => if c.state == 2 && !b.unacked c.id then b.collFinish key else b
  | none => b

/-- An address lies in a store: 0 backed memory, 1 scratch, 2 the recovery ring's command storage (R367, R376, R501). -/
def Mc.holds (b : Block) (store addr : Nat) : Bool :=
  if store = 0 then b.backed addr else if store = 1 then addr < 768 * 0x40000 + 32 * 0x10000 else store == 2 && addr < 0x4000

/-- An event of a function, which does not come while its engine is frozen (R452). -/
def Func.event (f : Nat) (g : Block → Block) (b : Block) : Block :=
  if b.pcr.phase == 4 && (Func.engine f).all fun m => !b.frozen m then g b else b

end Sys2Proof.Machine
end

