-- ==== Sys2Proof/Machine/CiRows.lean ====
section
/-! DEFINITION. One meaning for each command of the CI, functions, power transitions, fences and buffers (chapters 2, 14 and 16): its moment, its effect, and what moves on after it. -/

namespace Sys2Proof.Machine

/-- CI_DISPATCH (R46). -/
def execCiDispatch (t : Time) (cp : Nat) (hostOk : Bool) (s : State) : Host.Outcome State Fault Refusal :=
  .next (s.run t fun b => Ci.dispatch cp hostOk (s.foresee t b))

/-- COAL_TIMER_EXPIRY (R49). -/
def execCoalTimerExpiry (t : Time) (ring : Nat) (s : State) : Host.Outcome State Fault Refusal :=
  .next (s.run t fun b => b.whenUp (Ci.coalExpiry ring))

/-- COMPLETION_WRITE_RETRY (R41). -/
def execCompletionWriteRetry (t : Time) (ring : Nat) (hostOk : Bool) (s : State) : Host.Outcome State Fault Refusal :=
  .next (s.run t fun b => Ci.retry ring hostOk b)

/-- FUNC_RUNNING_REACHED (R502). -/
def execFuncRunningReached (t : Time) (func : Nat) (s : State) : Host.Outcome State Fault Refusal :=
  .next (s.run t fun b => Func.event func (Func.runningReached func) b)

/-- FUNC_DRAIN_END (R55). -/
def execFuncDrainEnd (t : Time) (func : Nat) (s : State) : Host.Outcome State Fault Refusal :=
  .next (s.run t fun b => Func.event func (Func.drainEnd func) b)

/-- FABRIC_PORT_DRAIN_TIMEOUT (R502). -/
def execFabricPortDrainTimeout (t : Time) (port : Nat) (s : State) : Host.Outcome State Fault Refusal :=
  .next (s.run t fun b => b.whenWorks 26 (Func.portTimeout port))

/-- POWER_TRANSITION_DONE (R432). -/
def execPowerTransitionDone (t : Time) (s : State) : Host.Outcome State Fault Refusal :=
  .next (s.run t fun b => b.whenUp Pcr.transitionDone)

/-- JOB_FENCE_COMPLETE (R62). -/
def execJobFenceComplete (t : Time) (job : Nat) (s : State) : Host.Outcome State Fault Refusal :=
  .next (s.run t fun b => b.whenUp (Job.fenceDone job))

/-- MCAST_UPDATE_ACK_RX (R94). -/
def execMcastUpdateAckRx (t : Time) (sel : Nat) (s : State) : Host.Outcome State Fault Refusal :=
  .next (s.run t fun b => b.whenWorks 26 (Fif.mcastAck sel))

/-- ENGINE_BUF_ALLOC (R387). -/
def execEngineBufAlloc (t : Time) (a : EngAlloc) (s : State) : Host.Outcome State Fault Refusal :=
  .next (s.run t fun b => b.whenWorks 35 (Ss.engineAlloc a))

/-- POOL_FRAME_MOVE (R383). -/
def execPoolFrameMove (t : Time) (src : Nat) (dst : Nat) (s : State) : Host.Outcome State Fault Refusal :=
  .next (s.run t fun b => b.whenWorks 35 (Bm.frameMove src dst))

/-- TSI_PAGE_SWITCH (R314). -/
def execTsiPageSwitch (t : Time) (port : Nat) (s : State) : Host.Outcome State Fault Refusal :=
  .next (s.run t fun b => b.whenLf port (Lf.pageSwitch port))

/-- OFFSET_MEASURE_TIMEOUT (R416). -/
def execOffsetMeasureTimeout (t : Time) (s : State) : Host.Outcome State Fault Refusal :=
  .next (s.run t fun b => b.whenWorks 36 Tu.offsetTimeout)

/-- BANK_HANDOVER_DONE (R378). -/
def execBankHandoverDone (t : Time) (bank : Nat) (p1 : Bool) (s : State) : Host.Outcome State Fault Refusal :=
  .next (s.run t fun b => b.whenUp (Mc.handoverDone bank p1))

/-- FENCE_NOTICE_RX (R470). -/
def execFenceNoticeRx (t : Time) (sel : Nat) (s : State) : Host.Outcome State Fault Refusal :=
  .next (s.run t fun b => b.whenUp (Job.noticeRx sel))

/-- AUDIT_WALK_DONE (R394). -/
def execAuditWalkDone (t : Time) (s : State) : Host.Outcome State Fault Refusal :=
  .next (s.run t fun b => b.whenWorks 35 Bm.auditDone)

/-- OWNER_REVOKE_DONE (R61). -/
def execOwnerRevokeDone (t : Time) (s : State) : Host.Outcome State Fault Refusal :=
  .next (s.run t fun b => b.whenUp Job.revokeDone)

end Sys2Proof.Machine
end

