-- ==== Sys2Proof/Machine/CollRows.lean ====
section
/-! DEFINITION. One meaning for each command of collectives and all-to-all (chapter 5): its moment, its effect, and what moves on after it. -/

namespace Sys2Proof.Machine

/-- TILE_PUT_RX (R140). -/
def execTilePutRx (t : Time) (sel : Nat) (s : State) : Host.Outcome State Fault Refusal :=
  .next (s.run t fun b => b.whenBufs 28 (Ce.tilePutRx sel))

/-- TILE_CONTEXT_ALLOC (R142). -/
def execTileContextAlloc (t : Time) (s : State) : Host.Outcome State Fault Refusal :=
  .next (s.run t fun b => b.whenBufs 28 Ce.contextAlloc)

/-- CE_DISPATCH_SLOT (R150). -/
def execCeDispatchSlot (t : Time) (s : State) : Host.Outcome State Fault Refusal :=
  .next (s.run t fun b => b.whenBufs 28 Ce.dispatchSlot)

/-- COLL_LINE_MSG_RX (R149). -/
def execCollLineMsgRx (t : Time) (sel : Nat) (s : State) : Host.Outcome State Fault Refusal :=
  .next (s.run t fun b => b.whenBufs 28 (Ce.lineMsgRx sel))

/-- EARLY_STATE_EXPIRY (R145). -/
def execEarlyStateExpiry (t : Time) (s : State) : Host.Outcome State Fault Refusal :=
  .next (s.run t fun b => b.whenBufs 28 Ce.earlyExpiry)

/-- DIGEST_RX (R155). -/
def execDigestRx (t : Time) (src : EdgeMsg) (s : State) : Host.Outcome State Fault Refusal :=
  .next (s.run t fun b => b.whenBufs 28 (Ce.digestRx src))

/-- DIGEST_WAIT_TIMEOUT (R475). -/
def execDigestWaitTimeout (t : Time) (s : State) : Host.Outcome State Fault Refusal :=
  .next (s.run t fun b => b.whenBufs 28 Ce.digestTimeout)

/-- ABORT_RX (R157). -/
def execAbortRx (t : Time) (src : EdgeMsg) (s : State) : Host.Outcome State Fault Refusal :=
  .next (s.run t fun b => b.whenBufs 28 (Ce.abortRx src))

/-- TILE_DEADLINE_EXPIRY (R156). -/
def execTileDeadlineExpiry (t : Time) (s : State) : Host.Outcome State Fault Refusal :=
  .next (s.run t fun b => b.whenBufs 28 Ce.deadlines)

/-- COLL_COMPLETE (R154). -/
def execCollComplete (t : Time) (coll : Nat) (s : State) : Host.Outcome State Fault Refusal :=
  .next (s.run t fun b => b.whenBufs 28 (Ce.complete coll))

/-- TILE_CONTEXT_PAGE_OUT (R143). -/
def execTileContextPageOut (t : Time) (s : State) : Host.Outcome State Fault Refusal :=
  .next (s.run t fun b => b.whenBufs 28 Ce.pageOut)

/-- TILE_CONTEXT_PAGE_IN (R143). -/
def execTileContextPageIn (t : Time) (ctx : Nat) (s : State) : Host.Outcome State Fault Refusal :=
  .next (s.run t fun b => b.whenBufs 28 (Ce.pageIn ctx))

/-- A2A_PUT_RX (R153). -/
def execA2aPutRx (t : Time) (sel : Nat) (s : State) : Host.Outcome State Fault Refusal :=
  .next (s.run t fun b => b.whenBufs 28 (A2a.putRx sel))

/-- A2A_DATA_RX (R153). -/
def execA2aDataRx (t : Time) (src : EdgeMsg) (s : State) : Host.Outcome State Fault Refusal :=
  .next (s.run t fun b => b.whenBufs 28 (A2a.dataRx src))

/-- A2A_END_RX (R153). -/
def execA2aEndRx (t : Time) (src : EdgeMsg) (s : State) : Host.Outcome State Fault Refusal :=
  .next (s.run t fun b => b.whenBufs 28 (A2a.endRx src))

end Sys2Proof.Machine
end

