-- ==== Sys2Proof/Machine/CommandRows.lean ====
section
/-! DEFINITION. One meaning for each command of the 64 commands of the rings (Table 2-9): its moment, its effect, and what moves on after it. -/

namespace Sys2Proof.Machine

/-- SYS_NOP (R46). -/
def execSysNop (t : Time) (r : Req) (s : State) : Host.Outcome State Fault Refusal :=
  .next (s.run t fun b => Ci.cmd 0x0101 r Sys.nop b)

/-- SYS_QUERY (R70). -/
def execSysQuery (t : Time) (r : Req) (s : State) : Host.Outcome State Fault Refusal :=
  .next (s.run t fun b => Ci.cmd 0x0102 r Sys.query b)

/-- FUNC_ENABLE (R55). -/
def execFuncEnable (t : Time) (r : Req) (s : State) : Host.Outcome State Fault Refusal :=
  .next (s.run t fun b => Ci.cmd 0x0103 r Func.enable b)

/-- FUNC_DISABLE (R55). -/
def execFuncDisable (t : Time) (r : Req) (s : State) : Host.Outcome State Fault Refusal :=
  .next (s.run t fun b => Ci.cmd 0x0104 r Func.disable b)

/-- FUNC_STATE (R69). -/
def execFuncState (t : Time) (r : Req) (s : State) : Host.Outcome State Fault Refusal :=
  .next (s.run t fun b => Ci.cmd 0x0105 r Func.state b)

/-- REGION_CONFIG (R68). -/
def execRegionConfig (t : Time) (r : Req) (s : State) : Host.Outcome State Fault Refusal :=
  .next (s.run t fun b => Ci.cmd 0x0106 r Sys.regionConfig b)

/-- RESET (R423). -/
def execReset (t : Time) (r : ResetReq) (s : State) : Host.Outcome State Fault Refusal :=
  .next (s.run t fun b => Ci.cmd 0x0107 r.req (Pcr.reset r.cut) b)

/-- POWER_STATE (R430). -/
def execPowerState (t : Time) (r : Req) (s : State) : Host.Outcome State Fault Refusal :=
  .next (s.run t fun b => Ci.cmd 0x0108 r Pcr.powerState b)

/-- POLICY_BOUNDS (R440). -/
def execPolicyBounds (t : Time) (r : Req) (s : State) : Host.Outcome State Fault Refusal :=
  .next (s.run t fun b => Ci.cmd 0x0109 r Pcr.policyBounds b)

/-- OWNER_REVOKE (R60). -/
def execOwnerRevoke (t : Time) (r : Req) (s : State) : Host.Outcome State Fault Refusal :=
  .next (s.run t fun b => Ci.cmd 0x010A r Job.revoke b)

/-- RING_RESET (R59). -/
def execRingReset (t : Time) (r : Req) (s : State) : Host.Outcome State Fault Refusal :=
  .next (s.run t fun b => Ci.cmd 0x010B r Job.ringReset b)

/-- JOB_OPEN (R65). -/
def execJobOpen (t : Time) (r : Req) (s : State) : Host.Outcome State Fault Refusal :=
  .next (s.run t fun b => Ci.cmd 0x0201 r Job.openJob b)

/-- JOB_RANKS (R80). -/
def execJobRanks (t : Time) (r : Req) (s : State) : Host.Outcome State Fault Refusal :=
  .next (s.run t fun b => Ci.cmd 0x0202 r Job.ranks b)

/-- RING_BIND (R67). -/
def execRingBind (t : Time) (r : Req) (s : State) : Host.Outcome State Fault Refusal :=
  .next (s.run t fun b => Ci.cmd 0x0203 r Job.ringBind b)

/-- JOB_CONFIG (R66). -/
def execJobConfig (t : Time) (r : Req) (s : State) : Host.Outcome State Fault Refusal :=
  .next (s.run t fun b => Ci.cmd 0x0204 r Job.config b)

/-- JOB_RATE (R268). -/
def execJobRate (t : Time) (r : Req) (s : State) : Host.Outcome State Fault Refusal :=
  .next (s.run t fun b => Ci.cmd 0x0205 r Ss.jobRate b)

/-- JOB_FENCE (R62). -/
def execJobFence (t : Time) (r : Req) (s : State) : Host.Outcome State Fault Refusal :=
  .next (s.run t fun b => Ci.cmd 0x0206 r Job.fenceStart b)

/-- JOB_CLOSE (R63). -/
def execJobClose (t : Time) (r : Req) (s : State) : Host.Outcome State Fault Refusal :=
  .next (s.run t fun b => Ci.cmd 0x0207 r Job.close b)

/-- JOB_QUERY (R71). -/
def execJobQuery (t : Time) (r : Req) (s : State) : Host.Outcome State Fault Refusal :=
  .next (s.run t fun b => Ci.cmd 0x0208 r Job.query b)

/-- MCAST_SET (R94). -/
def execMcastSet (t : Time) (r : Req) (s : State) : Host.Outcome State Fault Refusal :=
  .next (s.run t fun b => Ci.cmd 0x0209 r Job.mcastSet b)

/-- WIN_CREATE (R104). -/
def execWinCreate (t : Time) (r : Req) (s : State) : Host.Outcome State Fault Refusal :=
  .next (s.run t fun b => Ci.cmd 0x0301 r Fwu.winCreate b)

/-- WIN_DESTROY (R131). -/
def execWinDestroy (t : Time) (r : Req) (s : State) : Host.Outcome State Fault Refusal :=
  .next (s.run t fun b => Ci.cmd 0x0302 r Fwu.winDestroy b)

/-- WIN_FENCE (R118). -/
def execWinFence (t : Time) (r : Req) (s : State) : Host.Outcome State Fault Refusal :=
  .next (s.run t fun b => Ci.cmd 0x0303 r Fwu.winFence b)

/-- BULK_COPY (R129). -/
def execBulkCopy (t : Time) (r : Req) (s : State) : Host.Outcome State Fault Refusal :=
  .next (s.run t fun b => Ci.cmd 0x0304 r Fwu.bulkCopy b)

/-- WIN_QUERY (R72). -/
def execWinQuery (t : Time) (r : Req) (s : State) : Host.Outcome State Fault Refusal :=
  .next (s.run t fun b => Ci.cmd 0x0305 r Fwu.winQuery b)

/-- TREE_SET (R135). -/
def execTreeSet (t : Time) (r : Req) (s : State) : Host.Outcome State Fault Refusal :=
  .next (s.run t fun b => Ci.cmd 0x0401 r Ce.treeSet b)

/-- COLL_START (R138). -/
def execCollStart (t : Time) (r : Req) (s : State) : Host.Outcome State Fault Refusal :=
  .next (s.run t fun b => Ci.cmd 0x0402 r Ce.collStart b)

/-- COLL_ABORT (R160). -/
def execCollAbort (t : Time) (r : Req) (s : State) : Host.Outcome State Fault Refusal :=
  .next (s.run t fun b => Ci.cmd 0x0403 r Ce.collAbort b)

/-- COMBINER_LOAD (R188). -/
def execCombinerLoad (t : Time) (r : Req) (s : State) : Host.Outcome State Fault Refusal :=
  .next (s.run t fun b => Ci.cmd 0x0404 r Ce.combinerLoad b)

/-- COLL_QUERY (R52). -/
def execCollQuery (t : Time) (r : Req) (s : State) : Host.Outcome State Fault Refusal :=
  .next (s.run t fun b => Ci.cmd 0x0405 r Ce.collQuery b)

/-- RESIDUAL_ALLOC (R177). -/
def execResidualAlloc (t : Time) (r : Req) (s : State) : Host.Outcome State Fault Refusal :=
  .next (s.run t fun b => Ci.cmd 0x0406 r Ce.residAlloc b)

/-- RESIDUAL_FREE (R179). -/
def execResidualFree (t : Time) (r : Req) (s : State) : Host.Outcome State Fault Refusal :=
  .next (s.run t fun b => Ci.cmd 0x0407 r Ce.residFree b)

/-- BUF_ALLOC (R504). -/
def execBufAlloc (t : Time) (r : Req) (s : State) : Host.Outcome State Fault Refusal :=
  .next (s.run t fun b => Ci.cmd 0x0501 r Bm.bufAlloc b)

/-- BUF_FREE (R391). -/
def execBufFree (t : Time) (r : Req) (s : State) : Host.Outcome State Fault Refusal :=
  .next (s.run t fun b => Ci.cmd 0x0502 r Bm.bufFree b)

/-- BUF_PASS (R390). -/
def execBufPass (t : Time) (r : Req) (s : State) : Host.Outcome State Fault Refusal :=
  .next (s.run t fun b => Ci.cmd 0x0503 r Bm.bufPass b)

/-- POOL_CONFIG (R383). -/
def execPoolConfig (t : Time) (r : Req) (s : State) : Host.Outcome State Fault Refusal :=
  .next (s.run t fun b => Ci.cmd 0x0504 r Bm.poolConfig b)

/-- AUDIT_START (R394). -/
def execAuditStart (t : Time) (r : Req) (s : State) : Host.Outcome State Fault Refusal :=
  .next (s.run t fun b => Ci.cmd 0x0505 r Bm.auditStart b)

/-- AUDIT_READ (R395). -/
def execAuditRead (t : Time) (r : Req) (s : State) : Host.Outcome State Fault Refusal :=
  .next (s.run t fun b => Ci.cmd 0x0506 r Bm.auditRead b)

/-- PORT_CONFIG (R320). -/
def execPortConfig (t : Time) (r : Req) (s : State) : Host.Outcome State Fault Refusal :=
  .next (s.run t fun b => Ci.cmd 0x0601 r Lf.portConfig b)

/-- MEMBER_SET (R305). -/
def execMemberSet (t : Time) (r : Req) (s : State) : Host.Outcome State Fault Refusal :=
  .next (s.run t fun b => Ci.cmd 0x0602 r Lf.memberSet b)

/-- SLOT_MAP (R313). -/
def execSlotMap (t : Time) (r : Req) (s : State) : Host.Outcome State Fault Refusal :=
  .next (s.run t fun b => Ci.cmd 0x0603 r Lf.slotMap b)

/-- PAGE_SWAP (R314). -/
def execPageSwap (t : Time) (r : Req) (s : State) : Host.Outcome State Fault Refusal :=
  .next (s.run t fun b => Ci.cmd 0x0604 r Lf.pageSwap b)

/-- TUNE_METHOD (R336). -/
def execTuneMethod (t : Time) (r : Req) (s : State) : Host.Outcome State Fault Refusal :=
  .next (s.run t fun b => Ci.cmd 0x0605 r Lo.tuneMethod b)

/-- DEFECT_CONFIG (R321). -/
def execDefectConfig (t : Time) (r : Req) (s : State) : Host.Outcome State Fault Refusal :=
  .next (s.run t fun b => Ci.cmd 0x0606 r Lf.defectConfig b)

/-- COMB_SWITCH (R331). -/
def execCombSwitch (t : Time) (r : Req) (s : State) : Host.Outcome State Fault Refusal :=
  .next (s.run t fun b => Ci.cmd 0x0607 r Lo.combSwitch b)

/-- LAUNCH_POWER (R343). -/
def execLaunchPower (t : Time) (r : Req) (s : State) : Host.Outcome State Fault Refusal :=
  .next (s.run t fun b => Ci.cmd 0x0608 r Lo.launchPower b)

/-- PTP_CONFIG (R401). -/
def execPtpConfig (t : Time) (r : Req) (s : State) : Host.Outcome State Fault Refusal :=
  .next (s.run t fun b => Ci.cmd 0x0701 r Tu.ptpConfig b)

/-- DOMAIN_SELECT (R406). -/
def execDomainSelect (t : Time) (r : Req) (s : State) : Host.Outcome State Fault Refusal :=
  .next (s.run t fun b => Ci.cmd 0x0702 r Tu.domainSelect b)

/-- PULSE_SET (R412). -/
def execPulseSet (t : Time) (r : Req) (s : State) : Host.Outcome State Fault Refusal :=
  .next (s.run t fun b => Ci.cmd 0x0703 r Tu.pulseSet b)

/-- OFFSET_MEASURE (R416). -/
def execOffsetMeasure (t : Time) (r : Req) (s : State) : Host.Outcome State Fault Refusal :=
  .next (s.run t fun b => Ci.cmd 0x0704 r Tu.offsetMeasure b)

/-- ATTEST (R355). -/
def execAttest (t : Time) (r : Req) (s : State) : Host.Outcome State Fault Refusal :=
  .next (s.run t fun b => Ci.cmd 0x0801 r Sec.attest (s.foresee t b))

/-- PEER_KEYX (R356). -/
def execPeerKeyx (t : Time) (r : Req) (s : State) : Host.Outcome State Fault Refusal :=
  .next (s.run t fun b => Ci.cmd 0x0802 r Sec.peerKeyx b)

/-- REKEY (R288). -/
def execRekey (t : Time) (r : Req) (s : State) : Host.Outcome State Fault Refusal :=
  .next (s.run t fun b => Ci.cmd 0x0803 r Cc.rekey b)

/-- KEY_ERASE (R288). -/
def execKeyErase (t : Time) (r : Req) (s : State) : Host.Outcome State Fault Refusal :=
  .next (s.run t fun b => Ci.cmd 0x0804 r Cc.keyErase (s.foresee t b))

/-- TAMPER_CONFIG (R363). -/
def execTamperConfig (t : Time) (r : Req) (s : State) : Host.Outcome State Fault Refusal :=
  .next (s.run t fun b => Ci.cmd 0x0805 r Sec.tamperConfig b)

/-- COUNTER_READ (R458). -/
def execCounterRead (t : Time) (r : Req) (s : State) : Host.Outcome State Fault Refusal :=
  .next (s.run t fun b => Ci.cmd 0x0901 r Dbg.counterRead b)

/-- PM_READ (R319). -/
def execPmRead (t : Time) (r : Req) (s : State) : Host.Outcome State Fault Refusal :=
  .next (s.run t fun b => Ci.cmd 0x0902 r Pm.read b)

/-- STATS_READ (R183). -/
def execStatsRead (t : Time) (r : Req) (s : State) : Host.Outcome State Fault Refusal :=
  .next (s.run t fun b => Ci.cmd 0x0903 r Ce.statsRead b)

/-- SNAPSHOT_CONFIG (R482). -/
def execSnapshotConfig (t : Time) (r : Req) (s : State) : Host.Outcome State Fault Refusal :=
  .next (s.run t fun b => Ci.cmd 0x0904 r Rel.snapConfig b)

/-- HEALTH_READ (R480). -/
def execHealthRead (t : Time) (r : Req) (s : State) : Host.Outcome State Fault Refusal :=
  .next (s.run t fun b => Ci.cmd 0x0905 r Rel.healthRead b)

/-- ENGINE_FREEZE (R452). -/
def execEngineFreeze (t : Time) (r : Req) (s : State) : Host.Outcome State Fault Refusal :=
  .next (s.run t fun b => Ci.cmd 0x0A01 r Dbg.engineFreeze b)

/-- ENGINE_DUMP (R455). -/
def execEngineDump (t : Time) (r : Req) (s : State) : Host.Outcome State Fault Refusal :=
  .next (s.run t fun b => Ci.cmd 0x0A02 r Dbg.engineDump b)

/-- TRACE_CONFIG (R461). -/
def execTraceConfig (t : Time) (r : Req) (s : State) : Host.Outcome State Fault Refusal :=
  .next (s.run t fun b => Ci.cmd 0x0A03 r Dbg.traceConfig b)

/-- HANG_CONFIG (R451). -/
def execHangConfig (t : Time) (r : Req) (s : State) : Host.Outcome State Fault Refusal :=
  .next (s.run t fun b => Ci.cmd 0x0A04 r Dbg.hangConfig b)

end Sys2Proof.Machine
end

