-- ==== Sys2Proof/Machine/FabricRows.lean ====
section
/-! DEFINITION. One meaning for each command of the fabric interface (chapter 3): its moment, its effect, and what moves on after it. -/

namespace Sys2Proof.Machine

/-- FABRIC_PACKET_RX (R74). -/
def execFabricPacketRx (t : Time) (port : Nat) (pkt : FabPkt) (s : State) : Host.Outcome State Fault Refusal :=
  .next (s.run t fun b => b.whenWorks 26 (Fif.packetRx port pkt))

/-- The packets that waiting commands bring at the moment `t`, each with its port (R87). -/
def State.packetsAt (s : State) (t : Time) : List (Nat × FabPkt) := s.pending.filterMap fun i => match i with
  | .fabricPacketRx u port p => if u ≤ s.at_ t then some (port, p) else none
  | _ => none

/-- The open job that a JOB_FENCE fences, if it passes its checks and may start now. -/
def Block.fenceOf (b : Block) (r : Req) : Option Nat :=
  let j := b.cmdJob r
  if b.jobOpen j && ((Ci.cmd 0x0206 r Job.fenceStart b).job j).state == 1 then some j else none

/-- The jobs that waiting JOB_FENCE commands fence at the moment `t` (R100). -/
def State.fencesAt (s : State) (t : Time) : List Nat := s.pending.filterMap fun i => match i with
  | .jobFence u r => if u ≤ s.at_ t then (s.blk.tick t).fenceOf r else none
  | _ => none

/-- GAP_TIMER_EXPIRY (R86, R87). -/
def execGapTimerExpiry (t : Time) (stream : Nat) (s : State) : Host.Outcome State Fault Refusal :=
  .next (s.run t fun b => b.whenWorks 26 (Fif.gapExpiry stream (s.packetsAt t)))

/-- FABRIC_REQUEST_RX (R107). -/
def execFabricRequestRx (t : Time) (sel : Nat) (s : State) : Host.Outcome State Fault Refusal :=
  .next (s.run t fun b => b.whenBufs 27 (Fwu.requestRx sel))

/-- FABRIC_REQUEST_UNBLOCK (R108). -/
def execFabricRequestUnblock (t : Time) (sel : Nat) (s : State) : Host.Outcome State Fault Refusal :=
  .next (s.run t fun b => b.whenBufs 27 (Fwu.unblock sel))

/-- FABRIC_FENCE_ACK (R117). -/
def execFabricFenceAck (t : Time) (ctx : Nat) (s : State) : Host.Outcome State Fault Refusal :=
  .next (s.run t fun b => b.whenBufs 27 (Fwu.fenceAck ctx))

/-- FABRIC_RESPONSE_RX (R91). -/
def execFabricResponseRx (t : Time) (sel : Nat) (s : State) : Host.Outcome State Fault Refusal :=
  .next (s.run t fun b => b.whenWorks 26 (Fwu.fabResponse sel))

/-- FABRIC_REQUEST_TIMEOUT (R90). -/
def execFabricRequestTimeout (t : Time) (s : State) : Host.Outcome State Fault Refusal :=
  .next (s.run t fun b => b.whenWorks 26 Fwu.fabTimeout)

/-- TAG_QUARANTINE_END (R92). -/
def execTagQuarantineEnd (t : Time) (tag : Nat) (s : State) : Host.Outcome State Fault Refusal :=
  .next (s.run t fun b => b.whenWorks 26 (Fif.quarantineEnd tag))

/-- FABRIC_REQUEST_ISSUE (R93). -/
def execFabricRequestIssue (t : Time) (s : State) : Host.Outcome State Fault Refusal :=
  .next (s.run t fun b => b.whenWorks 26 Fif.requestIssue)

/-- FABRIC_PACKET_TX (R84). -/
def execFabricPacketTx (t : Time) (sel : Nat) (s : State) : Host.Outcome State Fault Refusal :=
  .next (s.run t fun b => b.whenWorks 26 (Fif.packetTx sel))

/-- FABRIC_CREDIT_RETURN (R78). -/
def execFabricCreditReturn (t : Time) (port : Nat) (cls : Nat) (n : Nat) (s : State) : Host.Outcome State Fault Refusal :=
  .next (s.run t fun b => if port < 32 ∧ cls < 8 then b.whenWorks 26 (Fif.creditReturn port cls n) else b)

/-- MCAST_RESULT_INJECT (R96). -/
def execMcastResultInject (t : Time) (coll : Nat) (tile : Nat) (s : State) : Host.Outcome State Fault Refusal :=
  .next (s.run t fun b => b.whenWorks 26 (fun b => b.whenBufs 28 (Ce.inject coll tile)))

/-- MCAST_SET_TIMEOUT (R94). -/
def execMcastSetTimeout (t : Time) (idx : Nat) (s : State) : Host.Outcome State Fault Refusal :=
  .next (s.run t fun b => b.whenWorks 26 (Fif.mcastTimeout idx))

/-- RESET_NOTICE_RX (R97, R100). -/
def execResetNoticeRx (t : Time) (sel : Nat) (s : State) : Host.Outcome State Fault Refusal :=
  .next (s.run t fun b => b.whenWorks 26 (Fif.resetNotice sel (s.fencesAt t)))

/-- RESET_DONE_RX (R97). -/
def execResetDoneRx (t : Time) (sel : Nat) (s : State) : Host.Outcome State Fault Refusal :=
  .next (s.run t fun b => b.whenWorks 26 (Fif.resetDone sel))

/-- FABRIC_LANE_LOSS (R73). -/
def execFabricLaneLoss (t : Time) (port : Nat) (s : State) : Host.Outcome State Fault Refusal :=
  .next (s.run t fun b => b.whenWorks 26 (Fif.laneLoss port))

/-- FABRIC_PORT_UP (R73). -/
def execFabricPortUp (t : Time) (port : Nat) (s : State) : Host.Outcome State Fault Refusal :=
  .next (s.run t fun b => b.whenWorks 26 (Fif.portUpEv port))

/-- TIME_MSG_SEND (R410). -/
def execTimeMsgSend (t : Time) (s : State) : Host.Outcome State Fault Refusal :=
  .next (s.run t fun b => b.whenWorks 26 (fun b => b.whenWorks 36 Tu.timeMsg))

end Sys2Proof.Machine
end

