-- ==== Sys2Proof/Machine/FarRows.lean ====
section
/-! DEFINITION. One meaning for each command of far windows (chapter 4): its moment, its effect, and what moves on after it. -/

namespace Sys2Proof.Machine

/-- FAR_REQUEST_SEND (R113). -/
def execFarRequestSend (t : Time) (ctx : Nat) (s : State) : Host.Outcome State Fault Refusal :=
  .next (s.run t fun b => b.whenBufs 27 (Fwu.requestSend ctx))

/-- FAR_REQUEST_RX (R111). -/
def execFarRequestRx (t : Time) (sel : Nat) (s : State) : Host.Outcome State Fault Refusal :=
  .next (s.run t fun b => b.whenBufs 27 (Fwu.farRequestRx sel))

/-- FAR_STREAM_HOLD_EXPIRY (R506). -/
def execFarStreamHoldExpiry (t : Time) (s : State) : Host.Outcome State Fault Refusal :=
  .next (s.run t fun b => b.whenBufs 27 Fwu.holdExpiry)

/-- FAR_REQUEST_EXECUTE (R112). -/
def execFarRequestExecute (t : Time) (entry : Nat) (s : State) : Host.Outcome State Fault Refusal :=
  .next (s.run t fun b => b.whenBufs 27 (Fwu.farExecute entry))

/-- FAR_EXEC_RESPONSE (R112). -/
def execFarExecResponse (t : Time) (entry : Nat) (s : State) : Host.Outcome State Fault Refusal :=
  .next (s.run t fun b => b.whenBufs 27 (Fwu.execResponse entry))

/-- FFENCE_COMPLETE (R117). -/
def execFfenceComplete (t : Time) (entry : Nat) (s : State) : Host.Outcome State Fault Refusal :=
  .next (s.run t fun b => b.whenBufs 27 (Fwu.ffenceComplete entry))

/-- FAR_RESPONSE_RX (R126). -/
def execFarResponseRx (t : Time) (sel : Nat) (s : State) : Host.Outcome State Fault Refusal :=
  .next (s.run t fun b => b.whenBufs 27 (Fwu.responseRx sel))

/-- FAR_DEADLINE_EXPIRY (R125). -/
def execFarDeadlineExpiry (t : Time) (s : State) : Host.Outcome State Fault Refusal :=
  .next (s.run t fun b => b.whenBufs 27 Fwu.deadlines)

/-- FAR_QUARANTINE_END (R126). -/
def execFarQuarantineEnd (t : Time) (ctx : Nat) (s : State) : Host.Outcome State Fault Refusal :=
  .next (s.run t fun b => b.whenBufs 27 (Fwu.quarEnd ctx))

/-- OP_CONTEXT_PAGE_OUT (R121). -/
def execOpContextPageOut (t : Time) (s : State) : Host.Outcome State Fault Refusal :=
  .next (s.run t fun b => b.whenBufs 27 Fwu.pageOut)

/-- OP_CONTEXT_PAGE_IN (R121). -/
def execOpContextPageIn (t : Time) (ctx : Nat) (s : State) : Host.Outcome State Fault Refusal :=
  .next (s.run t fun b => b.whenBufs 27 (Fwu.pageIn ctx))

/-- BULK_PROGRESS_RX (R130). -/
def execBulkProgressRx (t : Time) (sel : Nat) (s : State) : Host.Outcome State Fault Refusal :=
  .next (s.run t fun b => b.whenBufs 27 (Fwu.progressRx sel))

/-- BULK_CHUNK_SEND (R130). -/
def execBulkChunkSend (t : Time) (ctx : Nat) (s : State) : Host.Outcome State Fault Refusal :=
  .next (s.run t fun b => b.whenBufs 27 (Fwu.chunkSend ctx))

end Sys2Proof.Machine
end

