-- ==== Sys2Proof/Machine/LineRows.lean ====
section
/-! DEFINITION. One meaning for each command of compression, cipher, transport, scheduling and framing (chapters 7 to 11): its moment, its effect, and what moves on after it. -/

namespace Sys2Proof.Machine

/-- CX_DRAUGHT_START (R207). -/
def execCxDraughtStart (t : Time) (lane : Nat) (s : State) : Host.Outcome State Fault Refusal :=
  .next (s.run t fun b => if lane < 32 then b.whenBufs 29 (Cx.draughtStart lane) else b)

/-- CX_STREAM_DONE (R207). -/
def execCxStreamDone (t : Time) (lane : Nat) (s : State) : Host.Outcome State Fault Refusal :=
  .next (s.run t fun b => if lane < 32 then b.whenBufs 29 (Cx.streamDone lane) else b)

/-- CX_DECODE_ACCEPT (R210). -/
def execCxDecodeAccept (t : Time) (s : State) : Host.Outcome State Fault Refusal :=
  .next (s.run t fun b => b.whenBufs 29 Cx.decodeAccept)

/-- CX_DECODE_DONE (R213). -/
def execCxDecodeDone (t : Time) (lane : Nat) (s : State) : Host.Outcome State Fault Refusal :=
  .next (s.run t fun b => if lane < 32 then b.whenBufs 29 (Cx.decodeDone lane) else b)

/-- CC_SEAL_RECORD (R283). -/
def execCcSealRecord (t : Time) (queue : Nat) (s : State) : Host.Outcome State Fault Refusal :=
  .next (s.run t fun b => b.whenBufs 30 (Cc.sealRecord queue))

/-- CC_OPEN_SEGMENT (R280). -/
def execCcOpenSegment (t : Time) (sel : Nat) (s : State) : Host.Outcome State Fault Refusal :=
  .next (s.run t fun b => b.whenBufs 30 (Cc.openSegment sel))

/-- REKEY_TRIGGER (R286). -/
def execRekeyTrigger (t : Time) (slot : Nat) (s : State) : Host.Outcome State Fault Refusal :=
  .next (s.run t fun b => b.whenBufs 30 (Cc.rekeyTrigger slot))

/-- REKEY_ANNOUNCE_RX (R286). -/
def execRekeyAnnounceRx (t : Time) (sel : Nat) (s : State) : Host.Outcome State Fault Refusal :=
  .next (s.run t fun b => b.whenBufs 30 (Cc.announceRx sel))

/-- REKEY_READY_RX (R286). -/
def execRekeyReadyRx (t : Time) (sel : Nat) (s : State) : Host.Outcome State Fault Refusal :=
  .next (s.run t fun b => b.whenBufs 30 (Cc.readyRx sel))

/-- REKEY_RETIRE_SEND (R286). -/
def execRekeyRetireSend (t : Time) (slot : Nat) (s : State) : Host.Outcome State Fault Refusal :=
  .next (s.run t fun b => b.whenBufs 30 (Cc.retireSend slot))

/-- REKEY_RETIRE_RX (R286). -/
def execRekeyRetireRx (t : Time) (sel : Nat) (s : State) : Host.Outcome State Fault Refusal :=
  .next (s.run t fun b => b.whenBufs 30 (Cc.retireRx sel))

/-- REKEY_RETIRE_ACK_RX (R286). -/
def execRekeyRetireAckRx (t : Time) (sel : Nat) (s : State) : Host.Outcome State Fault Refusal :=
  .next (s.run t fun b => b.whenBufs 30 (Cc.retireAckRx sel))

/-- KEY_STALL_EXPIRY (R287). -/
def execKeyStallExpiry (t : Time) (s : State) : Host.Outcome State Fault Refusal :=
  .next (s.run t fun b => b.whenBufs 30 Cc.stallExpiry)

/-- CTRL_SLOT_RX (R285). -/
def execCtrlSlotRx (t : Time) (port : Nat) (s : State) : Host.Outcome State Fault Refusal :=
  .next (s.run t fun b => if port < 2 then b.whenBufs 30 (Cc.ctrlRx port) else b)

/-- SEGMENT_RX (R225). -/
def execSegmentRx (t : Time) (port : Nat) (_ : Unit) (s : State) : Host.Outcome State Fault Refusal :=
  .next (s.run t fun b => if port < 2 then b.whenBufs 31 (Te.segmentRx port) else b)

/-- TRANSPORT_CONTROL_RX (R223). -/
def execTransportControlRx (t : Time) (port : Nat) (_ : Unit) (s : State) : Host.Outcome State Fault Refusal :=
  .next (s.run t fun b => if port < 2 then b.whenBufs 31 (Te.controlRx port) else b)

/-- GROUP_FRAME_TX (R222, R290). -/
def execGroupFrameTx (t : Time) (x : GroupTx) (s : State) : Host.Outcome State Fault Refusal :=
  .next (s.run t fun b => b.whenLf x.port (Lf.frameTx x))

/-- RTO_EXPIRY (R237). -/
def execRtoExpiry (t : Time) (s : State) : Host.Outcome State Fault Refusal :=
  .next (s.run t fun b => b.whenBufs 31 Te.rtoCheck)

/-- SEGMENT_ABANDON (R239). -/
def execSegmentAbandon (t : Time) (port : Nat) (seq : Nat) (s : State) : Host.Outcome State Fault Refusal :=
  .next (s.run t fun b => if port < 2 then b.whenBufs 31 (Te.segAbandon port seq) else b)

/-- RX_CREDIT_RECOMPUTE (R232). -/
def execRxCreditRecompute (t : Time) (s : State) : Host.Outcome State Fault Refusal :=
  .next (s.run t fun b => b.whenBufs 31 Te.creditRecompute)

/-- FWU_RTT_UPDATE (R236). -/
def execFwuRttUpdate (t : Time) (s : State) : Host.Outcome State Fault Refusal :=
  .next (s.run t fun b => b.whenBufs 27 (fun b => b.whenBufs 31 Te.rttUpdate))

/-- PORT_UNUSABLE (R242). -/
def execPortUnusable (t : Time) (port : Nat) (s : State) : Host.Outcome State Fault Refusal :=
  .next (s.run t fun b => if port < 2 then b.whenBufs 31 (Te.portUnusable port) else b)

/-- PORT_USABLE (R245). -/
def execPortUsable (t : Time) (port : Nat) (s : State) : Host.Outcome State Fault Refusal :=
  .next (s.run t fun b => if port < 2 then b.whenBufs 31 (Te.portUsable port) else b)

/-- ACCEPT_MAP_EXPIRY (R244). -/
def execAcceptMapExpiry (t : Time) (port : Nat) (s : State) : Host.Outcome State Fault Refusal :=
  .next (s.run t fun b => if port < 2 then b.whenBufs 31 (Te.mapExpiry port) else b)

/-- NO_PATH_EXPIRY (R247). -/
def execNoPathExpiry (t : Time) (peer : Nat) (s : State) : Host.Outcome State Fault Refusal :=
  .next (s.run t fun b => b.whenBufs 31 (Te.noPathExpiry peer))

/-- BUCKET_REFILL (R264). -/
def execBucketRefill (t : Time) (s : State) : Host.Outcome State Fault Refusal :=
  .next (s.run t fun b => b.whenBufs 32 Ss.refill)

/-- SCALE_FACTOR_UPDATE (R270). -/
def execScaleFactorUpdate (t : Time) (s : State) : Host.Outcome State Fault Refusal :=
  .next (s.run t fun b => b.whenBufs 32 Ss.scaleUpdate)

/-- GROUP_FRAME_BOUNDARY (R306). -/
def execGroupFrameBoundary (t : Time) (port : Nat) (s : State) : Host.Outcome State Fault Refusal :=
  .next (s.run t fun b => b.whenLf port (Lf.boundary port))

/-- MEMBER_FRAME_RX (R297, R326). -/
def execMemberFrameRx (t : Time) (port : Nat) (m : Nat) (syms : List Symbol) (s : State) : Host.Outcome State Fault Refusal :=
  .next (s.run t fun b => if m < 32 then b.whenLf port (Lf.frameRx port m syms) else b)

/-- DEFECT_ENTRY (R307). -/
def execDefectEntry (t : Time) (port : Nat) (obj : Nat) (sign : DefectSign) (s : State) : Host.Outcome State Fault Refusal :=
  .next (s.run t fun b => b.whenLf port (Lf.defectEntry port obj sign.bit sign.rep))

/-- DEFECT_EXIT (R307). -/
def execDefectExit (t : Time) (port : Nat) (obj : Nat) (sign : DefectSign) (s : State) : Host.Outcome State Fault Refusal :=
  .next (s.run t fun b => b.whenLf port (Lf.defectExit port obj sign.bit sign.rep))

/-- PLANNED_REMOVAL_REQUEST (R302). -/
def execPlannedRemovalRequest (t : Time) (port : Nat) (m : Nat) (s : State) : Host.Outcome State Fault Refusal :=
  .next (s.run t fun b => b.whenLf port (Lo.removal port m))

/-- PLAN_MAP_CLEAR_EXPIRY (R302). -/
def execPlanMapClearExpiry (t : Time) (port : Nat) (m : Nat) (s : State) : Host.Outcome State Fault Refusal :=
  .next (s.run t fun b => b.whenLf port (Lf.planExpiry port m))

/-- MEMBER_ADD_TIMEOUT (R305). -/
def execMemberAddTimeout (t : Time) (port : Nat) (s : State) : Host.Outcome State Fault Refusal :=
  .next (s.run t fun b => b.whenLf port (Lf.addTimeout port))

/-- PM_SECOND (R316). -/
def execPmSecond (t : Time) (s : State) : Host.Outcome State Fault Refusal :=
  .next (s.run t fun b => b.whenUp Pm.second)

/-- PM_BIN_ROLLOVER (R318). -/
def execPmBinRollover (t : Time) (s : State) : Host.Outcome State Fault Refusal :=
  .next (s.run t fun b => b.whenUp Pm.rollover)

end Sys2Proof.Machine
end

