-- ==== Sys2Proof/Machine/OpticsRows.lean ====
section
/-! DEFINITION. One meaning for each command of comb sources and coherent optics (chapter 12): its moment, its effect, and what moves on after it. -/

namespace Sys2Proof.Machine

/-- LO_SECOND_REPORT (R327). -/
def execLoSecondReport (t : Time) (port : Nat) (_ : Unit) (s : State) : Host.Outcome State Fault Refusal :=
  .next (s.run t fun b => b.whenLf port (Pm.report port))

/-- COMB_BRING_UP (R328). -/
def execCombBringUp (t : Time) (port : Nat) (s : State) : Host.Outcome State Fault Refusal :=
  .next (s.run t fun b => b.whenLo port (Lo.bringUp port))

/-- COMB_BRING_UP_DONE (R328). -/
def execCombBringUpDone (t : Time) (port : Nat) (ends : List Time) (comb : CombFound) (rings : RingsFound) (bias : Nat) (s : State) : Host.Outcome State Fault Refusal :=
  .next (s.run t fun b => b.whenLo port (Lo.bringUpDone port ⟨ends, comb, rings, bias⟩))

/-- COMB_STATE_LOSS (R330). -/
def execCombStateLoss (t : Time) (port : Nat) (s : State) : Host.Outcome State Fault Refusal :=
  .next (s.run t fun b => b.whenLo port (Lo.stateLoss port))

/-- COMB_AUTO_SWITCH (R330). -/
def execCombAutoSwitch (t : Time) (port : Nat) (s : State) : Host.Outcome State Fault Refusal :=
  .next (s.run t fun b => b.whenLo port (Lo.autoSwitch port))

/-- COMB_LINE_CHECK (R329). -/
def execCombLineCheck (t : Time) (port : Nat) (x : LoTick) (s : State) : Host.Outcome State Fault Refusal :=
  .next (s.run t fun b => b.whenLo port (Lo.lineCheck port x))

/-- LINES_LOW_EXPIRY (R330). -/
def execLinesLowExpiry (t : Time) (port : Nat) (s : State) : Host.Outcome State Fault Refusal :=
  .next (s.run t fun b => b.whenLo port (Lo.linesLow port))

/-- RING_TUNE_TICK (R333). -/
def execRingTuneTick (t : Time) (port : Nat) (x : RingTick) (s : State) : Host.Outcome State Fault Refusal :=
  .next (s.run t fun b => b.whenLo port (Lo.ringTick port x))

/-- RING_RELOCK (R335). -/
def execRingRelock (t : Time) (port : Nat) (m : Nat) (res : Option (List Sweep × Int)) (s : State) : Host.Outcome State Fault Refusal :=
  .next (s.run t fun b => if m < 32 then b.whenLo port (Lo.relock port m res) else b)

/-- CALIBRATION_START (R337). -/
def execCalibrationStart (t : Time) (port : Nat) (s : State) : Host.Outcome State Fault Refusal :=
  .next (s.run t fun b => b.whenLo port (Lo.calStart port))

/-- CALIBRATION_WORK (R338). -/
def execCalibrationWork (t : Time) (port : Nat) (res : Option CalFound) (s : State) : Host.Outcome State Fault Refusal :=
  .next (s.run t fun b => b.whenLo port (Lo.calWork port res))

/-- CALIBRATION_RETRY (R339). -/
def execCalibrationRetry (t : Time) (port : Nat) (s : State) : Host.Outcome State Fault Refusal :=
  .next (s.run t fun b => b.whenLo port (Lo.calRetry port))

/-- LAUNCH_ADJUST (R341). -/
def execLaunchAdjust (t : Time) (port : Nat) (x : LaunchTick) (s : State) : Host.Outcome State Fault Refusal :=
  .next (s.run t fun b => b.whenLo port (Lo.launch port x))

/-- EYE_SAFETY_SHUTDOWN (R345). -/
def execEyeSafetyShutdown (t : Time) (port : Nat) (s : State) : Host.Outcome State Fault Refusal :=
  .next (s.run t fun b => if port < 2 then b.whenUp (Lo.eyeSafety port) else b)

/-- SAFE_PROBE (R346). -/
def execSafeProbe (t : Time) (port : Nat) (s : State) : Host.Outcome State Fault Refusal :=
  .next (s.run t fun b => b.whenLo port (Lo.safeProbe port))

/-- AGEING_HOURLY (R348). -/
def execAgeingHourly (t : Time) (s : State) : Host.Outcome State Fault Refusal :=
  .next (s.run t fun b => b.whenUp Lo.ageing)

/-- COMB_REACQUIRED (R330). -/
def execCombReacquired (t : Time) (port : Nat) (scan : LineScan) (s : State) : Host.Outcome State Fault Refusal :=
  .next (s.run t fun b => b.whenLo port (Lo.reacquired port scan))

/-- SAFE_PROBE_END (R346). -/
def execSafeProbeEnd (t : Time) (port : Nat) (s : State) : Host.Outcome State Fault Refusal :=
  .next (s.run t fun b => b.whenLo port (Lo.probeEnd port))

/-- TUNE_METHOD_TIMEOUT (R336). -/
def execTuneMethodTimeout (t : Time) (port : Nat) (s : State) : Host.Outcome State Fault Refusal :=
  .next (s.run t fun b => b.whenLo port (Lo.tuneTimeout port))

end Sys2Proof.Machine
end

