-- ==== Sys2Proof/Machine/RegRows.lean ====
section
/-! DEFINITION. One meaning for each command of accesses to registers (chapters 0 and 19): its moment, its effect, and what moves on after it. -/

namespace Sys2Proof.Machine

/-- CMD_DB_WRITE (R40). -/
def execCmdDbWrite (t : Time) (rq : Nat) (ring : Nat) (v : Word) (s : State) : Host.Outcome State Fault Refusal :=
  .next (s.run t fun b => if ring < 256 then Reg.write rq (R.cmdDb ring) 32 v [] b else b)

/-- CMD_RQ_CFG_WRITE (R44). -/
def execCmdRqCfgWrite (t : Time) (rq : Nat) (ring : Nat) (v : Word) (s : State) : Host.Outcome State Fault Refusal :=
  .next (s.run t fun b => if ring < 256 then Reg.write rq (R.cmdRqCfg ring) 32 v [] b else b)

/-- CMD_CQ_HEAD_WRITE (R45). -/
def execCmdCqHeadWrite (t : Time) (rq : Nat) (ring : Nat) (v : Word) (s : State) : Host.Outcome State Fault Refusal :=
  .next (s.run t fun b => if ring < 256 then Reg.write rq (R.cmdCqHead ring) 32 v [] b else b)

/-- REG_WRITE (R10). -/
def execRegWrite (t : Time) (rq : Nat) (addr : Nat) (width : Nat) (v : Word) (s : State) : Host.Outcome State Fault Refusal :=
  .next (s.run t fun b => Reg.write rq addr width v [] b)

/-- REG_READ_CLEAR (R12). -/
def execRegReadClear (t : Time) (rq : Nat) (addr : Nat) (width : Nat) (s : State) : Host.Outcome State Fault Refusal :=
  .next (s.run t fun b => Reg.read rq addr width b)

/-- REG_PAIR_LO_READ (R7). -/
def execRegPairLoRead (t : Time) (rq : Nat) (addr : Nat) (s : State) : Host.Outcome State Fault Refusal :=
  .next (s.run t fun b => Reg.read rq addr 32 b)

/-- REG_PAIR_HI_READ (R7). -/
def execRegPairHiRead (t : Time) (rq : Nat) (addr : Nat) (s : State) : Host.Outcome State Fault Refusal :=
  .next (s.run t fun b => Reg.read rq addr 32 b)

/-- REG_PAIR_HI_WRITE (R7). -/
def execRegPairHiWrite (t : Time) (rq : Nat) (addr : Nat) (v : Word) (s : State) : Host.Outcome State Fault Refusal :=
  .next (s.run t fun b => Reg.write rq addr 32 v [] b)

/-- REG_PAIR_LO_WRITE (R7). -/
def execRegPairLoWrite (t : Time) (rq : Nat) (addr : Nat) (v : Word) (s : State) : Host.Outcome State Fault Refusal :=
  .next (s.run t fun b => Reg.write rq addr 32 v [] b)

/-- FIF_EDDY_PART_WRITE (R101). -/
def execFifEddyPartWrite (t : Time) (rq : Nat) (n : Nat) (v : Word) (s : State) : Host.Outcome State Fault Refusal :=
  .next (s.run t fun b => if n < 8 then Reg.write rq (R.fifEddyPart n) 32 v [] b else b)

/-- FWU_EXEC_CTL_WRITE (R132). -/
def execFwuExecCtlWrite (t : Time) (rq : Nat) (v : Word) (s : State) : Host.Outcome State Fault Refusal :=
  .next (s.run t fun b => Reg.write rq R.fwuExecCtl 32 v [] b)

/-- CX_QLIMIT_WRITE (R215). -/
def execCxQlimitWrite (t : Time) (rq : Nat) (dec : Bool) (v : Word) (s : State) : Host.Outcome State Fault Refusal :=
  .next (s.run t fun b => Reg.write rq (if dec then R.cxDqlimit else R.cxQlimit) 32 v [] b)

/-- SR_BANK_OWN_WRITE (R378). -/
def execSrBankOwnWrite (t : Time) (rq : Nat) (bank : Nat) (p1 : Bool) (v : Word) (delayed : List Nat) (s : State) : Host.Outcome State Fault Refusal :=
  .next (s.run t fun b =>
    match Bm.ownReg bank p1 with
    | some a => Reg.write rq a 32 v delayed b
    | none => b)

/-- MEM_S_RETIRE_WRITE (R372). -/
def execMemSRetireWrite (t : Time) (rq : Nat) (stack : Nat) (v : Word) (s : State) : Host.Outcome State Fault Refusal :=
  .next (s.run t fun b => if stack < 8 then Reg.write rq (R.memSRetire stack) 32 v [] b else b)

/-- SEC_SVN_COMMIT_WRITE (R351). -/
def execSecSvnCommitWrite (t : Time) (rq : Nat) (v : Word) (s : State) : Host.Outcome State Fault Refusal :=
  .next (s.run t fun b => Reg.write rq R.secSvnCommit 32 v [] b)

/-- SEC_MR3_EXT_COMMIT (R352). -/
def execSecMr3ExtCommit (t : Time) (rq : Nat) (v : Word) (s : State) : Host.Outcome State Fault Refusal :=
  .next (s.run t fun b => Reg.write rq (R.secMr3Ext 11) 32 v [] b)

/-- SEC_GW_WRITE (R359). -/
def execSecGwWrite (t : Time) (rq : Nat) (v : Word) (s : State) : Host.Outcome State Fault Refusal :=
  .next (s.run t fun b => Reg.write rq R.secGw 32 v [] b)

/-- TU_NOW_NS_READ (R400). -/
def execTuNowNsRead (t : Time) (rq : Nat) (s : State) : Host.Outcome State Fault Refusal :=
  .next (s.run t fun b => Reg.read rq R.tuNowNs 32 b)

/-- TU_PI_TS_NS_READ (R415). -/
def execTuPiTsNsRead (t : Time) (rq : Nat) (input : Nat) (s : State) : Host.Outcome State Fault Refusal :=
  .next (s.run t fun b => if input < 2 then Reg.read rq (R.tuPiTsNs input) 32 b else b)

/-- PCR_CLK_SET_WRITE (R429). -/
def execPcrClkSetWrite (t : Time) (rq : Nat) (v : Word) (s : State) : Host.Outcome State Fault Refusal :=
  .next (s.run t fun b => Reg.write rq R.pcrClkSet 32 v [] b)

/-- PCR_WAKE_REQ (R433). -/
def execPcrWakeReq (t : Time) (rq : Nat) (v : Word) (s : State) : Host.Outcome State Fault Refusal :=
  .next (s.run t fun b => Reg.write rq R.pcrWake 32 v [] b)

/-- LF_PM_CLEAR (R318). -/
def execLfPmClear (t : Time) (rq : Nat) (port : Nat) (v : Word) (s : State) : Host.Outcome State Fault Refusal :=
  .next (s.run t fun b => if port < 2 then Reg.write rq (R.lfPmCtl port) 32 v [] b else b)

/-- DBG_TRACE_SW_CMT_WRITE (R465). -/
def execDbgTraceSwCmtWrite (t : Time) (rq : Nat) (v : Word) (s : State) : Host.Outcome State Fault Refusal :=
  .next (s.run t fun b => Reg.write rq R.dbgTraceSwCmt 32 v [] b)

/-- DBG_CTL_UNLOCK_WRITE (R447). -/
def execDbgCtlUnlockWrite (t : Time) (rq : Nat) (v : Word) (s : State) : Host.Outcome State Fault Refusal :=
  .next (s.run t fun b => Reg.write rq R.dbgCtl 32 v [] b)

/-- HC_CP_WIN_WRITE (R466). -/
def execHcCpWinWrite (t : Time) (rq : Nat) (k : Nat) (v : Word) (s : State) : Host.Outcome State Fault Refusal :=
  .next (s.run t fun b => if k < 9 then Reg.write rq (R.hcCpWin k) 32 v [] b else b)

/-- SYS_EVT_HEAD_WRITE (R472). -/
def execSysEvtHeadWrite (t : Time) (rq : Nat) (v : Word) (s : State) : Host.Outcome State Fault Refusal :=
  .next (s.run t fun b => Reg.write rq R.sysEvtHead 32 v [] b)

end Sys2Proof.Machine
end

