-- ==== Sys2Proof/Machine/DebugPort.lean ====
section
/-! DEFINITION. The debug module's accesses through halted harts (R448), and where a hart's addresses lead (R443, R466). -/

namespace Sys2Proof.Machine

/-- The hart an access of the debug module names. -/
def Dmi.hart : DmiOp → Nat
  | .status h | .halt h | .resume h | .step h | .readReg h _ | .writeReg h _ _ | .readMem h _ _ | .writeMem h _ _ | .setTrigger h _ _ _ => h

/-- A value that a read through the debug module returns. -/
def Block.dmiRead (v : Nat) (b : Block) : Block := b.onDbg fun d => { d with dmi := some v }

/-- A number of `n` bytes that the specification does not state. -/
def Block.freeBytesN (n : Nat) (b : Block) : Nat × Block :=
  let (i, b) := b.draw n
  (Bits.ofLe (Sec.random i n), b)

/-- The registers of a hart that has run are no longer what the debug module wrote. -/
def Block.hregsGone (h : Nat) (b : Block) : Block :=
  b.onDbg fun d => { d with hregs := d.hregs.filter fun (e : Nat × Nat) => e.1 / 65536 != h }

/-- Bits of a register of a hart, by its abstract number: 32 of a control processor, 64 of a host core, and as many as its vector registers have
(log entry 106). -/
def Dbg.regBits (h n : Nat) : Nat := if 16 ≤ h then 32 else if 0x1040 ≤ n ∧ n < 0x1060 then Config.vectorBits else 64

/-- The key of a register of a hart. -/
def Dbg.regKey (h n : Nat) : Nat := h * 65536 + n % 65536

/-- A read of a register of a halted hart; x0 reads 0, one not known yet has a value that the specification does not state. -/
def Block.hartReg (h n : Nat) (b : Block) : Block :=
  if n = 0x1000 then b.dmiRead 0
  else match AMap.get? b.dbg.hregs (Dbg.regKey h n) with
    | some v => b.dmiRead v
    | none =>
      let (v, b) := b.freeBytesN (Bits.ceilDiv (Dbg.regBits h n) 8)
      let v := v % 2 ^ Dbg.regBits h n
      (b.onDbg fun d => { d with hregs := AMap.set d.hregs (Dbg.regKey h n) v }).dmiRead v

/-- Where an address of a hart leads: memory, a register, or a place that the specification does not give. -/
inductive HartPlace where
  | mem (a : Nat)
  | reg (a : Nat)
  | other
deriving DecidableEq, Repr

/-- Where `n` bytes at an address of a hart lead: a host core's memory and registers, or a control processor's registers and its window on
memory (R443, R466). -/
def Block.hartPlace (b : Block) (h a n : Nat) : HartPlace :=
  if h < 16 then (if inDx a n then .mem a else if 2 ^ 39 ≤ a then .reg (a - 2 ^ 39) else .other)
  else if a < 0x400000 then .reg a
  else if Config.cpWindow ≤ a ∧ a + n ≤ Config.cpWindow + 2 ^ 30 then
    .mem (b.fld (R.hcCpWin (h - 16)) 31 18 * 2 ^ 30 + (a - Config.cpWindow))
  else .other

/-- A read through a halted hart, under its own master ID: poison is a synchronous access fault (Table 14-2). -/
def Block.hartRead (op : DmiOp) (h a n : Nat) (b : Block) : Block :=
  match b.hartPlace h a n with
  | .mem x =>
    if b.rangePoison x n then (b.readCount x n).emit (.poisonTo (Dbg.master h)) else b.dmiRead (b.dxN x n)
  | .reg x =>
    let b := Reg.read (Dbg.master h) x (8 * n) b
    b.dmiRead (AMap.getD b.answer (Dbg.master h) 0).toNat
  | .other =>
    let (v, b) := b.freeBytesN n
    (b.dmiRead v).emit (.hart op)

/-- A write through a halted hart, under its own master ID. -/
def Block.hartWrite (op : DmiOp) (h a : Nat) (bs : List Byte) (b : Block) : Block :=
  match b.hartPlace h a bs.length with
  | .mem x => b.dxWrite x bs
  | .reg x => Reg.write (Dbg.master h) x (8 * bs.length) (BitVec.ofNat 32 (Bits.ofLe bs)) [] b
  | .other => b.emit (.hart op)

/-- A halted hart runs on, and so does its role. -/
def Block.resumeHart (h : Nat) (b : Block) : Block :=
  let b := ((b.onDbg fun d => { d with halted := AMap.erase d.halted h }).hregsGone h).roleBack (Dbg.master h)
  if 16 ≤ h ∧ h < 20 ∧ (AMap.get? b.pcr.held (h - 16)).isNone then b.putBit R.cmdStatus (h - 12) true else b

/-- An access of the debug module to an existing hart while core debug is unlocked. -/
def Dbg.access (op : DmiOp) (b : Block) : Block :=
  let h := Dmi.hart op
  let halted := (AMap.get? b.dbg.halted h).isSome
  match op with
  | .status _ => b
  | .halt _ => if halted then b else b.haltHart h
  | .resume _ => if halted then b.resumeHart h else b
  | .step _ => if halted then (b.hregsGone h).emit (.hart op) else b
  | .readReg _ n => if halted then b.hartReg h n else b
  | .writeReg _ n v =>
    if halted ∧ n ≠ 0x1000 then b.onDbg fun d => { d with hregs := AMap.set d.hregs (Dbg.regKey h n) (v % 2 ^ Dbg.regBits h n) } else b
  | .readMem _ a n => if halted then b.hartRead op h a n else b
  | .writeMem _ a bs => if halted then b.hartWrite op h a bs else b
  | .setTrigger _ i x y =>
    if i < (if h < 16 then 8 else 4) then b.onDbg fun d => { d with trigs := AMap.set d.trigs (h * 8 + i) (x, y) } else b

/-- dmstatus: `authenticated`, bit 7, says whether core debug is unlocked; the other bits are not the specification's (R448). -/
def Block.dmStatus (b : Block) : Block :=
  let (v, b) := b.freeBytesN 4
  b.dmiRead (Bits.put v 7 7 (Bits.ofBool (b.bit R.secStat 27)))

/-- DEBUG_DMI_ACCESS: while core debug is locked there is no access but the read of dmstatus (R448). -/
def Dbg.dmi (op : DmiOp) (b : Block) : Block :=
  let b := b.onDbg fun d => { d with dmi := none }
  if b.pcr.phase ≠ 4 then b
  else match op with
    | .status _ => b.dmStatus
    | _ => if !b.bit R.secStat 27 ∨ 24 < Dmi.hart op then b else Dbg.access op b

end Sys2Proof.Machine
end

