-- ==== Sys2Proof/Machine/Reader.lean ====
section
/-! DEFINITION. What the reader of a poisoned unit or word does (R370, R376, Table 14-2). -/

namespace Sys2Proof.Machine

/-- The live buffers in memory (0) or scratch (1) that hold a byte address, by their handles. -/
def Block.bufsAt (b : Block) (store a : Nat) : List Nat :=
  b.bm.bufs.filterMap fun e =>
    if e.2.live && e.2.scr == (store == 1) && decide (e.2.addr ≤ a) && decide (a < e.2.addr + Bm.size (e.1 / 2 ^ 32)) then
      some (Bm.handle e.2.gen (e.1 / 2 ^ 32) (e.1 % 2 ^ 32)) else none

/-- A memory address lies in the `n` bytes from an address. -/
def inRange (store a start n : Nat) : Bool := store == 0 && decide (start ≤ a) && decide (a < start + n)

/-- The FWU has read poison: an operation whose data or home slot it is fails, quarantined, and an execution entry answers TIMEOUT. -/
def Block.fwuPoison (store a : Nat) (b : Block) : Block :=
  let hs := b.bufsAt store a
  let mine (e : Nat × OpCtx) : Bool := e.2.buf.any hs.contains || e.2.early.any (fun m => hs.contains m.2) || e.2.paged && inRange store a (Fwu.home e.1) 256
  let b := (b.fwu.ctxs.filter mine).foldl (fun b e => b.ctxPoison e.1 e.2) b
  (b.fwu.ents.filter fun e => e.2.buf.any fun h => hs.contains h.1).foldl (fun b e => b.entRespond e.1 e.2 St.timeout (b.entOffset e.2) []) b

/-- The CE has read poison: a tile whose buffer or home slot it is fails. A residual block is R182's. -/
def Block.cePoison (store a : Nat) (b : Block) : Block :=
  let hs := b.bufsAt store a
  let gone := b.ce.colls.flatMap fun e => (e.2.tiles.filter fun x => x.2.buf.any hs.contains || x.2.paged && inRange store a (Ce.home x.2.ix) 256).map
    fun x => (e.1, x.1, e.2.cls (e.2.treeNo x.1))
  gone.foldl (fun b g => b.tileFail g.1 g.2.1 St.timeout g.2.2) b

/-- The CC has read poison: the messages whose data it is fail. -/
def Block.ccPoison (store a : Nat) (b : Block) : Block :=
  let hs := b.bufsAt store a
  let ms := b.outq.filter fun m => m.buf.any hs.contains || m.src.any hs.contains
  if ms.isEmpty then b else b.sealPoison ms

/-- The TE has read poison: a segment whose copy it is is abandoned. -/
def Block.tePoison (store a : Nat) (b : Block) : Block :=
  [0, 1].foldl (fun b p => ((b.tp p).segs.filter fun e => inRange store a e.2.addr e.2.bytes).foldl
    (fun b e => b.abandonSeg p e.1 e.2 St.timeout e.2.cls) b) b

/-- The SS has read poison: a queued record whose buffer it is fails. -/
def Block.ssPoison (store a : Nat) (b : Block) : Block :=
  let hs := b.bufsAt store a
  let mine (r : Sealed) : Bool := r.buf.any hs.contains
  let gone := b.ss.queues.flatMap fun e => (e.2.filter mine).map fun r => (e.1, r)
  let b := b.onSs fun s => { s with queues := (s.queues.map fun (e : Nat × List Sealed) => (e.1, e.2.filter fun r => !mine r)).filter fun e => !e.2.isEmpty }
  gone.foldl (fun b e => b.recsLost e.1 7 [e.2]) b

/-- What a master does that a read has delivered poison to (Table 14-2): a host core or control processor takes a synchronous access fault, the
PCI Express endpoint completes with the EP bit, and the unit of work of an engine whose data it is fails at once. A compressor input is
checked as its stream ends (R214). -/
def Block.readerActs (reader store a : Nat) (b : Block) : Block :=
  if 2 ≤ store then b
  else match reader with
    | 27 => b.fwuPoison store a
    | 28 => b.cePoison store a
    | 30 => b.ccPoison store a
    | 31 => b.tePoison store a
    | 32 => b.ssPoison store a
    | m => if m < 26 ∨ m = 38 then b.emit (.poisonTo m) else b

end Sys2Proof.Machine
end

