-- ==== Sys2Proof/Machine/SystemRows.lean ====
section
/-! DEFINITION. One meaning for each command of security, memory, time, power, debug and health (chapters 13 to 18): its moment, its effect, and what moves on after it. -/

namespace Sys2Proof.Machine

/-- TAMPER_ALARM (R365). -/
def execTamperAlarm (t : Time) (x : TamperTick) (s : State) : Host.Outcome State Fault Refusal :=
  .next (s.run t fun b => Pcr.tamper x b)

/-- KX_MESSAGE_RX (R359). -/
def execKxMessageRx (t : Time) (port : Nat) (msg : Nat) (k : KxView) (s : State) : Host.Outcome State Fault Refusal :=
  .next (s.run t fun b => if port < 2 then b.whenUp (fun b => (s.foresee t b).unlessCut port (Sec.kxMessage port msg k)) else b)

/-- KX_TIMEOUT (R362). -/
def execKxTimeout (t : Time) (port : Nat) (s : State) : Host.Outcome State Fault Refusal :=
  .next (s.run t fun b => if port < 2 then b.whenUp (fun b => (s.foresee t b).unlessCut port (Sec.kxTimeout port)) else b)

/-- MEM_READ_CE (R368). -/
def execMemReadCe (t : Time) (store : Nat) (addr : Nat) (_reader : Nat) (s : State) : Host.Outcome State Fault Refusal :=
  .next (s.run t fun b => if Mc.holds b store addr then b.whenUp (Mc.readCe store addr) else b)

/-- MEM_READ_UE (R369, R370). -/
def execMemReadUe (t : Time) (store : Nat) (addr : Nat) (reader : Nat) (s : State) : Host.Outcome State Fault Refusal :=
  .next (s.run t fun b => if Mc.holds b store addr then b.whenUp (fun b => (Mc.readUe store addr b).readerActs reader store addr) else b)

/-- PATROL_SCRUB (R371). -/
def execPatrolScrub (t : Time) (finding : Nat) (s : State) : Host.Outcome State Fault Refusal :=
  .next (s.run t fun b => b.whenUp (Mc.patrol finding))

/-- SRAM_SCRUB (R376). -/
def execSramScrub (t : Time) (finding : Nat) (delayed : List Nat) (s : State) : Host.Outcome State Fault Refusal :=
  .next (s.run t fun b => b.whenUp (Mc.sramScrub finding delayed))

/-- CHANNEL_RETIRE (R372). -/
def execChannelRetire (t : Time) (ch : Nat) (phy : Bool) (s : State) : Host.Outcome State Fault Refusal :=
  .next (s.run t fun b => b.whenUp (Mc.channelRetire ch phy))

/-- FRAME_MIGRATE (R373). -/
def execFrameMigrate (t : Time) (s : State) : Host.Outcome State Fault Refusal :=
  .next (s.run t fun b => b.whenUp Mc.migrate)

/-- SCRATCH_NONOWNER_ACCESS (R377). -/
def execScratchNonownerAccess (t : Time) (master : Nat) (bank : Nat) (p1 : Bool) (_write : Bool) (s : State) : Host.Outcome State Fault Refusal :=
  .next (s.run t fun b => if bank < 800 then b.whenUp (Mc.nonOwner master bank p1) else b)

/-- PTP_MESSAGE_RX (R402). -/
def execPtpMessageRx (t : Time) (inst : Nat) (m : PtpMsg) (s : State) : Host.Outcome State Fault Refusal :=
  .next (s.run t fun b => b.whenPtp (Tu.ptpMessage inst m))

/-- PTP_INSTANCE_LOST (R403). -/
def execPtpInstanceLost (t : Time) (inst : Nat) (s : State) : Host.Outcome State Fault Refusal :=
  .next (s.run t fun b => b.whenPtp (Tu.instanceLost inst))

/-- SLEW_END (R404). -/
def execSlewEnd (t : Time) (s : State) : Host.Outcome State Fault Refusal :=
  .next (s.run t fun b => b.whenWorks 36 Tu.slewEnd)

/-- TC_FORWARD (R408). -/
def execTcForward (t : Time) (m : PtpMsg) (residence : Nat) (up : Bool) (s : State) : Host.Outcome State Fault Refusal :=
  .next (s.run t fun b => b.whenWorks 36 (Tu.tcForward m residence up))

/-- PULSE_EDGE (R413). -/
def execPulseEdge (t : Time) (n : Nat) (s : State) : Host.Outcome State Fault Refusal :=
  .next (s.run t fun b => b.whenUp (Tu.pulseEdge n))

/-- PULSE_INPUT_EDGE (R415). -/
def execPulseInputEdge (t : Time) (i : Nat) (rising : Bool) (s : State) : Host.Outcome State Fault Refusal :=
  .next (s.run t fun b => b.whenWorks 36 (Tu.inputEdge i rising))

/-- POWER_ON (R418). -/
def execPowerOn (t : Time) (s : State) : Host.Outcome State Fault Refusal :=
  .next (s.run t fun b => Pcr.powerOn b)

/-- RESET_N_ASSERT (R417). -/
def execResetNAssert (t : Time) (dur : Time) (tj : Int) (s : State) : Host.Outcome State Fault Refusal :=
  .next (s.run t fun b => Pcr.resetPin dur tj b)

/-- BOOT_STEP (R418). -/
def execBootStep (t : Time) (x : BootIn) (s : State) : Host.Outcome State Fault Refusal :=
  .next (s.run t fun b => Pcr.bootStep x b)

/-- BOOT_STEP_TIMEOUT (R418). -/
def execBootStepTimeout (t : Time) (s : State) : Host.Outcome State Fault Refusal :=
  .next (s.run t fun b => Pcr.bootTimeout b)

/-- PWR_GOOD_LOSS (R496). -/
def execPwrGoodLoss (t : Time) (dur : Time) (s : State) : Host.Outcome State Fault Refusal :=
  .next (s.run t fun b => Pcr.pwrLoss dur b)

/-- WAKE_N_ASSERT (R433). -/
def execWakeNAssert (t : Time) (dur : Time) (s : State) : Host.Outcome State Fault Refusal :=
  .next (s.run t fun b => Pcr.wakePin dur b)

/-- CALM_WAKE (R433). -/
def execCalmWake (t : Time) (s : State) : Host.Outcome State Fault Refusal :=
  .next (s.run t fun b => b.wake)

/-- REFERENCE_LOSS (R426, R427). -/
def execReferenceLoss (t : Time) (sign : RefSign) (s : State) : Host.Outcome State Fault Refusal :=
  .next (s.run t fun b => Pcr.refLoss sign.ref sign.count b)

/-- REFERENCE_RECOVERY (R426, R427). -/
def execReferenceRecovery (t : Time) (sign : RefSign) (s : State) : Host.Outcome State Fault Refusal :=
  .next (s.run t fun b => Pcr.refBack sign.ref sign.count b)

/-- ENERGY_EPOCH (R436). -/
def execEnergyEpoch (t : Time) (watts : Nat) (s : State) : Host.Outcome State Fault Refusal :=
  .next (s.run t fun b => Pcr.epoch watts b)

/-- RAMP_GOVERNOR_GRANT (R435). -/
def execRampGovernorGrant (t : Time) (s : State) : Host.Outcome State Fault Refusal :=
  .next (s.run t fun b => b.whenUp Pcr.rampGrant)

/-- THERMAL_SAMPLE (R438). -/
def execThermalSample (t : Time) (tj : Int) (s : State) : Host.Outcome State Fault Refusal :=
  .next (s.run t fun b => Pcr.thermal tj b)

/-- THERMAL_TRIP (R439). -/
def execThermalTrip (t : Time) (s : State) : Host.Outcome State Fault Refusal :=
  .next (s.run t fun b => Pcr.trip b)

/-- CP_WATCHDOG_EXPIRY (R446). -/
def execCpWatchdogExpiry (t : Time) (x : CpFail) (s : State) : Host.Outcome State Fault Refusal :=
  .next (s.run t fun b => Dbg.watchdog x b)

/-- CP_RESTART (R424). -/
def execCpRestart (t : Time) (master : Nat) (s : State) : Host.Outcome State Fault Refusal :=
  .next (s.run t fun b => Pcr.cpRestart master b)

/-- ENGINE_HANG (R450). -/
def execEngineHang (t : Time) (engine : Nat) (s : State) : Host.Outcome State Fault Refusal :=
  .next (s.run t fun b => b.whenUp (Dbg.hang engine))

/-- DEBUG_DMI_ACCESS (R448). -/
def execDebugDmiAccess (t : Time) (op : DmiOp) (s : State) : Host.Outcome State Fault Refusal :=
  .next (s.run t fun b => Dbg.dmi op b)

/-- TRACE_RECORD_WRITE (R462). -/
def execTraceRecordWrite (t : Time) (s : State) : Host.Outcome State Fault Refusal :=
  .next (s.run t fun b => b.whenUp Dbg.traceWrite)

/-- EVENT_RECORD_WRITE (R474). -/
def execEventRecordWrite (t : Time) (s : State) : Host.Outcome State Fault Refusal :=
  .next (s.run t fun b => Rel.eventWrite b)

/-- HEALTH_HOURLY (R478). -/
def execHealthHourly (t : Time) (s : State) : Host.Outcome State Fault Refusal :=
  .next (s.run t fun b => Rel.hourly b)

/-- TELEMETRY_SNAPSHOT (R483). -/
def execTelemetrySnapshot (t : Time) (s : State) : Host.Outcome State Fault Refusal :=
  .next (s.run t fun b => b.whenUp Rel.takeSnapshot)

/-- PWR_GOOD_RISE (R496). -/
def execPwrGoodRise (t : Time) (s : State) : Host.Outcome State Fault Refusal :=
  .next (s.run t fun b => Pcr.pwrRise b)

/-- CALM_WAKE_TIMEOUT (R433). -/
def execCalmWakeTimeout (t : Time) (s : State) : Host.Outcome State Fault Refusal :=
  .next (s.run t fun b => Pcr.wakeTimeout b)

/-- VDD_AON_LOSS (R364). -/
def execVddAonLoss (t : Time) (s : State) : Host.Outcome State Fault Refusal :=
  .next (s.run t fun b => Pcr.aonLoss b)

/-- AVS_ALERT_N_CHANGE (R492). -/
def execAvsAlertNChange (t : Time) (level : Bool) (s : State) : Host.Outcome State Fault Refusal :=
  .next (s.run t fun b => Pcr.avsAlert level b)

/-- ADAPTIVE_LOOP_UPDATE (R441). -/
def execAdaptiveLoopUpdate (t : Time) (loop : Nat) (target : Nat) (s : State) : Host.Outcome State Fault Refusal :=
  .next (s.run t fun b => Pcr.loopUpdate loop target b)

/-- PTP_DELAY_REQ_SEND (R402). -/
def execPtpDelayReqSend (t : Time) (inst : Nat) (s : State) : Host.Outcome State Fault Refusal :=
  .next (s.run t fun b => b.whenPtp (Tu.delayReq inst))

/-- HC_CACHE_ERROR (R445). -/
def execHcCacheError (t : Time) (lvl : CacheRead) (ue : Bool) (addr : Nat) (s : State) : Host.Outcome State Fault Refusal :=
  .next (s.run t fun b => b.whenUp (Dbg.cacheError lvl ue addr))

/-- CI_HEARTBEAT_LAPSE (R449). -/
def execCiHeartbeatLapse (t : Time) (k : Nat) (s : State) : Host.Outcome State Fault Refusal :=
  .next (s.run t fun b => b.whenUp (Dbg.heartbeatLapse k))

/-- ENGINE_DUMP_DONE (R455). -/
def execEngineDumpDone (t : Time) (e : Nat) (s : State) : Host.Outcome State Fault Refusal :=
  .next (s.run t fun b => b.whenUp (Dump.done e))

end Sys2Proof.Machine
end

