-- ==== Sys2Proof/Machine/Dispatch.lean ====
section
/-! DEFINITION. The one place where a command meets its meaning: one arm for each row of the table. -/

namespace Sys2Proof.Machine

/-- What a command does to everything but the queue. -/
def exec (i : Instr) (s : State) : Host.Outcome State Fault Refusal :=
  match i with
  | .cmdDbWrite t rq ring v => Sys2Proof.Machine.execCmdDbWrite t rq ring v s
  | .cmdRqCfgWrite t rq ring v => Sys2Proof.Machine.execCmdRqCfgWrite t rq ring v s
  | .cmdCqHeadWrite t rq ring v => Sys2Proof.Machine.execCmdCqHeadWrite t rq ring v s
  | .ciDispatch t cp hostOk => Sys2Proof.Machine.execCiDispatch t cp hostOk s
  | .coalTimerExpiry t ring => Sys2Proof.Machine.execCoalTimerExpiry t ring s
  | .completionWriteRetry t ring hostOk => Sys2Proof.Machine.execCompletionWriteRetry t ring hostOk s
  | .sysNop t r => Sys2Proof.Machine.execSysNop t r s
  | .sysQuery t r => Sys2Proof.Machine.execSysQuery t r s
  | .funcEnable t r => Sys2Proof.Machine.execFuncEnable t r s
  | .funcDisable t r => Sys2Proof.Machine.execFuncDisable t r s
  | .funcRunningReached t func => Sys2Proof.Machine.execFuncRunningReached t func s
  | .funcDrainEnd t func => Sys2Proof.Machine.execFuncDrainEnd t func s
  | .fabricPortDrainTimeout t port => Sys2Proof.Machine.execFabricPortDrainTimeout t port s
  | .funcState t r => Sys2Proof.Machine.execFuncState t r s
  | .regionConfig t r => Sys2Proof.Machine.execRegionConfig t r s
  | .reset t r => Sys2Proof.Machine.execReset t r s
  | .powerState t r => Sys2Proof.Machine.execPowerState t r s
  | .powerTransitionDone t => Sys2Proof.Machine.execPowerTransitionDone t s
  | .policyBounds t r => Sys2Proof.Machine.execPolicyBounds t r s
  | .ownerRevoke t r => Sys2Proof.Machine.execOwnerRevoke t r s
  | .ringReset t r => Sys2Proof.Machine.execRingReset t r s
  | .jobOpen t r => Sys2Proof.Machine.execJobOpen t r s
  | .jobRanks t r => Sys2Proof.Machine.execJobRanks t r s
  | .ringBind t r => Sys2Proof.Machine.execRingBind t r s
  | .jobConfig t r => Sys2Proof.Machine.execJobConfig t r s
  | .jobRate t r => Sys2Proof.Machine.execJobRate t r s
  | .jobFence t r => Sys2Proof.Machine.execJobFence t r s
  | .jobFenceComplete t job => Sys2Proof.Machine.execJobFenceComplete t job s
  | .jobClose t r => Sys2Proof.Machine.execJobClose t r s
  | .jobQuery t r => Sys2Proof.Machine.execJobQuery t r s
  | .mcastSet t r => Sys2Proof.Machine.execMcastSet t r s
  | .mcastUpdateAckRx t sel => Sys2Proof.Machine.execMcastUpdateAckRx t sel s
  | .winCreate t r => Sys2Proof.Machine.execWinCreate t r s
  | .winDestroy t r => Sys2Proof.Machine.execWinDestroy t r s
  | .winFence t r => Sys2Proof.Machine.execWinFence t r s
  | .bulkCopy t r => Sys2Proof.Machine.execBulkCopy t r s
  | .winQuery t r => Sys2Proof.Machine.execWinQuery t r s
  | .treeSet t r => Sys2Proof.Machine.execTreeSet t r s
  | .collStart t r => Sys2Proof.Machine.execCollStart t r s
  | .collAbort t r => Sys2Proof.Machine.execCollAbort t r s
  | .combinerLoad t r => Sys2Proof.Machine.execCombinerLoad t r s
  | .collQuery t r => Sys2Proof.Machine.execCollQuery t r s
  | .residualAlloc t r => Sys2Proof.Machine.execResidualAlloc t r s
  | .residualFree t r => Sys2Proof.Machine.execResidualFree t r s
  | .bufAlloc t r => Sys2Proof.Machine.execBufAlloc t r s
  | .bufFree t r => Sys2Proof.Machine.execBufFree t r s
  | .bufPass t r => Sys2Proof.Machine.execBufPass t r s
  | .engineBufAlloc t a => Sys2Proof.Machine.execEngineBufAlloc t a s
  | .poolConfig t r => Sys2Proof.Machine.execPoolConfig t r s
  | .poolFrameMove t src dst => Sys2Proof.Machine.execPoolFrameMove t src dst s
  | .auditStart t r => Sys2Proof.Machine.execAuditStart t r s
  | .auditRead t r => Sys2Proof.Machine.execAuditRead t r s
  | .portConfig t r => Sys2Proof.Machine.execPortConfig t r s
  | .memberSet t r => Sys2Proof.Machine.execMemberSet t r s
  | .slotMap t r => Sys2Proof.Machine.execSlotMap t r s
  | .pageSwap t r => Sys2Proof.Machine.execPageSwap t r s
  | .tsiPageSwitch t port => Sys2Proof.Machine.execTsiPageSwitch t port s
  | .tuneMethod t r => Sys2Proof.Machine.execTuneMethod t r s
  | .defectConfig t r => Sys2Proof.Machine.execDefectConfig t r s
  | .combSwitch t r => Sys2Proof.Machine.execCombSwitch t r s
  | .launchPower t r => Sys2Proof.Machine.execLaunchPower t r s
  | .ptpConfig t r => Sys2Proof.Machine.execPtpConfig t r s
  | .domainSelect t r => Sys2Proof.Machine.execDomainSelect t r s
  | .pulseSet t r => Sys2Proof.Machine.execPulseSet t r s
  | .offsetMeasure t r => Sys2Proof.Machine.execOffsetMeasure t r s
  | .offsetMeasureTimeout t => Sys2Proof.Machine.execOffsetMeasureTimeout t s
  | .attest t r => Sys2Proof.Machine.execAttest t r s
  | .peerKeyx t r => Sys2Proof.Machine.execPeerKeyx t r s
  | .rekey t r => Sys2Proof.Machine.execRekey t r s
  | .keyErase t r => Sys2Proof.Machine.execKeyErase t r s
  | .tamperConfig t r => Sys2Proof.Machine.execTamperConfig t r s
  | .counterRead t r => Sys2Proof.Machine.execCounterRead t r s
  | .pmRead t r => Sys2Proof.Machine.execPmRead t r s
  | .statsRead t r => Sys2Proof.Machine.execStatsRead t r s
  | .snapshotConfig t r => Sys2Proof.Machine.execSnapshotConfig t r s
  | .healthRead t r => Sys2Proof.Machine.execHealthRead t r s
  | .engineFreeze t r => Sys2Proof.Machine.execEngineFreeze t r s
  | .engineDump t r => Sys2Proof.Machine.execEngineDump t r s
  | .traceConfig t r => Sys2Proof.Machine.execTraceConfig t r s
  | .hangConfig t r => Sys2Proof.Machine.execHangConfig t r s
  | .regWrite t rq addr width v => Sys2Proof.Machine.execRegWrite t rq addr width v s
  | .regReadClear t rq addr width => Sys2Proof.Machine.execRegReadClear t rq addr width s
  | .regPairLoRead t rq addr => Sys2Proof.Machine.execRegPairLoRead t rq addr s
  | .regPairHiRead t rq addr => Sys2Proof.Machine.execRegPairHiRead t rq addr s
  | .regPairHiWrite t rq addr v => Sys2Proof.Machine.execRegPairHiWrite t rq addr v s
  | .regPairLoWrite t rq addr v => Sys2Proof.Machine.execRegPairLoWrite t rq addr v s
  | .fifEddyPartWrite t rq n v => Sys2Proof.Machine.execFifEddyPartWrite t rq n v s
  | .fwuExecCtlWrite t rq v => Sys2Proof.Machine.execFwuExecCtlWrite t rq v s
  | .cxQlimitWrite t rq dec v => Sys2Proof.Machine.execCxQlimitWrite t rq dec v s
  | .srBankOwnWrite t rq bank p1 v delayed => Sys2Proof.Machine.execSrBankOwnWrite t rq bank p1 v delayed s
  | .bankHandoverDone t bank p1 => Sys2Proof.Machine.execBankHandoverDone t bank p1 s
  | .memSRetireWrite t rq stack v => Sys2Proof.Machine.execMemSRetireWrite t rq stack v s
  | .secSvnCommitWrite t rq v => Sys2Proof.Machine.execSecSvnCommitWrite t rq v s
  | .secMr3ExtCommit t rq v => Sys2Proof.Machine.execSecMr3ExtCommit t rq v s
  | .secGwWrite t rq v => Sys2Proof.Machine.execSecGwWrite t rq v s
  | .tuNowNsRead t rq => Sys2Proof.Machine.execTuNowNsRead t rq s
  | .tuPiTsNsRead t rq input => Sys2Proof.Machine.execTuPiTsNsRead t rq input s
  | .pcrClkSetWrite t rq v => Sys2Proof.Machine.execPcrClkSetWrite t rq v s
  | .pcrWakeReq t rq v => Sys2Proof.Machine.execPcrWakeReq t rq v s
  | .lfPmClear t rq port v => Sys2Proof.Machine.execLfPmClear t rq port v s
  | .dbgTraceSwCmtWrite t rq v => Sys2Proof.Machine.execDbgTraceSwCmtWrite t rq v s
  | .dbgCtlUnlockWrite t rq v => Sys2Proof.Machine.execDbgCtlUnlockWrite t rq v s
  | .hcCpWinWrite t rq k v => Sys2Proof.Machine.execHcCpWinWrite t rq k v s
  | .sysEvtHeadWrite t rq v => Sys2Proof.Machine.execSysEvtHeadWrite t rq v s
  | .fabricPacketRx t port pkt => Sys2Proof.Machine.execFabricPacketRx t port pkt s
  | .gapTimerExpiry t stream => Sys2Proof.Machine.execGapTimerExpiry t stream s
  | .fabricRequestRx t sel => Sys2Proof.Machine.execFabricRequestRx t sel s
  | .fabricRequestUnblock t sel => Sys2Proof.Machine.execFabricRequestUnblock t sel s
  | .fabricFenceAck t ctx => Sys2Proof.Machine.execFabricFenceAck t ctx s
  | .fabricResponseRx t sel => Sys2Proof.Machine.execFabricResponseRx t sel s
  | .fabricRequestTimeout t => Sys2Proof.Machine.execFabricRequestTimeout t s
  | .tagQuarantineEnd t tag => Sys2Proof.Machine.execTagQuarantineEnd t tag s
  | .fabricRequestIssue t => Sys2Proof.Machine.execFabricRequestIssue t s
  | .fabricPacketTx t sel => Sys2Proof.Machine.execFabricPacketTx t sel s
  | .fabricCreditReturn t port cls n => Sys2Proof.Machine.execFabricCreditReturn t port cls n s
  | .mcastResultInject t coll tile => Sys2Proof.Machine.execMcastResultInject t coll tile s
  | .mcastSetTimeout t idx => Sys2Proof.Machine.execMcastSetTimeout t idx s
  | .resetNoticeRx t sel => Sys2Proof.Machine.execResetNoticeRx t sel s
  | .resetDoneRx t sel => Sys2Proof.Machine.execResetDoneRx t sel s
  | .fabricLaneLoss t port => Sys2Proof.Machine.execFabricLaneLoss t port s
  | .fabricPortUp t port => Sys2Proof.Machine.execFabricPortUp t port s
  | .timeMsgSend t => Sys2Proof.Machine.execTimeMsgSend t s
  | .farRequestSend t ctx => Sys2Proof.Machine.execFarRequestSend t ctx s
  | .farRequestRx t sel => Sys2Proof.Machine.execFarRequestRx t sel s
  | .farStreamHoldExpiry t => Sys2Proof.Machine.execFarStreamHoldExpiry t s
  | .farRequestExecute t entry => Sys2Proof.Machine.execFarRequestExecute t entry s
  | .farExecResponse t entry => Sys2Proof.Machine.execFarExecResponse t entry s
  | .ffenceComplete t entry => Sys2Proof.Machine.execFfenceComplete t entry s
  | .farResponseRx t sel => Sys2Proof.Machine.execFarResponseRx t sel s
  | .farDeadlineExpiry t => Sys2Proof.Machine.execFarDeadlineExpiry t s
  | .farQuarantineEnd t ctx => Sys2Proof.Machine.execFarQuarantineEnd t ctx s
  | .opContextPageOut t => Sys2Proof.Machine.execOpContextPageOut t s
  | .opContextPageIn t ctx => Sys2Proof.Machine.execOpContextPageIn t ctx s
  | .bulkProgressRx t sel => Sys2Proof.Machine.execBulkProgressRx t sel s
  | .bulkChunkSend t ctx => Sys2Proof.Machine.execBulkChunkSend t ctx s
  | .tilePutRx t sel => Sys2Proof.Machine.execTilePutRx t sel s
  | .tileContextAlloc t => Sys2Proof.Machine.execTileContextAlloc t s
  | .ceDispatchSlot t => Sys2Proof.Machine.execCeDispatchSlot t s
  | .collLineMsgRx t sel => Sys2Proof.Machine.execCollLineMsgRx t sel s
  | .earlyStateExpiry t => Sys2Proof.Machine.execEarlyStateExpiry t s
  | .digestRx t src => Sys2Proof.Machine.execDigestRx t src s
  | .digestWaitTimeout t => Sys2Proof.Machine.execDigestWaitTimeout t s
  | .abortRx t src => Sys2Proof.Machine.execAbortRx t src s
  | .tileDeadlineExpiry t => Sys2Proof.Machine.execTileDeadlineExpiry t s
  | .collComplete t coll => Sys2Proof.Machine.execCollComplete t coll s
  | .tileContextPageOut t => Sys2Proof.Machine.execTileContextPageOut t s
  | .tileContextPageIn t ctx => Sys2Proof.Machine.execTileContextPageIn t ctx s
  | .a2aPutRx t sel => Sys2Proof.Machine.execA2aPutRx t sel s
  | .a2aDataRx t src => Sys2Proof.Machine.execA2aDataRx t src s
  | .a2aEndRx t src => Sys2Proof.Machine.execA2aEndRx t src s
  | .cxDraughtStart t lane => Sys2Proof.Machine.execCxDraughtStart t lane s
  | .cxStreamDone t lane => Sys2Proof.Machine.execCxStreamDone t lane s
  | .cxDecodeAccept t => Sys2Proof.Machine.execCxDecodeAccept t s
  | .cxDecodeDone t lane => Sys2Proof.Machine.execCxDecodeDone t lane s
  | .ccSealRecord t queue => Sys2Proof.Machine.execCcSealRecord t queue s
  | .ccOpenSegment t sel => Sys2Proof.Machine.execCcOpenSegment t sel s
  | .rekeyTrigger t slot => Sys2Proof.Machine.execRekeyTrigger t slot s
  | .rekeyAnnounceRx t sel => Sys2Proof.Machine.execRekeyAnnounceRx t sel s
  | .rekeyReadyRx t sel => Sys2Proof.Machine.execRekeyReadyRx t sel s
  | .rekeyRetireSend t slot => Sys2Proof.Machine.execRekeyRetireSend t slot s
  | .rekeyRetireRx t sel => Sys2Proof.Machine.execRekeyRetireRx t sel s
  | .rekeyRetireAckRx t sel => Sys2Proof.Machine.execRekeyRetireAckRx t sel s
  | .keyStallExpiry t => Sys2Proof.Machine.execKeyStallExpiry t s
  | .ctrlSlotRx t port => Sys2Proof.Machine.execCtrlSlotRx t port s
  | .segmentRx t port u => Sys2Proof.Machine.execSegmentRx t port u s
  | .transportControlRx t port u => Sys2Proof.Machine.execTransportControlRx t port u s
  | .groupFrameTx t x => Sys2Proof.Machine.execGroupFrameTx t x s
  | .rtoExpiry t => Sys2Proof.Machine.execRtoExpiry t s
  | .segmentAbandon t port seq => Sys2Proof.Machine.execSegmentAbandon t port seq s
  | .rxCreditRecompute t => Sys2Proof.Machine.execRxCreditRecompute t s
  | .fwuRttUpdate t => Sys2Proof.Machine.execFwuRttUpdate t s
  | .portUnusable t port => Sys2Proof.Machine.execPortUnusable t port s
  | .portUsable t port => Sys2Proof.Machine.execPortUsable t port s
  | .acceptMapExpiry t port => Sys2Proof.Machine.execAcceptMapExpiry t port s
  | .noPathExpiry t peer => Sys2Proof.Machine.execNoPathExpiry t peer s
  | .bucketRefill t => Sys2Proof.Machine.execBucketRefill t s
  | .scaleFactorUpdate t => Sys2Proof.Machine.execScaleFactorUpdate t s
  | .groupFrameBoundary t port => Sys2Proof.Machine.execGroupFrameBoundary t port s
  | .memberFrameRx t port m syms => Sys2Proof.Machine.execMemberFrameRx t port m syms s
  | .defectEntry t port obj sign => Sys2Proof.Machine.execDefectEntry t port obj sign s
  | .defectExit t port obj sign => Sys2Proof.Machine.execDefectExit t port obj sign s
  | .plannedRemovalRequest t port m => Sys2Proof.Machine.execPlannedRemovalRequest t port m s
  | .planMapClearExpiry t port m => Sys2Proof.Machine.execPlanMapClearExpiry t port m s
  | .memberAddTimeout t port => Sys2Proof.Machine.execMemberAddTimeout t port s
  | .pmSecond t => Sys2Proof.Machine.execPmSecond t s
  | .pmBinRollover t => Sys2Proof.Machine.execPmBinRollover t s
  | .loSecondReport t port u => Sys2Proof.Machine.execLoSecondReport t port u s
  | .combBringUp t port => Sys2Proof.Machine.execCombBringUp t port s
  | .combBringUpDone t port ends comb rings bias => Sys2Proof.Machine.execCombBringUpDone t port ends comb rings bias s
  | .combStateLoss t port => Sys2Proof.Machine.execCombStateLoss t port s
  | .combAutoSwitch t port => Sys2Proof.Machine.execCombAutoSwitch t port s
  | .combLineCheck t port x => Sys2Proof.Machine.execCombLineCheck t port x s
  | .linesLowExpiry t port => Sys2Proof.Machine.execLinesLowExpiry t port s
  | .ringTuneTick t port x => Sys2Proof.Machine.execRingTuneTick t port x s
  | .ringRelock t port m res => Sys2Proof.Machine.execRingRelock t port m res s
  | .calibrationStart t port => Sys2Proof.Machine.execCalibrationStart t port s
  | .calibrationWork t port res => Sys2Proof.Machine.execCalibrationWork t port res s
  | .calibrationRetry t port => Sys2Proof.Machine.execCalibrationRetry t port s
  | .launchAdjust t port x => Sys2Proof.Machine.execLaunchAdjust t port x s
  | .eyeSafetyShutdown t port => Sys2Proof.Machine.execEyeSafetyShutdown t port s
  | .safeProbe t port => Sys2Proof.Machine.execSafeProbe t port s
  | .ageingHourly t => Sys2Proof.Machine.execAgeingHourly t s
  | .tamperAlarm t x => Sys2Proof.Machine.execTamperAlarm t x s
  | .kxMessageRx t port msg k => Sys2Proof.Machine.execKxMessageRx t port msg k s
  | .kxTimeout t port => Sys2Proof.Machine.execKxTimeout t port s
  | .memReadCe t store addr reader => Sys2Proof.Machine.execMemReadCe t store addr reader s
  | .memReadUe t store addr reader => Sys2Proof.Machine.execMemReadUe t store addr reader s
  | .patrolScrub t finding => Sys2Proof.Machine.execPatrolScrub t finding s
  | .sramScrub t finding delayed => Sys2Proof.Machine.execSramScrub t finding delayed s
  | .channelRetire t ch phy => Sys2Proof.Machine.execChannelRetire t ch phy s
  | .frameMigrate t => Sys2Proof.Machine.execFrameMigrate t s
  | .scratchNonownerAccess t master bank p1 write => Sys2Proof.Machine.execScratchNonownerAccess t master bank p1 write s
  | .ptpMessageRx t inst m => Sys2Proof.Machine.execPtpMessageRx t inst m s
  | .ptpInstanceLost t inst => Sys2Proof.Machine.execPtpInstanceLost t inst s
  | .slewEnd t => Sys2Proof.Machine.execSlewEnd t s
  | .tcForward t m residence up => Sys2Proof.Machine.execTcForward t m residence up s
  | .pulseEdge t n => Sys2Proof.Machine.execPulseEdge t n s
  | .pulseInputEdge t k rising => Sys2Proof.Machine.execPulseInputEdge t k rising s
  | .powerOn t => Sys2Proof.Machine.execPowerOn t s
  | .resetNAssert t dur tj => Sys2Proof.Machine.execResetNAssert t dur tj s
  | .bootStep t x => Sys2Proof.Machine.execBootStep t x s
  | .bootStepTimeout t => Sys2Proof.Machine.execBootStepTimeout t s
  | .pwrGoodLoss t dur => Sys2Proof.Machine.execPwrGoodLoss t dur s
  | .wakeNAssert t dur => Sys2Proof.Machine.execWakeNAssert t dur s
  | .calmWake t => Sys2Proof.Machine.execCalmWake t s
  | .referenceLoss t sign => Sys2Proof.Machine.execReferenceLoss t sign s
  | .referenceRecovery t sign => Sys2Proof.Machine.execReferenceRecovery t sign s
  | .energyEpoch t watts => Sys2Proof.Machine.execEnergyEpoch t watts s
  | .rampGovernorGrant t => Sys2Proof.Machine.execRampGovernorGrant t s
  | .thermalSample t tj => Sys2Proof.Machine.execThermalSample t tj s
  | .thermalTrip t => Sys2Proof.Machine.execThermalTrip t s
  | .cpWatchdogExpiry t x => Sys2Proof.Machine.execCpWatchdogExpiry t x s
  | .cpRestart t master => Sys2Proof.Machine.execCpRestart t master s
  | .engineHang t engine => Sys2Proof.Machine.execEngineHang t engine s
  | .debugDmiAccess t op => Sys2Proof.Machine.execDebugDmiAccess t op s
  | .traceRecordWrite t => Sys2Proof.Machine.execTraceRecordWrite t s
  | .eventRecordWrite t => Sys2Proof.Machine.execEventRecordWrite t s
  | .healthHourly t => Sys2Proof.Machine.execHealthHourly t s
  | .telemetrySnapshot t => Sys2Proof.Machine.execTelemetrySnapshot t s
  | .fenceNoticeRx t sel => Sys2Proof.Machine.execFenceNoticeRx t sel s
  | .pwrGoodRise t => Sys2Proof.Machine.execPwrGoodRise t s
  | .calmWakeTimeout t => Sys2Proof.Machine.execCalmWakeTimeout t s
  | .vddAonLoss t => Sys2Proof.Machine.execVddAonLoss t s
  | .combReacquired t port scan => Sys2Proof.Machine.execCombReacquired t port scan s
  | .safeProbeEnd t port => Sys2Proof.Machine.execSafeProbeEnd t port s
  | .tuneMethodTimeout t port => Sys2Proof.Machine.execTuneMethodTimeout t port s
  | .avsAlertNChange t level => Sys2Proof.Machine.execAvsAlertNChange t level s
  | .adaptiveLoopUpdate t loop target => Sys2Proof.Machine.execAdaptiveLoopUpdate t loop target s
  | .ptpDelayReqSend t inst => Sys2Proof.Machine.execPtpDelayReqSend t inst s
  | .hcCacheError t lvl ue addr => Sys2Proof.Machine.execHcCacheError t lvl ue addr s
  | .ciHeartbeatLapse t k => Sys2Proof.Machine.execCiHeartbeatLapse t k s
  | .auditWalkDone t => Sys2Proof.Machine.execAuditWalkDone t s
  | .engineDumpDone t e => Sys2Proof.Machine.execEngineDumpDone t e s
  | .ownerRevokeDone t => Sys2Proof.Machine.execOwnerRevokeDone t s

end Sys2Proof.Machine
end

