-- ==== Sys2Proof/Machine/Step.lean ====
section
/-! DEFINITION. One step: the command at the front of the queue acts on the block, and the rest of the queue waits on. -/

namespace Sys2Proof.Machine

/-- The command that has waited longest acts; with none waiting the block idles, and no time passes (log entry 5). -/
def step (s : State) : Host.Outcome State Fault Refusal :=
  match s.pending with
  | [] => .next s
  | c :: rest => exec c { s with pending := rest }

/-- The state with the command that a word spells at the front of its queue. The table of operations gives no row any bits, so no word
spells one, and the state stays as it is (log entry 7). -/
def State.withFetchWord (s : State) (_nbits _w : Nat) : State := s

end Sys2Proof.Machine
end

