-- ==== Sys2Proof/Safety.lean ====
section
/-! DEFINITION. What holds of a machine in good order: its byte memories are in canonical form, so that equal memories are equal data. -/

namespace Sys2Proof.Machine

/-- The four byte memories of a block are in canonical form. -/
abbrev Block.memWf (b : Block) : Prop := b.dram.wf ∧ b.host.wf ∧ b.sram.wf ∧ b.scratch.wf

/-- A machine is in good order. -/
abbrev State.wf (s : State) : Prop := s.blk.memWf

/-- The outcome of a command whose effect leaves `b`: what has come to wait on it moves on, and the queue stays as it is. -/
def After (s : State) (b : Block) : Host.Outcome State Fault Refusal := .next { s with blk := s.blk.stallEnd b.settle }

/-- The next packet of a ring with an opcode starts at once and passes checks 1 to 7 of R46: a CI processor serves the ring, no earlier
command holds the packet back (R52, R53), and no engine that its action needs is frozen. -/
abbrev Block.passes (b : Block) (opc : Nat) (r : Req) : Prop :=
  b.ciServes r.ring = true ∧ b.mustHold r = false ∧ (Ci.taken opc r b).precheck opc r = none ∧
  (Ci.engines opc r).find? (Ci.taken opc r b).frozen = none

/-- The packet of a ring command comes to act in state `s` at moment `t`: it starts and passes checks 1 to 7, `b` is the block in which it
is in flight and in which its effect begins, and `id` is its number there. -/
abbrev Starts (opc : Nat) (r : Req) (t : Time) (s : State) (b : Block) (id : Nat) : Prop :=
  (s.blk.tick t).passes opc r ∧ b = Ci.taken opc r (s.blk.tick t) ∧ id = (s.blk.tick t).freshId

/-- `k` commands run to a next state each. -/
def State.runs : Nat → State → Prop
  | 0, _ => True
  | k + 1, s => ∃ s', step s = .next s' ∧ s'.runs k

end Sys2Proof.Machine
end

