-- ==== Sys2Proof/Certificates/Slice0/Obligations.lean ====
section
/-! DEFINITION. What is to be proved of the model: one statement for each rule or group of rules. A command's clause says in which state it
leaves the block (`After`), for every state and operands that meet its premises. -/

open Sys2Proof Sys2Proof.Machine

/-! ## The block and its queue -/

/-- One step takes the front command: it answers what that command does to the block while the rest of the queue waits. The queue is the
model's own (log entry 5). -/
def Obligations.StepRunsFront : Prop :=
  ∀ (c : Instr) (rest : List Instr) (b : Block), step ⟨b, c :: rest⟩ = exec c ⟨b, rest⟩

/-- Every command, in every state, ends in a next state whose block has settled, and it takes nothing from the queue and adds nothing. That
a command which finds nothing to do ends in a next state is the model's choice (log entry 11). -/
def Obligations.EveryCommandEndsInANextState : Prop :=
  ∀ (c : Instr) (s : State), ∃ b : Block, exec c s = After s b

/-- A step keeps the four byte memories of the block in canonical form, whichever command it runs. The form of a memory is the model's own
(log entry 3). -/
def Obligations.StepKeepsMemoriesCanonical : Prop :=
  ∀ s s' : State, s.wf → step s = .next s' → s'.wf

/-- Reset: the byte memories are in canonical form, the management ring 0 and the recovery ring are bound and no other ring is, ring 255
alone is enabled, and no command waits (R37, R501). -/
def Obligations.ResetIsInOrder : Prop :=
  State.reset.wf ∧ State.reset.pending = [] ∧
  ∀ n, n < 256 → (State.reset.blk.ring n).bound = (n == 0 || n == 255) ∧ (State.reset.blk.ring n).mgmt = (n == 0 || n == 255) ∧
    (State.reset.blk.ring n).enable = (n == 255)

/-! ## Registers (chapters 0 and 19) -/

/-- The identification and capability registers of Table 0-1 at reset, and that no register write of any requester, at any time, changes
what they hold (R2). -/
def Obligations.CapabilitiesAreFixed : Prop :=
  State.reset.blk.reg R.sysId = 0x0D640100#32 ∧ State.reset.blk.reg R.sysCap0 = 0x20208218#32 ∧
  State.reset.blk.reg R.sysCap1 = 0x20020030#32 ∧ State.reset.blk.reg R.sysCap2 = 0x16140400#32 ∧
  ∀ (a rq : Nat) (v : Word) (b : Block), a ∈ [R.sysId, R.sysCap0, R.sysCap1, R.sysCap2] → (Reg.write rq a 32 v [] b).reg a = b.reg a

/-- The latches of a register pair (R7, R8): a read of _LO returns it and loads the read latch of its requester with _HI; a read of _HI
returns the latch that holds the pair; a write of _HI only loads the write latch; a write of _LO writes both halves and empties it.
Completes: REG_PAIR_LO_READ, REG_PAIR_HI_READ, REG_PAIR_HI_WRITE, REG_PAIR_LO_WRITE. -/
def Obligations.RegisterPairLatches : Prop :=
  (∀ (t : Time) (rq lo : Nat) (s : State), let b := s.blk.tick t
    lo % 4 = 0 → (Reg.lo? lo).isSome → b.reach rq lo false = .acts →
    exec (.regPairLoRead t rq lo) s =
      After s (({ b with rdLatch := AMap.set b.rdLatch rq (lo, b.show rq (lo + 4)) }).returns rq (b.show rq lo))) ∧
  (∀ (t : Time) (rq lo : Nat) (h : Word) (s : State), let b := s.blk.tick t
    lo % 4 = 0 → (Reg.lo? lo).isSome → b.reach rq (lo + 4) false = .acts → AMap.get? b.rdLatch rq = some (lo, h) →
    exec (.regPairHiRead t rq (lo + 4)) s = After s (b.returns rq h)) ∧
  (∀ (t : Time) (rq lo : Nat) (v : Word) (s : State), let b := s.blk.tick t
    lo % 4 = 0 → Reg.lo? lo = some true → b.reach rq (lo + 4) true = .acts →
    exec (.regPairHiWrite t rq (lo + 4) v) s = After s { b with wrLatch := AMap.set b.wrLatch rq (lo, v) }) ∧
  (∀ (t : Time) (rq lo : Nat) (h v : Word) (s : State), let b := s.blk.tick t
    lo % 4 = 0 → Reg.lo? lo = some true → b.reach rq lo true = .acts → AMap.get? b.wrLatch rq = some (lo, h) →
    exec (.regPairLoWrite t rq lo v) s =
      After s (({ (b.writeReg rq (lo + 4) h []) with wrLatch := AMap.erase b.wrLatch rq }).writeReg rq lo v []))

/-- Who reaches a register, and when (R486, R505): in Calm only the sideband port, and only the registers listed; in a device locked while it
runs, a write of a requester other than a control processor changes nothing. REG_WRITE and REG_READ_CLEAR of an
access that is not 32 bits wide and aligned (R6), a W1C register (R10: the error summary), an RW field with a range (R13: GAP_US), and an
RC register: the read returns the value before it clears; what the hardware has set or counted at the same moment stays in both (R12; which events
count as of one moment is log entry 89). An access that meets a debug trigger of its hart does not happen. Completes: REG_WRITE, REG_READ_CLEAR. -/
def Obligations.RegisterAccess : Prop :=
  (
  (∀ (b : Block) (rq a : Nat) (w : Bool), b.pcr.phase = 5 → rq ≠ 39 → b.reach rq a w = .gone) ∧
  (∀ (b : Block) (a : Nat) (w : Bool), b.pcr.phase = 5 → a < 0x400000 →
    (b.reach 39 a w = .acts ↔ a ≤ 0xC ∨ (0x200000 ≤ a ∧ a ≤ 0x20000C) ∨ a = 0x200030 ∨ (0x280000 ≤ a ∧ a < 0x2A0000))) ∧
  (∀ (t : Time) (rq a w : Nat) (v : Word) (s : State), (s.blk.tick t).pcr.phase = 4 → (s.blk.tick t).locked = true → 10 ≤ rq →
    (s.blk.tick t).trigHit rq a true = false → exec (.regWrite t rq a w v) s = After s (s.blk.tick t))
  ) ∧ (
  (∀ (t : Time) (rq a w : Nat) (v : Word) (s : State), w ≠ 32 ∨ a % 4 ≠ 0 → (s.blk.tick t).trigHit rq a true = false →
    exec (.regWrite t rq a w v) s = After s (s.blk.tick t)) ∧
  (∀ (t : Time) (rq a w : Nat) (s : State), w ≠ 32 ∨ a % 4 ≠ 0 → (s.blk.tick t).reach rq a false = .acts →
    exec (.regReadClear t rq a w) s = After s ((s.blk.tick t).returns rq 0xFFFFFFFF#32)) ∧
  (∀ (t : Time) (rq k : Nat) (v : Word) (s : State), k < 8 → (s.blk.tick t).reach rq (R.cmdErrSum k) true = .acts →
    (AMap.get? (s.blk.tick t).fresh (R.cmdErrSum k) = none → exec (.regWrite t rq (R.cmdErrSum k) 32 v) s =
      After s ((s.blk.tick t).setReg (R.cmdErrSum k) ((s.blk.tick t).reg (R.cmdErrSum k) &&& ~~~v))) ∧
    ∀ old new, AMap.get? (s.blk.tick t).fresh (R.cmdErrSum k) = some (old, new) → exec (.regWrite t rq (R.cmdErrSum k) 32 v) s =
      After s ((s.blk.tick t).setReg (R.cmdErrSum k) (((s.blk.tick t).reg (R.cmdErrSum k) &&& ~~~v) ||| BitVec.ofNat 32 new))) ∧
  (∀ (t : Time) (rq : Nat) (v : Word) (s : State), v.toNat / 2 ^ 14 = 0 → (s.blk.tick t).reach rq R.fifGapTmo true = .acts →
    (10 ≤ v.toNat → v.toNat ≤ 10000 → ∃ b, exec (.regWrite t rq R.fifGapTmo 32 v) s = After s b ∧ b.fld R.fifGapTmo 13 0 = v.toNat) ∧
    (v.toNat < 10 ∨ 10000 < v.toNat → ∃ b, exec (.regWrite t rq R.fifGapTmo 32 v) s = After s b ∧
      b.fld R.fifGapTmo 13 0 = (s.blk.tick t).fld R.fifGapTmo 13 0)) ∧
  ∀ (t : Time) (rq a : Nat) (e : RegEnt) (s : State), a % 4 = 0 → (s.blk.tick t).reach rq a false = .acts → RegMap.find? a = some e →
    e.rc ≠ 0 → ¬(0x11000 ≤ a ∧ a < 0x15000) → Reg.lo? a = none → Reg.hi? a = none →
    a ≠ R.tuNowNs → a ≠ R.tuPiTsNs 0 → a ≠ R.tuPiTsNs 1 →
    let b := (s.blk.tick t).elapsed a
    let c : Block := { b with fresh := AMap.erase b.fresh a }
    (AMap.get? b.fresh a = none → exec (.regReadClear t rq a 32) s =
      After s ((c.setReg a (b.reg a &&& ~~~BitVec.ofNat 32 e.rc)).returns rq (b.show rq a))) ∧
    ∀ old new, AMap.get? b.fresh a = some (old, new) → exec (.regReadClear t rq a 32) s =
      After s ((c.setReg a ((b.reg a &&& ~~~BitVec.ofNat 32 e.rc) ||| BitVec.ofNat 32 (Nat.land new e.rc))).returns rq
        (BitVec.ofNat 32 (Nat.lor (Nat.land (b.show rq a).toNat (Nat.xor e.rc 0xFFFFFFFF)) (Nat.land old e.rc))))
  )

/-- The limits that a register write keeps (R101, R132, R215): within them the register takes the value, and outside them the write is
ignored. Registers of the SEC (R351, R352, R359): the commit key raises the fused version to the running one, the last word of MR3_EXT
extends MR3, and SEC_GW is written only while no port has an authenticated peer. Completes: FIF_EDDY_PART_WRITE, FWU_EXEC_CTL_WRITE,
CX_QLIMIT_WRITE, SEC_SVN_COMMIT_WRITE, SEC_MR3_EXT_COMMIT, SEC_GW_WRITE. -/
def Obligations.GuardedRegisterWrites : Prop :=
  (
  (∀ (t : Time) (rq n : Nat) (v : Word) (s : State), let b := s.blk.tick t
    let sum := Bits.sum ((List.range 8).map fun i => if i = n then v.toNat % 1024 else b.fld (R.fifEddyPart i) 9 0)
    n < 8 → b.reach rq (R.fifEddyPart n) true = .acts →
    (16 ≤ v.toNat % 1024 → sum ≤ 512 → exec (.fifEddyPartWrite t rq n v) s =
      After s (b.putN (R.fifEddyPart n) (v.toNat % 1024))) ∧
    (v.toNat % 1024 < 16 ∨ 512 < sum → exec (.fifEddyPartWrite t rq n v) s = After s b)) ∧
  (∀ (t : Time) (rq : Nat) (v : Word) (s : State), let b := s.blk.tick t
    let x := v.toNat % 2 ^ 18
    let peers := (b.peerGw.map Prod.snd).eraseDups.length
    b.reach rq R.fwuExecCtl true = .acts →
    (1024 ≤ x → x ≤ 131072 → x * peers ≤ 131072 → exec (.fwuExecCtlWrite t rq v) s = After s (b.putN R.fwuExecCtl x)) ∧
    (x < 1024 ∨ 131072 < x * peers → exec (.fwuExecCtlWrite t rq v) s = After s b)) ∧
  ∀ (t : Time) (rq : Nat) (v : Word) (s : State), let b := s.blk.tick t
    (b.reach rq R.cxQlimit true = .acts →
      (256 ≤ v.toNat % 2 ^ 13 → v.toNat % 2 ^ 13 ≤ 4096 → exec (.cxQlimitWrite t rq false v) s = After s (b.putN R.cxQlimit (v.toNat % 2 ^ 13))) ∧
      (v.toNat % 2 ^ 13 < 256 ∨ 4096 < v.toNat % 2 ^ 13 → exec (.cxQlimitWrite t rq false v) s = After s b)) ∧
    (b.reach rq R.cxDqlimit true = .acts →
      (128 ≤ v.toNat % 2 ^ 11 → v.toNat % 2 ^ 11 ≤ 1024 → exec (.cxQlimitWrite t rq true v) s = After s (b.putN R.cxDqlimit (v.toNat % 2 ^ 11))) ∧
      (v.toNat % 2 ^ 11 < 128 ∨ 1024 < v.toNat % 2 ^ 11 → exec (.cxQlimitWrite t rq true v) s = After s b))
  ) ∧ (
  (∀ (t : Time) (rq : Nat) (s : State), let b := s.blk.tick t
    b.reach rq R.secSvnCommit true = .acts → b.fld R.secFwSvn 15 0 < b.fld R.secFwSvn 31 16 →
    ∃ b', exec (.secSvnCommitWrite t rq 0x53564E31#32) s = After s b' ∧ b'.fld R.secFwSvn 15 0 = b.fld R.secFwSvn 31 16 ∧
      b'.fld R.secFwSvn 31 16 = b.fld R.secFwSvn 31 16) ∧
  (∀ (t : Time) (rq : Nat) (v : Word) (s : State), v ≠ 0x53564E31#32 → (s.blk.tick t).trigHit rq R.secSvnCommit true = false →
    exec (.secSvnCommitWrite t rq v) s = After s (s.blk.tick t)) ∧
  (∀ (t : Time) (rq : Nat) (v : Word) (s : State), let b := s.blk.tick t
    b.reach rq (R.secMr3Ext 11) true = .acts →
    ∃ b', exec (.secMr3ExtCommit t rq v) s = After s b' ∧
      b'.sec.mr3 = Sha.sha384 (b.sec.mr3 ++ ((List.range 11).flatMap fun k => Bits.leBytes 4 (b.regN (R.secMr3Ext k))) ++ Bits.leBytes 4 v.toNat)) ∧
  ∀ (t : Time) (rq : Nat) (v : Word) (s : State), let b := s.blk.tick t
    b.reach rq R.secGw true = .acts →
    (b.peerGw = [] → exec (.secGwWrite t rq v) s = After s (b.putN R.secGw (v.toNat % 65536))) ∧
    (b.peerGw ≠ [] → exec (.secGwWrite t rq v) s = After s b)
  )

/-- Scratch banks and memory channels by register (R372, R377, R378): a handover starts, ends with the new owner, or is dropped with
HANDOVER_DROP; software retires the channels whose bits it writes. Completes: SR_BANK_OWN_WRITE, BANK_HANDOVER_DONE, MEM_S_RETIRE_WRITE. -/
def Obligations.BankHandover : Prop :=
  (∀ (t : Time) (rq bank a : Nat) (p1 : Bool) (v : Word) (delayed : List Nat) (s : State), let b := s.blk.tick t
    let k := Bm.portKey bank p1
    let x := b.bank k
    let new := Bits.fld v.toNat 13 8
    Bm.ownReg bank p1 = some a → b.reach rq a true = .acts →
    ((Bm.admits x.owner rq = true ∨ rq < 4 ∨ rq = 38) → x.fixed = false → x.pending = false → x.owner ≠ 35 → Bm.ownerCode new = true → new ≠ 35 →
      exec (.srBankOwnWrite t rq bank p1 v delayed) s = After s ((delayed.foldl (fun c m => c.bump (R.srMConf (m % 64))) b).setBank k
        { x with pending := true, clear := v.getLsbD 29, new := new, since := b.now })) ∧
    (x.fixed = true ∨ x.pending = true ∨ x.owner = 35 ∨ new = 35 → exec (.srBankOwnWrite t rq bank p1 v delayed) s = After s (b.setBits R.srStat 1))) ∧
  (∀ (t : Time) (bank : Nat) (p1 : Bool) (s : State), let b := s.blk.tick t
    let k := Bm.portKey bank p1
    b.pcr.phase = 4 → (b.bank k).pending = true →
    ∃ b', exec (.bankHandoverDone t bank p1) s = After s b' ∧ (b'.bank k).owner = (b.bank k).new ∧ (b'.bank k).pending = false ∧
      ((b.bank k).clear = true → ∀ a, (Bm.bankRange bank).1 ≤ a → a < (Bm.bankRange bank).1 + (Bm.bankRange bank).2 → b'.scratch.read a = 0#8) ∧
      ((b.bank k).clear = false → b'.scratch = b.scratch)) ∧
  ∀ (t : Time) (rq stack : Nat) (v : Word) (s : State), let b := s.blk.tick t
    stack < 8 → b.reach rq (R.memSRetire stack) true = .acts →
    exec (.memSRetireWrite t rq stack v) s =
      After s (((List.range 16).filter fun i => v.getLsbD i).foldl (fun b i => b.retire (16 * stack + i) 3) b)

/-- Registers of the time unit and of the clocks (R400, R415, R429, R433): a read of TU_NOW_NS captures local time, a read of TU_PI_TS_NS
takes the oldest timestamp, PCR_CLK_SET takes values in range, and the sideband port wakes a device in Calm. Registers of debug, telemetry
and the LF (R318, R447, R465, R466, R472): CLEAR empties every current bin and marks it SUSPECT, UNLOCK_REQ is written through the
sideband port between boot steps 6 and 8 alone, a software trace record takes its requester's words, a window stays within memory, and the
consumer index of the event ring is checked as a completion ring's is. Completes: TU_NOW_NS_READ, TU_PI_TS_NS_READ, PCR_CLK_SET_WRITE,
PCR_WAKE_REQ, LF_PM_CLEAR, DBG_CTL_UNLOCK_WRITE, DBG_TRACE_SW_CMT_WRITE, HC_CP_WIN_WRITE, SYS_EVT_HEAD_WRITE. -/
def Obligations.TimeClockAndTelemetryRegisters : Prop :=
  (
  (∀ (t : Time) (rq : Nat) (s : State), let b := s.blk.tick t
    b.reach rq R.tuNowNs false = .acts →
    exec (.tuNowNsRead t rq) s = After s ((b.onTu fun u => { u with caps := AMap.set u.caps (4 * rq) b.localTime }).returns rq
      (BitVec.ofNat 32 (Tu.ns b.localTime)))) ∧
  (∀ (t : Time) (rq i : Nat) (x : Int) (q : List Int) (s : State), let b := s.blk.tick t
    i < 2 → b.reach rq (R.tuPiTsNs i) false = .acts → AMap.getD b.tu.fifo i [] = x :: q →
    exec (.tuPiTsNsRead t rq i) s = After s ((b.onTu fun u => { u with fifo := AMap.set u.fifo i q, caps := AMap.set u.caps (4 * rq + 1 + i) x }).returns rq
      (BitVec.ofNat 32 (2 ^ 31 + Tu.ns x)))) ∧
  (∀ (t : Time) (rq : Nat) (v : Word) (s : State), let b := s.blk.tick t
    b.reach rq R.pcrClkSet true = .acts → 18 ≤ v.toNat % 256 → v.toNat % 256 ≤ 36 → 20 ≤ v.toNat / 256 % 256 → v.toNat / 256 % 256 ≤ 40 →
    exec (.pcrClkSetWrite t rq v) s =
      After s ((b.clkMark.putFld R.pcrClkSet 7 0 (v.toNat % 256)).putFld R.pcrClkSet 15 8 (v.toNat / 256 % 256))) ∧
  ∀ (t : Time) (v : Word) (s : State), let b := s.blk.tick t
    b.pcr.phase = 5 → v.getLsbD 0 = true → exec (.pcrWakeReq t 39 v) s = After s b.wake
  ) ∧ (
  (∀ (t : Time) (rq p o : Nat) (v : Word) (s : State), let b := s.blk.tick t
    p < 2 → o ∈ Pm.objects → b.reach rq (R.lfPmCtl p) true = .acts → v.getLsbD 8 = true →
    ∃ b', exec (.lfPmClear t rq p v) s = After s b' ∧
      (b'.pm p o).c15 = { PmBin.init (b.pm p o).c15.start with suspect := true } ∧
      (b'.pm p o).c24 = { PmBin.init (b.pm p o).c24.start with suspect := true } ∧ (b'.pm p o).hist = (b.pm p o).hist) ∧
  (∀ (t : Time) (v : Word) (s : State), let b := s.blk.tick t
    b.pcr.phase = 2 → 6 ≤ b.fld R.pcrBootStat 7 0 → b.fld R.pcrBootStat 7 0 < 8 →
    exec (.dbgCtlUnlockWrite t 39 v) s = After s (b.putBit R.dbgCtl 0 (v.getLsbD 0))) ∧
  (∀ (t : Time) (rq : Nat) (v : Word) (s : State), rq ≠ 39 ∨ (s.blk.tick t).pcr.phase ≠ 2 →
    (s.blk.tick t).trigHit rq R.dbgCtl true = false →
    exec (.dbgCtlUnlockWrite t rq v) s = After s (s.blk.tick t)) ∧
  (∀ (t : Time) (rq : Nat) (v : Word) (s : State), let b := s.blk.tick t
    b.reach rq R.dbgTraceSwCmt true = .acts →
    exec (.dbgTraceSwCmtWrite t rq v) s = After s (b.trace 10 (v.toNat % 256) (if v.getLsbD 31 then 0xFFFF else v.toNat / 2 ^ 16 % 2 ^ 10)
      ((List.range 4).flatMap fun n => Bits.leBytes 4 (AMap.getD b.dbg.sw (rq * 4 + n) 0#32).toNat))) ∧
  (∀ (t : Time) (rq k : Nat) (v : Word) (s : State), let b := s.blk.tick t
    k < 9 → b.reach rq (R.hcCpWin k) true = .acts →
    ((v.toNat / 2 ^ 18 + 1) * 2 ^ 30 ≤ 0x6000000000 → exec (.hcCpWinWrite t rq k v) s = After s (b.putN (R.hcCpWin k) (v.toNat / 2 ^ 18 * 2 ^ 18))) ∧
    (0x6000000000 < (v.toNat / 2 ^ 18 + 1) * 2 ^ 30 → exec (.hcCpWinWrite t rq k v) s = After s b)) ∧
  ∀ (t : Time) (rq : Nat) (v : Word) (s : State), let b := s.blk.tick t
    b.reach rq R.sysEvtHead true = .acts →
    ((b.regN R.sysEvtTail + 2 ^ 32 - v.toNat) % 2 ^ 32 ≤ b.evtSize → exec (.sysEvtHeadWrite t rq v) s = After s (b.setReg R.sysEvtHead v)) ∧
    (b.evtSize < (b.regN R.sysEvtTail + 2 ^ 32 - v.toNat) % 2 ^ 32 → exec (.sysEvtHeadWrite t rq v) s = After s b)
  )

/-! ## Rings and completions (chapter 2) -/

/-- A doorbell (R40, R44, R501): a value from the producer index up to the ring size ahead of CMD_RQ_HEAD becomes the producer index; one
beyond the ring, or backwards, puts a general ring into ERROR with its cause; ring 255 ignores it. CMD_RQ_CFG (R37, R38, R44, R501):
ENABLE stays 0 on an unbound ring, the size changes only while ENABLE is 0 and within its codes, and ring 255 ignores the write.
Completes: CMD_DB_WRITE, CMD_RQ_CFG_WRITE. -/
def Obligations.RingRegisters : Prop :=
  (
  ∀ (t : Time) (rq n : Nat) (v : Word) (s : State), let b := s.blk.tick t
    let r := b.ring n
    let ahead := (v.toNat + 2 ^ 32 - r.head) % 2 ^ 32
    let error (cause : Nat) : Block := ((b.setRing n { r with err := cause }).setBits (R.cmdErrSum (n / 32)) (2 ^ (n % 32))).msix (b.fld R.cmdErrIrq 10 0)
    n < 256 → b.reach rq (R.cmdDb n) true = .acts →
    (r.unfetched ≤ ahead → ahead ≤ 2 ^ r.size → exec (.cmdDbWrite t rq n v) s = After s (b.setRing n { r with prod := v.toNat })) ∧
    (n ≠ 255 → r.err = 0 → r.stopped = false → 2 ^ r.size < ahead → exec (.cmdDbWrite t rq n v) s = After s (error 1)) ∧
    (n ≠ 255 → r.err = 0 → r.stopped = false → ahead < r.unfetched → ahead ≤ 2 ^ r.size → exec (.cmdDbWrite t rq n v) s = After s (error 2)) ∧
    (n = 255 → 2 ^ r.size < ahead ∨ ahead < r.unfetched → exec (.cmdDbWrite t rq n v) s = After s b)
  ) ∧ (
  ∀ (t : Time) (rq n : Nat) (v : Word) (s : State), let b := s.blk.tick t
    let r := b.ring n
    let size := v.toNat / 2 ^ 16 % 32
    b.reach rq (R.cmdRqCfg n) true = .acts →
    (n < 255 → exec (.cmdRqCfgWrite t rq n v) s = After s (b.setRing n { r with
      enable := v.getLsbD 31 && r.bound, prio := v.toNat / 2 ^ 27 % 4,
      size := if r.enable = false ∧ 4 ≤ size ∧ size ≤ 16 then size else r.size })) ∧
    (n = 255 → exec (.cmdRqCfgWrite t rq n v) s = After s b)
  )

/-- CMD_CQ_HEAD (R45): a value ahead of CMD_CQ_TAIL, or behind it by more than the completion ring size, is ignored, and any other becomes the
consumer index. Completes: CMD_CQ_HEAD_WRITE. -/
def Obligations.ConsumerIndexCheck : Prop :=
  ∀ (t : Time) (rq n : Nat) (v : Word) (s : State), let b := s.blk.tick t
    let r := b.ring n
    let behind := (r.tail + 2 ^ 32 - v.toNat) % 2 ^ 32
    n < 256 → b.reach rq (R.cmdCqHead n) true = .acts →
    (behind ≤ 2 ^ r.cqSize → exec (.cmdCqHeadWrite t rq n v) s = After s (b.setRing n { r with cqHead := v.toNat })) ∧
    (2 ^ r.cqSize < behind → exec (.cmdCqHeadWrite t rq n v) s = After s b)

/-- A dispatch serves the recovery ring before any other (R43): the packet at its consumer index is read whole from the CMD block's SRAM, the
consumer index moves on, and the packet is taken with the effect of its opcode. A ring that has been passed over for 64 dispatches is
served next, whatever its priority (R42). Completes: CI_DISPATCH. -/
def Obligations.DispatchOrder : Prop :=
  (
  ∀ (t : Time) (cp : Nat) (ok : Bool) (s : State), let b0 := s.foresee t (s.blk.tick t)
    let b := { b0 with pcieUp := ok }
    let r := b.ring 255
    b.pcr.phase = 4 → cp < 4 → b.cpOut cp = false → b.fetchable 255 = true → b.mc.cmdPoison = [] →
    r.rqBaseLo = 0x0001A000#32 → r.rqBaseHi = 0#32 → r.size = 8 →
    let p := Req.ofBytes 255 r.head (b.sram.bytes (0x1A000 + 64 * (r.head % 256)) 64)
    exec (.ciDispatch t cp ok) s = After s (Ci.take p.1 p.2 (Ci.execOp p.1)
      ((b.passOver cp (b.candidates cp) 255).setRing 255 { (b.passOver cp (b.candidates cp) 255).ring 255 with head := (r.head + 1) % 2 ^ 32 }))
  ) ∧ (
  ∀ (b : Block) (cp n : Nat), n ∈ b.candidates cp → 64 ≤ (b.ring n).passed →
    ∃ m, b.pickRing cp = some (m, b) ∧ m ∈ b.candidates cp ∧ 64 ≤ (b.ring m).passed
  )

/-- Coalescing and kept completions (R41, R49): COAL_US after the first unsignalled completion the vector is raised, not before; 100 µs after
the last try kept completions are written in order, and the ring keeps none. A completion (R49, Table 2-5): 32 bytes that give back the
status, the opcode, the cookie, the index, DETAIL and both results, with PHASE 1 on the first pass through the ring and 0 on the second;
posting it moves CMD_CQ_TAIL on by one. Completes: COAL_TIMER_EXPIRY, COMPLETION_WRITE_RETRY. -/
def Obligations.CompletionsPosted : Prop :=
  (
  (∀ (t : Time) (n : Nat) (s : State), let b := s.blk.tick t
    let r := b.ring n
    n < 256 → b.pcr.phase = 4 → r.unsig ≠ 0 → r.coalUs ≠ 0 →
    (r.unsigAt + r.coalUs * 8000 ≤ b.now → exec (.coalTimerExpiry t n) s = After s ((b.setRing n { r with unsig := 0 }).msix r.msix)) ∧
    (b.now < r.unsigAt + r.coalUs * 8000 → exec (.coalTimerExpiry t n) s = After s b)) ∧
  ∀ (t : Time) (n : Nat) (ok : Bool) (f : InFlight) (c : Comp) (l : List (InFlight × Comp)) (s : State), let b0 := s.blk.tick t
    let b := { b0 with pcieUp := ok }
    n < 256 → b.ciServes n = true → (b.ring n).kept = (f, c) :: l → (b.ring n).triedAt + 800000 ≤ b.now →
    (b.cqWritable n (b.ring n).tail = true → exec (.completionWriteRetry t n ok) s = After s (Ci.writeKept n l (b.cqPost f c))) ∧
    (b.cqWritable n (b.ring n).tail = true → l = [] →
      exec (.completionWriteRetry t n ok) s = After s ((b.cqPost f c).modRing n fun r => { r with kept := [] })) ∧
    (b.cqWritable n (b.ring n).tail = false →
      exec (.completionWriteRetry t n ok) s = After s (b.setRing n { b.ring n with triedAt := b.now }))
  ) ∧ (
  (∀ (f : InFlight) (c : Comp) (tail size : Nat), let bs := compBytes f c tail size
    let field (o n : Nat) : Nat := Bits.ofLe ((bs.drop o).take n)
    bs.length = 32 ∧ field 0 2 = c.status % 2 ^ 16 ∧ field 2 2 = f.opcode % 2 ^ 16 ∧ field 4 4 = f.cookie % 2 ^ 32 ∧ field 8 4 = f.index % 2 ^ 32 ∧
    field 12 2 = c.detail % 2 ^ 16 ∧ field 16 8 = c.r0 % 2 ^ 64 ∧ field 24 8 = c.r1 % 2 ^ 64 ∧
    (tail < 2 ^ size → field 15 1 = 1) ∧ (2 ^ size ≤ tail → tail < 2 * 2 ^ size → field 15 1 = 0)) ∧
  ∀ (f : InFlight) (c : Comp) (b : Block), ((b.cqPost f c).ring f.ring).tail = ((b.ring f.ring).tail + 1) % 2 ^ 32
  )

/-- The checks of a packet, in their order (R46): a LOCKED device, the layout of bytes 0 to 15 with VERSION, an unknown opcode, an opcode
not allowed on the recovery ring or on a general or job ring, the job of a job ring, a job that is CLOSED or free, and a FENCED job. A
packet that fails check 8 has no effect but its completion, BAD_PARAM with the first offending offset (R46, R507): here a SYS_NOP whose
parameters are not 0. -/
def Obligations.PacketChecks : Prop :=
  (
  (∀ (b : Block) (opc : Nat) (r : Req), b.bit R.cmdStatus 3 = true → b.precheck opc r = some (St.locked, 0)) ∧
  (∀ (b : Block) (opc : Nat) (r : Req), b.bit R.cmdStatus 3 = false → r.flags.toNat < 16 → r.job.toNat < 1024 → r.version ≠ 1#8 →
    b.precheck opc r = some (St.badParam, 10)) ∧
  ∀ (b : Block) (opc : Nat) (r : Req), b.bit R.cmdStatus 3 = false → r.flags.toNat < 16 → r.job.toNat < 1024 → r.version = 1#8 → r.rsvd = 0#40 →
    (opInfo opc = none → b.precheck opc r = some (St.badOpcode, 0)) ∧
    ∀ i, opInfo opc = some i →
      (r.ring = 255 → i.cls ≠ 2 → i.dagger = false → b.precheck opc r = some (St.badOpcode, 0)) ∧
      (r.ring ≠ 255 → i.cls = 2 → b.precheck opc r = some (St.notOwner, 0)) ∧
      (r.ring ≠ 255 → i.cls = 0 → (b.ring r.ring).isJob = true → b.precheck opc r = some (St.notOwner, 0)) ∧
      (r.ring ≠ 255 → i.cls = 1 → (b.ring r.ring).isJob = true → r.jobN ≠ (b.ring r.ring).job → b.precheck opc r = some (St.notOwner, 0)) ∧
      (r.ring ≠ 255 → i.cls = 1 → ((b.ring r.ring).isJob = true → r.jobN = (b.ring r.ring).job) → Ci.jobScoped opc r = true →
        (b.job (b.cmdJob r)).state = 2 →
        b.precheck opc r = some (St.state, 2)) ∧
      (r.ring ≠ 255 → i.cls = 1 → ((b.ring r.ring).isJob = true → r.jobN = (b.ring r.ring).job) → Ci.jobScoped opc r = true →
        (b.job (b.cmdJob r)).state = 1 → opc ∉ [0x0206, 0x0207, 0x0208, 0x0901, 0x0903] → b.precheck opc r = some (St.fenced, 0))
  ) ∧ (
  ∀ (t : Time) (r : Req) (s : State) (b : Block) (id : Nat), Starts 0x0101 r t s b id →
    (r.u 16 8 ≠ 0 → exec (.sysNop t r) s = After s (b.badParam id 16)) ∧
    (r.u 16 8 = 0 → r.u 24 4 ≠ 0 → exec (.sysNop t r) s = After s (b.badParam id 24)) ∧
    (r.u 16 8 = 0 → r.u 24 4 = 0 → r.u 28 4 ≠ 0 → exec (.sysNop t r) s = After s (b.badParam id 28)) ∧
    (r.u 16 8 = 0 → r.u 24 4 = 0 → r.u 28 4 = 0 → r.u 32 32 ≠ 0 → exec (.sysNop t r) s = After s (b.badParam id 32))
  )

/-- The recovery ring (R57): of the packets that pass the checks before it, check 4 turns away with BAD_OPCODE exactly those whose opcode
Table 2-9 marks neither R nor with a dagger. -/
def Obligations.RecoveryRingOpcodes : Prop :=
  ∀ (b : Block) (opc : Nat) (r : Req), b.bit R.cmdStatus 3 = false → r.flags.toNat < 16 → r.job.toNat < 1024 → r.version = 1#8 → r.rsvd = 0#40 →
    r.ring = 255 → (b.precheck opc r = some (St.badOpcode, 0) ↔ ¬∃ i, opInfo opc = some i ∧ (i.cls = 2 ∨ i.dagger = true))

/-- A command packet read from its 64 bytes is the packet they spell (Table 2-4): no field, flag or parameter is dropped. -/
def Obligations.PacketBytesRoundTrip : Prop :=
  ∀ (opc : Nat) (r : Req), opc < 2 ^ 16 → Req.ofBytes r.ring r.index (r.bytes opc) = (opc, r)

/-! ## Functions, jobs and rings (chapters 1 and 2) -/

/-- Queries (R69, R70, R71, Tables 2-15 and 2-16): SYS_NOP completes OK; SYS_QUERY and JOB_QUERY write records of 64 bytes that begin with
SYS_ID and with the job's number, and complete OK; FUNC_STATE returns the state of its function, with bit 8 set while an enable pends or
runs. Completes: SYS_NOP, SYS_QUERY, JOB_QUERY, FUNC_STATE. -/
def Obligations.QueriesReport : Prop :=
  (∀ (t : Time) (r : Req) (s : State) (b : Block) (id : Nat), Starts 0x0101 r t s b id → r.params = 0#384 →
    exec (.sysNop t r) s = After s (b.ok id 0)) ∧
  (∀ (t : Time) (r : Req) (s : State) (b : Block) (id : Nat), Starts 0x0102 r t s b id →
    r.a0 % 64 = 0 → r.a0 + r.a2 ≤ 0x6000000000 → r.u 24 4 = 0 → 64 ≤ r.a2 → r.u 32 32 = 0 →
    exec (.sysQuery t r) s = After s ((b.dxWrite r.a0 b.sysRecord).ok id 64)) ∧
  (∀ (t : Time) (r : Req) (s : State) (b : Block) (id : Nat), Starts 0x0208 r t s b id →
    r.a0 % 64 = 0 → r.a0 + r.a1 ≤ 0x6000000000 → 64 ≤ r.a1 → r.u 28 4 = 0 → r.u 32 32 = 0 →
    let job := b.cmdJob r
    exec (.jobQuery t r) s = After s ((b.dxWrite r.a0 (b.jobRecord job)).ok id ((b.job job).state + if (b.job job).fence.isSome then 256 else 0))) ∧
  (∀ (t : Time) (r : Req) (s : State) (b : Block) (id : Nat), Starts 0x0105 r t s b id →
    r.u 16 8 = 0 → Func.known r.a1 = true → r.u 28 4 = 0 → r.u 32 32 = 0 →
    let x := b.func r.a1
    exec (.funcState t r) s = After s (b.ok id ((if x.mode = 3 then 0 else x.mode) + if x.pend.isSome ∨ x.mode = 3 then 256 else 0))) ∧
  ∀ (b : Block) (job : Nat), b.sysRecord.length = 64 ∧ Bits.ofLe (b.sysRecord.take 4) = b.regN R.sysId ∧
    (b.jobRecord job).length = 64 ∧ Bits.ofLe ((b.jobRecord job).take 2) = job % 65536

/-- Enabling a function (R55, Table 2-11): from OFF it starts, and the enable completes when it is RUNNING; RUNNING, it completes at once;
DRAINING, one enable pends and a second completes BUSY. Disabling a function (R55, Table 2-11): RUNNING, it drains from now on under this
command; OFF, the command completes at once; starting, the command waits for the function to run. Completes: FUNC_ENABLE, FUNC_DISABLE. -/
def Obligations.FunctionSwitching : Prop :=
  (
  ∀ (t : Time) (r : Req) (s : State) (b : Block) (id : Nat), Starts 0x0103 r t s b id →
    r.u 16 8 = 0 → Func.known r.a1 = true → r.u 28 4 = 0 → r.u 32 32 = 0 → (r.a1 / 256 = 1 → b.pstate ≠ 1) →
    let x := b.func r.a1
    (x.mode = 0 → exec (.funcEnable t r) s = After s (b.setFunc r.a1 { Func.off with mode := 3, cmd := some id, since := b.now })) ∧
    (x.mode = 1 → exec (.funcEnable t r) s = After s (b.ok id 1)) ∧
    (x.mode = 2 → x.pend = none → exec (.funcEnable t r) s = After s (b.setFunc r.a1 { x with pend := some id })) ∧
    (x.mode = 2 → x.pend ≠ none → exec (.funcEnable t r) s = After s (b.complete id (Comp.of St.busy 0 2)))
  ) ∧ (
  ∀ (t : Time) (r : Req) (s : State) (b : Block) (id : Nat), Starts 0x0104 r t s b id →
    r.u 16 8 = 0 → Func.known r.a1 = true → r.u 28 4 = 0 → r.u 32 32 = 0 →
    let x := b.func r.a1
    (x.mode = 0 → exec (.funcDisable t r) s = After s (b.ok id 0)) ∧
    (x.mode = 1 → exec (.funcDisable t r) s = After s
      ((b.setFunc r.a1 { x with mode := 2, cmd := some id, pend := none, deferred := false, since := b.now }).drainBegin r.a1)) ∧
    (x.mode = 3 → exec (.funcDisable t r) s = After s (b.setFunc r.a1 { x with offWait := x.offWait ++ [id] }))
  )

/-- What ends a function's starting and draining (R55, R56, R502, Table 2-10): reaching RUNNING completes its enable, DEFERRED when it had
pended; the end of a drain makes it OFF and completes its disable; 10 ms end the drain of a fabric port whatever it holds, not before.
Completes: FUNC_RUNNING_REACHED, FUNC_DRAIN_END, FABRIC_PORT_DRAIN_TIMEOUT. -/
def Obligations.FunctionTransitions : Prop :=
  (∀ (t : Time) (f id : Nat) (s : State), let b := s.blk.tick t
    let x := b.func f
    b.pcr.phase = 4 → (∀ m, Func.engine f = some m → b.frozen m = false) → x.mode = 3 → x.cmd = some id → x.offWait = [] →
    exec (.funcRunningReached t f) s =
      After s (((b.setFunc f { Func.off with mode := 1 }).runNow f).complete id (Comp.of (if x.deferred then St.deferred else St.ok) 0 1))) ∧
  (∀ (t : Time) (f id : Nat) (s : State), let b := s.blk.tick t
    let x := b.func f
    b.pcr.phase = 4 → (∀ m, Func.engine f = some m → b.frozen m = false) → x.mode = 2 → b.drained f = true → x.cmd = some id → x.pend = none →
    x.offWait = [] → exec (.funcDrainEnd t f) s = After s (((b.offNow f).setFunc f Func.off).ok id 0)) ∧
  ∀ (t : Time) (p id : Nat) (s : State), let b := s.blk.tick t
    let x := b.func (0x100 + p)
    p < 32 → b.works 26 = true → x.mode = 2 → x.cmd = some id → x.pend = none → x.offWait = [] →
    (x.since + 80000000 ≤ b.now → exec (.fabricPortDrainTimeout t p) s = After s (((b.portDown p).setFunc (0x100 + p) Func.off).ok id 0)) ∧
    (b.now < x.since + 80000000 → exec (.fabricPortDrainTimeout t p) s = After s b)

/-- Regions and bounds (R68, R344, R440): REGION_CONFIG sets the replay pools and the residual ceiling when staging keeps 32 GiB and what it
holds, and returns the size of staging; POLICY_BOUNDS sets the floor and the ceiling of a loop within its range. Completes: REGION_CONFIG,
POLICY_BOUNDS. -/
def Obligations.RegionsAndBounds : Prop :=
  (∀ (t : Time) (r : Req) (s : State) (b : Block) (id : Nat), Starts 0x0106 r t s b id →
    let rep := r.u 32 2
    let res := r.u 34 2
    let low := (b.ce.resids.map fun e => e.2.addr).foldl min b.memTop
    r.u 16 8 = 0 → r.u 24 4 = 0 → r.u 28 4 = 0 → 16 ≤ rep → rep ≤ 160 → res ≤ 352 → r.u 36 28 = 0 →
    b.funcOff 0x200 = true → b.funcOff 0x201 = true → b.memTop - low ≤ res * 2 ^ 30 →
    (12 + rep + res) * 2 ^ 30 + max (32 * 2 ^ 30) b.stagingUsed ≤ b.fld R.memCap 8 0 * 2 ^ 30 →
    let b' := { b.putFld R.teReplaySize 7 0 rep with bm := { b.bm with residGib := res } }
    exec (.regionConfig t r) s = After s (b'.ok id b'.stagingSize)) ∧
  (∀ (t : Time) (r : Req) (s : State) (b : Block) (id : Nat), Starts 0x0109 r t s b id →
    r.u 16 8 = 0 → r.u 28 4 = 0 → r.u 36 28 = 0 →
    let lo := Bits.toInt 16 (r.u 32 2)
    let hi := Bits.toInt 16 (r.u 34 2)
    (r.a1 = 0x2000 → 300 ≤ lo → lo ≤ hi → hi ≤ 750 →
      exec (.policyBounds t r) s = After s ((b.setReg R.pcrBndPwr (BitVec.ofNat 32 (r.u 34 2 * 65536 + r.u 32 2))).ok id 0)) ∧
    (r.a1 = 0x2000 → (lo < 300 ∨ 750 < lo ∨ hi < lo) → exec (.policyBounds t r) s = After s (b.badParam id 32)))

/-- Opening, configuring and closing a job (R63, R65, R66): JOB_OPEN takes the number asked for, or the lowest free one, and the job is OPEN
with the values of reset; a field that holds its unchanged code keeps the job's value; JOB_CLOSE of an OPEN job completes STATE 0, of one
whose fence runs STATE 1, and of a fenced one begins to close and stops its rings. Completes: JOB_OPEN, JOB_CONFIG, JOB_CLOSE. -/
def Obligations.JobLifecycle : Prop :=
  (∀ (t : Time) (r : Req) (s : State) (b : Block) (id n : Nat), Starts 0x0201 r t s b id →
    b.pstate ≠ 1 → r.u 16 8 = 0 → r.u 24 4 = 0 → r.u 32 32 = 0 →
    (r.a2 = n ∧ n < 1024 ∧ b.jobFree n = true) ∨ (r.a2 = 0xFFFFFFFF ∧ Bits.findBelow 1024 b.jobFree = some n) →
    exec (.jobOpen t r) s =
      After s (((({ b with jobs := AMap.set b.jobs n ⟨0, none, none, 0, 0, false, false, 5, 0⟩ } : Block).clearCounts n).rateDefaults n).ok id n)) ∧
  (∀ (t : Time) (r : Req) (s : State) (b : Block) (id : Nat), Starts 0x0204 r t s b id →
    r.u 16 8 = 0 → r.u 24 4 = 0 → r.u 28 4 = 0 → r.u 40 1 = 0 → r.u 42 22 = 0 →
    (r.u 32 4 ≤ 10000 ∨ r.u 32 4 = 0xFFFFFFFF) → (r.u 36 4 ≤ 10000 ∨ r.u 36 4 = 0xFFFFFFFF) → (r.u 41 1 ≤ 1 ∨ r.u 41 1 = 255) →
    exec (.jobConfig t r) s = After s ((b.modJob (b.cmdJob r) fun j => { j with
      fabTmo := if r.u 32 4 = 0xFFFFFFFF then j.fabTmo else if r.u 32 4 = 0 then 5 else r.u 32 4
      farTmo := if r.u 36 4 = 0xFFFFFFFF then j.farTmo else r.u 36 4
      strict := if r.u 41 1 = 255 then j.strict else r.u 41 1 == 1 }).ok id 0)) ∧
  ∀ (t : Time) (r : Req) (s : State) (b : Block) (id : Nat), Starts 0x0207 r t s b id → r.params = 0#384 →
    let job := b.cmdJob r
    let j := b.job job
    (j.state = 0 → exec (.jobClose t r) s = After s (b.done id St.state 0)) ∧
    (j.state = 1 → j.fence.isSome = true → exec (.jobClose t r) s = After s (b.done id St.state 1)) ∧
    (j.state = 1 → j.fence = none → exec (.jobClose t r) s = After s ((b.jobRings job).foldl
      (fun b n => b.modRing n fun x => { x with enable := false }) (b.modJob job fun j => { j with state := 2, closing := some id })))

/-- The job fence (R62, R468, R470, R471): JOB_FENCE of an OPEN job fences it under the command; the end of the fence completes the command
with the number of operations it ended, and ends a fence that a notice began; a notice from a pair of the job fences it, is counted and
goes on with one hop less, and any other notice is counted as rejected and changes nothing. Completes: JOB_FENCE, JOB_FENCE_COMPLETE,
FENCE_NOTICE_RX. -/
def Obligations.JobFencing : Prop :=
  (∀ (t : Time) (r : Req) (s : State) (b : Block) (id : Nat), Starts 0x0206 r t s b id →
    r.u 16 8 = 0 → r.u 24 4 = 0 → r.u 28 4 = 0 → (r.u 32 1 = 0 ∧ r.u 33 1 = 0 ∨ r.u 32 1 = 1 ∧ 1 ≤ r.u 33 1 ∧ r.u 33 1 ≤ 15) →
    (r.u 34 2 ≤ 3 ∨ 16 ≤ r.u 34 2 ∧ r.u 34 2 ≤ 31) → r.u 38 26 = 0 →
    let job := b.cmdJob r
    let n := b.health.fences + 1
    (b.job job).fence = none → (b.job job).state = 0 →
    exec (.jobFence t r) s = After s (({ b with health := { b.health with fences := n } } : Block).fenceJob job
      ⟨0, 0, BitVec.ofNat 16 b.gw, BitVec.ofNat 32 n, BitVec.ofNat 16 (r.u 34 2), BitVec.ofNat 16 (r.u 36 2)⟩ (some id) (r.u 33 1) none)) ∧
  (∀ (t : Time) (job n : Nat) (s : State), let b := s.blk.tick t
    let free := b.modJob job fun j => { j with fence := none }
    b.pcr.phase = 4 →
    (∀ id, (b.job job).fence = some (some id, n) → exec (.jobFenceComplete t job) s = After s (free.ok id n)) ∧
    ((b.job job).fence = some (none, n) → exec (.jobFenceComplete t job) s = After s free)) ∧
  ∀ (t : Time) (sel : Nat) (x : InMsg) (m : FenceMsg) (s : State), let b := s.blk.tick t
    let job := m.job.toNat % 1024
    b.pcr.phase = 4 → b.pickIn sel InMsg.notice = some x → x.msg = .fence m →
    let c := b.dropIn sel
    (c.jobOpen job = true → (x.peer, x.job) ∈ c.fencePairs job →
      exec (.fenceNoticeRx t sel) s = After s ((c.bump R.sysFenceRxCnt).fenceJob job m none (m.hops.toNat - 1) (some x.peer))) ∧
    (c.jobOpen job = false ∨ (x.peer, x.job) ∉ c.fencePairs job →
      exec (.fenceNoticeRx t sel) s = After s (c.bump R.sysFenceRejCnt))

/-- A JOB_FENCE of a job that is not OPEN (R64): while the job's fence is in progress it completes BUSY; of a FENCED job whose fence has
completed it completes OK at once with RESULT0 0 and changes nothing else; of a number that is CLOSED or free it completes STATE, DETAIL 2. -/
def Obligations.RepeatedFence : Prop :=
  (∀ (t : Time) (r : Req) (s : State) (b : Block) (id : Nat), Starts 0x0206 r t s b id →
    r.u 16 8 = 0 → r.u 24 4 = 0 → r.u 28 4 = 0 → (r.u 32 1 = 0 ∧ r.u 33 1 = 0 ∨ r.u 32 1 = 1 ∧ 1 ≤ r.u 33 1 ∧ r.u 33 1 ≤ 15) →
    (r.u 34 2 ≤ 3 ∨ 16 ≤ r.u 34 2 ∧ r.u 34 2 ≤ 31) → r.u 38 26 = 0 →
    let job := b.cmdJob r
    ((b.job job).fence.isSome = true → exec (.jobFence t r) s = After s (b.complete id (Comp.of St.busy 0 0))) ∧
    ((b.job job).fence = none → (b.job job).state = 1 → exec (.jobFence t r) s = After s (b.ok id 0))) ∧
  ∀ (t : Time) (r : Req) (s : State), let b := s.blk.tick t
    let c := Ci.taken 0x0206 r b
    b.ciServes r.ring = true → b.mustHold r = false → c.bit R.cmdStatus 3 = false → r.flags.toNat < 16 →
    r.job.toNat < 1024 → r.version = 1#8 → r.rsvd = 0#40 → ((c.ring r.ring).isJob = true → r.jobN = (c.ring r.ring).job) →
    (c.job (c.cmdJob r)).state = 2 → exec (.jobFence t r) s = After s (c.done b.freshId St.state 2)

/-- Managing rings (R59, R60, R61, R67): RING_BIND binds a disabled ring to its job or to device management; RING_RESET discards the ring's
unfetched packets and waits for it; a revocation joins those that run, and the oldest takes its owners out of every chain in its scope and
completes with the number and bytes of the buffers it took. Completes: RING_BIND, RING_RESET, OWNER_REVOKE, OWNER_REVOKE_DONE. -/
def Obligations.RingManagement : Prop :=
  (∀ (t : Time) (r : Req) (s : State) (b : Block) (id : Nat), Starts 0x0203 r t s b id →
    let x := b.ring r.a2
    r.u 16 8 = 0 → r.u 24 4 = 0 → 1 ≤ r.a2 → r.a2 ≤ 254 → r.u 32 1 ≤ 1 → r.u 33 31 = 0 → x.enable = false →
    (x.isJob = true → x.job = r.jobN) →
    (r.u 32 1 = 1 → exec (.ringBind t r) s = After s ((b.setRing r.a2 { x with bound := true, mgmt := true }).ok id 0)) ∧
    (r.u 32 1 = 0 → b.jobOpen r.jobN = true →
      exec (.ringBind t r) s = After s ((b.setRing r.a2 { x with bound := true, mgmt := false, job := r.jobN }).ok id 0))) ∧
  (∀ (t : Time) (r : Req) (s : State) (b : Block) (id : Nat), Starts 0x010B r t s b id →
    let x := b.ring r.a1
    r.u 16 8 = 0 → r.a1 < 255 → r.u 28 4 = 0 → r.u 32 32 = 0 →
    (x.reset = none → exec (.ringReset t r) s = After s (b.setRing r.a1 { x with reset := some id })) ∧
    (x.reset ≠ none → exec (.ringReset t r) s = After s (b.complete id (Comp.of St.busy 0 0)))) ∧
  (∀ (t : Time) (r : Req) (s : State) (b : Block) (id : Nat), Starts 0x010A r t s b id →
    r.u 16 8 = 0 → r.u 24 4 = 0 → r.a2 < 2 ^ 20 → r.u 32 4 < 2 ^ 20 → r.u 36 1 < 16 → (Bits.bit (r.u 36 1) 1 = true → Nat.land (r.u 32 4) 0xFFC3F = 0) → r.u 37 27 = 0 →
    exec (.ownerRevoke t r) s =
      After s { b with bm := { b.bm with revoke := b.bm.revoke ++ [⟨id, r.a2, r.u 32 4, r.u 36 1, []⟩] } }) ∧
  ∀ (t : Time) (v : Revoke) (vs : List Revoke) (s : State), let b := s.blk.tick t
    b.pcr.phase = 4 → b.bm.revoke = v :: vs →
    let x := ({ b.ccSettle with bm := { b.bm with revoke := vs } } : Block).revokeAll v
    exec (.ownerRevokeDone t) s = After s (v.waits.foldl (fun c w => if (c.cmd? w.1).any (·.done.isNone) then Bm.bufOp w.2.1 w.1 w.2.2 c else c) (x.1.complete v.cmd ⟨St.ok, 0, 0, x.2.1, x.2.2⟩))

/-- Rank and mask tables (R80, R94): JOB_RANKS loads its entries, or with OP 1 resets those it names, and returns their number (for OP 1 the
model's choice, log entry 70); MCAST_SET writes its entry and sends MCAST_UPDATE, and completes OK when the acknowledgement comes, or
TIMEOUT with the entry invalid at the job's fabric-local timeout. Completes: JOB_RANKS, MCAST_SET, MCAST_UPDATE_ACK_RX, MCAST_SET_TIMEOUT. -/
def Obligations.RankAndMaskTables : Prop :=
  (∀ (t : Time) (r : Req) (s : State) (b b' : Block) (id : Nat), Starts 0x0202 r t s b id →
    r.a0 % 64 = 0 → r.a0 + r.a1 ≤ 0x6000000000 → r.u 28 4 = 0 → r.u 32 32 = 0 →
    let c := b.readCount r.a0 r.a1
    let job := c.cmdJob r
    c.dxN (r.a0 + 2) 1 = 0 → 32 + 4 * c.dxN (r.a0 + 16) 4 ≤ r.a1 → c.rankDescBad job r.a0 = none → c.loadRanks job r.a0 = some b' →
    exec (.jobRanks t r) s = After s (b'.ok id (c.dxN (r.a0 + 16) 4))) ∧
  (∀ (t : Time) (r : Req) (s : State) (b b' : Block) (id : Nat), Starts 0x0202 r t s b id →
    r.a0 % 64 = 0 → r.a0 + 32 ≤ 0x6000000000 → r.a1 = 32 → r.u 28 4 = 0 → r.u 32 32 = 0 →
    let c := b.readCount r.a0 32
    let job := c.cmdJob r
    let first := c.dxN (r.a0 + 12) 4
    let count := c.dxN (r.a0 + 16) 4
    let named (rank : Nat) : Bool := first ≤ rank && rank < first + count
    c.dxN (r.a0 + 2) 1 = 1 → c.rankDescBad job r.a0 = none → c.loadRanks job r.a0 = some b' →
    exec (.jobRanks t r) s = After s (((((((b'.rankTab job).map (·.entries)).getD []).filter fun e => named e.1).foldl
      (fun d e => d.rankReset St.requesterGone job e.1) b').onFif fun f => { f with
        ranks := AMap.adjust f.ranks job fun x => { x with entries := x.entries.filter fun (e : Nat × (Nat × Nat)) => !named e.1 } }).ok id count)) ∧
  (∀ (t : Time) (r : Req) (s : State) (b : Block) (id : Nat), Starts 0x0209 r t s b id →
    r.a0 % 64 = 0 → r.a0 + 128 ≤ 0x6000000000 → r.a1 = 128 → r.a2 < 4096 → r.u 32 32 = 0 →
    let c := b.readCount r.a0 128
    (∀ m, AMap.get? c.fif.masks r.a2 = some m → m.job = c.cmdJob r ∨ (c.job m.job).state = 2) → c.maskUser r.a2 = none →
    exec (.mcastSet t r) s = After s (Fif.mcastWrite id r.a2 (c.cmdJob r) (Bits.ofLe (c.dxBytes r.a0 128)) (c.dxBytes r.a0 128) c)) ∧
  (∀ (t : Time) (sel idx id : Nat) (p : FabPkt) (g : Tag) (s : State), let b := s.blk.tick t
    b.works 26 = true → b.fif.mgmt[sel]? = some p → p.opcode = 0x51#8 → AMap.get? b.fif.tags p.tag.toNat = some g → g.use = .mcast idx id →
    g.gen = p.gen.toNat →
    exec (.mcastUpdateAckRx t sel) s = After s ((b.onFif fun f => { f with
      mgmt := Bits.removeAt f.mgmt sel
      tags := AMap.erase f.tags p.tag.toNat
      masks := AMap.adjust f.masks idx fun m => { m with cmds := m.cmds.filter fun e => e.1 != id } }).ok id 0)) ∧
  ∀ (t : Time) (idx id d : Nat) (m : Mask) (s : State), let b := s.blk.tick t
    b.works 26 = true → AMap.get? b.fif.masks idx = some m → m.cmds = [(id, d)] →
    (d ≤ b.now → exec (.mcastSetTimeout t idx) s = After s ((b.onFif fun f => { f with
      masks := AMap.adjust f.masks idx fun m => { m with valid := false } }).mcastEnd idx id St.timeout)) ∧
    (b.now < d → exec (.mcastSetTimeout t idx) s = After s b)

/-! ## The fabric (chapter 3) -/

/-- Receiving on the fabric (R73, R74, R78, R79, R85 to R87): a sound packet of an OPEN job within its stream's window is held in the stream
and delivered in order; one whose header check is wrong is counted and dropped. A packet that waits behind a hole for the gap time makes
the stream skip the hole, not before, and not when the missing packet comes at the same moment. Returned credits are the port's again.
Completes: FABRIC_PACKET_RX, GAP_TIMER_EXPIRY, FABRIC_CREDIT_RETURN, FABRIC_PACKET_TX, TAG_QUARANTINE_END. -/
def Obligations.FabricReceive : Prop :=
  (∀ (t : Time) (port : Nat) (p : FabPkt) (s : State), let b := s.blk.tick t
    let c := Fif.arrive port p b
    port < 32 → b.works 26 = true → b.portUp port = true → c.locked = false →
    (p.hchk ≠ Crc.crc16 p.head → exec (.fabricPacketRx t port p) s = After s (c.bump (R.fifPHdrErr port))) ∧
    ∀ job fpa dg, Fif.flits p.payload.length ≤ b.rxCredOf port p.cls.toNat → p.hchk = Crc.crc16 p.head → p.pcheck = Crc.crc32c p.payload → p.poison = false → p.ver = 1#2 → p.rsvd1 = 0#3 → p.rsvd3 = 0#6 →
      p.mcast = false → Fif.lenOk p = some true → Fif.isMgmt p.opcode.toNat = false → c.jobOfFab p.job.toNat = some job →
      c.rankEntry job p.srcRank.toNat = some (fpa, dg) → fpa ∉ c.fif.resets →
      let key := Fif.rxKey job p.srcRank.toNat p.cls.toNat
      let st := c.rxStream key
      (p.spraySeq.toNat + 2 ^ 32 - st.e) % 2 ^ 32 < 4096 → (∀ h ∈ st.held, h.1 ≠ p.spraySeq.toNat) →
      exec (.fabricPacketRx t port p) s =
        After s (c.deliver key { st with held := st.held ++ [(p.spraySeq.toNat, b.now, Fif.withJob p job)] })) ∧
  (∀ (t : Time) (key seq : Nat) (t0 : Time) (p : FabPkt) (s : State), let b := s.blk.tick t
    let st := b.rxStream key
    let gap := b.fld R.fifGapTmo 13 0 * 8000
    b.works 26 = true → st.held = [(seq, t0, p)] → seq = (st.e + 1) % 2 ^ 32 →
    (t0 + gap ≤ b.now → (s.packetsAt t).any (b.brings key st.e) = false → exec (.gapTimerExpiry t key) s = After s ((b.onFif fun f => { f with
      rx := AMap.set f.rx key ⟨(seq + 1) % 2 ^ 32, []⟩, got := f.got ++ [p] }).bumpN R.fifGapSkipCnt 1)) ∧
    (b.now < t0 + gap ∨ (s.packetsAt t).any (b.brings key st.e) = true → exec (.gapTimerExpiry t key) s = After s b)) ∧
  (∀ (t : Time) (p cls n : Nat) (s : State), let b := s.blk.tick t
    p < 32 → cls < 8 → b.works 26 = true →
    exec (.fabricCreditReturn t p cls n) s = After s (b.onFif fun f => { f with
      cred := AMap.set f.cred (p * 8 + cls) (AMap.getD f.cred (p * 8 + cls) 0 + n)
      credOut := AMap.set f.credOut (p * 8 + cls) (AMap.getD f.credOut (p * 8 + cls) 0 - n) })) ∧
  (∀ (t : Time) (sel p : Nat) (spray : Bool) (x : TxPkt) (s : State), let b := s.blk.tick t
    b.works 26 = true → b.fif.txq[sel]? = some x → b.txPort x = some (p, spray) →
    exec (.fabricPacketTx t sel) s = After s ((b.onFif fun f => { f with txq := Bits.removeAt f.txq sel }).txOn p spray x)) ∧
  ∀ (t : Time) (tag : Nat) (until_ : Time) (use : TagUse) (s : State), let b := s.blk.tick t
    b.works 26 = true → AMap.get? b.fif.quar tag = some (until_, use) →
    (until_ ≤ b.now → exec (.tagQuarantineEnd t tag) s = After s (b.onFif fun f => { f with quar := AMap.erase f.quar tag })) ∧
    (b.now < until_ → exec (.tagQuarantineEnd t tag) s = After s b)

/-- Fabric ports and their management (R73, R97, R410, R427): the loss of a lane takes the whole port down and voids its credits; an enabled
port whose reference runs comes up; RESET_NOTICE resets every VALID rank at its address, under a JOB_FENCE of the same moment with FENCED
(R100), and is reported, RESET_DONE ends the discarding of its packets; a time message goes out on every port once it is due. Completes:
FABRIC_LANE_LOSS, FABRIC_PORT_UP, RESET_NOTICE_RX, RESET_DONE_RX, TIME_MSG_SEND. -/
def Obligations.FabricPorts : Prop :=
  (∀ (t : Time) (p : Nat) (s : State), let b := s.blk.tick t
    p < 32 → b.works 26 = true →
    exec (.fabricLaneLoss t p) s = After s ((b.putBit R.fifPortUp p false).onFif fun f => { f with
      cred := f.cred.filter fun e => e.1 / 8 != p
      credOut := f.credOut.filter fun e => e.1 / 8 != p
      rxCred := f.rxCred.filter fun e => e.1 / 8 != p })) ∧
  (∀ (t : Time) (p : Nat) (s : State), let b := s.blk.tick t
    p < 32 → b.works 26 = true → b.funcMode (0x100 + p) = 1 →
    (p / 8 + 1 ∉ b.pcr.lost → exec (.fabricPortUp t p) s = After s (b.putBit R.fifPortUp p true)) ∧
    (p / 8 + 1 ∈ b.pcr.lost → exec (.fabricPortUp t p) s = After s b)) ∧
  (∀ (t : Time) (sel : Nat) (p : FabPkt) (s : State), let b := s.blk.tick t
    b.works 26 = true → b.fif.mgmt[sel]? = some p → p.opcode = 0x52#8 →
    let fpa := Bits.ofLe (p.payload.take 2)
    let hit := b.fif.ranks.flatMap fun e => (e.2.entries.filter fun x => x.2.1 == fpa).map fun x => (e.1, x.1)
    let c := (b.onFif fun f => { f with
      mgmt := Bits.removeAt f.mgmt sel
      resets := if f.resets.contains fpa then f.resets else f.resets ++ [fpa] }).bump R.fifResetCnt
    exec (.resetNoticeRx t sel) s =
      After s ((hit.foldl (fun d e => d.rankReset (if (s.fencesAt t).contains e.1 then St.fenced else St.requesterGone) e.1 e.2) c).event 0x0010 2 0xFFFF 26 (Bits.leBytes 2 fpa ++ Bits.leBytes 4 hit.length))) ∧
  (∀ (t : Time) (sel : Nat) (p : FabPkt) (s : State), let b := s.blk.tick t
    b.works 26 = true → b.fif.mgmt[sel]? = some p → p.opcode = 0x53#8 →
    exec (.resetDoneRx t sel) s = After s (b.onFif fun f => { f with
      mgmt := Bits.removeAt f.mgmt sel
      resets := f.resets.filter fun a => a != Bits.ofLe (p.payload.take 2) })) ∧
  ∀ (t : Time) (s : State), let b := s.blk.tick t
    b.works 26 = true → b.works 36 = true →
    (b.tu.msgAt ≤ b.now → b.locked = false → exec (.timeMsgSend t) s = After s ((List.range 32).foldl Tu.timeMsgOn
      (b.onTu fun u => { u with msgAt := b.now + Tu.interval (Bits.toInt 4 (b.fld R.tuFabCfg 3 0)) }))) ∧
    (b.now < b.tu.msgAt → exec (.timeMsgSend t) s = After s b)

/-- Requests from the fabric (R76, R107, R108, R117): a misaligned request and one outside every window are answered with NACK, as is one that
its window's check refuses; one that a window allows takes a context, at once or when one frees; none is taken of a job for which strict mode has stopped the FWU; a fence answers its requester when all it
covers has ended. Fabric requests of the DX-64 (R82, R90 to R93, R96): a response that matches its tag frees it and answers what it
served, another is late; a request past its limit reports TIMEOUT and its tag is quarantined; one that waited for a tag is issued when one
is free; the packets of a result go out on the job's mask entry. Completes: FABRIC_REQUEST_RX, FABRIC_REQUEST_UNBLOCK, FABRIC_FENCE_ACK,
FABRIC_RESPONSE_RX, FABRIC_REQUEST_TIMEOUT, FABRIC_REQUEST_ISSUE, MCAST_RESULT_INJECT. -/
def Obligations.FabricRequestsAndTags : Prop :=
  (
  (∀ (t : Time) (sel : Nat) (p : FabPkt) (s : State), let b := s.blk.tick t
    let c := b.dropGot sel
    b.worksBm 27 = true → b.pickGot sel Fwu.isReq = some p → b.fenceHeld sel p = false → b.engStopped p.job.toNat 2 = false →
    (Fwu.misaligned p = true → exec (.fabricRequestRx t sel) s = After s (c.nack p St.badParam)) ∧
    (Fwu.misaligned p = false → c.importAt p.job.toNat p.addr.toNat = none →
      exec (.fabricRequestRx t sel) s = After s ((c.bump R.fwuNackCnt).nack p St.badParam)) ∧
    ∀ w x, Fwu.misaligned p = false → c.importAt p.job.toNat p.addr.toNat = some (w, x) →
      let check := c.winCheck x p.addr.toNat (Fwu.span p) (Fwu.right p)
      (∀ st, check = some st → exec (.fabricRequestRx t sel) s = After s (((c.onFwu fun f => { f with
        wins := AMap.adjust f.wins w fun x => { x with nacks := x.nacks + 1 } }).bump R.fwuNackCnt).nack p st)) ∧
      (∀ c', check = none → c.accept p w x = some c' → exec (.fabricRequestRx t sel) s = After s c') ∧
      (check = none → c.accept p w x = none → exec (.fabricRequestRx t sel) s = After s (c.onFif fun f => { f with blocked := f.blocked ++ [p] }))) ∧
  (∀ (t : Time) (sel : Nat) (p : FabPkt) (s : State), let b := s.blk.tick t
    b.worksBm 27 = true → b.pickGot sel Fwu.isReq = some p → b.engStopped p.job.toNat 2 = true → exec (.fabricRequestRx t sel) s = After s b) ∧
  (∀ (t : Time) (w : Nat) (x : Win) (p : FabPkt) (rest : List FabPkt) (s : State), let b := s.blk.tick t
    let c := b.onFif fun f => { f with blocked := rest }
    b.worksBm 27 = true → b.fif.blocked = p :: rest → b.engStopped p.job.toNat 2 = false → b.importAt p.job.toNat p.addr.toNat = some (w, x) →
    b.winCheck x p.addr.toNat (Fwu.span p) (Fwu.right p) = none → (c.accept p w x).isSome = true →
    exec (.fabricRequestUnblock t 0) s = After s (c.request p)) ∧
  ∀ (t : Time) (k : Nat) (f : Fence) (s : State), let b := s.blk.tick t
    let c := b.onFwu fun y => { y with fences := AMap.erase y.fences k }
    b.worksBm 27 = true → AMap.get? b.fwu.fences k = some f → f.cmd = none → f.covers = [] → f.need = [] →
    (f.status = 0 → exec (.fabricFenceAck t k) s = After s (c.fabReply f.job f.rank f.fcls 0x07 f.fgen f.tag f.addr [])) ∧
    (f.status ≠ 0 → exec (.fabricFenceAck t k) s = After s (c.fabReply f.job f.rank f.fcls 0x30 f.fgen f.tag f.addr (Bits.leBytes 2 f.status)))
  ) ∧ (
  (∀ (t : Time) (sel : Nat) (p : FabPkt) (s : State), let b := s.blk.tick t
    let c := b.dropGot sel
    b.works 26 = true → b.pickGot sel Fif.isResp = some p →
    (c.matchTag p = none → exec (.fabricResponseRx t sel) s = After s (c.fabLate p)) ∧
    ∀ tag g, c.matchTag p = some (tag, g) →
      (p.opcode ≠ 0x30#8 → exec (.fabricResponseRx t sel) s = After s ((c.freeTag tag).tagAnswer g.use 0 p.payload)) ∧
      (p.opcode = 0x30#8 → exec (.fabricResponseRx t sel) s = After s ((c.freeTag tag).tagAnswer g.use (Bits.ofLe p.payload) []))) ∧
  (∀ (t : Time) (tag : Nat) (g : Tag) (s : State), let b := s.blk.tick t
    b.works 26 = true → (b.fif.tags.filter fun e => e.2.due b.now) = [(tag, g)] →
    exec (.fabricRequestTimeout t) s = After s ((b.quarantine tag).tagAnswer g.use St.timeout [])) ∧
  (∀ (t : Time) (w : TagWait) (ws : List TagWait) (s : State), let b := s.blk.tick t
    let c := b.onFif fun f => { f with tagWait := ws }
    b.works 26 = true → b.fif.tagWait = w :: ws → b.tagFree ≠ 0 →
    (∀ c', c.issue w = some c' → exec (.fabricRequestIssue t) s = After s c') ∧
    (c.issue w = none → exec (.fabricRequestIssue t) s = After s (c.tagAnswer w.use w.use.gone []))) ∧
  ∀ (t : Time) (key tile : Nat) (c : Coll) (x : TileCtx) (s : State), let b := s.blk.tick t
    b.works 26 = true → b.worksBm 28 = true → b.coll key = some c → AMap.get? c.tiles tile = some x →
    exec (.mcastResultInject t key tile) s = After s ((x.mc.foldl (fun b e => b.mcSend c.job c.mask (c.cls (c.treeNo tile)) 0x21 (c.addr tile e.1)
      e.2 (e.1 + 1 == x.mc.length) (some (key, tile))) b).modTile key tile fun x => { x with mc := [] })
  )

/-! ## Far windows (chapter 4) -/

/-- Far windows (R72, R103, R104, R118, R129, R131): WIN_CREATE makes the window its descriptor describes, import or export, under the number
asked for or the lowest free one; WIN_DESTROY marks it and frees it when nothing of it is left; WIN_FENCE covers the operations of an
a buffer when it copies to the far site. That NO_RESOURCE answers a BULK_COPY without room is the model's choice (log entry 69), and no
clause here. Completes: WIN_CREATE, WIN_DESTROY, WIN_FENCE, WIN_QUERY, BULK_COPY. -/
def Obligations.FarWindows : Prop :=
  (∀ (t : Time) (r : Req) (s : State) (b : Block) (id w : Nat), Starts 0x0301 r t s b id →
    let c := b.readCount r.a0 64
    let f := c.d r.a0
    let imp := f 0 1 == 1
    r.a0 % 64 = 0 → r.a0 + 64 ≤ 0x6000000000 → r.a1 = 64 → r.u 32 32 = 0 → c.winDescBad r.a0 (b.cmdJob r) = none →
    (r.a2 < 4096 ∧ w = r.a2 ∨ r.a2 = 0xFFFFFFFF ∧ AMap.freeKey c.fwu.wins 0 4096 = some w) →
    (∃ e ∈ c.peerGw, e.2 = f 4 2) → c.win w = none →
    exec (.winCreate t r) s = After s ((c.onFwu fun y => { y with
      wins := AMap.set y.wins w ⟨f 0 1, f 1 1, f 2 1 == 1, f 4 2, f 6 2, f 8 8, f 16 8, f 24 4, f 28 2, f 32 4, f 36 4, b.cmdJob r,
        imp && r.flagScav, none, 0, 0, 0, 0⟩
      winGen := if imp then AMap.set y.winGen w ((AMap.getD y.winGen w 0 + 1) % 256) else y.winGen
      seqs := if imp then y.seqs.filter fun e => e.1 / 2 ^ 27 != w else y.seqs }).ok id w)) ∧
  (∀ (t : Time) (r : Req) (s : State) (b : Block) (id : Nat) (x : Win), Starts 0x0302 r t s b id →
    r.u 16 8 = 0 → r.u 24 4 = 0 → r.a2 < 4096 → r.u 32 32 = 0 → b.win r.a2 = some x → x.job = b.cmdJob r →
    (x.dying = none → exec (.winDestroy t r) s =
      After s ((b.onFwu fun f => { f with wins := AMap.adjust f.wins r.a2 fun y => { y with dying := some id } }).winSettle r.a2)) ∧
    (x.dying ≠ none → exec (.winDestroy t r) s = After s (b.done id St.state 2))) ∧
  (∀ (t : Time) (r : Req) (s : State) (b : Block) (id : Nat) (x : Win), Starts 0x0303 r t s b id →
    r.u 16 8 = 0 → r.u 24 4 = 0 → r.a2 < 4096 → r.u 32 32 = 0 → b.win r.a2 = some x → x.job = b.cmdJob r →
    let cov := if x.kind = 1 then b.fwu.ctxs.filter fun e => e.2.win == r.a2 && e.2.bulk.isNone else []
    let ents := if x.kind = 2 then (b.fwu.ents.filter fun e => e.2.msg.win.toNat % 4096 == r.a2).map (·.1) else []
    let f : Fence := ⟨x.job, 0, r.a2, 0, 0, 0, x.base, some id, cov.map (·.1), ents, (cov.map fun e => (e.2.rank, e.2.lcls)).eraseDups, 0, 0⟩
    exec (.winFence t r) s = After s (((b.onFwu fun y => { y with fenceNo := b.fwu.fenceNo + 1, fences := AMap.set y.fences b.fwu.fenceNo f }).fenceNeeds
      b.fwu.fenceNo).fenceEnd b.fwu.fenceNo)) ∧
  (∀ (t : Time) (r : Req) (s : State) (b : Block) (id : Nat) (x : Win), Starts 0x0305 r t s b id →
    r.a0 % 64 = 0 → r.a0 + r.a1 ≤ 0x6000000000 → 64 ≤ r.a1 → r.a2 < 4096 → r.u 32 32 = 0 → b.win r.a2 = some x → x.job = b.cmdJob r →
    exec (.winQuery t r) s = After s ((b.dxWrite r.a0 (b.winRecord r.a2 x)).ok id
      (if x.kind = 1 then b.winOut r.a2 else (b.fwu.ents.filter fun e => e.2.bad == 0 && e.2.msg.win.toNat % 4096 == r.a2).length))) ∧
  ∀ (t : Time) (r : Req) (s : State) (b : Block) (id : Nat) (x : Win), Starts 0x0304 r t s b id →
    let toFar := r.u 60 1 == 0
    let c : OpCtx := {
      gen := 0, job := b.cmdJob r, rank := r.u 56 4, tag := 0, fgen := 0, fcls := 0, lcls := if r.flagScav || x.scav then 7 else 6,
      win := r.a2, peer := x.peer, fop := if toFar then 0x20 else 0x21, off := r.u 40 8, len := r.u 48 8, addr := 0, seq := 0, data := [],
      tmo := b.farTmo x, deadline := b.now + b.farTmo x, sent := none, paged := false, early := [], buf := none, fence := none, cmd := some id,
      bulk := some ⟨toFar, r.u 56 4, r.u 32 8, r.u 40 8, r.u 48 8, r.u 40 8, r.u 40 8, [], [], []⟩ }
    r.u 16 8 = 0 → r.u 24 4 = 0 → r.a2 < 4096 → r.u 32 8 < 2 ^ 48 → r.u 40 8 < 2 ^ 48 → r.u 48 8 ≠ 0 → r.u 56 4 < 2 ^ 24 → r.u 60 1 ≤ 1 →
    r.u 61 3 = 0 → b.win r.a2 = some x → x.job = b.cmdJob r → x.kind = 1 →
    b.winCheck x (x.base + r.u 40 8) (r.u 48 8) (some 3) = none →
    b.winCheck x (x.base + r.u 40 8) (r.u 48 8) (some (if toFar then 1 else 0)) = none →
    (b.rankEntry (b.cmdJob r) (r.u 56 4)).isSome = true → b.ctxRoom r.a2 1 = true →
    (r.u 60 1 = 1 → exec (.bulkCopy t r) s = After s (b.newCtx c).2) ∧
    ∀ b' h, r.u 60 1 = 0 → b.takeBuf (min (r.u 48 8) 65536) (Own.of (b.cmdJob r) 2) = some (b', h) →
      exec (.bulkCopy t r) s = After s (b'.newCtx { c with buf := some h }).2

/-- Far operations at the originating gateway (R110, R113, R116, R121, R123, R125 to R127, R130): a request leaves against an execution credit
at its turn; a response of its generation answers it, behind those that are held, or fails it when its data is poison (R370); it is
held in the reserved paging pool while its context is in memory, and discarded as late when none matches; at its deadline an operation ends TIMEOUT, or LINK_DOWN without a path, in quarantine, which ends at its time.
Completes: FAR_REQUEST_SEND, FAR_RESPONSE_RX, BULK_PROGRESS_RX, FAR_DEADLINE_EXPIRY, FAR_QUARANTINE_END. -/
def Obligations.FarOperations : Prop :=
  (∀ (t : Time) (i : Nat) (c : OpCtx) (s : State), let b := s.blk.tick t
    let d := b.farSend i c 0 c.fop c.seq c.off c.msgLen c.data
    b.worksBm 27 = true → AMap.get? b.fwu.ctxs i = some c → c.sent = none → c.bulk = none → c.paged = false → b.execCredit c.peer ≠ 0 →
    b.issueTurn = some i →
    exec (.farRequestSend t i) s = After s (d.onFwu fun f => { f with
      turn := i + 1, ctxs := AMap.adjust f.ctxs i fun c => { c with sent := some d.now, buf := none } })) ∧
  (∀ (t : Time) (sel : Nat) (x : InMsg) (m : FarMsg) (s : State), let b := s.blk.tick t
    let leaves (d : Block) : Prop :=
      (b.pickIn sel InMsg.farResp = some x → exec (.farResponseRx t sel) s = After s d) ∧
      (b.pickIn sel InMsg.progress = some x → exec (.bulkProgressRx t sel) s = After s d)
    b.worksBm 27 = true → x.msg = .far m →
    (b.farCtx m = none → leaves ((b.dropIn sel).farLate m)) ∧
    ∀ i c, b.farCtx m = some (i, c) →
      (c.paged = false → b.fwu.heldOrder = [] → (x.buf.any fun e => b.bufPoison e.1) = false → leaves ((b.dropIn sel).farAnswer i c m)) ∧
      (c.paged = false → b.fwu.heldOrder = [] → (x.buf.any fun e => b.bufPoison e.1) = true → leaves ((b.dropIn sel).ctxPoison i c)) ∧
      (c.paged = false → b.fwu.heldOrder ≠ [] → leaves b) ∧
      (c.paged = true → b.takeRes 2 (max 1 m.data.length) (Own.of c.job 2) = none → leaves b) ∧
      ∀ b' h, c.paged = true → b.takeRes 2 (max 1 m.data.length) (Own.of c.job 2) = some (b', h) →
        leaves ((b'.dropIn sel).onFwu fun f => { f with
          ctxs := AMap.adjust f.ctxs i fun c => { c with early := c.early ++ [(m, h)] }
          heldOrder := f.heldOrder ++ [i] })) ∧
  (∀ (t : Time) (i : Nat) (c : OpCtx) (s : State), let b := s.blk.tick t
    b.worksBm 27 = true → (b.fwu.ctxs.filter fun e => decide (e.2.deadline ≤ b.now) && e.2.early.isEmpty) = [(i, c)] →
    (c.peer ∉ b.noPath → exec (.farDeadlineExpiry t) s =
      After s (((b.bump R.fwuTimeoutCnt).ctxReply c St.timeout []).ctxEnd i St.timeout true)) ∧
    (c.peer ∈ b.noPath → exec (.farDeadlineExpiry t) s = After s ((b.ctxReply c St.linkDown []).ctxEnd i St.linkDown true))) ∧
  ∀ (t : Time) (i : Nat) (until_ : Time) (x : Option Nat) (s : State), let b := s.blk.tick t
    b.worksBm 27 = true → AMap.get? b.fwu.quar i = some (until_, x) →
    (until_ ≤ b.now → exec (.farQuarantineEnd t i) s = After s (b.onFwu fun f => { f with quar := AMap.erase f.quar i })) ∧
    (b.now < until_ → exec (.farQuarantineEnd t i) s = After s b)

/-- Contexts in memory and bulk chunks (R121, R123, R129, R130): above the watermark the contexts that have waited longest go to memory, and
one for which responses are held comes back and is answered, but not before an earlier response whose context is still in memory, or fails when
its slot is poisoned; a copy sends its next chunk, or asks the
far site for it, up to the next 64 KiB boundary, at its turn while the in-flight limit and the credits allow; a copy to the far site first
reads that chunk from the local fabric. Completes: OP_CONTEXT_PAGE_OUT, OP_CONTEXT_PAGE_IN, BULK_CHUNK_SEND. -/
def Obligations.FarPagingAndBulk : Prop :=
  (∀ (t : Time) (s : State), let b := s.blk.tick t
    let go := (b.pageable.take (b.fwuOnChip - b.fld R.fwuPageCtl 23 16 * 1024)).map (·.1)
    b.worksBm 27 = true → exec (.opContextPageOut t) s = After s ((go.foldl (fun d i => (d.putFree (Fwu.home i) 256).onFwu fun f => { f with
      ctxs := AMap.adjust f.ctxs i fun c => { c with paged := true } }) b).bump64 R.fwuPageoutLo go.length)) ∧
  (∀ (t : Time) (i : Nat) (c : OpCtx) (s : State), let b := s.blk.tick t
    let d := b.bump64 R.fwuPageinLo 1
    b.worksBm 27 = true → AMap.get? b.fwu.ctxs i = some c → c.early ≠ [] → c.paged = true →
    (∀ m h, d.rangePoison (Fwu.home i) 256 = false → d.fwu.heldOrder = [i] → c.early = [(m, h)] → exec (.opContextPageIn t i) s =
      After s (((((d.onFwu fun f => { f with ctxs := AMap.set f.ctxs i { c with paged := false } }).onFwu fun f => { f with heldOrder := [] }).onFwu fun f => { f with
        ctxs := AMap.set f.ctxs i { c with paged := false, early := [] } }).dropOwner h (Own.of c.job 2)).farMatch m)) ∧
    (∀ j rest x, d.rangePoison (Fwu.home i) 256 = false → d.fwu.heldOrder = j :: rest → j ≠ i → AMap.get? d.fwu.ctxs j = some x → x.paged = true →
      exec (.opContextPageIn t i) s = After s (d.onFwu fun f => { f with ctxs := AMap.set f.ctxs i { c with paged := false } })) ∧
    (d.rangePoison (Fwu.home i) 256 = true → exec (.opContextPageIn t i) s =
      After s (((d.readCount (Fwu.home i) 256).ctxReply c St.timeout []).ctxEnd i St.timeout true))) ∧
  ∀ (t : Time) (i : Nat) (c : OpCtx) (k : Bulk) (s : State), let b := s.blk.tick t
    let n := Fwu.chunkLen k
    let q := b.nextSeq c.win c.rank c.lcls
    b.worksBm 27 = true → AMap.get? b.fwu.ctxs i = some c → c.bulk = some k → b.chunkDue k = true →
    (b.issueTurn = some i → k.toFar = false ∨ k.chunk.length = n →
      exec (.bulkChunkSend t i) s = After s (((q.2.farSend i c (Fwu.chunkFlag k) (if k.toFar then 0x20 else 0x21) q.1 k.next n k.chunk).putBulk i
        { k with next := k.next + n, gathered := [] }).onFwu fun f => { f with turn := i + 1 })) ∧
    (∀ b', k.toFar = true → k.chunk.length ≠ n → k.parts = [] → (∀ h, c.buf = some h → ∀ m ∈ b.outq, m.src ≠ some h) →
      let ps := Fwu.pieces 18 (k.laddr + (k.next - k.start)) n
      ps.foldl (fun (acc : Option Block) p => acc.bind fun d => d.issue ⟨.bulk i (p.1 - k.laddr), c.job, k.lrank, c.lcls, 0x01, p.1, p.2, []⟩)
        (some (b.putBulk i { k with parts := [(k.next, n, ps.length)], gathered := [] })) = some b' →
      exec (.bulkChunkSend t i) s = After s b') ∧
    n ≤ 65536 ∧ k.next + n ≤ k.start + k.len ∧ 0 < n

/-- Far operations at the executing gateway (R24, R111 to R114, R117, R130, R506): a request of a known window and stream takes an execution
entry against a credit, with the status of its checks, and stays where it is without one; at its turn it issues into the local fabric, or
is marked with its failing status; it is answered when its packets are, a chunk of a bulk write that has completed at FINAL or a 16 MiB step alone, and one after a failed
chunk with that chunk's status and the offset completed before it, and an
FFENCE when every earlier operation of its stream has been; requests held 20 s behind a hole are discarded. Completes: FAR_REQUEST_RX,
FAR_REQUEST_EXECUTE, FAR_EXEC_RESPONSE, FFENCE_COMPLETE, FAR_STREAM_HOLD_EXPIRY. -/
def Obligations.FarExecution : Prop :=
  (∀ (t : Time) (sel : Nat) (x : InMsg) (m : FarMsg) (s : State), let b := s.blk.tick t
    let d := (b.takeIn sel).onFwu fun f => { f with execRecv := AMap.set f.execRecv x.peer (AMap.getD f.execRecv x.peer 0 + 1) }
    b.worksBm 27 = true → b.pickIn sel InMsg.farReq = some x → x.msg = .far m →
    (b.execOk x.peer = false → exec (.farRequestRx t sel) s = After s (b.holdIn sel)) ∧
    ∀ (w : Win) (st : FarStream), b.execOk x.peer = true → d.win (m.win.toNat % 4096) = some w → w.kind = 2 → w.peer = x.peer → w.peerJob = x.job →
      (d.fwu.streams.find? fun y => y.peer == x.peer && y.win == m.win.toNat % 4096 && y.impWin == m.impWin.toNat % 4096) = some st →
      st.gen = m.src.toNat / 2 ^ 24 → st.rank = m.src.toNat % 2 ^ 24 → st.cls = x.cls → (m.streamSeq.toNat + 2 ^ 32 - st.expect) % 2 ^ 32 < 2 ^ 31 →
      exec (.farRequestRx t sel) s = After s (d.putEnt d.freeEnt ⟨x.peer, x.cls, w.job, m, d.farCheck x m, d.now, none, 0, 0, [], none, x.seg, false, x.buf⟩)) ∧
  (∀ (t : Time) (i : Nat) (e : ExecEnt) (st : FarStream) (w : Win) (s : State), let b := s.blk.tick t
    let set (left status : Nat) : Block := (b.onFwu fun f => { f with
      streams := f.streams.map fun y => if y = st then { y with expect := (st.expect + 1) % 2 ^ 32 } else y }).onFwu fun f => { f with
      ents := AMap.adjust f.ents i fun y => { y with started := some b.now, left := left, status := status, blockedAt := none } }
    let m := e.msg
    b.worksBm 27 = true → AMap.get? b.fwu.ents i = some e → (b.fwu.streams.find? fun y => y.is e.peer e.msg e.cls) = some st → e.started = none →
    st.expect = m.streamSeq.toNat → (∀ x ∈ b.fwu.ents, x.1 ≠ i → x.2.started = none) → e.blockedAt = none → b.win (m.win.toNat % 4096) = some w → b.engStopped e.job 2 = false →
    (e.bad ≠ 0 → exec (.farRequestExecute t i) s = After s (set 0 e.bad)) ∧
    (e.bad = 0 → (e.buf.any fun x => b.bufPoison x.1) = true → exec (.farRequestExecute t i) s = After s (set 0 St.timeout)) ∧
    (e.bad = 0 → (e.buf.any fun x => b.bufPoison x.1) = false → m.fop = 0x03#8 → exec (.farRequestExecute t i) s = After s (set 0 0)) ∧
    ∀ b', e.bad = 0 → (e.buf.any fun x => b.bufPoison x.1) = false → m.fop ≠ 0x03#8 →
      let ps := FarExec.parts w m
      let isW := m.fop == 0x02#8 || m.fop == 0x20#8
      let isR := m.fop == 0x01#8 || m.fop == 0x21#8
      let at_ (p : Nat × Nat) : Nat := p.1 - (w.base + m.offset.toNat)
      ps.foldl (fun (acc : Option Block) p => acc.bind fun d => d.issue ⟨.exec i (at_ p), w.job, w.target, e.cls, FarExec.opc m, p.1,
        if isW then p.2 else if isR then p.2 else m.data.length,
        if isR then [] else if isW then (m.data.drop (at_ p)).take p.2 else m.data⟩) (some ((set ps.length 0).count w.job 1 7 1)) = some b' →
      exec (.farRequestExecute t i) s = After s b') ∧
  (∀ (t : Time) (i : Nat) (e : ExecEnt) (s : State), let b := s.blk.tick t
    let off := e.msg.offset.toNat
    let fin := off + e.msg.data.length
    let old := b.bulkRec e
    let kept (r : Nat × Nat) : Block := b.putBulkRec e (if e.msg.flags.getLsbD 1 then none else some r)
    b.worksBm 27 = true → AMap.get? b.fwu.ents i = some e → e.bad = 0 → e.started.isSome = true → e.resp = false → e.msg.fop ≠ 0x03#8 →
    (e.left ≠ 0 → exec (.farExecResponse t i) s = After s b) ∧
    (e.left = 0 → e.msg.fop ≠ 0x20#8 → exec (.farExecResponse t i) s =
      After s (b.entRespond i e e.status off (if e.status = 0 ∧ e.msg.fop ≠ 0x02#8 then e.data.flatMap Prod.snd else []))) ∧
    (e.left = 0 → e.msg.fop = 0x20#8 → (∀ x ∈ b.fwu.ents, x.1 ≠ i → x.2.same e.peer e.msg e.cls = false) →
      (old.1 ≠ 0 → exec (.farExecResponse t i) s = After s ((kept old).entRespond i e old.1 old.2 [])) ∧
      (old.1 = 0 → e.status ≠ 0 → exec (.farExecResponse t i) s = After s ((kept (e.status, old.2)).entRespond i e e.status old.2 [])) ∧
      (old = (0, off) → e.status = 0 → e.msg.flags.getLsbD 1 = true ∨ fin / 0x1000000 ≠ off / 0x1000000 →
        exec (.farExecResponse t i) s = After s ((kept (0, fin)).entRespond i e 0 fin [])) ∧
      (old = (0, off) → e.status = 0 → e.msg.flags.getLsbD 1 = false → fin / 0x1000000 = off / 0x1000000 →
        exec (.farExecResponse t i) s = After s (((kept (0, fin)).entCount e 0).entFree i)))) ∧
  (∀ (t : Time) (i : Nat) (e : ExecEnt) (s : State), let b := s.blk.tick t
    b.worksBm 27 = true → AMap.get? b.fwu.ents i = some e → e.started.isSome = true → e.msg.fop = 0x03#8 →
    (∀ x ∈ b.fwu.ents, x.1 ≠ i → x.2.same e.peer e.msg e.cls = false) →
    exec (.ffenceComplete t i) s = After s (b.entRespond i e e.status e.msg.offset.toNat [])) ∧
  ∀ (t : Time) (st : FarStream) (s : State), let b := s.blk.tick t
    b.worksBm 27 = true → b.fwu.streams = [st] →
    (b.heldLate st = true → exec (.farStreamHoldExpiry t) s = After s (b.holdSkip st)) ∧
    (b.heldLate st = false → exec (.farStreamHoldExpiry t) s = After s b)

/-! ## Power and boot (chapter 16) -/

/-- Power states and RESET (R422, R423, R430 to R433): POWER_STATE completes at once in the state asked for, enters Calm after its completion
when no job is left and the line is off, and otherwise begins a transition that completes once the engines are awake or asleep; RESET
completes before its reset starts, which cuts the transactions that it reaches (R382). Completes: POWER_STATE, POWER_TRANSITION_DONE, RESET. -/
def Obligations.PowerStatesAndReset : Prop :=
  (∀ (t : Time) (r : Req) (s : State) (b : Block) (id : Nat), Starts 0x0108 r t s b id →
    r.u 16 1 ≤ 2 → r.u 17 7 = 0 → r.u 24 4 = 0 → r.u 28 4 = 0 → r.u 32 32 = 0 →
    (r.u 16 1 = b.pstate → exec (.powerState t r) s = After s (b.ok id b.pstate)) ∧
    (r.u 16 1 ≠ b.pstate → b.pcr.trans ≠ none → exec (.powerState t r) s = After s (b.done id St.busy 0)) ∧
    (r.u 16 1 = 0 → b.pstate ≠ 0 → b.pcr.trans = none → (∀ j ∈ b.jobs, j.2.state = 2) → b.funcOff 0x200 = true → b.funcOff 0x201 = true →
      b.regN R.dbgFrozen = 0 → b.pcr.stuck = false → exec (.powerState t r) s = After s (b.ok id 0).enterCalm) ∧
    (r.u 16 1 = 1 → b.pstate ≠ 1 → b.pcr.trans = none → (∀ j ∈ b.jobs, j.2.state = 2) → b.regN R.dbgFrozen = 0 → b.pcr.stuck = false →
      exec (.powerState t r) s = After s ((b.onPcr fun x => { x with trans := some (id, 1, 0) }).putBit R.pcrStat 29 true)) ∧
    (r.u 16 1 = 2 → b.pstate ≠ 2 → b.pcr.trans = none → b.pcr.stuck = false →
      exec (.powerState t r) s = After s (((b.onPcr fun x => { x with trans := some (id, 2, 1) }).putBit R.pcrStat 29 true).rampAsk Config.wakeAmps 0))) ∧
  (∀ (t : Time) (id tgt : Nat) (s : State), let b := s.blk.tick t
    let c := ((b.onPcr fun x => { x with trans := none }).putBit R.pcrStat 29 false).putFld R.pcrStat 31 30 tgt
    b.pcr.phase = 4 → b.pcr.trans = some (id, tgt, 1) → (∀ x ∈ b.pcr.ramp, x.act ≠ 0) → (tgt = 1 → b.fabricOff = true) →
    exec (.powerTransitionDone t) s = After s ((c.trace 7 1 0xFFFF (Bits.leBytes 1 tgt ++ Bits.leBytes 4 (c.regN R.pcrTokGrant))).ok id tgt)) ∧
  ∀ (t : Time) (x : ResetReq) (s : State) (b : Block) (id : Nat), Starts 0x0107 x.req t s b id →
    let r := x.req
    r.u 17 7 = 0 → r.u 24 4 = 0 → r.u 32 32 = 0 →
    (r.a2 = 0 → r.u 16 1 = 1 → exec (.reset t x) s = After s ((b.ok id 0).bigReset 1 true)) ∧
    (r.a2 = 0 → r.u 16 1 = 2 → exec (.reset t x) s = After s (Mc.cut x.cut ((b.ok id 0).bigReset 2 true))) ∧
    (r.a2 = 0 → r.u 16 1 = 3 → exec (.reset t x) s = After s (Mc.cut x.cut ((b.ok id 0).hostReset.putFld R.pcrBootStat 11 8 3))) ∧
    (r.u 16 1 = 4 → (r.a2 ≤ 3 ∨ (5 ≤ r.a2 ∧ r.a2 ≤ 9)) →
      exec (.reset t x) s = After s (Mc.cut x.cut (((b.ok id 0).cpReset r.a2).putFld R.pcrBootStat 11 8 4)))

/-- The boot sequence (R364, R418 to R421, Tables 16-1 and 16-4): power-on starts it at step 1; the next step has its effect while it ends in
time and its check holds, and boot stops in LOCKED when it does not; a low pulse of RESET_N of 1 µs or more resets a running device cold,
a shorter one does nothing; with VDD_AON everything goes but the fuses. The rails and Calm (R433, R496): PWR_GOOD low for 1 µs resets a
running device cold and holds it, and is noted through a thermal trip, its rise lets a held device boot from step 2; WAKE_N low for 1 µs, or a sideband request, wakes a device
in Calm, which stays there when PWR_GOOD does not come within 50 ms. Completes: POWER_ON, BOOT_STEP, BOOT_STEP_TIMEOUT, RESET_N_ASSERT,
VDD_AON_LOSS, PWR_GOOD_LOSS, PWR_GOOD_RISE, WAKE_N_ASSERT, CALM_WAKE, CALM_WAKE_TIMEOUT. -/
def Obligations.BootAndRails : Prop :=
  (
  (∀ (t : Time) (s : State), let b := s.blk.tick t
    b.pcr.phase = 0 → exec (.powerOn t) s =
      After s ((b.aonOnly.putN R.pcrBootStat 1).onPcr fun x => { x with phase := 2, mainEn := true, good := true })) ∧
  (∀ (t : Time) (x : BootIn) (k : Nat) (s : State), let b := s.blk.tick t
    let after (c : Block) : Prop := exec (.bootStep t x) s = After s c
    b.pcr.phase = 2 → k = (if b.fld R.pcrBootStat 7 0 = 0 then 2 else b.fld R.pcrBootStat 7 0 + 1) → k ≤ 10 →
    (b.stepLimit k < b.now → after b.bootStop) ∧
    (b.now ≤ b.stepLimit k →
      (k ∉ [3, 4, 7, 8] → after (Boot.effect k x b)) ∧
      (k = 3 → (b.tampered = false → after (Boot.effect k x b)) ∧ (b.tampered = true → after b.bootStop)) ∧
      (k = 4 → (x.sigOk = true → b.fld R.secFwSvn 15 0 ≤ x.svn → after (Boot.effect k x b)) ∧
        (x.sigOk = false ∨ x.svn < b.fld R.secFwSvn 15 0 → after (b.putBit R.secStat 28 true).bootStop)) ∧
      (k = 7 → let c := Boot.effect k x b
        (64 ≤ 128 - c.mc.retired.length → after c) ∧ (128 - c.mc.retired.length < 64 → after (c.putFld R.pcrBootStat 7 0 6).bootStop)) ∧
      (k = 8 → (b.pcr.wake = false ∨ Sec.m2 x.images = b.sec.m2 → after (Boot.effect k x b)) ∧
        (b.pcr.wake = true → Sec.m2 x.images ≠ b.sec.m2 → after (b.bigReset 1 true))))) ∧
  (∀ (t : Time) (s : State), let b := s.blk.tick t
    b.pcr.phase = 2 → 1 ≤ b.fld R.pcrBootStat 7 0 →
    (b.stepLimit (b.fld R.pcrBootStat 7 0 + 1) ≤ b.now → exec (.bootStepTimeout t) s =
      After s (((b.onPcr fun x => { x with phase := 3 }).putFld R.secStat 31 30 2).putBit R.pcrBootStat 31 true)) ∧
    (b.now < b.stepLimit (b.fld R.pcrBootStat 7 0 + 1) → exec (.bootStepTimeout t) s = After s b)) ∧
  (∀ (t dur : Time) (tj : Int) (s : State), let b := s.blk.tick t
    (8000 ≤ dur → b.pcr.phase = 4 → exec (.resetNAssert t dur tj) s = After s (b.bigReset 1 b.pcr.good)) ∧
    (dur < 8000 → exec (.resetNAssert t dur tj) s = After s b)) ∧
  ∀ (t : Time) (s : State), let b := s.blk.tick t
    ∃ b', exec (.vddAonLoss t) s = After s b' ∧ b'.pcr.phase = 0 ∧ b'.rings = [] ∧ b'.jobs = [] ∧ b'.dram = [] ∧
      b'.fld R.secFwSvn 15 0 = b.fld R.secFwSvn 15 0 ∧ b'.reg (R.secSerial 0) = b.reg (R.secSerial 0)
  ) ∧ (
  (∀ (t dur : Time) (s : State), let b := s.blk.tick t
    (8000 ≤ dur → b.pcr.phase = 4 → b.pcr.wake = false → exec (.pwrGoodLoss t dur) s = After s (b.bigReset 1 false)) ∧
    (8000 ≤ dur → b.pcr.phase = 7 → exec (.pwrGoodLoss t dur) s = After s (b.onPcr fun x => { x with good := false })) ∧
    (dur < 8000 → exec (.pwrGoodLoss t dur) s = After s b)) ∧
  (∀ (t : Time) (s : State), let b := s.blk.tick t
    b.pcr.phase = 1 → b.pcr.good = false →
    exec (.pwrGoodRise t) s = After s (b.onPcr fun x => { x with phase := 2, since := b.now, bootAt := b.now, good := true })) ∧
  (∀ (t dur : Time) (s : State), let b := s.blk.tick t
    let woken := (b.putN R.secBootCnt (b.regN R.secBootCnt + 1)).onPcr fun x => { x with phase := 6, since := b.now, bootAt := b.now, mainEn := true }
    b.pcr.phase = 5 →
    (8000 ≤ dur → exec (.wakeNAssert t dur) s = After s woken) ∧
    (dur < 8000 → exec (.wakeNAssert t dur) s = After s b) ∧
    exec (.calmWake t) s = After s woken) ∧
  ∀ (t : Time) (s : State), let b := s.blk.tick t
    b.pcr.phase = 6 →
    (b.pcr.since + 400000000 ≤ b.now → exec (.calmWakeTimeout t) s =
      After s ((b.onPcr fun x => { x with phase := 5, mainEn := false }).putBit R.pcrBootStat 31 true)) ∧
    (b.now < b.pcr.since + 400000000 → exec (.calmWakeTimeout t) s = After s b)
  )

/-- References and temperature (R426, R427, R438, R439): a reference without an edge for 1 µs, or more than 1,000 ppm off, is lost, with the
endpoint or the fabric ports that run from it; one that is stable for 65,536 cycles, within 200 ppm but for the crystal, is back; a sample
moves the throttle level and the package limit; at 105 °C for 100 µs, and not before, the main domain goes off and
THERMTRIP_N is low. Completes: REFERENCE_LOSS,
REFERENCE_RECOVERY, THERMAL_SAMPLE, THERMAL_TRIP. -/
def Obligations.ReferencesAndTemperature : Prop :=
  (∀ (t : Time) (k : Nat) (x : RefCount) (s : State), let b := s.blk.tick t
    let gone := 8000 ≤ x.idle ∨ 1000 < x.ppm.natAbs
    k ≤ 5 → k ∉ b.pcr.lost →
    (gone → 1 ≤ k → ∃ b', exec (.referenceLoss t ⟨k, x⟩) s = After s b' ∧ b'.pcr.lost = k :: b.pcr.lost ∧ (k = 5 → b'.pcieUp = false) ∧
      ∀ p, p < 32 → p / 8 + 1 = k → b'.portUp p = false) ∧
    (gone → k = 0 → b.armed = false → ∃ b', exec (.referenceLoss t ⟨k, x⟩) s = After s b' ∧ b'.pcr.lost = 0 :: b.pcr.lost) ∧
    (¬gone → exec (.referenceLoss t ⟨k, x⟩) s = After s b)) ∧
  (∀ (t : Time) (k : Nat) (x : RefCount) (s : State), let b := s.blk.tick t
    let stable := x.idle < 8000 ∧ x.ppm.natAbs ≤ (if k = 0 then 1000 else 200) ∧ 65536 ≤ x.cycles
    k ∈ b.pcr.lost →
    (stable → ∃ b', exec (.referenceRecovery t ⟨k, x⟩) s = After s b' ∧ (k = 5 → b'.pcieUp = true) ∧ k ∉ b'.pcr.lost) ∧
    (¬stable → exec (.referenceRecovery t ⟨k, x⟩) s = After s b)) ∧
  (∀ (t : Time) (tj : Int) (s : State), let b := s.blk.tick t
    let c := (b.tjSample tj).levelStep
    (b.sensing = true → exec (.thermalSample t tj) s =
      After s ((c.putN R.pcrPkgLimit (c.limitAfter tj).toNat).pcrLoop 0 false (decide (c.limitAfter tj < c.pcr.pwrIn.1)))) ∧
    (b.sensing = false → exec (.thermalSample t tj) s = After s b)) ∧
  ∀ (t t0 : Time) (s : State), let b := s.blk.tick t
    b.sensing = true → b.pcr.hotTrip = some t0 →
    (t0 + 800000 ≤ b.now → ∃ b', exec (.thermalTrip t) s = After s b' ∧ b'.pcr.phase = 7 ∧ b'.pcr.tripped = true ∧ b'.rings = [] ∧ b'.jobs = [] ∧ b'.dram = []) ∧
    (b.now < t0 + 800000 → exec (.thermalTrip t) s = After s b)

/-- Energy and the adaptive loops (R434 to R437, R441, R492): an epoch, in Calm too, grants its tokens, none outside power state 2, for what was spent
of the last ones; the oldest step that
waits goes when both ramp limits let all of it through, and moves the host-core clock when it is one of it; the voltage setpoint follows a target within its bounds by 5 mV at most, and holds
while the regulator asserts its alert. Completes: ENERGY_EPOCH, RAMP_GOVERNOR_GRANT, ADAPTIVE_LOOP_UPDATE, AVS_ALERT_N_CHANGE. -/
def Obligations.EnergyAndLoops : Prop :=
  (∀ (t : Time) (watts : Nat) (s : State), let b := s.blk.tick t
    let c := b.epochMark watts
    b.pcr.phase = 4 ∨ b.pcr.phase = 5 → exec (.energyEpoch t watts) s =
      After s (c.tokensGranted (c.tokensFor watts (b.regN R.pcrTokGrant) (b.regN R.pcrTokGrant - b.ce.tok - Bits.sum (b.ce.items.map (·.saved)))))) ∧
  (∀ (b : Block) (watts g spent : Nat), b.pstate ≠ 2 → b.tokensFor watts g spent = 0) ∧
  (∀ (t : Time) (x : RampStep) (rest : List RampStep) (s : State), let b := s.blk.tick t
    b.pcr.phase = 4 → b.pcr.ramp = x :: rest → x.amps ≠ 0 → b.rampRoom x.amps = x.amps →
    let c := b.onPcr fun y => { y with steps := (b.now, x.amps) :: b.pcr.steps.filter fun z => b.now < z.1 + 800000, ramp := rest }
    let d := c.putN R.pcrImodel ((c.regN R.pcrImodel : Int) + x.amps).toNat
    let e := d.bumpN R.pcrRampHoldUs ((d.now - x.at_) / 8000)
    (x.act < 2 → exec (.rampGovernorGrant t) s = After s e) ∧
    (2 ≤ x.act → exec (.rampGovernorGrant t) s = After s (e.putFld R.pcrClkNow 23 16 (e.hcNow (x.act - 1))))) ∧
  (∀ (t : Time) (target : Nat) (s : State), let b := s.blk.tick t
    let bnd := b.bounds R.pcrBndAvs
    let cur : Int := b.regN R.pcrVcore
    b.pcr.phase = 4 → b.cpOut 5 = false →
    (b.pcr.alert = false → b.pcr.ramp = [] → cur ≠ 0 → bnd.1 ≤ (target : Int) → (target : Int) ≤ bnd.2 →
      exec (.adaptiveLoopUpdate t 0x2010 target) s = After s ((b.vcore (Lo.clamp (cur - 5) (cur + 5) target)).pcrLoop 1 false false)) ∧
    (b.pcr.alert = true → exec (.adaptiveLoopUpdate t 0x2010 target) s = After s (b.pcrLoop 1 (b.pcr.sat.contains 1) true))) ∧
  ∀ (t : Time) (level : Bool) (s : State), let b := s.blk.tick t
    exec (.avsAlertNChange t level) s = After s ((b.onPcr fun x => { x with alert := !level }).pcrLoop 1 (b.pcr.sat.contains 1) (!level))

/-! ## Collectives (chapters 5 and 6) -/

/-- Objects of the collective engine (R134, R135, R160, R177 to R179, R183, R188): a tree and a combiner program take the lowest free
handle, and a program of the job that no collective uses is replaced or freed; a residual region takes the highest place that holds it and its
pages read 0, and it gives back its size when it is freed; a query returns the tiles handled, and the statistics of a collective are written as
128 bytes. Completes: TREE_SET, COMBINER_LOAD, RESIDUAL_ALLOC, RESIDUAL_FREE, COLL_QUERY, STATS_READ. -/
def Obligations.CollectiveObjects : Prop :=
  (∀ (t : Time) (r : Req) (s : State) (b : Block) (id h : Nat), Starts 0x0401 r t s b id →
    let c := b.readCount r.a0 64
    r.a0 % 64 = 0 → r.a0 + 64 ≤ 0x6000000000 → r.a1 = 64 → r.u 28 4 = 0 → r.u 32 32 = 0 → c.treeBad r.a0 = none → AMap.freeKey c.ce.trees 0 8192 = some h →
    exec (.treeSet t r) s = After s ((c.onCe fun x => { x with trees := AMap.set x.trees h (c.treeDesc r.a0 (c.cmdJob r)) }).ok id h)) ∧
  (∀ (t : Time) (r : Req) (s : State) (b : Block) (id h : Nat), Starts 0x0404 r t s b id →
    let c := b.readCount r.a0 r.a1
    r.a0 % 64 = 0 → r.a0 + r.a1 ≤ 0x6000000000 → r.a1 = 336 ∨ r.a1 = 4432 → r.u 32 32 = 0 → c.combBad r.a0 r.a1 = none →
    (r.a2 = 0xFFFFFFFF → c.d r.a0 1 1 ≠ 0 → AMap.freeKey c.ce.progs 0 256 = some h →
      exec (.combinerLoad t r) s = After s ((c.onCe fun x => { x with progs := AMap.set x.progs h (c.combImage r.a0 (c.cmdJob r)) }).ok id h)) ∧
    (∀ p, r.a2 ≠ 0xFFFFFFFF → AMap.get? c.ce.progs r.a2 = some p → p.job = c.cmdJob r → (∀ e ∈ c.ce.colls, e.2.comb ≠ some r.a2) →
      (c.d r.a0 1 1 ≠ 0 → exec (.combinerLoad t r) s =
        After s ((c.onCe fun x => { x with progs := AMap.set x.progs r.a2 (c.combImage r.a0 (c.cmdJob r)) }).ok id r.a2)) ∧
      (c.d r.a0 1 1 = 0 → exec (.combinerLoad t r) s =
        After s ((c.onCe fun x => { x with progs := AMap.erase x.progs r.a2 }).ok id r.a2)))) ∧
  (∀ (t : Time) (r : Req) (s : State) (b : Block) (id a h : Nat), Starts 0x0406 r t s b id →
    let elems := r.u 32 8
    let bits := if (b.job (b.cmdJob r)).wide then 16 else 8
    let n := Resid.bytes bits elems (r.u 40 1)
    r.u 16 8 = 0 → r.u 24 4 = 0 → r.u 28 4 = 0 → elems ≠ 0 → elems ≤ 2 ^ 40 → 1 ≤ r.u 40 1 → r.u 40 1 ≤ 3 → r.u 41 23 = 0 →
    b.residBytes + n ≤ b.bm.residGib * 2 ^ 30 → 32 * 2 ^ 30 + b.memLost * frameB ≤ b.stagingSize → b.residPlace n = some a → AMap.freeKey b.ce.resids 0 (2 ^ 32 - 1) = some h →
    exec (.residualAlloc t r) s = After s (((b.zeroRange a n).onCe fun c => { c with
      resids := AMap.set c.resids h ⟨b.cmdJob r, elems, r.u 40 1, bits, a, n⟩ }).complete id ⟨St.ok, 0, 0, n, h + 2 ^ 32 * (a / 4096)⟩)) ∧
  (∀ (t : Time) (r : Req) (s : State) (b : Block) (id : Nat) (x : Resid), Starts 0x0407 r t s b id →
    r.u 16 8 = 0 → r.u 24 4 = 0 → r.u 32 32 = 0 → AMap.get? b.ce.resids r.a2 = some x → x.job = b.cmdJob r →
    (∀ e ∈ b.ce.colls, e.2.resid ≠ some r.a2) →
    exec (.residualFree t r) s = After s ((b.onCe fun c => { c with resids := AMap.erase c.resids r.a2 }).ok id x.size)) ∧
  (∀ (t : Time) (r : Req) (s : State) (b : Block) (id : Nat), Starts 0x0405 r t s b id →
    r.u 16 8 = 0 → r.u 24 4 = 0 → r.a2 < 4096 → r.u 32 32 = 0 →
    (∀ c, b.coll (Coll.keyOf (b.cmdJob r) r.a2) = some c → exec (.collQuery t r) s = After s (b.ok id c.handled.length)) ∧
    (b.coll (Coll.keyOf (b.cmdJob r) r.a2) = none → AMap.get? b.ce.fin (Coll.keyOf (b.cmdJob r) r.a2) = none →
      exec (.collQuery t r) s = After s (b.done id St.state 3))) ∧
  ∀ (t : Time) (r : Req) (s : State) (b : Block) (id : Nat) (x : CollStats), Starts 0x0903 r t s b id →
    r.a0 % 64 = 0 → r.a0 + r.a1 ≤ 0x6000000000 → 128 ≤ r.a1 → r.a2 < 4096 → r.u 32 32 = 0 → b.coll (Coll.keyOf (b.cmdJob r) r.a2) = none →
    AMap.get? b.ce.stats (Coll.keyOf (b.cmdJob r) r.a2) = some x →
    exec (.statsRead t r) s = After s ((b.dxWrite r.a0 x.record).ok id 128) ∧ x.record.length = 128

/-- Collectives (R136 to R138, R140 to R146, R150, R154, R155, R160): COLL_START makes the collective of its descriptor, makes ready what waits
for nothing and applies what came early; COLL_ABORT ends it with the number of its tiles not handled; a chunk is taken when a context may be
had, and waits in the Eddy buffer when not; a waiting tile is dispatched while tokens last, over the line to the lane that admits it; a
draining collective whose segments are acknowledged ends OK when each digest it awaits has come and agrees. Completes: COLL_START, COLL_ABORT,
COLL_COMPLETE, TILE_PUT_RX, TILE_CONTEXT_ALLOC, CE_DISPATCH_SLOT. -/
def Obligations.CollectivesRun : Prop :=
  (∀ (t : Time) (r : Req) (s : State) (b : Block) (id : Nat), Starts 0x0402 r t s b id →
    let d := b.readCount r.a0 128
    let job := d.cmdJob r
    let key := Coll.keyOf job r.a2
    let c := d.collDesc id r
    r.a0 % 64 = 0 → r.a0 + 128 ≤ 0x6000000000 → r.a1 = 128 → r.a2 < 4096 → r.u 32 1 < 8 → r.u 33 3 = 0 → r.u 40 24 = 0 → d.collBad r.a0 job = none →
    d.coll key = none → (∀ e ∈ d.ce.colls, c.resid = none ∨ e.2.resid ≠ c.resid) → d.ce.colls.length < 4096 →
    exec (.collStart t r) s = After s ((((((d.onCe fun x => { x with
      colls := AMap.set x.colls key c, fin := AMap.erase x.fin key, stats := AMap.erase x.stats key }).count job 1 8 1).count job 1 (8 + c.op)
      1).readyAtOnce key).applyEarly job r.a2))) ∧
  (∀ (t : Time) (r : Req) (s : State) (b : Block) (id : Nat) (c : Coll), Starts 0x0403 r t s b id →
    let key := Coll.keyOf (b.cmdJob r) r.a2
    r.u 16 8 = 0 → r.u 24 4 = 0 → r.a2 < 4096 → r.u 32 32 = 0 → b.coll key = some c →
    (c.state ≠ 2 → exec (.collAbort t r) s = After s ((b.collFail key St.state 4 0 none).ok id (c.ntiles - c.handled.length))) ∧
    (c.state = 2 → exec (.collAbort t r) s = After s (b.done id St.state 2))) ∧
  (∀ (t : Time) (key : Nat) (c : Coll) (s : State), let b := s.blk.tick t
    b.worksBm 28 = true → b.coll key = some c → c.state = 2 →
    (b.unacked c.id = false → (∀ k ∈ c.awaits, AMap.get? c.told k = some (if k = 0 then c.digA else c.digB)) → exec (.collComplete t key) s = After s (b.collEnd key St.ok 0 0)) ∧
    (b.unacked c.id = true → exec (.collComplete t key) s = After s b)) ∧
  (∀ (t : Time) (sel : Nat) (p : FabPkt) (s : State), let b := s.blk.tick t
    b.worksBm 28 = true → b.pickGot sel (fun p => p.opcode == 0x20#8) = some p →
    (∀ b', b.ce.wait.any (Chunk.same p) = false → b.tilePut p = some b' → exec (.tilePutRx t sel) s = After s (b'.dropGot sel)) ∧
    (b.ce.wait.any (Chunk.same p) = true ∨ b.tilePut p = none → exec (.tilePutRx t sel) s =
      After s ((b.onCe fun c => { c with wait := c.wait ++ [p] }).onFif fun f => { f with got := Bits.removeAt f.got sel }))) ∧
  (∀ (t : Time) (p : FabPkt) (ps : List FabPkt) (b' : Block) (s : State), let b := s.blk.tick t
    b.worksBm 28 = true → b.ce.wait = p :: ps → b.tilePut p = some b' →
    exec (.tileContextAlloc t) s = After s (b'.onCe fun c => { c with wait := ps.filter (c.wait.contains ·) })) ∧
  ∀ (t : Time) (i : CeItem) (s : State), let b := s.blk.tick t
    let cost := Ce.cost (b.itemBytes i) (b.ce.cost % 2 ^ 16)
    let both := if b.cxForced then cost else Ce.cost (b.itemBytes i) (b.ce.cost % 2 ^ 16 + b.ce.cost / 2 ^ 16)
    b.worksBm 28 = true → b.ce.items = [i] → i.prio ≤ 7 → b.engStopped (i.coll / 4096) 3 = false → (b.ce.half = none ∨ b.wideUp i ≠ b.ce.half) →
    (Edge.kind i.edge ≠ 1 → cost ≤ b.ce.tok + i.saved → exec (.ceDispatchSlot t) s = After s (b.dispatch i none false cost)) ∧
    ∀ lane, Edge.kind i.edge = 1 → b.admitLane (b.itemBytes i) = some lane → both ≤ b.ce.tok + i.saved →
      exec (.ceDispatchSlot t) s = After s (b.dispatch i (some lane) false both)

/-- What reaches or ends a running collective (R143, R145, R148, R149, R155 to R158, R475): a partial or a result from the line meets its
tile, or waits; a DIGEST is kept and sent on, an ABORT ends the collective with its status; a DIGEST that is overdue ends it TIMEOUT with
DETAIL 1, and a tile past its deadline ends it TIMEOUT with its line class, or LINK_DOWN when a peer it waits on has no path; early states
past their time are discarded whole and counted; contexts that have waited go to memory, and come back with what was held for them.
All-to-all (R152, R153): a contributor's data for a rank of this site is delivered there and noted, for another site it is sent there; data
from another site is delivered and counted under its origin, or forwarded by ROUTE; the total that a site announces is kept, or forwarded when
it is for another site. That TILE of A2A_END names the site is the model's choice (log entry 72). Completes: COLL_LINE_MSG_RX,
EARLY_STATE_EXPIRY, DIGEST_RX, ABORT_RX, DIGEST_WAIT_TIMEOUT, TILE_DEADLINE_EXPIRY, TILE_CONTEXT_PAGE_OUT, TILE_CONTEXT_PAGE_IN, A2A_PUT_RX,
A2A_DATA_RX, A2A_END_RX. -/
def Obligations.CollectiveEventsAndAllToAll : Prop :=
  (
  (∀ (t : Time) (sel : Nat) (x : InMsg) (m : CollMsg) (s : State), let b := s.blk.tick t
    b.worksBm 28 = true → b.pickIn sel InMsg.collData = some x → x.msg = .coll m →
    (∀ b', b.lineTile x m = some b' → exec (.collLineMsgRx t sel) s =
      After s (if b.coll (Coll.keyOf (m.job.toNat % 1024) (m.collId.toNat % 4096)) = none then b'.keepIn sel else b'.dropIn sel)) ∧
    (b.lineTile x m = none → exec (.collLineMsgRx t sel) s = After s (b.holdIn sel))) ∧
  (∀ (t : Time) (s : State), let b := s.blk.tick t
    let due (e : Early) : Bool := b.ce.early.any fun x =>
      x.job == e.job && x.cid == e.cid && x.tile == e.tile && decide (x.at_ + b.earlyTmo e.job ≤ b.now)
    let gone := b.ce.early.filter due
    b.worksBm 28 = true → exec (.earlyStateExpiry t) s = After s ((gone.filterMap (·.line)).foldl (fun d x => d.freeInBuf x)
      ((b.bumpN R.ceEarlyDrop ((gone.map fun e => (e.job, e.cid, e.tile)).eraseDups).length).onCe fun c => { c with
        early := c.early.filter fun e => !due e }))) ∧
  (∀ (t : Time) (src : EdgeMsg) (key : Nat) (c : Coll) (m : CollMsg) (line : Bool) (who : Nat) (s : State), let b := s.blk.tick t
    let k := m.flags.toNat % 2
    b.worksBm 28 = true →
    (∀ o, b.collSrc src 5 = some (key, c, m, line, who) → (c.tree k).origin line who = some o →
      exec (.digestRx t src) s = After s ((b.takeSrc src 5).digestIn key c k o (m.tile.toNat % 2 ^ 24) m.aux.toNat)) ∧
    (b.collSrc src 6 = some (key, c, m, line, who) →
      exec (.abortRx t src) s =
        After s ((b.takeSrc src 6).collFail key (m.aux.toNat % 2 ^ 16) (m.aux.toNat / 2 ^ 16 % 2 ^ 16) 0 (c.edgeOf line who)))) ∧
  (∀ (t : Time) (key : Nat) (c : Coll) (s : State), let b := s.blk.tick t
    b.worksBm 28 = true → b.ce.colls = [(key, c)] → c.state = 2 → c.latest < b.now → (∃ k ∈ c.awaits, AMap.get? c.told k = none) →
    exec (.digestWaitTimeout t) s = After s (b.collFail key St.timeout 1 0 none)) ∧
  (∀ (t : Time) (key : Nat) (c : Coll) (s : State), let b := s.blk.tick t
    b.worksBm 28 = true → b.ce.colls = [(key, c)] →
    (∀ tile x, c.late b.now = some (tile, x) → (∀ g ∈ b.waitsOn key c tile x, g ∉ b.noPath) →
      exec (.tileDeadlineExpiry t) s = After s (b.tileFail key tile St.timeout (c.cls (c.treeNo tile)))) ∧
    (∀ tile x g, c.late b.now = some (tile, x) → (b.waitsOn key c tile x).find? (b.noPath.contains ·) = some g →
      exec (.tileDeadlineExpiry t) s = After s ((b.bump R.ceTimeoutCnt).tileFail key tile St.linkDown (g / 4096))) ∧
    (c.late b.now = none → c.localMs = 0 → exec (.tileDeadlineExpiry t) s = After s b)) ∧
  (∀ (t : Time) (s : State), let b := s.blk.tick t
    b.worksBm 28 = true →
    (b.pageableTiles = [] → exec (.tileContextPageOut t) s = After s (b.bump64 R.cePageoutLo 0)) ∧
    ∀ since key tile, b.pageableTiles = [(since, key, tile)] → b.fld R.cePageCtl 23 16 * 4096 < b.tileOnChip →
      exec (.tileContextPageOut t) s = After s ((b.pageTile key tile).bump64 R.cePageoutLo 1)) ∧
  ∀ (t : Time) (key tile : Nat) (c : Coll) (x : TileCtx) (s : State), let b := s.blk.tick t
    let d := b.bump64 R.cePageinLo 1
    let mine (h : PageHold) : Bool := h.key == key && h.tile == tile
    b.worksBm 28 = true → tile < 2 ^ 24 → b.coll key = some c → AMap.get? c.tiles tile = some x → x.paged = true →
    d.rangePoison (Ce.home x.ix) 256 = false →
    exec (.tileContextPageIn t (key * 2 ^ 24 + tile)) s =
      After s ((d.ce.held.filter mine).foldl (fun e h => e.applyHold h) ((d.modTile key tile fun x => { x with paged := false, since := d.now }).onCe
        fun c => { c with held := c.held.filter fun h => !mine h }))
  ) ∧ (
  (∀ (t : Time) (sel : Nat) (p : FabPkt) (c : Coll) (a : A2a) (s : State), let b := s.blk.tick t
    let key := Coll.keyOf p.job.toNat (p.addr.toNat / 2 ^ 36)
    b.worksBm 28 = true → b.pickGot sel (fun p => p.opcode == 0x22#8) = some p → b.coll key = some c → c.a2a = some a →
    p.srcRank.toNat ∈ c.contrib →
    (a.siteOf p.tag.toNat = some b.site → exec (.a2aPutRx t sel) s =
      After s (((b.dropGot sel).a2aDeliver c p.tag.toNat p.srcRank.toNat (p.addr.toNat % 2 ^ 36) p.payload).a2aNote key b.site p)) ∧
    ∀ site, a.siteOf p.tag.toNat = some site → site ≠ b.site →
      let sent := b.a2aSend key c (a.route.getD site 0) p.tag.toNat p.srcRank.toNat (p.addr.toNat % 2 ^ 36) p.payload none
      (∀ d, sent = some d → exec (.a2aPutRx t sel) s = After s (((d.dropGot sel).count c.job 1 17 p.payload.length).a2aNote key site p)) ∧
      (sent = none → exec (.a2aPutRx t sel) s = After s (b.a2aDecline c p.payload.length))) ∧
  (∀ (t : Time) (src : EdgeMsg) (key : Nat) (c : Coll) (m : CollMsg) (line : Bool) (who : Nat) (a : A2a) (s : State), let b := s.blk.tick t
    let off := m.tile.toNat + m.elems.toNat * 2 ^ 32
    let dst := m.aux.toNat % 2 ^ 24
    let from_ := m.aux.toNat / 2 ^ 24 % 2 ^ 24
    b.worksBm 28 = true → b.collSrc src 3 = some (key, c, m, line, who) → c.a2a = some a →
    (∀ o, a.siteOf dst = some b.site → a.siteOf from_ = some o →
      exec (.a2aDataRx t src) s = After s (((b.takeSrc src 3).a2aDeliver c dst from_ off m.body).modA2a key
        fun a => { a with got := AMap.set a.got o (AMap.getD a.got o 0 + m.body.length) })) ∧
    ∀ site, a.siteOf dst = some site → site ≠ b.site →
      let sent := b.a2aSend key c (a.route.getD site 0) dst from_ off m.body (b.srcBuf src)
      (∀ d, sent = some d → exec (.a2aDataRx t src) s = After s (d.keepSrc src)) ∧
      (sent = none → exec (.a2aDataRx t src) s = After s ((b.holdSrc src).a2aDecline c m.body.length))) ∧
  ∀ (t : Time) (src : EdgeMsg) (key : Nat) (c : Coll) (m : CollMsg) (line : Bool) (who : Nat) (a : A2a) (s : State), let b := s.blk.tick t
    let d := b.takeSrc src 4
    let site := m.tile.toNat % 16
    let edge := a.route.getD site 0
    b.worksBm 28 = true → b.collSrc src 4 = some (key, c, m, line, who) → c.a2a = some a →
    (site = d.site → exec (.a2aEndRx t src) s =
      After s (d.modA2a key fun a => { a with told := AMap.set a.told (m.origin.toNat / 4096) m.aux.toNat })) ∧
    (site ≠ d.site → exec (.a2aEndRx t src) s =
      After s (d.a2aEndSend c edge { d.collMsg c 4 0 edge site 0 m.aux.toNat [] with origin := m.origin }))
  )

/-! ## Compression, cipher, transport and scheduling (chapters 7 to 10) -/

/-- Compression (R205, R207, R210, R211, R213, R214): the head of a lane's queue enters the draught pass with an output buffer, if its job is not stopped there, while fewer
than three streams are in the lane; the oldest stream of a lane is sent on, or fails its owner when its input is poison; the first waiting
stream of an opened segment, of those whose job the buffer manager has not stopped at the CX (R392), is accepted by the lane with the fewest bytes, and the oldest stream of a lane is decoded. Completes:
CX_DRAUGHT_START, CX_STREAM_DONE, CX_DECODE_ACCEPT, CX_DECODE_DONE. -/
def Obligations.CompressionRuns : Prop :=
  (∀ (t : Time) (l h : Nat) (x : CxIn) (rest : List CxIn) (c : Block) (s : State), let b := s.blk.tick t
    b.worksBm 29 = true → l < 32 → (b.lane l).queue = x :: rest → b.engStopped x.job 4 = false →
    ((b.lane l).busy.length < 3 → b.takeQueued (Cx.outBytes x.raw.length) (Own.of x.job 4) (b.cxQueue x) (x.hdr.ckind != 3#8) = some (c, h) →
      exec (.cxDraughtStart t l) s = After s (c.setLane l ⟨rest, (b.lane l).busy ++ [(x, h)]⟩)) ∧
    (3 ≤ (b.lane l).busy.length → exec (.cxDraughtStart t l) s = After s b)) ∧
  (∀ (t : Time) (l h : Nat) (x : CxIn) (rest : List (CxIn × Nat)) (s : State), let b := s.blk.tick t
    let c := b.setLane l ⟨(b.lane l).queue, rest⟩
    b.worksBm 29 = true → l < 32 → (b.lane l).busy = (x, h) :: rest →
    (x.buf.any c.bufPoison = false → exec (.cxStreamDone t l) s = After s (c.cxSend x h)) ∧
    (x.buf.any c.bufPoison = true → exec (.cxStreamDone t l) s =
      After s (((((((c.dropOwner h (Own.of x.job 4)).freeOut x.buf x.job 4).bump R.cxInPoison).bump (R.cxDecErr 9)).cxTrace 3 x.job
        (x.hdr.collId.toNat % 4096) l 10 c.gw)).cxFail x))) ∧
  (∀ (t : Time) (k h ix : Nat) (rest : List Nat) (g : CxSeg) (m : CollMsg) (c : Block) (s : State), let b := s.blk.tick t
    let l := b.decLane
    let job := m.job.toNat % 1024
    b.worksBm 29 = true → (b.cx.segs.find? fun e => !e.2.wait.isEmpty && !b.decStopped e.2) = some (k, g) → g.wait = ix :: rest → g.msg ix = some m →
    b.decBytes l + m.body.length ≤ b.fld R.cxDqlimit 10 0 * 1024 →
    b.takeBuf (max 1 (min 49152 (Stream.total m.body))) (Own.of job 4) = some (c, h) →
    exec (.cxDecodeAccept t) s = After s (c.onCx fun x => { x with
      dec := AMap.set x.dec l (AMap.getD x.dec l [] ++ [⟨k, ix, m.body.length, h⟩])
      segs := AMap.set x.segs k { g with wait := rest, busy := g.busy ++ [ix], bufs := AMap.set g.bufs ix (h, job) } })) ∧
  ∀ (t : Time) (l : Nat) (d : CxDec) (rest : List CxDec) (g : CxSeg) (m : CollMsg) (s : State), let b := s.blk.tick t
    b.worksBm 29 = true → l < 32 → AMap.getD b.cx.dec l [] = d :: rest → AMap.get? b.cx.segs d.seg = some g → g.msg d.ix = some m →
    exec (.cxDecodeDone t l) s = After s ((b.onCx fun c => { c with dec := AMap.set c.dec l rest }).cxDecoded l d g m)

/-- Records and keys (R273, R274, R276, R279 to R282, R284 to R288, R357): the next record of the queue whose turn it is is sealed under the
transmit key of its peer slot, one whose data is poison fails, and one fails LENGTH_LIMIT beyond a limit of Table 10-3 or once the key has stalled for STALL_MS; a segment whose
records pass every check is opened and goes on, one that fails a check is answered by a NAK, one seen before is a replay or the duplicate of a
failover; a control slot of a bad length or channel is counted, and one that opens is delivered; KEY_ERASE erases its slots, unless an
alarm of the same moment aborts it, and REKEY starts a
rekey, the chain value it came from erased. Completes: CC_SEAL_RECORD, CC_OPEN_SEGMENT, KEY_STALL_EXPIRY, CTRL_SLOT_RX, KEY_ERASE, REKEY. -/
def Obligations.RecordsAndKeys : Prop :=
  (∀ (t : Time) (q : Nat) (s : State), let b := s.blk.tick t
    b.worksBm 30 = true →
    (∀ k m ms d h, b.coreTurn = some (true, q) → b.sealDead q = [] → b.sealKey q = some k → b.sealGrant q = some (m :: ms, d, h) →
      ((∀ x ∈ m :: ms, b.outPoison x = false) →
        exec (.ccSealRecord t q) s = After s (d.sealed q k (m :: ms) (Cc.seal k (Cc.slotOf q / 4) q b.gw m.peer ((m :: ms).map (·.msg))) h)) ∧
      ((∃ x ∈ m :: ms, b.outPoison x = true) → exec (.ccSealRecord t q) s = After s (b.sealPoison ((m :: ms).filter b.outPoison)))) ∧
    (b.coreTurn = some (true, q) → b.sealDead q ≠ [] → exec (.ccSealRecord t q) s = After s (b.sealFail (b.sealDead q))) ∧
    (b.coreTurn ≠ some (true, q) → exec (.ccSealRecord t q) s = After s b)) ∧
  (∀ (t : Time) (sel p : Nat) (g : Seg) (s : State), let b := s.blk.tick t
    let c := b.openTake sel g
    let seen (r : Rec) : Bool := (c.rxKeyOf r).any fun k => k.seen.contains r.rctr.toNat
    b.worksBm 30 = true → b.te.opening[sel]? = some (p, g) → b.coreTurn = some (false, sel) → g.recs ≠ [] →
    ((∀ n ∈ c.recChecks g 0 g.recs, n = 0) →
      (∀ d hs, (∀ r ∈ g.recs, seen r = false) → c.takeFar g.heads = some (d, hs) →
        exec (.ccOpenSegment t sel) s = After s ((g.recs.foldl (fun b r => b.recOpened r) d).cxSegment p g
          ((g.recs.flatMap fun r => (d.recMsgs r).map fun m => (⟨r.sender.toNat, g.job.toNat % 1024, g.cls.toNat % 8, p, 0, m, false, none⟩ : InMsg)).zipIdx.map
            fun e => { e.1 with buf := hs.getD e.2 none }))) ∧
      ((∀ r ∈ g.recs, seen r = true) → g.fo = true → exec (.ccOpenSegment t sel) s = After s ((c.rxMark p g).bump (R.tePFoDup p))) ∧
      ((∃ r ∈ g.recs, seen r = true) → g.fo = false ∨ (∃ r ∈ g.recs, seen r = false) → exec (.ccOpenSegment t sel) s = After s (c.bump (R.ccPReplay p)))) ∧
    ((∃ n ∈ c.recChecks g 0 g.recs, n ≠ 0) → exec (.ccOpenSegment t sel) s =
      After s ((((c.recChecks g 0 g.recs).filter (· != 0)).foldl (fun b k => b.bump (Cc.checkReg p k)) c).nakSeg p 4 1 0 (g.tryNo.toNat % 16) g.seq.toNat))) ∧
  (∀ (t : Time) (s : State), let b := s.blk.tick t
    b.worksBm 30 = true → exec (.keyStallExpiry t) s =
      After s ((((b.outq.map (·.queue)).eraseDups).filter fun q => b.stallOver (Cc.slotOf q)).foldl
        (fun d q => Block.sealFailAll q d.outq.length d) b)) ∧
  (∀ (t : Time) (p sender : Nat) (x : CtrlSlot) (before rest : List (Nat × Nat × CtrlSlot)) (s : State), let b := s.blk.tick t
    let c := b.onCc fun c => { c with slots := before ++ rest }
    b.worksBm 30 = true → p < 2 → b.cc.slots = before ++ (p, sender, x) :: rest → (∀ e ∈ before, e.1 ≠ p) →
    (Cc.slotOk x = false ∨ x.channel = 0 ∨ 2 < x.channel.toNat → exec (.ctrlSlotRx t p) s = After s (c.bump (R.ccPCtlErr p))) ∧
    ∀ k pt, Cc.slotOk x = true → 1 ≤ x.channel.toNat → x.channel.toNat ≤ 2 → c.slotKeys p x = [k] →
      Cc.slotOpen x k.key.key k.key.salt sender = some pt →
      exec (.ctrlSlotRx t p) s = After s ((c.slotUsed p k x).ctrlIn p x.channel.toNat true pt)) ∧
  (∀ (t : Time) (r : Req) (s : State) (b : Block) (id : Nat), Starts 0x0804 r t s b id →
    let slots := (List.range 8).filter fun s => Bits.bit r.a2 s
    r.u 16 8 = 0 → r.u 24 4 = 0 → r.a2 < 256 → r.u 32 32 = 0 → s.alarmAt t = false → b.sec.due ≠ some b.now →
    exec (.keyErase t r) s = After s ((b.eraseKeys slots).keyRun.ok id slots.length)) ∧
  ∀ (t : Time) (r : Req) (s : State) (b : Block) (id : Nat), Starts 0x0803 r t s b id →
    r.u 16 8 = 0 → r.u 24 4 = 0 → r.a2 < 8 → r.a2 % 2 = 0 → (b.peerOf (r.a2 / 4)).isSome → r.u 32 32 = 0 →
    (AMap.get? b.cc.rekeys r.a2 ≠ none → exec (.rekey t r) s = After s (b.done id St.busy 0)) ∧
    (AMap.get? b.cc.rekeys r.a2 = none → AMap.get? b.cc.tx r.a2 = none → exec (.rekey t r) s = After s (b.done id St.state 1)) ∧
    ∀ k, AMap.get? b.cc.rekeys r.a2 = none → AMap.get? b.cc.tx r.a2 = some k → exec (.rekey t r) s =
      After s (b.keyRun.onCc fun c => { c with tx := AMap.set c.tx r.a2 k.spent, rekeys := AMap.set c.rekeys r.a2 ⟨1, k.next (Cc.kind r.a2) b.now, k.epoch, some id⟩ })

/-- The rekey exchange (R286, R288): at CNT_LOG2 or AGE_S a rekey starts by itself; ANNOUNCE makes the receiver hold the next key and answer
READY; READY makes the sender seal under it, and ends the rekey of a control key with one RETIRE; once every record under the old data key is
released RETIRE goes out, the receiver drops the old key and answers, and RETIRE_ACK ends the rekey. Completes: REKEY_TRIGGER,
REKEY_ANNOUNCE_RX, REKEY_READY_RX, REKEY_RETIRE_SEND, REKEY_RETIRE_RX, REKEY_RETIRE_ACK_RX. -/
def Obligations.RekeyExchange : Prop :=
  (∀ (t : Time) (slot : Nat) (k : CcKey) (s : State), let b := s.blk.tick t
    b.worksBm 30 = true → AMap.get? b.cc.tx slot = some k → AMap.get? b.cc.rekeys slot = none → slot % 2 = 0 →
    (2 ^ b.fld R.ccRekeyCtl 31 27 ≤ k.rctr ∨ k.at_ + 8000000000 * b.fld R.ccRekeyCtl 26 21 ≤ b.now → exec (.rekeyTrigger t slot) s =
      After s (b.keyRun.onCc fun c => { c with tx := AMap.set c.tx slot k.spent, rekeys := AMap.set c.rekeys slot ⟨1, k.next (Cc.kind slot) b.now, k.epoch, none⟩ })) ∧
    (k.rctr < 2 ^ b.fld R.ccRekeyCtl 31 27 → b.now < k.at_ + 8000000000 * b.fld R.ccRekeyCtl 26 21 → exec (.rekeyTrigger t slot) s = After s b)) ∧
  (∀ (t : Time) (sel p slot epoch d : Nat) (c e : Block) (k : RxKey) (s : State), let b := s.blk.tick t
    b.worksBm 30 = true → b.takeRk sel 1 = some (c, p, slot, epoch) → c.rxSlotFor p slot = some d → (c.rxKeys d).getLast? = some k →
    (k.key.epoch = epoch → exec (.rekeyAnnounceRx t sel) s = After s (c.rkAnswer p 2 slot epoch)) ∧
    (k.key.epoch ≠ epoch → (k.key.epoch + 1) % 65536 = epoch → c.addRx d k.ex (k.key.next (Cc.kind slot) c.now) = some e →
      exec (.rekeyAnnounceRx t sel) s = After s ((e.keyRun.spendRx d epoch).rkAnswer p 2 slot epoch))) ∧
  (∀ (t : Time) (sel p slot epoch : Nat) (c : Block) (k : Rekey) (s : State), let b := s.blk.tick t
    b.worksBm 30 = true → b.takeRk sel 2 = some (c, p, slot, epoch) → AMap.get? c.cc.rekeys slot = some k → k.step = 1 → k.next.epoch = epoch →
    let now_ (rk : AMap Rekey) : Block := (c.ccSettle.onCc fun x => { x with
      tx := AMap.set x.tx slot { k.next with at_ := c.ccSettle.now, rctr := 0 }
      stall := AMap.erase x.stall slot
      rekeys := rk }).bump (R.ccPRekeyCnt (slot / 4))
    let told (e : Block) : Block := (k.cmd.map fun id => e.ok id epoch).getD e
    (slot % 4 = 0 → exec (.rekeyReadyRx t sel) s = After s (told (now_ (AMap.set c.ccSettle.cc.rekeys slot { k with step := 4, cmd := none })))) ∧
    (slot % 4 ≠ 0 → exec (.rekeyReadyRx t sel) s = After s (told ((now_ (AMap.erase c.ccSettle.cc.rekeys slot)).rkAnswer p 3 slot k.old)))) ∧
  (∀ (t : Time) (slot : Nat) (k : Rekey) (s : State), let b := s.blk.tick t
    b.worksBm 30 = true → AMap.get? b.cc.rekeys slot = some k → k.step = 4 →
    (b.keyReleased (slot / 4) k.old = true → exec (.rekeyRetireSend t slot) s =
      After s (b.onCc fun c => { c with rekeys := AMap.set c.rekeys slot { k with step := 5 } })) ∧
    (b.keyReleased (slot / 4) k.old = false → exec (.rekeyRetireSend t slot) s = After s b)) ∧
  (∀ (t : Time) (sel p slot epoch d : Nat) (c : Block) (k : RxKey) (s : State), let b := s.blk.tick t
    b.worksBm 30 = true → b.takeRk sel 3 = some (c, p, slot, epoch) → c.rxSlotFor p slot = some d → (c.rxKeys d).getLast? = some k → k.key.epoch ≠ epoch →
    exec (.rekeyRetireRx t sel) s =
      After s ((c.setRx d ((c.rxKeys d).filter fun x => x.key.epoch != epoch || k.ex != x.ex)).rkAnswer p 4 slot epoch)) ∧
  ∀ (t : Time) (sel p slot epoch : Nat) (c : Block) (k : Rekey) (s : State), let b := s.blk.tick t
    b.worksBm 30 = true → b.takeRk sel 4 = some (c, p, slot, epoch) → AMap.get? c.cc.rekeys slot = some k → k.step = 5 →
    (k.old = epoch → exec (.rekeyRetireAckRx t sel) s = After s (c.onCc fun x => { x with rekeys := AMap.erase x.rekeys slot })) ∧
    (k.old ≠ epoch → exec (.rekeyRetireAckRx t sel) s = After s c)

/-- Receiving and sending on the line (R218, R222, R223, R225 to R228, R237, R290): a port that is not up takes no units; a filler cell is
discarded; a unit with a bad header makes the TE hunt; a segment whose cells have all come is checked: a good retransmission waits to be opened,
a corrupt body is answered by a NAK, a duplicate is marked again, and one of another session is discarded; a receiver that hunts discards the
cells that no FIRST_CELL names; transport control with a bad CRC is counted, one of another version shows VER_BAD, a good one acts in its order;
the TE takes the management messages that it is given for a group frame, and one in
native mode carries the transport control of its members and the cells of the TE, once for each boundary. Completes:
SEGMENT_RX, TRANSPORT_CONTROL_RX, GROUP_FRAME_TX. -/
def Obligations.LineReceive : Prop :=
  (∀ (t : Time) (p : Nat) (s : State), let b := s.blk.tick t
    b.lineUp p = false → exec (.segmentRx t p ()) s = After s b) ∧
  (∀ (t : Time) (p : Nat) (s : State), let b := s.blk.tick t
    let cs := (b.tp p).cells
    b.worksBm 31 = true → p < 2 → b.lineUp p = true → b.locked = false →
    ((b.tp p).hunting = true → (Te.toFirst cs).2 = [] → exec (.segmentRx t p ()) s =
      After s ((b.huntCells p (Te.toFirst cs).1).modTp p fun x => { x with cells := [], hunting := true })) ∧
    ((b.tp p).hunting = false →
      (cs = [] → exec (.segmentRx t p ()) s = After s b) ∧
      (∀ rest, cs = .brk :: rest → exec (.segmentRx t p ()) s = After s ((b.modTp p fun x => { x with cells := rest }).hunt p 0)) ∧
      ∀ bs f rest, cs = .cell bs f :: rest →
        ((∀ x ∈ bs, x = 0#8) → exec (.segmentRx t p ()) s = After s (b.dropCells p 1)) ∧
        ((∃ x ∈ bs, x ≠ 0#8) → bs.head? = some 0#8 → exec (.segmentRx t p ()) s = After s ((b.dropCells p 1).hunt p 1)) ∧
        ∀ hd, bs.head? ≠ some 0#8 → (∃ x ∈ bs, x ≠ 0#8) → Te.unit 2 cs = some hd →
          let h := Seg.parse hd
          let n := Seg.cellsOf h.bodyLen.toNat
          (Crc.crc32c h.head ≠ h.hdrCrc ∨ Te.headOk h = false → exec (.segmentRx t p ()) s =
            After s (((b.bump (R.tePHdrErr p)).dropCells p 1).hunt p 1)) ∧
          ∀ unit, Crc.crc32c h.head = h.hdrCrc → Te.headOk h = true → Te.unit n cs = some unit →
            let g := Seg.parse unit
            let c := b.dropCells p n
            let d := c.segArrive p g
            let seq := g.seq.toNat
            (g.epoch.toNat ≠ (c.tp p).rxEpoch → exec (.segmentRx t p ()) s = After s (c.bump (R.tePHdrErr p))) ∧
            (g.epoch.toNat = (c.tp p).rxEpoch →
              (Crc.crc32c g.body ≠ g.bodyCrc → exec (.segmentRx t p ()) s =
                After s ((d.bump (R.tePBodyErr p)).nakSeg p 2 1 0 (g.tryNo.toNat % 16) seq)) ∧
              (Crc.crc32c g.body = g.bodyCrc → g.retx = true → g.fo = false → Te.lt seq (d.tp p).rxCum = false → seq ∉ (d.tp p).acc →
                exec (.segmentRx t p ()) s = After s (d.onTe fun t => { t with opening := t.opening ++ [(p, g)] })) ∧
              (Crc.crc32c g.body = g.bodyCrc → g.retx = true → seq ∈ (d.tp p).acc → Te.lt seq (d.tp p).rxCum = false →
                exec (.segmentRx t p ()) s = After s ((d.bump (R.tePRxDup p)).rxMark p g))))) ∧
  (∀ (t : Time) (p : Nat) (bs : List Byte) (rest : List (List Byte)) (s : State), let b := s.blk.tick t
    let c := b.modTp p fun x => { x with tcs := rest }
    let tc := TC.parse bs
    b.worksBm 31 = true → p < 2 → b.lfState p ≠ 0 → b.locked = false → (b.tp p).tcs = bs :: rest →
    (TC.crcOk bs = false → exec (.transportControlRx t p ()) s = After s (c.bump (R.tePTcErr p))) ∧
    (TC.crcOk bs = true → tc.version ≠ 1#8 → exec (.transportControlRx t p ()) s = After s (c.modTp p fun x => { x with verBad := true })) ∧
    (TC.crcOk bs = true → tc.version = 1#8 →
      let d := ((((c.tcSession p tc).tcTimes p tc).tcAcks p tc).rxSkip p (tc.sndLow.toNat % 2 ^ 48)).tcCredits p tc
      (tc.ctrl.channel = 0#8 → exec (.transportControlRx t p ()) s = After s d) ∧
      (tc.ctrl.channel ≠ 0#8 → exec (.transportControlRx t p ()) s =
        After s (d.onCc fun c => { c with slots := c.slots ++ [(p, tc.sender.toNat, tc.ctrl)] })))) ∧
  ∀ (t : Time) (x : GroupTx) (tcs : List TC) (cells : List Byte) (d : Block) (s : State), let b := s.blk.tick t
    let p := x.port
    let c := if x.mgmt = [] then b else Te.mgmtIn p x.mgmt b
    b.works (33 + p) = true → p < 2 → b.frozen 31 = false →
    (c.lfState p = 0 ∨ (c.lp p).sent = true → exec (.groupFrameTx t x) s = After s c) ∧
    (c.lfState p ≠ 0 → (c.lp p).sent = false → (Lf.pageSwitch p c).frozen 31 = false → Te.groupOut p (Lf.pageSwitch p c) = (tcs, cells, d) →
      d.bit (R.lfStat p) 5 = false → exec (.groupFrameTx t x) s = After s ((((d.framesOut p ((List.range 32).map fun m =>
        d.memFrame p m ((tcs[m]?.map TC.bytes).getD (List.replicate 512 0#8)) ((d.payloads p (d.thruByte p 0) 32 0 cells).getD m []))).modLp p
          fun x => { x with sent := true }).release p).lfRegs p))

/-- Timers of the line (R124, R232, R236, R237, R239): an attempt older than the timeout is due again, or has failed after the eighth; a
segment that has failed is abandoned and its owners learn the status; the receive credit is granted anew; SRTT is shown to the FWU in µs.
Failover and loss of path (R242 to R247): a port that leaves UP and SHRUNK carries no segments, and reports it; it carries them again once
it is up with a first sample; its map of accepted SEQs is kept for 10 s; 10 s without a path abandon every segment to the peer with
LINK_DOWN. Completes: RTO_EXPIRY, SEGMENT_ABANDON, RX_CREDIT_RECOMPUTE, FWU_RTT_UPDATE, PORT_UNUSABLE, PORT_USABLE, ACCEPT_MAP_EXPIRY,
NO_PATH_EXPIRY. -/
def Obligations.LineTimersAndFailover : Prop :=
  (
  (∀ (t : Time) (s : State), let b := s.blk.tick t
    b.worksBm 31 = true → (b.tp 1).usable = false → (b.tp 0).usable = true →
    exec (.rtoExpiry t) s =
      After s ((b.bumpN (R.tePRtoCnt 0) ((b.tp 0).segs.filter fun e => b.rtoLate 0 e.2).length).modTp 0 fun x =>
        { x with segs := x.segs.map fun (e : Nat × TxSeg) => if b.rtoLate 0 e.2 then (e.1, { e.2 with
          nak := none, due := decide (e.2.try_ < 8), again := true, failed := decide (8 ≤ e.2.try_) }) else e })) ∧
  (∀ (t : Time) (p seq : Nat) (g : TxSeg) (s : State), let b := s.blk.tick t
    b.worksBm 31 = true → p < 2 → AMap.get? (b.tp p).segs seq = some g →
    (g.failed = true → g.nak = none → exec (.segmentAbandon t p seq) s =
      After s (b.abandonSeg p seq g St.timeout g.cls)) ∧
    (g.failed = false → exec (.segmentAbandon t p seq) s = After s b)) ∧
  (∀ (t : Time) (s : State), let b := s.blk.tick t
    let low := b.fld R.teRxcredMin 15 0 * 65536
    let rest := b.poolCells - 7 * low
    b.worksBm 31 = true → exec (.rxCreditRecompute t) s = After s (b.gws.foldl (fun b g => b.modPr g fun r =>
      let total := Bits.sum (r.recent.drop 1)
      { r with
        grant := (List.range 8).map fun c => if c = 0 then 0 else low + (if total = 0 then rest / 7 else rest * r.recent.getD c 0 / total)
        recent := List.replicate 8 0 }) b)) ∧
  ∀ (t : Time) (s : State), let b := s.blk.tick t
    let live (p : Nat) : Bool := (b.tp p).sampled && (b.lfState p == 3 || b.lfState p == 4)
    let c := b.putN R.fwuRttA (if live 0 then (b.tp 0).srtt / 1000 else 0)
    b.worksBm 27 = true → b.worksBm 31 = true → exec (.fwuRttUpdate t) s = After s (c.putN R.fwuRttB (if live 1 then (b.tp 1).srtt / 1000 else 0))
  ) ∧ (
  (∀ (t : Time) (p : Nat) (s : State), let b := s.blk.tick t
    let peer := (b.peerOf p).getD 0
    let c := b.modTp p fun x => { x with usable := false, sampled := false, downAt := some b.now, hunting := true, carry := [] }
    let d := (c.event 0x0001 1 devJob 31 (Bits.leBytes 1 p ++ Bits.leBytes 2 peer)).teTrace 5 p 0 0 0
    b.worksBm 31 = true → p < 2 →
    ((b.tp p).usable = true → b.lineUp p = false → exec (.portUnusable t p) s =
      After s ((if d.samePeer && (d.tp (1 - p)).usable then d.failover p (1 - p) else d).pathCheck peer)) ∧
    ((b.tp p).usable = false ∨ b.lineUp p = true → exec (.portUnusable t p) s = After s b)) ∧
  (∀ (t : Time) (p peer : Nat) (s : State), let b := s.blk.tick t
    let c := b.modTp p fun x => TePort.dropMap { x with usable := true, downAt := none, segs := x.segs.map fun (e : Nat × TxSeg) =>
      if e.2.failed then e else (e.1, { e.2 with due := true, again := e.2.again && e.2.due }) }
    let d := (c.event 0x0002 0 devJob 31 (Bits.leBytes 1 p ++ Bits.leBytes 2 peer)).teTrace 4 p 0 0 0
    let e := if d.samePeer && !(d.tp (1 - p)).usable && !(d.tp (1 - p)).segs.isEmpty then d.failover (1 - p) p else d
    b.worksBm 31 = true → p < 2 → b.peerOf p = some peer → (b.tp p).usable = false →
    (b.lineUp p = true → (b.tp p).sampled = true → (b.tp p).verBad = false → b.locked = false → exec (.portUsable t p) s =
      After s (({ e with noPath := e.noPath.filter (· != peer) } : Block).modPr peer fun r => { r with noPathAt := none })) ∧
    ((b.tp p).sampled = false → exec (.portUsable t p) s = After s b)) ∧
  (∀ (t : Time) (p t0 : Nat) (s : State), let b := s.blk.tick t
    b.worksBm 31 = true → p < 2 → (b.tp p).usable = false → (b.tp p).downAt = some t0 →
    (t0 + 80000000000 ≤ b.now → exec (.acceptMapExpiry t p) s = After s (b.modTp p TePort.dropMap)) ∧
    (b.now < t0 + 80000000000 → exec (.acceptMapExpiry t p) s = After s b)) ∧
  ∀ (t : Time) (peer t0 : Nat) (s : State), let b := s.blk.tick t
    b.worksBm 31 = true → (b.pr peer).noPathAt = some t0 →
    (t0 + 80000000000 ≤ b.now → exec (.noPathExpiry t peer) s =
      After s ([0, 1].foldl (fun b p => b.abandon p (fun _ g => g.goesTo peer) St.linkDown (peer / 4096))
        ((b.bump R.teNopathCnt).modPr peer fun r => { r with noPathAt := none }))) ∧
    (b.now < t0 + 80000000000 → exec (.noPathExpiry t peer) s = After s b)
  )

/-- Scheduling (R264, R267 to R270, R272): JOB_RATE sets the weight of one queue, or rate, burst, weight, overhead and memory factor of an
aggregate, whose rise is refused when the line share or the memory share admitted would be passed; at each refill what the registers and
JOB_RATE have set comes into force, and every bucket gains its rate up to its burst; a scale factor that falls below 1 is reported with what it
is due to. Completes: JOB_RATE, BUCKET_REFILL, SCALE_FACTOR_UPDATE. -/
def Obligations.RatesAndBuckets : Prop :=
  (∀ (t : Time) (r : Req) (s : State) (b : Block) (id : Nat), Starts 0x0205 r t s b id →
    Req.firstBad (Ss.rateBad b r) = none →
    let a := 8 * b.cmdJob r + r.a2 % 8
    let n := 64 * a + Bits.fld r.a2 13 8
    let rate := r.u 32 4
    let old := b.agg a
    let c := b.modAgg a fun x => { x with
      rate := rate, burst := r.u 36 4, weight := r.u 40 4, ovh := Bits.toInt 16 (r.u 44 2), memf := r.u 46 2 }
    let rise := old.rate < rate ∨ old.memf < r.u 46 2
    let tooMuch := 6400000 * (b.slotPorts (Ss.slotOf a)).length * b.ss.force.line < 100 * c.admitSum (Ss.slotOf a)
    let tooMuchMem := 128000 * b.ss.force.mem < c.admitMem
    (Bits.bit r.a2 31 = true → exec (.jobRate t r) s =
      After s ((b.onSs fun s => { s with qw := AMap.set s.qw n (r.u 40 4, (b.qw n).2) }).ok id 0)) ∧
    (Bits.bit r.a2 31 = false → rise → tooMuch → exec (.jobRate t r) s = After s ((b.bump R.ssRefuseCnt).done id St.overcommit 1)) ∧
    (Bits.bit r.a2 31 = false → rise → ¬tooMuch → tooMuchMem → exec (.jobRate t r) s =
      After s ((b.bump R.ssRefuseCnt).done id St.overcommit 2)) ∧
    (Bits.bit r.a2 31 = false → ¬rise ∨ (¬tooMuch ∧ ¬tooMuchMem) → exec (.jobRate t r) s =
      After s ((Ss.scaleUpdate c).complete id ⟨St.ok, 0, 0, rate, rate * (Ss.scaleUpdate c).ss.f / 65536⟩))) ∧
  (∀ (t : Time) (s : State), let b := s.blk.tick t
    let c := (b.countStalls 0).countStalls 1
    b.worksBm 32 = true → exec (.bucketRefill t) s = After s (c.onSs fun s => { s with
      force := ⟨c.fld R.ssAdmitLine 6 0, c.fld R.ssAdmitMem 13 0, c.fld R.ssQlimit 18 0, [0, 1].map fun p => c.fld (R.ssPRate p) 22 0,
        [0, 1].map fun p => c.fld (R.ssPBurst p) 18 0, [0, 1].map fun p => Bits.toInt 11 (c.fld (R.ssPOvh p) 10 0),
        [0, 1].map fun p => c.fld (R.ssPC1Rate p) 22 0, [0, 1].map fun p => c.fld (R.ssPC1Burst p) 18 0⟩
      port := [0, 1].map fun p => min (s.port.getD p 0 + c.fld (R.ssPRate p) 22 0) (c.fld (R.ssPBurst p) 18 0 * 65536)
      c1 := [0, 1].map fun p => min (s.c1.getD p 0 + c.fld (R.ssPC1Rate p) 22 0) (c.fld (R.ssPC1Burst p) 18 0 * 65536)
      aggs := s.aggs.map fun (e : Nat × Agg) => (e.1, { e.2 with on := e.2.rate, tok := min (e.2.tok + (e.2.rate * s.f / 65536 : Nat)) (e.2.burst * 65536) }) })) ∧
  ∀ (t : Time) (f cause : Nat) (s : State), let b := s.blk.tick t
    let c := (b.putN R.ssScale ((if f < 65536 then 2 ^ 31 else 0) + Bits.ofBool (b.bit R.ssScale 30) * 2 ^ 30 + cause * 2 ^ 28 + f)).onSs fun s => { s with
      f := f, scaledTill := if b.ss.f < 65536 then some b.now else s.scaledTill }
    b.worksBm 32 = true → b.scaleNow = (f, cause) →
    (f < 65536 → b.ss.f = 65536 → exec (.scaleFactorUpdate t) s =
      After s ((c.setBits R.ssScale (2 ^ 30)).event 0x0005 1 devJob 32 (Bits.leBytes 4 f ++ Bits.leBytes 1 cause))) ∧
    (65536 ≤ f ∨ b.ss.f ≠ 65536 → exec (.scaleFactorUpdate t) s = After s c)

/-! ## Framing and optics (chapters 11 and 12) -/

/-- Configuration of a line port (R302, R305, R311 to R314, R320, R321, R329, R342): PORT_CONFIG acts on a DARK port only, and sets launch powers
with APPLY; MEMBER_SET provisions a member and lights it, or plans its removal, and joins a removal that is under way; SLOT_MAP fills the idle
page of a slotted port, PAGE_SWAP asks for the exchange, and the next group frame with MFI 0 that is sent makes it; DEFECT_CONFIG sets the three
defect registers. Completes: PORT_CONFIG, MEMBER_SET, SLOT_MAP, PAGE_SWAP, TSI_PAGE_SWITCH, DEFECT_CONFIG. -/
def Obligations.LineConfiguration : Prop :=
  (∀ (t : Time) (r : Req) (s : State) (b : Block) (id : Nat), Starts 0x0601 r t s b id →
    let p := r.a1
    let c := b.readCount r.a0 256
    let d := (((((c.modLp p fun x => { x with txTrace := c.dxBytes (r.a0 + 64) 64, expTrace := c.dxBytes (r.a0 + 128) 64 }).putBit (R.lfStat p) 5
      (c.dxN r.a0 1 == 1)).putN (R.lfGid p) (c.dxN (r.a0 + 4) 4)).putN (R.lfExpGid p) (c.dxN (r.a0 + 8) 4)).putN (R.lfProvMap p) (c.dxN (r.a0 + 12) 4))
    r.a0 % 64 = 0 → r.a0 + 256 ≤ 0x6000000000 → p < 2 → r.a2 = 0xFF → r.u 32 4 = 256 → r.u 36 28 = 0 →
    (b.lfState p ≠ 0 → exec (.portConfig t r) s = After s (b.done id St.state (b.lfState p))) ∧
    (∀ o, b.lfState p = 0 → c.portDescBad p r.a0 = some o → exec (.portConfig t r) s = After s (c.badDesc id o)) ∧
    (b.lfState p = 0 → c.portDescBad p r.a0 = none → Bits.bit (c.dxN (r.a0 + 226) 1) 0 = false →
      exec (.portConfig t r) s = After s ((d.lfRegs p).ok id 0)) ∧
    (b.lfState p = 0 → c.portDescBad p r.a0 = none → Bits.bit (c.dxN (r.a0 + 226) 1) 0 = true →
      exec (.portConfig t r) s = After s ((((List.range 32).foldl
        (fun e k => e.putFld (R.loMLaunch p k) 15 0 (Bits.ofInt 16 (Bits.toInt 8 (e.dxN (r.a0 + 192 + k) 1))))
        (d.modLo p fun x => { x with totMax := Bits.toInt 16 (d.dxN (r.a0 + 224) 2) })).lfRegs p).ok id 0))) ∧
  (∀ (t : Time) (r : Req) (s : State) (b : Block) (id : Nat), Starts 0x0602 r t s b id →
    let p := r.a1
    let k := r.a2
    let c := b.putN (R.lfProvMap p) (Nat.lor (b.regN (R.lfProvMap p)) (2 ^ k))
    r.u 16 8 = 0 → p < 2 → k < 32 → r.u 33 31 = 0 →
    (r.u 32 1 = 0 → b.prov p k = false → exec (.memberSet t r) s = After s (b.ok id (Lf.count (b.regN (R.lfTxMap p))))) ∧
    (r.u 32 1 = 0 → b.prov p k = true → (b.lm p k).plan ≠ 1 → (b.lm p k).plan ≠ 2 → b.planOk p k = false → exec (.memberSet t r) s =
      After s ((b.bump (R.lfPlanRefuseCnt p)).done id St.state ((b.bump (R.lfPlanRefuseCnt p)).lfState p))) ∧
    (r.u 32 1 = 0 → b.prov p k = true → (b.lm p k).plan = 1 ∨ (b.lm p k).plan = 2 →
      let d := (b.modLm p k fun x => { x with planBy := 1 }).modLp p fun x => { x with drops := x.drops ++ [(id, k)] }
      exec (.memberSet t r) s = After s (if (d.lm p k).freed then d.memRemoved p k else d)) ∧
    (r.u 32 1 = 0 → b.prov p k = true → (b.lm p k).plan ≠ 1 → (b.lm p k).plan ≠ 2 → b.planOk p k = true → exec (.memberSet t r) s =
      After s ((((b.modLm p k fun x => { x with plan := 1, planBy := 1, back := none, degOff := true }).pmCur p k fun s => { s with planned := true }).lfRegs p).modLp p fun x =>
        { x with drops := x.drops ++ [(id, k)] })) ∧
    (r.u 32 1 = 1 → b.prov p k = true → exec (.memberSet t r) s = After s (b.ok id (Lf.count (b.regN (R.lfTxMap p))))) ∧
    (r.u 32 1 = 1 → b.prov p k = false → exec (.memberSet t r) s =
      After s ((c.setLit p k (c.litNow p k)).modLp p fun x => { x with adds := x.adds ++ [(id, k, b.now)] }))) ∧
  (∀ (t : Time) (r : Req) (s : State) (b : Block) (id : Nat), Starts 0x0603 r t s b id →
    let p := r.a1
    let c := b.readCount r.a0 5120
    let page := (List.range 2560).map fun i => c.dxN (r.a0 + 2 * i) 2
    let idle := 1 - c.fld (R.lfTsiStat p) 30 30
    r.a0 % 64 = 0 → r.a0 + 5120 ≤ 0x6000000000 → p < 2 → r.a2 = 0xFF → r.u 32 4 = 5120 → r.u 36 28 = 0 →
    (c.bit (R.lfStat p) 5 = false → exec (.slotMap t r) s = After s (c.done id St.state (c.lfState p))) ∧
    (c.bit (R.lfStat p) 5 = true → (c.lp p).swap ≠ none → exec (.slotMap t r) s = After s (c.done id St.busy 0)) ∧
    (c.bit (R.lfStat p) 5 = true → (c.lp p).swap = none → Lf.pageBad (c.bit (R.lfStat (1 - p)) 5) page = none → exec (.slotMap t r) s =
      After s ((c.modLp p fun x => { x with mapped := true, pages := if idle = 0 then (page, x.pages.2) else (x.pages.1, page) }).ok id 0))) ∧
  (∀ (t : Time) (r : Req) (s : State) (b : Block) (id : Nat), Starts 0x0604 r t s b id →
    let p := r.a1
    r.u 16 8 = 0 → p < 2 → r.a2 = 0xFF → r.u 32 32 = 0 →
    ((b.lp p).mapped = false ∨ b.bit (R.lfStat p) 5 = false → exec (.pageSwap t r) s = After s (b.done id St.state (b.lfState p))) ∧
    ((b.lp p).mapped = true → b.bit (R.lfStat p) 5 = true → (b.lp p).swap ≠ none → exec (.pageSwap t r) s = After s (b.done id St.busy 0)) ∧
    ((b.lp p).mapped = true → b.bit (R.lfStat p) 5 = true → (b.lp p).swap = none → exec (.pageSwap t r) s =
      After s ((b.modLp p fun x => { x with swap := some id }).putBit (R.lfTsiStat p) 31 true))) ∧
  (∀ (t : Time) (p id : Nat) (s : State), let b := s.blk.tick t
    let k := 1 - b.fld (R.lfTsiStat p) 30 30
    let c := b.modLp p fun x => { x with swap := none, rxWait := true, swapAt := b.regN (R.lfMfc p) }
    b.works (33 + p) = true → p < 2 → (b.lp p).swap = some id →
    ((b.lp p).mfi = 0 → (b.lp p).sent = false → b.lfState p ≠ 0 → exec (.tsiPageSwitch t p) s =
      After s ((c.putN (R.lfTsiStat p) (k * 2 ^ 30 + Lf.cellSlots ((c.lp p).page k))).ok id (b.regN (R.lfMfc p)))) ∧
    ((b.lp p).mfi ≠ 0 ∨ (b.lp p).sent = true → exec (.tsiPageSwitch t p) s = After s b)) ∧
  ∀ (t : Time) (r : Req) (s : State) (b : Block) (id : Nat), Starts 0x0606 r t s b id →
    let p := r.a1
    r.u 16 8 = 0 → p < 2 → r.a2 = 0xFF → Lf.degOk (r.u 32 4) = true → r.u 36 4 < 4 → Lf.grpOk (r.u 40 4) = true → r.u 44 20 = 0 →
    exec (.defectConfig t r) s = After s (((((b.putN (R.lfDegCfg p) (r.u 32 4)).putN (R.lfDefCfg p) (r.u 36 4)).putN (R.lfGrpCfg p) (r.u 40 4)).degRestart p).ok id 0)

/-- Member frames, defects and planned removals (R290 to R309, R321, R326, R327): the symbols of a member whose DSP is locked become codewords,
frames and group frames; at a boundary what was configured comes into force, the next group frame is numbered, the maps and the state follow
and additions complete; a defect is entered when its criterion holds and left when its exit criterion does, that of LOS by the LO's report; a
removal that a calibration asks for is granted or refused; 10 s after its return a member leaves PLAN_MAP, and an addition of 10 s completes
TIMEOUT. Completes: MEMBER_FRAME_RX, GROUP_FRAME_BOUNDARY, DEFECT_ENTRY, DEFECT_EXIT, PLANNED_REMOVAL_REQUEST, PLAN_MAP_CLEAR_EXPIRY,
MEMBER_ADD_TIMEOUT. -/
def Obligations.FramingEvents : Prop :=
  (∀ (t : Time) (p m : Nat) (syms : List Symbol) (s : State), let b := s.blk.tick t
    let c := b.symbolsIn p m syms
    b.works (33 + p) = true → p < 2 → m < 32 →
    (b.lfState p = 0 ∨ b.bit (R.loMStat p m) 30 = false → exec (.memberFrameRx t p m syms) s = After s b) ∧
    (b.lfState p ≠ 0 → b.bit (R.loMStat p m) 30 = true → exec (.memberFrameRx t p m syms) s =
      After s ((c.deframe p m ((c.lm p m).stream.length / 16384 + 2)).assemble p 32))) ∧
  (∀ (t : Time) (p : Nat) (s : State), let b := s.blk.tick t
    let d := (b.latch p).modLp p fun x => { x with justIn := 0 }
    let c := ((((d.assemble p 32).logTimes p).nextFrame p).maps p).lfStep p
    b.works (33 + p) = true → p < 2 →
    (b.lfState p = 0 → b.lineServed p = false → exec (.groupFrameBoundary t p) s = After s d) ∧
    (b.lfState p ≠ 0 → c.lfState p = 0 → exec (.groupFrameBoundary t p) s = After s c) ∧
    (b.lfState p ≠ 0 → c.lfState p ≠ 0 → exec (.groupFrameBoundary t p) s =
      After s (((c.putN (R.lfTxMap p) (c.txMapNow p)).lfRegs p).addsDone p))) ∧
  (∀ (t : Time) (p m bit : Nat) (rep : Option LosReport) (s : State), let b := s.blk.tick t
    let seen := b.losTake p m bit rep
    b.works (33 + p) = true → p < 2 → b.lfState p ≠ 0 → m < 32 → bit < 9 →
    (b.bit (R.lfMDef p m) bit = false → b.defIn p m bit rep = true → exec (.defectEntry t p m ⟨bit, rep⟩) s =
      After s ((seen.enterDef p m bit).logTimes p)) ∧
    (b.bit (R.lfMDef p m) bit = true ∨ b.defIn p m bit rep = false → exec (.defectEntry t p m ⟨bit, rep⟩) s = After s seen) ∧
    (b.bit (R.lfMDef p m) bit = true → b.defOut p m bit rep = true → b.defIn p m bit rep = false → exec (.defectExit t p m ⟨bit, rep⟩) s =
      After s (((seen.putBit (R.lfMDef p m) bit false).lfTrace 3 p m bit).logTimes p)) ∧
    (b.bit (R.lfMDef p m) bit = false ∨ b.defOut p m bit rep = false → exec (.defectExit t p m ⟨bit, rep⟩) s = After s seen)) ∧
  (∀ (t : Time) (p : Nat) (rep : Option LosReport) (s : State), let b := s.blk.tick t
    b.works (33 + p) = true → p < 2 → b.lfState p ≠ 0 →
    (b.bit (R.lfGdef p) 0 = false → Lf.past b.now 80000 (b.lp p).logAt = true → b.bit (R.lfDefIrq p) 0 = false →
      exec (.defectEntry t p 32 ⟨0, rep⟩) s = After s (((b.setBits (R.lfGdefSticky p) 1).lfTrace 2 p 0xFF 0).enterLog p)) ∧
    (b.bit (R.lfGdef p) 0 = true → Lf.past b.now 8000000 (b.lp p).logOk = true →
      exec (.defectExit t p 32 ⟨0, rep⟩) s = After s ((b.putBit (R.lfGdef p) 0 false).lfTrace 3 p 0xFF 0))) ∧
  (∀ (t : Time) (p m : Nat) (c : Cal) (s : State), let b := s.blk.tick t
    let d := ((b.modLm p m fun x => { x with plan := 1, planBy := 0, back := none, degOff := true }).pmCur p m fun s => { s with planned := true }).lfRegs p
    b.works (33 + p) = true → p < 2 → (b.lo1 p).cal = some c → c.mem = m → c.phase = 0 →
    let own := (b.lm p m).plan ≠ 0 ∧ (b.lm p m).planBy = 1
    (own → exec (.plannedRemovalRequest t p m) s = After s (b.modLo p fun y => { y with cal := none })) ∧
    (¬own → b.planOk p m = true → exec (.plannedRemovalRequest t p m) s =
      After s (d.modLo p fun y => { y with cal := some { c with phase := 1, since := d.now } })) ∧
    (¬own → b.planOk p m = false → 7 ≤ c.refuse → exec (.plannedRemovalRequest t p m) s =
      After s (((((b.bump (R.lfPlanRefuseCnt p)).bump (R.loCalSkipCnt p)).tally (26 + p) 1).loSticky p 3).modLo p fun y => { y with cal := none })) ∧
    (¬own → b.planOk p m = false → c.refuse < 7 → exec (.plannedRemovalRequest t p m) s =
      After s ((b.bump (R.lfPlanRefuseCnt p)).modLo p fun y => { y with cal := some { c with phase := 4, refuse := c.refuse + 1, since := b.now } }))) ∧
  (∀ (t t0 : Time) (p m : Nat) (s : State), let b := s.blk.tick t
    b.works (33 + p) = true → p < 2 → (b.lm p m).plan = 3 → (b.lm p m).back = some t0 →
    (t0 + tenSec ≤ b.now → exec (.planMapClearExpiry t p m) s =
      After s ((b.modLm p m fun x => { x with plan := 0, back := none }).lfRegs p)) ∧
    (b.now < t0 + tenSec → exec (.planMapClearExpiry t p m) s = After s b)) ∧
  ∀ (t : Time) (p id k t0 : Nat) (s : State), let b := s.blk.tick t
    b.works (33 + p) = true → p < 2 → (b.lp p).adds = [(id, k, t0)] → t0 + tenSec ≤ b.now →
    exec (.memberAddTimeout t p) s = After s ((b.modLp p fun x => { x with adds := [] }).done id St.timeout 0)

/-- Performance monitoring (R315 to R319, R327): a second of each object ends when the second of TU time has moved on; bins start at
multiples of 900 s and 86,400 s; a report of the LO counts each member and gives the group the worst error rate; PM_READ writes the records
selected. Completes: PM_SECOND, PM_BIN_ROLLOVER, LO_SECOND_REPORT, PM_READ. -/
def Obligations.PerformanceMonitoring : Prop :=
  (∀ (t : Time) (s : State), let b := s.blk.tick t
    b.pcr.phase = 4 → exec (.pmSecond t) s =
      After s (([0, 1].filter fun p => !b.frozen (33 + p)).foldl (fun b p => (List.range 33).foldl (Block.pmSec p) b) b)) ∧
  (∀ (b : Block) (p o : Nat), (b.pm p o).cur.sec = b.tuSec → b.pmSec p o = b) ∧
  (∀ (t : Time) (s : State), let b := s.blk.tick t
    b.pcr.phase = 4 → exec (.pmBinRollover t) s = After s (([0, 1].filter fun p => !b.frozen (33 + p)).foldl (fun b p =>
      (List.range 33).foldl (fun b o => b.modPm p o (PmObj.roll (b.tuSec / 900 * 900) (b.tuSec / 86400 * 86400))) b) b)) ∧
  (∀ (x : PmObj) (s15 s24 : Nat), (x.roll s15 s24).c15.start = s15 ∧ (x.roll s15 s24).c24.start = s24) ∧
  (∀ (t : Time) (p : Nat) (s : State), let b := s.blk.tick t
    let c := (List.range 32).foldl (Block.reportMember p) b
    let mine := ((List.range 32).filter fun m => Bits.bit (b.regN (R.lfRxMap p)) m).map (b.secCounts p)
    b.works (33 + p) = true → p < 2 → exec (.loSecondReport t p ()) s =
      After s ((c.pmCur p 32 fun x => { x with corr := x.corr + Bits.sum (mine.map Prod.fst), ber := Pm.worst (mine.map Pm.rate) }).modLo p fun x =>
        { x with rx := x.rx.map fun (e : Nat × MemRx) => (e.1, { e.2 with corr := 0, code := 0 }) })) ∧
  ∀ (t : Time) (r : Req) (s : State) (b : Block) (id : Nat), Starts 0x0902 r t s b id →
    let recs := (((List.range 33).filter fun o => Bits.bit (r.u 32 8) o).map fun o => (b.pm r.a2 o).records r.a2 o (r.u 40 1)).flatten
    r.a0 % 64 = 0 → r.a0 + r.a1 ≤ 0x6000000000 → 64 * recs.length ≤ r.a1 → r.a2 < 2 → r.u 32 8 < 2 ^ 33 → r.u 40 1 < 16 → r.u 41 23 = 0 →
    exec (.pmRead t r) s = After s ((b.dxWrite r.a0 recs.flatten).ok id recs.length)

/-- Comb lasers and eye safety (R322, R323, R328 to R331, R345 to R349): COMB_SWITCH to the active laser completes at once; no
laser comes up while FUNC_DISABLE drains a port whose lasers are off (its COMB_SWITCH then ends STATE 0: log entry 101); a bring-up begins,
and ends with its laser active, or FAILED when a step was late, a line is missing or the lines are off the plan; the loss of the comb state
begins one re-acquisition of 120 ms, which ends with all 32 lines usable; without it, or after 1 s with too few lines, the other laser comes up;
no light for DWELL_MS or a reflection for 10 ms shuts the port down, a probe lasts 2 s and power seen for 100 ms ends the shutdown; each hour the
active laser's bias is recorded. That a probe also begins when power is first seen is log entry 85. Completes: COMB_SWITCH, COMB_BRING_UP,
COMB_BRING_UP_DONE, COMB_STATE_LOSS, COMB_REACQUIRED, COMB_AUTO_SWITCH, LINES_LOW_EXPIRY, COMB_LINE_CHECK, EYE_SAFETY_SHUTDOWN, SAFE_PROBE,
SAFE_PROBE_END, AGEING_HOURLY. -/
def Obligations.CombLasersAndEyeSafety : Prop :=
  (∀ (t : Time) (r : Req) (s : State) (b : Block) (id : Nat), Starts 0x0607 r t s b id →
    let p := r.a1
    let k := if r.u 32 1 = 1 then 1 else 2
    r.u 16 8 = 0 → p < 2 → r.a2 = 0xFF → r.u 32 1 < 2 → r.u 33 31 = 0 →
    (b.combActive p = k → exec (.combSwitch t r) s = After s (b.ok id 0)) ∧
    (b.combActive p ≠ k → b.lfState p = 0 → exec (.combSwitch t r) s = After s ((b.modLo p fun x => { x with target := k, picked := true }).ok id 0)) ∧
    (b.combActive p ≠ k → b.lfState p ≠ 0 → b.switching p = true → exec (.combSwitch t r) s = After s (b.done id St.busy 0)) ∧
    (b.combActive p ≠ k → b.lfState p ≠ 0 → b.switching p = false → b.funcMode (0x200 + p) = 1 ∨ b.combActive p ≠ 0 ∨ (b.lo1 p).bring ≠ none →
      exec (.combSwitch t r) s = After s ((b.modLo p fun x => { x with target := 3 - k }).bringUp p k (some id) false)) ∧
    (b.combActive p = 0 → b.lfState p ≠ 0 → b.switching p = false → b.funcMode (0x200 + p) ≠ 1 → (b.lo1 p).bring = none →
      exec (.combSwitch t r) s = After s (b.done id St.state 0))) ∧
  (∀ (t : Time) (p : Nat) (s : State), let b := s.blk.tick t
    b.pcr.phase = 4 → p < 2 → b.cpOut (6 + p) = false →
    let x := b.lo1 p
    let k := if b.laser p x.target = 2 ∧ x.picked = false then 3 - x.target else x.target
    (b.lfState p ≠ 0 → b.funcMode (0x200 + p) = 1 → b.combActive p = 0 → x.bring = none → b.laser p k ≠ 2 ∨ x.picked = true →
      exec (.combBringUp t p) s = After s (b.bringUp p k none false)) ∧
    (b.combActive p ≠ 0 ∨ b.funcMode (0x200 + p) ≠ 1 → exec (.combBringUp t p) s = After s b)) ∧
  (∀ (t : Time) (p : Nat) (x : BringUp) (g : Bring) (s : State), let b := s.blk.tick t
    let good := (∀ i, i < 7 → ∃ e, x.ends[i]? = some e ∧ e ≤ [300, 350, 450, 470, 570, 634, 644].getD i 0 * ms) ∧
      LineScan.usable x.comb.scan = 0xFFFFFFFF ∧ Lo.onPlan x.comb.freq = true ∧ b.now ≤ g.since + 645 * ms
    b.pcr.phase = 4 → p < 2 → b.cpOut (6 + p) = false → (b.lo1 p).bring = some g →
    (¬good → exec (.combBringUpDone t p x.ends x.comb x.rings x.bias) s = After s (b.bringFail p g)) ∧
    (good → g.cmd = none → exec (.combBringUpDone t p x.ends x.comb x.rings x.bias) s = After s (b.bringLit p g x)) ∧
    ∀ id, good → g.cmd = some id → exec (.combBringUpDone t p x.ends x.comb x.rings x.bias) s = After s ((b.bringLit p g x).ok id 0)) ∧
  (∀ (t : Time) (p : Nat) (s : State), let b := s.blk.tick t
    b.pcr.phase = 4 → p < 2 → b.cpOut (6 + p) = false →
    (b.combOn p = true → exec (.combStateLoss t p) s =
      After s (((List.range 32).foldl (fun b m => b.setLock p m false)
        ((b.calDrop p).modLo p fun x => { x with reacq := some b.now, reFail := false, lowAt := none })).relight p)) ∧
    (b.combOn p = false → exec (.combStateLoss t p) s = After s b)) ∧
  (∀ (t t0 : Time) (p : Nat) (scan : LineScan) (s : State), let b := s.blk.tick t
    b.pcr.phase = 4 → p < 2 → b.cpOut (6 + p) = false → (b.lo1 p).reacq = some t0 →
    (b.now ≤ t0 + 120 * ms → (b.lo1 p).reFail = false → LineScan.usable scan = 0xFFFFFFFF → exec (.combReacquired t p scan) s =
      After s (((b.modLo p fun x => { x with reacq := none, reFail := false, lowAt := none, lines := 0xFFFFFFFF }).putFld (R.loCombStat p) 21 16 32).relight p)) ∧
    ((b.lo1 p).reFail = true → exec (.combReacquired t p scan) s = After s b) ∧
    (b.now ≤ t0 + 120 * ms → (b.lo1 p).reFail = false → LineScan.usable scan ≠ 0xFFFFFFFF → exec (.combReacquired t p scan) s =
      After s (b.modLo p fun x => { x with reFail := true })) ∧
    ((b.lo1 p).reFail = true ∨ t0 + 120 * ms ≤ b.now → b.bit (R.loCombCfg p) 8 = true → b.combActive p ≠ 0 → b.switching p = false →
      exec (.combAutoSwitch t p) s = After s (b.autoSwitch p)) ∧
    ((b.lo1 p).reFail = false → b.now < t0 + 120 * ms → exec (.combAutoSwitch t p) s = After s b)) ∧
  (∀ (t t0 : Time) (p : Nat) (s : State), let b := s.blk.tick t
    b.pcr.phase = 4 → p < 2 → b.cpOut (6 + p) = false → (b.lo1 p).lowAt = some t0 →
    (t0 + 1000 * ms ≤ b.now → b.bit (R.loCombCfg p) 8 = true → b.combOn p = true → b.laser p (3 - b.combActive p) ≠ 2 →
      exec (.linesLowExpiry t p) s = After s (b.autoSwitch p)) ∧
    (b.now < t0 + 1000 * ms → exec (.linesLowExpiry t p) s = After s b)) ∧
  (∀ (t : Time) (p : Nat) (x : LoTick) (s : State), let b := s.blk.tick t
    b.pcr.phase = 4 → p < 2 → b.cpOut (6 + p) = false →
    ((b.loReadings p x).combOn p = true → exec (.combLineCheck t p x) s = After s (((b.loReadings p x).combLines p x).lightTimes p x)) ∧
    ((b.loReadings p x).combOn p = false → exec (.combLineCheck t p x) s = After s ((b.loReadings p x).lightTimes p x))) ∧
  (∀ (t : Time) (p : Nat) (s : State), let b := s.blk.tick t
    let c := match (b.lo1 p).cal with
      | some x => (b.calDrop p).modLm p x.mem fun y => if y.planBy = 0 then { y with plan := 0, freed := false, back := none } else y
      | none => b
    let d := (((c.putBit (R.loStat p) 31 true).loSticky p 5).bump (R.loSafeCnt p)).loTrace 5 p 0xFF (c.combActive p)
    let dark := ∃ t0, (b.lo1 p).darkAt = some t0 ∧ t0 + b.fld (R.loSafeCfg p) 11 0 * ms ≤ b.now
    let reflects := ∃ t0, (b.lo1 p).reflAt = some t0 ∧ t0 + 10 * ms ≤ b.now
    b.pcr.phase = 4 → p < 2 →
    (b.bit (R.loSafeCfg p) 31 = false → b.safe p = false → b.lfState p ≠ 0 → dark ∨ reflects →
      exec (.eyeSafetyShutdown t p) s = After s ((((d.modLo p fun y => { y with
        probe := none, powerAt := none, probeNext := d.now + 1000 * ms * d.fld (R.loSafeCfg p) 25 16 }).loopFlag p 0 false true).relight p).setLf p 5)) ∧
    (b.bit (R.loSafeCfg p) 31 = true ∨ b.safe p = true ∨ ¬(dark ∨ reflects) → exec (.eyeSafetyShutdown t p) s = After s b)) ∧
  (∀ (t t0 : Time) (p : Nat) (s : State), let b := s.blk.tick t
    b.pcr.phase = 4 → p < 2 → b.cpOut (6 + p) = false →
    (b.safe p = false → exec (.safeProbe t p) s = After s b) ∧
    (b.safe p = true → (b.lo1 p).probe = none → (b.lo1 p).powerAt = none → (b.lo1 p).probeNext ≤ b.now → exec (.safeProbe t p) s =
      After s (((b.putBit (R.loStat p) 27 true).modLo p fun y => { y with
        probe := some b.now, probeNext := b.now + 1000 * ms * b.fld (R.loSafeCfg p) 25 16 }).relight p)) ∧
    (b.safe p = true → (b.lo1 p).powerAt = some t0 → t0 + 100 * ms ≤ b.now → exec (.safeProbe t p) s = After s (b.safeEnd p)) ∧
    ((b.lo1 p).probe = some t0 → t0 + 2000 * ms ≤ b.now → exec (.safeProbeEnd t p) s =
      After s (((b.putBit (R.loStat p) 27 false).modLo p fun y => { y with probe := none }).relight p)) ∧
    ((b.lo1 p).probe = some t0 → b.now < t0 + 2000 * ms → exec (.safeProbeEnd t p) s = After s b)) ∧
  ∀ (t : Time) (s : State), let b := s.blk.tick t
    let c := (b.bump (R.loAgeOnhrsMain 1)).modLo 1 fun x => { x with main := (b.fld (R.loCombStat 1) 9 0 :: x.main).take 720 }
    let hrs := Lo.eol (c.lo1 1).main (min (c.fld (R.loBiasEol 1) 9 0 : Int) (c.bounds (R.loBndBias 1)).2)
    b.pcr.phase = 4 → b.combActive 0 = 0 →
    (b.combActive 1 = 0 → exec (.ageingHourly t) s = After s b) ∧
    (b.combActive 1 = 1 → exec (.ageingHourly t) s =
      After s (if hrs < 2160 ∧ 2160 ≤ c.regN (R.loAgeEolHrs 1) then (c.putN (R.loAgeEolHrs 1) hrs).loSticky 1 6 else c.putN (R.loAgeEolHrs 1) hrs))

/-- Ring tuning, calibration and launch power (R332 to R344): TUNE_METHOD waits for a calibration and times out after 100 ms; a tick drives
each heater within its bounds; a ring off for 1 ms, or whose power has fallen by more than 3.0 dB, makes its member dark until its rings have
been searched; a calibration takes one member at a time, works on it for 20 ms, keeps what it found, and retries a refused removal after 1 s;
launch setpoints count against the total maximum. Completes: TUNE_METHOD, TUNE_METHOD_TIMEOUT, RING_TUNE_TICK, RING_RELOCK, CALIBRATION_START,
CALIBRATION_WORK, CALIBRATION_RETRY, LAUNCH_POWER, LAUNCH_ADJUST. -/
def Obligations.RingsCalibrationAndLaunch : Prop :=
  (∀ (t : Time) (r : Req) (s : State) (b : Block) (id : Nat), Starts 0x0605 r t s b id →
    let p := r.a1
    r.u 16 8 = 0 → p < 2 → r.a2 = 0xFF → r.u 32 1 < 2 → r.u 33 31 = 0 →
    ((b.lo1 p).tune ≠ none ∨ (b.lo1 p).tuneWait ≠ none → exec (.tuneMethod t r) s = After s (b.done id St.busy 0)) ∧
    ((b.lo1 p).tune = none → (b.lo1 p).tuneWait = none → (b.lo1 p).cal ≠ none → exec (.tuneMethod t r) s =
      After s (b.modLo p fun x => { x with tuneWait := some (id, r.u 32 1) })) ∧
    ((b.lo1 p).tune = none → (b.lo1 p).tuneWait = none → (b.lo1 p).cal = none → exec (.tuneMethod t r) s = After s (b.tuneSet p id (r.u 32 1)))) ∧
  (∀ (t t0 : Time) (p id : Nat) (s : State), let b := s.blk.tick t
    b.pcr.phase = 4 → p < 2 → b.cpOut (6 + p) = false → (b.lo1 p).tune = some (id, t0) →
    (t0 + 100 * ms ≤ b.now → exec (.tuneMethodTimeout t p) s = After s ((b.modLo p fun x => { x with tune := none }).done id St.timeout 0)) ∧
    (b.now < t0 + 100 * ms → exec (.tuneMethodTimeout t p) s = After s b)) ∧
  (∀ (t : Time) (p : Nat) (x : RingTick) (s : State), let b := s.blk.tick t
    let out := b.heatOut p x
    let c := (((List.range 32).foldl (Block.ringMember p x b) (b.loopFlag p 2 (out && !x.lim) (out && x.lim))).ringNotes p x b)
    b.pcr.phase = 4 → p < 2 → b.cpOut (6 + p) = false → 
    ((c.lo1 p).tune = none → exec (.ringTuneTick t p x) s = After s c) ∧
    ∀ id t0, (c.lo1 p).tune = some (id, t0) →
      (c.ringsLocked p = true → exec (.ringTuneTick t p x) s = After s ((c.modLo p fun y => { y with tune := none }).ok id 0)) ∧
      (c.ringsLocked p = false → exec (.ringTuneTick t p x) s = After s c)) ∧
  (∀ (t : Time) (p m : Nat) (sweeps : List Sweep) (temp : Int) (s : State), let b := s.blk.tick t
    let c := (((b.bump (R.loRelockCnt p)).tally (24 + p) 1).loTrace 2 p m (b.combActive p)).modLo p fun y => { y with relock := y.relock ++ [m] }
    b.pcr.phase = 4 → p < 2 → m < 32 → b.cpOut (6 + p) = false →
    (b.tuneEff p = 0 → (∀ k ∈ [m, 32 + m, 64 + m], AMap.get? (b.lo1 p).unlock k = none) → exec (.ringRelock t p m none) s = After s b) ∧
    (b.lostRings p m ≠ [] → b.combOn p = true → m ∉ (b.lo1 p).relock → exec (.ringRelock t p m none) s =
      After s ((if (b.lostRings p m).any (32 ≤ ·) then c.setLock p m false else c).relight p)) ∧
    (m ∈ (b.lo1 p).relock → exec (.ringRelock t p m (some (sweeps, temp))) s =
      After s (((b.modLo p fun y => { y with relock := y.relock.filter (· != m) }).searchMember p m sweeps temp).relit p m)) ∧
    (m ∉ (b.lo1 p).relock → exec (.ringRelock t p m (some (sweeps, temp))) s = After s b)) ∧
  (∀ (t : Time) (p m : Nat) (rest : List Nat) (s : State), let b := s.blk.tick t
    b.pcr.phase = 4 → p < 2 → b.cpOut (6 + p) = false →
    (b.funcMode (0x600 + p) = 1 → b.lineUp p = true → b.bit (R.lfStat p) 5 = false → (b.lo1 p).cal = none → (b.lo1 p).calSoon = m :: rest →
      exec (.calibrationStart t p) s = After s ((b.modLo p fun y => { y with calSoon := rest }).calBegin p m false)) ∧
    (∀ k at_, b.funcMode (0x600 + p) = 1 → b.lineUp p = true → b.bit (R.lfStat p) 5 = false → (b.lo1 p).cal = none → (b.lo1 p).calSoon = [] →
      (b.lo1 p).calNext = (k, at_) →
      let every := 250000000 * b.fld (R.loCalCtl p) 15 0
      (b.now < at_ → exec (.calibrationStart t p) s = After s b) ∧
      (at_ ≤ b.now → exec (.calibrationStart t p) s = After s ((b.modLo p fun y => { y with
        calNext := ((k + 1) % 32, if at_ + every ≤ b.now then b.now + every else at_ + every) }).calBegin p k true))) ∧
    ((b.lo1 p).cal ≠ none → exec (.calibrationStart t p) s = After s b)) ∧
  (∀ (t : Time) (p : Nat) (c : Cal) (x : CalFound) (s : State), let b := s.blk.tick t
    let d := (((((b.bump (R.loCalCnt p)).loTrace 4 p c.mem (b.combActive p)).putBit (R.loMStat p c.mem) 26 false).calKeep p c.mem x).modLo p fun y => { y with
      cal := none }).relit p c.mem
    b.pcr.phase = 4 → p < 2 → b.cpOut (6 + p) = false → (b.lo1 p).cal = some c →
    (c.phase = 1 → (b.lm p c.mem).plan = 2 → (b.lm p c.mem).freed = true → exec (.calibrationWork t p none) s =
      After s (((b.putBit (R.loMStat p c.mem) 26 true).modLo p fun y => { y with cal := some { c with phase := 2, since := b.now } }).relight p)) ∧
    (c.phase = 2 ∨ c.phase = 5 → c.since + 20 * ms ≤ b.now → exec (.calibrationWork t p (some x)) s =
      After s ((d.modLo p fun y => { y with
        cal := if c.phase = 2 && (d.lm p c.mem).plan == 3 then some { c with phase := 3, since := d.now } else none }).lfRegs p)) ∧
    (c.phase = 2 ∨ c.phase = 5 → b.now < c.since + 20 * ms → exec (.calibrationWork t p (some x)) s = After s b) ∧
    (c.phase = 4 → c.since + 1000 * ms ≤ b.now → exec (.calibrationRetry t p) s = After s (b.modLo p fun y => { y with cal := some { c with phase := 0 } })) ∧
    (c.phase = 4 → b.now < c.since + 1000 * ms → exec (.calibrationRetry t p) s = After s b)) ∧
  (∀ (t : Time) (r : Req) (s : State) (b : Block) (id : Nat), Starts 0x0608 r t s b id →
    let p := r.a1
    let v := Bits.toInt 16 (r.u 32 2)
    let sum := Bits.sum ((List.range 32).map fun k =>
      if b.prov p k then Lf.linear (if r.a2 == 0xFF || r.a2 == k then v else Bits.toInt 16 (b.fld (R.loMLaunch p k) 15 0)) else 0)
    r.u 16 8 = 0 → p < 2 → (r.a2 < 32 ∨ r.a2 = 0xFF) → -80 ≤ v → v ≤ 10 → sum ≤ Lf.linear (b.lo1 p).totMax → r.u 34 30 = 0 →
    exec (.launchPower t r) s = After s ((b.launchSet p r.a2 v).ok id 0)) ∧
  ∀ (t : Time) (p : Nat) (x : LaunchTick) (s : State), let b := s.blk.tick t
    let out := b.launchOut p
    b.pcr.phase = 4 → p < 2 → b.cpOut (6 + p) = false → exec (.launchAdjust t p x) s =
      After s (((List.range 32).foldl (Block.launchMember p x) (b.loopFlag p 0 (out && !b.safe p) (b.safe p))).putN (R.loTotalLaunch p) (Bits.ofInt 16 x.total))

/-! ## Security (chapter 13) -/

/-- Identity, key agreement and tampering (R355 to R366): ATTEST writes body, signature and certificates; PEER_KEYX needs a lit port, is
BUSY while an exchange runs and otherwise starts one; MSG 1 without an exchange is ignored unless the port may answer by itself, the messages
of an exchange are taken in their order, and MSG 5 ends it; an exchange ends TIMEOUT at its limit; TAMPER_CONFIG is refused once locked; a
sensor whose condition has held for its filter time raises the alarm, once for each beginning of the condition. A key operation is as said here unless an alarm
of the very same moment aborts it. Completes: ATTEST, PEER_KEYX,
KX_MESSAGE_RX, KX_TIMEOUT, TAMPER_CONFIG, TAMPER_ALARM. -/
def Obligations.IdentityAndTamper : Prop :=
  (∀ (t : Time) (r : Req) (s : State) (b : Block) (id : Nat), Starts 0x0801 r t s b id →
    let n := 512 + 96 + b.certs.length
    let body := b.attestBody (Bits.leBytes 32 (r.u 32 32))
    let c := b.keyRun.sign body
    r.a0 % 64 = 0 → r.a0 + r.a1 ≤ 0x6000000000 → n ≤ r.a1 → r.u 28 4 = 0 → s.alarmAt t = false → b.sec.due ≠ some b.now →
    exec (.attest t r) s = After s (((c.2.dxWrite r.a0 (body ++ c.1 ++ c.2.certs)).bump R.secAttestCnt).ok id n)) ∧
  (∀ (t : Time) (r : Req) (s : State) (b : Block) (id : Nat), Starts 0x0802 r t s b id →
    let p := r.a2
    let peer := r.u 32 2
    r.a0 % 64 = 0 → r.a0 + r.a1 ≤ 0x6000000000 → r.a1 = 400 → p < 2 → peer ≠ b.gw → (∀ i < 30, r.u (34 + i) 1 = 0) →
    (b.lfState p < 2 ∨ 4 < b.lfState p → exec (.peerKeyx t r) s = After s (b.done id St.state (b.lfState p))) ∧
    (∀ g, 2 ≤ b.lfState p → b.lfState p ≤ 4 → b.peerOf p = some g → g ≠ peer → b.admitSum (b.portSlot p) ≠ 0 →
      exec (.peerKeyx t r) s = After s (b.done id St.state 1)) ∧
    (2 ≤ b.lfState p → b.lfState p ≤ 4 → (∀ g, b.peerOf p = some g → g = peer ∨ b.admitSum (b.portSlot p) = 0) → b.kxOf p ≠ none →
      exec (.peerKeyx t r) s = After s (b.done id St.busy 0)) ∧
    (2 ≤ b.lfState p → b.lfState p ≤ 4 → (∀ g, b.peerOf p = some g → g = peer ∨ b.admitSum (b.portSlot p) = 0) → b.kxOf p = none → Sec.policyBad (b.dxBytes r.a0 400) = none →
      exec (.peerKeyx t r) s = After s (b.kxStart p peer (b.dxBytes r.a0 400) (some id)))) ∧
  (∀ (t : Time) (p n x : Nat) (bytes : List Byte) (v : KxView) (s : State), let b := s.blk.tick t
    b.pcr.phase = 4 → p < 2 → s.alarmAt t = false → b.sec.due ≠ some b.now →
    (b.kxMessage p n = none → exec (.kxMessageRx t p n v) s = After s b) ∧
    (b.kxMessage p 1 = some (x, bytes) → b.kxOf p = none → b.autoResponds p (Bits.ofLe ((bytes.drop 2).take 2)) = false →
      exec (.kxMessageRx t p 1 v) s = After s ((b.kxTaken p 1 x false).bump R.secKxIgnoreCnt)) ∧
    (∀ k, b.kxMessage p 1 = some (x, bytes) → b.kxOf p = some k → k.init = false → k.px ≠ some x →
      exec (.kxMessageRx t p 1 v) s = After s (b.kxMsg1 p x bytes v k)) ∧
    (∀ k, b.kxMessage p 2 = some (x, bytes) → b.kxOf p = some k → k.init = true → k.step = 2 →
      exec (.kxMessageRx t p 2 v) s = After s (b.kxMsg2 p x bytes v k)) ∧
    (∀ k, b.kxMessage p 3 = some (x, bytes) → b.kxOf p = some k → k.init = false → k.step = 2 → k.px = some x →
      exec (.kxMessageRx t p 3 v) s = After s (b.kxMsg3 p x bytes v k)) ∧
    (∀ k, b.kxMessage p 4 = some (x, bytes) → b.kxOf p = some k → k.init = true → k.step = 3 → k.px = some x →
      exec (.kxMessageRx t p 4 v) s = After s (b.kxMsg4 p x bytes k)) ∧
    (∀ k, b.kxMessage p 5 = some (x, bytes) → b.kxOf p = some k → (k.px = none ∨ k.px = some x) → exec (.kxMessageRx t p 5 v) s =
      After s (((b.kxTaken p 5 x true).onSec fun s => { s with send := AMap.erase s.send p }).kxFail p St.authFail 9 k))) ∧
  (∀ (t : Time) (p : Nat) (k : Kx) (s : State), let b := s.blk.tick t
    b.pcr.phase = 4 → p < 2 → s.alarmAt t = false → b.sec.due ≠ some b.now → b.kxOf p = some k →
    (k.until_ ≤ b.now → exec (.kxTimeout t p) s = After s ((b.onSec fun s => { s with send := AMap.erase s.send p }).kxFail p St.timeout 8 k)) ∧
    (b.now < k.until_ → exec (.kxTimeout t p) s = After s b)) ∧
  (∀ (t : Time) (r : Req) (s : State) (b : Block) (id : Nat), Starts 0x0805 r t s b id →
    let d := b.dxBytes r.a0 16
    let f (o w : Nat) : Nat := Bits.ofLe ((d.drop o).take w)
    let c := b.onSec fun s => { s with vcore := ((f 0 2 : Nat), (f 2 2 : Nat)), temp := (Bits.toInt 16 (f 4 2), Bits.toInt 16 (f 6 2)) }
    r.a0 % 64 = 0 → r.a0 + r.a1 ≤ 0x6000000000 → r.a1 = 16 → r.u 28 4 = 0 → r.u 32 32 = 0 →
    (b.bit R.secStat 26 = true → exec (.tamperConfig t r) s = After s (b.done id St.state 1)) ∧
    (∀ o, b.bit R.secStat 26 = false → Sec.tamperBad d = some o → exec (.tamperConfig t r) s = After s (b.badDesc id o)) ∧
    (b.bit R.secStat 26 = false → Sec.tamperBad d = none → f 8 1 = 1 → exec (.tamperConfig t r) s = After s ((c.putBit R.secStat 26 true).ok id 0)) ∧
    (b.bit R.secStat 26 = false → Sec.tamperBad d = none → f 8 1 ≠ 1 → exec (.tamperConfig t r) s = After s (c.ok id 0))) ∧
  ∀ (t : Time) (x : TamperTick) (s : State), let b := s.blk.tick t
    let now := b.tripping x (b.pcr.phase == 5)
    let up := TamperTick.lasting x now (b.pcr.phase == 5)
    let old := Nat.land b.sec.raised now
    (b.armed = false → exec (.tamperAlarm t x) s = After s b) ∧
    (b.armed = true → exec (.tamperAlarm t x) s =
      After s (((b.alarm (up - Nat.land up old)).putN R.secTamperStat now).onSec fun s => { s with raised := Nat.lor old up }))

/-! ## Memory and buffers (chapter 14) -/

/-- Memory and scratch errors (R368 to R378, R501): a corrected error counts in its stack or in scratch; an uncorrectable one poisons its
unit and is reported; the scrubbers correct or poison their unit and go one on; a channel retires at UE_MAX uncorrectable units in 24 h, and
the 16 of a stack with its PHY; the frames of lost channels are remapped first, those of the retiring channel move one by one; an access of a
master that does not own a bank counts. Completes: MEM_READ_CE, MEM_READ_UE, PATROL_SCRUB, SRAM_SCRUB, CHANNEL_RETIRE, FRAME_MIGRATE,
SCRATCH_NONOWNER_ACCESS. -/
def Obligations.MemoryAndScratch : Prop :=
  (∀ (t : Time) (a rd : Nat) (s : State), let b := s.blk.tick t
    b.pcr.phase = 4 →
    (b.backed a = true → exec (.memReadCe t 0 a rd) s = After s ((b.bump (R.memSCeCnt (b.chanOf a / 16))).tally (b.chanOf a / 16) 1)) ∧
    (a < 0xC200000 → exec (.memReadCe t 1 a rd) s = After s ((b.bump R.srCeCnt).tally 16 1)) ∧
    (b.backed a = false → exec (.memReadCe t 0 a rd) s = After s b)) ∧
  (∀ (t : Time) (a rd : Nat) (s : State), let b := s.blk.tick t
    b.pcr.phase = 4 →
    (b.backed a = true → exec (.memReadUe t 0 a rd) s = After s (((b.uncorrectable 0 a).bump R.memPoisonCnt).readerActs rd 0 a) ∧ a / 32 ∈ (b.uncorrectable 0 a).mc.poison) ∧
    (a < 0xC200000 → exec (.memReadUe t 1 a rd) s = After s ((b.uncorrectable 1 a).readerActs rd 1 a) ∧ a / 8 ∈ (b.uncorrectable 1 a).mc.srPoison) ∧
    (a < 0x4000 → exec (.memReadUe t 2 a rd) s = After s { b with mc := { b.mc with cmdPoison := a / 64 :: b.mc.cmdPoison } })) ∧
  (∀ (t : Time) (s : State), let b := s.blk.tick t
    let u := b.mc.patrolAt
    let next (c : Block) : Block := if u + 1 < b.memTop / 32 then { c with mc := { c.mc with patrolAt := u + 1 } }
      else ({ c with mc := { c.mc with patrolAt := 0 } } : Block).putN R.memScrubPass (c.regN R.memScrubPass + 1)
    b.pcr.phase = 4 →
    (b.funcOn 0x0700 = false → ∀ f, exec (.patrolScrub t f) s = After s b) ∧
    (b.funcOn 0x0700 = true → b.poisonedUnit u = true → ∀ f, exec (.patrolScrub t f) s = After s (next b)) ∧
    (b.funcOn 0x0700 = true → b.poisonedUnit u = false →
      exec (.patrolScrub t 0) s = After s (next b) ∧
      exec (.patrolScrub t 1) s = After s (next ((b.bump (R.memSCeCnt (b.chanOf (32 * u) / 16))).tally (b.chanOf (32 * u) / 16) 1)) ∧
      exec (.patrolScrub t 2) s = After s (next ((b.uncorrectable 0 (32 * u)).bump (R.memSScrubUe (b.chanOf (32 * u) / 16)))))) ∧
  (∀ (t : Time) (delayed : List Nat) (s : State), let b := s.blk.tick t
    let w := b.mc.sramAt
    let d := delayed.foldl (fun b m => b.bump (R.srMConf (m % 64))) b
    let next (c : Block) : Block := if w + 1 < 0xC200000 / 8 then { c with mc := { c.mc with sramAt := w + 1 } }
      else ({ c with mc := { c.mc with sramAt := 0 } } : Block).putN R.srScrubPass (c.regN R.srScrubPass + 1)
    b.pcr.phase = 4 →
    (b.funcOn 0x0701 = false → ∀ f, exec (.sramScrub t f delayed) s = After s b) ∧
    (b.funcOn 0x0701 = true →
      exec (.sramScrub t 0 delayed) s = After s (next d) ∧
      exec (.sramScrub t 1 delayed) s = After s (next ((d.bump R.srCeCnt).tally 16 1)) ∧
      exec (.sramScrub t 2 delayed) s = After s (next (if d.mc.srPoison.contains w then d else d.uncorrectable 1 (8 * w))))) ∧
  (∀ (t : Time) (c : Nat) (s : State), let b := s.blk.tick t
    let recent := (AMap.getD b.mc.ues c []).filter fun t => b.now < t + 86400 * 8000000000
    b.pcr.phase = 4 → c < 128 →
    (b.fld R.memRetireCtl 31 24 ≤ recent.length → exec (.channelRetire t c false) s = After s (b.retire c 2)) ∧
    (recent.length < b.fld R.memRetireCtl 31 24 → exec (.channelRetire t c false) s = After s b) ∧
    exec (.channelRetire t c true) s = After s (b.chansLost ((List.range 16).map fun i => 16 * (c / 16) + i))) ∧
  (∀ (t : Time) (c n g : Nat) (s : State), let b := s.blk.tick t
    b.pcr.phase = 4 → b.frameFor c = some g →
    ((b.frameSpare = true ∨ b.frameGiver.isSome) →
      (b.mc.lostCh.head? = some (c, n) → exec (.frameMigrate t) s = After s (b.refilled c n g)) ∧
      (b.mc.lostCh = [] → b.mc.retiring = some (c, n) → n + 1 < 1536 → exec (.frameMigrate t) s = After s (b.migrated c n g).memRegs) ∧
      (b.mc.lostCh = [] → b.mc.retiring = some (c, n) → 1536 ≤ n + 1 → exec (.frameMigrate t) s =
        After s ((({ b.migrated c n g with mc := { (b.migrated c n g).mc with retiring := none } } : Block).retired c).retireNext.memRegs))) ∧
    (b.frameSpare = false → b.frameGiver = none → (b.mc.lostCh.head? = some (c, n) ∨ b.mc.lostCh = [] ∧ b.mc.retiring = some (c, n)) →
      exec (.frameMigrate t) s = After s b)) ∧
  ∀ (t : Time) (m k : Nat) (p1 w : Bool) (s : State), let b := s.blk.tick t
    let x := b.bank (Bm.portKey k p1)
    b.pcr.phase = 4 → k < 800 → m < 64 → m ≠ 40 →
    ((Bm.admits x.owner m = false ∨ x.pending = true) → exec (.scratchNonownerAccess t m k p1 w) s = After s (b.bump (R.srMNonown m))) ∧
    (Bm.admits x.owner m = true → x.pending = false → exec (.scratchNonownerAccess t m k p1 w) s = After s b)

/-- The buffer manager (R383 to R396, R504): BUF_ALLOC answers the buffer it takes, or NO_RESOURCE; BUF_FREE by the holder frees the buffer
and a free one is DOUBLE_FREE; BUF_PASS extends the chain; POOL_CONFIG sets shares and placements; an engine is answered or waits; frames
move between pools; an audit starts, ends with its rows and is read. An operation on a buffer of which a running revocation covers an owner
waits for it. Completes: BUF_ALLOC, BUF_FREE, BUF_PASS, POOL_CONFIG, ENGINE_BUF_ALLOC, POOL_FRAME_MOVE, AUDIT_START, AUDIT_WALK_DONE,
AUDIT_READ. -/
def Obligations.BufferManager : Prop :=
  (∀ (t : Time) (r : Req) (s : State) (b : Block) (id : Nat), Starts 0x0501 r t s b id →
    let owner := r.a2
    r.u 16 8 = 0 → r.a1 ≠ 0 → r.a1 ≤ 4194304 → owner < 2 ^ 20 → Own.bad owner = false → r.u 32 1 < 2 → r.u 33 31 = 0 →
    (Own.engine owner ≠ 15 → Own.job owner ≠ b.cmdJob r → exec (.bufAlloc t r) s = After s (b.done id St.notOwner 0)) ∧
    (Own.engine owner ≠ 15 → Own.job owner = b.cmdJob r →
      (∀ p < 8, Bm.poolFor r.a1 ≤ p → (p < outPool ∨ b.class3Left + Bm.size p ≤ b.outFree) → b.slot p = none) →
      exec (.bufAlloc t r) s = After s ((b.bump R.bmNobufCnt).done id St.noResource 4)) ∧
    (∀ c p a scr, Own.engine owner ≠ 15 → Own.job owner = b.cmdJob r →
      b.alloc r.a1 owner (Bits.bit (r.u 32 1) 0) false = some (c, p, a, scr) →
      exec (.bufAlloc t r) s = After s (c.complete id ⟨St.ok, 0, 0, c.handleOf p a scr, if scr then a + 2 ^ 63 else a⟩))) ∧
  (∀ (t : Time) (r : Req) (s : State) (b : Block) (id k : Nat) (x : Buf), Starts 0x0502 r t s b id →
    r.u 24 4 = 0 → r.a2 < 2 ^ 20 → r.u 32 32 = 0 → b.bufOf r.a0 = some (k, x) →
    (∀ c, b.revoking r.a0 = some c → exec (.bufFree t r) s = After s (b.waitRevoke c (id, 0x0502, r))) ∧
    (b.revoking r.a0 = none → x.live = true → x.gen = r.a0 / 2 ^ 48 → x.holder = r.a2 → x.chain.length ≤ 8 → exec (.bufFree t r) s = After s ((b.freeBuf k).ok id 0)) ∧
    (b.revoking r.a0 = none → x.live = false → exec (.bufFree t r) s = After s ((b.bmRefuse r.ring r.a0 r.a2 St.doubleFree false).done id St.doubleFree 0))) ∧
  (∀ (t : Time) (r : Req) (s : State) (b : Block) (id k : Nat) (x : Buf), Starts 0x0503 r t s b id →
    r.u 24 4 = 0 → r.a2 < 2 ^ 20 → (∀ e ∈ Bm.entries r, Bits.fld e.2 30 20 = 0 ∧ (Bits.bit e.2 31 = true → Own.bad (e.2 % 2 ^ 20) = false)) →
    b.bufOf r.a0 = some (k, x) →
    (∀ c, b.revoking r.a0 = some c → exec (.bufPass t r) s = After s (b.waitRevoke c (id, 0x0503, r))) ∧
    (b.revoking r.a0 = none → b.bmCheck r.a0 r.a2 (Bm.newOwners r) = none → exec (.bufPass t r) s =
      After s ((b.setBuf k { x with chain := x.chain ++ Bm.newOwners r, at_ := b.now }).ok id (x.chain.length + (Bm.newOwners r).length)))) ∧
  (∀ (t : Time) (r : Req) (s : State) (b : Block) (id : Nat), Starts 0x0504 r t s b id →
    let c := b.readCount r.a0 64
    let free := ((List.range 800).filter c.ciBank).length + c.bm.banks.length
    r.a0 % 64 = 0 → r.a0 + 64 ≤ 0x6000000000 → r.u 28 4 = 0 → r.u 32 32 = 0 → c.poolDescBad r.a0 = none →
    (free < r.a1 → exec (.poolConfig t r) s = After s (c.done id St.noResource 5)) ∧
    (r.a1 ≤ free → (∀ n ∈ c.bm.banks.drop r.a1, c.bankBusy n = false) → exec (.poolConfig t r) s =
      After s (let d := c.setBmBanks r.a1
        ({ d with bm := { d.bm with place := (c.poolDesc r.a0).map Prod.fst, share := (c.poolDesc r.a0).map Prod.snd } } : Block).ok id 0))) ∧
  (∀ (t : Time) (a : EngAlloc) (s : State), let b := s.blk.tick t
    b.works 35 = true →
    (∀ c, b.engGrant? a = some c → exec (.engineBufAlloc t a) s = After s c) ∧
    (b.engGrant? a = none → exec (.engineBufAlloc t a) s = After s { b with bm := { b.bm with engWait := b.bm.engWait ++ [a] } })) ∧
  (∀ (t : Time) (src dst : Nat) (s : State), let b := s.blk.tick t
    b.works 35 = true →
    (b.canMove src dst = true → exec (.poolFrameMove t src dst) s = After s (b.moveFrames src dst)) ∧
    (b.canMove src dst = false → exec (.poolFrameMove t src dst) s = After s b)) ∧
  (∀ (t : Time) (r : Req) (s : State) (b : Block) (id : Nat), Starts 0x0505 r t s b id →
    r.u 16 8 = 0 → r.u 24 4 = 0 → r.a2 < 2 ^ 20 → r.u 32 4 < 2 ^ 20 → r.u 36 28 = 0 →
    (b.bm.auditCmd ≠ none → exec (.auditStart t r) s = After s (b.done id St.busy 0)) ∧
    (b.bm.auditCmd = none → exec (.auditStart t r) s =
      After s (({ b with bm := { b.bm with auditCmd := some (id, r.a2, r.u 32 4), audit := [] } } : Block).putN R.bmAuditStat (2 ^ 31)))) ∧
  (∀ (t : Time) (id owner mask : Nat) (s : State), let b := s.blk.tick t
    let rows := b.auditRows owner mask
    let kept := rows.take 65536
    b.works 35 = true → b.bm.auditCmd = some (id, owner, mask) → exec (.auditWalkDone t) s =
      After s (((List.range 8).foldl (fun b n => b.putN (R.bmAuditAge n) (Bits.sum (kept.map fun x => x.bins.getD n 0)))
        (({ b with bm := { b.bm with auditCmd := none, audit := kept } } : Block).putN R.bmAuditStat
          ((if 65536 < rows.length then 2 ^ 30 else 0) + kept.length))).ok id kept.length)) ∧
  ∀ (t : Time) (r : Req) (s : State) (b : Block) (id : Nat), Starts 0x0506 r t s b id →
    let rows := b.bm.audit.take (r.a1 / 64)
    r.a0 % 64 = 0 → r.a0 + r.a1 ≤ 0x6000000000 → r.u 28 4 = 0 → r.u 32 32 = 0 →
    (b.bm.auditCmd ≠ none → exec (.auditRead t r) s = After s (b.done id St.state 1)) ∧
    (b.bm.auditCmd = none → exec (.auditRead t r) s =
      After s ((b.dxWrite r.a0 (rows.flatMap AuditRow.record)).complete id ⟨St.ok, 0, 0, 64 * rows.length, b.bm.audit.length⟩))

/-! ## Time (chapter 15) -/

/-- PTP domains (R401 to R409): PTP_CONFIG sets an instance that is off, and steps local time on request; DOMAIN_SELECT switches to a LOCKED
instance; an Announce joins the masters of its instance; an instance without Announces or Syncs is lost, and the selected one with it (R405); a Delay_Req goes out when it is
due; a slew ends when it has reached its remainder; the transparent clock forwards a PTP frame alone, with its
residence time in the messages that carry it and a new FCS.
Completes: PTP_CONFIG, DOMAIN_SELECT, PTP_MESSAGE_RX, PTP_INSTANCE_LOST, PTP_DELAY_REQ_SEND, SLEW_END, TC_FORWARD. -/
def Obligations.PtpDomains : Prop :=
  (∀ (t : Time) (r : Req) (s : State) (b : Block) (id : Nat), Starts 0x0701 r t s b id →
    let d := r.a2
    let sync := Bits.toInt 8 (r.u 34 1)
    let dreq := Bits.toInt 8 (r.u 35 1)
    let c := (b.modInst d fun _ => { TuInst.init with conf := true, dom := r.u 32 1, ports := r.u 33 1, logSync := sync, logDreq := dreq, annTmo := r.u 36 1 }).putFld
      (R.tuDStat d) 14 8 (r.u 32 1)
    r.a0 < 2 ^ 48 → r.a1 ≤ 999999999 → d ≤ 1 → r.u 32 1 ≤ 127 → ((b.inst (1 - d)).conf = true → (b.inst (1 - d)).dom ≠ r.u 32 1) →
    1 ≤ r.u 33 1 → r.u 33 1 ≤ 3 → -7 ≤ sync → sync ≤ 1 → -7 ≤ dreq → dreq ≤ 5 → 2 ≤ r.u 36 1 → r.u 36 1 ≤ 10 → r.u 38 26 = 0 →
    (r.u 37 1 = 0 → b.instOff d = true → exec (.ptpConfig t r) s = After s (c.ok id 0)) ∧
    (r.u 37 1 = 0 → b.instOff d = false → exec (.ptpConfig t r) s = After s (b.done id St.state 2)) ∧
    (r.u 37 1 = 1 → (b.instState 0 = 3 ∨ b.instState 1 = 3) → exec (.ptpConfig t r) s = After s (b.done id St.state 1))) ∧
  (∀ (t : Time) (r : Req) (s : State) (b : Block) (id : Nat), Starts 0x0702 r t s b id →
    r.u 16 8 = 0 → r.u 24 4 = 0 → r.a2 ≤ 1 → r.u 32 32 = 0 →
    (b.selected = r.a2 → exec (.domainSelect t r) s = After s (b.ok id 0)) ∧
    (b.selected ≠ r.a2 → b.instState r.a2 ≠ 3 → exec (.domainSelect t r) s = After s (b.done id St.state (b.instState r.a2))) ∧
    (b.selected ≠ r.a2 → b.instState r.a2 = 3 → exec (.domainSelect t r) s = After s (b.switchTo r.a2 (some id)))) ∧
  (∀ (t : Time) (d : Nat) (m : PtpMsg) (s : State), let b := s.blk.tick t
    b.works 36 = true → b.cpOut 8 = false →
    (b.ptpFor d m = false → exec (.ptpMessageRx t d m) s = After s b) ∧
    (b.ptpFor d m = true → m.kind = 4 → exec (.ptpMessageRx t d m) s = After s (b.announceIn d m)) ∧
    (∀ p, b.ptpFor d m = true → m.kind = 0 → m.twoStep = false → 2 ≤ b.instState d → b.instState d ≠ 4 → ((b.inst d).gm.map (·.source)) = some m.source →
      let c := (b.bump (R.tuDSyncCnt d)).modInst d fun x => { x with lastSync := b.now }
      let t21 := b.localTime + b.ethAdj m.ethPort false - m.origin - m.correction / 8192
      (c.inst d).mpd = some p → exec (.ptpMessageRx t d m) s = After s ((c.modInst d fun x => { x with t21 := some t21 }).sample d (p - t21)))) ∧
  (∀ (t : Time) (d : Nat) (s : State), let b := s.blk.tick t
    let x := b.inst d
    let c := (((b.setInst d 4).setBits R.tuSticky (2 ^ (1 + d))).bump (R.tuDLossCnt d)).modInst d fun x =>
      { TuInst.init with conf := x.conf, dom := x.dom, ports := x.ports, logSync := x.logSync, logDreq := x.logDreq, annTmo := x.annTmo, seq := x.seq, nextReq := x.nextReq }
    b.works 36 = true → b.cpOut 8 = false → d ≤ 1 →
    ((b.instState d = 2 ∨ b.instState d = 3) →
      (x.lastAnn + x.annTmo * annInt ≤ b.now ∨ x.lastSync + 3 * Tu.interval x.logSync ≤ b.now ∨ 4 ≤ x.lossy) →
      (c.selected ≠ d → exec (.ptpInstanceLost t d) s = After s c) ∧
      (c.selected = d → exec (.ptpInstanceLost t d) s = After s (c.loseSelected (c.bit R.tuDomCtl 0)))) ∧
    (b.instState d ≠ 2 → b.instState d ≠ 3 → exec (.ptpInstanceLost t d) s = After s b)) ∧
  (∀ (t : Time) (d : Nat) (g : PtpGm) (s : State), let b := s.blk.tick t
    let x := b.inst d
    b.works 36 = true → b.cpOut 8 = false → x.gm = some g → 2 ≤ b.instState d → b.instState d ≠ 4 → b.funcMode (0x300 + g.port) = 1 →
    (x.nextReq ≤ b.now → exec (.ptpDelayReqSend t d) s =
      After s ((b.modInst d fun x => { x with
        dreq := some (x.seq, b.localTime + b.ethAdj g.port true), seq := (x.seq + 1) % 65536, nextReq := b.now + Tu.interval x.logDreq }).emit
        (.delayReq g.port x.dom x.seq))) ∧
    (b.now < x.nextReq → exec (.ptpDelayReqSend t d) s = After s b)) ∧
  (∀ (t : Time) (s : State), let b := s.blk.tick t
    b.works 36 = true →
    (b.bit R.tuStat 29 = true → b.clk.slewed b.now = b.clk.rem → exec (.slewEnd t) s = After s (b.slewStop St.ok 0)) ∧
    (b.bit R.tuStat 29 = false → exec (.slewEnd t) s = After s b)) ∧
  ∀ (t : Time) (m : PtpMsg) (res : Nat) (up : Bool) (s : State), let b := s.blk.tick t
    b.works 36 = true → b.bit R.tuTcCtl 31 = true → m.ethPort ≤ 1 → b.bit R.tuTcCtl 0 = true → (b.inst 0).dom = m.domain →
    b.funcOff (0x300 + m.ethPort) = false →
    (m.start = none → exec (.tcForward t m res up) s = After s b) ∧
    (m.start ≠ none → (up = false ∨ 80000 < res) → exec (.tcForward t m res up) s = After s (b.bump R.tuTcDropCnt)) ∧
    (m.start ≠ none → up = true → res ≤ 80000 → b.funcMode (0x300 + (1 - m.ethPort)) = 1 →
      (m.kind = 2 ∨ m.kind = 0 ∧ m.twoStep = false → exec (.tcForward t m res up) s =
        After s ((b.bump R.tuTcFwdCnt).emit (.eth (1 - m.ethPort) ((m.correct (8192 * (res : Int))).frame ++ (m.correct (8192 * (res : Int))).fcs)))) ∧
      (m.kind = 1 ∨ m.kind = 0 ∧ m.twoStep = true → exec (.tcForward t m res up) s =
        After s (((b.bump R.tuTcFwdCnt).bump R.tuTc2stepCnt).emit (.eth (1 - m.ethPort) (m.frame ++ m.fcs)))))

/-- Pulses and the offset measurement (R412 to R416): PULSE_SET stops or programmes an output, with a start at least 1 ms
ahead and a width of at least 10 ns, waits while a pulse is active, and is stored for an output that is not RUNNING; an edge
comes at its time and no earlier; an input edge is timestamped while its FIFO has room, and answers an offset measurement in its window, from
which steps of local time since dispatch are left out; a window without an edge ends TIMEOUT. Completes: PULSE_SET, PULSE_EDGE, OFFSET_MEASURE, OFFSET_MEASURE_TIMEOUT, PULSE_INPUT_EDGE. -/
def Obligations.PulsesAndOffsets : Prop :=
  (∀ (t : Time) (r : Req) (s : State) (b : Block) (id : Nat), Starts 0x0703 r t s b id →
    let n := r.a2
    let start : Int := ((r.a0 * 1000000000 + r.a1) * 8 + r.u 50 1 : Nat)
    let mode := r.u 48 1
    let period := r.u 32 8
    let width := r.u 40 8
    let p : Pulse := ⟨mode, start, period, width, r.u 49 1 == 1⟩
    let c := b.poPassed n
    mode ≤ 2 → (mode = 1 → width ≤ 8000000000000) → (mode = 2 → 800 ≤ period ∧ period ≤ 8000000000000 ∧ width + 80 ≤ period) → 80 ≤ width →
    b.localTime + 8000000 ≤ start → r.a0 < 2 ^ 48 → r.a1 ≤ 999999999 → n ≤ 3 → r.u 49 1 ≤ 1 → r.u 50 1 ≤ 7 → r.u 51 13 = 0 →
    (b.funcMode (0x500 + n) = 1 → (b.po n).active = true → exec (.pulseSet t r) s = After s ((b.setPo n { (b.po n) with next := some p }).ok id 0)) ∧
    (b.funcMode (0x500 + n) = 1 → (b.po n).active = false → exec (.pulseSet t r) s =
      After s ((b.setPo n { prog := p, next := none, k := 0, active := false }).ok id 0)) ∧
    (b.funcMode (0x500 + n) ≠ 1 → exec (.pulseSet t r) s = After s ((c.setPo n { (c.po n) with next := some p }).ok id 0))) ∧
  (∀ (t : Time) (n : Nat) (s : State), let b := s.blk.tick t
    let x := b.po n
    b.pcr.phase = 4 → n ≤ 3 → b.poRuns n = true →
    (x.active = false → x.prog.mode ≠ 0 → b.funcMode (0x500 + n) = 1 → x.edge ≤ b.localTime → exec (.pulseEdge t n) s =
      After s ((b.emit (.pulse n (!x.prog.low) x.edge)).setPo n { x with active := true })) ∧
    (x.active = false → b.localTime < x.edge → exec (.pulseEdge t n) s = After s b) ∧
    (x.active = true → b.localTime < x.edge + x.prog.width → exec (.pulseEdge t n) s = After s b)) ∧
  (∀ (t : Time) (r : Req) (s : State) (b : Block) (id : Nat), Starts 0x0704 r t s b id →
    let exp : Int := ((r.a0 * 1000000000 + r.a1) * 8 + r.u 32 1 : Nat)
    r.a0 < 2 ^ 48 → r.a1 ≤ 999999999 → r.a2 ≤ 1 → r.u 32 1 ≤ 7 → r.u 33 31 = 0 →
    (AMap.get? b.tu.meas r.a2 ≠ none → exec (.offsetMeasure t r) s = After s (b.done id St.busy 0)) ∧
    (AMap.get? b.tu.meas r.a2 = none → exec (.offsetMeasure t r) s =
      After s (b.onTu fun t => { t with meas := AMap.set t.meas r.a2 ⟨id, exp, 0⟩ }))) ∧
  (∀ (t : Time) (i : Nat) (x : OffMeas) (s : State), let b := s.blk.tick t
    b.works 36 = true → b.tu.meas = [(i, x)] →
    (b.measAhead x < -8000000000 → exec (.offsetMeasureTimeout t) s =
      After s ((b.onTu fun t => { t with meas := AMap.erase t.meas i }).done x.cmd St.timeout 0)) ∧
    (-8000000000 ≤ b.measAhead x → exec (.offsetMeasureTimeout t) s = After s b)) ∧
  ∀ (t : Time) (i : Nat) (rising : Bool) (s : State), let b := s.blk.tick t
    let q := AMap.getD b.tu.fifo i []
    b.works 36 = true → i ≤ 1 → Bits.bit (b.fld (R.tuPiCtl i) 2 1) (if rising then 0 else 1) = true →
    (b.bit (R.tuPiCtl i) 0 = true → AMap.get? b.tu.meas i = none → q.length < 16 → exec (.pulseInputEdge t i rising) s =
      After s (b.onTu fun u => { u with fifo := AMap.set u.fifo i (q ++ [b.localTime]) })) ∧
    (b.bit (R.tuPiCtl i) 0 = true → AMap.get? b.tu.meas i = none → 16 ≤ q.length → exec (.pulseInputEdge t i rising) s =
      After s (b.bump (R.tuPiOvfCnt i))) ∧
    (∀ m, b.bit (R.tuPiCtl i) 0 = false → AMap.get? b.tu.meas i = some m → (b.measAhead m).natAbs ≤ 8000000000 →
      exec (.pulseInputEdge t i rising) s = After s ((b.onTu fun u => { u with meas := AMap.erase u.meas i }).complete m.cmd
        ⟨St.ok, 0, 0, Bits.ofInt 64 (b.localTime - m.exp), Bits.ofInt 48 (b.localTime / 8000000000)⟩))

/-! ## Debug and health (chapters 17 and 18) -/

/-- Processors, hangs and debug (R424, R445 to R457): the watchdog resets a silent processor, or reports the security processor,
and restarting one clears its hold, and ends the holdover that the loss of the time processor began; a CI
processor halted for more than 1 ms shows itself off line; a stall at its limit is a hang, which freezes the engine when asked;
ENGINE_FREEZE freezes, and ENGINE_DUMP writes the frozen engine's dump; the debug module reads dmstatus alone while core
debug is locked, and else halts harts and reads memory through them; cache errors count, and one that cannot be corrected poisons the line and faults
the core that read (R370). Completes: CP_WATCHDOG_EXPIRY, CP_RESTART, CI_HEARTBEAT_LAPSE, ENGINE_HANG, ENGINE_FREEZE, ENGINE_DUMP, ENGINE_DUMP_DONE,
DEBUG_DMI_ACCESS, HC_CACHE_ERROR, HANG_CONFIG. -/
def Obligations.ProcessorsAndDebug : Prop :=
  (∀ (t : Time) (x : CpFail) (s : State), let b := s.blk.tick t
    let m := x.master
    b.pcr.phase = 4 →
    (b.dbg.wdOn = true → b.cpOut 9 = false → m ≤ 8 → m ≠ 4 → b.cpOut m = false → exec (.cpWatchdogExpiry t x) s =
      After s (((Mc.cut x.cut ((b.cpReset m).putFld R.pcrBootStat 11 8 4)).bump R.dbgCpWdCnt).event 0x0041 1 devJob 9 (Bits.leBytes 1 m))) ∧
    (b.dbg.wdOn = true → b.cpOut 9 = false → m = 4 → exec (.cpWatchdogExpiry t x) s =
      After s ((b.setBits R.dbgHangStat (2 ^ 31)).msix (b.fld R.dbgHangIrq 10 0))) ∧
    (b.dbg.wdOn = false → exec (.cpWatchdogExpiry t x) s = After s b)) ∧
  (∀ (t : Time) (m : Nat) (t0 : Time) (s : State), let b := s.blk.tick t
    AMap.get? b.pcr.held m = some t0 →
    let c := b.onPcr fun x => { x with held := AMap.erase x.held m }
    (4 ≤ m → m ≠ 8 → exec (.cpRestart t m) s = After s c) ∧
    (m = 8 → exec (.cpRestart t m) s =
      After s (if c.cpOut 8 = false ∧ c.tu.cpHold = true then (c.putBit R.tuStat 30 false).onTu fun x => { x with cpHold := false } else c)) ∧
    (m < 4 → exec (.cpRestart t m) s = After s ((b.onPcr fun x => { x with held := AMap.erase x.held m }).putBit R.cmdStatus (4 + m) true))) ∧
  (∀ (t : Time) (k : Nat) (t0 : Time) (s : State), let b := s.blk.tick t
    b.pcr.phase = 4 → k < 4 → AMap.get? b.dbg.halted (16 + k) = some t0 →
    (t0 + ms < b.now → exec (.ciHeartbeatLapse t k) s = After s (b.putBit R.cmdStatus (4 + k) false)) ∧
    (b.now ≤ t0 + ms → exec (.ciHeartbeatLapse t k) s = After s b)) ∧
  (∀ (t : Time) (e : Nat) (s : State), let b := s.blk.tick t
    b.pcr.phase = 4 → 26 ≤ e → e ≤ 36 → b.frozen e = false → AMap.get? b.dbg.stall e = none →
    (b.bit (R.dbgEHangMs (e - 26)) 30 = true → (b.hung e).bit (R.dbgEHangMs (e - 26)) 31 = false → exec (.engineHang t e) s = After s (b.hung e)) ∧
    (b.bit (R.dbgEHangMs (e - 26)) 30 = true → (b.hung e).bit (R.dbgEHangMs (e - 26)) 31 = true → exec (.engineHang t e) s = After s ((b.hung e).freeze e 2)) ∧
    (b.bit (R.dbgEHangMs (e - 26)) 30 = false → exec (.engineHang t e) s = After s b)) ∧
  (∀ (t : Time) (r : Req) (s : State) (b : Block) (id : Nat), Starts 0x0A01 r t s b id →
    r.u 16 8 = 0 → r.u 24 4 = 0 → 26 ≤ r.a2 → r.a2 ≤ 36 → r.u 32 32 = 0 → exec (.engineFreeze t r) s = After s ((b.freeze r.a2 1).ok id 0)) ∧
  (∀ (t : Time) (r : Req) (s : State) (b : Block) (id : Nat), Starts 0x0A02 r t s b id →
    r.a0 % 64 = 0 → r.a0 + r.a1 ≤ 0x6000000000 → 26 ≤ r.a2 → r.a2 ≤ 36 → Dbg.dumpSize r.a2 ≤ r.a1 → r.u 32 32 = 0 →
    (b.frozen r.a2 = false → exec (.engineDump t r) s = After s (b.done id St.state 0)) ∧
    (b.frozen r.a2 = true → AMap.get? b.dbg.dumps r.a2 ≠ none → exec (.engineDump t r) s = After s (b.done id St.busy 0)) ∧
    (b.frozen r.a2 = true → AMap.get? b.dbg.dumps r.a2 = none → exec (.engineDump t r) s =
      After s (b.onDbg fun d => { d with dumps := AMap.set d.dumps r.a2 ⟨id, r.a0, r.a1, b.now⟩ }))) ∧
  (∀ (t : Time) (e : Nat) (j : DumpJob) (f : Freeze) (s : State), let b := s.blk.tick t
    b.pcr.phase = 4 → AMap.get? b.dbg.dumps e = some j → AMap.get? b.dbg.frozen e = some f →
    (j.since + 2 * Dbg.dumpSize e ≤ b.now → exec (.engineDumpDone t e) s =
      After s (((b.onDbg fun d => { d with dumps := AMap.erase d.dumps e }).dxWrite j.addr (f.dump e (b.regN R.sysId))).ok j.cmd (Dbg.dumpSize e))) ∧
    (b.now < j.since + 2 * Dbg.dumpSize e → exec (.engineDumpDone t e) s = After s b)) ∧
  (∀ (t : Time) (op : DmiOp) (h : Nat) (s : State), let b := s.blk.tick t
    let c := b.onDbg fun d => { d with dmi := none }
    (b.bit R.secStat 27 = false → (∀ k, op ≠ .status k) → exec (.debugDmiAccess t op) s = After s c) ∧
    (b.pcr.phase = 4 → exec (.debugDmiAccess t (.status h)) s = After s c.dmStatus) ∧
    (∀ a n, b.bit R.secStat 27 = true → b.pcr.phase = 4 → h < 16 → AMap.get? b.dbg.halted h ≠ none → inDx a n = true →
      (c.rangePoison a n = false → exec (.debugDmiAccess t (.readMem h a n)) s = After s (c.dmiRead (c.dxN a n))) ∧
      (c.rangePoison a n = true → exec (.debugDmiAccess t (.readMem h a n)) s = After s ((c.readCount a n).emit (.poisonTo (10 + h))))) ∧
    (b.bit R.secStat 27 = true → b.pcr.phase = 4 → h ≤ 24 → AMap.get? b.dbg.halted h = none → exec (.debugDmiAccess t (.halt h)) s =
      After s ((c.onDbg fun d => { d with halted := AMap.set d.halted h b.now }).roleStop (Dbg.master h)))) ∧
  (∀ (t : Time) (a core : Nat) (s : State), let b := s.blk.tick t
    b.pcr.phase = 4 →
    exec (.hcCacheError t ⟨2, core⟩ false a) s = After s ((b.bump R.hcL2CeCnt).tally 18 1) ∧
    exec (.hcCacheError t ⟨3, core⟩ false a) s = After s ((b.bump R.hcL3CeCnt).tally 18 1) ∧
    exec (.hcCacheError t ⟨2, core⟩ true a) s = After s ((((b.bump R.hcL2UeCnt).tally 19 1).poisonUnit (a / 32)).emit (.poisonTo core)) ∧
    exec (.hcCacheError t ⟨3, core⟩ true a) s = After s ((((b.bump R.hcL3UeCnt).tally 19 1).poisonUnit (a / 32)).emit (.poisonTo core))) ∧
  ∀ (t : Time) (r : Req) (s : State) (b : Block) (id : Nat), Starts 0x0A04 r t s b id →
    let v := Bits.fld (r.u 36 1) 1 1 * 2 ^ 31 + Bits.fld (r.u 36 1) 0 0 * 2 ^ 30 + r.u 32 4
    r.u 16 8 = 0 → r.u 24 4 = 0 → 1 ≤ r.u 32 4 → r.u 32 4 ≤ 10000 → r.u 36 1 < 4 → r.u 37 27 = 0 →
    (26 ≤ r.a2 → r.a2 ≤ 36 → exec (.hangConfig t r) s = After s ((b.putN (R.dbgEHangMs (r.a2 - 26)) v).ok id 0)) ∧
    (r.a2 = 0x100 → exec (.hangConfig t r) s = After s ((b.onDbg fun d => { d with wdMs := r.u 32 4, wdOn := Bits.bit (r.u 36 1) 0 }).ok id 0))

/-- Counters, trace, events, health and the snapshot (R458 to R464, R472 to R483): COUNTER_READ writes the counters selected; TRACE_CONFIG
writes what waits and sets the ring; the oldest record is written, left out or dropped; an event is written while its ring is open and
counted as dropped when not; an hour and a second end when they are over, the hour first; HEALTH_READ writes 512 bytes.
Completes: COUNTER_READ, TRACE_CONFIG, TRACE_RECORD_WRITE, EVENT_RECORD_WRITE, HEALTH_HOURLY, HEALTH_READ, SNAPSHOT_CONFIG,
TELEMETRY_SNAPSHOT. -/
def Obligations.CountersTraceAndHealth : Prop :=
  (∀ (t : Time) (r : Req) (s : State) (b : Block) (id : Nat), Starts 0x0901 r t s b id →
    let sel := (List.range 28).filter fun i => r.u 32 8 == 0 || Bits.bit (r.u 32 8) i
    let rec_ := b.cntRecord 1 (b.cmdJob r) sel
    r.a2 = 1 → r.a0 % 64 = 0 → r.a0 + r.a1 ≤ 0x6000000000 → 32 + 8 * sel.length ≤ r.a1 → r.u 32 8 < 2 ^ 28 → r.u 40 24 = 0 →
    exec (.counterRead t r) s = After s ((b.dxWrite r.a0 rec_).ok id rec_.length)) ∧
  (∀ (t : Time) (r : Req) (s : State) (b : Block) (id : Nat), Starts 0x0A03 r t s b id →
    let c := b.traceFlush
    let d := c.onDbg fun d => { d with
      traceBase := r.a0, traceLen := r.a1, traceAll := Bits.bit r.a2 31, traceJob := r.a2 % 1024, traceMask := r.u 32 4, traceMode := r.u 40 1,
      traceOff := Bits.toInt 32 (r.u 36 4) }
    r.a0 % 64 = 0 → inMgmtOs r.a0 r.a1 = true → powerWithin r.a1 (2 ^ 20) (2 ^ 30) = true → Bits.fld r.a2 30 10 = 0 →
    Nat.land (r.u 32 4) 0xFFFF7800 = 0 → r.u 40 1 ≤ 2 → r.u 41 23 = 0 →
    (c.dbg.traceBase ≠ r.a0 → c.dbg.traceOff = Bits.toInt 32 (r.u 36 4) → exec (.traceConfig t r) s =
      After s (((((d.put64 R.dbgTraceWrLo 0).put64 R.dbgTraceRdLo 0).putN R.dbgTraceStat (r.u 40 1 * 2 ^ 30)).putN R.dbgTraceOffset (r.u 36 4)).ok id 0))) ∧
  (∀ (t : Time) (x : TraceRec) (q : List TraceRec) (s : State), let b := s.blk.tick t
    b.pcr.phase = 4 →
    (b.traceq = [] → exec (.traceRecordWrite t) s = After s b) ∧
    (b.traceq = x :: q → b.tracePass x = false → exec (.traceRecordWrite t) s = After s { b with traceq := q }) ∧
    (b.traceq = x :: q → b.tracePass x = true → b.dbg.traceLost = 0 → b.dbg.traceMode = 1 → exec (.traceRecordWrite t) s =
      After s (({ b with traceq := q } : Block).tracePut x)) ∧
    (b.traceq = x :: q → b.tracePass x = true → b.dbg.traceMode = 2 → b.traceRoom = 0 → exec (.traceRecordWrite t) s =
      After s (((({ b with traceq := q } : Block).bump R.dbgTraceDrop).putBit R.dbgTraceStat 29 true).onDbg fun d => { d with
        traceLost := d.traceLost + 1 }))) ∧
  (∀ (t : Time) (e : Event) (q : List Event) (s : State), let b := s.blk.tick t
    b.pcr.phase = 4 → b.cpOut 9 = false → b.evq = e :: q → b.dbg.eventLost = 0 →
    (b.evtOpen = true → exec (.eventRecordWrite t) s = After s (({ b with evq := q } : Block).evtPut e)) ∧
    (b.evtOpen = false → exec (.eventRecordWrite t) s =
      After s ((({ b with evq := q } : Block).bump R.sysEvtDrop).onDbg fun d => { d with eventLost := d.eventLost + 1 }))) ∧
  (∀ (t : Time) (s : State), let b := s.blk.tick t
    b.pcr.phase = 4 → b.cpOut 9 = false →
    (b.health.hourAt + 28800000000000 ≤ b.now → exec (.healthHourly t) s = After s (b.hourTurn.healthSet 0x3E3 b.hourTurn.hourBits)) ∧
    (b.now < b.health.hourAt + 28800000000000 → exec (.healthHourly t) s = After s b)) ∧
  (∀ (t : Time) (r : Req) (s : State) (b : Block) (id : Nat), Starts 0x0905 r t s b id →
    r.a0 % 64 = 0 → r.a0 + r.a1 ≤ 0x6000000000 → 512 ≤ r.a1 → r.u 28 4 = 0 → r.u 32 32 = 0 →
    exec (.healthRead t r) s = After s ((b.thrCount.dxWrite r.a0 b.thrCount.healthRecord).ok id 512)) ∧
  (∀ (t : Time) (r : Req) (s : State) (b : Block) (id : Nat), Starts 0x0904 r t s b id →
    r.a0 % 2048 = 0 → inMgmtOs r.a0 r.a1 = true → powerWithin r.a1 (2 ^ 15) (2 ^ 27) = true → r.u 28 4 = 0 → r.u 32 32 = 0 →
    exec (.snapshotConfig t r) s = After s (({ b with health := { b.health with snap := (r.a0, r.a1 / 2048) } } : Block).ok id 0)) ∧
  ∀ (t : Time) (s : State), let b := s.blk.tick t
    let h := if b.cpOut 9 = false ∧ b.health.hourAt + 28800000000000 ≤ b.now then b.hourTurn.healthSet 0x3E3 b.hourTurn.hourBits else b
    let c := h.snapNext
    b.pcr.phase = 4 →
    (b.now < b.health.snapAt + 8000000000 → exec (.telemetrySnapshot t) s = After s b) ∧
    (b.health.snapAt + 8000000000 ≤ b.now → c.health.snap.2 = 0 → exec (.telemetrySnapshot t) s =
      After s ({ c.bump R.sysSnapMiss with health := { c.health with missed := c.health.missed + 1 } })) ∧
    (b.health.snapAt + 8000000000 ≤ b.now → c.cpOut 9 = false → c.funcMode 0x800 = 1 → c.health.snap.2 ≠ 0 → exec (.telemetrySnapshot t) s =
      After s (c.thrCount.snapPut c.health.snap.1 c.health.snap.2))
end

