-- ==== Sys2Proof/Decode.lean ====
section
/-! DEFINITION. The commands that a word of the table of operations spells. The table gives no row any bits. -/

namespace Sys2Proof

/-- The command that a word of `nbits` bits spells by the table: none (log entry 7). -/
def decodeTableWord (_nbits _w : Nat) : Option Instr := none

end Sys2Proof
end

