-- ==== Sys2Proof/Laws/Bits.lean ====
section
/-! SUPPORT. Finite maps read after they are written, and numbers as bytes. -/

namespace Sys2Proof

/-! ## Finite maps -/

@[simp] theorem AMap.get?_nil {α : Type} (k : Nat) : AMap.get? ([] : AMap α) k = none := rfl

theorem AMap.get?_cons {α : Type} (k' k : Nat) (v : α) (m : AMap α) :
    AMap.get? ((k', v) :: m) k = if k = k' then some v else AMap.get? m k := by
  unfold AMap.get?
  rw [List.lookup_cons]
  by_cases h : k = k'
  · simp [h]
  · rw [if_neg h, beq_false_of_ne h]

/-- A map read where it was written. -/
@[simp] theorem AMap.get?_set_self {α : Type} (m : AMap α) (k : Nat) (v : α) : AMap.get? (AMap.set m k v) k = some v := by
  induction m with
  | nil => simp [AMap.set, AMap.get?_cons]
  | cons e m ih =>
    obtain ⟨k', v'⟩ := e
    unfold AMap.set
    split
    · simp [AMap.get?_cons]
    · split
      · simp [AMap.get?_cons]
      · rename_i h
        rw [AMap.get?_cons, if_neg h, ih]

/-- A map read elsewhere. -/
theorem AMap.get?_set_ne {α : Type} (m : AMap α) {k j : Nat} (v : α) (h : j ≠ k) : AMap.get? (AMap.set m k v) j = AMap.get? m j := by
  induction m with
  | nil => simp [AMap.set, AMap.get?_cons, h]
  | cons e m ih =>
    obtain ⟨k', v'⟩ := e
    unfold AMap.set
    split
    · simp [AMap.get?_cons, h]
    · split
      · rename_i hk; subst hk; simp [AMap.get?_cons, h]
      · simp only [AMap.get?_cons, ih]

/-- A map read where a key was taken out. -/
@[simp] theorem AMap.get?_erase_self {α : Type} (m : AMap α) (k : Nat) : AMap.get? (AMap.erase m k) k = none := by
  induction m with
  | nil => rfl
  | cons e m ih =>
    obtain ⟨k', v'⟩ := e
    unfold AMap.erase at ih ⊢
    by_cases h : k' = k
    · simp [h, ih]
    · simp [h, AMap.get?_cons, ih, Ne.symm h]

/-- A map read elsewhere than where a key was taken out. -/
theorem AMap.get?_erase_ne {α : Type} (m : AMap α) {k j : Nat} (h : j ≠ k) : AMap.get? (AMap.erase m k) j = AMap.get? m j := by
  induction m with
  | nil => rfl
  | cons e m ih =>
    obtain ⟨k', v'⟩ := e
    unfold AMap.erase at ih ⊢
    by_cases hk : k' = k
    · subst hk; simp [AMap.get?_cons, h, ih]
    · simp [hk, AMap.get?_cons, ih]

/-- What a write puts into a map. -/
theorem AMap.mem_set {α : Type} {m : AMap α} {k : Nat} {v : α} {e : Nat × α} (h : e ∈ AMap.set m k v) : e = (k, v) ∨ e ∈ m := by
  induction m with
  | nil => exact .inl (List.mem_singleton.1 h)
  | cons c m ih =>
    obtain ⟨k', v'⟩ := c
    unfold AMap.set at h
    split at h
    · exact (List.mem_cons.1 h)
    · split at h
      · exact (List.mem_cons.1 h).imp id fun h => List.mem_cons_of_mem _ h
      · rcases List.mem_cons.1 h with rfl | h
        · exact .inr List.mem_cons_self
        · exact (ih h).imp id fun h => List.mem_cons_of_mem _ h

/-- A write keeps the keys rising. -/
theorem AMap.rising_set {α : Type} {m : AMap α} (k : Nat) (v : α) (h : m.rising) : (AMap.set m k v).rising := by
  unfold AMap.rising at h ⊢
  induction m with
  | nil => exact List.pairwise_singleton _ _
  | cons c m ih =>
    obtain ⟨k', v'⟩ := c
    have hc := List.pairwise_cons.1 h
    unfold AMap.set
    split
    · rename_i hk
      refine List.pairwise_cons.2 ⟨fun e he => ?_, h⟩
      rcases List.mem_cons.1 he with rfl | he
      · exact hk
      · exact Nat.lt_trans hk (hc.1 e he)
    · split
      · rename_i _ hk; subst hk
        exact List.pairwise_cons.2 ⟨hc.1, hc.2⟩
      · refine List.pairwise_cons.2 ⟨fun e he => ?_, ih hc.2⟩
        rcases AMap.mem_set he with rfl | he
        · show k' < k; omega
        · exact hc.1 e he

/-- Taking a key out keeps the keys rising. -/
theorem AMap.rising_erase {α : Type} {m : AMap α} (k : Nat) (h : m.rising) : (AMap.erase m k).rising :=
  List.Pairwise.filter _ h

/-! ## Numbers as bytes -/

@[simp] theorem Bits.leBytes_length (n v : Nat) : (Bits.leBytes n v).length = n := by
  induction n generalizing v with
  | zero => rfl
  | succ n ih => simp [Bits.leBytes, ih]

/-- A number read back from its bytes. -/
@[simp] theorem Bits.ofLe_leBytes (n v : Nat) : Bits.ofLe (Bits.leBytes n v) = v % 2 ^ (8 * n) := by
  induction n generalizing v with
  | zero => simp [Bits.leBytes, Bits.ofLe]; omega
  | succ n ih =>
    have e : (2 : Nat) ^ (8 * (n + 1)) = 256 * 2 ^ (8 * n) := by rw [Nat.mul_add, Nat.pow_add]; omega
    simp only [Bits.leBytes, Bits.ofLe, ih, e, Nat.mod_mul]
    simp

/-- Bytes spell a number below 256 to their count. -/
theorem Bits.ofLe_lt (l : List Byte) : Bits.ofLe l < 2 ^ (8 * l.length) := by
  induction l with
  | nil => decide
  | cons x l ih =>
    have e : (2 : Nat) ^ (8 * (l.length + 1)) = 256 * 2 ^ (8 * l.length) := by rw [Nat.mul_add, Nat.pow_add]; omega
    have := x.isLt
    simp only [Bits.ofLe, List.length_cons, e]
    omega

end Sys2Proof
end

