-- ==== Sys2Proof/Laws/State.lean ====
section
/-! SUPPORT. What each update of the block leaves of each field, so that no proof unfolds an update. -/

namespace Sys2Proof.Machine

/-! ## `Block.setReg` -/

@[simp] theorem Block.setReg_now (a : Nat) (v : Word) (b : Block) : (b.setReg a v).now = b.now := rfl
@[simp] theorem Block.setReg_answer (a : Nat) (v : Word) (b : Block) : (b.setReg a v).answer = b.answer := rfl
@[simp] theorem Block.setReg_fresh (a : Nat) (v : Word) (b : Block) : (b.setReg a v).fresh = b.fresh := rfl
@[simp] theorem Block.setReg_rdLatch (a : Nat) (v : Word) (b : Block) : (b.setReg a v).rdLatch = b.rdLatch := rfl
@[simp] theorem Block.setReg_wrLatch (a : Nat) (v : Word) (b : Block) : (b.setReg a v).wrLatch = b.wrLatch := rfl
@[simp] theorem Block.setReg_out (a : Nat) (v : Word) (b : Block) : (b.setReg a v).out = b.out := rfl
@[simp] theorem Block.setReg_dram (a : Nat) (v : Word) (b : Block) : (b.setReg a v).dram = b.dram := rfl
@[simp] theorem Block.setReg_host (a : Nat) (v : Word) (b : Block) : (b.setReg a v).host = b.host := rfl
@[simp] theorem Block.setReg_sram (a : Nat) (v : Word) (b : Block) : (b.setReg a v).sram = b.sram := rfl
@[simp] theorem Block.setReg_scratch (a : Nat) (v : Word) (b : Block) : (b.setReg a v).scratch = b.scratch := rfl
@[simp] theorem Block.setReg_pcieUp (a : Nat) (v : Word) (b : Block) : (b.setReg a v).pcieUp = b.pcieUp := rfl
@[simp] theorem Block.setReg_rings (a : Nat) (v : Word) (b : Block) : (b.setReg a v).rings = b.rings := rfl
@[simp] theorem Block.setReg_rrLast (a : Nat) (v : Word) (b : Block) : (b.setReg a v).rrLast = b.rrLast := rfl
@[simp] theorem Block.setReg_infl (a : Nat) (v : Word) (b : Block) : (b.setReg a v).infl = b.infl := rfl
@[simp] theorem Block.setReg_nextId (a : Nat) (v : Word) (b : Block) : (b.setReg a v).nextId = b.nextId := rfl
@[simp] theorem Block.setReg_funcs (a : Nat) (v : Word) (b : Block) : (b.setReg a v).funcs = b.funcs := rfl
@[simp] theorem Block.setReg_jobs (a : Nat) (v : Word) (b : Block) : (b.setReg a v).jobs = b.jobs := rfl
@[simp] theorem Block.setReg_cnt (a : Nat) (v : Word) (b : Block) : (b.setReg a v).cnt = b.cnt := rfl
@[simp] theorem Block.setReg_freeIx (a : Nat) (v : Word) (b : Block) : (b.setReg a v).freeIx = b.freeIx := rfl
@[simp] theorem Block.setReg_traceBusy (a : Nat) (v : Word) (b : Block) : (b.setReg a v).traceBusy = b.traceBusy := rfl
@[simp] theorem Block.setReg_evq (a : Nat) (v : Word) (b : Block) : (b.setReg a v).evq = b.evq := rfl
@[simp] theorem Block.setReg_traceq (a : Nat) (v : Word) (b : Block) : (b.setReg a v).traceq = b.traceq := rfl
@[simp] theorem Block.setReg_bm (a : Nat) (v : Word) (b : Block) : (b.setReg a v).bm = b.bm := rfl
@[simp] theorem Block.setReg_banks (a : Nat) (v : Word) (b : Block) : (b.setReg a v).banks = b.banks := rfl
@[simp] theorem Block.setReg_mc (a : Nat) (v : Word) (b : Block) : (b.setReg a v).mc = b.mc := rfl
@[simp] theorem Block.setReg_dbg (a : Nat) (v : Word) (b : Block) : (b.setReg a v).dbg = b.dbg := rfl
@[simp] theorem Block.setReg_clk (a : Nat) (v : Word) (b : Block) : (b.setReg a v).clk = b.clk := rfl
@[simp] theorem Block.setReg_tu (a : Nat) (v : Word) (b : Block) : (b.setReg a v).tu = b.tu := rfl
@[simp] theorem Block.setReg_pcr (a : Nat) (v : Word) (b : Block) : (b.setReg a v).pcr = b.pcr := rfl
@[simp] theorem Block.setReg_health (a : Nat) (v : Word) (b : Block) : (b.setReg a v).health = b.health := rfl
@[simp] theorem Block.setReg_fif (a : Nat) (v : Word) (b : Block) : (b.setReg a v).fif = b.fif := rfl
@[simp] theorem Block.setReg_fwu (a : Nat) (v : Word) (b : Block) : (b.setReg a v).fwu = b.fwu := rfl
@[simp] theorem Block.setReg_ce (a : Nat) (v : Word) (b : Block) : (b.setReg a v).ce = b.ce := rfl
@[simp] theorem Block.setReg_cx (a : Nat) (v : Word) (b : Block) : (b.setReg a v).cx = b.cx := rfl
@[simp] theorem Block.setReg_ss (a : Nat) (v : Word) (b : Block) : (b.setReg a v).ss = b.ss := rfl
@[simp] theorem Block.setReg_te (a : Nat) (v : Word) (b : Block) : (b.setReg a v).te = b.te := rfl
@[simp] theorem Block.setReg_cc (a : Nat) (v : Word) (b : Block) : (b.setReg a v).cc = b.cc := rfl
@[simp] theorem Block.setReg_sec (a : Nat) (v : Word) (b : Block) : (b.setReg a v).sec = b.sec := rfl
@[simp] theorem Block.setReg_lf (a : Nat) (v : Word) (b : Block) : (b.setReg a v).lf = b.lf := rfl
@[simp] theorem Block.setReg_lo (a : Nat) (v : Word) (b : Block) : (b.setReg a v).lo = b.lo := rfl
@[simp] theorem Block.setReg_outq (a : Nat) (v : Word) (b : Block) : (b.setReg a v).outq = b.outq := rfl
@[simp] theorem Block.setReg_inbox (a : Nat) (v : Word) (b : Block) : (b.setReg a v).inbox = b.inbox := rfl
@[simp] theorem Block.setReg_peerGw (a : Nat) (v : Word) (b : Block) : (b.setReg a v).peerGw = b.peerGw := rfl
@[simp] theorem Block.setReg_shrunkTill (a : Nat) (v : Word) (b : Block) : (b.setReg a v).shrunkTill = b.shrunkTill := rfl
@[simp] theorem Block.setReg_noPath (a : Nat) (v : Word) (b : Block) : (b.setReg a v).noPath = b.noPath := rfl

/-! ## `Block.tick` -/

@[simp] theorem Block.tick_regs (t : Time) (b : Block) : (b.tick t).regs = b.regs := rfl
@[simp] theorem Block.tick_answer (t : Time) (b : Block) : (b.tick t).answer = b.answer := rfl
@[simp] theorem Block.tick_rdLatch (t : Time) (b : Block) : (b.tick t).rdLatch = b.rdLatch := rfl
@[simp] theorem Block.tick_wrLatch (t : Time) (b : Block) : (b.tick t).wrLatch = b.wrLatch := rfl
@[simp] theorem Block.tick_out (t : Time) (b : Block) : (b.tick t).out = b.out := rfl
@[simp] theorem Block.tick_dram (t : Time) (b : Block) : (b.tick t).dram = b.dram := rfl
@[simp] theorem Block.tick_host (t : Time) (b : Block) : (b.tick t).host = b.host := rfl
@[simp] theorem Block.tick_sram (t : Time) (b : Block) : (b.tick t).sram = b.sram := rfl
@[simp] theorem Block.tick_scratch (t : Time) (b : Block) : (b.tick t).scratch = b.scratch := rfl
@[simp] theorem Block.tick_pcieUp (t : Time) (b : Block) : (b.tick t).pcieUp = b.pcieUp := rfl
@[simp] theorem Block.tick_rings (t : Time) (b : Block) : (b.tick t).rings = b.rings := rfl
@[simp] theorem Block.tick_rrLast (t : Time) (b : Block) : (b.tick t).rrLast = b.rrLast := rfl
@[simp] theorem Block.tick_infl (t : Time) (b : Block) : (b.tick t).infl = b.infl := rfl
@[simp] theorem Block.tick_nextId (t : Time) (b : Block) : (b.tick t).nextId = b.nextId := rfl
@[simp] theorem Block.tick_funcs (t : Time) (b : Block) : (b.tick t).funcs = b.funcs := rfl
@[simp] theorem Block.tick_jobs (t : Time) (b : Block) : (b.tick t).jobs = b.jobs := rfl
@[simp] theorem Block.tick_cnt (t : Time) (b : Block) : (b.tick t).cnt = b.cnt := rfl
@[simp] theorem Block.tick_freeIx (t : Time) (b : Block) : (b.tick t).freeIx = b.freeIx := rfl
@[simp] theorem Block.tick_traceBusy (t : Time) (b : Block) : (b.tick t).traceBusy = b.traceBusy := rfl
@[simp] theorem Block.tick_evq (t : Time) (b : Block) : (b.tick t).evq = b.evq := rfl
@[simp] theorem Block.tick_traceq (t : Time) (b : Block) : (b.tick t).traceq = b.traceq := rfl
@[simp] theorem Block.tick_bm (t : Time) (b : Block) : (b.tick t).bm = b.bm := rfl
@[simp] theorem Block.tick_banks (t : Time) (b : Block) : (b.tick t).banks = b.banks := rfl
@[simp] theorem Block.tick_mc (t : Time) (b : Block) : (b.tick t).mc = b.mc := rfl
@[simp] theorem Block.tick_dbg (t : Time) (b : Block) : (b.tick t).dbg = b.dbg := rfl
@[simp] theorem Block.tick_clk (t : Time) (b : Block) : (b.tick t).clk = b.clk := rfl
@[simp] theorem Block.tick_tu (t : Time) (b : Block) : (b.tick t).tu = b.tu := rfl
@[simp] theorem Block.tick_pcr (t : Time) (b : Block) : (b.tick t).pcr = b.pcr := rfl
@[simp] theorem Block.tick_health (t : Time) (b : Block) : (b.tick t).health = b.health := rfl
@[simp] theorem Block.tick_fif (t : Time) (b : Block) : (b.tick t).fif = b.fif := rfl
@[simp] theorem Block.tick_fwu (t : Time) (b : Block) : (b.tick t).fwu = b.fwu := rfl
@[simp] theorem Block.tick_ce (t : Time) (b : Block) : (b.tick t).ce = b.ce := rfl
@[simp] theorem Block.tick_cx (t : Time) (b : Block) : (b.tick t).cx = b.cx := rfl
@[simp] theorem Block.tick_ss (t : Time) (b : Block) : (b.tick t).ss = b.ss := rfl
@[simp] theorem Block.tick_te (t : Time) (b : Block) : (b.tick t).te = b.te := rfl
@[simp] theorem Block.tick_cc (t : Time) (b : Block) : (b.tick t).cc = b.cc := rfl
@[simp] theorem Block.tick_sec (t : Time) (b : Block) : (b.tick t).sec = b.sec := rfl
@[simp] theorem Block.tick_lf (t : Time) (b : Block) : (b.tick t).lf = b.lf := rfl
@[simp] theorem Block.tick_lo (t : Time) (b : Block) : (b.tick t).lo = b.lo := rfl
@[simp] theorem Block.tick_outq (t : Time) (b : Block) : (b.tick t).outq = b.outq := rfl
@[simp] theorem Block.tick_inbox (t : Time) (b : Block) : (b.tick t).inbox = b.inbox := rfl
@[simp] theorem Block.tick_peerGw (t : Time) (b : Block) : (b.tick t).peerGw = b.peerGw := rfl
@[simp] theorem Block.tick_shrunkTill (t : Time) (b : Block) : (b.tick t).shrunkTill = b.shrunkTill := rfl
@[simp] theorem Block.tick_noPath (t : Time) (b : Block) : (b.tick t).noPath = b.noPath := rfl

/-! ## `Block.emit` -/

@[simp] theorem Block.emit_now (o : Out) (b : Block) : (b.emit o).now = b.now := rfl
@[simp] theorem Block.emit_regs (o : Out) (b : Block) : (b.emit o).regs = b.regs := rfl
@[simp] theorem Block.emit_answer (o : Out) (b : Block) : (b.emit o).answer = b.answer := rfl
@[simp] theorem Block.emit_fresh (o : Out) (b : Block) : (b.emit o).fresh = b.fresh := rfl
@[simp] theorem Block.emit_rdLatch (o : Out) (b : Block) : (b.emit o).rdLatch = b.rdLatch := rfl
@[simp] theorem Block.emit_wrLatch (o : Out) (b : Block) : (b.emit o).wrLatch = b.wrLatch := rfl
@[simp] theorem Block.emit_dram (o : Out) (b : Block) : (b.emit o).dram = b.dram := rfl
@[simp] theorem Block.emit_host (o : Out) (b : Block) : (b.emit o).host = b.host := rfl
@[simp] theorem Block.emit_sram (o : Out) (b : Block) : (b.emit o).sram = b.sram := rfl
@[simp] theorem Block.emit_scratch (o : Out) (b : Block) : (b.emit o).scratch = b.scratch := rfl
@[simp] theorem Block.emit_pcieUp (o : Out) (b : Block) : (b.emit o).pcieUp = b.pcieUp := rfl
@[simp] theorem Block.emit_rings (o : Out) (b : Block) : (b.emit o).rings = b.rings := rfl
@[simp] theorem Block.emit_rrLast (o : Out) (b : Block) : (b.emit o).rrLast = b.rrLast := rfl
@[simp] theorem Block.emit_infl (o : Out) (b : Block) : (b.emit o).infl = b.infl := rfl
@[simp] theorem Block.emit_nextId (o : Out) (b : Block) : (b.emit o).nextId = b.nextId := rfl
@[simp] theorem Block.emit_funcs (o : Out) (b : Block) : (b.emit o).funcs = b.funcs := rfl
@[simp] theorem Block.emit_jobs (o : Out) (b : Block) : (b.emit o).jobs = b.jobs := rfl
@[simp] theorem Block.emit_cnt (o : Out) (b : Block) : (b.emit o).cnt = b.cnt := rfl
@[simp] theorem Block.emit_freeIx (o : Out) (b : Block) : (b.emit o).freeIx = b.freeIx := rfl
@[simp] theorem Block.emit_traceBusy (o : Out) (b : Block) : (b.emit o).traceBusy = b.traceBusy := rfl
@[simp] theorem Block.emit_evq (o : Out) (b : Block) : (b.emit o).evq = b.evq := rfl
@[simp] theorem Block.emit_traceq (o : Out) (b : Block) : (b.emit o).traceq = b.traceq := rfl
@[simp] theorem Block.emit_bm (o : Out) (b : Block) : (b.emit o).bm = b.bm := rfl
@[simp] theorem Block.emit_banks (o : Out) (b : Block) : (b.emit o).banks = b.banks := rfl
@[simp] theorem Block.emit_mc (o : Out) (b : Block) : (b.emit o).mc = b.mc := rfl
@[simp] theorem Block.emit_dbg (o : Out) (b : Block) : (b.emit o).dbg = b.dbg := rfl
@[simp] theorem Block.emit_clk (o : Out) (b : Block) : (b.emit o).clk = b.clk := rfl
@[simp] theorem Block.emit_tu (o : Out) (b : Block) : (b.emit o).tu = b.tu := rfl
@[simp] theorem Block.emit_pcr (o : Out) (b : Block) : (b.emit o).pcr = b.pcr := rfl
@[simp] theorem Block.emit_health (o : Out) (b : Block) : (b.emit o).health = b.health := rfl
@[simp] theorem Block.emit_fif (o : Out) (b : Block) : (b.emit o).fif = b.fif := rfl
@[simp] theorem Block.emit_fwu (o : Out) (b : Block) : (b.emit o).fwu = b.fwu := rfl
@[simp] theorem Block.emit_ce (o : Out) (b : Block) : (b.emit o).ce = b.ce := rfl
@[simp] theorem Block.emit_cx (o : Out) (b : Block) : (b.emit o).cx = b.cx := rfl
@[simp] theorem Block.emit_ss (o : Out) (b : Block) : (b.emit o).ss = b.ss := rfl
@[simp] theorem Block.emit_te (o : Out) (b : Block) : (b.emit o).te = b.te := rfl
@[simp] theorem Block.emit_cc (o : Out) (b : Block) : (b.emit o).cc = b.cc := rfl
@[simp] theorem Block.emit_sec (o : Out) (b : Block) : (b.emit o).sec = b.sec := rfl
@[simp] theorem Block.emit_lf (o : Out) (b : Block) : (b.emit o).lf = b.lf := rfl
@[simp] theorem Block.emit_lo (o : Out) (b : Block) : (b.emit o).lo = b.lo := rfl
@[simp] theorem Block.emit_outq (o : Out) (b : Block) : (b.emit o).outq = b.outq := rfl
@[simp] theorem Block.emit_inbox (o : Out) (b : Block) : (b.emit o).inbox = b.inbox := rfl
@[simp] theorem Block.emit_peerGw (o : Out) (b : Block) : (b.emit o).peerGw = b.peerGw := rfl
@[simp] theorem Block.emit_shrunkTill (o : Out) (b : Block) : (b.emit o).shrunkTill = b.shrunkTill := rfl
@[simp] theorem Block.emit_noPath (o : Out) (b : Block) : (b.emit o).noPath = b.noPath := rfl

/-! ## `Block.event` -/

@[simp] theorem Block.event_now (typ sev job source : Nat) (d : List Byte) (b : Block) : (b.event typ sev job source d).now = b.now := rfl
@[simp] theorem Block.event_regs (typ sev job source : Nat) (d : List Byte) (b : Block) : (b.event typ sev job source d).regs = b.regs := rfl
@[simp] theorem Block.event_answer (typ sev job source : Nat) (d : List Byte) (b : Block) : (b.event typ sev job source d).answer = b.answer := rfl
@[simp] theorem Block.event_fresh (typ sev job source : Nat) (d : List Byte) (b : Block) : (b.event typ sev job source d).fresh = b.fresh := rfl
@[simp] theorem Block.event_rdLatch (typ sev job source : Nat) (d : List Byte) (b : Block) : (b.event typ sev job source d).rdLatch = b.rdLatch := rfl
@[simp] theorem Block.event_wrLatch (typ sev job source : Nat) (d : List Byte) (b : Block) : (b.event typ sev job source d).wrLatch = b.wrLatch := rfl
@[simp] theorem Block.event_out (typ sev job source : Nat) (d : List Byte) (b : Block) : (b.event typ sev job source d).out = b.out := rfl
@[simp] theorem Block.event_dram (typ sev job source : Nat) (d : List Byte) (b : Block) : (b.event typ sev job source d).dram = b.dram := rfl
@[simp] theorem Block.event_host (typ sev job source : Nat) (d : List Byte) (b : Block) : (b.event typ sev job source d).host = b.host := rfl
@[simp] theorem Block.event_sram (typ sev job source : Nat) (d : List Byte) (b : Block) : (b.event typ sev job source d).sram = b.sram := rfl
@[simp] theorem Block.event_scratch (typ sev job source : Nat) (d : List Byte) (b : Block) : (b.event typ sev job source d).scratch = b.scratch := rfl
@[simp] theorem Block.event_pcieUp (typ sev job source : Nat) (d : List Byte) (b : Block) : (b.event typ sev job source d).pcieUp = b.pcieUp := rfl
@[simp] theorem Block.event_rings (typ sev job source : Nat) (d : List Byte) (b : Block) : (b.event typ sev job source d).rings = b.rings := rfl
@[simp] theorem Block.event_rrLast (typ sev job source : Nat) (d : List Byte) (b : Block) : (b.event typ sev job source d).rrLast = b.rrLast := rfl
@[simp] theorem Block.event_infl (typ sev job source : Nat) (d : List Byte) (b : Block) : (b.event typ sev job source d).infl = b.infl := rfl
@[simp] theorem Block.event_nextId (typ sev job source : Nat) (d : List Byte) (b : Block) : (b.event typ sev job source d).nextId = b.nextId := rfl
@[simp] theorem Block.event_funcs (typ sev job source : Nat) (d : List Byte) (b : Block) : (b.event typ sev job source d).funcs = b.funcs := rfl
@[simp] theorem Block.event_jobs (typ sev job source : Nat) (d : List Byte) (b : Block) : (b.event typ sev job source d).jobs = b.jobs := rfl
@[simp] theorem Block.event_cnt (typ sev job source : Nat) (d : List Byte) (b : Block) : (b.event typ sev job source d).cnt = b.cnt := rfl
@[simp] theorem Block.event_freeIx (typ sev job source : Nat) (d : List Byte) (b : Block) : (b.event typ sev job source d).freeIx = b.freeIx := rfl
@[simp] theorem Block.event_traceBusy (typ sev job source : Nat) (d : List Byte) (b : Block) : (b.event typ sev job source d).traceBusy = b.traceBusy := rfl
@[simp] theorem Block.event_traceq (typ sev job source : Nat) (d : List Byte) (b : Block) : (b.event typ sev job source d).traceq = b.traceq := rfl
@[simp] theorem Block.event_bm (typ sev job source : Nat) (d : List Byte) (b : Block) : (b.event typ sev job source d).bm = b.bm := rfl
@[simp] theorem Block.event_banks (typ sev job source : Nat) (d : List Byte) (b : Block) : (b.event typ sev job source d).banks = b.banks := rfl
@[simp] theorem Block.event_mc (typ sev job source : Nat) (d : List Byte) (b : Block) : (b.event typ sev job source d).mc = b.mc := rfl
@[simp] theorem Block.event_dbg (typ sev job source : Nat) (d : List Byte) (b : Block) : (b.event typ sev job source d).dbg = b.dbg := rfl
@[simp] theorem Block.event_clk (typ sev job source : Nat) (d : List Byte) (b : Block) : (b.event typ sev job source d).clk = b.clk := rfl
@[simp] theorem Block.event_tu (typ sev job source : Nat) (d : List Byte) (b : Block) : (b.event typ sev job source d).tu = b.tu := rfl
@[simp] theorem Block.event_pcr (typ sev job source : Nat) (d : List Byte) (b : Block) : (b.event typ sev job source d).pcr = b.pcr := rfl
@[simp] theorem Block.event_health (typ sev job source : Nat) (d : List Byte) (b : Block) : (b.event typ sev job source d).health = b.health := rfl
@[simp] theorem Block.event_fif (typ sev job source : Nat) (d : List Byte) (b : Block) : (b.event typ sev job source d).fif = b.fif := rfl
@[simp] theorem Block.event_fwu (typ sev job source : Nat) (d : List Byte) (b : Block) : (b.event typ sev job source d).fwu = b.fwu := rfl
@[simp] theorem Block.event_ce (typ sev job source : Nat) (d : List Byte) (b : Block) : (b.event typ sev job source d).ce = b.ce := rfl
@[simp] theorem Block.event_cx (typ sev job source : Nat) (d : List Byte) (b : Block) : (b.event typ sev job source d).cx = b.cx := rfl
@[simp] theorem Block.event_ss (typ sev job source : Nat) (d : List Byte) (b : Block) : (b.event typ sev job source d).ss = b.ss := rfl
@[simp] theorem Block.event_te (typ sev job source : Nat) (d : List Byte) (b : Block) : (b.event typ sev job source d).te = b.te := rfl
@[simp] theorem Block.event_cc (typ sev job source : Nat) (d : List Byte) (b : Block) : (b.event typ sev job source d).cc = b.cc := rfl
@[simp] theorem Block.event_sec (typ sev job source : Nat) (d : List Byte) (b : Block) : (b.event typ sev job source d).sec = b.sec := rfl
@[simp] theorem Block.event_lf (typ sev job source : Nat) (d : List Byte) (b : Block) : (b.event typ sev job source d).lf = b.lf := rfl
@[simp] theorem Block.event_lo (typ sev job source : Nat) (d : List Byte) (b : Block) : (b.event typ sev job source d).lo = b.lo := rfl
@[simp] theorem Block.event_outq (typ sev job source : Nat) (d : List Byte) (b : Block) : (b.event typ sev job source d).outq = b.outq := rfl
@[simp] theorem Block.event_inbox (typ sev job source : Nat) (d : List Byte) (b : Block) : (b.event typ sev job source d).inbox = b.inbox := rfl
@[simp] theorem Block.event_peerGw (typ sev job source : Nat) (d : List Byte) (b : Block) : (b.event typ sev job source d).peerGw = b.peerGw := rfl
@[simp] theorem Block.event_shrunkTill (typ sev job source : Nat) (d : List Byte) (b : Block) : (b.event typ sev job source d).shrunkTill = b.shrunkTill := rfl
@[simp] theorem Block.event_noPath (typ sev job source : Nat) (d : List Byte) (b : Block) : (b.event typ sev job source d).noPath = b.noPath := rfl

/-! ## `Block.trace` -/

@[simp] theorem Block.trace_now (src ev job : Nat) (d : List Byte) (b : Block) : (b.trace src ev job d).now = b.now := rfl
@[simp] theorem Block.trace_regs (src ev job : Nat) (d : List Byte) (b : Block) : (b.trace src ev job d).regs = b.regs := rfl
@[simp] theorem Block.trace_answer (src ev job : Nat) (d : List Byte) (b : Block) : (b.trace src ev job d).answer = b.answer := rfl
@[simp] theorem Block.trace_fresh (src ev job : Nat) (d : List Byte) (b : Block) : (b.trace src ev job d).fresh = b.fresh := rfl
@[simp] theorem Block.trace_rdLatch (src ev job : Nat) (d : List Byte) (b : Block) : (b.trace src ev job d).rdLatch = b.rdLatch := rfl
@[simp] theorem Block.trace_wrLatch (src ev job : Nat) (d : List Byte) (b : Block) : (b.trace src ev job d).wrLatch = b.wrLatch := rfl
@[simp] theorem Block.trace_out (src ev job : Nat) (d : List Byte) (b : Block) : (b.trace src ev job d).out = b.out := rfl
@[simp] theorem Block.trace_dram (src ev job : Nat) (d : List Byte) (b : Block) : (b.trace src ev job d).dram = b.dram := rfl
@[simp] theorem Block.trace_host (src ev job : Nat) (d : List Byte) (b : Block) : (b.trace src ev job d).host = b.host := rfl
@[simp] theorem Block.trace_sram (src ev job : Nat) (d : List Byte) (b : Block) : (b.trace src ev job d).sram = b.sram := rfl
@[simp] theorem Block.trace_scratch (src ev job : Nat) (d : List Byte) (b : Block) : (b.trace src ev job d).scratch = b.scratch := rfl
@[simp] theorem Block.trace_pcieUp (src ev job : Nat) (d : List Byte) (b : Block) : (b.trace src ev job d).pcieUp = b.pcieUp := rfl
@[simp] theorem Block.trace_rings (src ev job : Nat) (d : List Byte) (b : Block) : (b.trace src ev job d).rings = b.rings := rfl
@[simp] theorem Block.trace_rrLast (src ev job : Nat) (d : List Byte) (b : Block) : (b.trace src ev job d).rrLast = b.rrLast := rfl
@[simp] theorem Block.trace_infl (src ev job : Nat) (d : List Byte) (b : Block) : (b.trace src ev job d).infl = b.infl := rfl
@[simp] theorem Block.trace_nextId (src ev job : Nat) (d : List Byte) (b : Block) : (b.trace src ev job d).nextId = b.nextId := rfl
@[simp] theorem Block.trace_funcs (src ev job : Nat) (d : List Byte) (b : Block) : (b.trace src ev job d).funcs = b.funcs := rfl
@[simp] theorem Block.trace_jobs (src ev job : Nat) (d : List Byte) (b : Block) : (b.trace src ev job d).jobs = b.jobs := rfl
@[simp] theorem Block.trace_cnt (src ev job : Nat) (d : List Byte) (b : Block) : (b.trace src ev job d).cnt = b.cnt := rfl
@[simp] theorem Block.trace_freeIx (src ev job : Nat) (d : List Byte) (b : Block) : (b.trace src ev job d).freeIx = b.freeIx := rfl
@[simp] theorem Block.trace_evq (src ev job : Nat) (d : List Byte) (b : Block) : (b.trace src ev job d).evq = b.evq := rfl
@[simp] theorem Block.trace_bm (src ev job : Nat) (d : List Byte) (b : Block) : (b.trace src ev job d).bm = b.bm := rfl
@[simp] theorem Block.trace_banks (src ev job : Nat) (d : List Byte) (b : Block) : (b.trace src ev job d).banks = b.banks := rfl
@[simp] theorem Block.trace_mc (src ev job : Nat) (d : List Byte) (b : Block) : (b.trace src ev job d).mc = b.mc := rfl
@[simp] theorem Block.trace_dbg (src ev job : Nat) (d : List Byte) (b : Block) : (b.trace src ev job d).dbg = b.dbg := rfl
@[simp] theorem Block.trace_clk (src ev job : Nat) (d : List Byte) (b : Block) : (b.trace src ev job d).clk = b.clk := rfl
@[simp] theorem Block.trace_tu (src ev job : Nat) (d : List Byte) (b : Block) : (b.trace src ev job d).tu = b.tu := rfl
@[simp] theorem Block.trace_pcr (src ev job : Nat) (d : List Byte) (b : Block) : (b.trace src ev job d).pcr = b.pcr := rfl
@[simp] theorem Block.trace_health (src ev job : Nat) (d : List Byte) (b : Block) : (b.trace src ev job d).health = b.health := rfl
@[simp] theorem Block.trace_fif (src ev job : Nat) (d : List Byte) (b : Block) : (b.trace src ev job d).fif = b.fif := rfl
@[simp] theorem Block.trace_fwu (src ev job : Nat) (d : List Byte) (b : Block) : (b.trace src ev job d).fwu = b.fwu := rfl
@[simp] theorem Block.trace_ce (src ev job : Nat) (d : List Byte) (b : Block) : (b.trace src ev job d).ce = b.ce := rfl
@[simp] theorem Block.trace_cx (src ev job : Nat) (d : List Byte) (b : Block) : (b.trace src ev job d).cx = b.cx := rfl
@[simp] theorem Block.trace_ss (src ev job : Nat) (d : List Byte) (b : Block) : (b.trace src ev job d).ss = b.ss := rfl
@[simp] theorem Block.trace_te (src ev job : Nat) (d : List Byte) (b : Block) : (b.trace src ev job d).te = b.te := rfl
@[simp] theorem Block.trace_cc (src ev job : Nat) (d : List Byte) (b : Block) : (b.trace src ev job d).cc = b.cc := rfl
@[simp] theorem Block.trace_sec (src ev job : Nat) (d : List Byte) (b : Block) : (b.trace src ev job d).sec = b.sec := rfl
@[simp] theorem Block.trace_lf (src ev job : Nat) (d : List Byte) (b : Block) : (b.trace src ev job d).lf = b.lf := rfl
@[simp] theorem Block.trace_lo (src ev job : Nat) (d : List Byte) (b : Block) : (b.trace src ev job d).lo = b.lo := rfl
@[simp] theorem Block.trace_outq (src ev job : Nat) (d : List Byte) (b : Block) : (b.trace src ev job d).outq = b.outq := rfl
@[simp] theorem Block.trace_inbox (src ev job : Nat) (d : List Byte) (b : Block) : (b.trace src ev job d).inbox = b.inbox := rfl
@[simp] theorem Block.trace_peerGw (src ev job : Nat) (d : List Byte) (b : Block) : (b.trace src ev job d).peerGw = b.peerGw := rfl
@[simp] theorem Block.trace_shrunkTill (src ev job : Nat) (d : List Byte) (b : Block) : (b.trace src ev job d).shrunkTill = b.shrunkTill := rfl
@[simp] theorem Block.trace_noPath (src ev job : Nat) (d : List Byte) (b : Block) : (b.trace src ev job d).noPath = b.noPath := rfl

/-! ## `Block.onFif` -/

@[simp] theorem Block.onFif_now (f : FifState → FifState) (b : Block) : (b.onFif f).now = b.now := rfl
@[simp] theorem Block.onFif_regs (f : FifState → FifState) (b : Block) : (b.onFif f).regs = b.regs := rfl
@[simp] theorem Block.onFif_answer (f : FifState → FifState) (b : Block) : (b.onFif f).answer = b.answer := rfl
@[simp] theorem Block.onFif_fresh (f : FifState → FifState) (b : Block) : (b.onFif f).fresh = b.fresh := rfl
@[simp] theorem Block.onFif_rdLatch (f : FifState → FifState) (b : Block) : (b.onFif f).rdLatch = b.rdLatch := rfl
@[simp] theorem Block.onFif_wrLatch (f : FifState → FifState) (b : Block) : (b.onFif f).wrLatch = b.wrLatch := rfl
@[simp] theorem Block.onFif_out (f : FifState → FifState) (b : Block) : (b.onFif f).out = b.out := rfl
@[simp] theorem Block.onFif_dram (f : FifState → FifState) (b : Block) : (b.onFif f).dram = b.dram := rfl
@[simp] theorem Block.onFif_host (f : FifState → FifState) (b : Block) : (b.onFif f).host = b.host := rfl
@[simp] theorem Block.onFif_sram (f : FifState → FifState) (b : Block) : (b.onFif f).sram = b.sram := rfl
@[simp] theorem Block.onFif_scratch (f : FifState → FifState) (b : Block) : (b.onFif f).scratch = b.scratch := rfl
@[simp] theorem Block.onFif_pcieUp (f : FifState → FifState) (b : Block) : (b.onFif f).pcieUp = b.pcieUp := rfl
@[simp] theorem Block.onFif_rings (f : FifState → FifState) (b : Block) : (b.onFif f).rings = b.rings := rfl
@[simp] theorem Block.onFif_rrLast (f : FifState → FifState) (b : Block) : (b.onFif f).rrLast = b.rrLast := rfl
@[simp] theorem Block.onFif_infl (f : FifState → FifState) (b : Block) : (b.onFif f).infl = b.infl := rfl
@[simp] theorem Block.onFif_nextId (f : FifState → FifState) (b : Block) : (b.onFif f).nextId = b.nextId := rfl
@[simp] theorem Block.onFif_funcs (f : FifState → FifState) (b : Block) : (b.onFif f).funcs = b.funcs := rfl
@[simp] theorem Block.onFif_jobs (f : FifState → FifState) (b : Block) : (b.onFif f).jobs = b.jobs := rfl
@[simp] theorem Block.onFif_cnt (f : FifState → FifState) (b : Block) : (b.onFif f).cnt = b.cnt := rfl
@[simp] theorem Block.onFif_freeIx (f : FifState → FifState) (b : Block) : (b.onFif f).freeIx = b.freeIx := rfl
@[simp] theorem Block.onFif_traceBusy (f : FifState → FifState) (b : Block) : (b.onFif f).traceBusy = b.traceBusy := rfl
@[simp] theorem Block.onFif_evq (f : FifState → FifState) (b : Block) : (b.onFif f).evq = b.evq := rfl
@[simp] theorem Block.onFif_traceq (f : FifState → FifState) (b : Block) : (b.onFif f).traceq = b.traceq := rfl
@[simp] theorem Block.onFif_bm (f : FifState → FifState) (b : Block) : (b.onFif f).bm = b.bm := rfl
@[simp] theorem Block.onFif_banks (f : FifState → FifState) (b : Block) : (b.onFif f).banks = b.banks := rfl
@[simp] theorem Block.onFif_mc (f : FifState → FifState) (b : Block) : (b.onFif f).mc = b.mc := rfl
@[simp] theorem Block.onFif_dbg (f : FifState → FifState) (b : Block) : (b.onFif f).dbg = b.dbg := rfl
@[simp] theorem Block.onFif_clk (f : FifState → FifState) (b : Block) : (b.onFif f).clk = b.clk := rfl
@[simp] theorem Block.onFif_tu (f : FifState → FifState) (b : Block) : (b.onFif f).tu = b.tu := rfl
@[simp] theorem Block.onFif_pcr (f : FifState → FifState) (b : Block) : (b.onFif f).pcr = b.pcr := rfl
@[simp] theorem Block.onFif_health (f : FifState → FifState) (b : Block) : (b.onFif f).health = b.health := rfl
@[simp] theorem Block.onFif_fif (f : FifState → FifState) (b : Block) : (b.onFif f).fif = f b.fif := rfl
@[simp] theorem Block.onFif_fwu (f : FifState → FifState) (b : Block) : (b.onFif f).fwu = b.fwu := rfl
@[simp] theorem Block.onFif_ce (f : FifState → FifState) (b : Block) : (b.onFif f).ce = b.ce := rfl
@[simp] theorem Block.onFif_cx (f : FifState → FifState) (b : Block) : (b.onFif f).cx = b.cx := rfl
@[simp] theorem Block.onFif_ss (f : FifState → FifState) (b : Block) : (b.onFif f).ss = b.ss := rfl
@[simp] theorem Block.onFif_te (f : FifState → FifState) (b : Block) : (b.onFif f).te = b.te := rfl
@[simp] theorem Block.onFif_cc (f : FifState → FifState) (b : Block) : (b.onFif f).cc = b.cc := rfl
@[simp] theorem Block.onFif_sec (f : FifState → FifState) (b : Block) : (b.onFif f).sec = b.sec := rfl
@[simp] theorem Block.onFif_lf (f : FifState → FifState) (b : Block) : (b.onFif f).lf = b.lf := rfl
@[simp] theorem Block.onFif_lo (f : FifState → FifState) (b : Block) : (b.onFif f).lo = b.lo := rfl
@[simp] theorem Block.onFif_outq (f : FifState → FifState) (b : Block) : (b.onFif f).outq = b.outq := rfl
@[simp] theorem Block.onFif_inbox (f : FifState → FifState) (b : Block) : (b.onFif f).inbox = b.inbox := rfl
@[simp] theorem Block.onFif_peerGw (f : FifState → FifState) (b : Block) : (b.onFif f).peerGw = b.peerGw := rfl
@[simp] theorem Block.onFif_shrunkTill (f : FifState → FifState) (b : Block) : (b.onFif f).shrunkTill = b.shrunkTill := rfl
@[simp] theorem Block.onFif_noPath (f : FifState → FifState) (b : Block) : (b.onFif f).noPath = b.noPath := rfl

/-! ## `Block.onFwu` -/

@[simp] theorem Block.onFwu_now (f : FwuState → FwuState) (b : Block) : (b.onFwu f).now = b.now := rfl
@[simp] theorem Block.onFwu_regs (f : FwuState → FwuState) (b : Block) : (b.onFwu f).regs = b.regs := rfl
@[simp] theorem Block.onFwu_answer (f : FwuState → FwuState) (b : Block) : (b.onFwu f).answer = b.answer := rfl
@[simp] theorem Block.onFwu_fresh (f : FwuState → FwuState) (b : Block) : (b.onFwu f).fresh = b.fresh := rfl
@[simp] theorem Block.onFwu_rdLatch (f : FwuState → FwuState) (b : Block) : (b.onFwu f).rdLatch = b.rdLatch := rfl
@[simp] theorem Block.onFwu_wrLatch (f : FwuState → FwuState) (b : Block) : (b.onFwu f).wrLatch = b.wrLatch := rfl
@[simp] theorem Block.onFwu_out (f : FwuState → FwuState) (b : Block) : (b.onFwu f).out = b.out := rfl
@[simp] theorem Block.onFwu_dram (f : FwuState → FwuState) (b : Block) : (b.onFwu f).dram = b.dram := rfl
@[simp] theorem Block.onFwu_host (f : FwuState → FwuState) (b : Block) : (b.onFwu f).host = b.host := rfl
@[simp] theorem Block.onFwu_sram (f : FwuState → FwuState) (b : Block) : (b.onFwu f).sram = b.sram := rfl
@[simp] theorem Block.onFwu_scratch (f : FwuState → FwuState) (b : Block) : (b.onFwu f).scratch = b.scratch := rfl
@[simp] theorem Block.onFwu_pcieUp (f : FwuState → FwuState) (b : Block) : (b.onFwu f).pcieUp = b.pcieUp := rfl
@[simp] theorem Block.onFwu_rings (f : FwuState → FwuState) (b : Block) : (b.onFwu f).rings = b.rings := rfl
@[simp] theorem Block.onFwu_rrLast (f : FwuState → FwuState) (b : Block) : (b.onFwu f).rrLast = b.rrLast := rfl
@[simp] theorem Block.onFwu_infl (f : FwuState → FwuState) (b : Block) : (b.onFwu f).infl = b.infl := rfl
@[simp] theorem Block.onFwu_nextId (f : FwuState → FwuState) (b : Block) : (b.onFwu f).nextId = b.nextId := rfl
@[simp] theorem Block.onFwu_funcs (f : FwuState → FwuState) (b : Block) : (b.onFwu f).funcs = b.funcs := rfl
@[simp] theorem Block.onFwu_jobs (f : FwuState → FwuState) (b : Block) : (b.onFwu f).jobs = b.jobs := rfl
@[simp] theorem Block.onFwu_cnt (f : FwuState → FwuState) (b : Block) : (b.onFwu f).cnt = b.cnt := rfl
@[simp] theorem Block.onFwu_freeIx (f : FwuState → FwuState) (b : Block) : (b.onFwu f).freeIx = b.freeIx := rfl
@[simp] theorem Block.onFwu_traceBusy (f : FwuState → FwuState) (b : Block) : (b.onFwu f).traceBusy = b.traceBusy := rfl
@[simp] theorem Block.onFwu_evq (f : FwuState → FwuState) (b : Block) : (b.onFwu f).evq = b.evq := rfl
@[simp] theorem Block.onFwu_traceq (f : FwuState → FwuState) (b : Block) : (b.onFwu f).traceq = b.traceq := rfl
@[simp] theorem Block.onFwu_bm (f : FwuState → FwuState) (b : Block) : (b.onFwu f).bm = b.bm := rfl
@[simp] theorem Block.onFwu_banks (f : FwuState → FwuState) (b : Block) : (b.onFwu f).banks = b.banks := rfl
@[simp] theorem Block.onFwu_mc (f : FwuState → FwuState) (b : Block) : (b.onFwu f).mc = b.mc := rfl
@[simp] theorem Block.onFwu_dbg (f : FwuState → FwuState) (b : Block) : (b.onFwu f).dbg = b.dbg := rfl
@[simp] theorem Block.onFwu_clk (f : FwuState → FwuState) (b : Block) : (b.onFwu f).clk = b.clk := rfl
@[simp] theorem Block.onFwu_tu (f : FwuState → FwuState) (b : Block) : (b.onFwu f).tu = b.tu := rfl
@[simp] theorem Block.onFwu_pcr (f : FwuState → FwuState) (b : Block) : (b.onFwu f).pcr = b.pcr := rfl
@[simp] theorem Block.onFwu_health (f : FwuState → FwuState) (b : Block) : (b.onFwu f).health = b.health := rfl
@[simp] theorem Block.onFwu_fif (f : FwuState → FwuState) (b : Block) : (b.onFwu f).fif = b.fif := rfl
@[simp] theorem Block.onFwu_fwu (f : FwuState → FwuState) (b : Block) : (b.onFwu f).fwu = f b.fwu := rfl
@[simp] theorem Block.onFwu_ce (f : FwuState → FwuState) (b : Block) : (b.onFwu f).ce = b.ce := rfl
@[simp] theorem Block.onFwu_cx (f : FwuState → FwuState) (b : Block) : (b.onFwu f).cx = b.cx := rfl
@[simp] theorem Block.onFwu_ss (f : FwuState → FwuState) (b : Block) : (b.onFwu f).ss = b.ss := rfl
@[simp] theorem Block.onFwu_te (f : FwuState → FwuState) (b : Block) : (b.onFwu f).te = b.te := rfl
@[simp] theorem Block.onFwu_cc (f : FwuState → FwuState) (b : Block) : (b.onFwu f).cc = b.cc := rfl
@[simp] theorem Block.onFwu_sec (f : FwuState → FwuState) (b : Block) : (b.onFwu f).sec = b.sec := rfl
@[simp] theorem Block.onFwu_lf (f : FwuState → FwuState) (b : Block) : (b.onFwu f).lf = b.lf := rfl
@[simp] theorem Block.onFwu_lo (f : FwuState → FwuState) (b : Block) : (b.onFwu f).lo = b.lo := rfl
@[simp] theorem Block.onFwu_outq (f : FwuState → FwuState) (b : Block) : (b.onFwu f).outq = b.outq := rfl
@[simp] theorem Block.onFwu_inbox (f : FwuState → FwuState) (b : Block) : (b.onFwu f).inbox = b.inbox := rfl
@[simp] theorem Block.onFwu_peerGw (f : FwuState → FwuState) (b : Block) : (b.onFwu f).peerGw = b.peerGw := rfl
@[simp] theorem Block.onFwu_shrunkTill (f : FwuState → FwuState) (b : Block) : (b.onFwu f).shrunkTill = b.shrunkTill := rfl
@[simp] theorem Block.onFwu_noPath (f : FwuState → FwuState) (b : Block) : (b.onFwu f).noPath = b.noPath := rfl

/-! ## `Block.onCe` -/

@[simp] theorem Block.onCe_now (f : CeState → CeState) (b : Block) : (b.onCe f).now = b.now := rfl
@[simp] theorem Block.onCe_regs (f : CeState → CeState) (b : Block) : (b.onCe f).regs = b.regs := rfl
@[simp] theorem Block.onCe_answer (f : CeState → CeState) (b : Block) : (b.onCe f).answer = b.answer := rfl
@[simp] theorem Block.onCe_fresh (f : CeState → CeState) (b : Block) : (b.onCe f).fresh = b.fresh := rfl
@[simp] theorem Block.onCe_rdLatch (f : CeState → CeState) (b : Block) : (b.onCe f).rdLatch = b.rdLatch := rfl
@[simp] theorem Block.onCe_wrLatch (f : CeState → CeState) (b : Block) : (b.onCe f).wrLatch = b.wrLatch := rfl
@[simp] theorem Block.onCe_out (f : CeState → CeState) (b : Block) : (b.onCe f).out = b.out := rfl
@[simp] theorem Block.onCe_dram (f : CeState → CeState) (b : Block) : (b.onCe f).dram = b.dram := rfl
@[simp] theorem Block.onCe_host (f : CeState → CeState) (b : Block) : (b.onCe f).host = b.host := rfl
@[simp] theorem Block.onCe_sram (f : CeState → CeState) (b : Block) : (b.onCe f).sram = b.sram := rfl
@[simp] theorem Block.onCe_scratch (f : CeState → CeState) (b : Block) : (b.onCe f).scratch = b.scratch := rfl
@[simp] theorem Block.onCe_pcieUp (f : CeState → CeState) (b : Block) : (b.onCe f).pcieUp = b.pcieUp := rfl
@[simp] theorem Block.onCe_rings (f : CeState → CeState) (b : Block) : (b.onCe f).rings = b.rings := rfl
@[simp] theorem Block.onCe_rrLast (f : CeState → CeState) (b : Block) : (b.onCe f).rrLast = b.rrLast := rfl
@[simp] theorem Block.onCe_infl (f : CeState → CeState) (b : Block) : (b.onCe f).infl = b.infl := rfl
@[simp] theorem Block.onCe_nextId (f : CeState → CeState) (b : Block) : (b.onCe f).nextId = b.nextId := rfl
@[simp] theorem Block.onCe_funcs (f : CeState → CeState) (b : Block) : (b.onCe f).funcs = b.funcs := rfl
@[simp] theorem Block.onCe_jobs (f : CeState → CeState) (b : Block) : (b.onCe f).jobs = b.jobs := rfl
@[simp] theorem Block.onCe_cnt (f : CeState → CeState) (b : Block) : (b.onCe f).cnt = b.cnt := rfl
@[simp] theorem Block.onCe_freeIx (f : CeState → CeState) (b : Block) : (b.onCe f).freeIx = b.freeIx := rfl
@[simp] theorem Block.onCe_traceBusy (f : CeState → CeState) (b : Block) : (b.onCe f).traceBusy = b.traceBusy := rfl
@[simp] theorem Block.onCe_evq (f : CeState → CeState) (b : Block) : (b.onCe f).evq = b.evq := rfl
@[simp] theorem Block.onCe_traceq (f : CeState → CeState) (b : Block) : (b.onCe f).traceq = b.traceq := rfl
@[simp] theorem Block.onCe_bm (f : CeState → CeState) (b : Block) : (b.onCe f).bm = b.bm := rfl
@[simp] theorem Block.onCe_banks (f : CeState → CeState) (b : Block) : (b.onCe f).banks = b.banks := rfl
@[simp] theorem Block.onCe_mc (f : CeState → CeState) (b : Block) : (b.onCe f).mc = b.mc := rfl
@[simp] theorem Block.onCe_dbg (f : CeState → CeState) (b : Block) : (b.onCe f).dbg = b.dbg := rfl
@[simp] theorem Block.onCe_clk (f : CeState → CeState) (b : Block) : (b.onCe f).clk = b.clk := rfl
@[simp] theorem Block.onCe_tu (f : CeState → CeState) (b : Block) : (b.onCe f).tu = b.tu := rfl
@[simp] theorem Block.onCe_pcr (f : CeState → CeState) (b : Block) : (b.onCe f).pcr = b.pcr := rfl
@[simp] theorem Block.onCe_health (f : CeState → CeState) (b : Block) : (b.onCe f).health = b.health := rfl
@[simp] theorem Block.onCe_fif (f : CeState → CeState) (b : Block) : (b.onCe f).fif = b.fif := rfl
@[simp] theorem Block.onCe_fwu (f : CeState → CeState) (b : Block) : (b.onCe f).fwu = b.fwu := rfl
@[simp] theorem Block.onCe_ce (f : CeState → CeState) (b : Block) : (b.onCe f).ce = f b.ce := rfl
@[simp] theorem Block.onCe_cx (f : CeState → CeState) (b : Block) : (b.onCe f).cx = b.cx := rfl
@[simp] theorem Block.onCe_ss (f : CeState → CeState) (b : Block) : (b.onCe f).ss = b.ss := rfl
@[simp] theorem Block.onCe_te (f : CeState → CeState) (b : Block) : (b.onCe f).te = b.te := rfl
@[simp] theorem Block.onCe_cc (f : CeState → CeState) (b : Block) : (b.onCe f).cc = b.cc := rfl
@[simp] theorem Block.onCe_sec (f : CeState → CeState) (b : Block) : (b.onCe f).sec = b.sec := rfl
@[simp] theorem Block.onCe_lf (f : CeState → CeState) (b : Block) : (b.onCe f).lf = b.lf := rfl
@[simp] theorem Block.onCe_lo (f : CeState → CeState) (b : Block) : (b.onCe f).lo = b.lo := rfl
@[simp] theorem Block.onCe_outq (f : CeState → CeState) (b : Block) : (b.onCe f).outq = b.outq := rfl
@[simp] theorem Block.onCe_inbox (f : CeState → CeState) (b : Block) : (b.onCe f).inbox = b.inbox := rfl
@[simp] theorem Block.onCe_peerGw (f : CeState → CeState) (b : Block) : (b.onCe f).peerGw = b.peerGw := rfl
@[simp] theorem Block.onCe_shrunkTill (f : CeState → CeState) (b : Block) : (b.onCe f).shrunkTill = b.shrunkTill := rfl
@[simp] theorem Block.onCe_noPath (f : CeState → CeState) (b : Block) : (b.onCe f).noPath = b.noPath := rfl

/-! ## `Block.onCx` -/

@[simp] theorem Block.onCx_now (f : CxState → CxState) (b : Block) : (b.onCx f).now = b.now := rfl
@[simp] theorem Block.onCx_regs (f : CxState → CxState) (b : Block) : (b.onCx f).regs = b.regs := rfl
@[simp] theorem Block.onCx_answer (f : CxState → CxState) (b : Block) : (b.onCx f).answer = b.answer := rfl
@[simp] theorem Block.onCx_fresh (f : CxState → CxState) (b : Block) : (b.onCx f).fresh = b.fresh := rfl
@[simp] theorem Block.onCx_rdLatch (f : CxState → CxState) (b : Block) : (b.onCx f).rdLatch = b.rdLatch := rfl
@[simp] theorem Block.onCx_wrLatch (f : CxState → CxState) (b : Block) : (b.onCx f).wrLatch = b.wrLatch := rfl
@[simp] theorem Block.onCx_out (f : CxState → CxState) (b : Block) : (b.onCx f).out = b.out := rfl
@[simp] theorem Block.onCx_dram (f : CxState → CxState) (b : Block) : (b.onCx f).dram = b.dram := rfl
@[simp] theorem Block.onCx_host (f : CxState → CxState) (b : Block) : (b.onCx f).host = b.host := rfl
@[simp] theorem Block.onCx_sram (f : CxState → CxState) (b : Block) : (b.onCx f).sram = b.sram := rfl
@[simp] theorem Block.onCx_scratch (f : CxState → CxState) (b : Block) : (b.onCx f).scratch = b.scratch := rfl
@[simp] theorem Block.onCx_pcieUp (f : CxState → CxState) (b : Block) : (b.onCx f).pcieUp = b.pcieUp := rfl
@[simp] theorem Block.onCx_rings (f : CxState → CxState) (b : Block) : (b.onCx f).rings = b.rings := rfl
@[simp] theorem Block.onCx_rrLast (f : CxState → CxState) (b : Block) : (b.onCx f).rrLast = b.rrLast := rfl
@[simp] theorem Block.onCx_infl (f : CxState → CxState) (b : Block) : (b.onCx f).infl = b.infl := rfl
@[simp] theorem Block.onCx_nextId (f : CxState → CxState) (b : Block) : (b.onCx f).nextId = b.nextId := rfl
@[simp] theorem Block.onCx_funcs (f : CxState → CxState) (b : Block) : (b.onCx f).funcs = b.funcs := rfl
@[simp] theorem Block.onCx_jobs (f : CxState → CxState) (b : Block) : (b.onCx f).jobs = b.jobs := rfl
@[simp] theorem Block.onCx_cnt (f : CxState → CxState) (b : Block) : (b.onCx f).cnt = b.cnt := rfl
@[simp] theorem Block.onCx_freeIx (f : CxState → CxState) (b : Block) : (b.onCx f).freeIx = b.freeIx := rfl
@[simp] theorem Block.onCx_traceBusy (f : CxState → CxState) (b : Block) : (b.onCx f).traceBusy = b.traceBusy := rfl
@[simp] theorem Block.onCx_evq (f : CxState → CxState) (b : Block) : (b.onCx f).evq = b.evq := rfl
@[simp] theorem Block.onCx_traceq (f : CxState → CxState) (b : Block) : (b.onCx f).traceq = b.traceq := rfl
@[simp] theorem Block.onCx_bm (f : CxState → CxState) (b : Block) : (b.onCx f).bm = b.bm := rfl
@[simp] theorem Block.onCx_banks (f : CxState → CxState) (b : Block) : (b.onCx f).banks = b.banks := rfl
@[simp] theorem Block.onCx_mc (f : CxState → CxState) (b : Block) : (b.onCx f).mc = b.mc := rfl
@[simp] theorem Block.onCx_dbg (f : CxState → CxState) (b : Block) : (b.onCx f).dbg = b.dbg := rfl
@[simp] theorem Block.onCx_clk (f : CxState → CxState) (b : Block) : (b.onCx f).clk = b.clk := rfl
@[simp] theorem Block.onCx_tu (f : CxState → CxState) (b : Block) : (b.onCx f).tu = b.tu := rfl
@[simp] theorem Block.onCx_pcr (f : CxState → CxState) (b : Block) : (b.onCx f).pcr = b.pcr := rfl
@[simp] theorem Block.onCx_health (f : CxState → CxState) (b : Block) : (b.onCx f).health = b.health := rfl
@[simp] theorem Block.onCx_fif (f : CxState → CxState) (b : Block) : (b.onCx f).fif = b.fif := rfl
@[simp] theorem Block.onCx_fwu (f : CxState → CxState) (b : Block) : (b.onCx f).fwu = b.fwu := rfl
@[simp] theorem Block.onCx_ce (f : CxState → CxState) (b : Block) : (b.onCx f).ce = b.ce := rfl
@[simp] theorem Block.onCx_cx (f : CxState → CxState) (b : Block) : (b.onCx f).cx = f b.cx := rfl
@[simp] theorem Block.onCx_ss (f : CxState → CxState) (b : Block) : (b.onCx f).ss = b.ss := rfl
@[simp] theorem Block.onCx_te (f : CxState → CxState) (b : Block) : (b.onCx f).te = b.te := rfl
@[simp] theorem Block.onCx_cc (f : CxState → CxState) (b : Block) : (b.onCx f).cc = b.cc := rfl
@[simp] theorem Block.onCx_sec (f : CxState → CxState) (b : Block) : (b.onCx f).sec = b.sec := rfl
@[simp] theorem Block.onCx_lf (f : CxState → CxState) (b : Block) : (b.onCx f).lf = b.lf := rfl
@[simp] theorem Block.onCx_lo (f : CxState → CxState) (b : Block) : (b.onCx f).lo = b.lo := rfl
@[simp] theorem Block.onCx_outq (f : CxState → CxState) (b : Block) : (b.onCx f).outq = b.outq := rfl
@[simp] theorem Block.onCx_inbox (f : CxState → CxState) (b : Block) : (b.onCx f).inbox = b.inbox := rfl
@[simp] theorem Block.onCx_peerGw (f : CxState → CxState) (b : Block) : (b.onCx f).peerGw = b.peerGw := rfl
@[simp] theorem Block.onCx_shrunkTill (f : CxState → CxState) (b : Block) : (b.onCx f).shrunkTill = b.shrunkTill := rfl
@[simp] theorem Block.onCx_noPath (f : CxState → CxState) (b : Block) : (b.onCx f).noPath = b.noPath := rfl

/-! ## `Block.onSs` -/

@[simp] theorem Block.onSs_now (f : SsState → SsState) (b : Block) : (b.onSs f).now = b.now := rfl
@[simp] theorem Block.onSs_regs (f : SsState → SsState) (b : Block) : (b.onSs f).regs = b.regs := rfl
@[simp] theorem Block.onSs_answer (f : SsState → SsState) (b : Block) : (b.onSs f).answer = b.answer := rfl
@[simp] theorem Block.onSs_fresh (f : SsState → SsState) (b : Block) : (b.onSs f).fresh = b.fresh := rfl
@[simp] theorem Block.onSs_rdLatch (f : SsState → SsState) (b : Block) : (b.onSs f).rdLatch = b.rdLatch := rfl
@[simp] theorem Block.onSs_wrLatch (f : SsState → SsState) (b : Block) : (b.onSs f).wrLatch = b.wrLatch := rfl
@[simp] theorem Block.onSs_out (f : SsState → SsState) (b : Block) : (b.onSs f).out = b.out := rfl
@[simp] theorem Block.onSs_dram (f : SsState → SsState) (b : Block) : (b.onSs f).dram = b.dram := rfl
@[simp] theorem Block.onSs_host (f : SsState → SsState) (b : Block) : (b.onSs f).host = b.host := rfl
@[simp] theorem Block.onSs_sram (f : SsState → SsState) (b : Block) : (b.onSs f).sram = b.sram := rfl
@[simp] theorem Block.onSs_scratch (f : SsState → SsState) (b : Block) : (b.onSs f).scratch = b.scratch := rfl
@[simp] theorem Block.onSs_pcieUp (f : SsState → SsState) (b : Block) : (b.onSs f).pcieUp = b.pcieUp := rfl
@[simp] theorem Block.onSs_rings (f : SsState → SsState) (b : Block) : (b.onSs f).rings = b.rings := rfl
@[simp] theorem Block.onSs_rrLast (f : SsState → SsState) (b : Block) : (b.onSs f).rrLast = b.rrLast := rfl
@[simp] theorem Block.onSs_infl (f : SsState → SsState) (b : Block) : (b.onSs f).infl = b.infl := rfl
@[simp] theorem Block.onSs_nextId (f : SsState → SsState) (b : Block) : (b.onSs f).nextId = b.nextId := rfl
@[simp] theorem Block.onSs_funcs (f : SsState → SsState) (b : Block) : (b.onSs f).funcs = b.funcs := rfl
@[simp] theorem Block.onSs_jobs (f : SsState → SsState) (b : Block) : (b.onSs f).jobs = b.jobs := rfl
@[simp] theorem Block.onSs_cnt (f : SsState → SsState) (b : Block) : (b.onSs f).cnt = b.cnt := rfl
@[simp] theorem Block.onSs_freeIx (f : SsState → SsState) (b : Block) : (b.onSs f).freeIx = b.freeIx := rfl
@[simp] theorem Block.onSs_traceBusy (f : SsState → SsState) (b : Block) : (b.onSs f).traceBusy = b.traceBusy := rfl
@[simp] theorem Block.onSs_evq (f : SsState → SsState) (b : Block) : (b.onSs f).evq = b.evq := rfl
@[simp] theorem Block.onSs_traceq (f : SsState → SsState) (b : Block) : (b.onSs f).traceq = b.traceq := rfl
@[simp] theorem Block.onSs_bm (f : SsState → SsState) (b : Block) : (b.onSs f).bm = b.bm := rfl
@[simp] theorem Block.onSs_banks (f : SsState → SsState) (b : Block) : (b.onSs f).banks = b.banks := rfl
@[simp] theorem Block.onSs_mc (f : SsState → SsState) (b : Block) : (b.onSs f).mc = b.mc := rfl
@[simp] theorem Block.onSs_dbg (f : SsState → SsState) (b : Block) : (b.onSs f).dbg = b.dbg := rfl
@[simp] theorem Block.onSs_clk (f : SsState → SsState) (b : Block) : (b.onSs f).clk = b.clk := rfl
@[simp] theorem Block.onSs_tu (f : SsState → SsState) (b : Block) : (b.onSs f).tu = b.tu := rfl
@[simp] theorem Block.onSs_pcr (f : SsState → SsState) (b : Block) : (b.onSs f).pcr = b.pcr := rfl
@[simp] theorem Block.onSs_health (f : SsState → SsState) (b : Block) : (b.onSs f).health = b.health := rfl
@[simp] theorem Block.onSs_fif (f : SsState → SsState) (b : Block) : (b.onSs f).fif = b.fif := rfl
@[simp] theorem Block.onSs_fwu (f : SsState → SsState) (b : Block) : (b.onSs f).fwu = b.fwu := rfl
@[simp] theorem Block.onSs_ce (f : SsState → SsState) (b : Block) : (b.onSs f).ce = b.ce := rfl
@[simp] theorem Block.onSs_cx (f : SsState → SsState) (b : Block) : (b.onSs f).cx = b.cx := rfl
@[simp] theorem Block.onSs_ss (f : SsState → SsState) (b : Block) : (b.onSs f).ss = f b.ss := rfl
@[simp] theorem Block.onSs_te (f : SsState → SsState) (b : Block) : (b.onSs f).te = b.te := rfl
@[simp] theorem Block.onSs_cc (f : SsState → SsState) (b : Block) : (b.onSs f).cc = b.cc := rfl
@[simp] theorem Block.onSs_sec (f : SsState → SsState) (b : Block) : (b.onSs f).sec = b.sec := rfl
@[simp] theorem Block.onSs_lf (f : SsState → SsState) (b : Block) : (b.onSs f).lf = b.lf := rfl
@[simp] theorem Block.onSs_lo (f : SsState → SsState) (b : Block) : (b.onSs f).lo = b.lo := rfl
@[simp] theorem Block.onSs_outq (f : SsState → SsState) (b : Block) : (b.onSs f).outq = b.outq := rfl
@[simp] theorem Block.onSs_inbox (f : SsState → SsState) (b : Block) : (b.onSs f).inbox = b.inbox := rfl
@[simp] theorem Block.onSs_peerGw (f : SsState → SsState) (b : Block) : (b.onSs f).peerGw = b.peerGw := rfl
@[simp] theorem Block.onSs_shrunkTill (f : SsState → SsState) (b : Block) : (b.onSs f).shrunkTill = b.shrunkTill := rfl
@[simp] theorem Block.onSs_noPath (f : SsState → SsState) (b : Block) : (b.onSs f).noPath = b.noPath := rfl

/-! ## `Block.onTe` -/

@[simp] theorem Block.onTe_now (f : TeState → TeState) (b : Block) : (b.onTe f).now = b.now := rfl
@[simp] theorem Block.onTe_regs (f : TeState → TeState) (b : Block) : (b.onTe f).regs = b.regs := rfl
@[simp] theorem Block.onTe_answer (f : TeState → TeState) (b : Block) : (b.onTe f).answer = b.answer := rfl
@[simp] theorem Block.onTe_fresh (f : TeState → TeState) (b : Block) : (b.onTe f).fresh = b.fresh := rfl
@[simp] theorem Block.onTe_rdLatch (f : TeState → TeState) (b : Block) : (b.onTe f).rdLatch = b.rdLatch := rfl
@[simp] theorem Block.onTe_wrLatch (f : TeState → TeState) (b : Block) : (b.onTe f).wrLatch = b.wrLatch := rfl
@[simp] theorem Block.onTe_out (f : TeState → TeState) (b : Block) : (b.onTe f).out = b.out := rfl
@[simp] theorem Block.onTe_dram (f : TeState → TeState) (b : Block) : (b.onTe f).dram = b.dram := rfl
@[simp] theorem Block.onTe_host (f : TeState → TeState) (b : Block) : (b.onTe f).host = b.host := rfl
@[simp] theorem Block.onTe_sram (f : TeState → TeState) (b : Block) : (b.onTe f).sram = b.sram := rfl
@[simp] theorem Block.onTe_scratch (f : TeState → TeState) (b : Block) : (b.onTe f).scratch = b.scratch := rfl
@[simp] theorem Block.onTe_pcieUp (f : TeState → TeState) (b : Block) : (b.onTe f).pcieUp = b.pcieUp := rfl
@[simp] theorem Block.onTe_rings (f : TeState → TeState) (b : Block) : (b.onTe f).rings = b.rings := rfl
@[simp] theorem Block.onTe_rrLast (f : TeState → TeState) (b : Block) : (b.onTe f).rrLast = b.rrLast := rfl
@[simp] theorem Block.onTe_infl (f : TeState → TeState) (b : Block) : (b.onTe f).infl = b.infl := rfl
@[simp] theorem Block.onTe_nextId (f : TeState → TeState) (b : Block) : (b.onTe f).nextId = b.nextId := rfl
@[simp] theorem Block.onTe_funcs (f : TeState → TeState) (b : Block) : (b.onTe f).funcs = b.funcs := rfl
@[simp] theorem Block.onTe_jobs (f : TeState → TeState) (b : Block) : (b.onTe f).jobs = b.jobs := rfl
@[simp] theorem Block.onTe_cnt (f : TeState → TeState) (b : Block) : (b.onTe f).cnt = b.cnt := rfl
@[simp] theorem Block.onTe_freeIx (f : TeState → TeState) (b : Block) : (b.onTe f).freeIx = b.freeIx := rfl
@[simp] theorem Block.onTe_traceBusy (f : TeState → TeState) (b : Block) : (b.onTe f).traceBusy = b.traceBusy := rfl
@[simp] theorem Block.onTe_evq (f : TeState → TeState) (b : Block) : (b.onTe f).evq = b.evq := rfl
@[simp] theorem Block.onTe_traceq (f : TeState → TeState) (b : Block) : (b.onTe f).traceq = b.traceq := rfl
@[simp] theorem Block.onTe_bm (f : TeState → TeState) (b : Block) : (b.onTe f).bm = b.bm := rfl
@[simp] theorem Block.onTe_banks (f : TeState → TeState) (b : Block) : (b.onTe f).banks = b.banks := rfl
@[simp] theorem Block.onTe_mc (f : TeState → TeState) (b : Block) : (b.onTe f).mc = b.mc := rfl
@[simp] theorem Block.onTe_dbg (f : TeState → TeState) (b : Block) : (b.onTe f).dbg = b.dbg := rfl
@[simp] theorem Block.onTe_clk (f : TeState → TeState) (b : Block) : (b.onTe f).clk = b.clk := rfl
@[simp] theorem Block.onTe_tu (f : TeState → TeState) (b : Block) : (b.onTe f).tu = b.tu := rfl
@[simp] theorem Block.onTe_pcr (f : TeState → TeState) (b : Block) : (b.onTe f).pcr = b.pcr := rfl
@[simp] theorem Block.onTe_health (f : TeState → TeState) (b : Block) : (b.onTe f).health = b.health := rfl
@[simp] theorem Block.onTe_fif (f : TeState → TeState) (b : Block) : (b.onTe f).fif = b.fif := rfl
@[simp] theorem Block.onTe_fwu (f : TeState → TeState) (b : Block) : (b.onTe f).fwu = b.fwu := rfl
@[simp] theorem Block.onTe_ce (f : TeState → TeState) (b : Block) : (b.onTe f).ce = b.ce := rfl
@[simp] theorem Block.onTe_cx (f : TeState → TeState) (b : Block) : (b.onTe f).cx = b.cx := rfl
@[simp] theorem Block.onTe_ss (f : TeState → TeState) (b : Block) : (b.onTe f).ss = b.ss := rfl
@[simp] theorem Block.onTe_te (f : TeState → TeState) (b : Block) : (b.onTe f).te = f b.te := rfl
@[simp] theorem Block.onTe_cc (f : TeState → TeState) (b : Block) : (b.onTe f).cc = b.cc := rfl
@[simp] theorem Block.onTe_sec (f : TeState → TeState) (b : Block) : (b.onTe f).sec = b.sec := rfl
@[simp] theorem Block.onTe_lf (f : TeState → TeState) (b : Block) : (b.onTe f).lf = b.lf := rfl
@[simp] theorem Block.onTe_lo (f : TeState → TeState) (b : Block) : (b.onTe f).lo = b.lo := rfl
@[simp] theorem Block.onTe_outq (f : TeState → TeState) (b : Block) : (b.onTe f).outq = b.outq := rfl
@[simp] theorem Block.onTe_inbox (f : TeState → TeState) (b : Block) : (b.onTe f).inbox = b.inbox := rfl
@[simp] theorem Block.onTe_peerGw (f : TeState → TeState) (b : Block) : (b.onTe f).peerGw = b.peerGw := rfl
@[simp] theorem Block.onTe_shrunkTill (f : TeState → TeState) (b : Block) : (b.onTe f).shrunkTill = b.shrunkTill := rfl
@[simp] theorem Block.onTe_noPath (f : TeState → TeState) (b : Block) : (b.onTe f).noPath = b.noPath := rfl

/-! ## `Block.onCc` -/

@[simp] theorem Block.onCc_now (f : CcState → CcState) (b : Block) : (b.onCc f).now = b.now := rfl
@[simp] theorem Block.onCc_regs (f : CcState → CcState) (b : Block) : (b.onCc f).regs = b.regs := rfl
@[simp] theorem Block.onCc_answer (f : CcState → CcState) (b : Block) : (b.onCc f).answer = b.answer := rfl
@[simp] theorem Block.onCc_fresh (f : CcState → CcState) (b : Block) : (b.onCc f).fresh = b.fresh := rfl
@[simp] theorem Block.onCc_rdLatch (f : CcState → CcState) (b : Block) : (b.onCc f).rdLatch = b.rdLatch := rfl
@[simp] theorem Block.onCc_wrLatch (f : CcState → CcState) (b : Block) : (b.onCc f).wrLatch = b.wrLatch := rfl
@[simp] theorem Block.onCc_out (f : CcState → CcState) (b : Block) : (b.onCc f).out = b.out := rfl
@[simp] theorem Block.onCc_dram (f : CcState → CcState) (b : Block) : (b.onCc f).dram = b.dram := rfl
@[simp] theorem Block.onCc_host (f : CcState → CcState) (b : Block) : (b.onCc f).host = b.host := rfl
@[simp] theorem Block.onCc_sram (f : CcState → CcState) (b : Block) : (b.onCc f).sram = b.sram := rfl
@[simp] theorem Block.onCc_scratch (f : CcState → CcState) (b : Block) : (b.onCc f).scratch = b.scratch := rfl
@[simp] theorem Block.onCc_pcieUp (f : CcState → CcState) (b : Block) : (b.onCc f).pcieUp = b.pcieUp := rfl
@[simp] theorem Block.onCc_rings (f : CcState → CcState) (b : Block) : (b.onCc f).rings = b.rings := rfl
@[simp] theorem Block.onCc_rrLast (f : CcState → CcState) (b : Block) : (b.onCc f).rrLast = b.rrLast := rfl
@[simp] theorem Block.onCc_infl (f : CcState → CcState) (b : Block) : (b.onCc f).infl = b.infl := rfl
@[simp] theorem Block.onCc_nextId (f : CcState → CcState) (b : Block) : (b.onCc f).nextId = b.nextId := rfl
@[simp] theorem Block.onCc_funcs (f : CcState → CcState) (b : Block) : (b.onCc f).funcs = b.funcs := rfl
@[simp] theorem Block.onCc_jobs (f : CcState → CcState) (b : Block) : (b.onCc f).jobs = b.jobs := rfl
@[simp] theorem Block.onCc_cnt (f : CcState → CcState) (b : Block) : (b.onCc f).cnt = b.cnt := rfl
@[simp] theorem Block.onCc_freeIx (f : CcState → CcState) (b : Block) : (b.onCc f).freeIx = b.freeIx := rfl
@[simp] theorem Block.onCc_traceBusy (f : CcState → CcState) (b : Block) : (b.onCc f).traceBusy = b.traceBusy := rfl
@[simp] theorem Block.onCc_evq (f : CcState → CcState) (b : Block) : (b.onCc f).evq = b.evq := rfl
@[simp] theorem Block.onCc_traceq (f : CcState → CcState) (b : Block) : (b.onCc f).traceq = b.traceq := rfl
@[simp] theorem Block.onCc_bm (f : CcState → CcState) (b : Block) : (b.onCc f).bm = b.bm := rfl
@[simp] theorem Block.onCc_banks (f : CcState → CcState) (b : Block) : (b.onCc f).banks = b.banks := rfl
@[simp] theorem Block.onCc_mc (f : CcState → CcState) (b : Block) : (b.onCc f).mc = b.mc := rfl
@[simp] theorem Block.onCc_dbg (f : CcState → CcState) (b : Block) : (b.onCc f).dbg = b.dbg := rfl
@[simp] theorem Block.onCc_clk (f : CcState → CcState) (b : Block) : (b.onCc f).clk = b.clk := rfl
@[simp] theorem Block.onCc_tu (f : CcState → CcState) (b : Block) : (b.onCc f).tu = b.tu := rfl
@[simp] theorem Block.onCc_pcr (f : CcState → CcState) (b : Block) : (b.onCc f).pcr = b.pcr := rfl
@[simp] theorem Block.onCc_health (f : CcState → CcState) (b : Block) : (b.onCc f).health = b.health := rfl
@[simp] theorem Block.onCc_fif (f : CcState → CcState) (b : Block) : (b.onCc f).fif = b.fif := rfl
@[simp] theorem Block.onCc_fwu (f : CcState → CcState) (b : Block) : (b.onCc f).fwu = b.fwu := rfl
@[simp] theorem Block.onCc_ce (f : CcState → CcState) (b : Block) : (b.onCc f).ce = b.ce := rfl
@[simp] theorem Block.onCc_cx (f : CcState → CcState) (b : Block) : (b.onCc f).cx = b.cx := rfl
@[simp] theorem Block.onCc_ss (f : CcState → CcState) (b : Block) : (b.onCc f).ss = b.ss := rfl
@[simp] theorem Block.onCc_te (f : CcState → CcState) (b : Block) : (b.onCc f).te = b.te := rfl
@[simp] theorem Block.onCc_cc (f : CcState → CcState) (b : Block) : (b.onCc f).cc = f b.cc := rfl
@[simp] theorem Block.onCc_sec (f : CcState → CcState) (b : Block) : (b.onCc f).sec = b.sec := rfl
@[simp] theorem Block.onCc_lf (f : CcState → CcState) (b : Block) : (b.onCc f).lf = b.lf := rfl
@[simp] theorem Block.onCc_lo (f : CcState → CcState) (b : Block) : (b.onCc f).lo = b.lo := rfl
@[simp] theorem Block.onCc_outq (f : CcState → CcState) (b : Block) : (b.onCc f).outq = b.outq := rfl
@[simp] theorem Block.onCc_inbox (f : CcState → CcState) (b : Block) : (b.onCc f).inbox = b.inbox := rfl
@[simp] theorem Block.onCc_peerGw (f : CcState → CcState) (b : Block) : (b.onCc f).peerGw = b.peerGw := rfl
@[simp] theorem Block.onCc_shrunkTill (f : CcState → CcState) (b : Block) : (b.onCc f).shrunkTill = b.shrunkTill := rfl
@[simp] theorem Block.onCc_noPath (f : CcState → CcState) (b : Block) : (b.onCc f).noPath = b.noPath := rfl

/-! ## `Block.onSec` -/

@[simp] theorem Block.onSec_now (f : SecState → SecState) (b : Block) : (b.onSec f).now = b.now := rfl
@[simp] theorem Block.onSec_regs (f : SecState → SecState) (b : Block) : (b.onSec f).regs = b.regs := rfl
@[simp] theorem Block.onSec_answer (f : SecState → SecState) (b : Block) : (b.onSec f).answer = b.answer := rfl
@[simp] theorem Block.onSec_fresh (f : SecState → SecState) (b : Block) : (b.onSec f).fresh = b.fresh := rfl
@[simp] theorem Block.onSec_rdLatch (f : SecState → SecState) (b : Block) : (b.onSec f).rdLatch = b.rdLatch := rfl
@[simp] theorem Block.onSec_wrLatch (f : SecState → SecState) (b : Block) : (b.onSec f).wrLatch = b.wrLatch := rfl
@[simp] theorem Block.onSec_out (f : SecState → SecState) (b : Block) : (b.onSec f).out = b.out := rfl
@[simp] theorem Block.onSec_dram (f : SecState → SecState) (b : Block) : (b.onSec f).dram = b.dram := rfl
@[simp] theorem Block.onSec_host (f : SecState → SecState) (b : Block) : (b.onSec f).host = b.host := rfl
@[simp] theorem Block.onSec_sram (f : SecState → SecState) (b : Block) : (b.onSec f).sram = b.sram := rfl
@[simp] theorem Block.onSec_scratch (f : SecState → SecState) (b : Block) : (b.onSec f).scratch = b.scratch := rfl
@[simp] theorem Block.onSec_pcieUp (f : SecState → SecState) (b : Block) : (b.onSec f).pcieUp = b.pcieUp := rfl
@[simp] theorem Block.onSec_rings (f : SecState → SecState) (b : Block) : (b.onSec f).rings = b.rings := rfl
@[simp] theorem Block.onSec_rrLast (f : SecState → SecState) (b : Block) : (b.onSec f).rrLast = b.rrLast := rfl
@[simp] theorem Block.onSec_infl (f : SecState → SecState) (b : Block) : (b.onSec f).infl = b.infl := rfl
@[simp] theorem Block.onSec_nextId (f : SecState → SecState) (b : Block) : (b.onSec f).nextId = b.nextId := rfl
@[simp] theorem Block.onSec_funcs (f : SecState → SecState) (b : Block) : (b.onSec f).funcs = b.funcs := rfl
@[simp] theorem Block.onSec_jobs (f : SecState → SecState) (b : Block) : (b.onSec f).jobs = b.jobs := rfl
@[simp] theorem Block.onSec_cnt (f : SecState → SecState) (b : Block) : (b.onSec f).cnt = b.cnt := rfl
@[simp] theorem Block.onSec_freeIx (f : SecState → SecState) (b : Block) : (b.onSec f).freeIx = b.freeIx := rfl
@[simp] theorem Block.onSec_traceBusy (f : SecState → SecState) (b : Block) : (b.onSec f).traceBusy = b.traceBusy := rfl
@[simp] theorem Block.onSec_evq (f : SecState → SecState) (b : Block) : (b.onSec f).evq = b.evq := rfl
@[simp] theorem Block.onSec_traceq (f : SecState → SecState) (b : Block) : (b.onSec f).traceq = b.traceq := rfl
@[simp] theorem Block.onSec_bm (f : SecState → SecState) (b : Block) : (b.onSec f).bm = b.bm := rfl
@[simp] theorem Block.onSec_banks (f : SecState → SecState) (b : Block) : (b.onSec f).banks = b.banks := rfl
@[simp] theorem Block.onSec_mc (f : SecState → SecState) (b : Block) : (b.onSec f).mc = b.mc := rfl
@[simp] theorem Block.onSec_dbg (f : SecState → SecState) (b : Block) : (b.onSec f).dbg = b.dbg := rfl
@[simp] theorem Block.onSec_clk (f : SecState → SecState) (b : Block) : (b.onSec f).clk = b.clk := rfl
@[simp] theorem Block.onSec_tu (f : SecState → SecState) (b : Block) : (b.onSec f).tu = b.tu := rfl
@[simp] theorem Block.onSec_pcr (f : SecState → SecState) (b : Block) : (b.onSec f).pcr = b.pcr := rfl
@[simp] theorem Block.onSec_health (f : SecState → SecState) (b : Block) : (b.onSec f).health = b.health := rfl
@[simp] theorem Block.onSec_fif (f : SecState → SecState) (b : Block) : (b.onSec f).fif = b.fif := rfl
@[simp] theorem Block.onSec_fwu (f : SecState → SecState) (b : Block) : (b.onSec f).fwu = b.fwu := rfl
@[simp] theorem Block.onSec_ce (f : SecState → SecState) (b : Block) : (b.onSec f).ce = b.ce := rfl
@[simp] theorem Block.onSec_cx (f : SecState → SecState) (b : Block) : (b.onSec f).cx = b.cx := rfl
@[simp] theorem Block.onSec_ss (f : SecState → SecState) (b : Block) : (b.onSec f).ss = b.ss := rfl
@[simp] theorem Block.onSec_te (f : SecState → SecState) (b : Block) : (b.onSec f).te = b.te := rfl
@[simp] theorem Block.onSec_cc (f : SecState → SecState) (b : Block) : (b.onSec f).cc = b.cc := rfl
@[simp] theorem Block.onSec_sec (f : SecState → SecState) (b : Block) : (b.onSec f).sec = f b.sec := rfl
@[simp] theorem Block.onSec_lf (f : SecState → SecState) (b : Block) : (b.onSec f).lf = b.lf := rfl
@[simp] theorem Block.onSec_lo (f : SecState → SecState) (b : Block) : (b.onSec f).lo = b.lo := rfl
@[simp] theorem Block.onSec_outq (f : SecState → SecState) (b : Block) : (b.onSec f).outq = b.outq := rfl
@[simp] theorem Block.onSec_inbox (f : SecState → SecState) (b : Block) : (b.onSec f).inbox = b.inbox := rfl
@[simp] theorem Block.onSec_peerGw (f : SecState → SecState) (b : Block) : (b.onSec f).peerGw = b.peerGw := rfl
@[simp] theorem Block.onSec_shrunkTill (f : SecState → SecState) (b : Block) : (b.onSec f).shrunkTill = b.shrunkTill := rfl
@[simp] theorem Block.onSec_noPath (f : SecState → SecState) (b : Block) : (b.onSec f).noPath = b.noPath := rfl

/-! ## `Block.onTu` -/

@[simp] theorem Block.onTu_now (f : TuState → TuState) (b : Block) : (b.onTu f).now = b.now := rfl
@[simp] theorem Block.onTu_regs (f : TuState → TuState) (b : Block) : (b.onTu f).regs = b.regs := rfl
@[simp] theorem Block.onTu_answer (f : TuState → TuState) (b : Block) : (b.onTu f).answer = b.answer := rfl
@[simp] theorem Block.onTu_fresh (f : TuState → TuState) (b : Block) : (b.onTu f).fresh = b.fresh := rfl
@[simp] theorem Block.onTu_rdLatch (f : TuState → TuState) (b : Block) : (b.onTu f).rdLatch = b.rdLatch := rfl
@[simp] theorem Block.onTu_wrLatch (f : TuState → TuState) (b : Block) : (b.onTu f).wrLatch = b.wrLatch := rfl
@[simp] theorem Block.onTu_out (f : TuState → TuState) (b : Block) : (b.onTu f).out = b.out := rfl
@[simp] theorem Block.onTu_dram (f : TuState → TuState) (b : Block) : (b.onTu f).dram = b.dram := rfl
@[simp] theorem Block.onTu_host (f : TuState → TuState) (b : Block) : (b.onTu f).host = b.host := rfl
@[simp] theorem Block.onTu_sram (f : TuState → TuState) (b : Block) : (b.onTu f).sram = b.sram := rfl
@[simp] theorem Block.onTu_scratch (f : TuState → TuState) (b : Block) : (b.onTu f).scratch = b.scratch := rfl
@[simp] theorem Block.onTu_pcieUp (f : TuState → TuState) (b : Block) : (b.onTu f).pcieUp = b.pcieUp := rfl
@[simp] theorem Block.onTu_rings (f : TuState → TuState) (b : Block) : (b.onTu f).rings = b.rings := rfl
@[simp] theorem Block.onTu_rrLast (f : TuState → TuState) (b : Block) : (b.onTu f).rrLast = b.rrLast := rfl
@[simp] theorem Block.onTu_infl (f : TuState → TuState) (b : Block) : (b.onTu f).infl = b.infl := rfl
@[simp] theorem Block.onTu_nextId (f : TuState → TuState) (b : Block) : (b.onTu f).nextId = b.nextId := rfl
@[simp] theorem Block.onTu_funcs (f : TuState → TuState) (b : Block) : (b.onTu f).funcs = b.funcs := rfl
@[simp] theorem Block.onTu_jobs (f : TuState → TuState) (b : Block) : (b.onTu f).jobs = b.jobs := rfl
@[simp] theorem Block.onTu_cnt (f : TuState → TuState) (b : Block) : (b.onTu f).cnt = b.cnt := rfl
@[simp] theorem Block.onTu_freeIx (f : TuState → TuState) (b : Block) : (b.onTu f).freeIx = b.freeIx := rfl
@[simp] theorem Block.onTu_traceBusy (f : TuState → TuState) (b : Block) : (b.onTu f).traceBusy = b.traceBusy := rfl
@[simp] theorem Block.onTu_evq (f : TuState → TuState) (b : Block) : (b.onTu f).evq = b.evq := rfl
@[simp] theorem Block.onTu_traceq (f : TuState → TuState) (b : Block) : (b.onTu f).traceq = b.traceq := rfl
@[simp] theorem Block.onTu_bm (f : TuState → TuState) (b : Block) : (b.onTu f).bm = b.bm := rfl
@[simp] theorem Block.onTu_banks (f : TuState → TuState) (b : Block) : (b.onTu f).banks = b.banks := rfl
@[simp] theorem Block.onTu_mc (f : TuState → TuState) (b : Block) : (b.onTu f).mc = b.mc := rfl
@[simp] theorem Block.onTu_dbg (f : TuState → TuState) (b : Block) : (b.onTu f).dbg = b.dbg := rfl
@[simp] theorem Block.onTu_clk (f : TuState → TuState) (b : Block) : (b.onTu f).clk = b.clk := rfl
@[simp] theorem Block.onTu_tu (f : TuState → TuState) (b : Block) : (b.onTu f).tu = f b.tu := rfl
@[simp] theorem Block.onTu_pcr (f : TuState → TuState) (b : Block) : (b.onTu f).pcr = b.pcr := rfl
@[simp] theorem Block.onTu_health (f : TuState → TuState) (b : Block) : (b.onTu f).health = b.health := rfl
@[simp] theorem Block.onTu_fif (f : TuState → TuState) (b : Block) : (b.onTu f).fif = b.fif := rfl
@[simp] theorem Block.onTu_fwu (f : TuState → TuState) (b : Block) : (b.onTu f).fwu = b.fwu := rfl
@[simp] theorem Block.onTu_ce (f : TuState → TuState) (b : Block) : (b.onTu f).ce = b.ce := rfl
@[simp] theorem Block.onTu_cx (f : TuState → TuState) (b : Block) : (b.onTu f).cx = b.cx := rfl
@[simp] theorem Block.onTu_ss (f : TuState → TuState) (b : Block) : (b.onTu f).ss = b.ss := rfl
@[simp] theorem Block.onTu_te (f : TuState → TuState) (b : Block) : (b.onTu f).te = b.te := rfl
@[simp] theorem Block.onTu_cc (f : TuState → TuState) (b : Block) : (b.onTu f).cc = b.cc := rfl
@[simp] theorem Block.onTu_sec (f : TuState → TuState) (b : Block) : (b.onTu f).sec = b.sec := rfl
@[simp] theorem Block.onTu_lf (f : TuState → TuState) (b : Block) : (b.onTu f).lf = b.lf := rfl
@[simp] theorem Block.onTu_lo (f : TuState → TuState) (b : Block) : (b.onTu f).lo = b.lo := rfl
@[simp] theorem Block.onTu_outq (f : TuState → TuState) (b : Block) : (b.onTu f).outq = b.outq := rfl
@[simp] theorem Block.onTu_inbox (f : TuState → TuState) (b : Block) : (b.onTu f).inbox = b.inbox := rfl
@[simp] theorem Block.onTu_peerGw (f : TuState → TuState) (b : Block) : (b.onTu f).peerGw = b.peerGw := rfl
@[simp] theorem Block.onTu_shrunkTill (f : TuState → TuState) (b : Block) : (b.onTu f).shrunkTill = b.shrunkTill := rfl
@[simp] theorem Block.onTu_noPath (f : TuState → TuState) (b : Block) : (b.onTu f).noPath = b.noPath := rfl

/-! ## `Block.onPcr` -/

@[simp] theorem Block.onPcr_now (f : PcrState → PcrState) (b : Block) : (b.onPcr f).now = b.now := rfl
@[simp] theorem Block.onPcr_regs (f : PcrState → PcrState) (b : Block) : (b.onPcr f).regs = b.regs := rfl
@[simp] theorem Block.onPcr_answer (f : PcrState → PcrState) (b : Block) : (b.onPcr f).answer = b.answer := rfl
@[simp] theorem Block.onPcr_fresh (f : PcrState → PcrState) (b : Block) : (b.onPcr f).fresh = b.fresh := rfl
@[simp] theorem Block.onPcr_rdLatch (f : PcrState → PcrState) (b : Block) : (b.onPcr f).rdLatch = b.rdLatch := rfl
@[simp] theorem Block.onPcr_wrLatch (f : PcrState → PcrState) (b : Block) : (b.onPcr f).wrLatch = b.wrLatch := rfl
@[simp] theorem Block.onPcr_out (f : PcrState → PcrState) (b : Block) : (b.onPcr f).out = b.out := rfl
@[simp] theorem Block.onPcr_dram (f : PcrState → PcrState) (b : Block) : (b.onPcr f).dram = b.dram := rfl
@[simp] theorem Block.onPcr_host (f : PcrState → PcrState) (b : Block) : (b.onPcr f).host = b.host := rfl
@[simp] theorem Block.onPcr_sram (f : PcrState → PcrState) (b : Block) : (b.onPcr f).sram = b.sram := rfl
@[simp] theorem Block.onPcr_scratch (f : PcrState → PcrState) (b : Block) : (b.onPcr f).scratch = b.scratch := rfl
@[simp] theorem Block.onPcr_pcieUp (f : PcrState → PcrState) (b : Block) : (b.onPcr f).pcieUp = b.pcieUp := rfl
@[simp] theorem Block.onPcr_rings (f : PcrState → PcrState) (b : Block) : (b.onPcr f).rings = b.rings := rfl
@[simp] theorem Block.onPcr_rrLast (f : PcrState → PcrState) (b : Block) : (b.onPcr f).rrLast = b.rrLast := rfl
@[simp] theorem Block.onPcr_infl (f : PcrState → PcrState) (b : Block) : (b.onPcr f).infl = b.infl := rfl
@[simp] theorem Block.onPcr_nextId (f : PcrState → PcrState) (b : Block) : (b.onPcr f).nextId = b.nextId := rfl
@[simp] theorem Block.onPcr_funcs (f : PcrState → PcrState) (b : Block) : (b.onPcr f).funcs = b.funcs := rfl
@[simp] theorem Block.onPcr_jobs (f : PcrState → PcrState) (b : Block) : (b.onPcr f).jobs = b.jobs := rfl
@[simp] theorem Block.onPcr_cnt (f : PcrState → PcrState) (b : Block) : (b.onPcr f).cnt = b.cnt := rfl
@[simp] theorem Block.onPcr_freeIx (f : PcrState → PcrState) (b : Block) : (b.onPcr f).freeIx = b.freeIx := rfl
@[simp] theorem Block.onPcr_traceBusy (f : PcrState → PcrState) (b : Block) : (b.onPcr f).traceBusy = b.traceBusy := rfl
@[simp] theorem Block.onPcr_evq (f : PcrState → PcrState) (b : Block) : (b.onPcr f).evq = b.evq := rfl
@[simp] theorem Block.onPcr_traceq (f : PcrState → PcrState) (b : Block) : (b.onPcr f).traceq = b.traceq := rfl
@[simp] theorem Block.onPcr_bm (f : PcrState → PcrState) (b : Block) : (b.onPcr f).bm = b.bm := rfl
@[simp] theorem Block.onPcr_banks (f : PcrState → PcrState) (b : Block) : (b.onPcr f).banks = b.banks := rfl
@[simp] theorem Block.onPcr_mc (f : PcrState → PcrState) (b : Block) : (b.onPcr f).mc = b.mc := rfl
@[simp] theorem Block.onPcr_dbg (f : PcrState → PcrState) (b : Block) : (b.onPcr f).dbg = b.dbg := rfl
@[simp] theorem Block.onPcr_clk (f : PcrState → PcrState) (b : Block) : (b.onPcr f).clk = b.clk := rfl
@[simp] theorem Block.onPcr_tu (f : PcrState → PcrState) (b : Block) : (b.onPcr f).tu = b.tu := rfl
@[simp] theorem Block.onPcr_pcr (f : PcrState → PcrState) (b : Block) : (b.onPcr f).pcr = f b.pcr := rfl
@[simp] theorem Block.onPcr_health (f : PcrState → PcrState) (b : Block) : (b.onPcr f).health = b.health := rfl
@[simp] theorem Block.onPcr_fif (f : PcrState → PcrState) (b : Block) : (b.onPcr f).fif = b.fif := rfl
@[simp] theorem Block.onPcr_fwu (f : PcrState → PcrState) (b : Block) : (b.onPcr f).fwu = b.fwu := rfl
@[simp] theorem Block.onPcr_ce (f : PcrState → PcrState) (b : Block) : (b.onPcr f).ce = b.ce := rfl
@[simp] theorem Block.onPcr_cx (f : PcrState → PcrState) (b : Block) : (b.onPcr f).cx = b.cx := rfl
@[simp] theorem Block.onPcr_ss (f : PcrState → PcrState) (b : Block) : (b.onPcr f).ss = b.ss := rfl
@[simp] theorem Block.onPcr_te (f : PcrState → PcrState) (b : Block) : (b.onPcr f).te = b.te := rfl
@[simp] theorem Block.onPcr_cc (f : PcrState → PcrState) (b : Block) : (b.onPcr f).cc = b.cc := rfl
@[simp] theorem Block.onPcr_sec (f : PcrState → PcrState) (b : Block) : (b.onPcr f).sec = b.sec := rfl
@[simp] theorem Block.onPcr_lf (f : PcrState → PcrState) (b : Block) : (b.onPcr f).lf = b.lf := rfl
@[simp] theorem Block.onPcr_lo (f : PcrState → PcrState) (b : Block) : (b.onPcr f).lo = b.lo := rfl
@[simp] theorem Block.onPcr_outq (f : PcrState → PcrState) (b : Block) : (b.onPcr f).outq = b.outq := rfl
@[simp] theorem Block.onPcr_inbox (f : PcrState → PcrState) (b : Block) : (b.onPcr f).inbox = b.inbox := rfl
@[simp] theorem Block.onPcr_peerGw (f : PcrState → PcrState) (b : Block) : (b.onPcr f).peerGw = b.peerGw := rfl
@[simp] theorem Block.onPcr_shrunkTill (f : PcrState → PcrState) (b : Block) : (b.onPcr f).shrunkTill = b.shrunkTill := rfl
@[simp] theorem Block.onPcr_noPath (f : PcrState → PcrState) (b : Block) : (b.onPcr f).noPath = b.noPath := rfl

/-! ## `Block.onDbg` -/

@[simp] theorem Block.onDbg_now (f : DbgState → DbgState) (b : Block) : (b.onDbg f).now = b.now := rfl
@[simp] theorem Block.onDbg_regs (f : DbgState → DbgState) (b : Block) : (b.onDbg f).regs = b.regs := rfl
@[simp] theorem Block.onDbg_answer (f : DbgState → DbgState) (b : Block) : (b.onDbg f).answer = b.answer := rfl
@[simp] theorem Block.onDbg_fresh (f : DbgState → DbgState) (b : Block) : (b.onDbg f).fresh = b.fresh := rfl
@[simp] theorem Block.onDbg_rdLatch (f : DbgState → DbgState) (b : Block) : (b.onDbg f).rdLatch = b.rdLatch := rfl
@[simp] theorem Block.onDbg_wrLatch (f : DbgState → DbgState) (b : Block) : (b.onDbg f).wrLatch = b.wrLatch := rfl
@[simp] theorem Block.onDbg_out (f : DbgState → DbgState) (b : Block) : (b.onDbg f).out = b.out := rfl
@[simp] theorem Block.onDbg_dram (f : DbgState → DbgState) (b : Block) : (b.onDbg f).dram = b.dram := rfl
@[simp] theorem Block.onDbg_host (f : DbgState → DbgState) (b : Block) : (b.onDbg f).host = b.host := rfl
@[simp] theorem Block.onDbg_sram (f : DbgState → DbgState) (b : Block) : (b.onDbg f).sram = b.sram := rfl
@[simp] theorem Block.onDbg_scratch (f : DbgState → DbgState) (b : Block) : (b.onDbg f).scratch = b.scratch := rfl
@[simp] theorem Block.onDbg_pcieUp (f : DbgState → DbgState) (b : Block) : (b.onDbg f).pcieUp = b.pcieUp := rfl
@[simp] theorem Block.onDbg_rings (f : DbgState → DbgState) (b : Block) : (b.onDbg f).rings = b.rings := rfl
@[simp] theorem Block.onDbg_rrLast (f : DbgState → DbgState) (b : Block) : (b.onDbg f).rrLast = b.rrLast := rfl
@[simp] theorem Block.onDbg_infl (f : DbgState → DbgState) (b : Block) : (b.onDbg f).infl = b.infl := rfl
@[simp] theorem Block.onDbg_nextId (f : DbgState → DbgState) (b : Block) : (b.onDbg f).nextId = b.nextId := rfl
@[simp] theorem Block.onDbg_funcs (f : DbgState → DbgState) (b : Block) : (b.onDbg f).funcs = b.funcs := rfl
@[simp] theorem Block.onDbg_jobs (f : DbgState → DbgState) (b : Block) : (b.onDbg f).jobs = b.jobs := rfl
@[simp] theorem Block.onDbg_cnt (f : DbgState → DbgState) (b : Block) : (b.onDbg f).cnt = b.cnt := rfl
@[simp] theorem Block.onDbg_freeIx (f : DbgState → DbgState) (b : Block) : (b.onDbg f).freeIx = b.freeIx := rfl
@[simp] theorem Block.onDbg_traceBusy (f : DbgState → DbgState) (b : Block) : (b.onDbg f).traceBusy = b.traceBusy := rfl
@[simp] theorem Block.onDbg_evq (f : DbgState → DbgState) (b : Block) : (b.onDbg f).evq = b.evq := rfl
@[simp] theorem Block.onDbg_traceq (f : DbgState → DbgState) (b : Block) : (b.onDbg f).traceq = b.traceq := rfl
@[simp] theorem Block.onDbg_bm (f : DbgState → DbgState) (b : Block) : (b.onDbg f).bm = b.bm := rfl
@[simp] theorem Block.onDbg_banks (f : DbgState → DbgState) (b : Block) : (b.onDbg f).banks = b.banks := rfl
@[simp] theorem Block.onDbg_mc (f : DbgState → DbgState) (b : Block) : (b.onDbg f).mc = b.mc := rfl
@[simp] theorem Block.onDbg_dbg (f : DbgState → DbgState) (b : Block) : (b.onDbg f).dbg = f b.dbg := rfl
@[simp] theorem Block.onDbg_clk (f : DbgState → DbgState) (b : Block) : (b.onDbg f).clk = b.clk := rfl
@[simp] theorem Block.onDbg_tu (f : DbgState → DbgState) (b : Block) : (b.onDbg f).tu = b.tu := rfl
@[simp] theorem Block.onDbg_pcr (f : DbgState → DbgState) (b : Block) : (b.onDbg f).pcr = b.pcr := rfl
@[simp] theorem Block.onDbg_health (f : DbgState → DbgState) (b : Block) : (b.onDbg f).health = b.health := rfl
@[simp] theorem Block.onDbg_fif (f : DbgState → DbgState) (b : Block) : (b.onDbg f).fif = b.fif := rfl
@[simp] theorem Block.onDbg_fwu (f : DbgState → DbgState) (b : Block) : (b.onDbg f).fwu = b.fwu := rfl
@[simp] theorem Block.onDbg_ce (f : DbgState → DbgState) (b : Block) : (b.onDbg f).ce = b.ce := rfl
@[simp] theorem Block.onDbg_cx (f : DbgState → DbgState) (b : Block) : (b.onDbg f).cx = b.cx := rfl
@[simp] theorem Block.onDbg_ss (f : DbgState → DbgState) (b : Block) : (b.onDbg f).ss = b.ss := rfl
@[simp] theorem Block.onDbg_te (f : DbgState → DbgState) (b : Block) : (b.onDbg f).te = b.te := rfl
@[simp] theorem Block.onDbg_cc (f : DbgState → DbgState) (b : Block) : (b.onDbg f).cc = b.cc := rfl
@[simp] theorem Block.onDbg_sec (f : DbgState → DbgState) (b : Block) : (b.onDbg f).sec = b.sec := rfl
@[simp] theorem Block.onDbg_lf (f : DbgState → DbgState) (b : Block) : (b.onDbg f).lf = b.lf := rfl
@[simp] theorem Block.onDbg_lo (f : DbgState → DbgState) (b : Block) : (b.onDbg f).lo = b.lo := rfl
@[simp] theorem Block.onDbg_outq (f : DbgState → DbgState) (b : Block) : (b.onDbg f).outq = b.outq := rfl
@[simp] theorem Block.onDbg_inbox (f : DbgState → DbgState) (b : Block) : (b.onDbg f).inbox = b.inbox := rfl
@[simp] theorem Block.onDbg_peerGw (f : DbgState → DbgState) (b : Block) : (b.onDbg f).peerGw = b.peerGw := rfl
@[simp] theorem Block.onDbg_shrunkTill (f : DbgState → DbgState) (b : Block) : (b.onDbg f).shrunkTill = b.shrunkTill := rfl
@[simp] theorem Block.onDbg_noPath (f : DbgState → DbgState) (b : Block) : (b.onDbg f).noPath = b.noPath := rfl

end Sys2Proof.Machine
end

