-- ==== Sys2Proof/Laws/Ci.lean ====
section
/-! SUPPORT. How a ring command comes to its effect: what taking its packet leaves in flight, and that a packet which starts and passes its checks acts. -/

namespace Sys2Proof.Machine

theorem freshId_le_fold (l : List InFlight) (n : Nat) : n ≤ l.foldl (fun n f => max n (f.id + 1)) n := by
  induction l generalizing n with
  | nil => exact Nat.le_refl _
  | cons f l ih => exact Nat.le_trans (Nat.le_max_left _ _) (ih _)

theorem lt_freshId_fold (l : List InFlight) (n : Nat) (f : InFlight) (h : f ∈ l) :
    f.id < l.foldl (fun n f => max n (f.id + 1)) n := by
  induction l generalizing n with
  | nil => cases h
  | cons g l ih =>
    rcases List.mem_cons.mp h with rfl | h
    · exact Nat.lt_of_lt_of_le (by omega : f.id < max n (f.id + 1)) (freshId_le_fold l _)
    · exact ih _ h

/-- The number a packet gets is above that of every command in flight. -/
theorem Block.freshId_fresh (b : Block) (f : InFlight) (h : f ∈ b.infl) : f.id < b.freshId :=
  lt_freshId_fold b.infl b.nextId f h

@[simp] theorem Block.bump64_infl (a n : Nat) (b : Block) : (b.bump64 a n).infl = b.infl := rfl
@[simp] theorem Block.count_infl (j set i n : Nat) (b : Block) : (b.count j set i n).infl = b.infl := by
  unfold Block.count; split <;> rfl

/-- Taking a packet puts it last in flight. -/
theorem Ci.taken_infl (opc : Nat) (r : Req) (b : Block) : (Ci.taken opc r b).infl = b.infl ++
    [⟨b.freshId, r.ring, r.index, opc, r.cookie.toNat, r.flags.toNat, b.countJob opc r, 0, none, b.now, none⟩] := by
  unfold Ci.taken
  dsimp only
  split <;> simp [Block.count] <;> rfl

/-- A packet taken is in flight under its number. -/
theorem Ci.taken_cmd? (opc : Nat) (r : Req) (b : Block) : (Ci.taken opc r b).cmd? b.freshId =
    some ⟨b.freshId, r.ring, r.index, opc, r.cookie.toNat, r.flags.toNat, b.countJob opc r, 0, none, b.now, none⟩ := by
  unfold Block.cmd?
  rw [Ci.taken_infl, List.find?_append]
  have : b.infl.find? (fun f => f.id == b.freshId) = none := by
    rw [List.find?_eq_none]
    intro f hf
    have := b.freshId_fresh f hf
    simp; omega
  rw [this]; simp

/-- A packet that starts and passes its checks acts with the effect of its opcode. -/
theorem Ci.cmd_starts {opc : Nat} {r : Req} {t : Time} {s : State} {b : Block} {id : Nat} (h : Starts opc r t s b id)
    (eff : Nat → Req → Block → Block) : Ci.cmd opc r eff (s.blk.tick t) = eff id r b := by
  obtain ⟨⟨hs, hb, hp, -⟩, rfl, rfl⟩ := h
  unfold Ci.cmd Ci.take Ci.start
  rw [if_pos hs, if_neg (by simp [hb])]
  simp only [hp]

/-- A packet whose parameters pass check 8 acts. -/
theorem Ci.check8_starts {opc : Nat} {r : Req} {t : Time} {s : State} {b : Block} {id : Nat} (h : Starts opc r t s b id)
    {l : List (Nat × Bool)} (hl : Req.firstBad l = none) (k : Block → Block) : Ci.check8 id r l k b = k b := by
  obtain ⟨⟨-, -, -, hf⟩, rfl, rfl⟩ := h
  unfold Ci.check8
  rw [hl]
  simp only [Ci.taken_cmd?, Option.bind_some, hf]

/-- A packet whose parameters fail check 8 completes BAD_PARAM. -/
theorem Ci.check8_bad (id : Nat) (r : Req) {l : List (Nat × Bool)} {o : Nat} (hl : Req.firstBad l = some o) (k : Block → Block) (b : Block) :
    Ci.check8 id r l k b = b.badParam id o := by
  unfold Ci.check8; rw [hl]

/-- A command ends in the state its effect leaves, settled. -/
theorem after_run (s : State) (t : Time) (f : Block → Block) :
    (Host.Outcome.next (s.run t f) : Host.Outcome State Fault Refusal) = After s (f (s.blk.tick t)) := rfl

end Sys2Proof.Machine
end

