-- ==== Sys2Proof/Laws/Mem.lean ====
section
/-! SUPPORT. The byte memories: what a read gives after a write, and that every operation on a memory keeps its canonical form. -/

namespace Sys2Proof.Machine

/-- A byte read where it was written. -/
@[simp] theorem Mem.read_write_self (m : Mem) (a : Nat) (v : Byte) : (m.write a v).read a = v := by
  unfold Mem.write Mem.read AMap.getD
  split
  · rename_i h; subst h; simp
  · simp

/-- A byte read elsewhere. -/
theorem Mem.read_write_ne (m : Mem) {a x : Nat} (v : Byte) (h : x ≠ a) : (m.write a v).read x = m.read x := by
  unfold Mem.write Mem.read AMap.getD
  split
  · rw [AMap.get?_erase_ne m h]
  · rw [AMap.get?_set_ne m v h]

/-- A write of bytes leaves every other byte. -/
theorem Mem.read_put_out (vs : List Byte) (m : Mem) {a x : Nat} (h : x < a ∨ a + vs.length ≤ x) : (m.put a vs).read x = m.read x := by
  induction vs generalizing m a with
  | nil => rfl
  | cons v vs ih =>
    rw [List.length_cons] at h
    unfold Mem.put
    rw [ih _ (by omega), Mem.read_write_ne _ _ (by omega)]

/-- A write of bytes is read back. -/
theorem Mem.read_put_in (vs : List Byte) (m : Mem) (a i : Nat) (h : i < vs.length) : (m.put a vs).read (a + i) = vs.getD i 0#8 := by
  induction vs generalizing m a i with
  | nil => cases h
  | cons v vs ih =>
    unfold Mem.put
    cases i with
    | zero => rw [Mem.read_put_out _ _ (by omega)]; exact Mem.read_write_self m a v
    | succ i =>
      rw [List.length_cons] at h
      rw [show a + (i + 1) = a + 1 + i by omega, ih _ _ _ (by omega)]; rfl

/-- A written byte keeps the canonical form. -/
theorem Mem.wf_write {m : Mem} (a : Nat) (v : Byte) (h : m.wf) : (m.write a v).wf := by
  unfold Mem.write
  split
  · exact ⟨AMap.rising_erase a h.1, fun c hc => h.2 c (List.mem_filter.1 hc).1⟩
  · rename_i hv
    refine ⟨AMap.rising_set a v h.1, fun c hc => ?_⟩
    rcases AMap.mem_set hc with rfl | hc
    · exact hv
    · exact h.2 c hc

/-- Written bytes keep the canonical form. -/
theorem Mem.wf_put (vs : List Byte) {m : Mem} (a : Nat) (h : m.wf) : (m.put a vs).wf := by
  induction vs generalizing m a with
  | nil => exact h
  | cons v vs ih => exact ih _ (Mem.wf_write a v h)

/-- Bytes written one at a time keep the canonical form. -/
theorem Mem.wf_foldl (l : List (Nat × Byte)) {m : Mem} (h : m.wf) : (l.foldl (fun m c => m.write c.1 c.2) m).wf := by
  induction l generalizing m with
  | nil => exact h
  | cons c l ih => exact ih (Mem.wf_write _ _ h)

/-- What `Mem.norm` gives is in canonical form. -/
theorem Mem.wf_norm (m : Mem) : (Mem.norm m).wf := by
  unfold Mem.norm
  induction m with
  | nil => exact ⟨List.Pairwise.nil, fun _ h => nomatch h⟩
  | cons c m ih => exact Mem.wf_write _ _ ih

/-- `Mem.norm` changes nothing of a memory in canonical form. -/
theorem Mem.norm_of_wf {m : Mem} (h : m.wf) : Mem.norm m = m := by
  induction m with
  | nil => rfl
  | cons c m ih =>
    have hp := List.pairwise_cons.1 h.1
    have e : Mem.norm (c :: m) = Mem.write (Mem.norm m) c.1 c.2 := rfl
    rw [e, ih ⟨hp.2, fun x hx => h.2 x (List.mem_cons_of_mem _ hx)⟩]
    unfold Mem.write
    rw [if_neg (h.2 c List.mem_cons_self)]
    cases m with
    | nil => rfl
    | cons d m =>
      unfold AMap.set
      rw [if_pos (hp.1 d List.mem_cons_self)]

/-- A write to DX-64 memory keeps its canonical form. -/
theorem Block.dxWrite_wf (a : Nat) (bs : List Byte) (b : Block) (h : b.dram.wf) : (b.dxWrite a bs).dram.wf := by
  unfold Block.dxWrite
  dsimp only
  split
  · exact Mem.wf_put _ _ h
  · exact Mem.wf_foldl _ h

end Sys2Proof.Machine
end

