-- ==== Sys2Proof/Laws/Regs.lean ====
section
/-! SUPPORT. What a register holds after it is set, and that the operations on registers change nothing but registers. -/

namespace Sys2Proof.Machine

/-- A register read after it was set. -/
@[simp] theorem Block.reg_setReg_self (a : Nat) (v : Word) (b : Block) : (b.setReg a v).reg a = v := by
  unfold Block.setReg Block.reg
  split
  · rename_i h; simp [h]
  · simp

/-- Another register. -/
theorem Block.reg_setReg_ne {a c : Nat} (v : Word) (b : Block) (h : c ≠ a) : (b.setReg a v).reg c = b.reg c := by
  unfold Block.setReg Block.reg
  split
  · simp [AMap.get?_erase_ne b.regs h]
  · simp [AMap.get?_set_ne b.regs v h]

@[simp] theorem Block.regN_putN_self (a x : Nat) (b : Block) : (b.putN a x).regN a = x % 2 ^ 32 := by
  unfold Block.putN Block.regN
  rw [Block.reg_setReg_self, BitVec.toNat_ofNat]

theorem Block.reg_putN_ne {a c : Nat} (x : Nat) (b : Block) (h : c ≠ a) : (b.putN a x).reg c = b.reg c := Block.reg_setReg_ne _ b h
theorem Block.reg_putFld_ne {a c : Nat} (hi lo x : Nat) (b : Block) (h : c ≠ a) : (b.putFld a hi lo x).reg c = b.reg c := Block.reg_setReg_ne _ b h
theorem Block.reg_bump_ne {a c : Nat} (b : Block) (h : c ≠ a) : (b.bump a).reg c = b.reg c := Block.reg_setReg_ne _ b h

/-- A counter below its last value counts once. -/
theorem Block.reg_bump (a : Nat) (b : Block) (h : b.reg a ≠ 0xFFFFFFFF#32) : (b.bump a).reg a = b.reg a + 1#32 := by
  unfold Block.bump
  rw [Block.reg_setReg_self, if_neg h]

/-! ## Nothing but registers -/

theorem Block.putFld_rest (a hi lo x : Nat) (b : Block) : b.putFld a hi lo x = { b with regs := (b.putFld a hi lo x).regs } := rfl
theorem Block.putN_rest (a x : Nat) (b : Block) : b.putN a x = { b with regs := (b.putN a x).regs } := rfl
theorem Block.putBit_rest (a i : Nat) (v : Bool) (b : Block) : b.putBit a i v = { b with regs := (b.putBit a i v).regs } := rfl
theorem Block.setBits_rest (a m : Nat) (b : Block) : b.setBits a m = { b with regs := (b.setBits a m).regs, fresh := (b.setBits a m).fresh } := rfl
theorem Block.bump_rest (a : Nat) (b : Block) : b.bump a = { b with regs := (b.bump a).regs, fresh := (b.bump a).fresh } := rfl
theorem Block.bumpN_rest (a n : Nat) (b : Block) : b.bumpN a n = { b with regs := (b.bumpN a n).regs, fresh := (b.bumpN a n).fresh } := rfl
theorem Block.put64_rest (a x : Nat) (b : Block) : b.put64 a x = { b with regs := (b.put64 a x).regs } := rfl
theorem Block.bump64_rest (a n : Nat) (b : Block) : b.bump64 a n = { b with regs := (b.bump64 a n).regs } := rfl

/-! ## Other shared operations, each by what it leaves -/

/-- A read of a range of memory changes nothing but MEM_POISON_CNT. -/
theorem Block.readCount_rest (a n : Nat) (b : Block) : b.readCount a n = { b with regs := (b.readCount a n).regs, fresh := (b.readCount a n).fresh } := by
  unfold Block.readCount; split <;> rfl

/-- A counter of a job counts, and nothing else changes. -/
theorem Block.count_rest (j set i n : Nat) (b : Block) : b.count j set i n = { b with cnt := (b.count j set i n).cnt } := by
  unfold Block.count; split <;> rfl

/-- A health quantity grows, and nothing else changes. -/
theorem Block.tally_rest (k n : Nat) (b : Block) : b.tally k n = { b with health := (b.tally k n).health } := by
  unfold Block.tally; split <;> rfl

theorem Block.dram_mc_rest {b b1 : Block} (d : Mem) (m : MemCtl) (h : b1 = { b with regs := b1.regs, fresh := b1.fresh }) :
    ({ b1 with dram := d, mc := m } : Block) = { b with dram := d, mc := m, regs := b1.regs, fresh := b1.fresh } := by
  rw [h]

/-- A write to memory changes memory, poison and MEM_POISON_CNT, and nothing else. -/
theorem Block.dxWrite_rest (a : Nat) (bs : List Byte) (b : Block) :
    b.dxWrite a bs = { b with
      dram := (b.dxWrite a bs).dram, mc := (b.dxWrite a bs).mc, regs := (b.dxWrite a bs).regs, fresh := (b.dxWrite a bs).fresh } := by
  refine Block.dram_mc_rest _ _ ?_
  split <;> rfl

end Sys2Proof.Machine
end

