-- ==== Sys2Proof/Laws/Run.lean ====
section
/-! SUPPORT. When a command acts: the gates of the units, the packets of the rings, and the queue. -/

namespace Sys2Proof.Machine

/-- A ring command whose packet starts leaves what its effect leaves. -/
theorem cmd_runs {opc : Nat} {r : Req} {t : Time} {s : State} {b : Block} {id : Nat} (h : Starts opc r t s b id)
    (eff : Nat → Req → Block → Block) :
    (Host.Outcome.next (s.run t fun b => Ci.cmd opc r eff b) : Host.Outcome State Fault Refusal) = After s (eff id r b) := by
  rw [after_run, Ci.cmd_starts h]

theorem Block.whenWorks_of {m : Nat} {b : Block} (h : b.works m = true) (f : Block → Block) : b.whenWorks m f = f b := if_pos h

theorem Block.whenWorks_not {m : Nat} {b : Block} (h : b.works m = false) (f : Block → Block) : b.whenWorks m f = b :=
  if_neg (by rw [h]; decide)

theorem Block.whenBufs_of {m : Nat} {b : Block} (h : b.worksBm m = true) (f : Block → Block) : b.whenBufs m f = f b := by
  have ⟨hw, hf⟩ : b.works m = true ∧ b.frozen 35 = false := by simpa [Block.worksBm] using h
  show (if b.frozen 35 && _ then b else b.whenWorks m f) = f b
  rw [hf, Block.whenWorks_of hw]; rfl

/-- While no engine has hung, the end of a stall changes nothing. -/
theorem Block.stallEnd_none {old b : Block} (h : b.dbg.stall = []) : old.stallEnd b = b := by
  unfold Block.stallEnd; rw [h]; rfl

/-- No alarm comes at the moment, so a key operation goes on. -/
theorem State.foresee_none {s : State} {t : Time} (h : s.alarmAt t = false) (b : Block) : s.foresee t b = b := by
  unfold State.foresee; rw [h]; rfl

theorem Block.whenUp_of {b : Block} (h : b.pcr.phase = 4) (f : Block → Block) : b.whenUp f = f b := if_pos h

theorem Block.whenUp_not {b : Block} (h : b.pcr.phase ≠ 4) (f : Block → Block) : b.whenUp f = b := if_neg h

theorem Block.whenLf_of {p : Nat} {b : Block} (hp : p < 2) (h : b.works (33 + p) = true) (f : Block → Block) : b.whenLf p f = f b :=
  (if_pos hp).trans (Block.whenWorks_of h f)

theorem Block.whenCp_of {m : Nat} {b : Block} (h : b.pcr.phase = 4) (hc : b.cpOut m = false) (f : Block → Block) : b.whenCp m f = f b :=
  if_pos ⟨h, by rw [hc]; rfl⟩

theorem Block.whenLo_of {p : Nat} {b : Block} (hp : p < 2) (h : b.pcr.phase = 4) (hc : b.cpOut (6 + p) = false) (f : Block → Block) :
    b.whenLo p f = f b :=
  (if_pos hp).trans (Block.whenCp_of h hc f)

theorem Block.whenPtp_of {b : Block} (h : b.works 36 = true) (hc : b.cpOut 8 = false) (f : Block → Block) : b.whenPtp f = f b :=
  if_pos ⟨h, by rw [hc]; rfl⟩

/-- A command moves the clock to its moment, or leaves it where it is, and takes nothing from the queue. -/
@[simp] theorem State.run_pending (s : State) (t : Time) (f : Block → Block) : (s.run t f).pending = s.pending := by unfold State.run; rfl

/-- An idle step changes nothing. -/
theorem step_idle (b : Block) : step ⟨b, []⟩ = .next ⟨b, []⟩ := rfl

end Sys2Proof.Machine
end

