-- ==== Sys2Proof/WellFormed.lean ====
section
/-! DEFINITION. Well-formed commands: those whose operands name an object that the DX-64 has. An ill-formed command is none that the
hardware can meet; its meaning does nothing but move the clock, or takes a field modulo its range. -/

namespace Sys2Proof

/-- A requester by master ID (R8, Table 14-3): a control processor, a host core, the PCI Express endpoint (38) or the sideband port (39). -/
def Instr.rqOk (rq : Nat) : Bool := rq < 26 || rq == 38 || rq == 39

/-- A packet comes from one of the 256 rings. -/
def Req.wf (r : Req) : Bool := r.ring < 256

/-- A command is well formed. -/
def Instr.wf (i : Instr) : Bool :=
  match i with
  | .cmdDbWrite _ rq ring _ => rqOk rq && ring < 256
  | .cmdRqCfgWrite _ rq ring _ => rqOk rq && ring < 256
  | .cmdCqHeadWrite _ rq ring _ => rqOk rq && ring < 256
  | .ciDispatch _ cp _ => cp < 4
  | .coalTimerExpiry _ ring => ring < 256
  | .completionWriteRetry _ ring _ => ring < 256
  | .sysNop _ r => r.wf
  | .sysQuery _ r => r.wf
  | .funcEnable _ r => r.wf
  | .funcDisable _ r => r.wf
  | .funcRunningReached _ _ => true
  | .funcDrainEnd _ _ => true
  | .fabricPortDrainTimeout _ port => port < 32
  | .funcState _ r => r.wf
  | .regionConfig _ r => r.wf
  | .reset _ r => r.req.wf
  | .powerState _ r => r.wf
  | .powerTransitionDone _ => true
  | .policyBounds _ r => r.wf
  | .ownerRevoke _ r => r.wf
  | .ringReset _ r => r.wf
  | .jobOpen _ r => r.wf
  | .jobRanks _ r => r.wf
  | .ringBind _ r => r.wf
  | .jobConfig _ r => r.wf
  | .jobRate _ r => r.wf
  | .jobFence _ r => r.wf
  | .jobFenceComplete _ _ => true
  | .jobClose _ r => r.wf
  | .jobQuery _ r => r.wf
  | .mcastSet _ r => r.wf
  | .mcastUpdateAckRx _ _ => true
  | .winCreate _ r => r.wf
  | .winDestroy _ r => r.wf
  | .winFence _ r => r.wf
  | .bulkCopy _ r => r.wf
  | .winQuery _ r => r.wf
  | .treeSet _ r => r.wf
  | .collStart _ r => r.wf
  | .collAbort _ r => r.wf
  | .combinerLoad _ r => r.wf
  | .collQuery _ r => r.wf
  | .residualAlloc _ r => r.wf
  | .residualFree _ r => r.wf
  | .bufAlloc _ r => r.wf
  | .bufFree _ r => r.wf
  | .bufPass _ r => r.wf
  | .engineBufAlloc _ _ => true
  | .poolConfig _ r => r.wf
  | .poolFrameMove _ _ _ => true
  | .auditStart _ r => r.wf
  | .auditRead _ r => r.wf
  | .portConfig _ r => r.wf
  | .memberSet _ r => r.wf
  | .slotMap _ r => r.wf
  | .pageSwap _ r => r.wf
  | .tsiPageSwitch _ port => port < 2
  | .tuneMethod _ r => r.wf
  | .defectConfig _ r => r.wf
  | .combSwitch _ r => r.wf
  | .launchPower _ r => r.wf
  | .ptpConfig _ r => r.wf
  | .domainSelect _ r => r.wf
  | .pulseSet _ r => r.wf
  | .offsetMeasure _ r => r.wf
  | .offsetMeasureTimeout _ => true
  | .attest _ r => r.wf
  | .peerKeyx _ r => r.wf
  | .rekey _ r => r.wf
  | .keyErase _ r => r.wf
  | .tamperConfig _ r => r.wf
  | .counterRead _ r => r.wf
  | .pmRead _ r => r.wf
  | .statsRead _ r => r.wf
  | .snapshotConfig _ r => r.wf
  | .healthRead _ r => r.wf
  | .engineFreeze _ r => r.wf
  | .engineDump _ r => r.wf
  | .traceConfig _ r => r.wf
  | .hangConfig _ r => r.wf
  | .regWrite _ rq addr _ _ => rqOk rq && addr < 0x400000
  | .regReadClear _ rq addr _ => rqOk rq && addr < 0x400000
  | .regPairLoRead _ rq addr => rqOk rq && addr < 0x400000
  | .regPairHiRead _ rq addr => rqOk rq && addr < 0x400000
  | .regPairHiWrite _ rq addr _ => rqOk rq && addr < 0x400000
  | .regPairLoWrite _ rq addr _ => rqOk rq && addr < 0x400000
  | .fifEddyPartWrite _ rq n _ => rqOk rq && n < 8
  | .fwuExecCtlWrite _ rq _ => rqOk rq
  | .cxQlimitWrite _ rq _ _ => rqOk rq
  | .srBankOwnWrite _ rq bank p1 _ _ => rqOk rq && (bank < 800 && (!p1 || 768 ≤ bank))
  | .bankHandoverDone _ bank p1 => (bank < 800 && (!p1 || 768 ≤ bank))
  | .memSRetireWrite _ rq stack _ => rqOk rq && stack < 8
  | .secSvnCommitWrite _ rq _ => rqOk rq
  | .secMr3ExtCommit _ rq _ => rqOk rq
  | .secGwWrite _ rq _ => rqOk rq
  | .tuNowNsRead _ rq => rqOk rq
  | .tuPiTsNsRead _ rq input => rqOk rq && input < 2
  | .pcrClkSetWrite _ rq _ => rqOk rq
  | .pcrWakeReq _ rq _ => rqOk rq
  | .lfPmClear _ rq port _ => rqOk rq && port < 2
  | .dbgTraceSwCmtWrite _ rq _ => rqOk rq
  | .dbgCtlUnlockWrite _ rq _ => rqOk rq
  | .hcCpWinWrite _ rq k _ => rqOk rq && k < 9
  | .sysEvtHeadWrite _ rq _ => rqOk rq
  | .fabricPacketRx _ port pkt => port < 32 && pkt.payload.length ≤ 4096
  | .gapTimerExpiry _ _ => true
  | .fabricRequestRx _ _ => true
  | .fabricRequestUnblock _ _ => true
  | .fabricFenceAck _ _ => true
  | .fabricResponseRx _ _ => true
  | .fabricRequestTimeout _ => true
  | .tagQuarantineEnd _ _ => true
  | .fabricRequestIssue _ => true
  | .fabricPacketTx _ _ => true
  | .fabricCreditReturn _ port cls _ => port < 32 && cls < 8
  | .mcastResultInject _ _ _ => true
  | .mcastSetTimeout _ idx => idx < 4096
  | .resetNoticeRx _ _ => true
  | .resetDoneRx _ _ => true
  | .fabricLaneLoss _ port => port < 32
  | .fabricPortUp _ port => port < 32
  | .timeMsgSend _ => true
  | .farRequestSend _ _ => true
  | .farRequestRx _ _ => true
  | .farStreamHoldExpiry _ => true
  | .farRequestExecute _ _ => true
  | .farExecResponse _ _ => true
  | .ffenceComplete _ _ => true
  | .farResponseRx _ _ => true
  | .farDeadlineExpiry _ => true
  | .farQuarantineEnd _ _ => true
  | .opContextPageOut _ => true
  | .opContextPageIn _ _ => true
  | .bulkProgressRx _ _ => true
  | .bulkChunkSend _ _ => true
  | .tilePutRx _ _ => true
  | .tileContextAlloc _ => true
  | .ceDispatchSlot _ => true
  | .collLineMsgRx _ _ => true
  | .earlyStateExpiry _ => true
  | .digestRx _ _ => true
  | .digestWaitTimeout _ => true
  | .abortRx _ _ => true
  | .tileDeadlineExpiry _ => true
  | .collComplete _ _ => true
  | .tileContextPageOut _ => true
  | .tileContextPageIn _ _ => true
  | .a2aPutRx _ _ => true
  | .a2aDataRx _ _ => true
  | .a2aEndRx _ _ => true
  | .cxDraughtStart _ lane => lane < 32
  | .cxStreamDone _ lane => lane < 32
  | .cxDecodeAccept _ => true
  | .cxDecodeDone _ lane => lane < 32
  | .ccSealRecord _ _ => true
  | .ccOpenSegment _ _ => true
  | .rekeyTrigger _ slot => slot < 8
  | .rekeyAnnounceRx _ _ => true
  | .rekeyReadyRx _ _ => true
  | .rekeyRetireSend _ slot => slot < 8
  | .rekeyRetireRx _ _ => true
  | .rekeyRetireAckRx _ _ => true
  | .keyStallExpiry _ => true
  | .ctrlSlotRx _ port => port < 2
  | .segmentRx _ port _ => port < 2
  | .transportControlRx _ port _ => port < 2
  | .groupFrameTx _ x => x.port < 2 && x.mgmt.all fun m => m.length ≤ 52
  | .rtoExpiry _ => true
  | .segmentAbandon _ port _ => port < 2
  | .rxCreditRecompute _ => true
  | .fwuRttUpdate _ => true
  | .portUnusable _ port => port < 2
  | .portUsable _ port => port < 2
  | .acceptMapExpiry _ port => port < 2
  | .noPathExpiry _ _ => true
  | .bucketRefill _ => true
  | .scaleFactorUpdate _ => true
  | .groupFrameBoundary _ port => port < 2
  | .memberFrameRx _ port m _ => port < 2 && m < 32
  | .defectEntry _ port obj sign => port < 2 && obj < 33 && sign.bit < 9
  | .defectExit _ port obj sign => port < 2 && obj < 33 && sign.bit < 9
  | .plannedRemovalRequest _ port m => port < 2 && m < 32
  | .planMapClearExpiry _ port m => port < 2 && m < 32
  | .memberAddTimeout _ port => port < 2
  | .pmSecond _ => true
  | .pmBinRollover _ => true
  | .loSecondReport _ port _ => port < 2
  | .combBringUp _ port => port < 2
  | .combBringUpDone _ port _ _ _ _ => port < 2
  | .combStateLoss _ port => port < 2
  | .combAutoSwitch _ port => port < 2
  | .combLineCheck _ port _ => port < 2
  | .linesLowExpiry _ port => port < 2
  | .ringTuneTick _ port _ => port < 2
  | .ringRelock _ port m _ => port < 2 && m < 32
  | .calibrationStart _ port => port < 2
  | .calibrationWork _ port _ => port < 2
  | .calibrationRetry _ port => port < 2
  | .launchAdjust _ port _ => port < 2
  | .eyeSafetyShutdown _ port => port < 2
  | .safeProbe _ port => port < 2
  | .ageingHourly _ => true
  | .tamperAlarm _ _ => true
  | .kxMessageRx _ port msg _ => port < 2 && (1 ≤ msg && msg ≤ 5)
  | .kxTimeout _ port => port < 2
  | .memReadCe _ store _ _ => store < 2
  | .memReadUe _ store _ _ => store < 2
  | .patrolScrub _ finding => finding < 3
  | .sramScrub _ finding _ => finding < 3
  | .channelRetire _ ch _ => ch < 128
  | .frameMigrate _ => true
  | .scratchNonownerAccess _ master bank p1 _ => master < 42 && (bank < 800 && (!p1 || 768 ≤ bank))
  | .ptpMessageRx _ inst _ => inst < 2
  | .ptpInstanceLost _ inst => inst < 2
  | .slewEnd _ => true
  | .tcForward _ _ _ _ => true
  | .pulseEdge _ n => n < 4
  | .pulseInputEdge _ i _ => i < 2
  | .powerOn _ => true
  | .resetNAssert _ _ _ => true
  | .bootStep _ _ => true
  | .bootStepTimeout _ => true
  | .pwrGoodLoss _ _ => true
  | .wakeNAssert _ _ => true
  | .calmWake _ => true
  | .referenceLoss _ sign => sign.ref < 6
  | .referenceRecovery _ sign => sign.ref < 6
  | .energyEpoch _ _ => true
  | .rampGovernorGrant _ => true
  | .thermalSample _ _ => true
  | .thermalTrip _ => true
  | .cpWatchdogExpiry _ x => x.master < 10
  | .cpRestart _ master => master < 10
  | .engineHang _ engine => (26 ≤ engine && engine ≤ 36)
  | .debugDmiAccess _ _ => true
  | .traceRecordWrite _ => true
  | .eventRecordWrite _ => true
  | .healthHourly _ => true
  | .telemetrySnapshot _ => true
  | .fenceNoticeRx _ _ => true
  | .pwrGoodRise _ => true
  | .calmWakeTimeout _ => true
  | .vddAonLoss _ => true
  | .combReacquired _ port _ => port < 2
  | .safeProbeEnd _ port => port < 2
  | .tuneMethodTimeout _ port => port < 2
  | .avsAlertNChange _ _ => true
  | .adaptiveLoopUpdate _ loop _ => (loop == 0x2010 || loop == 0x2020)
  | .ptpDelayReqSend _ inst => inst < 2
  | .hcCacheError _ x _ _ => (x.level == 2 || x.level == 3) && decide (10 ≤ x.core) && decide (x.core ≤ 25)
  | .ciHeartbeatLapse _ k => k < 4
  | .auditWalkDone _ => true
  | .engineDumpDone _ e => (26 ≤ e && e ≤ 36)
  | .ownerRevokeDone _ => true

end Sys2Proof
end

