-- ==== Sys2Proof/Tests/Slice0.lean ====
section
/-! SUPPORT. Tests of the model: commands that are ill formed, one check at a time; and for every statement with hypotheses, states and
operands that meet them, clause by clause, mostly at the ends of their ranges. -/

set_option Elab.async false
set_option exponentiation.threshold 512
set_option maxRecDepth 20000

namespace Sys2Proof

/-! ## Ill-formed commands, one check at a time -/

/-- Requester 26: ill formed. -/
theorem test_wf_requester (t : Time) (ring addr width n bank stack input port k : Nat) (v : Word) (dec p1 : Bool) (delayed : List Nat) :
    ∀ i ∈ ([.cmdDbWrite t 26 ring v, .cmdRqCfgWrite t 26 ring v, .cmdCqHeadWrite t 26 ring v, .regWrite t 26 addr width v,
     .regReadClear t 26 addr width, .regPairLoRead t 26 addr, .regPairHiRead t 26 addr, .regPairHiWrite t 26 addr v,
     .regPairLoWrite t 26 addr v, .fifEddyPartWrite t 26 n v, .fwuExecCtlWrite t 26 v, .cxQlimitWrite t 26 dec v,
     .srBankOwnWrite t 26 bank p1 v delayed, .memSRetireWrite t 26 stack v, .secSvnCommitWrite t 26 v,
     .secMr3ExtCommit t 26 v, .secGwWrite t 26 v, .tuNowNsRead t 26, .tuPiTsNsRead t 26 input, .pcrClkSetWrite t 26 v,
     .pcrWakeReq t 26 v, .lfPmClear t 26 port v, .dbgTraceSwCmtWrite t 26 v, .dbgCtlUnlockWrite t 26 v,
     .hcCpWinWrite t 26 k v, .sysEvtHeadWrite t 26 v] : List Instr), i.wf = false := by
  repeat refine List.forall_mem_cons.2 ⟨by first | rfl | simp [Instr.wf], ?_⟩
  exact fun _ h => nomatch h

/-- Ring 256: ill formed. -/
theorem test_wf_ring (t : Time) (rq : Nat) (v : Word) (hostOk : Bool) :
    ∀ i ∈ ([.cmdDbWrite t rq 256 v, .cmdRqCfgWrite t rq 256 v, .cmdCqHeadWrite t rq 256 v, .coalTimerExpiry t 256,
     .completionWriteRetry t 256 hostOk] : List Instr), i.wf = false := by
  repeat refine List.forall_mem_cons.2 ⟨by first | rfl | simp [Instr.wf], ?_⟩
  exact fun _ h => nomatch h

/-- Command processor 4: ill formed. -/
theorem test_wf_cp (t : Time) (hostOk : Bool) :
    ∀ i ∈ ([.ciDispatch t 4 hostOk] : List Instr), i.wf = false := by
  repeat refine List.forall_mem_cons.2 ⟨by first | rfl | simp [Instr.wf], ?_⟩
  exact fun _ h => nomatch h

/-- A packet of ring 256: ill formed. -/
theorem test_wf_ring_of_packet (t : Time) (r : Req) (cut : Cut) (h : r.ring = 256) :
    ∀ i ∈ ([.sysNop t r, .sysQuery t r, .funcEnable t r, .funcDisable t r, .funcState t r, .regionConfig t r, .reset t ⟨r, cut⟩,
     .powerState t r, .policyBounds t r, .ownerRevoke t r, .ringReset t r, .jobOpen t r, .jobRanks t r, .ringBind t r,
     .jobConfig t r, .jobRate t r, .jobFence t r, .jobClose t r, .jobQuery t r, .mcastSet t r, .winCreate t r,
     .winDestroy t r, .winFence t r, .bulkCopy t r, .winQuery t r, .treeSet t r, .collStart t r, .collAbort t r,
     .combinerLoad t r, .collQuery t r, .residualAlloc t r, .residualFree t r, .bufAlloc t r, .bufFree t r, .bufPass t r,
     .poolConfig t r, .auditStart t r, .auditRead t r, .portConfig t r, .memberSet t r, .slotMap t r, .pageSwap t r,
     .tuneMethod t r, .defectConfig t r, .combSwitch t r, .launchPower t r, .ptpConfig t r, .domainSelect t r,
     .pulseSet t r, .offsetMeasure t r, .attest t r, .peerKeyx t r, .rekey t r, .keyErase t r, .tamperConfig t r,
     .counterRead t r, .pmRead t r, .statsRead t r, .snapshotConfig t r, .healthRead t r, .engineFreeze t r,
     .engineDump t r, .traceConfig t r, .hangConfig t r] : List Instr), i.wf = false := by
  have hr : r.wf = false := by simp [Req.wf, h]
  repeat refine List.forall_mem_cons.2 ⟨by exact hr, ?_⟩
  exact fun _ h => nomatch h

/-- Fabric port 32: ill formed. -/
theorem test_wf_fabric_port (t : Time) (pkt : FabPkt) (cls n : Nat) :
    ∀ i ∈ ([.fabricPortDrainTimeout t 32, .fabricPacketRx t 32 pkt, .fabricCreditReturn t 32 cls n, .fabricLaneLoss t 32,
     .fabricPortUp t 32] : List Instr), i.wf = false := by
  repeat refine List.forall_mem_cons.2 ⟨by first | rfl | simp [Instr.wf], ?_⟩
  exact fun _ h => nomatch h

/-- Line port 2: ill formed. -/
theorem test_wf_line_port (t : Time) (rq seq m obj msg bias : Nat) (u : Unit) (v : Word) (syms : List Symbol) (sign : DefectSign) (ends : List Time) (comb : CombFound) (rings : RingsFound) (xLoTick : LoTick) (xRingTick : RingTick) (resS : Option (List Sweep × Int)) (resC : Option CalFound) (xLaunchTick : LaunchTick) (kKxView : KxView) (scan : LineScan) :
    ∀ i ∈ ([.tsiPageSwitch t 2, .lfPmClear t rq 2 v, .ctrlSlotRx t 2, .segmentRx t 2 u, .transportControlRx t 2 u, .groupFrameTx t ⟨2, []⟩,
     .segmentAbandon t 2 seq, .portUnusable t 2, .portUsable t 2, .acceptMapExpiry t 2, .groupFrameBoundary t 2,
     .memberFrameRx t 2 m syms, .defectEntry t 2 obj sign, .defectExit t 2 obj sign, .plannedRemovalRequest t 2 m,
     .planMapClearExpiry t 2 m, .memberAddTimeout t 2, .loSecondReport t 2 u, .combBringUp t 2,
     .combBringUpDone t 2 ends comb rings bias, .combStateLoss t 2, .combAutoSwitch t 2, .combLineCheck t 2 xLoTick,
     .linesLowExpiry t 2, .ringTuneTick t 2 xRingTick, .ringRelock t 2 m resS, .calibrationStart t 2,
     .calibrationWork t 2 resC, .calibrationRetry t 2, .launchAdjust t 2 xLaunchTick, .eyeSafetyShutdown t 2,
     .safeProbe t 2, .kxMessageRx t 2 msg kKxView, .kxTimeout t 2, .combReacquired t 2 scan, .safeProbeEnd t 2,
     .tuneMethodTimeout t 2] : List Instr), i.wf = false := by
  repeat refine List.forall_mem_cons.2 ⟨by first | rfl | simp [Instr.wf], ?_⟩
  exact fun _ h => nomatch h

/-- The address after the register space: ill formed. -/
theorem test_wf_addr (t : Time) (rq width : Nat) (v : Word) :
    ∀ i ∈ ([.regWrite t rq 0x400000 width v, .regReadClear t rq 0x400000 width, .regPairLoRead t rq 0x400000,
     .regPairHiRead t rq 0x400000, .regPairHiWrite t rq 0x400000 v, .regPairLoWrite t rq 0x400000 v] : List Instr), i.wf = false := by
  repeat refine List.forall_mem_cons.2 ⟨by first | rfl | simp [Instr.wf], ?_⟩
  exact fun _ h => nomatch h

/-- Partition 8: ill formed. -/
theorem test_wf_partition (t : Time) (rq : Nat) (v : Word) :
    ∀ i ∈ ([.fifEddyPartWrite t rq 8 v] : List Instr), i.wf = false := by
  repeat refine List.forall_mem_cons.2 ⟨by first | rfl | simp [Instr.wf], ?_⟩
  exact fun _ h => nomatch h

/-- Scratch bank 800: ill formed. -/
theorem test_wf_bank (t : Time) (rq master : Nat) (p1 write : Bool) (v : Word) (delayed : List Nat) :
    ∀ i ∈ ([.srBankOwnWrite t rq 800 p1 v delayed, .bankHandoverDone t 800 p1, .scratchNonownerAccess t master 800 p1 write] : List Instr), i.wf = false := by
  repeat refine List.forall_mem_cons.2 ⟨by first | rfl | simp [Instr.wf], ?_⟩
  exact fun _ h => nomatch h

/-- Port 1 of bank 767, which has one port: ill formed. -/
theorem test_wf_bank_port (t : Time) (rq master : Nat) (v : Word) (delayed : List Nat) (write : Bool) :
    ∀ i ∈ ([.srBankOwnWrite t rq 767 true v delayed, .bankHandoverDone t 767 true,
     .scratchNonownerAccess t master 767 true write] : List Instr), i.wf = false := by
  repeat refine List.forall_mem_cons.2 ⟨by first | rfl | simp [Instr.wf], ?_⟩
  exact fun _ h => nomatch h

/-- Stack 8: ill formed. -/
theorem test_wf_stack (t : Time) (rq : Nat) (v : Word) :
    ∀ i ∈ ([.memSRetireWrite t rq 8 v] : List Instr), i.wf = false := by
  repeat refine List.forall_mem_cons.2 ⟨by first | rfl | simp [Instr.wf], ?_⟩
  exact fun _ h => nomatch h

/-- Input 2: ill formed. -/
theorem test_wf_input (t : Time) (rq : Nat) (rising : Bool) :
    ∀ i ∈ ([.tuPiTsNsRead t rq 2, .pulseInputEdge t 2 rising] : List Instr), i.wf = false := by
  repeat refine List.forall_mem_cons.2 ⟨by first | rfl | simp [Instr.wf], ?_⟩
  exact fun _ h => nomatch h

/-- Window 9: ill formed. -/
theorem test_wf_cp_window (t : Time) (rq : Nat) (v : Word) :
    ∀ i ∈ ([.hcCpWinWrite t rq 9 v] : List Instr), i.wf = false := by
  repeat refine List.forall_mem_cons.2 ⟨by first | rfl | simp [Instr.wf], ?_⟩
  exact fun _ h => nomatch h

/-- Fabric class 8: ill formed. -/
theorem test_wf_cls (t : Time) (port n : Nat) :
    ∀ i ∈ ([.fabricCreditReturn t port 8 n] : List Instr), i.wf = false := by
  repeat refine List.forall_mem_cons.2 ⟨by first | rfl | simp [Instr.wf], ?_⟩
  exact fun _ h => nomatch h

/-- Mask table entry 4096: ill formed. -/
theorem test_wf_idx (t : Time) :
    ∀ i ∈ ([.mcastSetTimeout t 4096] : List Instr), i.wf = false := by
  repeat refine List.forall_mem_cons.2 ⟨by first | rfl | simp [Instr.wf], ?_⟩
  exact fun _ h => nomatch h

/-- Lane 32: ill formed. -/
theorem test_wf_lane (t : Time) :
    ∀ i ∈ ([.cxDraughtStart t 32, .cxStreamDone t 32, .cxDecodeDone t 32] : List Instr), i.wf = false := by
  repeat refine List.forall_mem_cons.2 ⟨by first | rfl | simp [Instr.wf], ?_⟩
  exact fun _ h => nomatch h

/-- Key slot 8: ill formed. -/
theorem test_wf_slot (t : Time) :
    ∀ i ∈ ([.rekeyTrigger t 8, .rekeyRetireSend t 8] : List Instr), i.wf = false := by
  repeat refine List.forall_mem_cons.2 ⟨by first | rfl | simp [Instr.wf], ?_⟩
  exact fun _ h => nomatch h

/-- Member 32: ill formed. -/
theorem test_wf_member (t : Time) (port : Nat) (syms : List Symbol) (resS : Option (List Sweep × Int)) :
    ∀ i ∈ ([.memberFrameRx t port 32 syms, .plannedRemovalRequest t port 32, .planMapClearExpiry t port 32,
     .ringRelock t port 32 resS] : List Instr), i.wf = false := by
  repeat refine List.forall_mem_cons.2 ⟨by first | rfl | simp [Instr.wf], ?_⟩
  exact fun _ h => nomatch h

/-- Object 33 of a line port: ill formed. -/
theorem test_wf_obj (t : Time) (port : Nat) (sign : DefectSign) :
    ∀ i ∈ ([.defectEntry t port 33 sign, .defectExit t port 33 sign] : List Instr), i.wf = false := by
  repeat refine List.forall_mem_cons.2 ⟨by first | rfl | simp [Instr.wf], ?_⟩
  exact fun _ h => nomatch h

/-- Defect bit 9: ill formed. -/
theorem test_wf_bit (t : Time) (port obj : Nat) (rep : Option LosReport) :
    ∀ i ∈ ([.defectEntry t port obj ⟨9, rep⟩, .defectExit t port obj ⟨9, rep⟩] : List Instr), i.wf = false := by
  repeat refine List.forall_mem_cons.2 ⟨by first | rfl | simp [Instr.wf], ?_⟩
  exact fun _ h => nomatch h

/-- Key agreement messages 0 and 6: ill formed. -/
theorem test_wf_kx_message (t : Time) (port : Nat) (kKxView : KxView) :
    ∀ i ∈ ([.kxMessageRx t port 0 kKxView, .kxMessageRx t port 6 kKxView] : List Instr), i.wf = false := by
  repeat refine List.forall_mem_cons.2 ⟨by first | rfl | simp [Instr.wf], ?_⟩
  exact fun _ h => nomatch h

/-- A store that is none: ill formed. -/
theorem test_wf_store (t : Time) (addr reader : Nat) :
    ∀ i ∈ ([.memReadCe t 2 addr reader, .memReadUe t 2 addr reader] : List Instr), i.wf = false := by
  repeat refine List.forall_mem_cons.2 ⟨by first | rfl | simp [Instr.wf], ?_⟩
  exact fun _ h => nomatch h

/-- A scrub finding that is none: ill formed. -/
theorem test_wf_finding (t : Time) (delayed : List Nat) :
    ∀ i ∈ ([.patrolScrub t 3, .sramScrub t 3 delayed] : List Instr), i.wf = false := by
  repeat refine List.forall_mem_cons.2 ⟨by first | rfl | simp [Instr.wf], ?_⟩
  exact fun _ h => nomatch h

/-- Channel 128: ill formed. -/
theorem test_wf_ch (t : Time) (phy : Bool) :
    ∀ i ∈ ([.channelRetire t 128 phy] : List Instr), i.wf = false := by
  repeat refine List.forall_mem_cons.2 ⟨by first | rfl | simp [Instr.wf], ?_⟩
  exact fun _ h => nomatch h

/-- Master 42: ill formed. -/
theorem test_wf_master42 (t : Time) (bank : Nat) (p1 write : Bool) :
    ∀ i ∈ ([.scratchNonownerAccess t 42 bank p1 write] : List Instr), i.wf = false := by
  repeat refine List.forall_mem_cons.2 ⟨by first | rfl | simp [Instr.wf], ?_⟩
  exact fun _ h => nomatch h

/-- Time instance 2: ill formed. -/
theorem test_wf_inst (t : Time) (mPtpMsg : PtpMsg) :
    ∀ i ∈ ([.ptpMessageRx t 2 mPtpMsg, .ptpInstanceLost t 2, .ptpDelayReqSend t 2] : List Instr), i.wf = false := by
  repeat refine List.forall_mem_cons.2 ⟨by first | rfl | simp [Instr.wf], ?_⟩
  exact fun _ h => nomatch h

/-- Pulse output 4: ill formed. -/
theorem test_wf_pulse_output (t : Time) :
    ∀ i ∈ ([.pulseEdge t 4] : List Instr), i.wf = false := by
  repeat refine List.forall_mem_cons.2 ⟨by first | rfl | simp [Instr.wf], ?_⟩
  exact fun _ h => nomatch h

/-- Reference 6: ill formed. -/
theorem test_wf_reference (t : Time) (n : RefCount) :
    ∀ i ∈ ([.referenceLoss t ⟨6, n⟩, .referenceRecovery t ⟨6, n⟩] : List Instr), i.wf = false := by
  repeat refine List.forall_mem_cons.2 ⟨by first | rfl | simp [Instr.wf], ?_⟩
  exact fun _ h => nomatch h

/-- Master 10 as a control processor: ill formed. -/
theorem test_wf_master10 (t : Time) (cut : Cut) :
    ∀ i ∈ ([.cpWatchdogExpiry t ⟨10, cut⟩, .cpRestart t 10] : List Instr), i.wf = false := by
  repeat refine List.forall_mem_cons.2 ⟨by first | rfl | simp [Instr.wf], ?_⟩
  exact fun _ h => nomatch h

/-- Masters 25 and 37 as engines: ill formed. -/
theorem test_wf_engine (t : Time) :
    ∀ i ∈ ([.engineHang t 37, .engineHang t 25, .engineDumpDone t 37, .engineDumpDone t 25] : List Instr), i.wf = false := by
  repeat refine List.forall_mem_cons.2 ⟨by first | rfl | simp [Instr.wf], ?_⟩
  exact fun _ h => nomatch h

/-- A loop that is none of the two adaptive loops: ill formed. -/
theorem test_wf_loop (t : Time) (target : Nat) :
    ∀ i ∈ ([.adaptiveLoopUpdate t 0x2011 target] : List Instr), i.wf = false := by
  repeat refine List.forall_mem_cons.2 ⟨by first | rfl | simp [Instr.wf], ?_⟩
  exact fun _ h => nomatch h

/-- Cache level 4, and masters 9 and 26 as host cores: ill formed. -/
theorem test_wf_lvl (t : Time) (ue : Bool) (addr : Nat) :
    ∀ i ∈ ([.hcCacheError t ⟨4, 10⟩ ue addr, .hcCacheError t ⟨2, 9⟩ ue addr, .hcCacheError t ⟨3, 26⟩ ue addr] : List Instr), i.wf = false := by
  repeat refine List.forall_mem_cons.2 ⟨by first | rfl | simp [Instr.wf], ?_⟩
  exact fun _ h => nomatch h

/-- Interpreter 4: ill formed. -/
theorem test_wf_interpreter (t : Time) :
    ∀ i ∈ ([.ciHeartbeatLapse t 4] : List Instr), i.wf = false := by
  repeat refine List.forall_mem_cons.2 ⟨by first | rfl | simp [Instr.wf], ?_⟩
  exact fun _ h => nomatch h

/-- A payload of more than 4,096 bytes: ill formed. -/
theorem test_wf_payload (t : Time) (p : FabPkt) (h : p.payload.length = 4097) : (Instr.fabricPacketRx t 0 p).wf = false := by
  simp [Instr.wf, h]

/-- A management message of more than 52 bytes: ill formed. -/
theorem test_wf_mgmt (t : Time) (m : List Byte) (h : m.length = 53) : (Instr.groupFrameTx t ⟨0, [m]⟩).wf = false := by simp [Instr.wf, h]

/-- Well-formed commands at the last value of their range. -/
theorem test_wf_accepts : (Instr.cmdDbWrite 0 25 255 0).wf = true ∧ (Instr.regWrite 0 39 0x3FFFFC 32 0).wf = true ∧
    (Instr.bankHandoverDone 0 768 true).wf = true ∧ (Instr.engineHang 0 36).wf = true ∧ (Instr.kxMessageRx 0 1 5 ⟨true, 0, false, [], 0, true⟩).wf = true := by
  decide

end Sys2Proof

open Sys2Proof
namespace Sys2Proof.Machine

/-! ## Small states for the tests -/

/-- The certificates fit in 65,535 bytes. -/
theorem certs_le (b : Block) : 512 + 96 + b.certs.length ≤ 70000 := by
  have h : b.certs.length ≤ 65535 := List.length_take_le _ _
  omega
/-- A connection page of zeros is in order. -/
theorem page_zero (b : Block) (h : b.dram = []) (o : Bool) (a : Nat) :
    Lf.pageBad o ((List.range 2560).map fun i => b.dxN (a + 2 * i) 2) = none := by
  have z (i : Nat) : ((List.range 2560).map fun i => b.dxN (a + 2 * i) 2).getD i 0 = 0 := by
    rw [List.getD_eq_getElem?_getD, List.getElem?_map]
    cases (List.range 2560)[i]? with
    | none => rfl
    | some k => simp only [Option.map_some, Option.getD_some, Block.dxN, Block.dxBytes, h]; rfl
  unfold Lf.pageBad
  rw [List.findSome?_eq_none_iff]
  intro i _
  have e : Lf.entryBad o 0 = false := by cases o <;> decide
  simp only [z, e, Lf.slots]
  cases o <;> simp <;> exact fun _ => ⟨rfl, by decide⟩
/-- Reading a descriptor leaves memory. -/
theorem readCount_dram (b : Block) (a n : Nat) : (b.readCount a n).dram = b.dram := by unfold Block.readCount; split <;> rfl
/-- An option that holds a value holds it. -/
theorem some_of_isSome {α : Type} {o : Option α} (d : α) (h : o.isSome = true) : o = some (o.getD d) := by
  cases o with
  | none => cases h
  | some x => rfl
/-- A running device. -/
def wup : Block := Block.putFld R.pcrStat 31 30 2 { Block.init with pcr := { PcrState.init with phase := 4 } }
/-- A running device, changed. -/
def won (f : Block → Block) : State := ⟨f wup, []⟩
/-- A device that has booted up to a step, and what a boot step finds. -/
def wstep (k : Nat) (b : Block) : Block := (b.putFld R.pcrBootStat 7 0 k).onPcr fun x => { x with phase := 2 }
def wboot : BootIn := ⟨[], [], true, 65535, [], 0, []⟩
/-- A packet of a ring for a job, its parameters by offset in the packet. -/
def wq (ring job : Nat) (l : List (Nat × Nat)) : Req :=
  ⟨ring, 0, 0, 7, BitVec.ofNat 16 job, 1, 0, BitVec.ofNat 384 (l.foldl (fun n e => n + e.2 * 2 ^ (8 * (e.1 - 16))) 0)⟩
/-- Job 5 is open. -/
def wjob (b : Block) : Block := { b with jobs := AMap.set b.jobs 5 ⟨0, none, none, 0, 0, false, false, 5, 0⟩ }
/-- A packet of the fabric of job 5. -/
def wp : FabPkt := ⟨0, 0, 0, 1, 0, 0, 0, 0, 5, 0, false, false, false, true, 0, 0, 0, 0, 0, 0, [], 0⟩
/-- An import window of job 5 to gateway 7. -/
def ww : Win := ⟨1, 15, false, 7, 5, 0x1000, 0x1000, 0, 3, 0, 0, 5, false, none, 0, 0, 0, 0⟩
/-- An inbound message from gateway 7. -/
def wi (m : Msg) : InMsg := ⟨7, 5, 5, 0, 0, m, false, none⟩
/-- A packet of the fabric with both of its checks right. -/
def wpOk : FabPkt :=
  let p := { wp with opcode := 0x20#8, length := 4#16, payload := [1#8, 2#8, 3#8, 4#8] }
  { p with hchk := Crc.crc16 p.head, pcheck := Crc.crc32c p.payload }
/-- A far request, and an operation context and an execution entry. -/
def wfar : FarMsg := ⟨1, 0, 0, 0, 0, 0, 0x1000, 8, 0, 0, []⟩
def wctx : OpCtx := ⟨0, 5, 0, 0, 0, 0, 5, 0, 7, 1, 0, 8, 0x1000, 0, [], 8, 9, none, false, [], none, none, none, none⟩
def went : ExecEnt := ⟨7, 5, 5, wfar, 0, 0, none, 0, 0, [], none, 0, false, none⟩
/-- A tree whose parent is gateway 7, and a running collective 2 of job 5. -/
def wtree : Tree := ⟨5, 1, 1, 1, 0x40050007, 0, 0, 0, 3, []⟩
def wcoll : Coll :=
  { id := 3, job := 5, cid := 2, op := 1, flags := 0, inFmt := 1, outFmt := 1, wireFmt := 0x10, round := 0, log2 := 10, elems := 1024,
    trees := [wtree], split := 1, mask := 9, contrib := [0], comb := none, resid := none, seed := 0, localMs := 0, bounds := [], prio := 0,
    tmoMs := 0, scav := false, start := 0, state := 1, tiles := [(1, TileCtx.init 0 none)], handled := [], stored := 0, digest := 0, digA := 0,
    digB := 0, sums := [], roots := [], told := [], latest := 0, stats := CollStats.zero, a2a := none }
/-- A device on which that collective runs, changed. -/
def wcol (f : Coll → Coll) : State := won fun b => { wjob b with ce := { b.ce with colls := [(20482, f wcoll)] } }
/-- A stream at a compressor, a segment, an opened segment and a message of it. -/
def wcx : CxIn := ⟨⟨1, 0, 5, 2, 0, 1, 1024, 0x10, 10, 1, 0, 0, 0, []⟩, [1#8, 2#8, 3#8, 4#8], false, 7, 1, 5, none, 20482, 1, none⟩
def wseg : Seg := ⟨1, 1, 0, 0, 0, 0, 0, 0, 5, 0, 0, []⟩
def wsegOk (f : Seg → Seg) : Seg :=
  let g := f { wseg with body := [7#8], bodyLen := 1, bodyCrc := Crc.crc32c [7#8] }
  { g with hdrCrc := Crc.crc32c g.head }
/-- Bytes in the cells of a port, the first of them named by FIRST_CELL. -/
def wcells (bs : List Byte) : List LineItem := (List.range (bs.length / 16)).map fun i => .cell ((bs.drop (16 * i)).take 16) (i == 0)
def wcellsIn (cs : List LineItem) (b : Block) : Block := b.modTp 1 fun x => { x with cells := cs, hunting := false }
def wcs : CxSeg := ⟨1, wseg, [wi (.coll ⟨1, 0, 5, 2, 0, 1, 1024, 0x10, 10, 1, 0, 0, 0, []⟩)], [0], [], none, []⟩
/-- A key, a receive key, a record and a control slot. -/
def wkey : CcKey := ⟨0, [], List.replicate 32 0, List.replicate 4 0, 0, 0⟩
def wrk : RxKey := ⟨wkey, [], 0, 0⟩
def wrec : Rec :=
  ⟨1, 0, 1, 1, 0, 0, 0, 5, 7, 0, 0, [[2#8, 5#8, 0#8, 7#8] ++ List.replicate 28 0], [], 225792279458436146506696846740705621357#128⟩
def wslot : CtrlSlot := ⟨1, 26, 0, 0, [], 0⟩
/-- A control slot that opens under the key: its tag is what sealing gives. -/
def wslotOk : CtrlSlot := { wslot with tag := (Gcm.seal wkey.key (wkey.salt ++ Bits.beBytes 8 0) (Cc.slotAad 1 26 0) []).2 }
/-- Nothing sealed opens to nothing. -/
theorem unseal_nil (key iv aad : List Byte) : Gcm.unseal key iv aad [] (Gcm.seal key iv aad []).2 = some [] := if_pos rfl
/-- A rekey message of a type for slot 0 and an epoch, received on port 0, with its key. -/
def winq (typ epoch : Nat) (rk : List (Nat × Rekey)) (b : Block) : Block :=
  { b with
    peerGw := [(0, 7)]
    te := { b.te with ports := [(0, { TePort.init with sender := some 0 })] }
    cc := { b.cc with inq := [(0, Bits.leBytes 1 typ ++ [0#8] ++ Bits.leBytes 2 epoch ++ List.replicate 12 0)], rx := [(1, [wrk])], rekeys := rk } }
/-- An ANNOUNCE's peer with its keys on port 0, and a rekey message for slot 2. -/
def winq2 (epoch : Nat) (rk : List (Nat × Rekey)) (b : Block) : Block :=
  b.onCc fun c => { c with inq := [(0, Bits.leBytes 1 2 ++ [1#8] ++ Bits.leBytes 2 epoch ++ List.replicate 12 0)], rekeys := rk }
/-- The segment of that record, its header changed. -/
def wsegRec (f : Seg → Seg) : Seg := f { wseg with body := wrec.bytes, bodyLen := 80 }
/-- A device with that segment to open, which has taken records of some counters under the key. -/
def wopening (g : Seg) (seen : List Nat) (b : Block) : Block :=
  { b with
    peerGw := [(0, 7)]
    te := { b.te with ports := [(0, { TePort.init with sender := some 0 })], opening := [(0, g)] }
    cc := { b.cc with rx := [(1, [{ wrk with seen := seen }])] } }
/-- The device once a core has taken the segment. -/
def wtaken (g : Seg) (seen : List Nat) : Block := ((won (wopening g seen)).blk.tick 0).openTake 0 g
/-- The record opens under the key: its tag is the one GCM gives for its header and that key. -/
theorem wrec_opens : wkey.opens wrec = some [] := by decide +kernel
theorem wrec_key (b : Block) (k : RxKey) (h : b.rxKeysOf wrec = [k]) (e : k.key = wkey) : b.rxKeyOf wrec = some k := by
  unfold Block.rxKeyOf
  rw [h]
  exact List.find?_cons_of_pos (by rw [e, wrec_opens]; rfl)
/-- The record fails no check in a segment that is as it says. -/
theorem wrec_check (b : Block) (k : RxKey) (g : Seg) (h : b.rxKeysOf wrec = [k]) (e : k.key = wkey)
    (hg : 80 ≤ g.body.length ∧ g.cls = 1 ∧ g.job = 5) (ho : b.gw = 0 ∧ (b.rxSlotOf wrec).isSome) (hr : g.recs = [wrec]) :
    ∀ n ∈ b.recChecks g 0 g.recs, n = 0 := by
  have c1 : ¬(wrec.version ≠ 1 ∨ wrec.flags.toNat / 2 ≠ 0 ∨ wrec.cls.toNat / 8 ≠ 0 ∨ wrec.rsvd ≠ 0 ∨ wrec.nmsg.toNat < 1 ∨ 7 < wrec.nmsg.toNat ∨
      65536 < wrec.ptLen.toNat ∨ g.body.length < 0 + wrec.size ∨ wrec.cls ≠ g.cls ∨ wrec.job ≠ g.job) := by
    have z : wrec.size = 80 := by decide
    rw [hg.2.1, hg.2.2, z, Nat.zero_add]
    rintro (h | h | h | h | h | h | h | h | h | h)
    · exact h rfl
    · exact h (by decide)
    · exact h (by decide)
    · exact h rfl
    · exact absurd h (by decide)
    · exact absurd h (by decide)
    · exact absurd h (by decide)
    · exact absurd hg.1 (Nat.not_le_of_lt h)
    · exact h rfl
    · exact h rfl
  have c2 : ¬(wrec.receiver.toNat ≠ b.gw ∨ (b.rxSlotOf wrec).isNone = true) := by
    rw [ho.1]; cases hs : b.rxSlotOf wrec with
    | none => rw [hs] at ho; cases ho.2
    | some s => exact fun h => h.elim (fun h => h rfl) Bool.noConfusion
  have c3 : ¬((b.rxKeysOf wrec).isEmpty = true) := by rw [h]; exact Bool.noConfusion
  have c5 : ¬((b.rxKeyOf wrec).isNone = true) := by rw [wrec_key b k h e]; exact Bool.noConfusion
  intro n hn
  rw [hr] at hn
  exact (List.mem_singleton.1 hn).trans ((if_neg c1).trans ((if_neg c2).trans ((if_neg c3).trans ((if_neg (by decide)).trans (if_neg c5)))))
/-- Whether its counter has been seen is what the key's list says. -/
theorem wrec_seen (b : Block) (k : RxKey) (h : b.rxKeysOf wrec = [k]) (e : k.key = wkey) :
    ((b.rxKeyOf wrec).any fun k => k.seen.contains wrec.rctr.toNat) = k.seen.contains 0 := by rw [wrec_key b k h e]; rfl
/-- Transport control, and a segment in the replay store. -/
def wtc : TC := ⟨1, 0, 0, 0, 0, 0, 0, 0, 0, 0, 0, 0, [], [], 0, ⟨0, 0, 0, 0, [], 0⟩, 0⟩
def wtx : TxSeg := ⟨1, 5, [], 0, 0, false, false, none, none, false, none, 0, 0⟩
/-- A member of a line port and its LO part changed, a member frame, and what the LO measures. -/
def wlm (p m : Nat) (f : LfMem → LfMem) (b : Block) : Block := b.modLm p m f
def wlo (p : Nat) (f : LoPort → LoPort) (b : Block) : Block := b.modLo p f
def wmf : MFrame := ⟨0, 0, 0, 0, 0, 0, 0, 0, 0, 0, 0, 0, 0, 0, 0, [], []⟩
def wlt : LoTick := ⟨⟨[], []⟩, [], 0, [], [], [], 0, 0, 0, false⟩
/-- A scan of the comb with all its lines usable, and a bring-up that finds everything in order. -/
def wscan : LineScan := ⟨List.replicate 32 0, []⟩
def wbring : BringUp := ⟨List.replicate 7 0, ⟨wscan, (List.range 32).map Lo.centre⟩, ⟨[], 0, []⟩, 0⟩
theorem wbring_good : (∀ i, i < 7 → ∃ e, wbring.ends[i]? = some e ∧ e ≤ [300, 350, 450, 470, 570, 634, 644].getD i 0 * ms) ∧
    LineScan.usable wbring.comb.scan = 0xFFFFFFFF ∧ Lo.onPlan wbring.comb.freq = true ∧ 0 ≤ 0 + 645 * ms :=
  ⟨fun i h => ⟨0, (by decide : ∀ i, i < 7 → wbring.ends[i]? = some 0) i h, Nat.zero_le _⟩, by decide +kernel, by decide +kernel, by decide⟩
def wcal (m phase : Nat) : Cal := ⟨m, false, phase, 0, 0⟩
/-- A port all of whose members are in service. -/
def wall (p : Nat) (b : Block) : Block :=
  (((b.putFld (R.lfStat p) 2 0 3).putN (R.lfProvMap p) 0xFFFFFFFF).putN (R.lfTxMap p) 0xFFFFFFFF).putN (R.lfRxMap p) 0xFFFFFFFF |>.putN (R.lfMDef p 0) 0 |>.modLp p fun x => { x with inForce := (0x0A4B05DC, 0, 0x0108) }
/-- A key agreement, what the certificates of the peer say, and a time message of a messageType, domain 0, at Ethernet port 0. -/
def wkx : Kx := ⟨none, true, 7, [], 0, none, 1, 0, [], [], [], [], 0, [], 9⟩
def wkv : KxView := ⟨true, 0, false, [], 0, true⟩
def wpm (kind : Nat) : PtpMsg :=
  ⟨0, List.replicate 12 0 ++ Bits.beBytes 2 0x88F7 ++ Bits.beBytes 1 kind ++ Bits.beBytes 1 2 ++ Bits.beBytes 2 64 ++ List.replicate 60 0⟩
def wgm : PtpGm := ⟨0, 0, 0, 0, 0, 0, 0, 0, 0, 0, false, false, []⟩
/-- Time instance `d` in a state, changed, its Ethernet port in service. -/
def wti (d n : Nat) (f : TuInst → TuInst) (b : Block) : Block :=
  ((b.setFunc 0x300 ⟨1, none, none, [], false, 0⟩).setInst d n).modInst d f
/-- A line port in a state of its LF, and its TE part changed. -/
def wlf (p n : Nat) (b : Block) : Block := b.putFld (R.lfStat p) 2 0 n
def wtp (p : Nat) (f : TePort → TePort) (b : Block) : Block := b.modTp p f
/-- A collective of job 5 on a device, and an all-to-all. -/
def wcb (c : Coll) (b : Block) : Block := { wjob b with ce := { b.ce with colls := [(20482, c)] } }
def wa2a : Coll := { wcoll with op := 5, trees := [], tiles := [], a2a := some ⟨1, 8, [1], [2 ^ 63], [0], [0], [], [], [], [], []⟩ }
def wx2 : A2a := ⟨1, 8, [1, 0x40010007], [2 ^ 63, 2 ^ 63 + 9 * 2 ^ 24 + 9], [0, 0], [0, 0], [], [], [], [], []⟩
def wa2 : Coll := { wa2a with a2a := some wx2 }
/-- A collective message for it. -/
def wcm : CollMsg := ⟨1, 0, 5, 2, 0, 1, 1024, 0x10, 10, 1, 0, 0, 0, []⟩
/-- Fields written to memory: address, length and value. -/
def wmem (l : List (Nat × Nat × Nat)) (b : Block) : Block := l.foldl (fun b e => b.dxWrite e.1 (Bits.leBytes e.2.1 e.2.2)) b

/-- States that meet the hypotheses of `Obligations.RegisterPairLatches`, clause by clause. -/
theorem wit_RegisterPairLatches :
   (let t : Time := 0
    let s : State := won id
    let rq : Nat := 10
    let lo : Nat := 0x11000
    let b := s.blk.tick t
    (lo % 4 = 0) ∧
    ((Reg.lo? lo).isSome) ∧
    (b.reach rq lo false = .acts)) ∧
   (let t : Time := 0
    let s : State := won fun b => { b with rdLatch := [(10, (0x11000, 3#32))] }
    let rq : Nat := 10
    let lo : Nat := 0x11000
    let h : Word := 3#32
    let b := s.blk.tick t
    (lo % 4 = 0) ∧
    ((Reg.lo? lo).isSome) ∧
    (b.reach rq (lo + 4) false = .acts) ∧
    (AMap.get? b.rdLatch rq = some (lo, h))) ∧
   (let t : Time := 0
    let s : State := won id
    let rq : Nat := 10
    let lo : Nat := 0x11000
    let b := s.blk.tick t
    (lo % 4 = 0) ∧
    (Reg.lo? lo = some true) ∧
    (b.reach rq (lo + 4) true = .acts)) ∧
   (let t : Time := 0
    let s : State := won fun b => { b with wrLatch := [(10, (0x11000, 3#32))] }
    let rq : Nat := 10
    let lo : Nat := 0x11000
    let h : Word := 3#32
    let b := s.blk.tick t
    (lo % 4 = 0) ∧
    (Reg.lo? lo = some true) ∧
    (b.reach rq lo true = .acts) ∧
    (AMap.get? b.wrLatch rq = some (lo, h))) := by
  refine ⟨?_, ?_, ?_, ?_⟩
  · decide
  · decide
  · decide
  · decide

/-- States that meet the hypotheses of `Obligations.RegisterAccess`, clause by clause. -/
theorem wit_RegisterAccess :
   (let b : Block := (won fun b => b.onPcr fun x => { x with phase := 5 }).blk
    let rq : Nat := 10
    (b.pcr.phase = 5) ∧
    (rq ≠ 39)) ∧
   (let b : Block := (won fun b => b.onPcr fun x => { x with phase := 5 }).blk
    let a : Nat := 0x3FFFFF
    (b.pcr.phase = 5) ∧
    (a < 0x400000)) ∧
   (let t : Time := 0
    let s : State := won fun b => b.putFld R.secStat 31 30 2
    let rq : Nat := 10
    let a : Nat := R.fifGapTmo
    ((s.blk.tick t).pcr.phase = 4) ∧
    ((s.blk.tick t).locked = true) ∧
    (10 ≤ rq) ∧
    ((s.blk.tick t).trigHit rq a true = false)) ∧
   (let t : Time := 0
    let s : State := won id
    let rq : Nat := 10
    let a : Nat := 0x20004
    let w : Nat := 16
    (w ≠ 32 ∨ a % 4 ≠ 0) ∧
    ((s.blk.tick t).trigHit rq a true = false)) ∧
   (let t : Time := 0
    let s : State := won id
    let rq : Nat := 10
    let a : Nat := 0x20002
    let w : Nat := 32
    (w ≠ 32 ∨ a % 4 ≠ 0) ∧
    ((s.blk.tick t).reach rq a false = .acts)) ∧
   (let t : Time := 0
    let s : State := won id
    let rq : Nat := 10
    let k : Nat := 7
    (k < 8) ∧
    ((s.blk.tick t).reach rq (R.cmdErrSum k) true = .acts) ∧
    (AMap.get? (s.blk.tick t).fresh (R.cmdErrSum k) = none)) ∧
   (let t : Time := 0
    let s : State := won fun b => { (b.setReg (R.cmdErrSum 7) 7) with fresh := [(R.cmdErrSum 7, (3, 5))] }
    let rq : Nat := 10
    let k : Nat := 7
    let old := 3
    let new := 5
    (k < 8) ∧
    ((s.blk.tick t).reach rq (R.cmdErrSum k) true = .acts) ∧
    (AMap.get? (s.blk.tick t).fresh (R.cmdErrSum k) = some (old, new))) ∧
   (let t : Time := 0
    let s : State := won id
    let rq : Nat := 10
    let v : Word := 10000#32
    (v.toNat / 2 ^ 14 = 0) ∧
    ((s.blk.tick t).reach rq R.fifGapTmo true = .acts) ∧
    (10 ≤ v.toNat) ∧
    (v.toNat ≤ 10000)) ∧
   (let t : Time := 0
    let s : State := won id
    let rq : Nat := 10
    let v : Word := 10001#32
    (v.toNat / 2 ^ 14 = 0) ∧
    ((s.blk.tick t).reach rq R.fifGapTmo true = .acts) ∧
    (v.toNat < 10 ∨ 10000 < v.toNat)) ∧
   (let t : Time := 0
    let s : State := won id
    let rq : Nat := 10
    let a : Nat := 0x20044
    let e : RegEnt := ⟨68, 0, 1, 0, 0, 0, 0, 4294967295, 0⟩
    let b := (s.blk.tick t).elapsed a
    (a % 4 = 0) ∧
    ((s.blk.tick t).reach rq a false = .acts) ∧
    (RegMap.find? a = some e) ∧
    (e.rc ≠ 0) ∧
    (¬(0x11000 ≤ a ∧ a < 0x15000)) ∧
    (Reg.lo? a = none) ∧
    (Reg.hi? a = none) ∧
    (a ≠ R.tuNowNs) ∧
    (a ≠ R.tuPiTsNs 0) ∧
    (a ≠ R.tuPiTsNs 1) ∧
    (AMap.get? b.fresh a = none)) ∧
   (let t : Time := 0
    let s : State := won fun b => { (b.setReg 0x20044 7) with fresh := [(0x20044, (3, 4))] }
    let rq : Nat := 10
    let a : Nat := 0x20044
    let e : RegEnt := ⟨68, 0, 1, 0, 0, 0, 0, 4294967295, 0⟩
    let b := (s.blk.tick t).elapsed a
    let old := 3
    let new := 4
    (a % 4 = 0) ∧
    ((s.blk.tick t).reach rq a false = .acts) ∧
    (RegMap.find? a = some e) ∧
    (e.rc ≠ 0) ∧
    (¬(0x11000 ≤ a ∧ a < 0x15000)) ∧
    (Reg.lo? a = none) ∧
    (Reg.hi? a = none) ∧
    (a ≠ R.tuNowNs) ∧
    (a ≠ R.tuPiTsNs 0) ∧
    (a ≠ R.tuPiTsNs 1) ∧
    (AMap.get? b.fresh a = some (old, new))) := by
  refine ⟨?_, ?_, ?_, ?_, ?_, ?_, ?_, ?_⟩
  · decide
  · decide
  · decide
  · decide
  · decide
  · decide
  · decide
  refine ⟨?_, ?_, ?_, ?_⟩
  · decide
  · decide
  · decide
  · decide

/-- States that meet the hypotheses of `Obligations.GuardedRegisterWrites`, clause by clause. -/
theorem wit_GuardedRegisterWrites :
   (let t : Time := 0
    let s : State := won id
    let rq : Nat := 10
    let n : Nat := 7
    let v : Word := 16#32
    let b := s.blk.tick t
    let sum := Bits.sum ((List.range 8).map fun i => if i = n then v.toNat % 1024 else b.fld (R.fifEddyPart i) 9 0)
    (n < 8) ∧
    (b.reach rq (R.fifEddyPart n) true = .acts) ∧
    (16 ≤ v.toNat % 1024) ∧
    (sum ≤ 512)) ∧
   (let t : Time := 0
    let s : State := won id
    let rq : Nat := 10
    let n : Nat := 7
    let v : Word := 15#32
    let b := s.blk.tick t
    let sum := Bits.sum ((List.range 8).map fun i => if i = n then v.toNat % 1024 else b.fld (R.fifEddyPart i) 9 0)
    (n < 8) ∧
    (b.reach rq (R.fifEddyPart n) true = .acts) ∧
    (v.toNat % 1024 < 16 ∨ 512 < sum)) ∧
   (let t : Time := 0
    let s : State := won fun b => { b with peerGw := [(0, 7), (1, 7)] }
    let rq : Nat := 10
    let v : Word := 131072#32
    let b := s.blk.tick t
    let x := v.toNat % 2 ^ 18
    let peers := (b.peerGw.map Prod.snd).eraseDups.length
    (b.reach rq R.fwuExecCtl true = .acts) ∧
    (1024 ≤ x) ∧
    (x ≤ 131072) ∧
    (x * peers ≤ 131072)) ∧
   (let t : Time := 0
    let s : State := won id
    let rq : Nat := 10
    let v : Word := 1023#32
    let b := s.blk.tick t
    let x := v.toNat % 2 ^ 18
    let peers := (b.peerGw.map Prod.snd).eraseDups.length
    (b.reach rq R.fwuExecCtl true = .acts) ∧
    (x < 1024 ∨ 131072 < x * peers)) ∧
   (let t : Time := 0
    let s : State := won id
    let rq : Nat := 10
    let v : Word := 4096#32
    let b := s.blk.tick t
    (b.reach rq R.cxQlimit true = .acts) ∧
    (256 ≤ v.toNat % 2 ^ 13) ∧
    (v.toNat % 2 ^ 13 ≤ 4096)) ∧
   (let t : Time := 0
    let s : State := won id
    let rq : Nat := 10
    let v : Word := 255#32
    let b := s.blk.tick t
    (b.reach rq R.cxQlimit true = .acts) ∧
    (v.toNat % 2 ^ 13 < 256 ∨ 4096 < v.toNat % 2 ^ 13)) ∧
   (let t : Time := 0
    let s : State := won id
    let rq : Nat := 10
    let v : Word := 1024#32
    let b := s.blk.tick t
    (b.reach rq R.cxDqlimit true = .acts) ∧
    (128 ≤ v.toNat % 2 ^ 11) ∧
    (v.toNat % 2 ^ 11 ≤ 1024)) ∧
   (let t : Time := 0
    let s : State := won id
    let rq : Nat := 10
    let v : Word := 127#32
    let b := s.blk.tick t
    (b.reach rq R.cxDqlimit true = .acts) ∧
    (v.toNat % 2 ^ 11 < 128 ∨ 1024 < v.toNat % 2 ^ 11)) ∧
   (let t : Time := 0
    let s : State := won fun b => b.putN R.secFwSvn 0x20001
    let rq : Nat := 10
    let b := s.blk.tick t
    (b.reach rq R.secSvnCommit true = .acts) ∧
    (b.fld R.secFwSvn 15 0 < b.fld R.secFwSvn 31 16)) ∧
   (let t : Time := 0
    let s : State := won id
    let rq : Nat := 10
    let v : Word := 0#32
    (v ≠ 0x53564E31#32) ∧
    ((s.blk.tick t).trigHit rq R.secSvnCommit true = false)) ∧
   (let t : Time := 0
    let s : State := won id
    let rq : Nat := 10
    let b := s.blk.tick t
    (b.reach rq (R.secMr3Ext 11) true = .acts)) ∧
   (let t : Time := 0
    let s : State := won id
    let rq : Nat := 10
    let b := s.blk.tick t
    (b.reach rq R.secGw true = .acts) ∧
    (b.peerGw = [])) ∧
   (let t : Time := 0
    let s : State := won fun b => { b with peerGw := [(0, 7)] }
    let rq : Nat := 10
    let b := s.blk.tick t
    (b.reach rq R.secGw true = .acts) ∧
    (b.peerGw ≠ [])) := by
  refine ⟨?_, ?_, ?_, ?_, ?_, ?_, ?_, ?_⟩
  · decide
  · decide
  · decide
  · decide
  · decide
  · decide
  · decide
  refine ⟨?_, ?_, ?_, ?_, ?_, ?_⟩
  · decide
  · decide
  · decide
  · decide
  · decide
  · decide

/-- States that meet the hypotheses of `Obligations.BankHandover`, clause by clause. -/
theorem wit_BankHandover :
   (let t : Time := 0
    let s : State := won id
    let rq : Nat := 0
    let bank : Nat := 300
    let a : Nat := 0x24C4B0
    let p1 : Bool := false
    let v : Word := 0x1B00#32
    let b := s.blk.tick t
    let k := Bm.portKey bank p1
    let x := b.bank k
    let new := Bits.fld v.toNat 13 8
    (Bm.ownReg bank p1 = some a) ∧
    (b.reach rq a true = .acts) ∧
    ((Bm.admits x.owner rq = true ∨ rq < 4 ∨ rq = 38)) ∧
    (x.fixed = false) ∧
    (x.pending = false) ∧
    (x.owner ≠ 35) ∧
    (Bm.ownerCode new = true) ∧
    (new ≠ 35)) ∧
   (let t : Time := 0
    let s : State := won fun b => b.setBank 600 ⟨true, false, false, 0, 0, 0⟩
    let rq : Nat := 0
    let bank : Nat := 300
    let a : Nat := 0x24C4B0
    let p1 : Bool := false
    let v : Word := 0#32
    let b := s.blk.tick t
    let k := Bm.portKey bank p1
    let x := b.bank k
    let new := Bits.fld v.toNat 13 8
    (Bm.ownReg bank p1 = some a) ∧
    (b.reach rq a true = .acts) ∧
    (x.fixed = true ∨ x.pending = true ∨ x.owner = 35 ∨ new = 35)) ∧
   (let t : Time := 0
    let s : State := won fun b => b.setBank 600 ⟨false, true, true, 10, 0, 0⟩
    let bank : Nat := 300
    let p1 : Bool := false
    let b := s.blk.tick t
    let k := Bm.portKey bank p1
    (b.pcr.phase = 4) ∧
    ((b.bank k).pending = true)) ∧
   (let t : Time := 0
    let s : State := won id
    let rq : Nat := 10
    let stack : Nat := 7
    let b := s.blk.tick t
    (stack < 8) ∧
    (b.reach rq (R.memSRetire stack) true = .acts)) := by
  refine ⟨?_, ?_, ?_, ?_⟩
  · decide
  · decide
  · decide
  · decide

/-- States that meet the hypotheses of `Obligations.TimeClockAndTelemetryRegisters`, clause by clause. -/
theorem wit_TimeClockAndTelemetryRegisters :
   (let t : Time := 0
    let s : State := won id
    let rq : Nat := 10
    let b := s.blk.tick t
    (b.reach rq R.tuNowNs false = .acts)) ∧
   (let t : Time := 0
    let s : State := won fun b => b.onTu fun u => { u with fifo := [(1, [5])] }
    let rq : Nat := 10
    let i : Nat := 1
    let x : Int := 5
    let q : List Int := []
    let b := s.blk.tick t
    (i < 2) ∧
    (b.reach rq (R.tuPiTsNs i) false = .acts) ∧
    (AMap.getD b.tu.fifo i [] = x :: q)) ∧
   (let t : Time := 0
    let s : State := won id
    let rq : Nat := 10
    let v : Word := 0x1412#32
    let b := s.blk.tick t
    (b.reach rq R.pcrClkSet true = .acts) ∧
    (18 ≤ v.toNat % 256) ∧
    (v.toNat % 256 ≤ 36) ∧
    (20 ≤ v.toNat / 256 % 256) ∧
    (v.toNat / 256 % 256 ≤ 40)) ∧
   (let t : Time := 0
    let s : State := won fun b => b.onPcr fun x => { x with phase := 5 }
    let v : Word := 1#32
    let b := s.blk.tick t
    (b.pcr.phase = 5) ∧
    (v.getLsbD 0 = true)) ∧
   (let t : Time := 0
    let s : State := won id
    let rq : Nat := 10
    let p : Nat := 1
    let o : Nat := 0
    let v : Word := 0x100#32
    let b := s.blk.tick t
    (p < 2) ∧
    (o ∈ Pm.objects) ∧
    (b.reach rq (R.lfPmCtl p) true = .acts) ∧
    (v.getLsbD 8 = true)) ∧
   (let t : Time := 0
    let s : State := won fun b => (b.onPcr fun x => { x with phase := 2 }).putFld R.pcrBootStat 7 0 6
    let b := s.blk.tick t
    (b.pcr.phase = 2) ∧
    (6 ≤ b.fld R.pcrBootStat 7 0) ∧
    (b.fld R.pcrBootStat 7 0 < 8)) ∧
   (let t : Time := 0
    let s : State := won id
    let rq : Nat := 10
    (rq ≠ 39 ∨ (s.blk.tick t).pcr.phase ≠ 2) ∧
    ((s.blk.tick t).trigHit rq R.dbgCtl true = false)) ∧
   (let t : Time := 0
    let s : State := won id
    let rq : Nat := 10
    let b := s.blk.tick t
    (b.reach rq R.dbgTraceSwCmt true = .acts)) ∧
   (let t : Time := 0
    let s : State := won id
    let rq : Nat := 10
    let k : Nat := 8
    let v : Word := 0#32
    let b := s.blk.tick t
    (k < 9) ∧
    (b.reach rq (R.hcCpWin k) true = .acts) ∧
    ((v.toNat / 2 ^ 18 + 1) * 2 ^ 30 ≤ 0x6000000000)) ∧
   (let t : Time := 0
    let s : State := won id
    let rq : Nat := 10
    let k : Nat := 8
    let v : Word := 0xFFFFFFFF#32
    let b := s.blk.tick t
    (k < 9) ∧
    (b.reach rq (R.hcCpWin k) true = .acts) ∧
    (0x6000000000 < (v.toNat / 2 ^ 18 + 1) * 2 ^ 30)) ∧
   (let t : Time := 0
    let s : State := won id
    let rq : Nat := 10
    let v : Word := 0#32
    let b := s.blk.tick t
    (b.reach rq R.sysEvtHead true = .acts) ∧
    ((b.regN R.sysEvtTail + 2 ^ 32 - v.toNat) % 2 ^ 32 ≤ b.evtSize)) ∧
   (let t : Time := 0
    let s : State := won id
    let rq : Nat := 10
    let v : Word := 1#32
    let b := s.blk.tick t
    (b.reach rq R.sysEvtHead true = .acts) ∧
    (b.evtSize < (b.regN R.sysEvtTail + 2 ^ 32 - v.toNat) % 2 ^ 32)) := by
  refine ⟨?_, ?_, ?_, ?_, ?_, ?_, ?_, ?_⟩
  · decide
  · decide
  · decide
  · decide
  · decide
  · decide
  · decide
  refine ⟨?_, ?_, ?_, ?_, ?_⟩
  · decide
  · decide
  · decide
  · decide
  · decide

/-- States that meet the hypotheses of `Obligations.RingRegisters`, clause by clause. -/
theorem wit_RingRegisters :
   (let t : Time := 0
    let s : State := won id
    let rq : Nat := 10
    let n : Nat := 0
    let v : Word := 16#32
    let b := s.blk.tick t
    let r := b.ring n
    let ahead := (v.toNat + 2 ^ 32 - r.head) % 2 ^ 32
    (n < 256) ∧
    (b.reach rq (R.cmdDb n) true = .acts) ∧
    (r.unfetched ≤ ahead) ∧
    (ahead ≤ 2 ^ r.size)) ∧
   (let t : Time := 0
    let s : State := won id
    let rq : Nat := 10
    let n : Nat := 254
    let v : Word := 17#32
    let b := s.blk.tick t
    let r := b.ring n
    let ahead := (v.toNat + 2 ^ 32 - r.head) % 2 ^ 32
    (n < 256) ∧
    (b.reach rq (R.cmdDb n) true = .acts) ∧
    (n ≠ 255) ∧
    (r.err = 0) ∧
    (r.stopped = false) ∧
    (2 ^ r.size < ahead)) ∧
   (let t : Time := 0
    let s : State := won fun b => b.setRing 254 { Ring.init 254 with prod := 5 }
    let rq : Nat := 10
    let n : Nat := 254
    let v : Word := 4#32
    let b := s.blk.tick t
    let r := b.ring n
    let ahead := (v.toNat + 2 ^ 32 - r.head) % 2 ^ 32
    (n < 256) ∧
    (b.reach rq (R.cmdDb n) true = .acts) ∧
    (n ≠ 255) ∧
    (r.err = 0) ∧
    (r.stopped = false) ∧
    (ahead < r.unfetched) ∧
    (ahead ≤ 2 ^ r.size)) ∧
   (let t : Time := 0
    let s : State := won id
    let rq : Nat := 10
    let n : Nat := 255
    let v : Word := 257#32
    let b := s.blk.tick t
    let r := b.ring n
    let ahead := (v.toNat + 2 ^ 32 - r.head) % 2 ^ 32
    (n < 256) ∧
    (b.reach rq (R.cmdDb n) true = .acts) ∧
    (n = 255) ∧
    (2 ^ r.size < ahead ∨ ahead < r.unfetched)) ∧
   (let t : Time := 0
    let s : State := won id
    let rq : Nat := 10
    let n : Nat := 254
    let b := s.blk.tick t
    (b.reach rq (R.cmdRqCfg n) true = .acts) ∧
    (n < 255)) ∧
   (let t : Time := 0
    let s : State := won id
    let rq : Nat := 10
    let n : Nat := 255
    let b := s.blk.tick t
    (b.reach rq (R.cmdRqCfg n) true = .acts) ∧
    (n = 255)) := by
  refine ⟨?_, ?_, ?_, ?_, ?_, ?_⟩
  · decide
  · decide
  · decide
  · decide
  · decide
  · decide

/-- States that meet the hypotheses of `Obligations.ConsumerIndexCheck`, clause by clause. -/
theorem wit_ConsumerIndexCheck :
   (let t : Time := 0
    let s : State := won fun b => b.setRing 0 { Ring.init 0 with tail := 16 }
    let rq : Nat := 10
    let n : Nat := 0
    let v : Word := 0#32
    let b := s.blk.tick t
    let r := b.ring n
    let behind := (r.tail + 2 ^ 32 - v.toNat) % 2 ^ 32
    (n < 256) ∧
    (b.reach rq (R.cmdCqHead n) true = .acts) ∧
    (behind ≤ 2 ^ r.cqSize)) ∧
   (let t : Time := 0
    let s : State := won id
    let rq : Nat := 10
    let n : Nat := 255
    let v : Word := 1#32
    let b := s.blk.tick t
    let r := b.ring n
    let behind := (r.tail + 2 ^ 32 - v.toNat) % 2 ^ 32
    (n < 256) ∧
    (b.reach rq (R.cmdCqHead n) true = .acts) ∧
    (2 ^ r.cqSize < behind)) := by
  refine ⟨?_, ?_⟩
  · decide
  · decide

/-- States that meet the hypotheses of `Obligations.DispatchOrder`, clause by clause. -/
theorem wit_DispatchOrder :
   (let t : Time := 0
    let s : State := won fun b => b.setRing 255 { Ring.init 255 with prod := 1 }
    let cp : Nat := 3
    let ok : Bool := true
    let b0 := s.foresee t (s.blk.tick t)
    let b := { b0 with pcieUp := ok }
    let r := b.ring 255
    (b.pcr.phase = 4) ∧
    (cp < 4) ∧
    (b.cpOut cp = false) ∧
    (b.fetchable 255 = true) ∧
    (b.mc.cmdPoison = []) ∧
    (r.rqBaseLo = 0x0001A000#32) ∧
    (r.rqBaseHi = 0#32) ∧
    (r.size = 8)) ∧
   (let b : Block := wup.setRing 4 { Ring.init 4 with bound := true, enable := true, prod := 1, passed := 64 }
    let cp : Nat := 0
    let n : Nat := 4
    (n ∈ b.candidates cp) ∧
    (64 ≤ (b.ring n).passed)) := by
  refine ⟨?_, ?_⟩
  · decide
  · decide

/-- States that meet the hypotheses of `Obligations.CompletionsPosted`, clause by clause. -/
theorem wit_CompletionsPosted :
   (let t : Time := 16000
    let s : State := won fun b => b.setRing 0 { Ring.init 0 with unsig := 1, coalUs := 2 }
    let n : Nat := 0
    let b := s.blk.tick t
    let r := b.ring n
    (n < 256) ∧
    (b.pcr.phase = 4) ∧
    (r.unsig ≠ 0) ∧
    (r.coalUs ≠ 0) ∧
    (r.unsigAt + r.coalUs * 8000 ≤ b.now)) ∧
   (let t : Time := 15999
    let s : State := won fun b => b.setRing 0 { Ring.init 0 with unsig := 1, coalUs := 2 }
    let n : Nat := 0
    let b := s.blk.tick t
    let r := b.ring n
    (n < 256) ∧
    (b.pcr.phase = 4) ∧
    (r.unsig ≠ 0) ∧
    (r.coalUs ≠ 0) ∧
    (b.now < r.unsigAt + r.coalUs * 8000)) ∧
   (let t : Time := 800000
    let s : State := won fun b => b.setRing 0 { Ring.init 0 with kept := [(⟨0, 0, 0, 0x101, 0, 0, 1024, 0, none, 0, none⟩, ⟨0, 0, 0, 0, 0⟩)] }
    let n : Nat := 0
    let ok : Bool := true
    let f : InFlight := ⟨0, 0, 0, 0x101, 0, 0, 1024, 0, none, 0, none⟩
    let c : Comp := ⟨0, 0, 0, 0, 0⟩
    let l : List (InFlight × Comp) := []
    let b0 := s.blk.tick t
    let b := { b0 with pcieUp := ok }
    (n < 256) ∧
    (b.ciServes n = true) ∧
    ((b.ring n).kept = (f, c) :: l) ∧
    ((b.ring n).triedAt + 800000 ≤ b.now) ∧
    (b.cqWritable n (b.ring n).tail = true)) ∧
   (let t : Time := 800000
    let s : State := won fun b => b.setRing 0 { Ring.init 0 with kept := [(⟨0, 0, 0, 0x101, 0, 0, 1024, 0, none, 0, none⟩, ⟨0, 0, 0, 0, 0⟩)] }
    let n : Nat := 0
    let ok : Bool := true
    let f : InFlight := ⟨0, 0, 0, 0x101, 0, 0, 1024, 0, none, 0, none⟩
    let c : Comp := ⟨0, 0, 0, 0, 0⟩
    let l : List (InFlight × Comp) := []
    let b0 := s.blk.tick t
    let b := { b0 with pcieUp := ok }
    (n < 256) ∧
    (b.ciServes n = true) ∧
    ((b.ring n).kept = (f, c) :: l) ∧
    ((b.ring n).triedAt + 800000 ≤ b.now) ∧
    (b.cqWritable n (b.ring n).tail = true) ∧
    (l = [])) ∧
   (let t : Time := 800000
    let s : State := won fun b => b.setRing 0 { Ring.init 0 with cqBaseHi := 0x80000000#32, kept := [(⟨0, 0, 0, 0x101, 0, 0, 1024, 0, none, 0, none⟩, ⟨0, 0, 0, 0, 0⟩)] }
    let n : Nat := 0
    let ok : Bool := false
    let f : InFlight := ⟨0, 0, 0, 0x101, 0, 0, 1024, 0, none, 0, none⟩
    let c : Comp := ⟨0, 0, 0, 0, 0⟩
    let l : List (InFlight × Comp) := []
    let b0 := s.blk.tick t
    let b := { b0 with pcieUp := ok }
    (n < 256) ∧
    (b.ciServes n = true) ∧
    ((b.ring n).kept = (f, c) :: l) ∧
    ((b.ring n).triedAt + 800000 ≤ b.now) ∧
    (b.cqWritable n (b.ring n).tail = false)) := by
  refine ⟨?_, ?_, ?_, ?_, ?_⟩
  · decide
  · decide
  · decide
  · decide
  · decide

/-- States that meet the hypotheses of `Obligations.PacketChecks`, clause by clause. -/
theorem wit_PacketChecks :
   (let b : Block := wup.setBits R.cmdStatus 8
    (b.bit R.cmdStatus 3 = true)) ∧
   (let r : Req := { wq 0 0 [] with version := 2#8 }
    let b : Block := wup
    (b.bit R.cmdStatus 3 = false) ∧
    (r.flags.toNat < 16) ∧
    (r.job.toNat < 1024) ∧
    (r.version ≠ 1#8)) ∧
   (let r : Req := wq 0 0 []
    let b : Block := wup
    let opc : Nat := 0xFFFF
    (b.bit R.cmdStatus 3 = false) ∧
    (r.flags.toNat < 16) ∧
    (r.job.toNat < 1024) ∧
    (r.version = 1#8) ∧
    (r.rsvd = 0#40) ∧
    (opInfo opc = none)) ∧
   (let r : Req := wq 255 0 []
    let b : Block := wup
    let opc : Nat := 0x0202
    let i := ⟨1, false⟩
    (b.bit R.cmdStatus 3 = false) ∧
    (r.flags.toNat < 16) ∧
    (r.job.toNat < 1024) ∧
    (r.version = 1#8) ∧
    (r.rsvd = 0#40) ∧
    (opInfo opc = some i) ∧
    (r.ring = 255) ∧
    (i.cls ≠ 2) ∧
    (i.dagger = false)) ∧
   (let r : Req := wq 0 0 []
    let b : Block := wup
    let opc : Nat := 0x010A
    let i := ⟨2, false⟩
    (b.bit R.cmdStatus 3 = false) ∧
    (r.flags.toNat < 16) ∧
    (r.job.toNat < 1024) ∧
    (r.version = 1#8) ∧
    (r.rsvd = 0#40) ∧
    (opInfo opc = some i) ∧
    (r.ring ≠ 255) ∧
    (i.cls = 2)) ∧
   (let r : Req := wq 9 5 []
    let b : Block := wup.setRing 9 { Ring.init 9 with bound := true, job := 5 }
    let opc : Nat := 0x0103
    let i := ⟨0, true⟩
    (b.bit R.cmdStatus 3 = false) ∧
    (r.flags.toNat < 16) ∧
    (r.job.toNat < 1024) ∧
    (r.version = 1#8) ∧
    (r.rsvd = 0#40) ∧
    (opInfo opc = some i) ∧
    (r.ring ≠ 255) ∧
    (i.cls = 0) ∧
    ((b.ring r.ring).isJob = true)) ∧
   (let r : Req := wq 9 6 []
    let b : Block := wup.setRing 9 { Ring.init 9 with bound := true, job := 5 }
    let opc : Nat := 0x0202
    let i := ⟨1, false⟩
    (b.bit R.cmdStatus 3 = false) ∧
    (r.flags.toNat < 16) ∧
    (r.job.toNat < 1024) ∧
    (r.version = 1#8) ∧
    (r.rsvd = 0#40) ∧
    (opInfo opc = some i) ∧
    (r.ring ≠ 255) ∧
    (i.cls = 1) ∧
    ((b.ring r.ring).isJob = true) ∧
    (r.jobN ≠ (b.ring r.ring).job)) ∧
   (let r : Req := wq 9 5 []
    let b : Block := wup.setRing 9 { Ring.init 9 with bound := true, job := 5 }
    let opc : Nat := 0x0202
    let i := ⟨1, false⟩
    (b.bit R.cmdStatus 3 = false) ∧
    (r.flags.toNat < 16) ∧
    (r.job.toNat < 1024) ∧
    (r.version = 1#8) ∧
    (r.rsvd = 0#40) ∧
    (opInfo opc = some i) ∧
    (r.ring ≠ 255) ∧
    (i.cls = 1) ∧
    (((b.ring r.ring).isJob = true → r.jobN = (b.ring r.ring).job)) ∧
    (Ci.jobScoped opc r = true) ∧
    ((b.job (b.cmdJob r)).state = 2)) ∧
   (let r : Req := wq 9 5 []
    let b : Block := { wup with jobs := [(5, ⟨1, none, none, 0, 0, false, false, 5, 0⟩)] }
    let opc : Nat := 0x0202
    let i := ⟨1, false⟩
    (b.bit R.cmdStatus 3 = false) ∧
    (r.flags.toNat < 16) ∧
    (r.job.toNat < 1024) ∧
    (r.version = 1#8) ∧
    (r.rsvd = 0#40) ∧
    (opInfo opc = some i) ∧
    (r.ring ≠ 255) ∧
    (i.cls = 1) ∧
    (((b.ring r.ring).isJob = true → r.jobN = (b.ring r.ring).job)) ∧
    (Ci.jobScoped opc r = true) ∧
    ((b.job (b.cmdJob r)).state = 1) ∧
    (opc ∉ [0x0206, 0x0207, 0x0208, 0x0901, 0x0903])) ∧
   (let t : Time := 0
    let r : Req := wq 0 0 [(16, 1)]
    let s : State := won id
    let b := Ci.taken 0x0101 r (s.blk.tick t)
    let id := (s.blk.tick t).freshId
    (Starts 0x0101 r t s b id) ∧
    (r.u 16 8 ≠ 0)) ∧
   (let t : Time := 0
    let r : Req := wq 0 0 [(24, 1)]
    let s : State := won id
    let b := Ci.taken 0x0101 r (s.blk.tick t)
    let id := (s.blk.tick t).freshId
    (Starts 0x0101 r t s b id) ∧
    (r.u 16 8 = 0) ∧
    (r.u 24 4 ≠ 0)) ∧
   (let t : Time := 0
    let r : Req := wq 0 0 [(28, 1)]
    let s : State := won id
    let b := Ci.taken 0x0101 r (s.blk.tick t)
    let id := (s.blk.tick t).freshId
    (Starts 0x0101 r t s b id) ∧
    (r.u 16 8 = 0) ∧
    (r.u 24 4 = 0) ∧
    (r.u 28 4 ≠ 0)) ∧
   (let t : Time := 0
    let r : Req := wq 0 0 [(63, 1)]
    let s : State := won id
    let b := Ci.taken 0x0101 r (s.blk.tick t)
    let id := (s.blk.tick t).freshId
    (Starts 0x0101 r t s b id) ∧
    (r.u 16 8 = 0) ∧
    (r.u 24 4 = 0) ∧
    (r.u 28 4 = 0) ∧
    (r.u 32 32 ≠ 0)) := by
  refine ⟨?_, ?_, ?_, ?_, ?_, ?_, ?_, ?_⟩
  · decide
  · decide
  · decide
  · decide
  · decide
  · decide
  · decide
  refine ⟨?_, ?_, ?_, ?_, ?_, ?_⟩
  · decide
  · decide
  · exact ⟨⟨by decide, rfl, rfl⟩, by decide⟩
  · exact ⟨⟨by decide, rfl, rfl⟩, by decide, by decide⟩
  · exact ⟨⟨by decide, rfl, rfl⟩, by decide, by decide, by decide⟩
  · refine ⟨⟨by decide, rfl, rfl⟩, ?_⟩
    and_intros <;> decide

/-- States that meet the hypotheses of `Obligations.RecoveryRingOpcodes`. -/
theorem wit_RecoveryRingOpcodes :
    let r : Req := wq 255 0 []
    let b : Block := wup
    (b.bit R.cmdStatus 3 = false) ∧
    (r.flags.toNat < 16) ∧
    (r.job.toNat < 1024) ∧
    (r.version = 1#8) ∧
    (r.rsvd = 0#40) ∧
    (r.ring = 255) := by decide

/-- States that meet the hypotheses of `Obligations.PacketBytesRoundTrip`. -/
theorem wit_PacketBytesRoundTrip :
    let opc : Nat := 0xFFFF
    (opc < 2 ^ 16) := by decide

/-- States that meet the hypotheses of `Obligations.QueriesReport`, clause by clause. -/
theorem wit_QueriesReport :
   (let t : Time := 0
    let r : Req := wq 0 0 []
    let s : State := won id
    let b := Ci.taken 0x0101 r (s.blk.tick t)
    let id := (s.blk.tick t).freshId
    (Starts 0x0101 r t s b id) ∧
    (r.params = 0#384)) ∧
   (let t : Time := 0
    let r : Req := wq 0 0 [(16, 0x5FFFFFFFC0), (28, 64)]
    let s : State := won id
    let b := Ci.taken 0x0102 r (s.blk.tick t)
    let id := (s.blk.tick t).freshId
    (Starts 0x0102 r t s b id) ∧
    (r.a0 % 64 = 0) ∧
    (r.a0 + r.a2 ≤ 0x6000000000) ∧
    (r.u 24 4 = 0) ∧
    (64 ≤ r.a2) ∧
    (r.u 32 32 = 0)) ∧
   (let t : Time := 0
    let r : Req := wq 0 5 [(16, 0x5FFFFFFFC0), (24, 64)]
    let s : State := won wjob
    let b := Ci.taken 0x0208 r (s.blk.tick t)
    let id := (s.blk.tick t).freshId
    (Starts 0x0208 r t s b id) ∧
    (r.a0 % 64 = 0) ∧
    (r.a0 + r.a1 ≤ 0x6000000000) ∧
    (64 ≤ r.a1) ∧
    (r.u 28 4 = 0) ∧
    (r.u 32 32 = 0)) ∧
   (let t : Time := 0
    let r : Req := wq 0 0 [(24, 0x900)]
    let s : State := won id
    let b := Ci.taken 0x0105 r (s.blk.tick t)
    let id := (s.blk.tick t).freshId
    (Starts 0x0105 r t s b id) ∧
    (r.u 16 8 = 0) ∧
    (Func.known r.a1 = true) ∧
    (r.u 28 4 = 0) ∧
    (r.u 32 32 = 0)) := by
  refine ⟨?_, ?_, ?_, ?_⟩
  · exact ⟨⟨by decide, rfl, rfl⟩, by decide⟩
  · refine ⟨⟨by decide, rfl, rfl⟩, ?_⟩
    and_intros <;> decide
  · refine ⟨⟨by decide, rfl, rfl⟩, ?_⟩
    and_intros <;> decide
  · refine ⟨⟨by decide, rfl, rfl⟩, ?_⟩
    and_intros <;> decide

/-- States that meet the hypotheses of `Obligations.FunctionSwitching`, clause by clause. -/
theorem wit_FunctionSwitching :
   (let t : Time := 0
    let r : Req := wq 0 0 [(24, 0x100)]
    let s : State := won id
    let b := Ci.taken 0x0103 r (s.blk.tick t)
    let id := (s.blk.tick t).freshId
    let x := b.func r.a1
    (Starts 0x0103 r t s b id) ∧
    (r.u 16 8 = 0) ∧
    (Func.known r.a1 = true) ∧
    (r.u 28 4 = 0) ∧
    (r.u 32 32 = 0) ∧
    ((r.a1 / 256 = 1 → b.pstate ≠ 1)) ∧
    (x.mode = 0)) ∧
   (let t : Time := 0
    let r : Req := wq 0 0 [(24, 0x100)]
    let s : State := won fun b => b.setFunc 0x100 ⟨1, none, none, [], false, 0⟩
    let b := Ci.taken 0x0103 r (s.blk.tick t)
    let id := (s.blk.tick t).freshId
    let x := b.func r.a1
    (Starts 0x0103 r t s b id) ∧
    (r.u 16 8 = 0) ∧
    (Func.known r.a1 = true) ∧
    (r.u 28 4 = 0) ∧
    (r.u 32 32 = 0) ∧
    ((r.a1 / 256 = 1 → b.pstate ≠ 1)) ∧
    (x.mode = 1)) ∧
   (let t : Time := 0
    let r : Req := wq 0 0 [(24, 0x100)]
    let s : State := won fun b => b.setFunc 0x100 ⟨2, none, none, [], false, 0⟩
    let b := Ci.taken 0x0103 r (s.blk.tick t)
    let id := (s.blk.tick t).freshId
    let x := b.func r.a1
    (Starts 0x0103 r t s b id) ∧
    (r.u 16 8 = 0) ∧
    (Func.known r.a1 = true) ∧
    (r.u 28 4 = 0) ∧
    (r.u 32 32 = 0) ∧
    ((r.a1 / 256 = 1 → b.pstate ≠ 1)) ∧
    (x.mode = 2) ∧
    (x.pend = none)) ∧
   (let t : Time := 0
    let r : Req := wq 0 0 [(24, 0x100)]
    let s : State := won fun b => b.setFunc 0x100 ⟨2, none, some 3, [], false, 0⟩
    let b := Ci.taken 0x0103 r (s.blk.tick t)
    let id := (s.blk.tick t).freshId
    let x := b.func r.a1
    (Starts 0x0103 r t s b id) ∧
    (r.u 16 8 = 0) ∧
    (Func.known r.a1 = true) ∧
    (r.u 28 4 = 0) ∧
    (r.u 32 32 = 0) ∧
    ((r.a1 / 256 = 1 → b.pstate ≠ 1)) ∧
    (x.mode = 2) ∧
    (x.pend ≠ none)) ∧
   (let t : Time := 0
    let r : Req := wq 0 0 [(24, 0x900)]
    let s : State := won id
    let b := Ci.taken 0x0104 r (s.blk.tick t)
    let id := (s.blk.tick t).freshId
    let x := b.func r.a1
    (Starts 0x0104 r t s b id) ∧
    (r.u 16 8 = 0) ∧
    (Func.known r.a1 = true) ∧
    (r.u 28 4 = 0) ∧
    (r.u 32 32 = 0) ∧
    (x.mode = 0)) ∧
   (let t : Time := 0
    let r : Req := wq 0 0 [(24, 0x900)]
    let s : State := won fun b => b.setFunc 0x900 ⟨1, none, none, [], false, 0⟩
    let b := Ci.taken 0x0104 r (s.blk.tick t)
    let id := (s.blk.tick t).freshId
    let x := b.func r.a1
    (Starts 0x0104 r t s b id) ∧
    (r.u 16 8 = 0) ∧
    (Func.known r.a1 = true) ∧
    (r.u 28 4 = 0) ∧
    (r.u 32 32 = 0) ∧
    (x.mode = 1)) ∧
   (let t : Time := 0
    let r : Req := wq 0 0 [(24, 0x900)]
    let s : State := won fun b => b.setFunc 0x900 ⟨3, some 3, none, [], false, 0⟩
    let b := Ci.taken 0x0104 r (s.blk.tick t)
    let id := (s.blk.tick t).freshId
    let x := b.func r.a1
    (Starts 0x0104 r t s b id) ∧
    (r.u 16 8 = 0) ∧
    (Func.known r.a1 = true) ∧
    (r.u 28 4 = 0) ∧
    (r.u 32 32 = 0) ∧
    (x.mode = 3)) := by
  refine ⟨?_, ?_, ?_, ?_, ?_, ?_, ?_⟩
  · refine ⟨⟨by decide, rfl, rfl⟩, ?_⟩
    and_intros <;> decide
  · refine ⟨⟨by decide, rfl, rfl⟩, ?_⟩
    and_intros <;> decide
  · refine ⟨⟨by decide, rfl, rfl⟩, ?_⟩
    and_intros <;> decide
  · refine ⟨⟨by decide, rfl, rfl⟩, ?_⟩
    and_intros <;> decide
  · refine ⟨⟨by decide, rfl, rfl⟩, ?_⟩
    and_intros <;> decide
  · refine ⟨⟨by decide, rfl, rfl⟩, ?_⟩
    and_intros <;> decide
  · refine ⟨⟨by decide, rfl, rfl⟩, ?_⟩
    and_intros <;> decide

/-- States that meet the hypotheses of `Obligations.FunctionTransitions`, clause by clause. -/
theorem wit_FunctionTransitions :
   (let t : Time := 0
    let s : State := won fun b => b.setFunc 0x900 ⟨3, some 3, none, [], false, 0⟩
    let f : Nat := 0x900
    let id : Nat := 3
    let b := s.blk.tick t
    let x := b.func f
    (b.pcr.phase = 4) ∧
    ((∀ m, Func.engine f = some m → b.frozen m = false)) ∧
    (x.mode = 3) ∧
    (x.cmd = some id) ∧
    (x.offWait = [])) ∧
   (let t : Time := 0
    let s : State := won fun b => b.setFunc 0x900 ⟨2, some 3, none, [], false, 0⟩
    let f : Nat := 0x900
    let id : Nat := 3
    let b := s.blk.tick t
    let x := b.func f
    (b.pcr.phase = 4) ∧
    ((∀ m, Func.engine f = some m → b.frozen m = false)) ∧
    (x.mode = 2) ∧
    (b.drained f = true) ∧
    (x.cmd = some id) ∧
    (x.pend = none) ∧
    (x.offWait = [])) ∧
   (let t : Time := 80000000
    let s : State := won fun b => b.setFunc 0x11F ⟨2, some 3, none, [], false, 0⟩
    let p : Nat := 31
    let id : Nat := 3
    let b := s.blk.tick t
    let x := b.func (0x100 + p)
    (p < 32) ∧
    (b.works 26 = true) ∧
    (x.mode = 2) ∧
    (x.cmd = some id) ∧
    (x.pend = none) ∧
    (x.offWait = []) ∧
    (x.since + 80000000 ≤ b.now)) ∧
   (let t : Time := 79999999
    let s : State := won fun b => b.setFunc 0x11F ⟨2, some 3, none, [], false, 0⟩
    let p : Nat := 31
    let id : Nat := 3
    let b := s.blk.tick t
    let x := b.func (0x100 + p)
    (p < 32) ∧
    (b.works 26 = true) ∧
    (x.mode = 2) ∧
    (x.cmd = some id) ∧
    (x.pend = none) ∧
    (x.offWait = []) ∧
    (b.now < x.since + 80000000)) := by
  refine ⟨?_, ?_, ?_, ?_⟩
  · exact ⟨by decide, fun m h => by cases h; decide, by decide, by decide, by decide⟩
  · exact ⟨by decide, fun m h => by cases h; decide, by decide, by decide, by decide, by decide, by decide⟩
  · decide
  · decide

/-- States that meet the hypotheses of `Obligations.RegionsAndBounds`, clause by clause. -/
theorem wit_RegionsAndBounds :
   (let t : Time := 0
    let r : Req := wq 0 0 [(32, 16), (34, 192)]
    let s : State := won id
    let b := Ci.taken 0x0106 r (s.blk.tick t)
    let id := (s.blk.tick t).freshId
    let rep := r.u 32 2
    let res := r.u 34 2
    let low := (b.ce.resids.map fun e => e.2.addr).foldl min b.memTop
    (Starts 0x0106 r t s b id) ∧
    (r.u 16 8 = 0) ∧
    (r.u 24 4 = 0) ∧
    (r.u 28 4 = 0) ∧
    (16 ≤ rep) ∧
    (rep ≤ 160) ∧
    (res ≤ 352) ∧
    (r.u 36 28 = 0) ∧
    (b.funcOff 0x200 = true) ∧
    (b.funcOff 0x201 = true) ∧
    (b.memTop - low ≤ res * 2 ^ 30) ∧
    ((12 + rep + res) * 2 ^ 30 + max (32 * 2 ^ 30) b.stagingUsed ≤ b.fld R.memCap 8 0 * 2 ^ 30)) ∧
   (let t : Time := 0
    let r : Req := wq 0 0 [(24, 0x2000), (32, 300), (34, 750)]
    let s : State := won id
    let b := Ci.taken 0x0109 r (s.blk.tick t)
    let id := (s.blk.tick t).freshId
    let lo := Bits.toInt 16 (r.u 32 2)
    let hi := Bits.toInt 16 (r.u 34 2)
    (Starts 0x0109 r t s b id) ∧
    (r.u 16 8 = 0) ∧
    (r.u 28 4 = 0) ∧
    (r.u 36 28 = 0) ∧
    (r.a1 = 0x2000) ∧
    (300 ≤ lo) ∧
    (lo ≤ hi) ∧
    (hi ≤ 750)) ∧
   (let t : Time := 0
    let r : Req := wq 0 0 [(24, 0x2000), (32, 299), (34, 750)]
    let s : State := won id
    let b := Ci.taken 0x0109 r (s.blk.tick t)
    let id := (s.blk.tick t).freshId
    let lo := Bits.toInt 16 (r.u 32 2)
    let hi := Bits.toInt 16 (r.u 34 2)
    (Starts 0x0109 r t s b id) ∧
    (r.u 16 8 = 0) ∧
    (r.u 28 4 = 0) ∧
    (r.u 36 28 = 0) ∧
    (r.a1 = 0x2000) ∧
    ((lo < 300 ∨ 750 < lo ∨ hi < lo))) := by
  refine ⟨?_, ?_, ?_⟩
  · refine ⟨⟨by decide, rfl, rfl⟩, ?_⟩
    and_intros <;> decide
  · refine ⟨⟨by decide, rfl, rfl⟩, ?_⟩
    and_intros <;> decide
  · refine ⟨⟨by decide, rfl, rfl⟩, ?_⟩
    and_intros <;> decide

/-- States that meet the hypotheses of `Obligations.JobLifecycle`, clause by clause. -/
theorem wit_JobLifecycle :
   (let t : Time := 0
    let r : Req := wq 0 0 [(28, 0xFFFFFFFF)]
    let s : State := won id
    let b := Ci.taken 0x0201 r (s.blk.tick t)
    let id := (s.blk.tick t).freshId
    let n : Nat := 0
    (Starts 0x0201 r t s b id) ∧
    (b.pstate ≠ 1) ∧
    (r.u 16 8 = 0) ∧
    (r.u 24 4 = 0) ∧
    (r.u 32 32 = 0) ∧
    ((r.a2 = n ∧ n < 1024 ∧ b.jobFree n = true) ∨ (r.a2 = 0xFFFFFFFF ∧ Bits.findBelow 1024 b.jobFree = some n))) ∧
   (let t : Time := 0
    let r : Req := wq 0 5 [(32, 0xFFFFFFFF), (36, 10000), (41, 255)]
    let s : State := won wjob
    let b := Ci.taken 0x0204 r (s.blk.tick t)
    let id := (s.blk.tick t).freshId
    (Starts 0x0204 r t s b id) ∧
    (r.u 16 8 = 0) ∧
    (r.u 24 4 = 0) ∧
    (r.u 28 4 = 0) ∧
    (r.u 40 1 = 0) ∧
    (r.u 42 22 = 0) ∧
    ((r.u 32 4 ≤ 10000 ∨ r.u 32 4 = 0xFFFFFFFF)) ∧
    ((r.u 36 4 ≤ 10000 ∨ r.u 36 4 = 0xFFFFFFFF)) ∧
    ((r.u 41 1 ≤ 1 ∨ r.u 41 1 = 255))) ∧
   (let t : Time := 0
    let r : Req := wq 0 5 []
    let s : State := won wjob
    let b := Ci.taken 0x0207 r (s.blk.tick t)
    let id := (s.blk.tick t).freshId
    let job := b.cmdJob r
    let j := b.job job
    (Starts 0x0207 r t s b id) ∧
    (r.params = 0#384) ∧
    (j.state = 0)) ∧
   (let t : Time := 0
    let r : Req := wq 0 5 []
    let s : State := won fun b => { b with jobs := [(5, ⟨1, none, some (none, 0), 0, 0, false, false, 5, 0⟩)] }
    let b := Ci.taken 0x0207 r (s.blk.tick t)
    let id := (s.blk.tick t).freshId
    let job := b.cmdJob r
    let j := b.job job
    (Starts 0x0207 r t s b id) ∧
    (r.params = 0#384) ∧
    (j.state = 1) ∧
    (j.fence.isSome = true)) ∧
   (let t : Time := 0
    let r : Req := wq 0 5 []
    let s : State := won fun b => { b with jobs := [(5, ⟨1, none, none, 0, 0, false, false, 5, 0⟩)] }
    let b := Ci.taken 0x0207 r (s.blk.tick t)
    let id := (s.blk.tick t).freshId
    let job := b.cmdJob r
    let j := b.job job
    (Starts 0x0207 r t s b id) ∧
    (r.params = 0#384) ∧
    (j.state = 1) ∧
    (j.fence = none)) := by
  refine ⟨?_, ?_, ?_, ?_, ?_⟩
  · refine ⟨⟨by decide, rfl, rfl⟩, ?_⟩
    and_intros <;> decide
  · refine ⟨⟨by decide, rfl, rfl⟩, ?_⟩
    and_intros <;> decide
  · exact ⟨⟨by decide, rfl, rfl⟩, by decide, by decide⟩
  · exact ⟨⟨by decide, rfl, rfl⟩, by decide, by decide, by decide⟩
  · exact ⟨⟨by decide, rfl, rfl⟩, by decide, by decide, by decide⟩

/-- States that meet the hypotheses of `Obligations.JobFencing`, clause by clause. -/
theorem wit_JobFencing :
   (let t : Time := 0
    let r : Req := wq 0 5 [(34, 3)]
    let s : State := won wjob
    let b := Ci.taken 0x0206 r (s.blk.tick t)
    let id := (s.blk.tick t).freshId
    let job := b.cmdJob r
    (Starts 0x0206 r t s b id) ∧
    (r.u 16 8 = 0) ∧
    (r.u 24 4 = 0) ∧
    (r.u 28 4 = 0) ∧
    ((r.u 32 1 = 0 ∧ r.u 33 1 = 0 ∨ r.u 32 1 = 1 ∧ 1 ≤ r.u 33 1 ∧ r.u 33 1 ≤ 15)) ∧
    ((r.u 34 2 ≤ 3 ∨ 16 ≤ r.u 34 2 ∧ r.u 34 2 ≤ 31)) ∧
    (r.u 38 26 = 0) ∧
    ((b.job job).fence = none) ∧
    ((b.job job).state = 0)) ∧
   (let t : Time := 0
    let s : State := won fun b => { b with jobs := [(5, ⟨1, none, some (some 3, 2), 0, 0, false, false, 5, 0⟩)] }
    let job : Nat := 5
    let n : Nat := 2
    let b := s.blk.tick t
    let id := 3
    (b.pcr.phase = 4) ∧
    ((b.job job).fence = some (some id, n))) ∧
   (let t : Time := 0
    let s : State := won fun b => { b with jobs := [(5, ⟨1, none, some (none, 2), 0, 0, false, false, 5, 0⟩)] }
    let job : Nat := 5
    let n : Nat := 2
    let b := s.blk.tick t
    (b.pcr.phase = 4) ∧
    ((b.job job).fence = some (none, n))) ∧
   (let t : Time := 0
    let s : State := won fun b => { wjob b with inbox := [wi (.fence ⟨2, 5, 7, 0, 0, 0⟩)], fwu := { b.fwu with wins := [(0, ww)] } }
    let sel : Nat := 0
    let x : InMsg := wi (.fence ⟨2, 5, 7, 0, 0, 0⟩)
    let m : FenceMsg := ⟨2, 5, 7, 0, 0, 0⟩
    let b := s.blk.tick t
    let job := m.job.toNat % 1024
    let c := b.dropIn sel
    (b.pcr.phase = 4) ∧
    (b.pickIn sel InMsg.notice = some x) ∧
    (x.msg = .fence m) ∧
    (c.jobOpen job = true) ∧
    ((x.peer, x.job) ∈ c.fencePairs job)) ∧
   (let t : Time := 0
    let s : State := won fun b => { wjob b with inbox := [wi (.fence ⟨2, 5, 7, 0, 0, 0⟩)] }
    let sel : Nat := 0
    let x : InMsg := wi (.fence ⟨2, 5, 7, 0, 0, 0⟩)
    let m : FenceMsg := ⟨2, 5, 7, 0, 0, 0⟩
    let b := s.blk.tick t
    let job := m.job.toNat % 1024
    let c := b.dropIn sel
    (b.pcr.phase = 4) ∧
    (b.pickIn sel InMsg.notice = some x) ∧
    (x.msg = .fence m) ∧
    (c.jobOpen job = false ∨ (x.peer, x.job) ∉ c.fencePairs job)) := by
  refine ⟨?_, ?_, ?_, ?_, ?_⟩
  · refine ⟨⟨by decide, rfl, rfl⟩, ?_⟩
    and_intros <;> decide
  · decide
  · decide
  · decide
  · decide

/-- States that meet the hypotheses of `Obligations.RepeatedFence`, clause by clause. -/
theorem wit_RepeatedFence :
   (let t : Time := 0
    let r : Req := wq 0 5 [(34, 3)]
    let s : State := won fun b => { b with jobs := [(5, ⟨1, none, some (none, 0), 0, 0, false, false, 5, 0⟩)] }
    let b := Ci.taken 0x0206 r (s.blk.tick t)
    let id := (s.blk.tick t).freshId
    let job := b.cmdJob r
    (Starts 0x0206 r t s b id) ∧
    (r.u 16 8 = 0) ∧
    (r.u 24 4 = 0) ∧
    (r.u 28 4 = 0) ∧
    ((r.u 32 1 = 0 ∧ r.u 33 1 = 0 ∨ r.u 32 1 = 1 ∧ 1 ≤ r.u 33 1 ∧ r.u 33 1 ≤ 15)) ∧
    ((r.u 34 2 ≤ 3 ∨ 16 ≤ r.u 34 2 ∧ r.u 34 2 ≤ 31)) ∧
    (r.u 38 26 = 0) ∧
    ((b.job job).fence.isSome = true)) ∧
   (let t : Time := 0
    let r : Req := wq 0 5 [(34, 3)]
    let s : State := won fun b => { b with jobs := [(5, ⟨1, none, none, 0, 0, false, false, 5, 0⟩)] }
    let b := Ci.taken 0x0206 r (s.blk.tick t)
    let id := (s.blk.tick t).freshId
    let job := b.cmdJob r
    (Starts 0x0206 r t s b id) ∧
    (r.u 16 8 = 0) ∧
    (r.u 24 4 = 0) ∧
    (r.u 28 4 = 0) ∧
    ((r.u 32 1 = 0 ∧ r.u 33 1 = 0 ∨ r.u 32 1 = 1 ∧ 1 ≤ r.u 33 1 ∧ r.u 33 1 ≤ 15)) ∧
    ((r.u 34 2 ≤ 3 ∨ 16 ≤ r.u 34 2 ∧ r.u 34 2 ≤ 31)) ∧
    (r.u 38 26 = 0) ∧
    ((b.job job).fence = none) ∧
    ((b.job job).state = 1)) ∧
   (let t : Time := 0
    let r : Req := wq 0 1023 []
    let s : State := won id
    let b := s.blk.tick t
    let c := Ci.taken 0x0206 r b
    (b.ciServes r.ring = true) ∧
    (b.mustHold r = false) ∧
    (c.bit R.cmdStatus 3 = false) ∧
    (r.flags.toNat < 16) ∧
    (r.job.toNat < 1024) ∧
    (r.version = 1#8) ∧
    (r.rsvd = 0#40) ∧
    (((c.ring r.ring).isJob = true → r.jobN = (c.ring r.ring).job)) ∧
    ((c.job (c.cmdJob r)).state = 2)) := by
  refine ⟨?_, ?_, ?_⟩
  · refine ⟨⟨by decide, rfl, rfl⟩, ?_⟩
    and_intros <;> decide
  · refine ⟨⟨by decide, rfl, rfl⟩, ?_⟩
    and_intros <;> decide
  · decide

/-- States that meet the hypotheses of `Obligations.RingManagement`, clause by clause. -/
theorem wit_RingManagement :
   (let t : Time := 0
    let r : Req := wq 0 0 [(28, 254), (32, 1)]
    let s : State := won id
    let b := Ci.taken 0x0203 r (s.blk.tick t)
    let id := (s.blk.tick t).freshId
    let x := b.ring r.a2
    (Starts 0x0203 r t s b id) ∧
    (r.u 16 8 = 0) ∧
    (r.u 24 4 = 0) ∧
    (1 ≤ r.a2) ∧
    (r.a2 ≤ 254) ∧
    (r.u 32 1 ≤ 1) ∧
    (r.u 33 31 = 0) ∧
    (x.enable = false) ∧
    ((x.isJob = true → x.job = r.jobN)) ∧
    (r.u 32 1 = 1)) ∧
   (let t : Time := 0
    let r : Req := wq 0 5 [(28, 1)]
    let s : State := won wjob
    let b := Ci.taken 0x0203 r (s.blk.tick t)
    let id := (s.blk.tick t).freshId
    let x := b.ring r.a2
    (Starts 0x0203 r t s b id) ∧
    (r.u 16 8 = 0) ∧
    (r.u 24 4 = 0) ∧
    (1 ≤ r.a2) ∧
    (r.a2 ≤ 254) ∧
    (r.u 32 1 ≤ 1) ∧
    (r.u 33 31 = 0) ∧
    (x.enable = false) ∧
    ((x.isJob = true → x.job = r.jobN)) ∧
    (r.u 32 1 = 0) ∧
    (b.jobOpen r.jobN = true)) ∧
   (let t : Time := 0
    let r : Req := wq 255 0 [(24, 254)]
    let s : State := won id
    let b := Ci.taken 0x010B r (s.blk.tick t)
    let id := (s.blk.tick t).freshId
    let x := b.ring r.a1
    (Starts 0x010B r t s b id) ∧
    (r.u 16 8 = 0) ∧
    (r.a1 < 255) ∧
    (r.u 28 4 = 0) ∧
    (r.u 32 32 = 0) ∧
    (x.reset = none)) ∧
   (let t : Time := 0
    let r : Req := wq 255 0 [(24, 254)]
    let s : State := won fun b => b.setRing 254 { Ring.init 254 with reset := some 3 }
    let b := Ci.taken 0x010B r (s.blk.tick t)
    let id := (s.blk.tick t).freshId
    let x := b.ring r.a1
    (Starts 0x010B r t s b id) ∧
    (r.u 16 8 = 0) ∧
    (r.a1 < 255) ∧
    (r.u 28 4 = 0) ∧
    (r.u 32 32 = 0) ∧
    (x.reset ≠ none)) ∧
   (let t : Time := 0
    let r : Req := wq 255 0 [(28, 0xFFFFF), (32, 0xFFFFF), (36, 13)]
    let s : State := won id
    let b := Ci.taken 0x010A r (s.blk.tick t)
    let id := (s.blk.tick t).freshId
    (Starts 0x010A r t s b id) ∧
    (r.u 16 8 = 0) ∧
    (r.u 24 4 = 0) ∧
    (r.a2 < 2 ^ 20) ∧
    (r.u 32 4 < 2 ^ 20) ∧
    (r.u 36 1 < 16) ∧
    ((Bits.bit (r.u 36 1) 1 = true → Nat.land (r.u 32 4) 0xFFC3F = 0)) ∧
    (r.u 37 27 = 0)) ∧
   (let t : Time := 0
    let s : State := won fun b => { b with bm := { b.bm with revoke := [⟨3, 0, 0, 0, []⟩] } }
    let v : Revoke := ⟨3, 0, 0, 0, []⟩
    let vs : List Revoke := []
    let b := s.blk.tick t
    (b.pcr.phase = 4) ∧
    (b.bm.revoke = v :: vs)) := by
  refine ⟨?_, ?_, ?_, ?_, ?_, ?_⟩
  · refine ⟨⟨by decide, rfl, rfl⟩, ?_⟩
    and_intros <;> decide
  · refine ⟨⟨by decide, rfl, rfl⟩, ?_⟩
    and_intros <;> decide
  · refine ⟨⟨by decide, rfl, rfl⟩, ?_⟩
    and_intros <;> decide
  · refine ⟨⟨by decide, rfl, rfl⟩, ?_⟩
    and_intros <;> decide
  · refine ⟨⟨by decide, rfl, rfl⟩, ?_⟩
    and_intros <;> decide
  · decide

/-- States that meet the hypotheses of `Obligations.RankAndMaskTables`, clause by clause. -/
theorem wit_RankAndMaskTables :
   (let t : Time := 0
    let r : Req := wq 0 5 [(24, 36)]
    let s : State := won fun b => wmem [(16, 4, 1)] (wjob b)
    let b := Ci.taken 0x0202 r (s.blk.tick t)
    let b' : Block := ((Ci.taken 0x0202 r (s.blk.tick t)).loadRanks 5 0).getD wup
    let id := (s.blk.tick t).freshId
    let c := b.readCount r.a0 r.a1
    let job := c.cmdJob r
    (Starts 0x0202 r t s b id) ∧
    (r.a0 % 64 = 0) ∧
    (r.a0 + r.a1 ≤ 0x6000000000) ∧
    (r.u 28 4 = 0) ∧
    (r.u 32 32 = 0) ∧
    (c.dxN (r.a0 + 2) 1 = 0) ∧
    (32 + 4 * c.dxN (r.a0 + 16) 4 ≤ r.a1) ∧
    (c.rankDescBad job r.a0 = none) ∧
    (c.loadRanks job r.a0 = some b')) ∧
   (let t : Time := 0
    let r : Req := wq 0 5 [(24, 32)]
    let s : State := won fun b => wmem [(2, 1, 1), (4, 4, 3), (16, 4, 1)] { (wjob b).onFif (fun f => { f with ranks := [(5, ⟨0, 4, 0, [(0, (9, 0))]⟩)] }) with pcieUp := true }
    let b := Ci.taken 0x0202 r (s.blk.tick t)
    let b' : Block := b
    let id := (s.blk.tick t).freshId
    let c := b.readCount r.a0 32
    let job := c.cmdJob r
    (Starts 0x0202 r t s b id) ∧
    (r.a0 % 64 = 0) ∧
    (r.a0 + 32 ≤ 0x6000000000) ∧
    (r.a1 = 32) ∧
    (r.u 28 4 = 0) ∧
    (r.u 32 32 = 0) ∧
    (c.dxN (r.a0 + 2) 1 = 1) ∧
    (c.rankDescBad job r.a0 = none) ∧
    (c.loadRanks job r.a0 = some b')) ∧
   (let t : Time := 0
    let r : Req := wq 0 5 [(24, 128), (28, 4095)]
    let s : State := won wjob
    let b := Ci.taken 0x0209 r (s.blk.tick t)
    let id := (s.blk.tick t).freshId
    let c := b.readCount r.a0 128
    (Starts 0x0209 r t s b id) ∧
    (r.a0 % 64 = 0) ∧
    (r.a0 + 128 ≤ 0x6000000000) ∧
    (r.a1 = 128) ∧
    (r.a2 < 4096) ∧
    (r.u 32 32 = 0) ∧
    ((∀ m, AMap.get? c.fif.masks r.a2 = some m → m.job = c.cmdJob r ∨ (c.job m.job).state = 2)) ∧
    (c.maskUser r.a2 = none)) ∧
   (let t : Time := 0
    let s : State := won fun b => b.onFif fun f => { f with mgmt := [{ wp with opcode := 0x51#8 }], tags := [(0, ⟨0, 0, 5, 0, .mcast 4095 3, 0, none⟩)], masks := [(4095, ⟨5, 1, true, [(3, 9)]⟩)] }
    let sel : Nat := 0
    let idx : Nat := 4095
    let id : Nat := 3
    let p : FabPkt := { wp with opcode := 0x51#8 }
    let g : Tag := ⟨0, 0, 5, 0, .mcast 4095 3, 0, none⟩
    let b := s.blk.tick t
    (b.works 26 = true) ∧
    (b.fif.mgmt[sel]? = some p) ∧
    (p.opcode = 0x51#8) ∧
    (AMap.get? b.fif.tags p.tag.toNat = some g) ∧
    (g.use = .mcast idx id) ∧
    (g.gen = p.gen.toNat)) ∧
   (let t : Time := 9
    let s : State := won fun b => b.onFif fun f => { f with masks := [(4095, ⟨5, 1, true, [(3, 9)]⟩)] }
    let idx : Nat := 4095
    let id : Nat := 3
    let d : Nat := 9
    let m : Mask := ⟨5, 1, true, [(3, 9)]⟩
    let b := s.blk.tick t
    (b.works 26 = true) ∧
    (AMap.get? b.fif.masks idx = some m) ∧
    (m.cmds = [(id, d)]) ∧
    (d ≤ b.now)) ∧
   (let t : Time := 8
    let s : State := won fun b => b.onFif fun f => { f with masks := [(4095, ⟨5, 1, true, [(3, 9)]⟩)] }
    let idx : Nat := 4095
    let id : Nat := 3
    let d : Nat := 9
    let m : Mask := ⟨5, 1, true, [(3, 9)]⟩
    let b := s.blk.tick t
    (b.works 26 = true) ∧
    (AMap.get? b.fif.masks idx = some m) ∧
    (m.cmds = [(id, d)]) ∧
    (b.now < d)) := by
  refine ⟨?_, ?_, ?_, ?_, ?_, ?_⟩
  · refine ⟨⟨by decide, rfl, rfl⟩, ?_⟩
    and_intros <;> decide
  · refine ⟨⟨by decide, rfl, rfl⟩, ?_⟩
    and_intros <;> decide
  · refine ⟨⟨by decide, rfl, rfl⟩, ?_⟩
    and_intros <;> decide
  · decide
  · decide
  · decide

/-- States that meet the hypotheses of `Obligations.FabricReceive`, clause by clause. -/
theorem wit_FabricReceive :
   (let t : Time := 0
    let s : State := won fun b => (b.putN R.fifPortUp 0x80000000).onFif fun f => { f with rxCred := [(248, 9)] }
    let port : Nat := 31
    let p : FabPkt := { wp with hchk := 1#16 }
    let b := s.blk.tick t
    let c := Fif.arrive port p b
    (port < 32) ∧
    (b.works 26 = true) ∧
    (b.portUp port = true) ∧
    (c.locked = false) ∧
    (p.hchk ≠ Crc.crc16 p.head)) ∧
   (let t : Time := 0
    let s : State := won fun b => ((wjob b).putN R.fifPortUp 0x80000000).onFif fun f => { f with rxCred := [(248, 9)], ranks := [(5, ⟨5, 4, 1, [(0, (9, 0))]⟩)] }
    let port : Nat := 31
    let p : FabPkt := wpOk
    let b := s.blk.tick t
    let c := Fif.arrive port p b
    let job := 5
    let fpa := 9
    let dg := 0
    let key := Fif.rxKey job p.srcRank.toNat p.cls.toNat
    let st := c.rxStream key
    (port < 32) ∧
    (b.works 26 = true) ∧
    (b.portUp port = true) ∧
    (c.locked = false) ∧
    (Fif.flits p.payload.length ≤ b.rxCredOf port p.cls.toNat) ∧
    (p.hchk = Crc.crc16 p.head) ∧
    (p.pcheck = Crc.crc32c p.payload) ∧
    (p.poison = false) ∧
    (p.ver = 1#2) ∧
    (p.rsvd1 = 0#3) ∧
    (p.rsvd3 = 0#6) ∧
    (p.mcast = false) ∧
    (Fif.lenOk p = some true) ∧
    (Fif.isMgmt p.opcode.toNat = false) ∧
    (c.jobOfFab p.job.toNat = some job) ∧
    (c.rankEntry job p.srcRank.toNat = some (fpa, dg)) ∧
    (fpa ∉ c.fif.resets) ∧
    ((p.spraySeq.toNat + 2 ^ 32 - st.e) % 2 ^ 32 < 4096) ∧
    ((∀ h ∈ st.held, h.1 ≠ p.spraySeq.toNat))) ∧
   (let t : Time := 800000
    let s : State := won fun b => b.onFif fun f => { f with rx := [(0, ⟨0, [(1, 0, wp)]⟩)] }
    let key : Nat := 0
    let seq : Nat := 1
    let t0 : Time := 0
    let p : FabPkt := wp
    let b := s.blk.tick t
    let st := b.rxStream key
    let gap := b.fld R.fifGapTmo 13 0 * 8000
    (b.works 26 = true) ∧
    (st.held = [(seq, t0, p)]) ∧
    (seq = (st.e + 1) % 2 ^ 32) ∧
    (t0 + gap ≤ b.now) ∧
    ((s.packetsAt t).any (b.brings key st.e) = false)) ∧
   (let t : Time := 799999
    let s : State := won fun b => b.onFif fun f => { f with rx := [(0, ⟨0, [(1, 0, wp)]⟩)] }
    let key : Nat := 0
    let seq : Nat := 1
    let t0 : Time := 0
    let p : FabPkt := wp
    let b := s.blk.tick t
    let st := b.rxStream key
    let gap := b.fld R.fifGapTmo 13 0 * 8000
    (b.works 26 = true) ∧
    (st.held = [(seq, t0, p)]) ∧
    (seq = (st.e + 1) % 2 ^ 32) ∧
    (b.now < t0 + gap ∨ (s.packetsAt t).any (b.brings key st.e) = true)) ∧
   (let t : Time := 0
    let s : State := won id
    let p : Nat := 31
    let cls : Nat := 7
    let b := s.blk.tick t
    (p < 32) ∧
    (cls < 8) ∧
    (b.works 26 = true)) ∧
   (let t : Time := 0
    let s : State := won fun b => ((b.putN R.fifPortUp 1).setFunc 0x100 ⟨1, none, none, [], false, 0⟩).onFif fun f => { f with txq := [⟨wp, false, false, none, none⟩], cred := [(0, 9)] }
    let sel : Nat := 0
    let p : Nat := 0
    let spray : Bool := true
    let x : TxPkt := ⟨wp, false, false, none, none⟩
    let b := s.blk.tick t
    (b.works 26 = true) ∧
    (b.fif.txq[sel]? = some x) ∧
    (b.txPort x = some (p, spray))) ∧
   (let t : Time := 9
    let s : State := won fun b => b.onFif fun f => { f with quar := [(4, (9, .mcast 0 0))] }
    let tag : Nat := 4
    let until_ : Time := 9
    let use : TagUse := .mcast 0 0
    let b := s.blk.tick t
    (b.works 26 = true) ∧
    (AMap.get? b.fif.quar tag = some (until_, use)) ∧
    (until_ ≤ b.now)) ∧
   (let t : Time := 8
    let s : State := won fun b => b.onFif fun f => { f with quar := [(4, (9, .mcast 0 0))] }
    let tag : Nat := 4
    let until_ : Time := 9
    let use : TagUse := .mcast 0 0
    let b := s.blk.tick t
    (b.works 26 = true) ∧
    (AMap.get? b.fif.quar tag = some (until_, use)) ∧
    (b.now < until_)) := by
  refine ⟨?_, ?_, ?_, ?_, ?_, ?_, ?_, ?_⟩
  · decide
  · decide
  · decide
  · decide
  · decide
  · decide
  · decide
  · decide

/-- States that meet the hypotheses of `Obligations.FabricPorts`, clause by clause. -/
theorem wit_FabricPorts :
   (let t : Time := 0
    let s : State := won id
    let p : Nat := 31
    let b := s.blk.tick t
    (p < 32) ∧
    (b.works 26 = true)) ∧
   (let t : Time := 0
    let s : State := won fun b => b.setFunc 0x11F ⟨1, none, none, [], false, 0⟩
    let p : Nat := 31
    let b := s.blk.tick t
    (p < 32) ∧
    (b.works 26 = true) ∧
    (b.funcMode (0x100 + p) = 1) ∧
    (p / 8 + 1 ∉ b.pcr.lost)) ∧
   (let t : Time := 0
    let s : State := won fun b => (b.setFunc 0x11F ⟨1, none, none, [], false, 0⟩).onPcr fun x => { x with lost := [4] }
    let p : Nat := 31
    let b := s.blk.tick t
    (p < 32) ∧
    (b.works 26 = true) ∧
    (b.funcMode (0x100 + p) = 1) ∧
    (p / 8 + 1 ∈ b.pcr.lost)) ∧
   (let t : Time := 0
    let s : State := won fun b => b.onFif fun f => { f with mgmt := [{ wp with opcode := 0x52#8, payload := [9#8, 0#8] }] }
    let sel : Nat := 0
    let p : FabPkt := { wp with opcode := 0x52#8, payload := [9#8, 0#8] }
    let b := s.blk.tick t
    (b.works 26 = true) ∧
    (b.fif.mgmt[sel]? = some p) ∧
    (p.opcode = 0x52#8)) ∧
   (let t : Time := 0
    let s : State := won fun b => b.onFif fun f => { f with mgmt := [{ wp with opcode := 0x53#8, payload := [9#8, 0#8] }] }
    let sel : Nat := 0
    let p : FabPkt := { wp with opcode := 0x53#8, payload := [9#8, 0#8] }
    let b := s.blk.tick t
    (b.works 26 = true) ∧
    (b.fif.mgmt[sel]? = some p) ∧
    (p.opcode = 0x53#8)) ∧
   (let t : Time := 0
    let s : State := won id
    let b := s.blk.tick t
    (b.works 26 = true) ∧
    (b.works 36 = true) ∧
    (b.tu.msgAt ≤ b.now) ∧
    (b.locked = false)) ∧
   (let t : Time := 8
    let s : State := won fun b => b.onTu fun u => { u with msgAt := 9 }
    let b := s.blk.tick t
    (b.works 26 = true) ∧
    (b.works 36 = true) ∧
    (b.now < b.tu.msgAt)) := by
  refine ⟨?_, ?_, ?_, ?_, ?_, ?_, ?_⟩
  · decide
  · decide
  · decide
  · decide
  · decide
  · decide
  · decide

/-- States that meet the hypotheses of `Obligations.FabricRequestsAndTags`, clause by clause. -/
theorem wit_FabricRequestsAndTags :
   (let t : Time := 0
    let s : State := won fun b => b.onFif fun f => { f with got := [{ wp with opcode := 0x10#8, addr := 4#48 }] }
    let sel : Nat := 0
    let p : FabPkt := { wp with opcode := 0x10#8, addr := 4#48 }
    let b := s.blk.tick t
    (b.worksBm 27 = true) ∧
    (b.pickGot sel Fwu.isReq = some p) ∧
    (b.fenceHeld sel p = false) ∧
    (b.engStopped p.job.toNat 2 = false) ∧
    (Fwu.misaligned p = true)) ∧
   (let t : Time := 0
    let s : State := won fun b => b.onFif fun f => { f with got := [{ wp with opcode := 0x10#8 }] }
    let sel : Nat := 0
    let p : FabPkt := { wp with opcode := 0x10#8 }
    let b := s.blk.tick t
    let c := b.dropGot sel
    (b.worksBm 27 = true) ∧
    (b.pickGot sel Fwu.isReq = some p) ∧
    (b.fenceHeld sel p = false) ∧
    (b.engStopped p.job.toNat 2 = false) ∧
    (Fwu.misaligned p = false) ∧
    (c.importAt p.job.toNat p.addr.toNat = none)) ∧
   (let t : Time := 0
    let s : State := won fun b => { (b.onFif fun f => { f with got := [{ wp with opcode := 0x10#8, addr := 0x1FF8#48 }] }) with fwu := { b.fwu with wins := [(0, { ww with perm := 0 })] } }
    let sel : Nat := 0
    let p : FabPkt := { wp with opcode := 0x10#8, addr := 0x1FF8#48 }
    let b := s.blk.tick t
    let c := b.dropGot sel
    let w := 0
    let x := { ww with perm := 0 }
    let check := c.winCheck x p.addr.toNat (Fwu.span p) (Fwu.right p)
    let st := St.notOwner
    (b.worksBm 27 = true) ∧
    (b.pickGot sel Fwu.isReq = some p) ∧
    (b.fenceHeld sel p = false) ∧
    (b.engStopped p.job.toNat 2 = false) ∧
    (Fwu.misaligned p = false) ∧
    (c.importAt p.job.toNat p.addr.toNat = some (w, x)) ∧
    (check = some st)) ∧
   (let t : Time := 0
    let s : State := won fun b => { (b.onFif fun f => { f with got := [{ wp with opcode := 0x10#8, addr := 0x1FF8#48 }] }) with fwu := { b.fwu with wins := [(0, ww)] } }
    let sel : Nat := 0
    let p : FabPkt := { wp with opcode := 0x10#8, addr := 0x1FF8#48 }
    let b := s.blk.tick t
    let c := b.dropGot sel
    let w := 0
    let x := ww
    let check := c.winCheck x p.addr.toNat (Fwu.span p) (Fwu.right p)
    let c' := (((s.blk.tick 0).dropGot 0).accept { wp with opcode := 0x10#8, addr := 0x1FF8#48 } 0 ww).getD wup
    (b.worksBm 27 = true) ∧
    (b.pickGot sel Fwu.isReq = some p) ∧
    (b.fenceHeld sel p = false) ∧
    (b.engStopped p.job.toNat 2 = false) ∧
    (Fwu.misaligned p = false) ∧
    (c.importAt p.job.toNat p.addr.toNat = some (w, x)) ∧
    (check = none) ∧
    (c.accept p w x = some c')) ∧
   (let t : Time := 0
    let s : State := won fun b => { (b.onFif fun f => { f with got := [{ wp with opcode := 0x10#8, addr := 0x1FF8#48 }] }) with fwu := { b.fwu with wins := [(0, { ww with maxOut := 1 })], ctxs := [(0, wctx)] } }
    let sel : Nat := 0
    let p : FabPkt := { wp with opcode := 0x10#8, addr := 0x1FF8#48 }
    let b := s.blk.tick t
    let c := b.dropGot sel
    let w := 0
    let x := { ww with maxOut := 1 }
    let check := c.winCheck x p.addr.toNat (Fwu.span p) (Fwu.right p)
    (b.worksBm 27 = true) ∧
    (b.pickGot sel Fwu.isReq = some p) ∧
    (b.fenceHeld sel p = false) ∧
    (b.engStopped p.job.toNat 2 = false) ∧
    (Fwu.misaligned p = false) ∧
    (c.importAt p.job.toNat p.addr.toNat = some (w, x)) ∧
    (check = none) ∧
    (c.accept p w x = none)) ∧
   (let t : Time := 0
    let s : State := won fun b => { (b.onFif fun f => { f with got := [{ wp with opcode := 0x10#8 }] }) with bm := { b.bm with stopped := [(5, 2)] } }
    let sel : Nat := 0
    let p : FabPkt := { wp with opcode := 0x10#8 }
    let b := s.blk.tick t
    (b.worksBm 27 = true) ∧
    (b.pickGot sel Fwu.isReq = some p) ∧
    (b.engStopped p.job.toNat 2 = true)) ∧
   (let t : Time := 0
    let s : State := won fun b => { (b.onFif fun f => { f with blocked := [{ wp with opcode := 0x10#8, addr := 0x1FF8#48 }] }) with fwu := { b.fwu with wins := [(0, ww)] } }
    let w : Nat := 0
    let x : Win := ww
    let p : FabPkt := { wp with opcode := 0x10#8, addr := 0x1FF8#48 }
    let rest : List FabPkt := []
    let b := s.blk.tick t
    let c := b.onFif fun f => { f with blocked := rest }
    (b.worksBm 27 = true) ∧
    (b.fif.blocked = p :: rest) ∧
    (b.engStopped p.job.toNat 2 = false) ∧
    (b.importAt p.job.toNat p.addr.toNat = some (w, x)) ∧
    (b.winCheck x p.addr.toNat (Fwu.span p) (Fwu.right p) = none) ∧
    ((c.accept p w x).isSome = true)) ∧
   (let t : Time := 0
    let s : State := won fun b => b.onFwu fun y => { y with fences := [(2, ⟨5, 0, 0, 0, 0, 0, 0, none, [], [], [], 0, 0⟩)] }
    let k : Nat := 2
    let f : Fence := ⟨5, 0, 0, 0, 0, 0, 0, none, [], [], [], 0, 0⟩
    let b := s.blk.tick t
    (b.worksBm 27 = true) ∧
    (AMap.get? b.fwu.fences k = some f) ∧
    (f.cmd = none) ∧
    (f.covers = []) ∧
    (f.need = []) ∧
    (f.status = 0)) ∧
   (let t : Time := 0
    let s : State := won fun b => b.onFwu fun y => { y with fences := [(2, ⟨5, 0, 0, 0, 0, 0, 0, none, [], [], [], 1, 0⟩)] }
    let k : Nat := 2
    let f : Fence := ⟨5, 0, 0, 0, 0, 0, 0, none, [], [], [], 1, 0⟩
    let b := s.blk.tick t
    (b.worksBm 27 = true) ∧
    (AMap.get? b.fwu.fences k = some f) ∧
    (f.cmd = none) ∧
    (f.covers = []) ∧
    (f.need = []) ∧
    (f.status ≠ 0)) ∧
   (let t : Time := 0
    let s : State := won fun b => b.onFif fun f => { f with got := [{ wp with opcode := 0x04#8 }] }
    let sel : Nat := 0
    let p : FabPkt := { wp with opcode := 0x04#8 }
    let b := s.blk.tick t
    let c := b.dropGot sel
    (b.works 26 = true) ∧
    (b.pickGot sel Fif.isResp = some p) ∧
    (c.matchTag p = none)) ∧
   (let t : Time := 0
    let s : State := won fun b => b.onFif fun f => { f with got := [{ wp with opcode := 0x04#8 }], tags := [(0, ⟨0, 0, 5, 0, .exec 0 0, 0, none⟩)] }
    let sel : Nat := 0
    let p : FabPkt := { wp with opcode := 0x04#8 }
    let b := s.blk.tick t
    let c := b.dropGot sel
    let tag := 0
    let g := ⟨0, 0, 5, 0, .exec 0 0, 0, none⟩
    (b.works 26 = true) ∧
    (b.pickGot sel Fif.isResp = some p) ∧
    (c.matchTag p = some (tag, g)) ∧
    (p.opcode ≠ 0x30#8)) ∧
   (let t : Time := 0
    let s : State := won fun b => b.onFif fun f => { f with got := [{ wp with opcode := 0x30#8 }], tags := [(0, ⟨0, 0, 5, 0, .exec 0 0, 0, none⟩)] }
    let sel : Nat := 0
    let p : FabPkt := { wp with opcode := 0x30#8 }
    let b := s.blk.tick t
    let c := b.dropGot sel
    let tag := 0
    let g := ⟨0, 0, 5, 0, .exec 0 0, 0, none⟩
    (b.works 26 = true) ∧
    (b.pickGot sel Fif.isResp = some p) ∧
    (c.matchTag p = some (tag, g)) ∧
    (p.opcode = 0x30#8)) ∧
   (let t : Time := 9
    let s : State := won fun b => b.onFif fun f => { f with tags := [(4, ⟨0, 0, 5, 0, .exec 0 0, 9, some 0⟩)] }
    let tag : Nat := 4
    let g : Tag := ⟨0, 0, 5, 0, .exec 0 0, 9, some 0⟩
    let b := s.blk.tick t
    (b.works 26 = true) ∧
    ((b.fif.tags.filter fun e => e.2.due b.now) = [(tag, g)])) ∧
   (let t : Time := 0
    let s : State := won fun b => (wjob b).onFif fun f => { f with ranks := [(5, ⟨5, 4, 1, [(0, (9, 0))]⟩)], tagWait := [⟨.exec 0 0, 5, 0, 0, 1, 0, 8, []⟩] }
    let w : TagWait := ⟨.exec 0 0, 5, 0, 0, 1, 0, 8, []⟩
    let ws : List TagWait := []
    let b := s.blk.tick t
    let c := b.onFif fun f => { f with tagWait := ws }
    let c' := (c.issue w).getD c
    (b.works 26 = true) ∧
    (b.fif.tagWait = w :: ws) ∧
    (b.tagFree ≠ 0) ∧
    (c.issue w = some c')) ∧
   (let t : Time := 0
    let s : State := won fun b => (wjob b).onFif fun f => { f with tagWait := [⟨.exec 0 0, 5, 0, 0, 1, 0, 8, []⟩] }
    let w : TagWait := ⟨.exec 0 0, 5, 0, 0, 1, 0, 8, []⟩
    let ws : List TagWait := []
    let b := s.blk.tick t
    let c := b.onFif fun f => { f with tagWait := ws }
    (b.works 26 = true) ∧
    (b.fif.tagWait = w :: ws) ∧
    (b.tagFree ≠ 0) ∧
    (c.issue w = none)) ∧
   (let t : Time := 0
    let s : State := wcol id
    let key : Nat := 20482
    let tile : Nat := 1
    let c : Coll := wcoll
    let x : TileCtx := TileCtx.init 0 none
    let b := s.blk.tick t
    (b.works 26 = true) ∧
    (b.worksBm 28 = true) ∧
    (b.coll key = some c) ∧
    (AMap.get? c.tiles tile = some x)) := by
  refine ⟨?_, ?_, ?_, ?_, ?_, ?_, ?_, ?_⟩
  · decide
  · decide
  · decide
  · decide
  · decide
  · decide
  · decide
  refine ⟨?_, ?_, ?_, ?_, ?_, ?_, ?_, ?_⟩
  · decide
  · decide
  · decide
  · decide
  · decide
  · decide
  · decide
  refine ⟨?_, ?_⟩
  · decide
  · decide

/-- States that meet the hypotheses of `Obligations.FarWindows`, clause by clause. -/
theorem wit_FarWindows :
   (let t : Time := 0
    let r : Req := wq 0 5 [(24, 64), (28, 4095)]
    let s : State := won fun b => wmem [(0, 1, 1), (4, 2, 7), (6, 2, 5), (8, 8, 0x1000), (16, 8, 0x1000)] { wjob b with peerGw := [(0, 7)] }
    let b := Ci.taken 0x0301 r (s.blk.tick t)
    let id := (s.blk.tick t).freshId
    let w : Nat := 4095
    let c := b.readCount r.a0 64
    let f := c.d r.a0
    (Starts 0x0301 r t s b id) ∧
    (r.a0 % 64 = 0) ∧
    (r.a0 + 64 ≤ 0x6000000000) ∧
    (r.a1 = 64) ∧
    (r.u 32 32 = 0) ∧
    (c.winDescBad r.a0 (b.cmdJob r) = none) ∧
    ((r.a2 < 4096 ∧ w = r.a2 ∨ r.a2 = 0xFFFFFFFF ∧ AMap.freeKey c.fwu.wins 0 4096 = some w)) ∧
    ((∃ e ∈ c.peerGw, e.2 = f 4 2)) ∧
    (c.win w = none)) ∧
   (let t : Time := 0
    let r : Req := wq 0 5 [(28, 4095)]
    let s : State := won fun b => { wjob b with fwu := { b.fwu with wins := [(4095, ww)] } }
    let b := Ci.taken 0x0302 r (s.blk.tick t)
    let id := (s.blk.tick t).freshId
    let x : Win := ww
    (Starts 0x0302 r t s b id) ∧
    (r.u 16 8 = 0) ∧
    (r.u 24 4 = 0) ∧
    (r.a2 < 4096) ∧
    (r.u 32 32 = 0) ∧
    (b.win r.a2 = some x) ∧
    (x.job = b.cmdJob r) ∧
    (x.dying = none)) ∧
   (let t : Time := 0
    let r : Req := wq 0 5 [(28, 4095)]
    let s : State := won fun b => { wjob b with fwu := { b.fwu with wins := [(4095, { ww with dying := some 3 })] } }
    let b := Ci.taken 0x0302 r (s.blk.tick t)
    let id := (s.blk.tick t).freshId
    let x : Win := { ww with dying := some 3 }
    (Starts 0x0302 r t s b id) ∧
    (r.u 16 8 = 0) ∧
    (r.u 24 4 = 0) ∧
    (r.a2 < 4096) ∧
    (r.u 32 32 = 0) ∧
    (b.win r.a2 = some x) ∧
    (x.job = b.cmdJob r) ∧
    (x.dying ≠ none)) ∧
   (let t : Time := 0
    let r : Req := wq 0 5 [(28, 4095)]
    let s : State := won fun b => { wjob b with fwu := { b.fwu with wins := [(4095, ww)] } }
    let b := Ci.taken 0x0303 r (s.blk.tick t)
    let id := (s.blk.tick t).freshId
    let x : Win := ww
    (Starts 0x0303 r t s b id) ∧
    (r.u 16 8 = 0) ∧
    (r.u 24 4 = 0) ∧
    (r.a2 < 4096) ∧
    (r.u 32 32 = 0) ∧
    (b.win r.a2 = some x) ∧
    (x.job = b.cmdJob r)) ∧
   (let t : Time := 0
    let r : Req := wq 0 5 [(16, 0x5FFFFFFFC0), (24, 64), (28, 4095)]
    let s : State := won fun b => { wjob b with fwu := { b.fwu with wins := [(4095, ww)] } }
    let b := Ci.taken 0x0305 r (s.blk.tick t)
    let id := (s.blk.tick t).freshId
    let x : Win := ww
    (Starts 0x0305 r t s b id) ∧
    (r.a0 % 64 = 0) ∧
    (r.a0 + r.a1 ≤ 0x6000000000) ∧
    (64 ≤ r.a1) ∧
    (r.a2 < 4096) ∧
    (r.u 32 32 = 0) ∧
    (b.win r.a2 = some x) ∧
    (x.job = b.cmdJob r)) ∧
   (let t : Time := 0
    let r : Req := wq 0 5 [(28, 4095), (48, 0x1000), (60, 1)]
    let s : State := won fun b => { (wjob b).onFif (fun f => { f with ranks := [(5, ⟨5, 4, 1, [(0, (9, 0))]⟩)] }) with fwu := { b.fwu with wins := [(4095, ww)] } }
    let b := Ci.taken 0x0304 r (s.blk.tick t)
    let id := (s.blk.tick t).freshId
    let x : Win := ww
    let toFar := r.u 60 1 == 0
    (Starts 0x0304 r t s b id) ∧
    (r.u 16 8 = 0) ∧
    (r.u 24 4 = 0) ∧
    (r.a2 < 4096) ∧
    (r.u 32 8 < 2 ^ 48) ∧
    (r.u 40 8 < 2 ^ 48) ∧
    (r.u 48 8 ≠ 0) ∧
    (r.u 56 4 < 2 ^ 24) ∧
    (r.u 60 1 ≤ 1) ∧
    (r.u 61 3 = 0) ∧
    (b.win r.a2 = some x) ∧
    (x.job = b.cmdJob r) ∧
    (x.kind = 1) ∧
    (b.winCheck x (x.base + r.u 40 8) (r.u 48 8) (some 3) = none) ∧
    (b.winCheck x (x.base + r.u 40 8) (r.u 48 8) (some (if toFar then 1 else 0)) = none) ∧
    ((b.rankEntry (b.cmdJob r) (r.u 56 4)).isSome = true) ∧
    (b.ctxRoom r.a2 1 = true) ∧
    (r.u 60 1 = 1)) ∧
   (let t : Time := 0
    let r : Req := wq 0 5 [(28, 4095), (48, 0x1000)]
    let s : State := won fun b => { (wjob b).onFif (fun f => { f with ranks := [(5, ⟨5, 4, 1, [(0, (9, 0))]⟩)] }) with fwu := { b.fwu with wins := [(4095, ww)] } }
    let b := Ci.taken 0x0304 r (s.blk.tick t)
    let id := (s.blk.tick t).freshId
    let x : Win := ww
    let toFar := r.u 60 1 == 0
    let b' := ((Ci.taken 0x0304 r (s.blk.tick t)).takeBuf 4096 (Own.of 5 2)).elim wup (·.1)
    let h := ((Ci.taken 0x0304 r (s.blk.tick t)).takeBuf 4096 (Own.of 5 2)).elim 0 (·.2)
    (Starts 0x0304 r t s b id) ∧
    (r.u 16 8 = 0) ∧
    (r.u 24 4 = 0) ∧
    (r.a2 < 4096) ∧
    (r.u 32 8 < 2 ^ 48) ∧
    (r.u 40 8 < 2 ^ 48) ∧
    (r.u 48 8 ≠ 0) ∧
    (r.u 56 4 < 2 ^ 24) ∧
    (r.u 60 1 ≤ 1) ∧
    (r.u 61 3 = 0) ∧
    (b.win r.a2 = some x) ∧
    (x.job = b.cmdJob r) ∧
    (x.kind = 1) ∧
    (b.winCheck x (x.base + r.u 40 8) (r.u 48 8) (some 3) = none) ∧
    (b.winCheck x (x.base + r.u 40 8) (r.u 48 8) (some (if toFar then 1 else 0)) = none) ∧
    ((b.rankEntry (b.cmdJob r) (r.u 56 4)).isSome = true) ∧
    (b.ctxRoom r.a2 1 = true) ∧
    (r.u 60 1 = 0) ∧
    (b.takeBuf (min (r.u 48 8) 65536) (Own.of (b.cmdJob r) 2) = some (b', h))) := by
  refine ⟨?_, ?_, ?_, ?_, ?_, ?_, ?_⟩
  · refine ⟨⟨by decide, rfl, rfl⟩, ?_⟩
    and_intros <;> decide
  · refine ⟨⟨by decide, rfl, rfl⟩, ?_⟩
    and_intros <;> decide
  · refine ⟨⟨by decide, rfl, rfl⟩, ?_⟩
    and_intros <;> decide
  · refine ⟨⟨by decide, rfl, rfl⟩, ?_⟩
    and_intros <;> decide
  · refine ⟨⟨by decide, rfl, rfl⟩, ?_⟩
    and_intros <;> decide
  · refine ⟨⟨by decide, rfl, rfl⟩, ?_⟩
    and_intros <;> decide
  · refine ⟨⟨by decide, rfl, rfl⟩, ?_⟩
    and_intros <;> decide

/-- States that meet the hypotheses of `Obligations.FarOperations`, clause by clause. -/
theorem wit_FarOperations :
   (let t : Time := 0
    let s : State := won fun b => { b with peerGw := [(0, 7)] }.onFwu fun f => { f with ctxs := [(6, wctx)], execLimit := [(7, 1)] }
    let i : Nat := 6
    let c : OpCtx := wctx
    let b := s.blk.tick t
    (b.worksBm 27 = true) ∧
    (AMap.get? b.fwu.ctxs i = some c) ∧
    (c.sent = none) ∧
    (c.bulk = none) ∧
    (c.paged = false) ∧
    (b.execCredit c.peer ≠ 0) ∧
    (b.issueTurn = some i)) ∧
   (let t : Time := 0
    let s : State := won fun b => { b with inbox := [wi (.far { wfar with flags := 1#8 })] }
    let sel : Nat := 0
    let x : InMsg := wi (.far { wfar with flags := 1#8 })
    let m : FarMsg := { wfar with flags := 1#8 }
    let b := s.blk.tick t
    (b.worksBm 27 = true) ∧
    (x.msg = .far m) ∧
    (b.farCtx m = none) ∧
    (b.pickIn sel InMsg.farResp = some x)) ∧
   (let t : Time := 0
    let s : State := won fun b => { b with inbox := [wi (.far { wfar with flags := 1#8 })], fwu := { b.fwu with ctxs := [(0, wctx)] } }
    let sel : Nat := 0
    let x : InMsg := wi (.far { wfar with flags := 1#8 })
    let m : FarMsg := { wfar with flags := 1#8 }
    let b := s.blk.tick t
    let i := 0
    let c := wctx
    (b.worksBm 27 = true) ∧
    (x.msg = .far m) ∧
    (b.farCtx m = some (i, c)) ∧
    (c.paged = false) ∧
    (b.fwu.heldOrder = []) ∧
    ((x.buf.any fun e => b.bufPoison e.1) = false) ∧
    (b.pickIn sel InMsg.farResp = some x)) ∧
   (let t : Time := 0
    let s : State := won fun b => { b with inbox := [{ wi (.far { wfar with flags := 1#8 }) with buf := some (3, 5) }], fwu := { b.fwu with ctxs := [(0, wctx)] }, bm := { b.bm with bufs := [(Bm.key 0 3, ⟨0, false, 0, true, [5], 0, none⟩)] }, mc := { b.mc with poison := [0] } }
    let sel : Nat := 0
    let x : InMsg := { wi (.far { wfar with flags := 1#8 }) with buf := some (3, 5) }
    let m : FarMsg := { wfar with flags := 1#8 }
    let b := s.blk.tick t
    let i := 0
    let c := wctx
    (b.worksBm 27 = true) ∧
    (x.msg = .far m) ∧
    (b.farCtx m = some (i, c)) ∧
    (c.paged = false) ∧
    (b.fwu.heldOrder = []) ∧
    ((x.buf.any fun e => b.bufPoison e.1) = true) ∧
    (b.pickIn sel InMsg.farResp = some x)) ∧
   (let t : Time := 0
    let s : State := won fun b => { b with inbox := [wi (.far { wfar with flags := 1#8 })], fwu := { b.fwu with ctxs := [(0, wctx)], heldOrder := [3] } }
    let sel : Nat := 0
    let x : InMsg := wi (.far { wfar with flags := 1#8 })
    let m : FarMsg := { wfar with flags := 1#8 }
    let b := s.blk.tick t
    let i := 0
    let c := wctx
    (b.worksBm 27 = true) ∧
    (x.msg = .far m) ∧
    (b.farCtx m = some (i, c)) ∧
    (c.paged = false) ∧
    (b.fwu.heldOrder ≠ []) ∧
    (b.pickIn sel InMsg.farResp = some x)) ∧
   (let t : Time := 0
    let s : State := won fun b => { b with inbox := [wi (.far { wfar with flags := 1#8, data := List.replicate 4194305 0#8 })], fwu := { b.fwu with ctxs := [(0, { wctx with paged := true })] } }
    let sel : Nat := 0
    let x : InMsg := wi (.far { wfar with flags := 1#8, data := List.replicate 4194305 0#8 })
    let m : FarMsg := { wfar with flags := 1#8, data := List.replicate 4194305 0#8 }
    let b := s.blk.tick t
    let i := 0
    let c := { wctx with paged := true }
    (b.worksBm 27 = true) ∧
    (x.msg = .far m) ∧
    (b.farCtx m = some (i, c)) ∧
    (c.paged = true) ∧
    (b.takeRes 2 (max 1 m.data.length) (Own.of c.job 2) = none) ∧
    (b.pickIn sel InMsg.farResp = some x)) ∧
   (let t : Time := 0
    let s : State := won fun b => { b with inbox := [wi (.far { wfar with flags := 1#8 })], fwu := { b.fwu with ctxs := [(0, { wctx with paged := true })] } }
    let sel : Nat := 0
    let x : InMsg := wi (.far { wfar with flags := 1#8 })
    let m : FarMsg := { wfar with flags := 1#8 }
    let b := s.blk.tick t
    let i := 0
    let c := { wctx with paged := true }
    let b' := (((s.blk.tick 0).takeRes 2 1 (Own.of 5 2)).getD (wup, 0)).1
    let h := (((s.blk.tick 0).takeRes 2 1 (Own.of 5 2)).getD (wup, 0)).2
    (b.worksBm 27 = true) ∧
    (x.msg = .far m) ∧
    (b.farCtx m = some (i, c)) ∧
    (c.paged = true) ∧
    (b.takeRes 2 (max 1 m.data.length) (Own.of c.job 2) = some (b', h)) ∧
    (b.pickIn sel InMsg.farResp = some x)) ∧
   (let t : Time := 9
    let s : State := won fun b => b.onFwu fun f => { f with ctxs := [(6, wctx)] }
    let i : Nat := 6
    let c : OpCtx := wctx
    let b := s.blk.tick t
    (b.worksBm 27 = true) ∧
    ((b.fwu.ctxs.filter fun e => decide (e.2.deadline ≤ b.now) && e.2.early.isEmpty) = [(i, c)]) ∧
    (c.peer ∉ b.noPath)) ∧
   (let t : Time := 9
    let s : State := won fun b => { b with noPath := [7], fwu := { b.fwu with ctxs := [(6, wctx)] } }
    let i : Nat := 6
    let c : OpCtx := wctx
    let b := s.blk.tick t
    (b.worksBm 27 = true) ∧
    ((b.fwu.ctxs.filter fun e => decide (e.2.deadline ≤ b.now) && e.2.early.isEmpty) = [(i, c)]) ∧
    (c.peer ∈ b.noPath)) ∧
   (let t : Time := 9
    let s : State := won fun b => b.onFwu fun f => { f with quar := [(6, (9, none))] }
    let i : Nat := 6
    let until_ : Time := 9
    let x : Option Nat := none
    let b := s.blk.tick t
    (b.worksBm 27 = true) ∧
    (AMap.get? b.fwu.quar i = some (until_, x)) ∧
    (until_ ≤ b.now)) ∧
   (let t : Time := 8
    let s : State := won fun b => b.onFwu fun f => { f with quar := [(6, (9, none))] }
    let i : Nat := 6
    let until_ : Time := 9
    let x : Option Nat := none
    let b := s.blk.tick t
    (b.worksBm 27 = true) ∧
    (AMap.get? b.fwu.quar i = some (until_, x)) ∧
    (b.now < until_)) := by
  refine ⟨?_, ?_, ?_, ?_, ?_, ?_, ?_, ?_⟩
  · decide
  · decide
  · decide
  · decide
  · decide
  · exact ⟨rfl, rfl, rfl, rfl, by rw [List.length_replicate]; decide, rfl⟩
  · decide
  refine ⟨?_, ?_, ?_, ?_⟩
  · decide
  · decide
  · decide
  · decide

/-- States that meet the hypotheses of `Obligations.FarPagingAndBulk`, clause by clause. -/
theorem wit_FarPagingAndBulk :
   (let t : Time := 0
    let s : State := won id
    let b := s.blk.tick t
    (b.worksBm 27 = true)) ∧
   (let t : Time := 0
    let s : State := won fun b => b.onFwu fun f => { f with heldOrder := [6], ctxs := [(6, { wctx with paged := true, early := [(wfar, 0)] })] }
    let i : Nat := 6
    let c : OpCtx := { wctx with paged := true, early := [(wfar, 0)] }
    let b := s.blk.tick t
    let d := b.bump64 R.fwuPageinLo 1
    let m := wfar
    let h := 0
    (b.worksBm 27 = true) ∧
    (AMap.get? b.fwu.ctxs i = some c) ∧
    (c.early ≠ []) ∧
    (c.paged = true) ∧
    (d.rangePoison (Fwu.home i) 256 = false) ∧
    (d.fwu.heldOrder = [i]) ∧
    (c.early = [(m, h)])) ∧
   (let t : Time := 0
    let s : State := won fun b => b.onFwu fun f => { f with heldOrder := [7, 6], ctxs := [(6, { wctx with paged := true, early := [(wfar, 0)] }), (7, { wctx with paged := true, early := [(wfar, 0)] })] }
    let i : Nat := 6
    let c : OpCtx := { wctx with paged := true, early := [(wfar, 0)] }
    let b := s.blk.tick t
    let d := b.bump64 R.fwuPageinLo 1
    let j := 7
    let rest := [6]
    let x := { wctx with paged := true, early := [(wfar, 0)] }
    (b.worksBm 27 = true) ∧
    (AMap.get? b.fwu.ctxs i = some c) ∧
    (c.early ≠ []) ∧
    (c.paged = true) ∧
    (d.rangePoison (Fwu.home i) 256 = false) ∧
    (d.fwu.heldOrder = j :: rest) ∧
    (j ≠ i) ∧
    (AMap.get? d.fwu.ctxs j = some x) ∧
    (x.paged = true)) ∧
   (let t : Time := 0
    let s : State := won fun b => { (b.onFwu fun f => { f with ctxs := [(6, { wctx with paged := true, early := [(wfar, 0)] })] }) with mc := { b.mc with poison := [Fwu.home 6 / 32] } }
    let i : Nat := 6
    let c : OpCtx := { wctx with paged := true, early := [(wfar, 0)] }
    let b := s.blk.tick t
    let d := b.bump64 R.fwuPageinLo 1
    (b.worksBm 27 = true) ∧
    (AMap.get? b.fwu.ctxs i = some c) ∧
    (c.early ≠ []) ∧
    (c.paged = true) ∧
    (d.rangePoison (Fwu.home i) 256 = true)) ∧
   (let t : Time := 0
    let s : State := won fun b => { b with peerGw := [(0, 7)] }.onFwu fun f => { f with ctxs := [(6, { wctx with bulk := some ⟨false, 0, 0, 0, 0x20000, 0, 0, [], [], []⟩ })], execLimit := [(7, 1)] }
    let i : Nat := 6
    let c : OpCtx := { wctx with bulk := some ⟨false, 0, 0, 0, 0x20000, 0, 0, [], [], []⟩ }
    let k : Bulk := ⟨false, 0, 0, 0, 0x20000, 0, 0, [], [], []⟩
    let b := s.blk.tick t
    let n := Fwu.chunkLen k
    (b.worksBm 27 = true) ∧
    (AMap.get? b.fwu.ctxs i = some c) ∧
    (c.bulk = some k) ∧
    (b.chunkDue k = true) ∧
    (b.issueTurn = some i) ∧
    (k.toFar = false ∨ k.chunk.length = n)) ∧
   (let t : Time := 0
    let s : State := won fun b => (b.onFif fun f => { f with ranks := [(5, ⟨5, 4, 1, [(0, (9, 0))]⟩)] }).onFwu fun f => { f with ctxs := [(6, { wctx with bulk := some ⟨true, 0, 0, 0, 8, 0, 0, [], [], []⟩ })] }
    let i : Nat := 6
    let c : OpCtx := { wctx with bulk := some ⟨true, 0, 0, 0, 8, 0, 0, [], [], []⟩ }
    let k : Bulk := ⟨true, 0, 0, 0, 8, 0, 0, [], [], []⟩
    let b := s.blk.tick t
    let n := Fwu.chunkLen k
    let b' := (((s.blk.tick 0).putBulk 6 ⟨true, 0, 0, 0, 8, 0, 0, [(0, 8, 1)], [], []⟩).issue ⟨.bulk 6 0, 5, 0, 5, 1, 0, 8, []⟩).getD wup
    let ps := Fwu.pieces 18 (k.laddr + (k.next - k.start)) n
    (b.worksBm 27 = true) ∧
    (AMap.get? b.fwu.ctxs i = some c) ∧
    (c.bulk = some k) ∧
    (b.chunkDue k = true) ∧
    (k.toFar = true) ∧
    (k.chunk.length ≠ n) ∧
    (k.parts = []) ∧
    ((∀ h, c.buf = some h → ∀ m ∈ b.outq, m.src ≠ some h)) ∧
    (ps.foldl (fun (acc : Option Block) p => acc.bind fun d => d.issue ⟨.bulk i (p.1 - k.laddr), c.job, k.lrank, c.lcls, 0x01, p.1, p.2, []⟩) (some (b.putBulk i { k with parts := [(k.next, n, ps.length)], gathered := [] })) = some b')) ∧
   (let t : Time := 0
    let s : State := won fun b => { b with peerGw := [(0, 7)] }.onFwu fun f => { f with ctxs := [(6, { wctx with bulk := some ⟨false, 0, 0, 0, 0x20000, 0, 0, [], [], []⟩ })], execLimit := [(7, 1)] }
    let i : Nat := 6
    let c : OpCtx := { wctx with bulk := some ⟨false, 0, 0, 0, 0x20000, 0, 0, [], [], []⟩ }
    let k : Bulk := ⟨false, 0, 0, 0, 0x20000, 0, 0, [], [], []⟩
    let b := s.blk.tick t
    (b.worksBm 27 = true) ∧
    (AMap.get? b.fwu.ctxs i = some c) ∧
    (c.bulk = some k) ∧
    (b.chunkDue k = true)) := by
  refine ⟨?_, ?_, ?_, ?_, ?_, ?_, ?_⟩
  · decide
  · decide
  · decide
  · decide
  · decide
  · decide
  · decide

/-- States that meet the hypotheses of `Obligations.FarExecution`, clause by clause. -/
theorem wit_FarExecution :
   (let t : Time := 0
    let s : State := won fun b => { b with inbox := [wi (.far wfar)] }
    let sel : Nat := 0
    let x : InMsg := wi (.far wfar)
    let m : FarMsg := wfar
    let b := s.blk.tick t
    (b.worksBm 27 = true) ∧
    (b.pickIn sel InMsg.farReq = some x) ∧
    (x.msg = .far m) ∧
    (b.execOk x.peer = false)) ∧
   (let t : Time := 0
    let s : State := won fun b => { b with inbox := [wi (.far { wfar with offset := 0#64 })], fwu := { b.fwu with execGrant := [(7, 1)], wins := [(0, { ww with kind := 2 })], streams := [⟨7, 0, 0, 0, 0, 5, 0, []⟩] } }
    let sel : Nat := 0
    let x : InMsg := wi (.far { wfar with offset := 0#64 })
    let m : FarMsg := { wfar with offset := 0#64 }
    let b := s.blk.tick t
    let d := (b.takeIn sel).onFwu fun f => { f with execRecv := AMap.set f.execRecv x.peer (AMap.getD f.execRecv x.peer 0 + 1) }
    let w : Win := { ww with kind := 2 }
    let st : FarStream := ⟨7, 0, 0, 0, 0, 5, 0, []⟩
    (b.worksBm 27 = true) ∧
    (b.pickIn sel InMsg.farReq = some x) ∧
    (x.msg = .far m) ∧
    (b.execOk x.peer = true) ∧
    (d.win (m.win.toNat % 4096) = some w) ∧
    (w.kind = 2) ∧
    (w.peer = x.peer) ∧
    (w.peerJob = x.job) ∧
    ((d.fwu.streams.find? fun y => y.peer == x.peer && y.win == m.win.toNat % 4096 && y.impWin == m.impWin.toNat % 4096) = some st) ∧
    (st.gen = m.src.toNat / 2 ^ 24) ∧
    (st.rank = m.src.toNat % 2 ^ 24) ∧
    (st.cls = x.cls) ∧
    ((m.streamSeq.toNat + 2 ^ 32 - st.expect) % 2 ^ 32 < 2 ^ 31)) ∧
   (let t : Time := 0
    let s : State := won fun b => b.onFwu fun f => { f with ents := [(4, { went with bad := 5 })], wins := [(0, { ww with kind := 2 })], streams := [⟨7, 0, 0, 0, 0, 5, 0, []⟩] }
    let i : Nat := 4
    let e : ExecEnt := { went with bad := 5 }
    let st : FarStream := ⟨7, 0, 0, 0, 0, 5, 0, []⟩
    let w : Win := { ww with kind := 2 }
    let b := s.blk.tick t
    let m := e.msg
    (b.worksBm 27 = true) ∧
    (AMap.get? b.fwu.ents i = some e) ∧
    ((b.fwu.streams.find? fun y => y.is e.peer e.msg e.cls) = some st) ∧
    (e.started = none) ∧
    (st.expect = m.streamSeq.toNat) ∧
    ((∀ x ∈ b.fwu.ents, x.1 ≠ i → x.2.started = none)) ∧
    (e.blockedAt = none) ∧
    (b.win (m.win.toNat % 4096) = some w) ∧
    (b.engStopped e.job 2 = false) ∧
    (e.bad ≠ 0)) ∧
   (let t : Time := 0
    let s : State := won fun b => { (b.onFwu fun f => { f with ents := [(4, { went with msg := { wfar with fop := 0x20#8 }, buf := some (3, 5) })], wins := [(0, { ww with kind := 2 })], streams := [⟨7, 0, 0, 0, 0, 5, 0, []⟩] }) with bm := { b.bm with bufs := [(Bm.key 0 3, ⟨0, false, 0, true, [5], 0, none⟩)] }, mc := { b.mc with poison := [0] } }
    let i : Nat := 4
    let e : ExecEnt := { went with msg := { wfar with fop := 0x20#8 }, buf := some (3, 5) }
    let st : FarStream := ⟨7, 0, 0, 0, 0, 5, 0, []⟩
    let w : Win := { ww with kind := 2 }
    let b := s.blk.tick t
    let m := e.msg
    (b.worksBm 27 = true) ∧
    (AMap.get? b.fwu.ents i = some e) ∧
    ((b.fwu.streams.find? fun y => y.is e.peer e.msg e.cls) = some st) ∧
    (e.started = none) ∧
    (st.expect = m.streamSeq.toNat) ∧
    ((∀ x ∈ b.fwu.ents, x.1 ≠ i → x.2.started = none)) ∧
    (e.blockedAt = none) ∧
    (b.win (m.win.toNat % 4096) = some w) ∧
    (b.engStopped e.job 2 = false) ∧
    (e.bad = 0) ∧
    ((e.buf.any fun x => b.bufPoison x.1) = true)) ∧
   (let t : Time := 0
    let s : State := won fun b => b.onFwu fun f => { f with ents := [(4, { went with msg := { wfar with fop := 3#8 } })], wins := [(0, { ww with kind := 2 })], streams := [⟨7, 0, 0, 0, 0, 5, 0, []⟩] }
    let i : Nat := 4
    let e : ExecEnt := { went with msg := { wfar with fop := 3#8 } }
    let st : FarStream := ⟨7, 0, 0, 0, 0, 5, 0, []⟩
    let w : Win := { ww with kind := 2 }
    let b := s.blk.tick t
    let m := e.msg
    (b.worksBm 27 = true) ∧
    (AMap.get? b.fwu.ents i = some e) ∧
    ((b.fwu.streams.find? fun y => y.is e.peer e.msg e.cls) = some st) ∧
    (e.started = none) ∧
    (st.expect = m.streamSeq.toNat) ∧
    ((∀ x ∈ b.fwu.ents, x.1 ≠ i → x.2.started = none)) ∧
    (e.blockedAt = none) ∧
    (b.win (m.win.toNat % 4096) = some w) ∧
    (b.engStopped e.job 2 = false) ∧
    (e.bad = 0) ∧
    ((e.buf.any fun x => b.bufPoison x.1) = false) ∧
    (m.fop = 0x03#8)) ∧
   (let t : Time := 0
    let s : State := won fun b => (b.onFif fun f => { f with ranks := [(5, ⟨5, 4, 1, [(0, (9, 0))]⟩)] }).onFwu fun f => { f with ents := [(4, went)], wins := [(0, { ww with kind := 2 })], streams := [⟨7, 0, 0, 0, 0, 5, 0, []⟩] }
    let i : Nat := 4
    let e : ExecEnt := went
    let st : FarStream := ⟨7, 0, 0, 0, 0, 5, 0, []⟩
    let w : Win := { ww with kind := 2 }
    let b := s.blk.tick t
    let set (left status : Nat) : Block := (b.onFwu fun f => { f with streams := f.streams.map fun y => if y = st then { y with expect := (st.expect + 1) % 2 ^ 32 } else y }).onFwu fun f => { f with ents := AMap.adjust f.ents i fun y => { y with started := some b.now, left := left, status := status, blockedAt := none } }
    let m := e.msg
    let b' := (((set 1 0).count w.job 1 7 1).issue ⟨.exec i 0, w.job, w.target, e.cls, FarExec.opc m, 0x2000, 8, []⟩).getD wup
    let ps := FarExec.parts w m
    let isW := m.fop == 0x02#8 || m.fop == 0x20#8
    let isR := m.fop == 0x01#8 || m.fop == 0x21#8
    let at_ (p : Nat × Nat) : Nat := p.1 - (w.base + m.offset.toNat)
    (b.worksBm 27 = true) ∧
    (AMap.get? b.fwu.ents i = some e) ∧
    ((b.fwu.streams.find? fun y => y.is e.peer e.msg e.cls) = some st) ∧
    (e.started = none) ∧
    (st.expect = m.streamSeq.toNat) ∧
    ((∀ x ∈ b.fwu.ents, x.1 ≠ i → x.2.started = none)) ∧
    (e.blockedAt = none) ∧
    (b.win (m.win.toNat % 4096) = some w) ∧
    (b.engStopped e.job 2 = false) ∧
    (e.bad = 0) ∧
    ((e.buf.any fun x => b.bufPoison x.1) = false) ∧
    (m.fop ≠ 0x03#8) ∧
    (ps.foldl (fun (acc : Option Block) p => acc.bind fun d => d.issue ⟨.exec i (at_ p), w.job, w.target, e.cls, FarExec.opc m, p.1, if isW then p.2 else if isR then p.2 else m.data.length, if isR then [] else if isW then (m.data.drop (at_ p)).take p.2 else m.data⟩) (some ((set ps.length 0).count w.job 1 7 1)) = some b')) ∧
   (let t : Time := 0
    let s : State := won fun b => b.onFwu fun f => { f with ents := [(4, { went with started := some 0, left := 1 })] }
    let i : Nat := 4
    let e : ExecEnt := { went with started := some 0, left := 1 }
    let b := s.blk.tick t
    (b.worksBm 27 = true) ∧
    (AMap.get? b.fwu.ents i = some e) ∧
    (e.bad = 0) ∧
    (e.started.isSome = true) ∧
    (e.resp = false) ∧
    (e.msg.fop ≠ 0x03#8) ∧
    (e.left ≠ 0)) ∧
   (let t : Time := 0
    let s : State := won fun b => b.onFwu fun f => { f with ents := [(4, { went with started := some 0 })] }
    let i : Nat := 4
    let e : ExecEnt := { went with started := some 0 }
    let b := s.blk.tick t
    (b.worksBm 27 = true) ∧
    (AMap.get? b.fwu.ents i = some e) ∧
    (e.bad = 0) ∧
    (e.started.isSome = true) ∧
    (e.resp = false) ∧
    (e.msg.fop ≠ 0x03#8) ∧
    (e.left = 0) ∧
    (e.msg.fop ≠ 0x20#8)) ∧
   (let t : Time := 0
    let s : State := won fun b => b.onFwu fun f => { f with ents := [(4, { went with started := some 0, msg := { wfar with fop := 0x20#8 } })], streams := [⟨7, 0, 0, 0, 0, 5, 0, [(0, 5, 0)]⟩] }
    let i : Nat := 4
    let e : ExecEnt := { went with started := some 0, msg := { wfar with fop := 0x20#8 } }
    let b := s.blk.tick t
    let old := b.bulkRec e
    (b.worksBm 27 = true) ∧
    (AMap.get? b.fwu.ents i = some e) ∧
    (e.bad = 0) ∧
    (e.started.isSome = true) ∧
    (e.resp = false) ∧
    (e.msg.fop ≠ 0x03#8) ∧
    (e.left = 0) ∧
    (e.msg.fop = 0x20#8) ∧
    ((∀ x ∈ b.fwu.ents, x.1 ≠ i → x.2.same e.peer e.msg e.cls = false)) ∧
    (old.1 ≠ 0)) ∧
   (let t : Time := 0
    let s : State := won fun b => b.onFwu fun f => { f with ents := [(4, { went with started := some 0, status := 5, msg := { wfar with fop := 0x20#8, flags := 2#8 } })] }
    let i : Nat := 4
    let e : ExecEnt := { went with started := some 0, status := 5, msg := { wfar with fop := 0x20#8, flags := 2#8 } }
    let b := s.blk.tick t
    let old := b.bulkRec e
    (b.worksBm 27 = true) ∧
    (AMap.get? b.fwu.ents i = some e) ∧
    (e.bad = 0) ∧
    (e.started.isSome = true) ∧
    (e.resp = false) ∧
    (e.msg.fop ≠ 0x03#8) ∧
    (e.left = 0) ∧
    (e.msg.fop = 0x20#8) ∧
    ((∀ x ∈ b.fwu.ents, x.1 ≠ i → x.2.same e.peer e.msg e.cls = false)) ∧
    (old.1 = 0) ∧
    (e.status ≠ 0)) ∧
   (let t : Time := 0
    let s : State := won fun b => b.onFwu fun f => { f with ents := [(4, { went with started := some 0, msg := { wfar with fop := 0x20#8, flags := 2#8 } })] }
    let i : Nat := 4
    let e : ExecEnt := { went with started := some 0, msg := { wfar with fop := 0x20#8, flags := 2#8 } }
    let b := s.blk.tick t
    let off := e.msg.offset.toNat
    let fin := off + e.msg.data.length
    let old := b.bulkRec e
    (b.worksBm 27 = true) ∧
    (AMap.get? b.fwu.ents i = some e) ∧
    (e.bad = 0) ∧
    (e.started.isSome = true) ∧
    (e.resp = false) ∧
    (e.msg.fop ≠ 0x03#8) ∧
    (e.left = 0) ∧
    (e.msg.fop = 0x20#8) ∧
    ((∀ x ∈ b.fwu.ents, x.1 ≠ i → x.2.same e.peer e.msg e.cls = false)) ∧
    (old = (0, off)) ∧
    (e.status = 0) ∧
    (e.msg.flags.getLsbD 1 = true ∨ fin / 0x1000000 ≠ off / 0x1000000)) ∧
   (let t : Time := 0
    let s : State := won fun b => b.onFwu fun f => { f with ents := [(4, { went with started := some 0, msg := { wfar with fop := 0x20#8 } })] }
    let i : Nat := 4
    let e : ExecEnt := { went with started := some 0, msg := { wfar with fop := 0x20#8 } }
    let b := s.blk.tick t
    let off := e.msg.offset.toNat
    let fin := off + e.msg.data.length
    let old := b.bulkRec e
    (b.worksBm 27 = true) ∧
    (AMap.get? b.fwu.ents i = some e) ∧
    (e.bad = 0) ∧
    (e.started.isSome = true) ∧
    (e.resp = false) ∧
    (e.msg.fop ≠ 0x03#8) ∧
    (e.left = 0) ∧
    (e.msg.fop = 0x20#8) ∧
    ((∀ x ∈ b.fwu.ents, x.1 ≠ i → x.2.same e.peer e.msg e.cls = false)) ∧
    (old = (0, off)) ∧
    (e.status = 0) ∧
    (e.msg.flags.getLsbD 1 = false) ∧
    (fin / 0x1000000 = off / 0x1000000)) ∧
   (let t : Time := 0
    let s : State := won fun b => b.onFwu fun f => { f with ents := [(4, { went with started := some 0, msg := { wfar with fop := 3#8 } })] }
    let i : Nat := 4
    let e : ExecEnt := { went with started := some 0, msg := { wfar with fop := 3#8 } }
    let b := s.blk.tick t
    (b.worksBm 27 = true) ∧
    (AMap.get? b.fwu.ents i = some e) ∧
    (e.started.isSome = true) ∧
    (e.msg.fop = 0x03#8) ∧
    ((∀ x ∈ b.fwu.ents, x.1 ≠ i → x.2.same e.peer e.msg e.cls = false))) ∧
   (let t : Time := 160000000000
    let s : State := won fun b => b.onFwu fun f => { f with ents := [(4, { went with msg := { wfar with streamSeq := 2#32 } })], streams := [⟨7, 0, 0, 0, 0, 5, 1, []⟩] }
    let st : FarStream := ⟨7, 0, 0, 0, 0, 5, 1, []⟩
    let b := s.blk.tick t
    (b.worksBm 27 = true) ∧
    (b.fwu.streams = [st]) ∧
    (b.heldLate st = true)) ∧
   (let t : Time := 159999999999
    let s : State := won fun b => b.onFwu fun f => { f with ents := [(4, { went with msg := { wfar with streamSeq := 2#32 } })], streams := [⟨7, 0, 0, 0, 0, 5, 1, []⟩] }
    let st : FarStream := ⟨7, 0, 0, 0, 0, 5, 1, []⟩
    let b := s.blk.tick t
    (b.worksBm 27 = true) ∧
    (b.fwu.streams = [st]) ∧
    (b.heldLate st = false)) := by
  refine ⟨?_, ?_, ?_, ?_, ?_, ?_, ?_, ?_⟩
  · decide
  · decide
  · decide
  · decide
  · decide
  · decide
  · decide
  refine ⟨?_, ?_, ?_, ?_, ?_, ?_, ?_, ?_⟩
  · decide
  · decide
  · decide
  · decide
  · decide
  · decide
  · decide
  · decide

/-- States that meet the hypotheses of `Obligations.PowerStatesAndReset`, clause by clause. -/
theorem wit_PowerStatesAndReset :
   (let t : Time := 0
    let r : Req := wq 0 0 [(16, 2)]
    let s : State := won id
    let b := Ci.taken 0x0108 r (s.blk.tick t)
    let id := (s.blk.tick t).freshId
    (Starts 0x0108 r t s b id) ∧
    (r.u 16 1 ≤ 2) ∧
    (r.u 17 7 = 0) ∧
    (r.u 24 4 = 0) ∧
    (r.u 28 4 = 0) ∧
    (r.u 32 32 = 0) ∧
    (r.u 16 1 = b.pstate)) ∧
   (let t : Time := 0
    let r : Req := wq 0 0 [(16, 1)]
    let s : State := won fun b => b.onPcr fun x => { x with trans := some (3, 1, 0) }
    let b := Ci.taken 0x0108 r (s.blk.tick t)
    let id := (s.blk.tick t).freshId
    (Starts 0x0108 r t s b id) ∧
    (r.u 16 1 ≤ 2) ∧
    (r.u 17 7 = 0) ∧
    (r.u 24 4 = 0) ∧
    (r.u 28 4 = 0) ∧
    (r.u 32 32 = 0) ∧
    (r.u 16 1 ≠ b.pstate) ∧
    (b.pcr.trans ≠ none)) ∧
   (let t : Time := 0
    let r : Req := wq 0 0 [(16, 0)]
    let s : State := won id
    let b := Ci.taken 0x0108 r (s.blk.tick t)
    let id := (s.blk.tick t).freshId
    (Starts 0x0108 r t s b id) ∧
    (r.u 16 1 ≤ 2) ∧
    (r.u 17 7 = 0) ∧
    (r.u 24 4 = 0) ∧
    (r.u 28 4 = 0) ∧
    (r.u 32 32 = 0) ∧
    (r.u 16 1 = 0) ∧
    (b.pstate ≠ 0) ∧
    (b.pcr.trans = none) ∧
    ((∀ j ∈ b.jobs, j.2.state = 2)) ∧
    (b.funcOff 0x200 = true) ∧
    (b.funcOff 0x201 = true) ∧
    (b.regN R.dbgFrozen = 0) ∧
    (b.pcr.stuck = false)) ∧
   (let t : Time := 0
    let r : Req := wq 0 1023 [(16, 1)]
    let s : State := won id
    let b := Ci.taken 0x0108 r (s.blk.tick t)
    let id := (s.blk.tick t).freshId
    (Starts 0x0108 r t s b id) ∧
    (r.u 16 1 ≤ 2) ∧
    (r.u 17 7 = 0) ∧
    (r.u 24 4 = 0) ∧
    (r.u 28 4 = 0) ∧
    (r.u 32 32 = 0) ∧
    (r.u 16 1 = 1) ∧
    (b.pstate ≠ 1) ∧
    (b.pcr.trans = none) ∧
    ((∀ j ∈ b.jobs, j.2.state = 2)) ∧
    (b.regN R.dbgFrozen = 0) ∧
    (b.pcr.stuck = false)) ∧
   (let t : Time := 0
    let r : Req := wq 0 0 [(16, 2)]
    let s : State := won fun b => b.putFld R.pcrStat 31 30 1
    let b := Ci.taken 0x0108 r (s.blk.tick t)
    let id := (s.blk.tick t).freshId
    (Starts 0x0108 r t s b id) ∧
    (r.u 16 1 ≤ 2) ∧
    (r.u 17 7 = 0) ∧
    (r.u 24 4 = 0) ∧
    (r.u 28 4 = 0) ∧
    (r.u 32 32 = 0) ∧
    (r.u 16 1 = 2) ∧
    (b.pstate ≠ 2) ∧
    (b.pcr.trans = none) ∧
    (b.pcr.stuck = false)) ∧
   (let t : Time := 0
    let s : State := won fun b => b.onPcr fun x => { x with trans := some (3, 2, 1) }
    let id : Nat := 3
    let tgt : Nat := 2
    let b := s.blk.tick t
    (b.pcr.phase = 4) ∧
    (b.pcr.trans = some (id, tgt, 1)) ∧
    ((∀ x ∈ b.pcr.ramp, x.act ≠ 0)) ∧
    ((tgt = 1 → b.fabricOff = true))) ∧
   (let t : Time := 0
    let x : ResetReq := ⟨wq 255 0 [(16, 1)], ⟨[], []⟩⟩
    let s : State := won id
    let b := Ci.taken 0x0107 x.req (s.blk.tick t)
    let id := (s.blk.tick t).freshId
    let r := x.req
    (Starts 0x0107 x.req t s b id) ∧
    (r.u 17 7 = 0) ∧
    (r.u 24 4 = 0) ∧
    (r.u 32 32 = 0) ∧
    (r.a2 = 0) ∧
    (r.u 16 1 = 1)) ∧
   (let t : Time := 0
    let x : ResetReq := ⟨wq 255 0 [(16, 2)], ⟨[], []⟩⟩
    let s : State := won id
    let b := Ci.taken 0x0107 x.req (s.blk.tick t)
    let id := (s.blk.tick t).freshId
    let r := x.req
    (Starts 0x0107 x.req t s b id) ∧
    (r.u 17 7 = 0) ∧
    (r.u 24 4 = 0) ∧
    (r.u 32 32 = 0) ∧
    (r.a2 = 0) ∧
    (r.u 16 1 = 2)) ∧
   (let t : Time := 0
    let x : ResetReq := ⟨wq 255 0 [(16, 3)], ⟨[], []⟩⟩
    let s : State := won id
    let b := Ci.taken 0x0107 x.req (s.blk.tick t)
    let id := (s.blk.tick t).freshId
    let r := x.req
    (Starts 0x0107 x.req t s b id) ∧
    (r.u 17 7 = 0) ∧
    (r.u 24 4 = 0) ∧
    (r.u 32 32 = 0) ∧
    (r.a2 = 0) ∧
    (r.u 16 1 = 3)) ∧
   (let t : Time := 0
    let x : ResetReq := ⟨wq 255 0 [(16, 4), (28, 9)], ⟨[], []⟩⟩
    let s : State := won id
    let b := Ci.taken 0x0107 x.req (s.blk.tick t)
    let id := (s.blk.tick t).freshId
    let r := x.req
    (Starts 0x0107 x.req t s b id) ∧
    (r.u 17 7 = 0) ∧
    (r.u 24 4 = 0) ∧
    (r.u 32 32 = 0) ∧
    (r.u 16 1 = 4) ∧
    ((r.a2 ≤ 3 ∨ (5 ≤ r.a2 ∧ r.a2 ≤ 9)))) := by
  refine ⟨?_, ?_, ?_, ?_, ?_, ?_, ?_, ?_⟩
  · refine ⟨⟨by decide, rfl, rfl⟩, ?_⟩
    and_intros <;> decide
  · refine ⟨⟨by decide, rfl, rfl⟩, ?_⟩
    and_intros <;> decide
  · refine ⟨⟨by decide, rfl, rfl⟩, ?_⟩
    and_intros <;> decide
  · refine ⟨⟨by decide, rfl, rfl⟩, ?_⟩
    and_intros <;> decide
  · refine ⟨⟨by decide, rfl, rfl⟩, ?_⟩
    and_intros <;> decide
  · decide
  · refine ⟨⟨by decide, rfl, rfl⟩, ?_⟩
    and_intros <;> decide
  refine ⟨?_, ?_, ?_⟩
  · refine ⟨⟨by decide, rfl, rfl⟩, ?_⟩
    and_intros <;> decide
  · refine ⟨⟨by decide, rfl, rfl⟩, ?_⟩
    and_intros <;> decide
  · refine ⟨⟨by decide, rfl, rfl⟩, ?_⟩
    and_intros <;> decide

/-- States that meet the hypotheses of `Obligations.BootAndRails`, clause by clause. -/
theorem wit_BootAndRails :
   (let t : Time := 0
    let s : State := won fun b => b.onPcr fun x => { x with phase := 0 }
    let b := s.blk.tick t
    (b.pcr.phase = 0)) ∧
   (let t : Time := 1000000000000
    let s : State := won (wstep 5)
    let k : Nat := 6
    let b := s.blk.tick t
    (b.pcr.phase = 2) ∧
    (k = (if b.fld R.pcrBootStat 7 0 = 0 then 2 else b.fld R.pcrBootStat 7 0 + 1)) ∧
    (k ≤ 10) ∧
    (b.stepLimit k < b.now)) ∧
   (let t : Time := 0
    let s : State := won (wstep 9)
    let k : Nat := 10
    let b := s.blk.tick t
    (b.pcr.phase = 2) ∧
    (k = (if b.fld R.pcrBootStat 7 0 = 0 then 2 else b.fld R.pcrBootStat 7 0 + 1)) ∧
    (k ≤ 10) ∧
    (b.now ≤ b.stepLimit k) ∧
    (k ∉ [3, 4, 7, 8])) ∧
   (let t : Time := 0
    let s : State := won (wstep 2)
    let k : Nat := 3
    let b := s.blk.tick t
    (b.pcr.phase = 2) ∧
    (k = (if b.fld R.pcrBootStat 7 0 = 0 then 2 else b.fld R.pcrBootStat 7 0 + 1)) ∧
    (k ≤ 10) ∧
    (b.now ≤ b.stepLimit k) ∧
    (k = 3) ∧
    (b.tampered = false)) ∧
   (let t : Time := 0
    let s : State := won fun b => (wstep 2 b).putBit R.secStat 29 true
    let k : Nat := 3
    let b := s.blk.tick t
    (b.pcr.phase = 2) ∧
    (k = (if b.fld R.pcrBootStat 7 0 = 0 then 2 else b.fld R.pcrBootStat 7 0 + 1)) ∧
    (k ≤ 10) ∧
    (b.now ≤ b.stepLimit k) ∧
    (k = 3) ∧
    (b.tampered = true)) ∧
   (let t : Time := 0
    let s : State := won (wstep 3)
    let x : BootIn := wboot
    let k : Nat := 4
    let b := s.blk.tick t
    (b.pcr.phase = 2) ∧
    (k = (if b.fld R.pcrBootStat 7 0 = 0 then 2 else b.fld R.pcrBootStat 7 0 + 1)) ∧
    (k ≤ 10) ∧
    (b.now ≤ b.stepLimit k) ∧
    (k = 4) ∧
    (x.sigOk = true) ∧
    (b.fld R.secFwSvn 15 0 ≤ x.svn)) ∧
   (let t : Time := 0
    let s : State := won (wstep 3)
    let x : BootIn := { wboot with sigOk := false }
    let k : Nat := 4
    let b := s.blk.tick t
    (b.pcr.phase = 2) ∧
    (k = (if b.fld R.pcrBootStat 7 0 = 0 then 2 else b.fld R.pcrBootStat 7 0 + 1)) ∧
    (k ≤ 10) ∧
    (b.now ≤ b.stepLimit k) ∧
    (k = 4) ∧
    (x.sigOk = false ∨ x.svn < b.fld R.secFwSvn 15 0)) ∧
   (let t : Time := 0
    let s : State := won fun b => { wstep 6 b with mc := { b.mc with retired := List.range 64 } }
    let x : BootIn := wboot
    let k : Nat := 7
    let b := s.blk.tick t
    let c := Boot.effect k x b
    (b.pcr.phase = 2) ∧
    (k = (if b.fld R.pcrBootStat 7 0 = 0 then 2 else b.fld R.pcrBootStat 7 0 + 1)) ∧
    (k ≤ 10) ∧
    (b.now ≤ b.stepLimit k) ∧
    (k = 7) ∧
    (64 ≤ 128 - c.mc.retired.length)) ∧
   (let t : Time := 0
    let s : State := won fun b => { wstep 6 b with mc := { b.mc with retired := List.range 65 } }
    let x : BootIn := wboot
    let k : Nat := 7
    let b := s.blk.tick t
    let c := Boot.effect k x b
    (b.pcr.phase = 2) ∧
    (k = (if b.fld R.pcrBootStat 7 0 = 0 then 2 else b.fld R.pcrBootStat 7 0 + 1)) ∧
    (k ≤ 10) ∧
    (b.now ≤ b.stepLimit k) ∧
    (k = 7) ∧
    (128 - c.mc.retired.length < 64)) ∧
   (let t : Time := 0
    let s : State := won (wstep 7)
    let x : BootIn := wboot
    let k : Nat := 8
    let b := s.blk.tick t
    (b.pcr.phase = 2) ∧
    (k = (if b.fld R.pcrBootStat 7 0 = 0 then 2 else b.fld R.pcrBootStat 7 0 + 1)) ∧
    (k ≤ 10) ∧
    (b.now ≤ b.stepLimit k) ∧
    (k = 8) ∧
    (b.pcr.wake = false ∨ Sec.m2 x.images = b.sec.m2)) ∧
   (let t : Time := 0
    let s : State := won fun b => { wstep 7 b with pcr := { (wstep 7 b).pcr with wake := true }, sec := { b.sec with m2 := [] } }
    let x : BootIn := wboot
    let k : Nat := 8
    let b := s.blk.tick t
    (b.pcr.phase = 2) ∧
    (k = (if b.fld R.pcrBootStat 7 0 = 0 then 2 else b.fld R.pcrBootStat 7 0 + 1)) ∧
    (k ≤ 10) ∧
    (b.now ≤ b.stepLimit k) ∧
    (k = 8) ∧
    (b.pcr.wake = true) ∧
    (Sec.m2 x.images ≠ b.sec.m2)) ∧
   (let t : Time := 1000000000000
    let s : State := won (wstep 1)
    let b := s.blk.tick t
    (b.pcr.phase = 2) ∧
    (1 ≤ b.fld R.pcrBootStat 7 0) ∧
    (b.stepLimit (b.fld R.pcrBootStat 7 0 + 1) ≤ b.now)) ∧
   (let t : Time := 0
    let s : State := won (wstep 9)
    let b := s.blk.tick t
    (b.pcr.phase = 2) ∧
    (1 ≤ b.fld R.pcrBootStat 7 0) ∧
    (b.now < b.stepLimit (b.fld R.pcrBootStat 7 0 + 1))) ∧
   (let t : Time := 0
    let s : State := won id
    let dur : Time := 8000
    let b := s.blk.tick t
    (8000 ≤ dur) ∧
    (b.pcr.phase = 4)) ∧
   (let dur : Time := 7999
    (dur < 8000)) ∧
   (let t : Time := 0
    let s : State := won id
    let dur : Time := 8000
    let b := s.blk.tick t
    (8000 ≤ dur) ∧
    (b.pcr.phase = 4) ∧
    (b.pcr.wake = false)) ∧
   (let t : Time := 0
    let s : State := won fun b => b.onPcr fun x => { x with phase := 7 }
    let dur : Time := 8000
    let b := s.blk.tick t
    (8000 ≤ dur) ∧
    (b.pcr.phase = 7)) ∧
   (let dur : Time := 7999
    (dur < 8000)) ∧
   (let t : Time := 0
    let s : State := won fun b => b.onPcr fun x => { x with phase := 1, good := false }
    let b := s.blk.tick t
    (b.pcr.phase = 1) ∧
    (b.pcr.good = false)) ∧
   (let t : Time := 0
    let s : State := won fun b => b.onPcr fun x => { x with phase := 5 }
    let dur : Time := 8000
    let b := s.blk.tick t
    (b.pcr.phase = 5) ∧
    (8000 ≤ dur)) ∧
   (let t : Time := 0
    let s : State := won fun b => b.onPcr fun x => { x with phase := 5 }
    let dur : Time := 7999
    let b := s.blk.tick t
    (b.pcr.phase = 5) ∧
    (dur < 8000)) ∧
   (let t : Time := 0
    let s : State := won fun b => b.onPcr fun x => { x with phase := 5 }
    let b := s.blk.tick t
    (b.pcr.phase = 5)) ∧
   (let t : Time := 400000000
    let s : State := won fun b => b.onPcr fun x => { x with phase := 6 }
    let b := s.blk.tick t
    (b.pcr.phase = 6) ∧
    (b.pcr.since + 400000000 ≤ b.now)) ∧
   (let t : Time := 399999999
    let s : State := won fun b => b.onPcr fun x => { x with phase := 6 }
    let b := s.blk.tick t
    (b.pcr.phase = 6) ∧
    (b.now < b.pcr.since + 400000000)) := by
  refine ⟨?_, ?_, ?_, ?_, ?_, ?_, ?_, ?_⟩
  · decide
  · decide
  · decide
  · decide
  · decide
  · decide
  · decide
  refine ⟨?_, ?_, ?_, ?_, ?_, ?_, ?_, ?_⟩
  · decide
  · decide
  · decide
  · decide
  · decide
  · decide
  · decide
  refine ⟨?_, ?_, ?_, ?_, ?_, ?_, ?_, ?_⟩
  · decide
  · decide
  · decide
  · decide
  · decide
  · decide
  · decide
  refine ⟨?_, ?_, ?_⟩
  · decide
  · decide
  · decide

/-- States that meet the hypotheses of `Obligations.ReferencesAndTemperature`, clause by clause. -/
theorem wit_ReferencesAndTemperature :
   (let t : Time := 0
    let s : State := won id
    let k : Nat := 5
    let x : RefCount := ⟨8000, 0, 0⟩
    let b := s.blk.tick t
    let gone := 8000 ≤ x.idle ∨ 1000 < x.ppm.natAbs
    (k ≤ 5) ∧
    (k ∉ b.pcr.lost) ∧
    (gone) ∧
    (1 ≤ k)) ∧
   (let t : Time := 0
    let s : State := won fun b => b.onPcr fun x => { x with phase := 0 }
    let k : Nat := 0
    let x : RefCount := ⟨0, -1001, 0⟩
    let b := s.blk.tick t
    let gone := 8000 ≤ x.idle ∨ 1000 < x.ppm.natAbs
    (k ≤ 5) ∧
    (k ∉ b.pcr.lost) ∧
    (gone) ∧
    (k = 0) ∧
    (b.armed = false)) ∧
   (let t : Time := 0
    let s : State := won id
    let k : Nat := 5
    let x : RefCount := ⟨7999, 1000, 0⟩
    let b := s.blk.tick t
    let gone := 8000 ≤ x.idle ∨ 1000 < x.ppm.natAbs
    (k ≤ 5) ∧
    (k ∉ b.pcr.lost) ∧
    (¬gone)) ∧
   (let t : Time := 0
    let s : State := won fun b => b.onPcr fun x => { x with lost := [5] }
    let k : Nat := 5
    let x : RefCount := ⟨7999, 200, 65536⟩
    let b := s.blk.tick t
    let stable := x.idle < 8000 ∧ x.ppm.natAbs ≤ (if k = 0 then 1000 else 200) ∧ 65536 ≤ x.cycles
    (k ∈ b.pcr.lost) ∧
    (stable)) ∧
   (let t : Time := 0
    let s : State := won fun b => b.onPcr fun x => { x with lost := [5] }
    let k : Nat := 5
    let x : RefCount := ⟨0, 201, 65536⟩
    let b := s.blk.tick t
    let stable := x.idle < 8000 ∧ x.ppm.natAbs ≤ (if k = 0 then 1000 else 200) ∧ 65536 ≤ x.cycles
    (k ∈ b.pcr.lost) ∧
    (¬stable)) ∧
   (let t : Time := 0
    let s : State := won id
    let b := s.blk.tick t
    (b.sensing = true)) ∧
   (let t : Time := 0
    let s : State := State.reset
    let b := s.blk.tick t
    (b.sensing = false)) ∧
   (let t : Time := 800000
    let s : State := won fun b => b.onPcr fun x => { x with hotTrip := some 0 }
    let t0 : Time := 0
    let b := s.blk.tick t
    (b.sensing = true) ∧
    (b.pcr.hotTrip = some t0) ∧
    (t0 + 800000 ≤ b.now)) ∧
   (let t : Time := 799999
    let s : State := won fun b => b.onPcr fun x => { x with hotTrip := some 0 }
    let t0 : Time := 0
    let b := s.blk.tick t
    (b.sensing = true) ∧
    (b.pcr.hotTrip = some t0) ∧
    (b.now < t0 + 800000)) := by
  refine ⟨?_, ?_, ?_, ?_, ?_, ?_, ?_, ?_⟩
  · decide
  · decide
  · decide
  · decide
  · decide
  · decide
  · decide
  refine ⟨?_, ?_⟩
  · decide
  · decide

/-- States that meet the hypotheses of `Obligations.EnergyAndLoops`, clause by clause. -/
theorem wit_EnergyAndLoops :
   (let t : Time := 0
    let s : State := won id
    let b := s.blk.tick t
    (b.pcr.phase = 4 ∨ b.pcr.phase = 5)) ∧
   (let b : Block := Block.init
    (b.pstate ≠ 2)) ∧
   (let t : Time := 0
    let s : State := won fun b => b.onPcr fun y => { y with ramp := [⟨36, 0, 1⟩] }
    let x : RampStep := ⟨36, 0, 1⟩
    let rest : List RampStep := []
    let b := s.blk.tick t
    (b.pcr.phase = 4) ∧
    (b.pcr.ramp = x :: rest) ∧
    (x.amps ≠ 0) ∧
    (b.rampRoom x.amps = x.amps) ∧
    (x.act < 2)) ∧
   (let t : Time := 0
    let s : State := won fun b => b.onPcr fun y => { y with ramp := [⟨36, 0, 2⟩] }
    let x : RampStep := ⟨36, 0, 2⟩
    let rest : List RampStep := []
    let b := s.blk.tick t
    (b.pcr.phase = 4) ∧
    (b.pcr.ramp = x :: rest) ∧
    (x.amps ≠ 0) ∧
    (b.rampRoom x.amps = x.amps) ∧
    (2 ≤ x.act)) ∧
   (let t : Time := 0
    let s : State := won fun b => b.putN R.pcrVcore 700
    let target : Nat := 780
    let b := s.blk.tick t
    let bnd := b.bounds R.pcrBndAvs
    let cur : Int := b.regN R.pcrVcore
    (b.pcr.phase = 4) ∧
    (b.cpOut 5 = false) ∧
    (b.pcr.alert = false) ∧
    (b.pcr.ramp = []) ∧
    (cur ≠ 0) ∧
    (bnd.1 ≤ (target : Int)) ∧
    ((target : Int) ≤ bnd.2)) ∧
   (let t : Time := 0
    let s : State := won fun b => b.onPcr fun x => { x with alert := true }
    let b := s.blk.tick t
    (b.pcr.phase = 4) ∧
    (b.cpOut 5 = false) ∧
    (b.pcr.alert = true)) := by
  refine ⟨?_, ?_, ?_, ?_, ?_, ?_⟩
  · decide
  · decide
  · decide
  · decide
  · decide
  · decide

/-- States that meet the hypotheses of `Obligations.CollectiveObjects`, clause by clause. -/
theorem wit_CollectiveObjects :
   (let t : Time := 0
    let r : Req := wq 0 5 [(24, 64)]
    let s : State := won fun b => wmem [(1, 2, 0x0101), (18, 2, 1)] (wjob b)
    let b := Ci.taken 0x0401 r (s.blk.tick t)
    let id := (s.blk.tick t).freshId
    let h : Nat := 0
    let c := b.readCount r.a0 64
    (Starts 0x0401 r t s b id) ∧
    (r.a0 % 64 = 0) ∧
    (r.a0 + 64 ≤ 0x6000000000) ∧
    (r.a1 = 64) ∧
    (r.u 28 4 = 0) ∧
    (r.u 32 32 = 0) ∧
    (c.treeBad r.a0 = none) ∧
    (AMap.freeKey c.ce.trees 0 8192 = some h)) ∧
   (let t : Time := 0
    let r : Req := wq 0 5 [(24, 336), (28, 0xFFFFFFFF)]
    let s : State := won fun b => wmem [(0, 4, 0x010101), (80, 4, 0xFC000000)] (wjob b)
    let b := Ci.taken 0x0404 r (s.blk.tick t)
    let id := (s.blk.tick t).freshId
    let h : Nat := 0
    let c := b.readCount r.a0 r.a1
    (Starts 0x0404 r t s b id) ∧
    (r.a0 % 64 = 0) ∧
    (r.a0 + r.a1 ≤ 0x6000000000) ∧
    (r.a1 = 336 ∨ r.a1 = 4432) ∧
    (r.u 32 32 = 0) ∧
    (c.combBad r.a0 r.a1 = none) ∧
    (r.a2 = 0xFFFFFFFF) ∧
    (c.d r.a0 1 1 ≠ 0) ∧
    (AMap.freeKey c.ce.progs 0 256 = some h)) ∧
   (let t : Time := 0
    let r : Req := wq 0 5 [(24, 336)]
    let s : State := won fun b => wmem [(0, 4, 0x010101), (80, 4, 0xFC000000)] { wjob b with ce := { b.ce with progs := [(0, ⟨5, [], [], [], []⟩)] } }
    let b := Ci.taken 0x0404 r (s.blk.tick t)
    let id := (s.blk.tick t).freshId
    let c := b.readCount r.a0 r.a1
    let p := ⟨5, [], [], [], []⟩
    (Starts 0x0404 r t s b id) ∧
    (r.a0 % 64 = 0) ∧
    (r.a0 + r.a1 ≤ 0x6000000000) ∧
    (r.a1 = 336 ∨ r.a1 = 4432) ∧
    (r.u 32 32 = 0) ∧
    (c.combBad r.a0 r.a1 = none) ∧
    (r.a2 ≠ 0xFFFFFFFF) ∧
    (AMap.get? c.ce.progs r.a2 = some p) ∧
    (p.job = c.cmdJob r) ∧
    ((∀ e ∈ c.ce.colls, e.2.comb ≠ some r.a2)) ∧
    (c.d r.a0 1 1 ≠ 0)) ∧
   (let t : Time := 0
    let r : Req := wq 0 5 [(24, 336)]
    let s : State := won fun b => wmem [(0, 4, 1)] { wjob b with ce := { b.ce with progs := [(0, ⟨5, [], [], [], []⟩)] } }
    let b := Ci.taken 0x0404 r (s.blk.tick t)
    let id := (s.blk.tick t).freshId
    let c := b.readCount r.a0 r.a1
    let p := ⟨5, [], [], [], []⟩
    (Starts 0x0404 r t s b id) ∧
    (r.a0 % 64 = 0) ∧
    (r.a0 + r.a1 ≤ 0x6000000000) ∧
    (r.a1 = 336 ∨ r.a1 = 4432) ∧
    (r.u 32 32 = 0) ∧
    (c.combBad r.a0 r.a1 = none) ∧
    (r.a2 ≠ 0xFFFFFFFF) ∧
    (AMap.get? c.ce.progs r.a2 = some p) ∧
    (p.job = c.cmdJob r) ∧
    ((∀ e ∈ c.ce.colls, e.2.comb ≠ some r.a2)) ∧
    (c.d r.a0 1 1 = 0)) ∧
   (let t : Time := 0
    let r : Req := wq 0 5 [(32, 1), (40, 3)]
    let s : State := won wjob
    let b := Ci.taken 0x0406 r (s.blk.tick t)
    let id := (s.blk.tick t).freshId
    let a : Nat := ((Ci.taken 0x0406 r (s.blk.tick t)).residPlace (Resid.bytes 8 1 3)).getD 0
    let h : Nat := 0
    let elems := r.u 32 8
    let bits := if (b.job (b.cmdJob r)).wide then 16 else 8
    let n := Resid.bytes bits elems (r.u 40 1)
    (Starts 0x0406 r t s b id) ∧
    (r.u 16 8 = 0) ∧
    (r.u 24 4 = 0) ∧
    (r.u 28 4 = 0) ∧
    (elems ≠ 0) ∧
    (elems ≤ 2 ^ 40) ∧
    (1 ≤ r.u 40 1) ∧
    (r.u 40 1 ≤ 3) ∧
    (r.u 41 23 = 0) ∧
    (b.residBytes + n ≤ b.bm.residGib * 2 ^ 30) ∧
    (32 * 2 ^ 30 + b.memLost * frameB ≤ b.stagingSize) ∧
    (b.residPlace n = some a) ∧
    (AMap.freeKey b.ce.resids 0 (2 ^ 32 - 1) = some h)) ∧
   (let t : Time := 0
    let r : Req := wq 0 5 [(28, 4)]
    let s : State := won fun b => { wjob b with ce := { b.ce with resids := [(4, ⟨5, 1, 1, 8, 0x1000, 4096⟩)] } }
    let b := Ci.taken 0x0407 r (s.blk.tick t)
    let id := (s.blk.tick t).freshId
    let x : Resid := ⟨5, 1, 1, 8, 0x1000, 4096⟩
    (Starts 0x0407 r t s b id) ∧
    (r.u 16 8 = 0) ∧
    (r.u 24 4 = 0) ∧
    (r.u 32 32 = 0) ∧
    (AMap.get? b.ce.resids r.a2 = some x) ∧
    (x.job = b.cmdJob r) ∧
    ((∀ e ∈ b.ce.colls, e.2.resid ≠ some r.a2))) ∧
   (let t : Time := 0
    let r : Req := wq 0 5 [(28, 2)]
    let s : State := wcol id
    let b := Ci.taken 0x0405 r (s.blk.tick t)
    let id := (s.blk.tick t).freshId
    let c := wcoll
    (Starts 0x0405 r t s b id) ∧
    (r.u 16 8 = 0) ∧
    (r.u 24 4 = 0) ∧
    (r.a2 < 4096) ∧
    (r.u 32 32 = 0) ∧
    (b.coll (Coll.keyOf (b.cmdJob r) r.a2) = some c)) ∧
   (let t : Time := 0
    let r : Req := wq 0 5 [(28, 4095)]
    let s : State := won wjob
    let b := Ci.taken 0x0405 r (s.blk.tick t)
    let id := (s.blk.tick t).freshId
    (Starts 0x0405 r t s b id) ∧
    (r.u 16 8 = 0) ∧
    (r.u 24 4 = 0) ∧
    (r.a2 < 4096) ∧
    (r.u 32 32 = 0) ∧
    (b.coll (Coll.keyOf (b.cmdJob r) r.a2) = none) ∧
    (AMap.get? b.ce.fin (Coll.keyOf (b.cmdJob r) r.a2) = none)) ∧
   (let t : Time := 0
    let r : Req := wq 0 5 [(16, 0x5FFFFFFF80), (24, 128), (28, 2)]
    let s : State := won fun b => { wjob b with ce := { b.ce with stats := [(20482, CollStats.zero)] } }
    let b := Ci.taken 0x0903 r (s.blk.tick t)
    let id := (s.blk.tick t).freshId
    let x : CollStats := CollStats.zero
    (Starts 0x0903 r t s b id) ∧
    (r.a0 % 64 = 0) ∧
    (r.a0 + r.a1 ≤ 0x6000000000) ∧
    (128 ≤ r.a1) ∧
    (r.a2 < 4096) ∧
    (r.u 32 32 = 0) ∧
    (b.coll (Coll.keyOf (b.cmdJob r) r.a2) = none) ∧
    (AMap.get? b.ce.stats (Coll.keyOf (b.cmdJob r) r.a2) = some x)) := by
  refine ⟨?_, ?_, ?_, ?_, ?_, ?_, ?_, ?_⟩
  · refine ⟨⟨by decide, rfl, rfl⟩, ?_⟩
    and_intros <;> decide
  · refine ⟨⟨by decide, rfl, rfl⟩, ?_⟩
    and_intros <;> decide
  · refine ⟨⟨by decide, rfl, rfl⟩, ?_⟩
    and_intros <;> decide
  · refine ⟨⟨by decide, rfl, rfl⟩, ?_⟩
    and_intros <;> decide
  · refine ⟨⟨by decide, rfl, rfl⟩, ?_⟩
    and_intros <;> decide
  · refine ⟨⟨by decide, rfl, rfl⟩, ?_⟩
    and_intros <;> decide
  · refine ⟨⟨by decide, rfl, rfl⟩, ?_⟩
    and_intros <;> decide
  refine ⟨?_, ?_⟩
  · refine ⟨⟨by decide, rfl, rfl⟩, ?_⟩
    and_intros <;> decide
  · refine ⟨⟨by decide, rfl, rfl⟩, ?_⟩
    and_intros <;> decide

/-- States that meet the hypotheses of `Obligations.CollectivesRun`, clause by clause. -/
theorem wit_CollectivesRun :
   (let t : Time := 0
    let r : Req := wq 0 5 [(24, 128), (28, 2)]
    let s : State := won fun b => wmem [(0, 8, 0xA001001010001), (8, 8, 1024), (20, 4, 1), (24, 4, 1), (40, 8, 0xFFFFFFFFFFFFFFFF)] { (wjob b).onFif (fun f => { f with masks := [(0, ⟨5, 1, true, []⟩)] }) with ce := { b.ce with trees := [(0, { wtree with dir := 0, parent := 0 }), (1, wtree)] } }
    let b := Ci.taken 0x0402 r (s.blk.tick t)
    let id := (s.blk.tick t).freshId
    let d := b.readCount r.a0 128
    let job := d.cmdJob r
    let key := Coll.keyOf job r.a2
    let c := d.collDesc id r
    (Starts 0x0402 r t s b id) ∧
    (r.a0 % 64 = 0) ∧
    (r.a0 + 128 ≤ 0x6000000000) ∧
    (r.a1 = 128) ∧
    (r.a2 < 4096) ∧
    (r.u 32 1 < 8) ∧
    (r.u 33 3 = 0) ∧
    (r.u 40 24 = 0) ∧
    (d.collBad r.a0 job = none) ∧
    (d.coll key = none) ∧
    ((∀ e ∈ d.ce.colls, c.resid = none ∨ e.2.resid ≠ c.resid)) ∧
    (d.ce.colls.length < 4096)) ∧
   (let t : Time := 0
    let r : Req := wq 0 5 [(28, 2)]
    let s : State := wcol id
    let b := Ci.taken 0x0403 r (s.blk.tick t)
    let id := (s.blk.tick t).freshId
    let c : Coll := wcoll
    let key := Coll.keyOf (b.cmdJob r) r.a2
    (Starts 0x0403 r t s b id) ∧
    (r.u 16 8 = 0) ∧
    (r.u 24 4 = 0) ∧
    (r.a2 < 4096) ∧
    (r.u 32 32 = 0) ∧
    (b.coll key = some c) ∧
    (c.state ≠ 2)) ∧
   (let t : Time := 0
    let r : Req := wq 0 5 [(28, 2)]
    let s : State := wcol fun c => { c with state := 2 }
    let b := Ci.taken 0x0403 r (s.blk.tick t)
    let id := (s.blk.tick t).freshId
    let c : Coll := { wcoll with state := 2 }
    let key := Coll.keyOf (b.cmdJob r) r.a2
    (Starts 0x0403 r t s b id) ∧
    (r.u 16 8 = 0) ∧
    (r.u 24 4 = 0) ∧
    (r.a2 < 4096) ∧
    (r.u 32 32 = 0) ∧
    (b.coll key = some c) ∧
    (c.state = 2)) ∧
   (let t : Time := 0
    let s : State := wcol fun c => { c with state := 2 }
    let key : Nat := 20482
    let c : Coll := { wcoll with state := 2 }
    let b := s.blk.tick t
    (b.worksBm 28 = true) ∧
    (b.coll key = some c) ∧
    (c.state = 2) ∧
    (b.unacked c.id = false) ∧
    ((∀ k ∈ c.awaits, AMap.get? c.told k = some (if k = 0 then c.digA else c.digB)))) ∧
   (let t : Time := 0
    let s : State := won fun b => { wcb { wcoll with state := 2 } b with outq := [⟨0, 7, .coll wcm, some 3, 0, none, none, none⟩] }
    let key : Nat := 20482
    let c : Coll := { wcoll with state := 2 }
    let b := s.blk.tick t
    (b.worksBm 28 = true) ∧
    (b.coll key = some c) ∧
    (c.state = 2) ∧
    (b.unacked c.id = true)) ∧
   (let t : Time := 0
    let s : State := won fun b => b.onFif fun f => { f with got := [{ wp with opcode := 0x20#8 }] }
    let sel : Nat := 0
    let p : FabPkt := { wp with opcode := 0x20#8 }
    let b := s.blk.tick t
    let b' := b.dupChunk
    (b.worksBm 28 = true) ∧
    (b.pickGot sel (fun p => p.opcode == 0x20#8) = some p) ∧
    (b.ce.wait.any (Chunk.same p) = false) ∧
    (b.tilePut p = some b')) ∧
   (let t : Time := 0
    let s : State := won fun b => { (b.onFif fun f => { f with got := [{ wp with opcode := 0x20#8 }] }) with ce := { b.ce with wait := [wp] } }
    let sel : Nat := 0
    let p : FabPkt := { wp with opcode := 0x20#8 }
    let b := s.blk.tick t
    (b.worksBm 28 = true) ∧
    (b.pickGot sel (fun p => p.opcode == 0x20#8) = some p) ∧
    (b.ce.wait.any (Chunk.same p) = true ∨ b.tilePut p = none)) ∧
   (let t : Time := 0
    let s : State := won fun b => { b with ce := { b.ce with wait := [wp] } }
    let p : FabPkt := wp
    let ps : List FabPkt := []
    let b' : Block := (s.blk.tick t).dupChunk
    let b := s.blk.tick t
    (b.worksBm 28 = true) ∧
    (b.ce.wait = p :: ps) ∧
    (b.tilePut p = some b')) ∧
   (let t : Time := 0
    let s : State := won fun b => { b with ce := { b.ce with items := [⟨20482, 1, 0, 0, [], 0, 0, 0, 1000⟩] } }
    let i : CeItem := ⟨20482, 1, 0, 0, [], 0, 0, 0, 1000⟩
    let b := s.blk.tick t
    let cost := Ce.cost (b.itemBytes i) (b.ce.cost % 2 ^ 16)
    (b.worksBm 28 = true) ∧
    (b.ce.items = [i]) ∧
    (i.prio ≤ 7) ∧
    (b.engStopped (i.coll / 4096) 3 = false) ∧
    ((b.ce.half = none ∨ b.wideUp i ≠ b.ce.half)) ∧
    (Edge.kind i.edge ≠ 1) ∧
    (cost ≤ b.ce.tok + i.saved)) ∧
   (let t : Time := 0
    let s : State := won fun b => { b with ce := { b.ce with items := [⟨20482, 1, 0, 0x40050007, [], 0, 0, 0, 1000000⟩] } }
    let i : CeItem := ⟨20482, 1, 0, 0x40050007, [], 0, 0, 0, 1000000⟩
    let b := s.blk.tick t
    let cost := Ce.cost (b.itemBytes i) (b.ce.cost % 2 ^ 16)
    let both := if b.cxForced then cost else Ce.cost (b.itemBytes i) (b.ce.cost % 2 ^ 16 + b.ce.cost / 2 ^ 16)
    let lane := 0
    (b.worksBm 28 = true) ∧
    (b.ce.items = [i]) ∧
    (i.prio ≤ 7) ∧
    (b.engStopped (i.coll / 4096) 3 = false) ∧
    ((b.ce.half = none ∨ b.wideUp i ≠ b.ce.half)) ∧
    (Edge.kind i.edge = 1) ∧
    (b.admitLane (b.itemBytes i) = some lane) ∧
    (both ≤ b.ce.tok + i.saved)) := by
  refine ⟨?_, ?_, ?_, ?_, ?_, ?_, ?_, ?_⟩
  · refine ⟨⟨by decide, rfl, rfl⟩, ?_⟩
    and_intros <;> decide
  · refine ⟨⟨by decide, rfl, rfl⟩, ?_⟩
    and_intros <;> decide
  · refine ⟨⟨by decide, rfl, rfl⟩, ?_⟩
    and_intros <;> decide
  · decide
  · decide
  · decide
  · decide
  refine ⟨?_, ?_, ?_⟩
  · decide
  · decide
  · decide

/-- States that meet the hypotheses of `Obligations.CollectiveEventsAndAllToAll`, clause by clause. -/
theorem wit_CollectiveEventsAndAllToAll :
   (let t : Time := 0
    let s : State := won fun b => { b with inbox := [wi (.coll wcm)] }
    let sel : Nat := 0
    let x : InMsg := wi (.coll wcm)
    let m : CollMsg := wcm
    let b := s.blk.tick t
    let b' := ((s.blk.tick t).lineTile x m).getD wup
    (b.worksBm 28 = true) ∧
    (b.pickIn sel InMsg.collData = some x) ∧
    (x.msg = .coll m) ∧
    (b.lineTile x m = some b')) ∧
   (let t : Time := 0
    let s : State := won fun b => { wcb { wcoll with elems := 2048, tiles := [], trees := [{ wtree with children := [(0x40050009, 2)] }], split := 2 } b with inbox := [wi (.coll { wcm with tile := 1 })] }
    let sel : Nat := 0
    let x : InMsg := wi (.coll { wcm with tile := 1 })
    let m : CollMsg := { wcm with tile := 1 }
    let b := s.blk.tick t
    (b.worksBm 28 = true) ∧
    (b.pickIn sel InMsg.collData = some x) ∧
    (x.msg = .coll m) ∧
    (b.lineTile x m = none)) ∧
   (let t : Time := 0
    let s : State := won id
    let b := s.blk.tick t
    (b.worksBm 28 = true)) ∧
   (let t : Time := 0
    let s : State := won fun b => { wcb wcoll b with inbox := [wi (.coll { wcm with ckind := 5 })] }
    let src : EdgeMsg := .line 0
    let key : Nat := 20482
    let c : Coll := wcoll
    let m : CollMsg := { wcm with ckind := 5 }
    let line : Bool := true
    let who : Nat := 7
    let b := s.blk.tick t
    let k := m.flags.toNat % 2
    let o := .parent
    (b.worksBm 28 = true) ∧
    (b.collSrc src 5 = some (key, c, m, line, who)) ∧
    ((c.tree k).origin line who = some o)) ∧
   (let t : Time := 0
    let s : State := won fun b => { wcb wcoll b with inbox := [wi (.coll { wcm with ckind := 6 })] }
    let src : EdgeMsg := .line 0
    let key : Nat := 20482
    let c : Coll := wcoll
    let m : CollMsg := { wcm with ckind := 6 }
    let line : Bool := true
    let who : Nat := 7
    let b := s.blk.tick t
    (b.worksBm 28 = true) ∧
    (b.collSrc src 6 = some (key, c, m, line, who))) ∧
   (let t : Time := 1
    let s : State := won (wcb { wcoll with state := 2, flags := 4, trees := [{ wtree with rootSite := 1 }] })
    let key : Nat := 20482
    let c : Coll := { wcoll with state := 2, flags := 4, trees := [{ wtree with rootSite := 1 }] }
    let b := s.blk.tick t
    (b.worksBm 28 = true) ∧
    (b.ce.colls = [(key, c)]) ∧
    (c.state = 2) ∧
    (c.latest < b.now) ∧
    ((∃ k ∈ c.awaits, AMap.get? c.told k = none))) ∧
   (let t : Time := 9
    let s : State := won (wcb { wcoll with tiles := [(0, { TileCtx.init 0 none with deadline := some 9 })] })
    let key : Nat := 20482
    let c : Coll := { wcoll with tiles := [(0, { TileCtx.init 0 none with deadline := some 9 })] }
    let b := s.blk.tick t
    let tile := 0
    let x := { TileCtx.init 0 none with deadline := some 9 }
    (b.worksBm 28 = true) ∧
    (b.ce.colls = [(key, c)]) ∧
    (c.late b.now = some (tile, x)) ∧
    ((∀ g ∈ b.waitsOn key c tile x, g ∉ b.noPath))) ∧
   (let t : Time := 9
    let s : State := won fun b => { (wcb { wcoll with tiles := [(0, { TileCtx.init 0 none with deadline := some 9 })] } b) with noPath := [7] }
    let key : Nat := 20482
    let c : Coll := { wcoll with tiles := [(0, { TileCtx.init 0 none with deadline := some 9 })] }
    let b := s.blk.tick t
    let tile := 0
    let x := { TileCtx.init 0 none with deadline := some 9 }
    let g := 7
    (b.worksBm 28 = true) ∧
    (b.ce.colls = [(key, c)]) ∧
    (c.late b.now = some (tile, x)) ∧
    ((b.waitsOn key c tile x).find? (b.noPath.contains ·) = some g)) ∧
   (let t : Time := 0
    let s : State := wcol id
    let key : Nat := 20482
    let c : Coll := wcoll
    let b := s.blk.tick t
    (b.worksBm 28 = true) ∧
    (b.ce.colls = [(key, c)]) ∧
    (c.late b.now = none) ∧
    (c.localMs = 0)) ∧
   (let t : Time := 0
    let s : State := won id
    let b := s.blk.tick t
    (b.worksBm 28 = true) ∧
    (b.pageableTiles = [])) ∧
   (let t : Time := 0
    let s : State := won fun b => (wcb { wcoll with tiles := [(0, { TileCtx.init 0 none with waitAt := some 0 })] } b).putN R.cePageCtl 0
    let b := s.blk.tick t
    let since := 0
    let key := 20482
    let tile := 0
    (b.worksBm 28 = true) ∧
    (b.pageableTiles = [(since, key, tile)]) ∧
    (b.fld R.cePageCtl 23 16 * 4096 < b.tileOnChip)) ∧
   (let t : Time := 0
    let s : State := won (wcb { wcoll with tiles := [(16777215, { TileCtx.init 0 none with paged := true })] })
    let key : Nat := 20482
    let tile : Nat := 16777215
    let c : Coll := { wcoll with tiles := [(16777215, { TileCtx.init 0 none with paged := true })] }
    let x : TileCtx := { TileCtx.init 0 none with paged := true }
    let b := s.blk.tick t
    let d := b.bump64 R.cePageinLo 1
    (b.worksBm 28 = true) ∧
    (tile < 2 ^ 24) ∧
    (b.coll key = some c) ∧
    (AMap.get? c.tiles tile = some x) ∧
    (x.paged = true) ∧
    (d.rangePoison (Ce.home x.ix) 256 = false)) ∧
   (let t : Time := 0
    let s : State := won fun b => (wcb wa2a b).onFif fun f => { f with got := [{ wp with opcode := 0x22#8, addr := 0x2000000000#48 }] }
    let sel : Nat := 0
    let p : FabPkt := { wp with opcode := 0x22#8, addr := 0x2000000000#48 }
    let c : Coll := wa2a
    let a : A2a := ⟨1, 8, [1], [2 ^ 63], [0], [0], [], [], [], [], []⟩
    let b := s.blk.tick t
    let key := Coll.keyOf p.job.toNat (p.addr.toNat / 2 ^ 36)
    (b.worksBm 28 = true) ∧
    (b.pickGot sel (fun p => p.opcode == 0x22#8) = some p) ∧
    (b.coll key = some c) ∧
    (c.a2a = some a) ∧
    (p.srcRank.toNat ∈ c.contrib) ∧
    (a.siteOf p.tag.toNat = some b.site)) ∧
   (let t : Time := 0
    let s : State := won fun b => (wcb wa2 b).onFif fun f => { f with got := [{ wp with opcode := 0x22#8, tag := 9, addr := 0x2000000000#48 }] }
    let sel : Nat := 0
    let p : FabPkt := { wp with opcode := 0x22#8, tag := 9, addr := 0x2000000000#48 }
    let c : Coll := wa2
    let a : A2a := wx2
    let b := s.blk.tick t
    let key := Coll.keyOf p.job.toNat (p.addr.toNat / 2 ^ 36)
    let site := 1
    let sent := b.a2aSend key c (a.route.getD site 0) p.tag.toNat p.srcRank.toNat (p.addr.toNat % 2 ^ 36) p.payload none
    let d := sent.getD wup
    (b.worksBm 28 = true) ∧
    (b.pickGot sel (fun p => p.opcode == 0x22#8) = some p) ∧
    (b.coll key = some c) ∧
    (c.a2a = some a) ∧
    (p.srcRank.toNat ∈ c.contrib) ∧
    (a.siteOf p.tag.toNat = some site) ∧
    (site ≠ b.site) ∧
    (sent = some d)) ∧
   (let t : Time := 0
    let s : State := won fun b => ((wcb wa2 b).putN R.cxQlimit 0).onFif fun f => { f with got := [{ wp with opcode := 0x22#8, tag := 9, addr := 0x2000000000#48, payload := [1] }] }
    let sel : Nat := 0
    let p : FabPkt := { wp with opcode := 0x22#8, tag := 9, addr := 0x2000000000#48, payload := [1] }
    let c : Coll := wa2
    let a : A2a := wx2
    let b := s.blk.tick t
    let key := Coll.keyOf p.job.toNat (p.addr.toNat / 2 ^ 36)
    let site := 1
    let sent := b.a2aSend key c (a.route.getD site 0) p.tag.toNat p.srcRank.toNat (p.addr.toNat % 2 ^ 36) p.payload none
    (b.worksBm 28 = true) ∧
    (b.pickGot sel (fun p => p.opcode == 0x22#8) = some p) ∧
    (b.coll key = some c) ∧
    (c.a2a = some a) ∧
    (p.srcRank.toNat ∈ c.contrib) ∧
    (a.siteOf p.tag.toNat = some site) ∧
    (site ≠ b.site) ∧
    (sent = none)) ∧
   (let t : Time := 0
    let s : State := won fun b => { wcb wa2a b with inbox := [wi (.coll { wcm with ckind := 3 })] }
    let src : EdgeMsg := .line 0
    let key : Nat := 20482
    let c : Coll := wa2a
    let m : CollMsg := { wcm with ckind := 3 }
    let line : Bool := true
    let who : Nat := 7
    let a : A2a := ⟨1, 8, [1], [2 ^ 63], [0], [0], [], [], [], [], []⟩
    let b := s.blk.tick t
    let dst := m.aux.toNat % 2 ^ 24
    let from_ := m.aux.toNat / 2 ^ 24 % 2 ^ 24
    let o := 0
    (b.worksBm 28 = true) ∧
    (b.collSrc src 3 = some (key, c, m, line, who)) ∧
    (c.a2a = some a) ∧
    (a.siteOf dst = some b.site) ∧
    (a.siteOf from_ = some o)) ∧
   (let t : Time := 0
    let s : State := won fun b => { wcb wa2 b with inbox := [wi (.coll { wcm with ckind := 3, aux := 9 })] }
    let src : EdgeMsg := .line 0
    let key : Nat := 20482
    let c : Coll := wa2
    let m : CollMsg := { wcm with ckind := 3, aux := 9 }
    let line : Bool := true
    let who : Nat := 7
    let a : A2a := wx2
    let b := s.blk.tick t
    let off := m.tile.toNat + m.elems.toNat * 2 ^ 32
    let dst := m.aux.toNat % 2 ^ 24
    let from_ := m.aux.toNat / 2 ^ 24 % 2 ^ 24
    let site := 1
    let sent := b.a2aSend key c (a.route.getD site 0) dst from_ off m.body (b.srcBuf src)
    let d := sent.getD wup
    (b.worksBm 28 = true) ∧
    (b.collSrc src 3 = some (key, c, m, line, who)) ∧
    (c.a2a = some a) ∧
    (a.siteOf dst = some site) ∧
    (site ≠ b.site) ∧
    (sent = some d)) ∧
   (let t : Time := 0
    let s : State := won fun b => { ((wcb wa2 b).putN R.cxQlimit 0) with inbox := [wi (.coll { wcm with ckind := 3, aux := 9, body := [1] })] }
    let src : EdgeMsg := .line 0
    let key : Nat := 20482
    let c : Coll := wa2
    let m : CollMsg := { wcm with ckind := 3, aux := 9, body := [1] }
    let line : Bool := true
    let who : Nat := 7
    let a : A2a := wx2
    let b := s.blk.tick t
    let off := m.tile.toNat + m.elems.toNat * 2 ^ 32
    let dst := m.aux.toNat % 2 ^ 24
    let from_ := m.aux.toNat / 2 ^ 24 % 2 ^ 24
    let site := 1
    let sent := b.a2aSend key c (a.route.getD site 0) dst from_ off m.body (b.srcBuf src)
    (b.worksBm 28 = true) ∧
    (b.collSrc src 3 = some (key, c, m, line, who)) ∧
    (c.a2a = some a) ∧
    (a.siteOf dst = some site) ∧
    (site ≠ b.site) ∧
    (sent = none)) ∧
   (let t : Time := 0
    let s : State := won fun b => { wcb wa2 b with inbox := [wi (.coll { wcm with ckind := 4, tile := 0 })] }
    let src : EdgeMsg := .line 0
    let key : Nat := 20482
    let c : Coll := wa2
    let m : CollMsg := { wcm with ckind := 4, tile := 0 }
    let line : Bool := true
    let who : Nat := 7
    let a : A2a := wx2
    let b := s.blk.tick t
    let d := b.takeSrc src 4
    let site := m.tile.toNat % 16
    (b.worksBm 28 = true) ∧
    (b.collSrc src 4 = some (key, c, m, line, who)) ∧
    (c.a2a = some a) ∧
    (site = d.site)) ∧
   (let t : Time := 0
    let s : State := won fun b => { wcb wa2 b with inbox := [wi (.coll { wcm with ckind := 4, tile := 1 })] }
    let src : EdgeMsg := .line 0
    let key : Nat := 20482
    let c : Coll := wa2
    let m : CollMsg := { wcm with ckind := 4, tile := 1 }
    let line : Bool := true
    let who : Nat := 7
    let a : A2a := wx2
    let b := s.blk.tick t
    let d := b.takeSrc src 4
    let site := m.tile.toNat % 16
    (b.worksBm 28 = true) ∧
    (b.collSrc src 4 = some (key, c, m, line, who)) ∧
    (c.a2a = some a) ∧
    (site ≠ d.site)) := by
  refine ⟨?_, ?_, ?_, ?_, ?_, ?_, ?_, ?_⟩
  · decide
  · decide
  · decide
  · decide
  · decide
  · decide
  · decide
  refine ⟨?_, ?_, ?_, ?_, ?_, ?_, ?_, ?_⟩
  · decide
  · decide
  · exact ⟨by decide, show List.mergeSort [] _ = [] from List.mergeSort_nil⟩
  · exact ⟨by decide, show List.mergeSort [(0, 20482, 0)] _ = _ from List.mergeSort_singleton _, by decide⟩
  · decide
  · decide
  · decide
  refine ⟨?_, ?_, ?_, ?_, ?_, ?_⟩
  · decide
  · decide
  · decide
  · decide
  · decide
  · decide

/-- States that meet the hypotheses of `Obligations.CompressionRuns`, clause by clause. -/
theorem wit_CompressionRuns :
   (let t : Time := 0
    let s : State := won fun b => b.setLane 31 ⟨[wcx], []⟩
    let l : Nat := 31
    let h : Nat := (((s.blk.tick t).takeQueued (Cx.outBytes wcx.raw.length) (Own.of wcx.job 4) ((s.blk.tick t).cxQueue wcx) (wcx.hdr.ckind != 3#8)).getD (wup, 0)).2
    let x : CxIn := wcx
    let rest : List CxIn := []
    let c : Block := (((s.blk.tick t).takeQueued (Cx.outBytes wcx.raw.length) (Own.of wcx.job 4) ((s.blk.tick t).cxQueue wcx) (wcx.hdr.ckind != 3#8)).getD (wup, 0)).1
    let b := s.blk.tick t
    (b.worksBm 29 = true) ∧
    (l < 32) ∧
    ((b.lane l).queue = x :: rest) ∧
    (b.engStopped x.job 4 = false) ∧
    ((b.lane l).busy.length < 3) ∧
    (b.takeQueued (Cx.outBytes x.raw.length) (Own.of x.job 4) (b.cxQueue x) (x.hdr.ckind != 3#8) = some (c, h))) ∧
   (let t : Time := 0
    let s : State := won fun b => b.setLane 31 ⟨[wcx], [(wcx, 0), (wcx, 0), (wcx, 0)]⟩
    let l : Nat := 31
    let x : CxIn := wcx
    let rest : List CxIn := []
    let b := s.blk.tick t
    (b.worksBm 29 = true) ∧
    (l < 32) ∧
    ((b.lane l).queue = x :: rest) ∧
    (b.engStopped x.job 4 = false) ∧
    (3 ≤ (b.lane l).busy.length)) ∧
   (let t : Time := 0
    let s : State := won fun b => b.setLane 31 ⟨[], [(wcx, 0)]⟩
    let l : Nat := 31
    let h : Nat := 0
    let x : CxIn := wcx
    let rest : List (CxIn × Nat) := []
    let b := s.blk.tick t
    let c := b.setLane l ⟨(b.lane l).queue, rest⟩
    (b.worksBm 29 = true) ∧
    (l < 32) ∧
    ((b.lane l).busy = (x, h) :: rest) ∧
    (x.buf.any c.bufPoison = false)) ∧
   (let t : Time := 0
    let s : State := won fun b => { b.setLane 31 ⟨[], [({ wcx with buf := some 0 }, 0)]⟩ with bm := { b.bm with bufs := [(0, ⟨256, false, 0, true, [0], 0, none⟩)] }, mc := { b.mc with poison := [8] } }
    let l : Nat := 31
    let h : Nat := 0
    let x : CxIn := { wcx with buf := some 0 }
    let rest : List (CxIn × Nat) := []
    let b := s.blk.tick t
    let c := b.setLane l ⟨(b.lane l).queue, rest⟩
    (b.worksBm 29 = true) ∧
    (l < 32) ∧
    ((b.lane l).busy = (x, h) :: rest) ∧
    (x.buf.any c.bufPoison = true)) ∧
   (let t : Time := 0
    let s : State := won fun b => b.onCx fun c => { c with segs := [(0, wcs)] }
    let k : Nat := 0
    let h : Nat := (((s.blk.tick t).takeBuf 1 (Own.of 5 4)).getD (wup, 0)).2
    let ix : Nat := 0
    let rest : List Nat := []
    let g : CxSeg := wcs
    let m : CollMsg := wcm
    let c : Block := (((s.blk.tick t).takeBuf 1 (Own.of 5 4)).getD (wup, 0)).1
    let b := s.blk.tick t
    let l := b.decLane
    let job := m.job.toNat % 1024
    (b.worksBm 29 = true) ∧
    ((b.cx.segs.find? fun e => !e.2.wait.isEmpty && !b.decStopped e.2) = some (k, g)) ∧
    (g.wait = ix :: rest) ∧
    (g.msg ix = some m) ∧
    (b.decBytes l + m.body.length ≤ b.fld R.cxDqlimit 10 0 * 1024) ∧
    (b.takeBuf (max 1 (min 49152 (Stream.total m.body))) (Own.of job 4) = some (c, h))) ∧
   (let t : Time := 0
    let s : State := won fun b => b.onCx fun c => { c with segs := [(0, wcs)], dec := [(31, [⟨0, 0, 0, 0⟩])] }
    let l : Nat := 31
    let d : CxDec := ⟨0, 0, 0, 0⟩
    let rest : List CxDec := []
    let g : CxSeg := wcs
    let m : CollMsg := wcm
    let b := s.blk.tick t
    (b.worksBm 29 = true) ∧
    (l < 32) ∧
    (AMap.getD b.cx.dec l [] = d :: rest) ∧
    (AMap.get? b.cx.segs d.seg = some g) ∧
    (g.msg d.ix = some m)) := by
  refine ⟨?_, ?_, ?_, ?_, ?_, ?_⟩
  · decide
  · decide
  · decide
  · decide
  · decide
  · decide

/-- States that meet the hypotheses of `Obligations.RecordsAndKeys`, clause by clause. -/
theorem wit_RecordsAndKeys :
   (let t : Time := 0
    let s : State := won fun b => { b with outq := [⟨0, 7, .coll wcm, none, 0, some 0, none, none⟩], cc := { b.cc with tx := [(0, wkey)] } }
    let q : Nat := 0
    let b := s.blk.tick t
    let k := wkey
    let m := ⟨0, 7, .coll wcm, none, 0, some 0, none, none⟩
    let ms := []
    let d := ((s.blk.tick 0).sealGrant 0).elim wup (·.2.1)
    let h := 0
    (b.worksBm 30 = true) ∧
    (b.coreTurn = some (true, q)) ∧
    (b.sealDead q = []) ∧
    (b.sealKey q = some k) ∧
    (b.sealGrant q = some (m :: ms, d, h)) ∧
    ((∀ x ∈ m :: ms, b.outPoison x = false))) ∧
   (let t : Time := 0
    let s : State := won fun b => { b with outq := [⟨0, 7, .coll wcm, none, 0, some 0, none, none⟩], cc := { b.cc with tx := [(0, wkey)] }, bm := { b.bm with bufs := [(Bm.key 0 0, ⟨0, false, 0, true, [5], 0, none⟩)] }, mc := { b.mc with poison := [0] } }
    let q : Nat := 0
    let b := s.blk.tick t
    let k := wkey
    let m := ⟨0, 7, .coll wcm, none, 0, some 0, none, none⟩
    let ms := []
    let d := ((s.blk.tick 0).sealGrant 0).elim wup (·.2.1)
    let h := 0
    (b.worksBm 30 = true) ∧
    (b.coreTurn = some (true, q)) ∧
    (b.sealDead q = []) ∧
    (b.sealKey q = some k) ∧
    (b.sealGrant q = some (m :: ms, d, h)) ∧
    ((∃ x ∈ m :: ms, b.outPoison x = true))) ∧
   (let t : Time := 65536000000
    let s : State := won fun b => { b with outq := [⟨0, 7, .coll wcm, none, 0, some 0, none, none⟩] }
    let q : Nat := 0
    let b := s.blk.tick t
    (b.worksBm 30 = true) ∧
    (b.coreTurn = some (true, q)) ∧
    (b.sealDead q ≠ [])) ∧
   (let t : Time := 0
    let s : State := won id
    let q : Nat := 5
    let b := s.blk.tick t
    (b.worksBm 30 = true) ∧
    (b.coreTurn ≠ some (true, q))) ∧
   (let t : Time := 0
    let s : State := won (wopening (wsegRec id) [])
    let sel : Nat := 0
    let p : Nat := 0
    let g : Seg := wsegRec id
    let b := s.blk.tick t
    let c := b.openTake sel g
    let seen (r : Rec) : Bool := (c.rxKeyOf r).any fun k => k.seen.contains r.rctr.toNat
    let d := wtaken (wsegRec id) []
    let hs := [none]
    (b.worksBm 30 = true) ∧
    (b.te.opening[sel]? = some (p, g)) ∧
    (b.coreTurn = some (false, sel)) ∧
    (g.recs ≠ []) ∧
    ((∀ n ∈ c.recChecks g 0 g.recs, n = 0)) ∧
    ((∀ r ∈ g.recs, seen r = false)) ∧
    (c.takeFar g.heads = some (d, hs))) ∧
   (let t : Time := 0
    let s : State := won (wopening (wsegRec fun g => { g with flags := 2 }) [0])
    let sel : Nat := 0
    let p : Nat := 0
    let g : Seg := wsegRec fun g => { g with flags := 2 }
    let b := s.blk.tick t
    let c := b.openTake sel g
    let seen (r : Rec) : Bool := (c.rxKeyOf r).any fun k => k.seen.contains r.rctr.toNat
    (b.worksBm 30 = true) ∧
    (b.te.opening[sel]? = some (p, g)) ∧
    (b.coreTurn = some (false, sel)) ∧
    (g.recs ≠ []) ∧
    ((∀ n ∈ c.recChecks g 0 g.recs, n = 0)) ∧
    ((∀ r ∈ g.recs, seen r = true)) ∧
    (g.fo = true)) ∧
   (let t : Time := 0
    let s : State := won (wopening (wsegRec id) [0])
    let sel : Nat := 0
    let p : Nat := 0
    let g : Seg := wsegRec id
    let b := s.blk.tick t
    let c := b.openTake sel g
    let seen (r : Rec) : Bool := (c.rxKeyOf r).any fun k => k.seen.contains r.rctr.toNat
    (b.worksBm 30 = true) ∧
    (b.te.opening[sel]? = some (p, g)) ∧
    (b.coreTurn = some (false, sel)) ∧
    (g.recs ≠ []) ∧
    ((∀ n ∈ c.recChecks g 0 g.recs, n = 0)) ∧
    ((∃ r ∈ g.recs, seen r = true)) ∧
    (g.fo = false ∨ (∃ r ∈ g.recs, seen r = false))) ∧
   (let t : Time := 0
    let s : State := won (wopening (wsegRec fun g => { g with job := 6 }) [])
    let sel : Nat := 0
    let p : Nat := 0
    let g : Seg := wsegRec fun g => { g with job := 6 }
    let b := s.blk.tick t
    let c := b.openTake sel g
    (b.worksBm 30 = true) ∧
    (b.te.opening[sel]? = some (p, g)) ∧
    (b.coreTurn = some (false, sel)) ∧
    (g.recs ≠ []) ∧
    ((∃ n ∈ c.recChecks g 0 g.recs, n ≠ 0))) ∧
   (let t : Time := 0
    let s : State := won id
    let b := s.blk.tick t
    (b.worksBm 30 = true)) ∧
   (let t : Time := 0
    let s : State := won fun b => b.onCc fun c => { c with slots := [(0, 0, wslot), (1, 0, { wslot with length := 0 })] }
    let p : Nat := 1
    let sender : Nat := 0
    let x : CtrlSlot := { wslot with length := 0 }
    let before : List (Nat × Nat × CtrlSlot) := [(0, 0, wslot)]
    let rest : List (Nat × Nat × CtrlSlot) := []
    let b := s.blk.tick t
    (b.worksBm 30 = true) ∧
    (p < 2) ∧
    (b.cc.slots = before ++ (p, sender, x) :: rest) ∧
    ((∀ e ∈ before, e.1 ≠ p)) ∧
    (Cc.slotOk x = false ∨ x.channel = 0 ∨ 2 < x.channel.toNat)) ∧
   (let t : Time := 0
    let s : State := won fun b => b.onCc fun c => { c with slots := [(0, 0, wslotOk)], rx := [(3, [wrk])] }
    let p : Nat := 0
    let sender : Nat := 0
    let x : CtrlSlot := wslotOk
    let before : List (Nat × Nat × CtrlSlot) := []
    let rest : List (Nat × Nat × CtrlSlot) := []
    let b := s.blk.tick t
    let c := b.onCc fun c => { c with slots := before ++ rest }
    let k := wrk
    let pt := []
    (b.worksBm 30 = true) ∧
    (p < 2) ∧
    (b.cc.slots = before ++ (p, sender, x) :: rest) ∧
    ((∀ e ∈ before, e.1 ≠ p)) ∧
    (Cc.slotOk x = true) ∧
    (1 ≤ x.channel.toNat) ∧
    (x.channel.toNat ≤ 2) ∧
    (c.slotKeys p x = [k]) ∧
    (Cc.slotOpen x k.key.key k.key.salt sender = some pt)) ∧
   (let t : Time := 0
    let r : Req := wq 0 0 [(28, 255)]
    let s : State := won id
    let b := Ci.taken 0x0804 r (s.blk.tick t)
    let id := (s.blk.tick t).freshId
    (Starts 0x0804 r t s b id) ∧
    (r.u 16 8 = 0) ∧
    (r.u 24 4 = 0) ∧
    (r.a2 < 256) ∧
    (r.u 32 32 = 0) ∧
    (s.alarmAt t = false) ∧
    (b.sec.due ≠ some b.now)) ∧
   (let t : Time := 0
    let r : Req := wq 0 0 [(28, 6)]
    let s : State := won fun b => { b with peerGw := [(1, 7)], cc := { b.cc with rekeys := [(6, ⟨1, wkey, 0, none⟩)] } }
    let b := Ci.taken 0x0803 r (s.blk.tick t)
    let id := (s.blk.tick t).freshId
    (Starts 0x0803 r t s b id) ∧
    (r.u 16 8 = 0) ∧
    (r.u 24 4 = 0) ∧
    (r.a2 < 8) ∧
    (r.a2 % 2 = 0) ∧
    ((b.peerOf (r.a2 / 4)).isSome) ∧
    (r.u 32 32 = 0) ∧
    (AMap.get? b.cc.rekeys r.a2 ≠ none)) ∧
   (let t : Time := 0
    let r : Req := wq 0 0 [(28, 6)]
    let s : State := won fun b => { b with peerGw := [(1, 7)] }
    let b := Ci.taken 0x0803 r (s.blk.tick t)
    let id := (s.blk.tick t).freshId
    (Starts 0x0803 r t s b id) ∧
    (r.u 16 8 = 0) ∧
    (r.u 24 4 = 0) ∧
    (r.a2 < 8) ∧
    (r.a2 % 2 = 0) ∧
    ((b.peerOf (r.a2 / 4)).isSome) ∧
    (r.u 32 32 = 0) ∧
    (AMap.get? b.cc.rekeys r.a2 = none) ∧
    (AMap.get? b.cc.tx r.a2 = none)) ∧
   (let t : Time := 0
    let r : Req := wq 0 0 [(28, 6)]
    let s : State := won fun b => { b with peerGw := [(1, 7)], cc := { b.cc with tx := [(6, wkey)] } }
    let b := Ci.taken 0x0803 r (s.blk.tick t)
    let id := (s.blk.tick t).freshId
    let k := wkey
    (Starts 0x0803 r t s b id) ∧
    (r.u 16 8 = 0) ∧
    (r.u 24 4 = 0) ∧
    (r.a2 < 8) ∧
    (r.a2 % 2 = 0) ∧
    ((b.peerOf (r.a2 / 4)).isSome) ∧
    (r.u 32 32 = 0) ∧
    (AMap.get? b.cc.rekeys r.a2 = none) ∧
    (AMap.get? b.cc.tx r.a2 = some k)) := by
  refine ⟨?_, ?_, ?_, ?_, ?_, ?_, ?_, ?_⟩
  · decide
  · decide
  · decide
  · decide
  · exact ⟨by decide, rfl, by decide, by decide, wrec_check (wtaken (wsegRec id) []) wrk _ (by decide) rfl (by decide) (by decide) (by decide), fun r hr => by rw [show (wsegRec id).recs = [wrec] by decide] at hr; cases List.mem_singleton.1 hr; exact wrec_seen (wtaken (wsegRec id) []) wrk (by decide) rfl, by decide +kernel⟩
  · exact ⟨by decide, rfl, by decide, by decide, wrec_check (wtaken (wsegRec fun g => { g with flags := 2 }) [0]) { wrk with seen := [0] } _ (by decide) rfl (by decide) (by decide) (by decide), fun r hr => by rw [show (wsegRec fun g => { g with flags := 2 }).recs = [wrec] by decide] at hr; cases List.mem_singleton.1 hr; exact wrec_seen (wtaken (wsegRec fun g => { g with flags := 2 }) [0]) { wrk with seen := [0] } (by decide) rfl, by decide⟩
  · exact ⟨by decide, rfl, by decide, by decide, wrec_check (wtaken (wsegRec id) [0]) { wrk with seen := [0] } _ (by decide) rfl (by decide) (by decide) (by decide), ⟨wrec, by decide, wrec_seen (wtaken (wsegRec id) [0]) { wrk with seen := [0] } (by decide) rfl⟩, by decide⟩
  refine ⟨?_, ?_, ?_, ?_, ?_, ?_, ?_, ?_⟩
  · decide
  · decide
  · decide
  · exact ⟨by decide, by decide, rfl, (fun e h => nomatch h), by decide, by decide, by decide, by decide, unseal_nil _ _ _⟩
  · refine ⟨⟨by decide, rfl, rfl⟩, ?_⟩
    and_intros <;> decide
  · refine ⟨⟨by decide, rfl, rfl⟩, ?_⟩
    and_intros <;> decide
  · refine ⟨⟨by decide, rfl, rfl⟩, ?_⟩
    and_intros <;> decide
  · refine ⟨⟨by decide, rfl, rfl⟩, ?_⟩
    and_intros <;> decide

/-- States that meet the hypotheses of `Obligations.RekeyExchange`, clause by clause. -/
theorem wit_RekeyExchange :
   (let t : Time := 0
    let s : State := won fun b => b.onCc fun c => { c with tx := [(6, { wkey with rctr := 2 ^ 32 })] }
    let slot : Nat := 6
    let k : CcKey := { wkey with rctr := 2 ^ 32 }
    let b := s.blk.tick t
    (b.worksBm 30 = true) ∧
    (AMap.get? b.cc.tx slot = some k) ∧
    (AMap.get? b.cc.rekeys slot = none) ∧
    (slot % 2 = 0) ∧
    (2 ^ b.fld R.ccRekeyCtl 31 27 ≤ k.rctr ∨ k.at_ + 8000000000 * b.fld R.ccRekeyCtl 26 21 ≤ b.now)) ∧
   (let t : Time := 0
    let s : State := won fun b => b.onCc fun c => { c with tx := [(6, wkey)] }
    let slot : Nat := 6
    let k : CcKey := wkey
    let b := s.blk.tick t
    (b.worksBm 30 = true) ∧
    (AMap.get? b.cc.tx slot = some k) ∧
    (AMap.get? b.cc.rekeys slot = none) ∧
    (slot % 2 = 0) ∧
    (k.rctr < 2 ^ b.fld R.ccRekeyCtl 31 27) ∧
    (b.now < k.at_ + 8000000000 * b.fld R.ccRekeyCtl 26 21)) ∧
   (let t : Time := 0
    let s : State := won (winq 1 0 [])
    let sel : Nat := 0
    let p : Nat := 0
    let slot : Nat := 0
    let epoch : Nat := 0
    let d : Nat := 1
    let c : Block := (s.blk.tick t).onCc fun c => { c with inq := [] }
    let k : RxKey := wrk
    let b := s.blk.tick t
    (b.worksBm 30 = true) ∧
    (b.takeRk sel 1 = some (c, p, slot, epoch)) ∧
    (c.rxSlotFor p slot = some d) ∧
    ((c.rxKeys d).getLast? = some k) ∧
    (k.key.epoch = epoch)) ∧
   (let t : Time := 0
    let s : State := won (winq 1 1 [])
    let sel : Nat := 0
    let p : Nat := 0
    let slot : Nat := 0
    let epoch : Nat := 1
    let d : Nat := 1
    let c : Block := (s.blk.tick t).onCc fun c => { c with inq := [] }
    let e : Block := (((s.blk.tick t).onCc fun c => { c with inq := [] }).addRx 1 0 (wkey.next "data" 0)).getD wup
    let k : RxKey := wrk
    let b := s.blk.tick t
    (b.worksBm 30 = true) ∧
    (b.takeRk sel 1 = some (c, p, slot, epoch)) ∧
    (c.rxSlotFor p slot = some d) ∧
    ((c.rxKeys d).getLast? = some k) ∧
    (k.key.epoch ≠ epoch) ∧
    ((k.key.epoch + 1) % 65536 = epoch) ∧
    (c.addRx d k.ex (k.key.next (Cc.kind slot) c.now) = some e)) ∧
   (let t : Time := 0
    let s : State := won (winq 2 65535 [(0, ⟨1, { wkey with epoch := 65535 }, 65534, none⟩)])
    let sel : Nat := 0
    let p : Nat := 0
    let slot : Nat := 0
    let epoch : Nat := 65535
    let c : Block := (s.blk.tick t).onCc fun c => { c with inq := [] }
    let k : Rekey := ⟨1, { wkey with epoch := 65535 }, 65534, none⟩
    let b := s.blk.tick t
    (b.worksBm 30 = true) ∧
    (b.takeRk sel 2 = some (c, p, slot, epoch)) ∧
    (AMap.get? c.cc.rekeys slot = some k) ∧
    (k.step = 1) ∧
    (k.next.epoch = epoch) ∧
    (slot % 4 = 0)) ∧
   (let t : Time := 0
    let s : State := won (winq2 65535 [(2, ⟨1, { wkey with epoch := 65535 }, 65534, none⟩)])
    let sel : Nat := 0
    let p : Nat := 0
    let slot : Nat := 2
    let epoch : Nat := 65535
    let c : Block := (s.blk.tick t).onCc fun c => { c with inq := [] }
    let k : Rekey := ⟨1, { wkey with epoch := 65535 }, 65534, none⟩
    let b := s.blk.tick t
    (b.worksBm 30 = true) ∧
    (b.takeRk sel 2 = some (c, p, slot, epoch)) ∧
    (AMap.get? c.cc.rekeys slot = some k) ∧
    (k.step = 1) ∧
    (k.next.epoch = epoch) ∧
    (slot % 4 ≠ 0)) ∧
   (let t : Time := 0
    let s : State := won fun b => b.onCc fun c => { c with rekeys := [(6, ⟨4, wkey, 65535, none⟩)] }
    let slot : Nat := 6
    let k : Rekey := ⟨4, wkey, 65535, none⟩
    let b := s.blk.tick t
    (b.worksBm 30 = true) ∧
    (AMap.get? b.cc.rekeys slot = some k) ∧
    (k.step = 4) ∧
    (b.keyReleased (slot / 4) k.old = true)) ∧
   (let t : Time := 0
    let s : State := won fun b => { b with cc := { b.cc with rekeys := [(6, ⟨4, wkey, 0, none⟩)] }, ss := { b.ss with queues := [(0, [⟨wrec, [], 1, none⟩])] } }
    let slot : Nat := 6
    let k : Rekey := ⟨4, wkey, 0, none⟩
    let b := s.blk.tick t
    (b.worksBm 30 = true) ∧
    (AMap.get? b.cc.rekeys slot = some k) ∧
    (k.step = 4) ∧
    (b.keyReleased (slot / 4) k.old = false)) ∧
   (let t : Time := 0
    let s : State := won (winq 3 5 [])
    let sel : Nat := 0
    let p : Nat := 0
    let slot : Nat := 0
    let epoch : Nat := 5
    let d : Nat := 1
    let c : Block := (s.blk.tick t).onCc fun c => { c with inq := [] }
    let k : RxKey := wrk
    let b := s.blk.tick t
    (b.worksBm 30 = true) ∧
    (b.takeRk sel 3 = some (c, p, slot, epoch)) ∧
    (c.rxSlotFor p slot = some d) ∧
    ((c.rxKeys d).getLast? = some k) ∧
    (k.key.epoch ≠ epoch)) ∧
   (let t : Time := 0
    let s : State := won (winq 4 5 [(0, ⟨5, wkey, 5, none⟩)])
    let sel : Nat := 0
    let p : Nat := 0
    let slot : Nat := 0
    let epoch : Nat := 5
    let c : Block := (s.blk.tick t).onCc fun c => { c with inq := [] }
    let k : Rekey := ⟨5, wkey, 5, none⟩
    let b := s.blk.tick t
    (b.worksBm 30 = true) ∧
    (b.takeRk sel 4 = some (c, p, slot, epoch)) ∧
    (AMap.get? c.cc.rekeys slot = some k) ∧
    (k.step = 5) ∧
    (k.old = epoch)) ∧
   (let t : Time := 0
    let s : State := won (winq 4 5 [(0, ⟨5, wkey, 4, none⟩)])
    let sel : Nat := 0
    let p : Nat := 0
    let slot : Nat := 0
    let epoch : Nat := 5
    let c : Block := (s.blk.tick t).onCc fun c => { c with inq := [] }
    let k : Rekey := ⟨5, wkey, 4, none⟩
    let b := s.blk.tick t
    (b.worksBm 30 = true) ∧
    (b.takeRk sel 4 = some (c, p, slot, epoch)) ∧
    (AMap.get? c.cc.rekeys slot = some k) ∧
    (k.step = 5) ∧
    (k.old ≠ epoch)) := by
  refine ⟨?_, ?_, ?_, ?_, ?_, ?_, ?_, ?_⟩
  · decide
  · decide
  · decide
  · exact ⟨by decide, by decide, by decide, by decide, by decide, by decide, some_of_isSome wup (by decide)⟩
  · decide
  · decide
  · decide
  refine ⟨?_, ?_, ?_, ?_⟩
  · decide
  · decide
  · decide
  · decide

/-- States that meet the hypotheses of `Obligations.LineReceive`, clause by clause. -/
theorem wit_LineReceive :
   (let t : Time := 0
    let s : State := won id
    let p : Nat := 0
    let b := s.blk.tick t
    (b.lineUp p = false)) ∧
   (let t : Time := 0
    let s : State := won fun b => (wlf 1 3 b).modTp 1 fun x => { x with hunting := true }
    let p : Nat := 1
    let b := s.blk.tick t
    let cs := (b.tp p).cells
    (b.worksBm 31 = true) ∧
    (p < 2) ∧
    (b.lineUp p = true) ∧
    (b.locked = false) ∧
    ((b.tp p).hunting = true) ∧
    ((Te.toFirst cs).2 = [])) ∧
   (let t : Time := 0
    let s : State := won fun b => wcellsIn [] (wlf 1 3 b)
    let p : Nat := 1
    let b := s.blk.tick t
    let cs := (b.tp p).cells
    (b.worksBm 31 = true) ∧
    (p < 2) ∧
    (b.lineUp p = true) ∧
    (b.locked = false) ∧
    ((b.tp p).hunting = false) ∧
    (cs = [])) ∧
   (let t : Time := 0
    let s : State := won fun b => wcellsIn [.brk] (wlf 1 3 b)
    let p : Nat := 1
    let b := s.blk.tick t
    let cs := (b.tp p).cells
    let rest := []
    (b.worksBm 31 = true) ∧
    (p < 2) ∧
    (b.lineUp p = true) ∧
    (b.locked = false) ∧
    ((b.tp p).hunting = false) ∧
    (cs = .brk :: rest)) ∧
   (let t : Time := 0
    let s : State := won fun b => wcellsIn [.cell (List.replicate 16 0) false] (wlf 1 3 b)
    let p : Nat := 1
    let b := s.blk.tick t
    let cs := (b.tp p).cells
    let bs := List.replicate 16 0
    let f := false
    let rest := []
    (b.worksBm 31 = true) ∧
    (p < 2) ∧
    (b.lineUp p = true) ∧
    (b.locked = false) ∧
    ((b.tp p).hunting = false) ∧
    (cs = .cell bs f :: rest) ∧
    ((∀ x ∈ bs, x = 0#8))) ∧
   (let t : Time := 0
    let s : State := won fun b => wcellsIn [.cell (List.replicate 15 0 ++ [1]) false] (wlf 1 3 b)
    let p : Nat := 1
    let b := s.blk.tick t
    let cs := (b.tp p).cells
    let bs := List.replicate 15 0 ++ [1]
    let f := false
    let rest := []
    (b.worksBm 31 = true) ∧
    (p < 2) ∧
    (b.lineUp p = true) ∧
    (b.locked = false) ∧
    ((b.tp p).hunting = false) ∧
    (cs = .cell bs f :: rest) ∧
    ((∃ x ∈ bs, x ≠ 0#8)) ∧
    (bs.head? = some 0#8)) ∧
   (let t : Time := 0
    let s : State := won fun b => wcellsIn (wcells wseg.bytes) (wlf 1 3 b)
    let p : Nat := 1
    let b := s.blk.tick t
    let cs := (b.tp p).cells
    let bs := wseg.bytes.take 16
    let f := true
    let rest := (wcells wseg.bytes).drop 1
    let hd := wseg.bytes.take 32
    let h := Seg.parse hd
    (b.worksBm 31 = true) ∧
    (p < 2) ∧
    (b.lineUp p = true) ∧
    (b.locked = false) ∧
    ((b.tp p).hunting = false) ∧
    (cs = .cell bs f :: rest) ∧
    (bs.head? ≠ some 0#8) ∧
    ((∃ x ∈ bs, x ≠ 0#8)) ∧
    (Te.unit 2 cs = some hd) ∧
    (Crc.crc32c h.head ≠ h.hdrCrc ∨ Te.headOk h = false)) ∧
   (let t : Time := 0
    let s : State := won fun b => wcellsIn (wcells (wsegOk fun g => { g with epoch := 9 }).bytes) (wlf 1 3 b)
    let p : Nat := 1
    let b := s.blk.tick t
    let cs := (b.tp p).cells
    let bs := (wsegOk fun g => { g with epoch := 9 }).bytes.take 16
    let f := true
    let rest := (wcells (wsegOk fun g => { g with epoch := 9 }).bytes).drop 1
    let hd := (wsegOk fun g => { g with epoch := 9 }).bytes.take 32
    let h := Seg.parse hd
    let n := Seg.cellsOf h.bodyLen.toNat
    let unit := (wsegOk fun g => { g with epoch := 9 }).bytes
    let g := Seg.parse unit
    let c := b.dropCells p n
    (b.worksBm 31 = true) ∧
    (p < 2) ∧
    (b.lineUp p = true) ∧
    (b.locked = false) ∧
    ((b.tp p).hunting = false) ∧
    (cs = .cell bs f :: rest) ∧
    (bs.head? ≠ some 0#8) ∧
    ((∃ x ∈ bs, x ≠ 0#8)) ∧
    (Te.unit 2 cs = some hd) ∧
    (Crc.crc32c h.head = h.hdrCrc) ∧
    (Te.headOk h = true) ∧
    (Te.unit n cs = some unit) ∧
    (g.epoch.toNat ≠ (c.tp p).rxEpoch)) ∧
   (let t : Time := 0
    let s : State := won fun b => wcellsIn (wcells (wsegOk fun g => { g with bodyCrc := 0 }).bytes) (wlf 1 3 b)
    let p : Nat := 1
    let b := s.blk.tick t
    let cs := (b.tp p).cells
    let bs := (wsegOk fun g => { g with bodyCrc := 0 }).bytes.take 16
    let f := true
    let rest := (wcells (wsegOk fun g => { g with bodyCrc := 0 }).bytes).drop 1
    let hd := (wsegOk fun g => { g with bodyCrc := 0 }).bytes.take 32
    let h := Seg.parse hd
    let n := Seg.cellsOf h.bodyLen.toNat
    let unit := (wsegOk fun g => { g with bodyCrc := 0 }).bytes
    let g := Seg.parse unit
    let c := b.dropCells p n
    (b.worksBm 31 = true) ∧
    (p < 2) ∧
    (b.lineUp p = true) ∧
    (b.locked = false) ∧
    ((b.tp p).hunting = false) ∧
    (cs = .cell bs f :: rest) ∧
    (bs.head? ≠ some 0#8) ∧
    ((∃ x ∈ bs, x ≠ 0#8)) ∧
    (Te.unit 2 cs = some hd) ∧
    (Crc.crc32c h.head = h.hdrCrc) ∧
    (Te.headOk h = true) ∧
    (Te.unit n cs = some unit) ∧
    (g.epoch.toNat = (c.tp p).rxEpoch) ∧
    (Crc.crc32c g.body ≠ g.bodyCrc)) ∧
   (let t : Time := 0
    let s : State := won fun b => wcellsIn (wcells (wsegOk fun g => { g with flags := 1 }).bytes) (wlf 1 3 b)
    let p : Nat := 1
    let b := s.blk.tick t
    let cs := (b.tp p).cells
    let bs := (wsegOk fun g => { g with flags := 1 }).bytes.take 16
    let f := true
    let rest := (wcells (wsegOk fun g => { g with flags := 1 }).bytes).drop 1
    let hd := (wsegOk fun g => { g with flags := 1 }).bytes.take 32
    let h := Seg.parse hd
    let n := Seg.cellsOf h.bodyLen.toNat
    let unit := (wsegOk fun g => { g with flags := 1 }).bytes
    let g := Seg.parse unit
    let c := b.dropCells p n
    let d := c.segArrive p g
    let seq := g.seq.toNat
    (b.worksBm 31 = true) ∧
    (p < 2) ∧
    (b.lineUp p = true) ∧
    (b.locked = false) ∧
    ((b.tp p).hunting = false) ∧
    (cs = .cell bs f :: rest) ∧
    (bs.head? ≠ some 0#8) ∧
    ((∃ x ∈ bs, x ≠ 0#8)) ∧
    (Te.unit 2 cs = some hd) ∧
    (Crc.crc32c h.head = h.hdrCrc) ∧
    (Te.headOk h = true) ∧
    (Te.unit n cs = some unit) ∧
    (g.epoch.toNat = (c.tp p).rxEpoch) ∧
    (Crc.crc32c g.body = g.bodyCrc) ∧
    (g.retx = true) ∧
    (g.fo = false) ∧
    (Te.lt seq (d.tp p).rxCum = false) ∧
    (seq ∉ (d.tp p).acc)) ∧
   (let t : Time := 0
    let s : State := won fun b => (wcellsIn (wcells (wsegOk fun g => { g with flags := 1 }).bytes) (wlf 1 3 b)).modTp 1 fun x => { x with acc := [0] }
    let p : Nat := 1
    let b := s.blk.tick t
    let cs := (b.tp p).cells
    let bs := (wsegOk fun g => { g with flags := 1 }).bytes.take 16
    let f := true
    let rest := (wcells (wsegOk fun g => { g with flags := 1 }).bytes).drop 1
    let hd := (wsegOk fun g => { g with flags := 1 }).bytes.take 32
    let h := Seg.parse hd
    let n := Seg.cellsOf h.bodyLen.toNat
    let unit := (wsegOk fun g => { g with flags := 1 }).bytes
    let g := Seg.parse unit
    let c := b.dropCells p n
    let d := c.segArrive p g
    let seq := g.seq.toNat
    (b.worksBm 31 = true) ∧
    (p < 2) ∧
    (b.lineUp p = true) ∧
    (b.locked = false) ∧
    ((b.tp p).hunting = false) ∧
    (cs = .cell bs f :: rest) ∧
    (bs.head? ≠ some 0#8) ∧
    ((∃ x ∈ bs, x ≠ 0#8)) ∧
    (Te.unit 2 cs = some hd) ∧
    (Crc.crc32c h.head = h.hdrCrc) ∧
    (Te.headOk h = true) ∧
    (Te.unit n cs = some unit) ∧
    (g.epoch.toNat = (c.tp p).rxEpoch) ∧
    (Crc.crc32c g.body = g.bodyCrc) ∧
    (g.retx = true) ∧
    (seq ∈ (d.tp p).acc) ∧
    (Te.lt seq (d.tp p).rxCum = false)) ∧
   (let t : Time := 0
    let s : State := won fun b => (wlf 1 1 b).modTp 1 fun x => { x with tcs := [List.replicate 512 1] }
    let p : Nat := 1
    let bs : List Byte := List.replicate 512 1
    let rest : List (List Byte) := []
    let b := s.blk.tick t
    (b.worksBm 31 = true) ∧
    (p < 2) ∧
    (b.lfState p ≠ 0) ∧
    (b.locked = false) ∧
    ((b.tp p).tcs = bs :: rest) ∧
    (TC.crcOk bs = false)) ∧
   (let t : Time := 0
    let s : State := won fun b => (wlf 1 1 b).modTp 1 fun x => { x with tcs := [TC.bytes { wtc with version := 2 }] }
    let p : Nat := 1
    let bs : List Byte := TC.bytes { wtc with version := 2 }
    let rest : List (List Byte) := []
    let b := s.blk.tick t
    let tc := TC.parse bs
    (b.worksBm 31 = true) ∧
    (p < 2) ∧
    (b.lfState p ≠ 0) ∧
    (b.locked = false) ∧
    ((b.tp p).tcs = bs :: rest) ∧
    (TC.crcOk bs = true) ∧
    (tc.version ≠ 1#8)) ∧
   (let t : Time := 0
    let s : State := won fun b => (wlf 1 1 b).modTp 1 fun x => { x with tcs := [wtc.bytes] }
    let p : Nat := 1
    let bs : List Byte := wtc.bytes
    let rest : List (List Byte) := []
    let b := s.blk.tick t
    let tc := TC.parse bs
    (b.worksBm 31 = true) ∧
    (p < 2) ∧
    (b.lfState p ≠ 0) ∧
    (b.locked = false) ∧
    ((b.tp p).tcs = bs :: rest) ∧
    (TC.crcOk bs = true) ∧
    (tc.version = 1#8) ∧
    (tc.ctrl.channel = 0#8)) ∧
   (let t : Time := 0
    let s : State := won fun b => (wlf 1 1 b).modTp 1 fun x => { x with tcs := [TC.bytes { wtc with ctrl := ⟨1, 26, 0, 0, [], 0⟩ }] }
    let p : Nat := 1
    let bs : List Byte := TC.bytes { wtc with ctrl := ⟨1, 26, 0, 0, [], 0⟩ }
    let rest : List (List Byte) := []
    let b := s.blk.tick t
    let tc := TC.parse bs
    (b.worksBm 31 = true) ∧
    (p < 2) ∧
    (b.lfState p ≠ 0) ∧
    (b.locked = false) ∧
    ((b.tp p).tcs = bs :: rest) ∧
    (TC.crcOk bs = true) ∧
    (tc.version = 1#8) ∧
    (tc.ctrl.channel ≠ 0#8)) ∧
   (let t : Time := 0
    let s : State := won id
    let x : GroupTx := ⟨1, []⟩
    let b := s.blk.tick t
    let p := x.port
    let c := if x.mgmt = [] then b else Te.mgmtIn p x.mgmt b
    (b.works (33 + p) = true) ∧
    (p < 2) ∧
    (b.frozen 31 = false) ∧
    (c.lfState p = 0 ∨ (c.lp p).sent = true)) ∧
   (let t : Time := 0
    let s : State := won (wlf 1 1)
    let x : GroupTx := ⟨1, []⟩
    let tcs : List TC := (Te.groupOut 1 (Lf.pageSwitch 1 (s.blk.tick t))).1
    let cells : List Byte := (Te.groupOut 1 (Lf.pageSwitch 1 (s.blk.tick t))).2.1
    let d : Block := (Te.groupOut 1 (Lf.pageSwitch 1 (s.blk.tick t))).2.2
    let b := s.blk.tick t
    let p := x.port
    let c := if x.mgmt = [] then b else Te.mgmtIn p x.mgmt b
    (b.works (33 + p) = true) ∧
    (p < 2) ∧
    (b.frozen 31 = false) ∧
    (c.lfState p ≠ 0) ∧
    ((c.lp p).sent = false) ∧
    ((Lf.pageSwitch p c).frozen 31 = false) ∧
    (Te.groupOut p (Lf.pageSwitch p c) = (tcs, cells, d)) ∧
    (d.bit (R.lfStat p) 5 = false)) := by
  refine ⟨?_, ?_, ?_, ?_, ?_, ?_, ?_, ?_⟩
  · decide
  · decide
  · decide
  · decide
  · decide
  · decide
  · decide
  refine ⟨?_, ?_, ?_, ?_, ?_, ?_, ?_, ?_⟩
  · decide
  · decide
  · decide
  · decide
  · decide +kernel
  · decide +kernel
  · decide +kernel
  refine ⟨?_, ?_, ?_⟩
  · decide +kernel
  · decide
  · exact ⟨by decide, by decide, by decide, by decide, by decide, by decide, rfl, by decide⟩

/-- States that meet the hypotheses of `Obligations.LineTimersAndFailover`, clause by clause. -/
theorem wit_LineTimersAndFailover :
   (let t : Time := 0
    let s : State := won (wtp 0 fun x => { x with usable := true })
    let b := s.blk.tick t
    (b.worksBm 31 = true) ∧
    ((b.tp 1).usable = false) ∧
    ((b.tp 0).usable = true)) ∧
   (let t : Time := 0
    let s : State := won (wtp 1 fun x => { x with segs := [(5, { wtx with failed := true })] })
    let p : Nat := 1
    let seq : Nat := 5
    let g : TxSeg := { wtx with failed := true }
    let b := s.blk.tick t
    (b.worksBm 31 = true) ∧
    (p < 2) ∧
    (AMap.get? (b.tp p).segs seq = some g) ∧
    (g.failed = true) ∧
    (g.nak = none)) ∧
   (let t : Time := 0
    let s : State := won (wtp 1 fun x => { x with segs := [(5, wtx)] })
    let p : Nat := 1
    let seq : Nat := 5
    let g : TxSeg := wtx
    let b := s.blk.tick t
    (b.worksBm 31 = true) ∧
    (p < 2) ∧
    (AMap.get? (b.tp p).segs seq = some g) ∧
    (g.failed = false)) ∧
   (let t : Time := 0
    let s : State := won id
    let b := s.blk.tick t
    (b.worksBm 31 = true)) ∧
   (let t : Time := 0
    let s : State := won (wtp 0 fun x => { x with sampled := true })
    let b := s.blk.tick t
    (b.worksBm 27 = true) ∧
    (b.worksBm 31 = true)) ∧
   (let t : Time := 0
    let s : State := won (wtp 1 fun x => { x with usable := true })
    let p : Nat := 1
    let b := s.blk.tick t
    (b.worksBm 31 = true) ∧
    (p < 2) ∧
    ((b.tp p).usable = true) ∧
    (b.lineUp p = false)) ∧
   (let t : Time := 0
    let s : State := won fun b => wtp 1 (fun x => { x with usable := true }) (wlf 1 4 b)
    let p : Nat := 1
    let b := s.blk.tick t
    (b.worksBm 31 = true) ∧
    (p < 2) ∧
    ((b.tp p).usable = false ∨ b.lineUp p = true)) ∧
   (let t : Time := 0
    let s : State := won fun b => { wtp 1 (fun x => { x with sampled := true }) (wlf 1 3 b) with peerGw := [(1, 7)] }
    let p : Nat := 1
    let peer : Nat := 7
    let b := s.blk.tick t
    (b.worksBm 31 = true) ∧
    (p < 2) ∧
    (b.peerOf p = some peer) ∧
    ((b.tp p).usable = false) ∧
    (b.lineUp p = true) ∧
    ((b.tp p).sampled = true) ∧
    ((b.tp p).verBad = false) ∧
    (b.locked = false)) ∧
   (let t : Time := 0
    let s : State := won fun b => { wlf 1 3 b with peerGw := [(1, 7)] }
    let p : Nat := 1
    let peer : Nat := 7
    let b := s.blk.tick t
    (b.worksBm 31 = true) ∧
    (p < 2) ∧
    (b.peerOf p = some peer) ∧
    ((b.tp p).usable = false) ∧
    ((b.tp p).sampled = false)) ∧
   (let t : Time := 80000000000
    let s : State := won (wtp 1 fun x => { x with downAt := some 0 })
    let p : Nat := 1
    let t0 : Nat := 0
    let b := s.blk.tick t
    (b.worksBm 31 = true) ∧
    (p < 2) ∧
    ((b.tp p).usable = false) ∧
    ((b.tp p).downAt = some t0) ∧
    (t0 + 80000000000 ≤ b.now)) ∧
   (let t : Time := 79999999999
    let s : State := won (wtp 1 fun x => { x with downAt := some 0 })
    let p : Nat := 1
    let t0 : Nat := 0
    let b := s.blk.tick t
    (b.worksBm 31 = true) ∧
    (p < 2) ∧
    ((b.tp p).usable = false) ∧
    ((b.tp p).downAt = some t0) ∧
    (b.now < t0 + 80000000000)) ∧
   (let t : Time := 80000000000
    let s : State := won fun b => b.modPr 7 fun x => { x with noPathAt := some 0 }
    let peer : Nat := 7
    let t0 : Nat := 0
    let b := s.blk.tick t
    (b.worksBm 31 = true) ∧
    ((b.pr peer).noPathAt = some t0) ∧
    (t0 + 80000000000 ≤ b.now)) ∧
   (let t : Time := 79999999999
    let s : State := won fun b => b.modPr 7 fun x => { x with noPathAt := some 0 }
    let peer : Nat := 7
    let t0 : Nat := 0
    let b := s.blk.tick t
    (b.worksBm 31 = true) ∧
    ((b.pr peer).noPathAt = some t0) ∧
    (b.now < t0 + 80000000000)) := by
  refine ⟨?_, ?_, ?_, ?_, ?_, ?_, ?_, ?_⟩
  · decide
  · decide
  · decide
  · decide
  · decide
  · decide
  · decide
  refine ⟨?_, ?_, ?_, ?_, ?_, ?_⟩
  · decide
  · decide
  · decide
  · decide
  · decide
  · decide

/-- States that meet the hypotheses of `Obligations.RatesAndBuckets`, clause by clause. -/
theorem wit_RatesAndBuckets :
   (let t : Time := 0
    let r : Req := wq 0 5 [(28, 0x80000800)]
    let s : State := won wjob
    let b := Ci.taken 0x0205 r (s.blk.tick t)
    let id := (s.blk.tick t).freshId
    (Starts 0x0205 r t s b id) ∧
    (Req.firstBad (Ss.rateBad b r) = none) ∧
    (Bits.bit r.a2 31 = true)) ∧
   (let t : Time := 0
    let r : Req := wq 0 5 [(32, 6400000), (36, 262144), (46, 1023)]
    let s : State := won wjob
    let b := Ci.taken 0x0205 r (s.blk.tick t)
    let id := (s.blk.tick t).freshId
    let a := 8 * b.cmdJob r + r.a2 % 8
    let rate := r.u 32 4
    let old := b.agg a
    let c := b.modAgg a fun x => { x with rate := rate, burst := r.u 36 4, weight := r.u 40 4, ovh := Bits.toInt 16 (r.u 44 2), memf := r.u 46 2 }
    let rise := old.rate < rate ∨ old.memf < r.u 46 2
    let tooMuch := 6400000 * (b.slotPorts (Ss.slotOf a)).length * b.ss.force.line < 100 * c.admitSum (Ss.slotOf a)
    (Starts 0x0205 r t s b id) ∧
    (Req.firstBad (Ss.rateBad b r) = none) ∧
    (Bits.bit r.a2 31 = false) ∧
    (rise) ∧
    (tooMuch)) ∧
   (let t : Time := 0
    let r : Req := wq 0 5 [(32, 5000000), (36, 4), (46, 1023)]
    let s : State := won fun b => { wjob b with peerGw := [(0, 7)] }
    let b := Ci.taken 0x0205 r (s.blk.tick t)
    let id := (s.blk.tick t).freshId
    let a := 8 * b.cmdJob r + r.a2 % 8
    let rate := r.u 32 4
    let old := b.agg a
    let c := b.modAgg a fun x => { x with rate := rate, burst := r.u 36 4, weight := r.u 40 4, ovh := Bits.toInt 16 (r.u 44 2), memf := r.u 46 2 }
    let rise := old.rate < rate ∨ old.memf < r.u 46 2
    let tooMuch := 6400000 * (b.slotPorts (Ss.slotOf a)).length * b.ss.force.line < 100 * c.admitSum (Ss.slotOf a)
    let tooMuchMem := 128000 * b.ss.force.mem < c.admitMem
    (Starts 0x0205 r t s b id) ∧
    (Req.firstBad (Ss.rateBad b r) = none) ∧
    (Bits.bit r.a2 31 = false) ∧
    (rise) ∧
    (¬tooMuch) ∧
    (tooMuchMem)) ∧
   (let t : Time := 0
    let r : Req := wq 0 5 [(36, 4), (46, 16)]
    let s : State := won wjob
    let b := Ci.taken 0x0205 r (s.blk.tick t)
    let id := (s.blk.tick t).freshId
    let a := 8 * b.cmdJob r + r.a2 % 8
    let rate := r.u 32 4
    let old := b.agg a
    let c := b.modAgg a fun x => { x with rate := rate, burst := r.u 36 4, weight := r.u 40 4, ovh := Bits.toInt 16 (r.u 44 2), memf := r.u 46 2 }
    let rise := old.rate < rate ∨ old.memf < r.u 46 2
    let tooMuch := 6400000 * (b.slotPorts (Ss.slotOf a)).length * b.ss.force.line < 100 * c.admitSum (Ss.slotOf a)
    let tooMuchMem := 128000 * b.ss.force.mem < c.admitMem
    (Starts 0x0205 r t s b id) ∧
    (Req.firstBad (Ss.rateBad b r) = none) ∧
    (Bits.bit r.a2 31 = false) ∧
    (¬rise ∨ (¬tooMuch ∧ ¬tooMuchMem))) ∧
   (let t : Time := 0
    let s : State := won id
    let b := s.blk.tick t
    (b.worksBm 32 = true)) ∧
   (let t : Time := 0
    let s : State := won fun b => { b with ss := { b.ss with aggs := [(0, { Agg.init with rate := 1 })] } }
    let f : Nat := 0
    let cause : Nat := 1
    let b := s.blk.tick t
    (b.worksBm 32 = true) ∧
    (b.scaleNow = (f, cause)) ∧
    (f < 65536) ∧
    (b.ss.f = 65536)) ∧
   (let t : Time := 0
    let s : State := won id
    let f : Nat := 65536
    let cause : Nat := 0
    let b := s.blk.tick t
    (b.worksBm 32 = true) ∧
    (b.scaleNow = (f, cause)) ∧
    (65536 ≤ f ∨ b.ss.f ≠ 65536)) := by
  refine ⟨?_, ?_, ?_, ?_, ?_, ?_, ?_⟩
  · exact ⟨⟨by decide, rfl, rfl⟩, by decide, by decide⟩
  · refine ⟨⟨by decide, rfl, rfl⟩, ?_⟩
    and_intros <;> decide
  · refine ⟨⟨by decide, rfl, rfl⟩, ?_⟩
    and_intros <;> decide
  · exact ⟨⟨by decide, rfl, rfl⟩, by decide, by decide, by decide⟩
  · decide
  · decide
  · decide

/-- States that meet the hypotheses of `Obligations.LineConfiguration`, clause by clause. -/
theorem wit_LineConfiguration :
   (let t : Time := 0
    let r : Req := wq 0 0 [(24, 1), (28, 255), (32, 256)]
    let s : State := won (wlf 1 1)
    let b := Ci.taken 0x0601 r (s.blk.tick t)
    let id := (s.blk.tick t).freshId
    let p := r.a1
    (Starts 0x0601 r t s b id) ∧
    (r.a0 % 64 = 0) ∧
    (r.a0 + 256 ≤ 0x6000000000) ∧
    (p < 2) ∧
    (r.a2 = 0xFF) ∧
    (r.u 32 4 = 256) ∧
    (r.u 36 28 = 0) ∧
    (b.lfState p ≠ 0)) ∧
   (let t : Time := 0
    let r : Req := wq 0 0 [(24, 1), (28, 255), (32, 256)]
    let s : State := won id
    let b := Ci.taken 0x0601 r (s.blk.tick t)
    let id := (s.blk.tick t).freshId
    let p := r.a1
    let c := b.readCount r.a0 256
    let o := 4
    (Starts 0x0601 r t s b id) ∧
    (r.a0 % 64 = 0) ∧
    (r.a0 + 256 ≤ 0x6000000000) ∧
    (p < 2) ∧
    (r.a2 = 0xFF) ∧
    (r.u 32 4 = 256) ∧
    (r.u 36 28 = 0) ∧
    (b.lfState p = 0) ∧
    (c.portDescBad p r.a0 = some o)) ∧
   (let t : Time := 0
    let r : Req := wq 0 0 [(24, 1), (28, 255), (32, 256)]
    let s : State := won (wmem [(4, 4, 1), (12, 4, 0xFFFFFFFF), (224, 2, 160)])
    let b := Ci.taken 0x0601 r (s.blk.tick t)
    let id := (s.blk.tick t).freshId
    let p := r.a1
    let c := b.readCount r.a0 256
    (Starts 0x0601 r t s b id) ∧
    (r.a0 % 64 = 0) ∧
    (r.a0 + 256 ≤ 0x6000000000) ∧
    (p < 2) ∧
    (r.a2 = 0xFF) ∧
    (r.u 32 4 = 256) ∧
    (r.u 36 28 = 0) ∧
    (b.lfState p = 0) ∧
    (c.portDescBad p r.a0 = none) ∧
    (Bits.bit (c.dxN (r.a0 + 226) 1) 0 = false)) ∧
   (let t : Time := 0
    let r : Req := wq 0 0 [(24, 1), (28, 255), (32, 256)]
    let s : State := won (wmem [(4, 4, 1), (12, 4, 0xFFFFFFFF), (224, 2, 160), (226, 1, 1)])
    let b := Ci.taken 0x0601 r (s.blk.tick t)
    let id := (s.blk.tick t).freshId
    let p := r.a1
    let c := b.readCount r.a0 256
    (Starts 0x0601 r t s b id) ∧
    (r.a0 % 64 = 0) ∧
    (r.a0 + 256 ≤ 0x6000000000) ∧
    (p < 2) ∧
    (r.a2 = 0xFF) ∧
    (r.u 32 4 = 256) ∧
    (r.u 36 28 = 0) ∧
    (b.lfState p = 0) ∧
    (c.portDescBad p r.a0 = none) ∧
    (Bits.bit (c.dxN (r.a0 + 226) 1) 0 = true)) ∧
   (let t : Time := 0
    let r : Req := wq 0 0 [(24, 1), (28, 31)]
    let s : State := won id
    let b := Ci.taken 0x0602 r (s.blk.tick t)
    let id := (s.blk.tick t).freshId
    let p := r.a1
    let k := r.a2
    (Starts 0x0602 r t s b id) ∧
    (r.u 16 8 = 0) ∧
    (p < 2) ∧
    (k < 32) ∧
    (r.u 33 31 = 0) ∧
    (r.u 32 1 = 0) ∧
    (b.prov p k = false)) ∧
   (let t : Time := 0
    let r : Req := wq 0 0 [(24, 1), (28, 31)]
    let s : State := won fun b => b.putN (R.lfProvMap 1) 0x80000000
    let b := Ci.taken 0x0602 r (s.blk.tick t)
    let id := (s.blk.tick t).freshId
    let p := r.a1
    let k := r.a2
    (Starts 0x0602 r t s b id) ∧
    (r.u 16 8 = 0) ∧
    (p < 2) ∧
    (k < 32) ∧
    (r.u 33 31 = 0) ∧
    (r.u 32 1 = 0) ∧
    (b.prov p k = true) ∧
    ((b.lm p k).plan ≠ 1) ∧
    ((b.lm p k).plan ≠ 2) ∧
    (b.planOk p k = false)) ∧
   (let t : Time := 0
    let r : Req := wq 0 0 [(24, 1), (28, 31)]
    let s : State := won fun b => wlm 1 31 (fun x => { x with plan := 1 }) (wall 1 b)
    let b := Ci.taken 0x0602 r (s.blk.tick t)
    let id := (s.blk.tick t).freshId
    let p := r.a1
    let k := r.a2
    (Starts 0x0602 r t s b id) ∧
    (r.u 16 8 = 0) ∧
    (p < 2) ∧
    (k < 32) ∧
    (r.u 33 31 = 0) ∧
    (r.u 32 1 = 0) ∧
    (b.prov p k = true) ∧
    ((b.lm p k).plan = 1 ∨ (b.lm p k).plan = 2)) ∧
   (let t : Time := 0
    let r : Req := wq 0 0 [(24, 1), (28, 31)]
    let s : State := won (wall 1)
    let b := Ci.taken 0x0602 r (s.blk.tick t)
    let id := (s.blk.tick t).freshId
    let p := r.a1
    let k := r.a2
    (Starts 0x0602 r t s b id) ∧
    (r.u 16 8 = 0) ∧
    (p < 2) ∧
    (k < 32) ∧
    (r.u 33 31 = 0) ∧
    (r.u 32 1 = 0) ∧
    (b.prov p k = true) ∧
    ((b.lm p k).plan ≠ 1) ∧
    ((b.lm p k).plan ≠ 2) ∧
    (b.planOk p k = true)) ∧
   (let t : Time := 0
    let r : Req := wq 0 0 [(24, 1), (28, 31), (32, 1)]
    let s : State := won (wall 1)
    let b := Ci.taken 0x0602 r (s.blk.tick t)
    let id := (s.blk.tick t).freshId
    let p := r.a1
    let k := r.a2
    (Starts 0x0602 r t s b id) ∧
    (r.u 16 8 = 0) ∧
    (p < 2) ∧
    (k < 32) ∧
    (r.u 33 31 = 0) ∧
    (r.u 32 1 = 1) ∧
    (b.prov p k = true)) ∧
   (let t : Time := 0
    let r : Req := wq 0 0 [(24, 1), (28, 31), (32, 1)]
    let s : State := won id
    let b := Ci.taken 0x0602 r (s.blk.tick t)
    let id := (s.blk.tick t).freshId
    let p := r.a1
    let k := r.a2
    (Starts 0x0602 r t s b id) ∧
    (r.u 16 8 = 0) ∧
    (p < 2) ∧
    (k < 32) ∧
    (r.u 33 31 = 0) ∧
    (r.u 32 1 = 1) ∧
    (b.prov p k = false)) ∧
   (let t : Time := 0
    let r : Req := wq 0 0 [(24, 1), (28, 255), (32, 5120)]
    let s : State := won id
    let b := Ci.taken 0x0603 r (s.blk.tick t)
    let id := (s.blk.tick t).freshId
    let p := r.a1
    let c := b.readCount r.a0 5120
    (Starts 0x0603 r t s b id) ∧
    (r.a0 % 64 = 0) ∧
    (r.a0 + 5120 ≤ 0x6000000000) ∧
    (p < 2) ∧
    (r.a2 = 0xFF) ∧
    (r.u 32 4 = 5120) ∧
    (r.u 36 28 = 0) ∧
    (c.bit (R.lfStat p) 5 = false)) ∧
   (let t : Time := 0
    let r : Req := wq 0 0 [(24, 1), (28, 255), (32, 5120)]
    let s : State := won fun b => (b.putFld (R.lfStat 1) 5 5 1).modLp 1 fun x => { x with swap := some 3 }
    let b := Ci.taken 0x0603 r (s.blk.tick t)
    let id := (s.blk.tick t).freshId
    let p := r.a1
    let c := b.readCount r.a0 5120
    (Starts 0x0603 r t s b id) ∧
    (r.a0 % 64 = 0) ∧
    (r.a0 + 5120 ≤ 0x6000000000) ∧
    (p < 2) ∧
    (r.a2 = 0xFF) ∧
    (r.u 32 4 = 5120) ∧
    (r.u 36 28 = 0) ∧
    (c.bit (R.lfStat p) 5 = true) ∧
    ((c.lp p).swap ≠ none)) ∧
   (let t : Time := 0
    let r : Req := wq 0 0 [(24, 1), (28, 255), (32, 5120)]
    let s : State := won fun b => b.putFld (R.lfStat 1) 5 5 1
    let b := Ci.taken 0x0603 r (s.blk.tick t)
    let id := (s.blk.tick t).freshId
    let p := r.a1
    let c := b.readCount r.a0 5120
    let page := (List.range 2560).map fun i => c.dxN (r.a0 + 2 * i) 2
    (Starts 0x0603 r t s b id) ∧
    (r.a0 % 64 = 0) ∧
    (r.a0 + 5120 ≤ 0x6000000000) ∧
    (p < 2) ∧
    (r.a2 = 0xFF) ∧
    (r.u 32 4 = 5120) ∧
    (r.u 36 28 = 0) ∧
    (c.bit (R.lfStat p) 5 = true) ∧
    ((c.lp p).swap = none) ∧
    (Lf.pageBad (c.bit (R.lfStat (1 - p)) 5) page = none)) ∧
   (let t : Time := 0
    let r : Req := wq 0 0 [(24, 1), (28, 255)]
    let s : State := won id
    let b := Ci.taken 0x0604 r (s.blk.tick t)
    let id := (s.blk.tick t).freshId
    let p := r.a1
    (Starts 0x0604 r t s b id) ∧
    (r.u 16 8 = 0) ∧
    (p < 2) ∧
    (r.a2 = 0xFF) ∧
    (r.u 32 32 = 0) ∧
    ((b.lp p).mapped = false ∨ b.bit (R.lfStat p) 5 = false)) ∧
   (let t : Time := 0
    let r : Req := wq 0 0 [(24, 1), (28, 255)]
    let s : State := won fun b => (b.putFld (R.lfStat 1) 5 5 1).modLp 1 fun x => { x with mapped := true, swap := some 3 }
    let b := Ci.taken 0x0604 r (s.blk.tick t)
    let id := (s.blk.tick t).freshId
    let p := r.a1
    (Starts 0x0604 r t s b id) ∧
    (r.u 16 8 = 0) ∧
    (p < 2) ∧
    (r.a2 = 0xFF) ∧
    (r.u 32 32 = 0) ∧
    ((b.lp p).mapped = true) ∧
    (b.bit (R.lfStat p) 5 = true) ∧
    ((b.lp p).swap ≠ none)) ∧
   (let t : Time := 0
    let r : Req := wq 0 0 [(24, 1), (28, 255)]
    let s : State := won fun b => (b.putFld (R.lfStat 1) 5 5 1).modLp 1 fun x => { x with mapped := true }
    let b := Ci.taken 0x0604 r (s.blk.tick t)
    let id := (s.blk.tick t).freshId
    let p := r.a1
    (Starts 0x0604 r t s b id) ∧
    (r.u 16 8 = 0) ∧
    (p < 2) ∧
    (r.a2 = 0xFF) ∧
    (r.u 32 32 = 0) ∧
    ((b.lp p).mapped = true) ∧
    (b.bit (R.lfStat p) 5 = true) ∧
    ((b.lp p).swap = none)) ∧
   (let t : Time := 0
    let s : State := won fun b => (wlf 1 1 b).modLp 1 fun x => { x with swap := some 3 }
    let p : Nat := 1
    let id : Nat := 3
    let b := s.blk.tick t
    (b.works (33 + p) = true) ∧
    (p < 2) ∧
    ((b.lp p).swap = some id) ∧
    ((b.lp p).mfi = 0) ∧
    ((b.lp p).sent = false) ∧
    (b.lfState p ≠ 0)) ∧
   (let t : Time := 0
    let s : State := won fun b => (wlf 1 1 b).modLp 1 fun x => { x with swap := some 3, mfi := 255 }
    let p : Nat := 1
    let id : Nat := 3
    let b := s.blk.tick t
    (b.works (33 + p) = true) ∧
    (p < 2) ∧
    ((b.lp p).swap = some id) ∧
    ((b.lp p).mfi ≠ 0 ∨ (b.lp p).sent = true)) ∧
   (let t : Time := 0
    let r : Req := wq 0 0 [(24, 1), (28, 255), (32, 0x3C960960), (36, 3), (40, 0x2020)]
    let s : State := won id
    let b := Ci.taken 0x0606 r (s.blk.tick t)
    let id := (s.blk.tick t).freshId
    let p := r.a1
    (Starts 0x0606 r t s b id) ∧
    (r.u 16 8 = 0) ∧
    (p < 2) ∧
    (r.a2 = 0xFF) ∧
    (Lf.degOk (r.u 32 4) = true) ∧
    (r.u 36 4 < 4) ∧
    (Lf.grpOk (r.u 40 4) = true) ∧
    (r.u 44 20 = 0)) := by
  refine ⟨?_, ?_, ?_, ?_, ?_, ?_, ?_, ?_⟩
  · refine ⟨⟨by decide, rfl, rfl⟩, ?_⟩
    and_intros <;> decide
  · refine ⟨⟨by decide, rfl, rfl⟩, ?_⟩
    and_intros <;> decide
  · refine ⟨⟨by decide, rfl, rfl⟩, ?_⟩
    and_intros <;> decide
  · refine ⟨⟨by decide, rfl, rfl⟩, ?_⟩
    and_intros <;> decide
  · refine ⟨⟨by decide, rfl, rfl⟩, ?_⟩
    and_intros <;> decide
  · refine ⟨⟨by decide, rfl, rfl⟩, ?_⟩
    and_intros <;> decide
  · refine ⟨⟨by decide, rfl, rfl⟩, ?_⟩
    and_intros <;> decide
  refine ⟨?_, ?_, ?_, ?_, ?_, ?_, ?_, ?_⟩
  · refine ⟨⟨by decide, rfl, rfl⟩, ?_⟩
    and_intros <;> decide
  · refine ⟨⟨by decide, rfl, rfl⟩, ?_⟩
    and_intros <;> decide
  · refine ⟨⟨by decide, rfl, rfl⟩, ?_⟩
    and_intros <;> decide
  · refine ⟨⟨by decide, rfl, rfl⟩, ?_⟩
    and_intros <;> decide
  · refine ⟨⟨by decide, rfl, rfl⟩, ?_⟩
    and_intros <;> decide
  · exact ⟨⟨by decide, rfl, rfl⟩, by decide, by decide, by decide, by decide, by decide, by decide, by decide, by decide, page_zero _ ((readCount_dram _ _ _).trans rfl) _ _⟩
  · refine ⟨⟨by decide, rfl, rfl⟩, ?_⟩
    and_intros <;> decide
  refine ⟨?_, ?_, ?_, ?_, ?_⟩
  · refine ⟨⟨by decide, rfl, rfl⟩, ?_⟩
    and_intros <;> decide
  · refine ⟨⟨by decide, rfl, rfl⟩, ?_⟩
    and_intros <;> decide
  · decide
  · decide
  · refine ⟨⟨by decide, rfl, rfl⟩, ?_⟩
    and_intros <;> decide

/-- States that meet the hypotheses of `Obligations.FramingEvents`, clause by clause. -/
theorem wit_FramingEvents :
   (let t : Time := 0
    let s : State := won id
    let p : Nat := 1
    let m : Nat := 31
    let b := s.blk.tick t
    (b.works (33 + p) = true) ∧
    (p < 2) ∧
    (m < 32) ∧
    (b.lfState p = 0 ∨ b.bit (R.loMStat p m) 30 = false)) ∧
   (let t : Time := 0
    let s : State := won fun b => (wlf 1 1 b).putBit (R.loMStat 1 31) 30 true
    let p : Nat := 1
    let m : Nat := 31
    let b := s.blk.tick t
    (b.works (33 + p) = true) ∧
    (p < 2) ∧
    (m < 32) ∧
    (b.lfState p ≠ 0) ∧
    (b.bit (R.loMStat p m) 30 = true)) ∧
   (let t : Time := 0
    let s : State := won id
    let p : Nat := 1
    let b := s.blk.tick t
    (b.works (33 + p) = true) ∧
    (p < 2) ∧
    (b.lfState p = 0) ∧
    (b.lineServed p = false)) ∧
   (let t : Time := 0
    let s : State := won (wlf 1 1)
    let p : Nat := 1
    let b := s.blk.tick t
    let d := (b.latch p).modLp p fun x => { x with justIn := 0 }
    let c := ((((d.assemble p 32).logTimes p).nextFrame p).maps p).lfStep p
    (b.works (33 + p) = true) ∧
    (p < 2) ∧
    (b.lfState p ≠ 0) ∧
    (c.lfState p = 0)) ∧
   (let t : Time := 0
    let s : State := won fun b => (wlf 1 1 b).setFunc 0x201 ⟨1, none, none, [], false, 0⟩
    let p : Nat := 1
    let b := s.blk.tick t
    let d := (b.latch p).modLp p fun x => { x with justIn := 0 }
    let c := ((((d.assemble p 32).logTimes p).nextFrame p).maps p).lfStep p
    (b.works (33 + p) = true) ∧
    (p < 2) ∧
    (b.lfState p ≠ 0) ∧
    (c.lfState p ≠ 0)) ∧
   (let t : Time := 0
    let s : State := won fun b => wlm 1 31 (fun x => { x with rdiOn := 3 }) (wlf 1 1 b)
    let p : Nat := 1
    let m : Nat := 31
    let bit : Nat := 8
    let rep : Option LosReport := none
    let b := s.blk.tick t
    (b.works (33 + p) = true) ∧
    (p < 2) ∧
    (b.lfState p ≠ 0) ∧
    (m < 32) ∧
    (bit < 9) ∧
    (b.bit (R.lfMDef p m) bit = false) ∧
    (b.defIn p m bit rep = true)) ∧
   (let t : Time := 0
    let s : State := won fun b => wlm 1 31 (fun x => { x with rdiOn := 2 }) (wlf 1 1 b)
    let p : Nat := 1
    let m : Nat := 31
    let bit : Nat := 8
    let rep : Option LosReport := none
    let b := s.blk.tick t
    (b.works (33 + p) = true) ∧
    (p < 2) ∧
    (b.lfState p ≠ 0) ∧
    (m < 32) ∧
    (bit < 9) ∧
    (b.bit (R.lfMDef p m) bit = true ∨ b.defIn p m bit rep = false)) ∧
   (let t : Time := 0
    let s : State := won fun b => wlm 1 31 (fun x => { x with rdiOff := 3 }) ((wlf 1 1 b).putN (R.lfMDef 1 31) 256)
    let p : Nat := 1
    let m : Nat := 31
    let bit : Nat := 8
    let rep : Option LosReport := none
    let b := s.blk.tick t
    (b.works (33 + p) = true) ∧
    (p < 2) ∧
    (b.lfState p ≠ 0) ∧
    (m < 32) ∧
    (bit < 9) ∧
    (b.bit (R.lfMDef p m) bit = true) ∧
    (b.defOut p m bit rep = true) ∧
    (b.defIn p m bit rep = false)) ∧
   (let t : Time := 0
    let s : State := won fun b => wlm 1 31 (fun x => { x with rdiOff := 2 }) ((wlf 1 1 b).putN (R.lfMDef 1 31) 256)
    let p : Nat := 1
    let m : Nat := 31
    let bit : Nat := 8
    let rep : Option LosReport := none
    let b := s.blk.tick t
    (b.works (33 + p) = true) ∧
    (p < 2) ∧
    (b.lfState p ≠ 0) ∧
    (m < 32) ∧
    (bit < 9) ∧
    (b.bit (R.lfMDef p m) bit = false ∨ b.defOut p m bit rep = false)) ∧
   (let t : Time := 80000
    let s : State := won fun b => (wlf 1 2 (b.putN (R.lfGdef 1) 0)).modLp 1 fun x => { x with logAt := some 0 }
    let p : Nat := 1
    let b := s.blk.tick t
    (b.works (33 + p) = true) ∧
    (p < 2) ∧
    (b.lfState p ≠ 0) ∧
    (b.bit (R.lfGdef p) 0 = false) ∧
    (Lf.past b.now 80000 (b.lp p).logAt = true) ∧
    (b.bit (R.lfDefIrq p) 0 = false)) ∧
   (let t : Time := 8000000
    let s : State := won fun b => ((wlf 1 2 b).putBit (R.lfGdef 1) 0 true).modLp 1 fun x => { x with logOk := some 0 }
    let p : Nat := 1
    let b := s.blk.tick t
    (b.works (33 + p) = true) ∧
    (p < 2) ∧
    (b.lfState p ≠ 0) ∧
    (b.bit (R.lfGdef p) 0 = true) ∧
    (Lf.past b.now 8000000 (b.lp p).logOk = true)) ∧
   (let t : Time := 0
    let s : State := won fun b => wlm 1 31 (fun x => { x with plan := 1, planBy := 1 }) (wlo 1 (fun x => { x with cal := some (wcal 31 0) }) b)
    let p : Nat := 1
    let m : Nat := 31
    let c : Cal := wcal 31 0
    let b := s.blk.tick t
    let own := (b.lm p m).plan ≠ 0 ∧ (b.lm p m).planBy = 1
    (b.works (33 + p) = true) ∧
    (p < 2) ∧
    ((b.lo1 p).cal = some c) ∧
    (c.mem = m) ∧
    (c.phase = 0) ∧
    (own)) ∧
   (let t : Time := 0
    let s : State := won fun b => wlo 1 (fun x => { x with cal := some (wcal 31 0) }) (wall 1 b)
    let p : Nat := 1
    let m : Nat := 31
    let c : Cal := wcal 31 0
    let b := s.blk.tick t
    let own := (b.lm p m).plan ≠ 0 ∧ (b.lm p m).planBy = 1
    (b.works (33 + p) = true) ∧
    (p < 2) ∧
    ((b.lo1 p).cal = some c) ∧
    (c.mem = m) ∧
    (c.phase = 0) ∧
    (¬own) ∧
    (b.planOk p m = true)) ∧
   (let t : Time := 0
    let s : State := won (wlo 1 fun x => { x with cal := some ⟨31, false, 0, 7, 0⟩ })
    let p : Nat := 1
    let m : Nat := 31
    let c : Cal := ⟨31, false, 0, 7, 0⟩
    let b := s.blk.tick t
    let own := (b.lm p m).plan ≠ 0 ∧ (b.lm p m).planBy = 1
    (b.works (33 + p) = true) ∧
    (p < 2) ∧
    ((b.lo1 p).cal = some c) ∧
    (c.mem = m) ∧
    (c.phase = 0) ∧
    (¬own) ∧
    (b.planOk p m = false) ∧
    (7 ≤ c.refuse)) ∧
   (let t : Time := 0
    let s : State := won (wlo 1 fun x => { x with cal := some ⟨31, false, 0, 6, 0⟩ })
    let p : Nat := 1
    let m : Nat := 31
    let c : Cal := ⟨31, false, 0, 6, 0⟩
    let b := s.blk.tick t
    let own := (b.lm p m).plan ≠ 0 ∧ (b.lm p m).planBy = 1
    (b.works (33 + p) = true) ∧
    (p < 2) ∧
    ((b.lo1 p).cal = some c) ∧
    (c.mem = m) ∧
    (c.phase = 0) ∧
    (¬own) ∧
    (b.planOk p m = false) ∧
    (c.refuse < 7)) ∧
   (let t : Time := 80000000000
    let s : State := won (wlm 1 31 fun x => { x with plan := 3, back := some 0 })
    let t0 : Time := 0
    let p : Nat := 1
    let m : Nat := 31
    let b := s.blk.tick t
    (b.works (33 + p) = true) ∧
    (p < 2) ∧
    ((b.lm p m).plan = 3) ∧
    ((b.lm p m).back = some t0) ∧
    (t0 + tenSec ≤ b.now)) ∧
   (let t : Time := 79999999999
    let s : State := won (wlm 1 31 fun x => { x with plan := 3, back := some 0 })
    let t0 : Time := 0
    let p : Nat := 1
    let m : Nat := 31
    let b := s.blk.tick t
    (b.works (33 + p) = true) ∧
    (p < 2) ∧
    ((b.lm p m).plan = 3) ∧
    ((b.lm p m).back = some t0) ∧
    (b.now < t0 + tenSec)) ∧
   (let t : Time := 80000000000
    let s : State := won fun b => b.modLp 1 fun x => { x with adds := [(3, 31, 0)] }
    let p : Nat := 1
    let id : Nat := 3
    let k : Nat := 31
    let t0 : Nat := 0
    let b := s.blk.tick t
    (b.works (33 + p) = true) ∧
    (p < 2) ∧
    ((b.lp p).adds = [(id, k, t0)]) ∧
    (t0 + tenSec ≤ b.now)) := by
  refine ⟨?_, ?_, ?_, ?_, ?_, ?_, ?_, ?_⟩
  · decide
  · decide
  · decide
  · decide
  · decide
  · decide
  · decide
  refine ⟨?_, ?_, ?_, ?_, ?_, ?_, ?_, ?_⟩
  · decide
  · decide
  · decide
  · decide
  · decide
  · decide
  · decide
  refine ⟨?_, ?_, ?_, ?_⟩
  · decide
  · decide
  · decide
  · decide

/-- States that meet the hypotheses of `Obligations.PerformanceMonitoring`, clause by clause. -/
theorem wit_PerformanceMonitoring :
   (let t : Time := 0
    let s : State := won id
    let b := s.blk.tick t
    (b.pcr.phase = 4)) ∧
   (let b : Block := wup
    let p : Nat := 1
    let o : Nat := 32
    ((b.pm p o).cur.sec = b.tuSec)) ∧
   (let t : Time := 0
    let s : State := won id
    let b := s.blk.tick t
    (b.pcr.phase = 4)) ∧
   (let t : Time := 0
    let s : State := won id
    let p : Nat := 1
    let b := s.blk.tick t
    (b.works (33 + p) = true) ∧
    (p < 2)) ∧
   (let t : Time := 0
    let r : Req := wq 0 0 [(24, 0x100000), (28, 1), (32, 0x100000000), (40, 15)]
    let s : State := won id
    let b := Ci.taken 0x0902 r (s.blk.tick t)
    let id := (s.blk.tick t).freshId
    let recs := (((List.range 33).filter fun o => Bits.bit (r.u 32 8) o).map fun o => (b.pm r.a2 o).records r.a2 o (r.u 40 1)).flatten
    (Starts 0x0902 r t s b id) ∧
    (r.a0 % 64 = 0) ∧
    (r.a0 + r.a1 ≤ 0x6000000000) ∧
    (64 * recs.length ≤ r.a1) ∧
    (r.a2 < 2) ∧
    (r.u 32 8 < 2 ^ 33) ∧
    (r.u 40 1 < 16) ∧
    (r.u 41 23 = 0)) := by
  refine ⟨?_, ?_, ?_, ?_, ?_⟩
  · decide
  · decide
  · decide
  · decide
  · refine ⟨⟨by decide, rfl, rfl⟩, ?_⟩
    and_intros <;> decide

/-- States that meet the hypotheses of `Obligations.CombLasersAndEyeSafety`, clause by clause. -/
theorem wit_CombLasersAndEyeSafety :
   (let t : Time := 0
    let r : Req := wq 0 0 [(24, 1), (28, 255)]
    let s : State := won fun b => b.putFld (R.loStat 1) 1 0 2
    let b := Ci.taken 0x0607 r (s.blk.tick t)
    let id := (s.blk.tick t).freshId
    let p := r.a1
    let k := if r.u 32 1 = 1 then 1 else 2
    (Starts 0x0607 r t s b id) ∧
    (r.u 16 8 = 0) ∧
    (p < 2) ∧
    (r.a2 = 0xFF) ∧
    (r.u 32 1 < 2) ∧
    (r.u 33 31 = 0) ∧
    (b.combActive p = k)) ∧
   (let t : Time := 0
    let r : Req := wq 0 0 [(24, 1), (28, 255), (32, 1)]
    let s : State := won fun b => b.putFld (R.loStat 1) 1 0 2
    let b := Ci.taken 0x0607 r (s.blk.tick t)
    let id := (s.blk.tick t).freshId
    let p := r.a1
    let k := if r.u 32 1 = 1 then 1 else 2
    (Starts 0x0607 r t s b id) ∧
    (r.u 16 8 = 0) ∧
    (p < 2) ∧
    (r.a2 = 0xFF) ∧
    (r.u 32 1 < 2) ∧
    (r.u 33 31 = 0) ∧
    (b.combActive p ≠ k) ∧
    (b.lfState p = 0)) ∧
   (let t : Time := 0
    let r : Req := wq 0 0 [(24, 1), (28, 255), (32, 1)]
    let s : State := won fun b => wlo 1 (fun x => { x with bring := some ⟨1, 0, some 3, false⟩ }) (wlf 1 1 b)
    let b := Ci.taken 0x0607 r (s.blk.tick t)
    let id := (s.blk.tick t).freshId
    let p := r.a1
    let k := if r.u 32 1 = 1 then 1 else 2
    (Starts 0x0607 r t s b id) ∧
    (r.u 16 8 = 0) ∧
    (p < 2) ∧
    (r.a2 = 0xFF) ∧
    (r.u 32 1 < 2) ∧
    (r.u 33 31 = 0) ∧
    (b.combActive p ≠ k) ∧
    (b.lfState p ≠ 0) ∧
    (b.switching p = true)) ∧
   (let t : Time := 0
    let r : Req := wq 0 0 [(24, 1), (28, 255), (32, 1)]
    let s : State := won fun b => (wlf 1 1 b).setFunc 0x201 ⟨1, none, none, [], false, 0⟩
    let b := Ci.taken 0x0607 r (s.blk.tick t)
    let id := (s.blk.tick t).freshId
    let p := r.a1
    let k := if r.u 32 1 = 1 then 1 else 2
    (Starts 0x0607 r t s b id) ∧
    (r.u 16 8 = 0) ∧
    (p < 2) ∧
    (r.a2 = 0xFF) ∧
    (r.u 32 1 < 2) ∧
    (r.u 33 31 = 0) ∧
    (b.combActive p ≠ k) ∧
    (b.lfState p ≠ 0) ∧
    (b.switching p = false) ∧
    (b.funcMode (0x200 + p) = 1 ∨ b.combActive p ≠ 0 ∨ (b.lo1 p).bring ≠ none)) ∧
   (let t : Time := 0
    let r : Req := wq 0 0 [(24, 1), (28, 255), (32, 1)]
    let s : State := won fun b => (wlf 1 1 b).setFunc 0x201 ⟨0, none, none, [], false, 0⟩
    let b := Ci.taken 0x0607 r (s.blk.tick t)
    let id := (s.blk.tick t).freshId
    let p := r.a1
    (Starts 0x0607 r t s b id) ∧
    (r.u 16 8 = 0) ∧
    (p < 2) ∧
    (r.a2 = 0xFF) ∧
    (r.u 32 1 < 2) ∧
    (r.u 33 31 = 0) ∧
    (b.combActive p = 0) ∧
    (b.lfState p ≠ 0) ∧
    (b.switching p = false) ∧
    (b.funcMode (0x200 + p) ≠ 1) ∧
    ((b.lo1 p).bring = none)) ∧
   (let t : Time := 0
    let s : State := won fun b => (wlf 1 1 b).setFunc 0x201 ⟨1, none, none, [], false, 0⟩
    let p : Nat := 1
    let b := s.blk.tick t
    let x := b.lo1 p
    let k := if b.laser p x.target = 2 ∧ x.picked = false then 3 - x.target else x.target
    (b.pcr.phase = 4) ∧
    (p < 2) ∧
    (b.cpOut (6 + p) = false) ∧
    (b.lfState p ≠ 0) ∧
    (b.funcMode (0x200 + p) = 1) ∧
    (b.combActive p = 0) ∧
    (x.bring = none) ∧
    (b.laser p k ≠ 2 ∨ x.picked = true)) ∧
   (let t : Time := 0
    let s : State := won fun b => b.putFld (R.loStat 1) 1 0 2
    let p : Nat := 1
    let b := s.blk.tick t
    (b.pcr.phase = 4) ∧
    (p < 2) ∧
    (b.cpOut (6 + p) = false) ∧
    (b.combActive p ≠ 0 ∨ b.funcMode (0x200 + p) ≠ 1)) ∧
   (let t : Time := 0
    let s : State := won (wlo 1 fun x => { x with bring := some ⟨1, 0, none, false⟩ })
    let p : Nat := 1
    let x : BringUp := ⟨wbring.ends, { wbring.comb with freq := [] }, wbring.rings, wbring.bias⟩
    let g : Bring := ⟨1, 0, none, false⟩
    let b := s.blk.tick t
    let good := (∀ i, i < 7 → ∃ e, x.ends[i]? = some e ∧ e ≤ [300, 350, 450, 470, 570, 634, 644].getD i 0 * ms) ∧ LineScan.usable x.comb.scan = 0xFFFFFFFF ∧ Lo.onPlan x.comb.freq = true ∧ b.now ≤ g.since + 645 * ms
    (b.pcr.phase = 4) ∧
    (p < 2) ∧
    (b.cpOut (6 + p) = false) ∧
    ((b.lo1 p).bring = some g) ∧
    (¬good)) ∧
   (let t : Time := 0
    let s : State := won (wlo 1 fun x => { x with bring := some ⟨1, 0, none, false⟩ })
    let p : Nat := 1
    let x : BringUp := wbring
    let g : Bring := ⟨1, 0, none, false⟩
    let b := s.blk.tick t
    let good := (∀ i, i < 7 → ∃ e, x.ends[i]? = some e ∧ e ≤ [300, 350, 450, 470, 570, 634, 644].getD i 0 * ms) ∧ LineScan.usable x.comb.scan = 0xFFFFFFFF ∧ Lo.onPlan x.comb.freq = true ∧ b.now ≤ g.since + 645 * ms
    (b.pcr.phase = 4) ∧
    (p < 2) ∧
    (b.cpOut (6 + p) = false) ∧
    ((b.lo1 p).bring = some g) ∧
    (good) ∧
    (g.cmd = none)) ∧
   (let t : Time := 0
    let s : State := won (wlo 1 fun x => { x with bring := some ⟨1, 0, some 3, false⟩ })
    let p : Nat := 1
    let x : BringUp := wbring
    let g : Bring := ⟨1, 0, some 3, false⟩
    let b := s.blk.tick t
    let good := (∀ i, i < 7 → ∃ e, x.ends[i]? = some e ∧ e ≤ [300, 350, 450, 470, 570, 634, 644].getD i 0 * ms) ∧ LineScan.usable x.comb.scan = 0xFFFFFFFF ∧ Lo.onPlan x.comb.freq = true ∧ b.now ≤ g.since + 645 * ms
    let id := 3
    (b.pcr.phase = 4) ∧
    (p < 2) ∧
    (b.cpOut (6 + p) = false) ∧
    ((b.lo1 p).bring = some g) ∧
    (good) ∧
    (g.cmd = some id)) ∧
   (let t : Time := 0
    let s : State := won fun b => b.putFld (R.loStat 1) 1 0 2
    let p : Nat := 1
    let b := s.blk.tick t
    (b.pcr.phase = 4) ∧
    (p < 2) ∧
    (b.cpOut (6 + p) = false) ∧
    (b.combOn p = true)) ∧
   (let t : Time := 0
    let s : State := won id
    let p : Nat := 1
    let b := s.blk.tick t
    (b.pcr.phase = 4) ∧
    (p < 2) ∧
    (b.cpOut (6 + p) = false) ∧
    (b.combOn p = false)) ∧
   (let t : Time := 960000000
    let s : State := won (wlo 1 fun x => { x with reacq := some 0 })
    let t0 : Time := 0
    let p : Nat := 1
    let scan : LineScan := wscan
    let b := s.blk.tick t
    (b.pcr.phase = 4) ∧
    (p < 2) ∧
    (b.cpOut (6 + p) = false) ∧
    ((b.lo1 p).reacq = some t0) ∧
    (b.now ≤ t0 + 120 * ms) ∧
    ((b.lo1 p).reFail = false) ∧
    (LineScan.usable scan = 0xFFFFFFFF)) ∧
   (let t : Time := 960000000
    let s : State := won (wlo 1 fun x => { x with reacq := some 0, reFail := true })
    let t0 : Time := 0
    let p : Nat := 1
    let b := s.blk.tick t
    (b.pcr.phase = 4) ∧
    (p < 2) ∧
    (b.cpOut (6 + p) = false) ∧
    ((b.lo1 p).reacq = some t0) ∧
    ((b.lo1 p).reFail = true)) ∧
   (let t : Time := 960000000
    let s : State := won (wlo 1 fun x => { x with reacq := some 0 })
    let t0 : Time := 0
    let p : Nat := 1
    let scan : LineScan := ⟨[100], []⟩
    let b := s.blk.tick t
    (b.pcr.phase = 4) ∧
    (p < 2) ∧
    (b.cpOut (6 + p) = false) ∧
    ((b.lo1 p).reacq = some t0) ∧
    (b.now ≤ t0 + 120 * ms) ∧
    ((b.lo1 p).reFail = false) ∧
    (LineScan.usable scan ≠ 0xFFFFFFFF)) ∧
   (let t : Time := 960000000
    let s : State := won fun b => wlo 1 (fun x => { x with reacq := some 0, reFail := true }) ((b.putFld (R.loStat 1) 1 0 2).putFld (R.loCombCfg 1) 8 8 1)
    let t0 : Time := 0
    let p : Nat := 1
    let b := s.blk.tick t
    (b.pcr.phase = 4) ∧
    (p < 2) ∧
    (b.cpOut (6 + p) = false) ∧
    ((b.lo1 p).reacq = some t0) ∧
    ((b.lo1 p).reFail = true ∨ t0 + 120 * ms ≤ b.now) ∧
    (b.bit (R.loCombCfg p) 8 = true) ∧
    (b.combActive p ≠ 0) ∧
    (b.switching p = false)) ∧
   (let t : Time := 959999999
    let s : State := won (wlo 1 fun x => { x with reacq := some 0 })
    let t0 : Time := 0
    let p : Nat := 1
    let b := s.blk.tick t
    (b.pcr.phase = 4) ∧
    (p < 2) ∧
    (b.cpOut (6 + p) = false) ∧
    ((b.lo1 p).reacq = some t0) ∧
    ((b.lo1 p).reFail = false) ∧
    (b.now < t0 + 120 * ms)) ∧
   (let t : Time := 8000000000
    let s : State := won fun b => wlo 1 (fun x => { x with lowAt := some 0 }) ((b.putFld (R.loStat 1) 1 0 1).putFld (R.loCombCfg 1) 8 8 1)
    let t0 : Time := 0
    let p : Nat := 1
    let b := s.blk.tick t
    (b.pcr.phase = 4) ∧
    (p < 2) ∧
    (b.cpOut (6 + p) = false) ∧
    ((b.lo1 p).lowAt = some t0) ∧
    (t0 + 1000 * ms ≤ b.now) ∧
    (b.bit (R.loCombCfg p) 8 = true) ∧
    (b.combOn p = true) ∧
    (b.laser p (3 - b.combActive p) ≠ 2)) ∧
   (let t : Time := 7999999999
    let s : State := won (wlo 1 fun x => { x with lowAt := some 0 })
    let t0 : Time := 0
    let p : Nat := 1
    let b := s.blk.tick t
    (b.pcr.phase = 4) ∧
    (p < 2) ∧
    (b.cpOut (6 + p) = false) ∧
    ((b.lo1 p).lowAt = some t0) ∧
    (b.now < t0 + 1000 * ms)) ∧
   (let t : Time := 0
    let s : State := won fun b => b.putFld (R.loStat 1) 1 0 2
    let p : Nat := 1
    let x : LoTick := wlt
    let b := s.blk.tick t
    (b.pcr.phase = 4) ∧
    (p < 2) ∧
    (b.cpOut (6 + p) = false) ∧
    ((b.loReadings p x).combOn p = true)) ∧
   (let t : Time := 0
    let s : State := won id
    let p : Nat := 1
    let x : LoTick := wlt
    let b := s.blk.tick t
    (b.pcr.phase = 4) ∧
    (p < 2) ∧
    (b.cpOut (6 + p) = false) ∧
    ((b.loReadings p x).combOn p = false)) ∧
   (let t : Time := 32768000000
    let s : State := won fun b => wlo 1 (fun x => { x with darkAt := some 0 }) (wlf 1 1 b)
    let p : Nat := 1
    let b := s.blk.tick t
    let dark := ∃ t0, (b.lo1 p).darkAt = some t0 ∧ t0 + b.fld (R.loSafeCfg p) 11 0 * ms ≤ b.now
    let reflects := ∃ t0, (b.lo1 p).reflAt = some t0 ∧ t0 + 10 * ms ≤ b.now
    (b.pcr.phase = 4) ∧
    (p < 2) ∧
    (b.bit (R.loSafeCfg p) 31 = false) ∧
    (b.safe p = false) ∧
    (b.lfState p ≠ 0) ∧
    (dark ∨ reflects)) ∧
   (let t : Time := 0
    let s : State := won fun b => wlf 1 1 (b.putFld (R.loStat 1) 31 31 1)
    let p : Nat := 1
    let b := s.blk.tick t
    let dark := ∃ t0, (b.lo1 p).darkAt = some t0 ∧ t0 + b.fld (R.loSafeCfg p) 11 0 * ms ≤ b.now
    let reflects := ∃ t0, (b.lo1 p).reflAt = some t0 ∧ t0 + 10 * ms ≤ b.now
    (b.pcr.phase = 4) ∧
    (p < 2) ∧
    (b.bit (R.loSafeCfg p) 31 = true ∨ b.safe p = true ∨ ¬(dark ∨ reflects))) ∧
   (let t : Time := 0
    let s : State := won id
    let p : Nat := 1
    let b := s.blk.tick t
    (b.pcr.phase = 4) ∧
    (p < 2) ∧
    (b.cpOut (6 + p) = false) ∧
    (b.safe p = false)) ∧
   (let t : Time := 0
    let s : State := won fun b => b.putFld (R.loStat 1) 31 31 1
    let p : Nat := 1
    let b := s.blk.tick t
    (b.pcr.phase = 4) ∧
    (p < 2) ∧
    (b.cpOut (6 + p) = false) ∧
    (b.safe p = true) ∧
    ((b.lo1 p).probe = none) ∧
    ((b.lo1 p).powerAt = none) ∧
    ((b.lo1 p).probeNext ≤ b.now)) ∧
   (let t : Time := 800000000
    let s : State := won fun b => wlo 1 (fun x => { x with powerAt := some 0 }) (b.putFld (R.loStat 1) 31 31 1)
    let t0 : Time := 0
    let p : Nat := 1
    let b := s.blk.tick t
    (b.pcr.phase = 4) ∧
    (p < 2) ∧
    (b.cpOut (6 + p) = false) ∧
    (b.safe p = true) ∧
    ((b.lo1 p).powerAt = some t0) ∧
    (t0 + 100 * ms ≤ b.now)) ∧
   (let t : Time := 16000000000
    let s : State := won fun b => wlo 1 (fun x => { x with probe := some 0 }) (b.putFld (R.loStat 1) 31 31 1)
    let t0 : Time := 0
    let p : Nat := 1
    let b := s.blk.tick t
    (b.pcr.phase = 4) ∧
    (p < 2) ∧
    (b.cpOut (6 + p) = false) ∧
    ((b.lo1 p).probe = some t0) ∧
    (t0 + 2000 * ms ≤ b.now)) ∧
   (let t : Time := 15999999999
    let s : State := won fun b => wlo 1 (fun x => { x with probe := some 0 }) (b.putFld (R.loStat 1) 31 31 1)
    let t0 : Time := 0
    let p : Nat := 1
    let b := s.blk.tick t
    (b.pcr.phase = 4) ∧
    (p < 2) ∧
    (b.cpOut (6 + p) = false) ∧
    ((b.lo1 p).probe = some t0) ∧
    (b.now < t0 + 2000 * ms)) ∧
   (let t : Time := 0
    let s : State := won id
    let b := s.blk.tick t
    (b.pcr.phase = 4) ∧
    (b.combActive 0 = 0) ∧
    (b.combActive 1 = 0)) ∧
   (let t : Time := 0
    let s : State := won fun b => b.putFld (R.loStat 1) 1 0 1
    let b := s.blk.tick t
    (b.pcr.phase = 4) ∧
    (b.combActive 0 = 0) ∧
    (b.combActive 1 = 1)) := by
  refine ⟨?_, ?_, ?_, ?_, ?_, ?_, ?_, ?_⟩
  · refine ⟨⟨by decide, rfl, rfl⟩, ?_⟩
    and_intros <;> decide
  · refine ⟨⟨by decide, rfl, rfl⟩, ?_⟩
    and_intros <;> decide
  · refine ⟨⟨by decide, rfl, rfl⟩, ?_⟩
    and_intros <;> decide
  · refine ⟨⟨by decide, rfl, rfl⟩, ?_⟩
    and_intros <;> decide
  · refine ⟨⟨by decide, rfl, rfl⟩, ?_⟩
    and_intros <;> decide
  · decide
  · decide
  refine ⟨?_, ?_, ?_, ?_, ?_, ?_, ?_, ?_⟩
  · exact ⟨by decide, by decide, by decide, by decide, fun h => absurd h.2.2.1 (by decide)⟩
  · exact ⟨by decide, by decide, by decide, by decide, wbring_good, rfl⟩
  · exact ⟨by decide, by decide, by decide, by decide, wbring_good, rfl⟩
  · decide
  · decide
  · exact ⟨by decide, by decide, by decide, by decide, by decide, by decide, wbring_good.2.1⟩
  · decide +kernel
  refine ⟨?_, ?_, ?_, ?_, ?_, ?_, ?_, ?_⟩
  · decide +kernel
  · decide
  · decide
  · decide
  · decide
  · decide
  · decide
  refine ⟨?_, ?_, ?_, ?_, ?_, ?_, ?_, ?_⟩
  · exact ⟨by decide, by decide, by decide, by decide, by decide, Or.inl ⟨0, by decide, by decide⟩⟩
  · exact ⟨by decide, by decide, Or.inr (Or.inl (by decide))⟩
  · decide
  · decide
  · decide
  · decide
  · decide
  refine ⟨?_, ?_⟩
  · decide
  · decide

/-- States that meet the hypotheses of `Obligations.RingsCalibrationAndLaunch`, clause by clause. -/
theorem wit_RingsCalibrationAndLaunch :
   (let t : Time := 0
    let r : Req := wq 0 0 [(24, 1), (28, 255), (32, 1)]
    let s : State := won (wlo 1 fun x => { x with tune := some (3, 0) })
    let b := Ci.taken 0x0605 r (s.blk.tick t)
    let id := (s.blk.tick t).freshId
    let p := r.a1
    (Starts 0x0605 r t s b id) ∧
    (r.u 16 8 = 0) ∧
    (p < 2) ∧
    (r.a2 = 0xFF) ∧
    (r.u 32 1 < 2) ∧
    (r.u 33 31 = 0) ∧
    ((b.lo1 p).tune ≠ none ∨ (b.lo1 p).tuneWait ≠ none)) ∧
   (let t : Time := 0
    let r : Req := wq 0 0 [(24, 1), (28, 255), (32, 1)]
    let s : State := won (wlo 1 fun x => { x with cal := some (wcal 31 0) })
    let b := Ci.taken 0x0605 r (s.blk.tick t)
    let id := (s.blk.tick t).freshId
    let p := r.a1
    (Starts 0x0605 r t s b id) ∧
    (r.u 16 8 = 0) ∧
    (p < 2) ∧
    (r.a2 = 0xFF) ∧
    (r.u 32 1 < 2) ∧
    (r.u 33 31 = 0) ∧
    ((b.lo1 p).tune = none) ∧
    ((b.lo1 p).tuneWait = none) ∧
    ((b.lo1 p).cal ≠ none)) ∧
   (let t : Time := 0
    let r : Req := wq 0 0 [(24, 1), (28, 255), (32, 1)]
    let s : State := won id
    let b := Ci.taken 0x0605 r (s.blk.tick t)
    let id := (s.blk.tick t).freshId
    let p := r.a1
    (Starts 0x0605 r t s b id) ∧
    (r.u 16 8 = 0) ∧
    (p < 2) ∧
    (r.a2 = 0xFF) ∧
    (r.u 32 1 < 2) ∧
    (r.u 33 31 = 0) ∧
    ((b.lo1 p).tune = none) ∧
    ((b.lo1 p).tuneWait = none) ∧
    ((b.lo1 p).cal = none)) ∧
   (let t : Time := 800000000
    let s : State := won (wlo 1 fun x => { x with tune := some (3, 0) })
    let t0 : Time := 0
    let p : Nat := 1
    let id : Nat := 3
    let b := s.blk.tick t
    (b.pcr.phase = 4) ∧
    (p < 2) ∧
    (b.cpOut (6 + p) = false) ∧
    ((b.lo1 p).tune = some (id, t0)) ∧
    (t0 + 100 * ms ≤ b.now)) ∧
   (let t : Time := 799999999
    let s : State := won (wlo 1 fun x => { x with tune := some (3, 0) })
    let t0 : Time := 0
    let p : Nat := 1
    let id : Nat := 3
    let b := s.blk.tick t
    (b.pcr.phase = 4) ∧
    (p < 2) ∧
    (b.cpOut (6 + p) = false) ∧
    ((b.lo1 p).tune = some (id, t0)) ∧
    (b.now < t0 + 100 * ms)) ∧
   (let t : Time := 0
    let s : State := won id
    let p : Nat := 1
    let x : RingTick := ⟨[], [], 0, false⟩
    let b := s.blk.tick t
    let out := b.heatOut p x
    let c := (((List.range 32).foldl (Block.ringMember p x b) (b.loopFlag p 2 (out && !x.lim) (out && x.lim))).ringNotes p x b)
    (b.pcr.phase = 4) ∧
    (p < 2) ∧
    (b.cpOut (6 + p) = false) ∧
    ((c.lo1 p).tune = none)) ∧
   (let t : Time := 0
    let s : State := won (wlo 1 fun x => { x with tune := some (3, 0) })
    let p : Nat := 1
    let x : RingTick := ⟨[], [], 0, false⟩
    let b := s.blk.tick t
    let out := b.heatOut p x
    let c := (((List.range 32).foldl (Block.ringMember p x b) (b.loopFlag p 2 (out && !x.lim) (out && x.lim))).ringNotes p x b)
    let id := 3
    let t0 := 0
    (b.pcr.phase = 4) ∧
    (p < 2) ∧
    (b.cpOut (6 + p) = false) ∧
    ((c.lo1 p).tune = some (id, t0)) ∧
    (c.ringsLocked p = true)) ∧
   (let t : Time := 0
    let s : State := won fun b => wlo 1 (fun x => { x with tune := some (3, 0) }) (b.putBit (R.loMStat 1 31) 31 true)
    let p : Nat := 1
    let x : RingTick := ⟨[], [], 0, false⟩
    let b := s.blk.tick t
    let out := b.heatOut p x
    let c := (((List.range 32).foldl (Block.ringMember p x b) (b.loopFlag p 2 (out && !x.lim) (out && x.lim))).ringNotes p x b)
    let id := 3
    let t0 := 0
    (b.pcr.phase = 4) ∧
    (p < 2) ∧
    (b.cpOut (6 + p) = false) ∧
    ((c.lo1 p).tune = some (id, t0)) ∧
    (c.ringsLocked p = false)) ∧
   (let t : Time := 0
    let s : State := won id
    let p : Nat := 1
    let m : Nat := 31
    let b := s.blk.tick t
    (b.pcr.phase = 4) ∧
    (p < 2) ∧
    (m < 32) ∧
    (b.cpOut (6 + p) = false) ∧
    (b.tuneEff p = 0) ∧
    ((∀ k ∈ [m, 32 + m, 64 + m], AMap.get? (b.lo1 p).unlock k = none))) ∧
   (let t : Time := 8000000
    let s : State := won fun b => wlo 1 (fun x => { x with unlock := [(31, 0)] }) (b.putFld (R.loStat 1) 1 0 1)
    let p : Nat := 1
    let m : Nat := 31
    let b := s.blk.tick t
    (b.pcr.phase = 4) ∧
    (p < 2) ∧
    (m < 32) ∧
    (b.cpOut (6 + p) = false) ∧
    (b.lostRings p m ≠ []) ∧
    (b.combOn p = true) ∧
    (m ∉ (b.lo1 p).relock)) ∧
   (let t : Time := 0
    let s : State := won (wlo 1 fun x => { x with relock := [31] })
    let p : Nat := 1
    let m : Nat := 31
    let b := s.blk.tick t
    (b.pcr.phase = 4) ∧
    (p < 2) ∧
    (m < 32) ∧
    (b.cpOut (6 + p) = false) ∧
    (m ∈ (b.lo1 p).relock)) ∧
   (let t : Time := 0
    let s : State := won id
    let p : Nat := 1
    let m : Nat := 31
    let b := s.blk.tick t
    (b.pcr.phase = 4) ∧
    (p < 2) ∧
    (m < 32) ∧
    (b.cpOut (6 + p) = false) ∧
    (m ∉ (b.lo1 p).relock)) ∧
   (let t : Time := 0
    let s : State := won fun b => wlo 1 (fun x => { x with calSoon := [31] }) ((wlf 1 3 b).setFunc 0x601 ⟨1, none, none, [], false, 0⟩)
    let p : Nat := 1
    let m : Nat := 31
    let rest : List Nat := []
    let b := s.blk.tick t
    (b.pcr.phase = 4) ∧
    (p < 2) ∧
    (b.cpOut (6 + p) = false) ∧
    (b.funcMode (0x600 + p) = 1) ∧
    (b.lineUp p = true) ∧
    (b.bit (R.lfStat p) 5 = false) ∧
    ((b.lo1 p).cal = none) ∧
    ((b.lo1 p).calSoon = m :: rest)) ∧
   (let t : Time := 0
    let s : State := won fun b => wlo 1 (fun x => { x with calNext := (0, 5) }) ((wlf 1 3 b).setFunc 0x601 ⟨1, none, none, [], false, 0⟩)
    let p : Nat := 1
    let b := s.blk.tick t
    let k := 0
    let at_ := 5
    (b.pcr.phase = 4) ∧
    (p < 2) ∧
    (b.cpOut (6 + p) = false) ∧
    (b.funcMode (0x600 + p) = 1) ∧
    (b.lineUp p = true) ∧
    (b.bit (R.lfStat p) 5 = false) ∧
    ((b.lo1 p).cal = none) ∧
    ((b.lo1 p).calSoon = []) ∧
    ((b.lo1 p).calNext = (k, at_)) ∧
    (b.now < at_)) ∧
   (let t : Time := 5
    let s : State := won fun b => wlo 1 (fun x => { x with calNext := (0, 5) }) ((wlf 1 3 b).setFunc 0x601 ⟨1, none, none, [], false, 0⟩)
    let p : Nat := 1
    let b := s.blk.tick t
    let k := 0
    let at_ := 5
    (b.pcr.phase = 4) ∧
    (p < 2) ∧
    (b.cpOut (6 + p) = false) ∧
    (b.funcMode (0x600 + p) = 1) ∧
    (b.lineUp p = true) ∧
    (b.bit (R.lfStat p) 5 = false) ∧
    ((b.lo1 p).cal = none) ∧
    ((b.lo1 p).calSoon = []) ∧
    ((b.lo1 p).calNext = (k, at_)) ∧
    (at_ ≤ b.now)) ∧
   (let t : Time := 0
    let s : State := won fun b => wlo 1 (fun x => { x with cal := some (wcal 31 0) }) ((wlf 1 3 b).setFunc 0x601 ⟨1, none, none, [], false, 0⟩)
    let p : Nat := 1
    let b := s.blk.tick t
    (b.pcr.phase = 4) ∧
    (p < 2) ∧
    (b.cpOut (6 + p) = false) ∧
    ((b.lo1 p).cal ≠ none)) ∧
   (let t : Time := 0
    let s : State := won fun b => wlo 1 (fun x => { x with cal := some (wcal 31 1) }) (wlm 1 31 (fun x => { x with plan := 2, freed := true }) b)
    let p : Nat := 1
    let c : Cal := wcal 31 1
    let b := s.blk.tick t
    (b.pcr.phase = 4) ∧
    (p < 2) ∧
    (b.cpOut (6 + p) = false) ∧
    ((b.lo1 p).cal = some c) ∧
    (c.phase = 1) ∧
    ((b.lm p c.mem).plan = 2) ∧
    ((b.lm p c.mem).freed = true)) ∧
   (let t : Time := 160000000
    let s : State := won (wlo 1 fun x => { x with cal := some (wcal 31 2) })
    let p : Nat := 1
    let c : Cal := wcal 31 2
    let b := s.blk.tick t
    (b.pcr.phase = 4) ∧
    (p < 2) ∧
    (b.cpOut (6 + p) = false) ∧
    ((b.lo1 p).cal = some c) ∧
    (c.phase = 2 ∨ c.phase = 5) ∧
    (c.since + 20 * ms ≤ b.now)) ∧
   (let t : Time := 159999999
    let s : State := won (wlo 1 fun x => { x with cal := some (wcal 31 2) })
    let p : Nat := 1
    let c : Cal := wcal 31 2
    let b := s.blk.tick t
    (b.pcr.phase = 4) ∧
    (p < 2) ∧
    (b.cpOut (6 + p) = false) ∧
    ((b.lo1 p).cal = some c) ∧
    (c.phase = 2 ∨ c.phase = 5) ∧
    (b.now < c.since + 20 * ms)) ∧
   (let t : Time := 8000000000
    let s : State := won (wlo 1 fun x => { x with cal := some (wcal 31 4) })
    let p : Nat := 1
    let c : Cal := wcal 31 4
    let b := s.blk.tick t
    (b.pcr.phase = 4) ∧
    (p < 2) ∧
    (b.cpOut (6 + p) = false) ∧
    ((b.lo1 p).cal = some c) ∧
    (c.phase = 4) ∧
    (c.since + 1000 * ms ≤ b.now)) ∧
   (let t : Time := 7999999999
    let s : State := won (wlo 1 fun x => { x with cal := some (wcal 31 4) })
    let p : Nat := 1
    let c : Cal := wcal 31 4
    let b := s.blk.tick t
    (b.pcr.phase = 4) ∧
    (p < 2) ∧
    (b.cpOut (6 + p) = false) ∧
    ((b.lo1 p).cal = some c) ∧
    (c.phase = 4) ∧
    (b.now < c.since + 1000 * ms)) ∧
   (let t : Time := 0
    let r : Req := wq 0 0 [(24, 1), (28, 255), (32, 10)]
    let s : State := won id
    let b := Ci.taken 0x0608 r (s.blk.tick t)
    let id := (s.blk.tick t).freshId
    let p := r.a1
    let v := Bits.toInt 16 (r.u 32 2)
    let sum := Bits.sum ((List.range 32).map fun k => if b.prov p k then Lf.linear (if r.a2 == 0xFF || r.a2 == k then v else Bits.toInt 16 (b.fld (R.loMLaunch p k) 15 0)) else 0)
    (Starts 0x0608 r t s b id) ∧
    (r.u 16 8 = 0) ∧
    (p < 2) ∧
    ((r.a2 < 32 ∨ r.a2 = 0xFF)) ∧
    (-80 ≤ v) ∧
    (v ≤ 10) ∧
    (sum ≤ Lf.linear (b.lo1 p).totMax) ∧
    (r.u 34 30 = 0)) ∧
   (let t : Time := 0
    let s : State := won id
    let p : Nat := 1
    let b := s.blk.tick t
    (b.pcr.phase = 4) ∧
    (p < 2) ∧
    (b.cpOut (6 + p) = false)) := by
  refine ⟨?_, ?_, ?_, ?_, ?_, ?_, ?_, ?_⟩
  · refine ⟨⟨by decide, rfl, rfl⟩, ?_⟩
    and_intros <;> decide
  · refine ⟨⟨by decide, rfl, rfl⟩, ?_⟩
    and_intros <;> decide
  · refine ⟨⟨by decide, rfl, rfl⟩, ?_⟩
    and_intros <;> decide
  · decide
  · decide
  · decide
  · decide
  refine ⟨?_, ?_, ?_, ?_, ?_, ?_, ?_, ?_⟩
  · decide
  · decide
  · decide
  · decide
  · decide
  · decide
  · decide
  refine ⟨?_, ?_, ?_, ?_, ?_, ?_, ?_, ?_⟩
  · decide
  · decide
  · decide
  · decide
  · decide
  · decide
  · decide
  refine ⟨?_, ?_⟩
  · refine ⟨⟨by decide, rfl, rfl⟩, ?_⟩
    and_intros <;> decide
  · decide

/-- States that meet the hypotheses of `Obligations.IdentityAndTamper`, clause by clause. -/
theorem wit_IdentityAndTamper :
   (let t : Time := 0
    let r : Req := wq 0 0 [(24, 70000)]
    let s : State := won id
    let b := Ci.taken 0x0801 r (s.blk.tick t)
    let id := (s.blk.tick t).freshId
    let n := 512 + 96 + b.certs.length
    (Starts 0x0801 r t s b id) ∧
    (r.a0 % 64 = 0) ∧
    (r.a0 + r.a1 ≤ 0x6000000000) ∧
    (n ≤ r.a1) ∧
    (r.u 28 4 = 0) ∧
    (s.alarmAt t = false) ∧
    (b.sec.due ≠ some b.now)) ∧
   (let t : Time := 0
    let r : Req := wq 0 0 [(24, 400), (28, 1), (32, 9)]
    let s : State := won id
    let b := Ci.taken 0x0802 r (s.blk.tick t)
    let id := (s.blk.tick t).freshId
    let p := r.a2
    let peer := r.u 32 2
    (Starts 0x0802 r t s b id) ∧
    (r.a0 % 64 = 0) ∧
    (r.a0 + r.a1 ≤ 0x6000000000) ∧
    (r.a1 = 400) ∧
    (p < 2) ∧
    (peer ≠ b.gw) ∧
    ((∀ i < 30, r.u (34 + i) 1 = 0)) ∧
    (b.lfState p < 2 ∨ 4 < b.lfState p)) ∧
   (let t : Time := 0
    let r : Req := wq 0 0 [(24, 400), (28, 1), (32, 9)]
    let s : State := won fun b => { (wlf 1 3 b) with peerGw := [(1, 7)], ss := { b.ss with aggs := [(4, ⟨1, 0, 0, 0, 0, 0, 0, 0, 0⟩), (0, ⟨1, 0, 0, 0, 0, 0, 0, 0, 0⟩)] } }
    let b := Ci.taken 0x0802 r (s.blk.tick t)
    let id := (s.blk.tick t).freshId
    let p := r.a2
    let peer := r.u 32 2
    let g := 7
    (Starts 0x0802 r t s b id) ∧
    (r.a0 % 64 = 0) ∧
    (r.a0 + r.a1 ≤ 0x6000000000) ∧
    (r.a1 = 400) ∧
    (p < 2) ∧
    (peer ≠ b.gw) ∧
    ((∀ i < 30, r.u (34 + i) 1 = 0)) ∧
    (2 ≤ b.lfState p) ∧
    (b.lfState p ≤ 4) ∧
    (b.peerOf p = some g) ∧
    (g ≠ peer) ∧
    (b.admitSum (b.portSlot p) ≠ 0)) ∧
   (let t : Time := 0
    let r : Req := wq 0 0 [(24, 400), (28, 1), (32, 9)]
    let s : State := won fun b => (wlf 1 3 b).onSec fun s => { s with kx := [(1, wkx)] }
    let b := Ci.taken 0x0802 r (s.blk.tick t)
    let id := (s.blk.tick t).freshId
    let p := r.a2
    let peer := r.u 32 2
    (Starts 0x0802 r t s b id) ∧
    (r.a0 % 64 = 0) ∧
    (r.a0 + r.a1 ≤ 0x6000000000) ∧
    (r.a1 = 400) ∧
    (p < 2) ∧
    (peer ≠ b.gw) ∧
    ((∀ i < 30, r.u (34 + i) 1 = 0)) ∧
    (2 ≤ b.lfState p) ∧
    (b.lfState p ≤ 4) ∧
    ((∀ g, b.peerOf p = some g → g = peer ∨ b.admitSum (b.portSlot p) = 0)) ∧
    (b.kxOf p ≠ none)) ∧
   (let t : Time := 0
    let r : Req := wq 0 0 [(24, 400), (28, 1), (32, 9)]
    let s : State := won fun b => wmem [(0, 1, 1)] (wlf 1 3 b)
    let b := Ci.taken 0x0802 r (s.blk.tick t)
    let id := (s.blk.tick t).freshId
    let p := r.a2
    let peer := r.u 32 2
    (Starts 0x0802 r t s b id) ∧
    (r.a0 % 64 = 0) ∧
    (r.a0 + r.a1 ≤ 0x6000000000) ∧
    (r.a1 = 400) ∧
    (p < 2) ∧
    (peer ≠ b.gw) ∧
    ((∀ i < 30, r.u (34 + i) 1 = 0)) ∧
    (2 ≤ b.lfState p) ∧
    (b.lfState p ≤ 4) ∧
    ((∀ g, b.peerOf p = some g → g = peer ∨ b.admitSum (b.portSlot p) = 0)) ∧
    (b.kxOf p = none) ∧
    (Sec.policyBad (b.dxBytes r.a0 400) = none)) ∧
   (let t : Time := 0
    let s : State := won id
    let p : Nat := 1
    let n : Nat := 5
    let b := s.blk.tick t
    (b.pcr.phase = 4) ∧
    (p < 2) ∧
    (s.alarmAt t = false) ∧
    (b.sec.due ≠ some b.now) ∧
    (b.kxMessage p n = none)) ∧
   (let t : Time := 0
    let s : State := won fun b => b.onSec fun s => { s with frags := [⟨1, 1, 9, 0, 1, [0#8, 0#8, 7#8, 0#8]⟩] }
    let p : Nat := 1
    let x : Nat := 9
    let bytes : List Byte := [0#8, 0#8, 7#8, 0#8]
    let b := s.blk.tick t
    (b.pcr.phase = 4) ∧
    (p < 2) ∧
    (s.alarmAt t = false) ∧
    (b.sec.due ≠ some b.now) ∧
    (b.kxMessage p 1 = some (x, bytes)) ∧
    (b.kxOf p = none) ∧
    (b.autoResponds p (Bits.ofLe ((bytes.drop 2).take 2)) = false)) ∧
   (let t : Time := 0
    let s : State := won fun b => b.onSec fun s => { s with kx := [(1, { wkx with init := false })], frags := [⟨1, 1, 9, 0, 1, [0#8, 0#8, 7#8, 0#8]⟩] }
    let p : Nat := 1
    let x : Nat := 9
    let bytes : List Byte := [0#8, 0#8, 7#8, 0#8]
    let b := s.blk.tick t
    let k := { wkx with init := false }
    (b.pcr.phase = 4) ∧
    (p < 2) ∧
    (s.alarmAt t = false) ∧
    (b.sec.due ≠ some b.now) ∧
    (b.kxMessage p 1 = some (x, bytes)) ∧
    (b.kxOf p = some k) ∧
    (k.init = false) ∧
    (k.px ≠ some x)) ∧
   (let t : Time := 0
    let s : State := won fun b => b.onSec fun s => { s with kx := [(1, { wkx with step := 2 })], frags := [⟨1, 2, 9, 0, 1, [0#8, 0#8, 7#8, 0#8]⟩] }
    let p : Nat := 1
    let x : Nat := 9
    let bytes : List Byte := [0#8, 0#8, 7#8, 0#8]
    let b := s.blk.tick t
    let k := { wkx with step := 2 }
    (b.pcr.phase = 4) ∧
    (p < 2) ∧
    (s.alarmAt t = false) ∧
    (b.sec.due ≠ some b.now) ∧
    (b.kxMessage p 2 = some (x, bytes)) ∧
    (b.kxOf p = some k) ∧
    (k.init = true) ∧
    (k.step = 2)) ∧
   (let t : Time := 0
    let s : State := won fun b => b.onSec fun s => { s with kx := [(1, { wkx with init := false, step := 2, px := some 9 })], frags := [⟨1, 3, 9, 0, 1, [0#8, 0#8, 7#8, 0#8]⟩] }
    let p : Nat := 1
    let x : Nat := 9
    let bytes : List Byte := [0#8, 0#8, 7#8, 0#8]
    let b := s.blk.tick t
    let k := { wkx with init := false, step := 2, px := some 9 }
    (b.pcr.phase = 4) ∧
    (p < 2) ∧
    (s.alarmAt t = false) ∧
    (b.sec.due ≠ some b.now) ∧
    (b.kxMessage p 3 = some (x, bytes)) ∧
    (b.kxOf p = some k) ∧
    (k.init = false) ∧
    (k.step = 2) ∧
    (k.px = some x)) ∧
   (let t : Time := 0
    let s : State := won fun b => b.onSec fun s => { s with kx := [(1, { wkx with step := 3, px := some 9 })], frags := [⟨1, 4, 9, 0, 1, [0#8, 0#8, 7#8, 0#8]⟩] }
    let p : Nat := 1
    let x : Nat := 9
    let bytes : List Byte := [0#8, 0#8, 7#8, 0#8]
    let b := s.blk.tick t
    let k := { wkx with step := 3, px := some 9 }
    (b.pcr.phase = 4) ∧
    (p < 2) ∧
    (s.alarmAt t = false) ∧
    (b.sec.due ≠ some b.now) ∧
    (b.kxMessage p 4 = some (x, bytes)) ∧
    (b.kxOf p = some k) ∧
    (k.init = true) ∧
    (k.step = 3) ∧
    (k.px = some x)) ∧
   (let t : Time := 0
    let s : State := won fun b => b.onSec fun s => { s with kx := [(1, wkx)], frags := [⟨1, 5, 9, 0, 1, [0#8, 0#8, 7#8, 0#8]⟩] }
    let p : Nat := 1
    let x : Nat := 9
    let bytes : List Byte := [0#8, 0#8, 7#8, 0#8]
    let b := s.blk.tick t
    let k := wkx
    (b.pcr.phase = 4) ∧
    (p < 2) ∧
    (s.alarmAt t = false) ∧
    (b.sec.due ≠ some b.now) ∧
    (b.kxMessage p 5 = some (x, bytes)) ∧
    (b.kxOf p = some k) ∧
    ((k.px = none ∨ k.px = some x))) ∧
   (let t : Time := 9
    let s : State := won fun b => b.onSec fun s => { s with kx := [(1, wkx)] }
    let p : Nat := 1
    let k : Kx := wkx
    let b := s.blk.tick t
    (b.pcr.phase = 4) ∧
    (p < 2) ∧
    (s.alarmAt t = false) ∧
    (b.sec.due ≠ some b.now) ∧
    (b.kxOf p = some k) ∧
    (k.until_ ≤ b.now)) ∧
   (let t : Time := 8
    let s : State := won fun b => b.onSec fun s => { s with kx := [(1, wkx)] }
    let p : Nat := 1
    let k : Kx := wkx
    let b := s.blk.tick t
    (b.pcr.phase = 4) ∧
    (p < 2) ∧
    (s.alarmAt t = false) ∧
    (b.sec.due ≠ some b.now) ∧
    (b.kxOf p = some k) ∧
    (b.now < k.until_)) ∧
   (let t : Time := 0
    let r : Req := wq 0 0 [(24, 16)]
    let s : State := won fun b => b.putFld R.secStat 26 26 1
    let b := Ci.taken 0x0805 r (s.blk.tick t)
    let id := (s.blk.tick t).freshId
    (Starts 0x0805 r t s b id) ∧
    (r.a0 % 64 = 0) ∧
    (r.a0 + r.a1 ≤ 0x6000000000) ∧
    (r.a1 = 16) ∧
    (r.u 28 4 = 0) ∧
    (r.u 32 32 = 0) ∧
    (b.bit R.secStat 26 = true)) ∧
   (let t : Time := 0
    let r : Req := wq 0 0 [(24, 16)]
    let s : State := won id
    let b := Ci.taken 0x0805 r (s.blk.tick t)
    let id := (s.blk.tick t).freshId
    let d := b.dxBytes r.a0 16
    let o := 0
    (Starts 0x0805 r t s b id) ∧
    (r.a0 % 64 = 0) ∧
    (r.a0 + r.a1 ≤ 0x6000000000) ∧
    (r.a1 = 16) ∧
    (r.u 28 4 = 0) ∧
    (r.u 32 32 = 0) ∧
    (b.bit R.secStat 26 = false) ∧
    (Sec.tamperBad d = some o)) ∧
   (let t : Time := 0
    let r : Req := wq 0 0 [(24, 16)]
    let s : State := won (wmem [(0, 2, 605), (2, 2, 795), (4, 2, 0xFFD8), (6, 2, 125), (8, 1, 1)])
    let b := Ci.taken 0x0805 r (s.blk.tick t)
    let id := (s.blk.tick t).freshId
    let d := b.dxBytes r.a0 16
    let f (o w : Nat) : Nat := Bits.ofLe ((d.drop o).take w)
    (Starts 0x0805 r t s b id) ∧
    (r.a0 % 64 = 0) ∧
    (r.a0 + r.a1 ≤ 0x6000000000) ∧
    (r.a1 = 16) ∧
    (r.u 28 4 = 0) ∧
    (r.u 32 32 = 0) ∧
    (b.bit R.secStat 26 = false) ∧
    (Sec.tamperBad d = none) ∧
    (f 8 1 = 1)) ∧
   (let t : Time := 0
    let r : Req := wq 0 0 [(24, 16)]
    let s : State := won (wmem [(0, 2, 605), (2, 2, 795), (4, 2, 0xFFD8), (6, 2, 125)])
    let b := Ci.taken 0x0805 r (s.blk.tick t)
    let id := (s.blk.tick t).freshId
    let d := b.dxBytes r.a0 16
    let f (o w : Nat) : Nat := Bits.ofLe ((d.drop o).take w)
    (Starts 0x0805 r t s b id) ∧
    (r.a0 % 64 = 0) ∧
    (r.a0 + r.a1 ≤ 0x6000000000) ∧
    (r.a1 = 16) ∧
    (r.u 28 4 = 0) ∧
    (r.u 32 32 = 0) ∧
    (b.bit R.secStat 26 = false) ∧
    (Sec.tamperBad d = none) ∧
    (f 8 1 ≠ 1)) ∧
   (let t : Time := 0
    let s : State := won fun b => b.onPcr fun x => { x with phase := 0 }
    let b := s.blk.tick t
    (b.armed = false)) ∧
   (let t : Time := 0
    let s : State := won id
    let b := s.blk.tick t
    (b.armed = true)) := by
  refine ⟨?_, ?_, ?_, ?_, ?_, ?_, ?_, ?_⟩
  · exact ⟨⟨by decide, rfl, rfl⟩, by decide, by decide, (certs_le _).trans (by decide), by decide, by decide, by decide⟩
  · refine ⟨⟨by decide, rfl, rfl⟩, ?_⟩
    and_intros <;> decide
  · refine ⟨⟨by decide, rfl, rfl⟩, ?_⟩
    and_intros <;> decide
  · exact ⟨⟨by decide, rfl, rfl⟩, by decide, by decide, by decide, by decide, by decide, by decide, by decide, by decide, (fun g h => by cases h), by decide⟩
  · exact ⟨⟨by decide, rfl, rfl⟩, by decide, by decide, by decide, by decide, by decide, by decide, by decide, by decide, (fun g h => by cases h), by decide, by decide⟩
  · decide
  · decide
  refine ⟨?_, ?_, ?_, ?_, ?_, ?_, ?_, ?_⟩
  · decide
  · decide
  · decide
  · decide
  · decide
  · decide
  · decide
  refine ⟨?_, ?_, ?_, ?_, ?_, ?_⟩
  · refine ⟨⟨by decide, rfl, rfl⟩, ?_⟩
    and_intros <;> decide
  · refine ⟨⟨by decide, rfl, rfl⟩, ?_⟩
    and_intros <;> decide
  · refine ⟨⟨by decide, rfl, rfl⟩, ?_⟩
    and_intros <;> decide
  · refine ⟨⟨by decide, rfl, rfl⟩, ?_⟩
    and_intros <;> decide
  · decide
  · decide

/-- States that meet the hypotheses of `Obligations.MemoryAndScratch`, clause by clause. -/
theorem wit_MemoryAndScratch :
   (let t : Time := 0
    let s : State := won id
    let a : Nat := 0
    let b := s.blk.tick t
    (b.pcr.phase = 4) ∧
    (b.backed a = true)) ∧
   (let t : Time := 0
    let s : State := won id
    let a : Nat := 0xC1FFFFF
    let b := s.blk.tick t
    (b.pcr.phase = 4) ∧
    (a < 0xC200000)) ∧
   (let t : Time := 0
    let s : State := won id
    let a : Nat := 0x6000000000
    let b := s.blk.tick t
    (b.pcr.phase = 4) ∧
    (b.backed a = false)) ∧
   (let t : Time := 0
    let s : State := won id
    let a : Nat := 0
    let b := s.blk.tick t
    (b.pcr.phase = 4) ∧
    (b.backed a = true)) ∧
   (let t : Time := 0
    let s : State := won id
    let a : Nat := 0xC1FFFFF
    let b := s.blk.tick t
    (b.pcr.phase = 4) ∧
    (a < 0xC200000)) ∧
   (let t : Time := 0
    let s : State := won id
    let a : Nat := 0x3FFF
    let b := s.blk.tick t
    (b.pcr.phase = 4) ∧
    (a < 0x4000)) ∧
   (let t : Time := 0
    let s : State := won id
    let b := s.blk.tick t
    (b.pcr.phase = 4) ∧
    (b.funcOn 0x0700 = false)) ∧
   (let t : Time := 0
    let s : State := won fun b => { b.setFunc 0x700 ⟨1, none, none, [], false, 0⟩ with mc := { b.mc with poison := [0] } }
    let b := s.blk.tick t
    let u := b.mc.patrolAt
    (b.pcr.phase = 4) ∧
    (b.funcOn 0x0700 = true) ∧
    (b.poisonedUnit u = true)) ∧
   (let t : Time := 0
    let s : State := won fun b => { b.setFunc 0x700 ⟨1, none, none, [], false, 0⟩ with mc := { b.mc with patrolAt := 0x2FFFFFFFF } }
    let b := s.blk.tick t
    let u := b.mc.patrolAt
    (b.pcr.phase = 4) ∧
    (b.funcOn 0x0700 = true) ∧
    (b.poisonedUnit u = false)) ∧
   (let t : Time := 0
    let s : State := won id
    let b := s.blk.tick t
    (b.pcr.phase = 4) ∧
    (b.funcOn 0x0701 = false)) ∧
   (let t : Time := 0
    let s : State := won fun b => b.setFunc 0x701 ⟨1, none, none, [], false, 0⟩
    let b := s.blk.tick t
    (b.pcr.phase = 4) ∧
    (b.funcOn 0x0701 = true)) ∧
   (let t : Time := 0
    let s : State := won fun b => { b with mc := { b.mc with ues := [(127, List.replicate 255 0)] } }
    let c : Nat := 127
    let b := s.blk.tick t
    let recent := (AMap.getD b.mc.ues c []).filter fun t => b.now < t + 86400 * 8000000000
    (b.pcr.phase = 4) ∧
    (c < 128) ∧
    (b.fld R.memRetireCtl 31 24 ≤ recent.length)) ∧
   (let t : Time := 0
    let s : State := won id
    let c : Nat := 127
    let b := s.blk.tick t
    let recent := (AMap.getD b.mc.ues c []).filter fun t => b.now < t + 86400 * 8000000000
    (b.pcr.phase = 4) ∧
    (c < 128) ∧
    (recent.length < b.fld R.memRetireCtl 31 24)) ∧
   (let t : Time := 0
    let s : State := won id
    let c : Nat := 127
    let b := s.blk.tick t
    (b.pcr.phase = 4) ∧
    (c < 128)) ∧
   (let t : Time := 0
    let s : State := won fun b => { b with bm := { b.bm with have_ := List.replicate 8 0 }, mc := { b.mc with lostCh := [(127, 5)] } }
    let c : Nat := 127
    let n : Nat := 5
    let g : Nat := ((s.blk.tick t).frameFor 127).getD 0
    let b := s.blk.tick t
    (b.pcr.phase = 4) ∧
    (b.frameFor c = some g) ∧
    ((b.frameSpare = true ∨ b.frameGiver.isSome)) ∧
    (b.mc.lostCh.head? = some (c, n))) ∧
   (let t : Time := 0
    let s : State := won fun b => { b with bm := { b.bm with have_ := List.replicate 8 0 }, mc := { b.mc with retiring := some (127, 1534) } }
    let c : Nat := 127
    let n : Nat := 1534
    let g : Nat := ((s.blk.tick t).frameFor 127).getD 0
    let b := s.blk.tick t
    (b.pcr.phase = 4) ∧
    (b.frameFor c = some g) ∧
    ((b.frameSpare = true ∨ b.frameGiver.isSome)) ∧
    (b.mc.lostCh = []) ∧
    (b.mc.retiring = some (c, n)) ∧
    (n + 1 < 1536)) ∧
   (let t : Time := 0
    let s : State := won fun b => { b with bm := { b.bm with have_ := List.replicate 8 0 }, mc := { b.mc with retiring := some (127, 1535) } }
    let c : Nat := 127
    let n : Nat := 1535
    let g : Nat := ((s.blk.tick t).frameFor 127).getD 0
    let b := s.blk.tick t
    (b.pcr.phase = 4) ∧
    (b.frameFor c = some g) ∧
    ((b.frameSpare = true ∨ b.frameGiver.isSome)) ∧
    (b.mc.lostCh = []) ∧
    (b.mc.retiring = some (c, n)) ∧
    (1536 ≤ n + 1)) ∧
   (let t : Time := 0
    let s : State := won fun b => { b with mc := { b.mc with retiring := some (127, 1534) } }
    let c : Nat := 127
    let n : Nat := 1534
    let g : Nat := ((s.blk.tick t).frameFor 127).getD 0
    let b := s.blk.tick t
    (b.pcr.phase = 4) ∧
    (b.frameFor c = some g) ∧
    (b.frameSpare = false) ∧
    (b.frameGiver = none) ∧
    ((b.mc.lostCh.head? = some (c, n) ∨ b.mc.lostCh = [] ∧ b.mc.retiring = some (c, n)))) ∧
   (let t : Time := 0
    let s : State := won id
    let m : Nat := 63
    let k : Nat := 799
    let p1 : Bool := false
    let b := s.blk.tick t
    let x := b.bank (Bm.portKey k p1)
    (b.pcr.phase = 4) ∧
    (k < 800) ∧
    (m < 64) ∧
    (m ≠ 40) ∧
    ((Bm.admits x.owner m = false ∨ x.pending = true))) ∧
   (let t : Time := 0
    let s : State := won id
    let m : Nat := 3
    let k : Nat := 799
    let p1 : Bool := false
    let b := s.blk.tick t
    let x := b.bank (Bm.portKey k p1)
    (b.pcr.phase = 4) ∧
    (k < 800) ∧
    (m < 64) ∧
    (m ≠ 40) ∧
    (Bm.admits x.owner m = true) ∧
    (x.pending = false)) := by
  refine ⟨?_, ?_, ?_, ?_, ?_, ?_, ?_, ?_⟩
  · decide
  · decide
  · decide
  · decide
  · decide
  · decide
  · decide
  refine ⟨?_, ?_, ?_, ?_, ?_, ?_, ?_, ?_⟩
  · decide
  · decide
  · decide
  · decide
  · decide
  · decide
  · decide
  refine ⟨?_, ?_, ?_, ?_, ?_, ?_⟩
  · decide
  · decide
  · decide
  · decide
  · decide
  · decide

/-- States that meet the hypotheses of `Obligations.BufferManager`, clause by clause. -/
theorem wit_BufferManager :
   (let t : Time := 0
    let r : Req := wq 0 5 [(24, 4194304), (28, 6144)]
    let s : State := won wjob
    let b := Ci.taken 0x0501 r (s.blk.tick t)
    let id := (s.blk.tick t).freshId
    let owner := r.a2
    (Starts 0x0501 r t s b id) ∧
    (r.u 16 8 = 0) ∧
    (r.a1 ≠ 0) ∧
    (r.a1 ≤ 4194304) ∧
    (owner < 2 ^ 20) ∧
    (Own.bad owner = false) ∧
    (r.u 32 1 < 2) ∧
    (r.u 33 31 = 0) ∧
    (Own.engine owner ≠ 15) ∧
    (Own.job owner ≠ b.cmdJob r)) ∧
   (let t : Time := 0
    let r : Req := wq 0 5 [(24, 4194304), (28, 5120)]
    let s : State := won fun b => { wjob b with bm := { b.bm with have_ := List.replicate 8 0 } }
    let b := Ci.taken 0x0501 r (s.blk.tick t)
    let id := (s.blk.tick t).freshId
    let owner := r.a2
    (Starts 0x0501 r t s b id) ∧
    (r.u 16 8 = 0) ∧
    (r.a1 ≠ 0) ∧
    (r.a1 ≤ 4194304) ∧
    (owner < 2 ^ 20) ∧
    (Own.bad owner = false) ∧
    (r.u 32 1 < 2) ∧
    (r.u 33 31 = 0) ∧
    (Own.engine owner ≠ 15) ∧
    (Own.job owner = b.cmdJob r) ∧
    ((∀ p < 8, Bm.poolFor r.a1 ≤ p → (p < outPool ∨ b.class3Left + Bm.size p ≤ b.outFree) → b.slot p = none))) ∧
   (let t : Time := 0
    let r : Req := wq 0 5 [(24, 4194304), (28, 5120)]
    let s : State := won wjob
    let b := Ci.taken 0x0501 r (s.blk.tick t)
    let id := (s.blk.tick t).freshId
    let owner := r.a2
    let c := ((b.alloc 4194304 5120 false false).getD (wup, 0, 0, false)).1
    let p := ((b.alloc 4194304 5120 false false).getD (wup, 0, 0, false)).2.1
    let a := ((b.alloc 4194304 5120 false false).getD (wup, 0, 0, false)).2.2.1
    let scr := ((b.alloc 4194304 5120 false false).getD (wup, 0, 0, false)).2.2.2
    (Starts 0x0501 r t s b id) ∧
    (r.u 16 8 = 0) ∧
    (r.a1 ≠ 0) ∧
    (r.a1 ≤ 4194304) ∧
    (owner < 2 ^ 20) ∧
    (Own.bad owner = false) ∧
    (r.u 32 1 < 2) ∧
    (r.u 33 31 = 0) ∧
    (Own.engine owner ≠ 15) ∧
    (Own.job owner = b.cmdJob r) ∧
    (b.alloc r.a1 owner (Bits.bit (r.u 32 1) 0) false = some (c, p, a, scr))) ∧
   (let t : Time := 0
    let r : Req := wq 0 5 [(16, 2 ^ 48), (28, 5120)]
    let s : State := won fun b => { wjob b with bm := { b.bm with bufs := [(0, ⟨256, false, 1, true, [5120], 0, none⟩)], revoke := [⟨3, 5120, 0xFFFFF, 1, []⟩] } }
    let b := Ci.taken 0x0502 r (s.blk.tick t)
    let id := (s.blk.tick t).freshId
    let k : Nat := 0
    let x : Buf := ⟨256, false, 1, true, [5120], 0, none⟩
    let c := 3
    (Starts 0x0502 r t s b id) ∧
    (r.u 24 4 = 0) ∧
    (r.a2 < 2 ^ 20) ∧
    (r.u 32 32 = 0) ∧
    (b.bufOf r.a0 = some (k, x)) ∧
    (b.revoking r.a0 = some c)) ∧
   (let t : Time := 0
    let r : Req := wq 0 5 [(16, 2 ^ 48), (28, 5120)]
    let s : State := won fun b => { wjob b with bm := { b.bm with bufs := [(0, ⟨256, false, 1, true, [5120], 0, none⟩)] } }
    let b := Ci.taken 0x0502 r (s.blk.tick t)
    let id := (s.blk.tick t).freshId
    let k : Nat := 0
    let x : Buf := ⟨256, false, 1, true, [5120], 0, none⟩
    (Starts 0x0502 r t s b id) ∧
    (r.u 24 4 = 0) ∧
    (r.a2 < 2 ^ 20) ∧
    (r.u 32 32 = 0) ∧
    (b.bufOf r.a0 = some (k, x)) ∧
    (b.revoking r.a0 = none) ∧
    (x.live = true) ∧
    (x.gen = r.a0 / 2 ^ 48) ∧
    (x.holder = r.a2) ∧
    (x.chain.length ≤ 8)) ∧
   (let t : Time := 0
    let r : Req := wq 0 5 [(16, 2 ^ 48), (28, 5120)]
    let s : State := won fun b => { wjob b with bm := { b.bm with bufs := [(0, ⟨256, false, 1, false, [5120], 0, none⟩)] } }
    let b := Ci.taken 0x0502 r (s.blk.tick t)
    let id := (s.blk.tick t).freshId
    let k : Nat := 0
    let x : Buf := ⟨256, false, 1, false, [5120], 0, none⟩
    (Starts 0x0502 r t s b id) ∧
    (r.u 24 4 = 0) ∧
    (r.a2 < 2 ^ 20) ∧
    (r.u 32 32 = 0) ∧
    (b.bufOf r.a0 = some (k, x)) ∧
    (b.revoking r.a0 = none) ∧
    (x.live = false)) ∧
   (let t : Time := 0
    let r : Req := wq 0 5 [(16, 2 ^ 48), (28, 5120), (32, 0x80001400)]
    let s : State := won fun b => { wjob b with bm := { b.bm with bufs := [(0, ⟨256, false, 1, true, [5120], 0, none⟩)], revoke := [⟨3, 5120, 0xFFFFF, 1, []⟩] } }
    let b := Ci.taken 0x0503 r (s.blk.tick t)
    let id := (s.blk.tick t).freshId
    let k : Nat := 0
    let x : Buf := ⟨256, false, 1, true, [5120], 0, none⟩
    let c := 3
    (Starts 0x0503 r t s b id) ∧
    (r.u 24 4 = 0) ∧
    (r.a2 < 2 ^ 20) ∧
    ((∀ e ∈ Bm.entries r, Bits.fld e.2 30 20 = 0 ∧ (Bits.bit e.2 31 = true → Own.bad (e.2 % 2 ^ 20) = false))) ∧
    (b.bufOf r.a0 = some (k, x)) ∧
    (b.revoking r.a0 = some c)) ∧
   (let t : Time := 0
    let r : Req := wq 0 5 [(16, 2 ^ 48), (28, 5120), (32, 0x80001400)]
    let s : State := won fun b => { wjob b with bm := { b.bm with bufs := [(0, ⟨256, false, 1, true, [5120], 0, none⟩)] } }
    let b := Ci.taken 0x0503 r (s.blk.tick t)
    let id := (s.blk.tick t).freshId
    let k : Nat := 0
    let x : Buf := ⟨256, false, 1, true, [5120], 0, none⟩
    (Starts 0x0503 r t s b id) ∧
    (r.u 24 4 = 0) ∧
    (r.a2 < 2 ^ 20) ∧
    ((∀ e ∈ Bm.entries r, Bits.fld e.2 30 20 = 0 ∧ (Bits.bit e.2 31 = true → Own.bad (e.2 % 2 ^ 20) = false))) ∧
    (b.bufOf r.a0 = some (k, x)) ∧
    (b.revoking r.a0 = none) ∧
    (b.bmCheck r.a0 r.a2 (Bm.newOwners r) = none)) ∧
   (let t : Time := 0
    let r : Req := wq 0 0 [(24, 0xFFFFFFFF)]
    let s : State := won id
    let b := Ci.taken 0x0504 r (s.blk.tick t)
    let id := (s.blk.tick t).freshId
    let c := b.readCount r.a0 64
    let free := ((List.range 800).filter c.ciBank).length + c.bm.banks.length
    (Starts 0x0504 r t s b id) ∧
    (r.a0 % 64 = 0) ∧
    (r.a0 + 64 ≤ 0x6000000000) ∧
    (r.u 28 4 = 0) ∧
    (r.u 32 32 = 0) ∧
    (c.poolDescBad r.a0 = none) ∧
    (free < r.a1)) ∧
   (let t : Time := 0
    let r : Req := wq 0 0 [(24, 0)]
    let s : State := won id
    let b := Ci.taken 0x0504 r (s.blk.tick t)
    let id := (s.blk.tick t).freshId
    let c := b.readCount r.a0 64
    let free := ((List.range 800).filter c.ciBank).length + c.bm.banks.length
    (Starts 0x0504 r t s b id) ∧
    (r.a0 % 64 = 0) ∧
    (r.a0 + 64 ≤ 0x6000000000) ∧
    (r.u 28 4 = 0) ∧
    (r.u 32 32 = 0) ∧
    (c.poolDescBad r.a0 = none) ∧
    (r.a1 ≤ free) ∧
    ((∀ n ∈ c.bm.banks.drop r.a1, c.bankBusy n = false))) ∧
   (let t : Time := 0
    let s : State := won id
    let a : EngAlloc := ⟨5312, 256, 3, false, false, 0, none⟩
    let b := s.blk.tick t
    let c := ((s.blk.tick t).engGrant? ⟨5312, 256, 3, false, false, 0, none⟩).getD wup
    (b.works 35 = true) ∧
    (b.engGrant? a = some c)) ∧
   (let t : Time := 0
    let s : State := won fun b => { b with bm := { b.bm with have_ := List.replicate 8 0 } }
    let a : EngAlloc := ⟨5312, 256, 3, false, false, 0, none⟩
    let b := s.blk.tick t
    (b.works 35 = true) ∧
    (b.engGrant? a = none)) ∧
   (let t : Time := 0
    let s : State := won fun b => { b with bm := { b.bm with share := [0, 0, 0, 0, 0, 0, 0, 0] } }
    let src : Nat := 0
    let dst : Nat := 8
    let b := s.blk.tick t
    (b.works 35 = true) ∧
    (b.canMove src dst = true)) ∧
   (let t : Time := 0
    let s : State := won id
    let src : Nat := 8
    let dst : Nat := 8
    let b := s.blk.tick t
    (b.works 35 = true) ∧
    (b.canMove src dst = false)) ∧
   (let t : Time := 0
    let r : Req := wq 0 0 [(28, 0xFFFFF), (32, 0xFFFFF)]
    let s : State := won fun b => { b with bm := { b.bm with auditCmd := some (3, 0, 0) } }
    let b := Ci.taken 0x0505 r (s.blk.tick t)
    let id := (s.blk.tick t).freshId
    (Starts 0x0505 r t s b id) ∧
    (r.u 16 8 = 0) ∧
    (r.u 24 4 = 0) ∧
    (r.a2 < 2 ^ 20) ∧
    (r.u 32 4 < 2 ^ 20) ∧
    (r.u 36 28 = 0) ∧
    (b.bm.auditCmd ≠ none)) ∧
   (let t : Time := 0
    let r : Req := wq 0 0 [(28, 0xFFFFF), (32, 0xFFFFF)]
    let s : State := won id
    let b := Ci.taken 0x0505 r (s.blk.tick t)
    let id := (s.blk.tick t).freshId
    (Starts 0x0505 r t s b id) ∧
    (r.u 16 8 = 0) ∧
    (r.u 24 4 = 0) ∧
    (r.a2 < 2 ^ 20) ∧
    (r.u 32 4 < 2 ^ 20) ∧
    (r.u 36 28 = 0) ∧
    (b.bm.auditCmd = none)) ∧
   (let t : Time := 0
    let s : State := won fun b => { b with bm := { b.bm with auditCmd := some (3, 0, 0) } }
    let id : Nat := 3
    let owner : Nat := 0
    let mask : Nat := 0
    let b := s.blk.tick t
    (b.works 35 = true) ∧
    (b.bm.auditCmd = some (id, owner, mask))) ∧
   (let t : Time := 0
    let r : Req := wq 0 0 [(24, 64)]
    let s : State := won fun b => { b with bm := { b.bm with auditCmd := some (3, 0, 0) } }
    let b := Ci.taken 0x0506 r (s.blk.tick t)
    let id := (s.blk.tick t).freshId
    (Starts 0x0506 r t s b id) ∧
    (r.a0 % 64 = 0) ∧
    (r.a0 + r.a1 ≤ 0x6000000000) ∧
    (r.u 28 4 = 0) ∧
    (r.u 32 32 = 0) ∧
    (b.bm.auditCmd ≠ none)) ∧
   (let t : Time := 0
    let r : Req := wq 0 0 [(24, 64)]
    let s : State := won id
    let b := Ci.taken 0x0506 r (s.blk.tick t)
    let id := (s.blk.tick t).freshId
    (Starts 0x0506 r t s b id) ∧
    (r.a0 % 64 = 0) ∧
    (r.a0 + r.a1 ≤ 0x6000000000) ∧
    (r.u 28 4 = 0) ∧
    (r.u 32 32 = 0) ∧
    (b.bm.auditCmd = none)) := by
  refine ⟨?_, ?_, ?_, ?_, ?_, ?_, ?_, ?_⟩
  · refine ⟨⟨by decide, rfl, rfl⟩, ?_⟩
    and_intros <;> decide
  · refine ⟨⟨by decide, rfl, rfl⟩, ?_⟩
    and_intros <;> decide
  · refine ⟨⟨by decide, rfl, rfl⟩, ?_⟩
    and_intros <;> decide
  · refine ⟨⟨by decide, rfl, rfl⟩, ?_⟩
    and_intros <;> decide
  · refine ⟨⟨by decide, rfl, rfl⟩, ?_⟩
    and_intros <;> decide
  · refine ⟨⟨by decide, rfl, rfl⟩, ?_⟩
    and_intros <;> decide
  · refine ⟨⟨by decide, rfl, rfl⟩, ?_⟩
    and_intros <;> decide
  refine ⟨?_, ?_, ?_, ?_, ?_, ?_, ?_, ?_⟩
  · refine ⟨⟨by decide, rfl, rfl⟩, ?_⟩
    and_intros <;> decide
  · refine ⟨⟨by decide, rfl, rfl⟩, ?_⟩
    and_intros <;> decide
  · refine ⟨⟨by decide, rfl, rfl⟩, ?_⟩
    and_intros <;> decide
  · decide
  · decide
  · decide
  · decide
  refine ⟨?_, ?_, ?_, ?_, ?_⟩
  · refine ⟨⟨by decide, rfl, rfl⟩, ?_⟩
    and_intros <;> decide
  · refine ⟨⟨by decide, rfl, rfl⟩, ?_⟩
    and_intros <;> decide
  · decide
  · refine ⟨⟨by decide, rfl, rfl⟩, ?_⟩
    and_intros <;> decide
  · refine ⟨⟨by decide, rfl, rfl⟩, ?_⟩
    and_intros <;> decide

/-- States that meet the hypotheses of `Obligations.PtpDomains`, clause by clause. -/
theorem wit_PtpDomains :
   (let t : Time := 0
    let r : Req := wq 0 0 [(24, 999999999), (28, 1), (32, 127), (33, 3), (34, 1), (35, 5), (36, 10)]
    let s : State := won id
    let b := Ci.taken 0x0701 r (s.blk.tick t)
    let id := (s.blk.tick t).freshId
    let d := r.a2
    let sync := Bits.toInt 8 (r.u 34 1)
    let dreq := Bits.toInt 8 (r.u 35 1)
    (Starts 0x0701 r t s b id) ∧
    (r.a0 < 2 ^ 48) ∧
    (r.a1 ≤ 999999999) ∧
    (d ≤ 1) ∧
    (r.u 32 1 ≤ 127) ∧
    (((b.inst (1 - d)).conf = true → (b.inst (1 - d)).dom ≠ r.u 32 1)) ∧
    (1 ≤ r.u 33 1) ∧
    (r.u 33 1 ≤ 3) ∧
    (-7 ≤ sync) ∧
    (sync ≤ 1) ∧
    (-7 ≤ dreq) ∧
    (dreq ≤ 5) ∧
    (2 ≤ r.u 36 1) ∧
    (r.u 36 1 ≤ 10) ∧
    (r.u 38 26 = 0) ∧
    (r.u 37 1 = 0) ∧
    (b.instOff d = true)) ∧
   (let t : Time := 0
    let r : Req := wq 0 0 [(24, 999999999), (28, 1), (32, 127), (33, 3), (34, 0xF9), (35, 0xF9), (36, 2)]
    let s : State := won fun b => b.setFunc 0x401 ⟨1, none, none, [], false, 0⟩
    let b := Ci.taken 0x0701 r (s.blk.tick t)
    let id := (s.blk.tick t).freshId
    let d := r.a2
    let sync := Bits.toInt 8 (r.u 34 1)
    let dreq := Bits.toInt 8 (r.u 35 1)
    (Starts 0x0701 r t s b id) ∧
    (r.a0 < 2 ^ 48) ∧
    (r.a1 ≤ 999999999) ∧
    (d ≤ 1) ∧
    (r.u 32 1 ≤ 127) ∧
    (((b.inst (1 - d)).conf = true → (b.inst (1 - d)).dom ≠ r.u 32 1)) ∧
    (1 ≤ r.u 33 1) ∧
    (r.u 33 1 ≤ 3) ∧
    (-7 ≤ sync) ∧
    (sync ≤ 1) ∧
    (-7 ≤ dreq) ∧
    (dreq ≤ 5) ∧
    (2 ≤ r.u 36 1) ∧
    (r.u 36 1 ≤ 10) ∧
    (r.u 38 26 = 0) ∧
    (r.u 37 1 = 0) ∧
    (b.instOff d = false)) ∧
   (let t : Time := 0
    let r : Req := wq 0 0 [(24, 999999999), (28, 1), (32, 127), (33, 1), (34, 1), (35, 5), (36, 10), (37, 1)]
    let s : State := won fun b => b.setInst 0 3
    let b := Ci.taken 0x0701 r (s.blk.tick t)
    let id := (s.blk.tick t).freshId
    let d := r.a2
    let sync := Bits.toInt 8 (r.u 34 1)
    let dreq := Bits.toInt 8 (r.u 35 1)
    (Starts 0x0701 r t s b id) ∧
    (r.a0 < 2 ^ 48) ∧
    (r.a1 ≤ 999999999) ∧
    (d ≤ 1) ∧
    (r.u 32 1 ≤ 127) ∧
    (((b.inst (1 - d)).conf = true → (b.inst (1 - d)).dom ≠ r.u 32 1)) ∧
    (1 ≤ r.u 33 1) ∧
    (r.u 33 1 ≤ 3) ∧
    (-7 ≤ sync) ∧
    (sync ≤ 1) ∧
    (-7 ≤ dreq) ∧
    (dreq ≤ 5) ∧
    (2 ≤ r.u 36 1) ∧
    (r.u 36 1 ≤ 10) ∧
    (r.u 38 26 = 0) ∧
    (r.u 37 1 = 1) ∧
    ((b.instState 0 = 3 ∨ b.instState 1 = 3))) ∧
   (let t : Time := 0
    let r : Req := wq 0 0 []
    let s : State := won id
    let b := Ci.taken 0x0702 r (s.blk.tick t)
    let id := (s.blk.tick t).freshId
    (Starts 0x0702 r t s b id) ∧
    (r.u 16 8 = 0) ∧
    (r.u 24 4 = 0) ∧
    (r.a2 ≤ 1) ∧
    (r.u 32 32 = 0) ∧
    (b.selected = r.a2)) ∧
   (let t : Time := 0
    let r : Req := wq 0 0 [(28, 1)]
    let s : State := won id
    let b := Ci.taken 0x0702 r (s.blk.tick t)
    let id := (s.blk.tick t).freshId
    (Starts 0x0702 r t s b id) ∧
    (r.u 16 8 = 0) ∧
    (r.u 24 4 = 0) ∧
    (r.a2 ≤ 1) ∧
    (r.u 32 32 = 0) ∧
    (b.selected ≠ r.a2) ∧
    (b.instState r.a2 ≠ 3)) ∧
   (let t : Time := 0
    let r : Req := wq 0 0 [(28, 1)]
    let s : State := won fun b => b.setInst 1 3
    let b := Ci.taken 0x0702 r (s.blk.tick t)
    let id := (s.blk.tick t).freshId
    (Starts 0x0702 r t s b id) ∧
    (r.u 16 8 = 0) ∧
    (r.u 24 4 = 0) ∧
    (r.a2 ≤ 1) ∧
    (r.u 32 32 = 0) ∧
    (b.selected ≠ r.a2) ∧
    (b.instState r.a2 = 3)) ∧
   (let t : Time := 0
    let s : State := won id
    let d : Nat := 0
    let m : PtpMsg := wpm 0
    let b := s.blk.tick t
    (b.works 36 = true) ∧
    (b.cpOut 8 = false) ∧
    (b.ptpFor d m = false)) ∧
   (let t : Time := 0
    let s : State := won (wti 0 2 id)
    let d : Nat := 0
    let m : PtpMsg := wpm 11
    let b := s.blk.tick t
    (b.works 36 = true) ∧
    (b.cpOut 8 = false) ∧
    (b.ptpFor d m = true) ∧
    (m.kind = 4)) ∧
   (let t : Time := 0
    let s : State := won (wti 0 2 fun x => { x with gm := some wgm, mpd := some 5 })
    let d : Nat := 0
    let m : PtpMsg := wpm 0
    let b := s.blk.tick t
    let p := 5
    let c := (b.bump (R.tuDSyncCnt d)).modInst d fun x => { x with lastSync := b.now }
    (b.works 36 = true) ∧
    (b.cpOut 8 = false) ∧
    (b.ptpFor d m = true) ∧
    (m.kind = 0) ∧
    (m.twoStep = false) ∧
    (2 ≤ b.instState d) ∧
    (b.instState d ≠ 4) ∧
    (((b.inst d).gm.map (·.source)) = some m.source) ∧
    ((c.inst d).mpd = some p)) ∧
   (let t : Time := 80000000000
    let s : State := won (wti 1 2 id)
    let d : Nat := 1
    let b := s.blk.tick t
    let x := b.inst d
    let c := (((b.setInst d 4).setBits R.tuSticky (2 ^ (1 + d))).bump (R.tuDLossCnt d)).modInst d fun x => { TuInst.init with conf := x.conf, dom := x.dom, ports := x.ports, logSync := x.logSync, logDreq := x.logDreq, annTmo := x.annTmo, seq := x.seq, nextReq := x.nextReq }
    (b.works 36 = true) ∧
    (b.cpOut 8 = false) ∧
    (d ≤ 1) ∧
    ((b.instState d = 2 ∨ b.instState d = 3)) ∧
    ((x.lastAnn + x.annTmo * annInt ≤ b.now ∨ x.lastSync + 3 * Tu.interval x.logSync ≤ b.now ∨ 4 ≤ x.lossy)) ∧
    (c.selected ≠ d)) ∧
   (let t : Time := 80000000000
    let s : State := won (wti 0 2 id)
    let d : Nat := 0
    let b := s.blk.tick t
    let x := b.inst d
    let c := (((b.setInst d 4).setBits R.tuSticky (2 ^ (1 + d))).bump (R.tuDLossCnt d)).modInst d fun x => { TuInst.init with conf := x.conf, dom := x.dom, ports := x.ports, logSync := x.logSync, logDreq := x.logDreq, annTmo := x.annTmo, seq := x.seq, nextReq := x.nextReq }
    (b.works 36 = true) ∧
    (b.cpOut 8 = false) ∧
    (d ≤ 1) ∧
    ((b.instState d = 2 ∨ b.instState d = 3)) ∧
    ((x.lastAnn + x.annTmo * annInt ≤ b.now ∨ x.lastSync + 3 * Tu.interval x.logSync ≤ b.now ∨ 4 ≤ x.lossy)) ∧
    (c.selected = d)) ∧
   (let t : Time := 80000000000
    let s : State := won id
    let d : Nat := 1
    let b := s.blk.tick t
    (b.works 36 = true) ∧
    (b.cpOut 8 = false) ∧
    (d ≤ 1) ∧
    (b.instState d ≠ 2) ∧
    (b.instState d ≠ 3)) ∧
   (let t : Time := 0
    let s : State := won (wti 1 2 fun x => { x with gm := some wgm })
    let d : Nat := 1
    let g : PtpGm := wgm
    let b := s.blk.tick t
    let x := b.inst d
    (b.works 36 = true) ∧
    (b.cpOut 8 = false) ∧
    (x.gm = some g) ∧
    (2 ≤ b.instState d) ∧
    (b.instState d ≠ 4) ∧
    (b.funcMode (0x300 + g.port) = 1) ∧
    (x.nextReq ≤ b.now)) ∧
   (let t : Time := 0
    let s : State := won (wti 1 2 fun x => { x with gm := some wgm, nextReq := 1 })
    let d : Nat := 1
    let g : PtpGm := wgm
    let b := s.blk.tick t
    let x := b.inst d
    (b.works 36 = true) ∧
    (b.cpOut 8 = false) ∧
    (x.gm = some g) ∧
    (2 ≤ b.instState d) ∧
    (b.instState d ≠ 4) ∧
    (b.funcMode (0x300 + g.port) = 1) ∧
    (b.now < x.nextReq)) ∧
   (let t : Time := 0
    let s : State := won fun b => b.setBits R.tuStat (2 ^ 29)
    let b := s.blk.tick t
    (b.works 36 = true) ∧
    (b.bit R.tuStat 29 = true) ∧
    (b.clk.slewed b.now = b.clk.rem)) ∧
   (let t : Time := 0
    let s : State := won id
    let b := s.blk.tick t
    (b.works 36 = true) ∧
    (b.bit R.tuStat 29 = false)) ∧
   (let t : Time := 0
    let s : State := won fun b => wti 0 2 id (b.setBits R.tuTcCtl 0x80000001)
    let m : PtpMsg := ⟨0, List.replicate 60 0⟩
    let b := s.blk.tick t
    (b.works 36 = true) ∧
    (b.bit R.tuTcCtl 31 = true) ∧
    (m.ethPort ≤ 1) ∧
    (b.bit R.tuTcCtl 0 = true) ∧
    ((b.inst 0).dom = m.domain) ∧
    (b.funcOff (0x300 + m.ethPort) = false) ∧
    (m.start = none)) ∧
   (let t : Time := 0
    let s : State := won fun b => wti 0 2 id (b.setBits R.tuTcCtl 0x80000001)
    let m : PtpMsg := wpm 1
    let res : Nat := 80001
    let up : Bool := true
    let b := s.blk.tick t
    (b.works 36 = true) ∧
    (b.bit R.tuTcCtl 31 = true) ∧
    (m.ethPort ≤ 1) ∧
    (b.bit R.tuTcCtl 0 = true) ∧
    ((b.inst 0).dom = m.domain) ∧
    (b.funcOff (0x300 + m.ethPort) = false) ∧
    (m.start ≠ none) ∧
    ((up = false ∨ 80000 < res))) ∧
   (let t : Time := 0
    let s : State := won fun b => wti 0 2 id ((b.setBits R.tuTcCtl 0x80000001).setFunc 0x301 ⟨1, none, none, [], false, 0⟩)
    let m : PtpMsg := wpm 1
    let res : Nat := 80000
    let up : Bool := true
    let b := s.blk.tick t
    (b.works 36 = true) ∧
    (b.bit R.tuTcCtl 31 = true) ∧
    (m.ethPort ≤ 1) ∧
    (b.bit R.tuTcCtl 0 = true) ∧
    ((b.inst 0).dom = m.domain) ∧
    (b.funcOff (0x300 + m.ethPort) = false) ∧
    (m.start ≠ none) ∧
    (up = true) ∧
    (res ≤ 80000) ∧
    (b.funcMode (0x300 + (1 - m.ethPort)) = 1) ∧
    (m.kind = 2 ∨ m.kind = 0 ∧ m.twoStep = false)) ∧
   (let t : Time := 0
    let s : State := won fun b => wti 0 2 id ((b.setBits R.tuTcCtl 0x80000001).setFunc 0x301 ⟨1, none, none, [], false, 0⟩)
    let m : PtpMsg := wpm 8
    let res : Nat := 80000
    let up : Bool := true
    let b := s.blk.tick t
    (b.works 36 = true) ∧
    (b.bit R.tuTcCtl 31 = true) ∧
    (m.ethPort ≤ 1) ∧
    (b.bit R.tuTcCtl 0 = true) ∧
    ((b.inst 0).dom = m.domain) ∧
    (b.funcOff (0x300 + m.ethPort) = false) ∧
    (m.start ≠ none) ∧
    (up = true) ∧
    (res ≤ 80000) ∧
    (b.funcMode (0x300 + (1 - m.ethPort)) = 1) ∧
    (m.kind = 1 ∨ m.kind = 0 ∧ m.twoStep = true)) := by
  refine ⟨?_, ?_, ?_, ?_, ?_, ?_, ?_, ?_⟩
  · exact ⟨⟨by decide, rfl, rfl⟩, by decide, by decide, by decide, by decide, (fun x h => by cases h), by decide, by decide, by decide, by decide, by decide, by decide, by decide, by decide, by decide, by decide, by decide⟩
  · exact ⟨⟨by decide, rfl, rfl⟩, by decide, by decide, by decide, by decide, (fun x h => by cases h), by decide, by decide, by decide, by decide, by decide, by decide, by decide, by decide, by decide, by decide, by decide⟩
  · exact ⟨⟨by decide, rfl, rfl⟩, by decide, by decide, by decide, by decide, (fun x h => by cases h), by decide, by decide, by decide, by decide, by decide, by decide, by decide, by decide, by decide, by decide, by decide⟩
  · refine ⟨⟨by decide, rfl, rfl⟩, ?_⟩
    and_intros <;> decide
  · refine ⟨⟨by decide, rfl, rfl⟩, ?_⟩
    and_intros <;> decide
  · refine ⟨⟨by decide, rfl, rfl⟩, ?_⟩
    and_intros <;> decide
  · decide
  refine ⟨?_, ?_, ?_, ?_, ?_, ?_, ?_, ?_⟩
  · decide
  · decide
  · decide
  · decide
  · decide
  · decide
  · decide
  refine ⟨?_, ?_, ?_, ?_, ?_, ?_⟩
  · decide
  · decide
  · decide
  · decide
  · decide
  · decide

/-- States that meet the hypotheses of `Obligations.PulsesAndOffsets`, clause by clause. -/
theorem wit_PulsesAndOffsets :
   (let t : Time := 0
    let r : Req := wq 0 0 [(24, 999999999), (28, 3), (40, 80), (50, 7)]
    let s : State := won fun b => (b.setFunc 0x503 ⟨1, none, none, [], false, 0⟩).setPo 3 { PulseOut.init with active := true }
    let b := Ci.taken 0x0703 r (s.blk.tick t)
    let id := (s.blk.tick t).freshId
    let n := r.a2
    let start : Int := ((r.a0 * 1000000000 + r.a1) * 8 + r.u 50 1 : Nat)
    let mode := r.u 48 1
    let period := r.u 32 8
    let width := r.u 40 8
    (Starts 0x0703 r t s b id) ∧
    (mode ≤ 2) ∧
    ((mode = 1 → width ≤ 8000000000000)) ∧
    ((mode = 2 → 800 ≤ period ∧ period ≤ 8000000000000 ∧ width + 80 ≤ period)) ∧
    (80 ≤ width) ∧
    (b.localTime + 8000000 ≤ start) ∧
    (r.a0 < 2 ^ 48) ∧
    (r.a1 ≤ 999999999) ∧
    (n ≤ 3) ∧
    (r.u 49 1 ≤ 1) ∧
    (r.u 50 1 ≤ 7) ∧
    (r.u 51 13 = 0) ∧
    (b.funcMode (0x500 + n) = 1) ∧
    ((b.po n).active = true)) ∧
   (let t : Time := 0
    let r : Req := wq 0 0 [(24, 999999999), (28, 3), (40, 80), (50, 7)]
    let s : State := won fun b => b.setFunc 0x503 ⟨1, none, none, [], false, 0⟩
    let b := Ci.taken 0x0703 r (s.blk.tick t)
    let id := (s.blk.tick t).freshId
    let n := r.a2
    let start : Int := ((r.a0 * 1000000000 + r.a1) * 8 + r.u 50 1 : Nat)
    let mode := r.u 48 1
    let period := r.u 32 8
    let width := r.u 40 8
    (Starts 0x0703 r t s b id) ∧
    (mode ≤ 2) ∧
    ((mode = 1 → width ≤ 8000000000000)) ∧
    ((mode = 2 → 800 ≤ period ∧ period ≤ 8000000000000 ∧ width + 80 ≤ period)) ∧
    (80 ≤ width) ∧
    (b.localTime + 8000000 ≤ start) ∧
    (r.a0 < 2 ^ 48) ∧
    (r.a1 ≤ 999999999) ∧
    (n ≤ 3) ∧
    (r.u 49 1 ≤ 1) ∧
    (r.u 50 1 ≤ 7) ∧
    (r.u 51 13 = 0) ∧
    (b.funcMode (0x500 + n) = 1) ∧
    ((b.po n).active = false)) ∧
   (let t : Time := 0
    let r : Req := wq 0 0 [(24, 999999999), (28, 3), (40, 80), (50, 7)]
    let s : State := won fun b => b.setFunc 0x503 ⟨0, none, none, [], false, 0⟩
    let b := Ci.taken 0x0703 r (s.blk.tick t)
    let id := (s.blk.tick t).freshId
    let n := r.a2
    let start : Int := ((r.a0 * 1000000000 + r.a1) * 8 + r.u 50 1 : Nat)
    let mode := r.u 48 1
    let period := r.u 32 8
    let width := r.u 40 8
    (Starts 0x0703 r t s b id) ∧
    (mode ≤ 2) ∧
    ((mode = 1 → width ≤ 8000000000000)) ∧
    ((mode = 2 → 800 ≤ period ∧ period ≤ 8000000000000 ∧ width + 80 ≤ period)) ∧
    (80 ≤ width) ∧
    (b.localTime + 8000000 ≤ start) ∧
    (r.a0 < 2 ^ 48) ∧
    (r.a1 ≤ 999999999) ∧
    (n ≤ 3) ∧
    (r.u 49 1 ≤ 1) ∧
    (r.u 50 1 ≤ 7) ∧
    (r.u 51 13 = 0) ∧
    (b.funcMode (0x500 + n) ≠ 1)) ∧
   (let t : Time := 0
    let s : State := won fun b => (b.setPo 3 { PulseOut.init with prog := ⟨1, 0, 0, 1, false⟩ }).setFunc 0x503 ⟨1, none, none, [], false, 0⟩
    let n : Nat := 3
    let b := s.blk.tick t
    let x := b.po n
    (b.pcr.phase = 4) ∧
    (n ≤ 3) ∧
    (b.poRuns n = true) ∧
    (x.active = false) ∧
    (x.prog.mode ≠ 0) ∧
    (b.funcMode (0x500 + n) = 1) ∧
    (x.edge ≤ b.localTime)) ∧
   (let t : Time := 0
    let s : State := won fun b => (b.setPo 3 { PulseOut.init with prog := ⟨1, 1, 0, 1, false⟩ }).setFunc 0x503 ⟨1, none, none, [], false, 0⟩
    let n : Nat := 3
    let b := s.blk.tick t
    let x := b.po n
    (b.pcr.phase = 4) ∧
    (n ≤ 3) ∧
    (b.poRuns n = true) ∧
    (x.active = false) ∧
    (b.localTime < x.edge)) ∧
   (let t : Time := 0
    let s : State := won fun b => (b.setPo 3 { PulseOut.init with prog := ⟨1, 0, 0, 1, false⟩, active := true }).setFunc 0x503 ⟨1, none, none, [], false, 0⟩
    let n : Nat := 3
    let b := s.blk.tick t
    let x := b.po n
    (b.pcr.phase = 4) ∧
    (n ≤ 3) ∧
    (b.poRuns n = true) ∧
    (x.active = true) ∧
    (b.localTime < x.edge + x.prog.width)) ∧
   (let t : Time := 0
    let r : Req := wq 0 0 [(24, 999999999), (28, 1), (32, 7)]
    let s : State := won fun b => b.onTu fun u => { u with meas := [(1, ⟨3, 0, 0⟩)] }
    let b := Ci.taken 0x0704 r (s.blk.tick t)
    let id := (s.blk.tick t).freshId
    (Starts 0x0704 r t s b id) ∧
    (r.a0 < 2 ^ 48) ∧
    (r.a1 ≤ 999999999) ∧
    (r.a2 ≤ 1) ∧
    (r.u 32 1 ≤ 7) ∧
    (r.u 33 31 = 0) ∧
    (AMap.get? b.tu.meas r.a2 ≠ none)) ∧
   (let t : Time := 0
    let r : Req := wq 0 0 [(24, 999999999), (28, 1), (32, 7)]
    let s : State := won id
    let b := Ci.taken 0x0704 r (s.blk.tick t)
    let id := (s.blk.tick t).freshId
    (Starts 0x0704 r t s b id) ∧
    (r.a0 < 2 ^ 48) ∧
    (r.a1 ≤ 999999999) ∧
    (r.a2 ≤ 1) ∧
    (r.u 32 1 ≤ 7) ∧
    (r.u 33 31 = 0) ∧
    (AMap.get? b.tu.meas r.a2 = none)) ∧
   (let t : Time := 8000000001
    let s : State := won fun b => b.onTu fun u => { u with meas := [(1, ⟨3, 0, 0⟩)] }
    let i : Nat := 1
    let x : OffMeas := ⟨3, 0, 0⟩
    let b := s.blk.tick t
    (b.works 36 = true) ∧
    (b.tu.meas = [(i, x)]) ∧
    (b.measAhead x < -8000000000)) ∧
   (let t : Time := 0
    let s : State := won fun b => b.onTu fun u => { u with meas := [(1, ⟨3, 0, 0⟩)] }
    let i : Nat := 1
    let x : OffMeas := ⟨3, 0, 0⟩
    let b := s.blk.tick t
    (b.works 36 = true) ∧
    (b.tu.meas = [(i, x)]) ∧
    (-8000000000 ≤ b.measAhead x)) ∧
   (let t : Time := 0
    let s : State := won fun b => b.putN (R.tuPiCtl 1) 3
    let i : Nat := 1
    let rising : Bool := true
    let b := s.blk.tick t
    let q := AMap.getD b.tu.fifo i []
    (b.works 36 = true) ∧
    (i ≤ 1) ∧
    (Bits.bit (b.fld (R.tuPiCtl i) 2 1) (if rising then 0 else 1) = true) ∧
    (b.bit (R.tuPiCtl i) 0 = true) ∧
    (AMap.get? b.tu.meas i = none) ∧
    (q.length < 16)) ∧
   (let t : Time := 0
    let s : State := won fun b => (b.putN (R.tuPiCtl 1) 3).onTu fun u => { u with fifo := [(1, List.replicate 16 0)] }
    let i : Nat := 1
    let rising : Bool := true
    let b := s.blk.tick t
    let q := AMap.getD b.tu.fifo i []
    (b.works 36 = true) ∧
    (i ≤ 1) ∧
    (Bits.bit (b.fld (R.tuPiCtl i) 2 1) (if rising then 0 else 1) = true) ∧
    (b.bit (R.tuPiCtl i) 0 = true) ∧
    (AMap.get? b.tu.meas i = none) ∧
    (16 ≤ q.length)) ∧
   (let t : Time := 0
    let s : State := won fun b => (b.putN (R.tuPiCtl 1) 2).onTu fun u => { u with meas := [(1, ⟨3, 0, 0⟩)] }
    let i : Nat := 1
    let rising : Bool := true
    let b := s.blk.tick t
    let m := ⟨3, 0, 0⟩
    (b.works 36 = true) ∧
    (i ≤ 1) ∧
    (Bits.bit (b.fld (R.tuPiCtl i) 2 1) (if rising then 0 else 1) = true) ∧
    (b.bit (R.tuPiCtl i) 0 = false) ∧
    (AMap.get? b.tu.meas i = some m) ∧
    ((b.measAhead m).natAbs ≤ 8000000000)) := by
  refine ⟨?_, ?_, ?_, ?_, ?_, ?_, ?_, ?_⟩
  · refine ⟨⟨by decide, rfl, rfl⟩, ?_⟩
    and_intros <;> decide
  · refine ⟨⟨by decide, rfl, rfl⟩, ?_⟩
    and_intros <;> decide
  · refine ⟨⟨by decide, rfl, rfl⟩, ?_⟩
    and_intros <;> decide
  · decide
  · decide
  · decide
  · refine ⟨⟨by decide, rfl, rfl⟩, ?_⟩
    and_intros <;> decide
  refine ⟨?_, ?_, ?_, ?_, ?_, ?_⟩
  · refine ⟨⟨by decide, rfl, rfl⟩, ?_⟩
    and_intros <;> decide
  · decide
  · decide
  · decide
  · decide
  · decide

/-- States that meet the hypotheses of `Obligations.ProcessorsAndDebug`, clause by clause. -/
theorem wit_ProcessorsAndDebug :
   (let t : Time := 0
    let x : CpFail := ⟨8, ⟨[], []⟩⟩
    let s : State := won id
    let b := s.blk.tick t
    let m := x.master
    (b.pcr.phase = 4) ∧
    (b.dbg.wdOn = true) ∧
    (b.cpOut 9 = false) ∧
    (m ≤ 8) ∧
    (m ≠ 4) ∧
    (b.cpOut m = false)) ∧
   (let t : Time := 0
    let x : CpFail := ⟨4, ⟨[], []⟩⟩
    let s : State := won id
    let b := s.blk.tick t
    let m := x.master
    (b.pcr.phase = 4) ∧
    (b.dbg.wdOn = true) ∧
    (b.cpOut 9 = false) ∧
    (m = 4)) ∧
   (let t : Time := 0
    let s : State := won fun b => b.onDbg fun d => { d with wdOn := false }
    let b := s.blk.tick t
    (b.pcr.phase = 4) ∧
    (b.dbg.wdOn = false)) ∧
   (let t : Time := 0
    let s : State := won fun b => b.onPcr fun x => { x with held := [(5, 0)] }
    let m : Nat := 5
    let t0 : Time := 0
    let b := s.blk.tick t
    (AMap.get? b.pcr.held m = some t0) ∧
    (4 ≤ m) ∧
    (m ≠ 8)) ∧
   (let t : Time := 0
    let s : State := won fun b => b.onPcr fun x => { x with held := [(8, 0)] }
    let m : Nat := 8
    let t0 : Time := 0
    let b := s.blk.tick t
    (AMap.get? b.pcr.held m = some t0) ∧
    (m = 8)) ∧
   (let t : Time := 0
    let s : State := won fun b => b.onPcr fun x => { x with held := [(3, 0)] }
    let m : Nat := 3
    let t0 : Time := 0
    let b := s.blk.tick t
    (AMap.get? b.pcr.held m = some t0) ∧
    (m < 4)) ∧
   (let t : Time := 8000001
    let s : State := won fun b => b.onDbg fun d => { d with halted := [(19, 0)] }
    let k : Nat := 3
    let t0 : Time := 0
    let b := s.blk.tick t
    (b.pcr.phase = 4) ∧
    (k < 4) ∧
    (AMap.get? b.dbg.halted (16 + k) = some t0) ∧
    (t0 + ms < b.now)) ∧
   (let t : Time := 8000000
    let s : State := won fun b => b.onDbg fun d => { d with halted := [(19, 0)] }
    let k : Nat := 3
    let t0 : Time := 0
    let b := s.blk.tick t
    (b.pcr.phase = 4) ∧
    (k < 4) ∧
    (AMap.get? b.dbg.halted (16 + k) = some t0) ∧
    (b.now ≤ t0 + ms)) ∧
   (let t : Time := 0
    let s : State := won fun b => b.putN (R.dbgEHangMs 10) 0x40000001
    let e : Nat := 36
    let b := s.blk.tick t
    (b.pcr.phase = 4) ∧
    (26 ≤ e) ∧
    (e ≤ 36) ∧
    (b.frozen e = false) ∧
    (AMap.get? b.dbg.stall e = none) ∧
    (b.bit (R.dbgEHangMs (e - 26)) 30 = true) ∧
    ((b.hung e).bit (R.dbgEHangMs (e - 26)) 31 = false)) ∧
   (let t : Time := 0
    let s : State := won fun b => b.putN (R.dbgEHangMs 10) 0xC0000001
    let e : Nat := 36
    let b := s.blk.tick t
    (b.pcr.phase = 4) ∧
    (26 ≤ e) ∧
    (e ≤ 36) ∧
    (b.frozen e = false) ∧
    (AMap.get? b.dbg.stall e = none) ∧
    (b.bit (R.dbgEHangMs (e - 26)) 30 = true) ∧
    ((b.hung e).bit (R.dbgEHangMs (e - 26)) 31 = true)) ∧
   (let t : Time := 0
    let s : State := won fun b => b.putN (R.dbgEHangMs 10) 0
    let e : Nat := 36
    let b := s.blk.tick t
    (b.pcr.phase = 4) ∧
    (26 ≤ e) ∧
    (e ≤ 36) ∧
    (b.frozen e = false) ∧
    (AMap.get? b.dbg.stall e = none) ∧
    (b.bit (R.dbgEHangMs (e - 26)) 30 = false)) ∧
   (let t : Time := 0
    let r : Req := wq 0 0 [(28, 36)]
    let s : State := won id
    let b := Ci.taken 0x0A01 r (s.blk.tick t)
    let id := (s.blk.tick t).freshId
    (Starts 0x0A01 r t s b id) ∧
    (r.u 16 8 = 0) ∧
    (r.u 24 4 = 0) ∧
    (26 ≤ r.a2) ∧
    (r.a2 ≤ 36) ∧
    (r.u 32 32 = 0)) ∧
   (let t : Time := 0
    let r : Req := wq 0 0 [(24, 262144), (28, 36)]
    let s : State := won id
    let b := Ci.taken 0x0A02 r (s.blk.tick t)
    let id := (s.blk.tick t).freshId
    (Starts 0x0A02 r t s b id) ∧
    (r.a0 % 64 = 0) ∧
    (r.a0 + r.a1 ≤ 0x6000000000) ∧
    (26 ≤ r.a2) ∧
    (r.a2 ≤ 36) ∧
    (Dbg.dumpSize r.a2 ≤ r.a1) ∧
    (r.u 32 32 = 0) ∧
    (b.frozen r.a2 = false)) ∧
   (let t : Time := 0
    let r : Req := wq 0 0 [(24, 262144), (28, 36)]
    let s : State := won fun b => (b.putN R.dbgFrozen 1024).onDbg fun d => { d with frozen := [(36, ⟨0, 0, 0, 0, [], 0⟩)], dumps := [(36, ⟨3, 0, 0, 0⟩)] }
    let b := Ci.taken 0x0A02 r (s.blk.tick t)
    let id := (s.blk.tick t).freshId
    (Starts 0x0A02 r t s b id) ∧
    (r.a0 % 64 = 0) ∧
    (r.a0 + r.a1 ≤ 0x6000000000) ∧
    (26 ≤ r.a2) ∧
    (r.a2 ≤ 36) ∧
    (Dbg.dumpSize r.a2 ≤ r.a1) ∧
    (r.u 32 32 = 0) ∧
    (b.frozen r.a2 = true) ∧
    (AMap.get? b.dbg.dumps r.a2 ≠ none)) ∧
   (let t : Time := 0
    let r : Req := wq 0 0 [(24, 262144), (28, 36)]
    let s : State := won fun b => (b.putN R.dbgFrozen 1024).onDbg fun d => { d with frozen := [(36, ⟨0, 0, 0, 0, [], 0⟩)] }
    let b := Ci.taken 0x0A02 r (s.blk.tick t)
    let id := (s.blk.tick t).freshId
    (Starts 0x0A02 r t s b id) ∧
    (r.a0 % 64 = 0) ∧
    (r.a0 + r.a1 ≤ 0x6000000000) ∧
    (26 ≤ r.a2) ∧
    (r.a2 ≤ 36) ∧
    (Dbg.dumpSize r.a2 ≤ r.a1) ∧
    (r.u 32 32 = 0) ∧
    (b.frozen r.a2 = true) ∧
    (AMap.get? b.dbg.dumps r.a2 = none)) ∧
   (let t : Time := 524288
    let s : State := won fun b => b.onDbg fun d => { d with frozen := [(36, ⟨0, 0, 0, 0, [], 0⟩)], dumps := [(36, ⟨3, 0, 0, 0⟩)] }
    let e : Nat := 36
    let j : DumpJob := ⟨3, 0, 0, 0⟩
    let f : Freeze := ⟨0, 0, 0, 0, [], 0⟩
    let b := s.blk.tick t
    (b.pcr.phase = 4) ∧
    (AMap.get? b.dbg.dumps e = some j) ∧
    (AMap.get? b.dbg.frozen e = some f) ∧
    (j.since + 2 * Dbg.dumpSize e ≤ b.now)) ∧
   (let t : Time := 524287
    let s : State := won fun b => b.onDbg fun d => { d with frozen := [(36, ⟨0, 0, 0, 0, [], 0⟩)], dumps := [(36, ⟨3, 0, 0, 0⟩)] }
    let e : Nat := 36
    let j : DumpJob := ⟨3, 0, 0, 0⟩
    let f : Freeze := ⟨0, 0, 0, 0, [], 0⟩
    let b := s.blk.tick t
    (b.pcr.phase = 4) ∧
    (AMap.get? b.dbg.dumps e = some j) ∧
    (AMap.get? b.dbg.frozen e = some f) ∧
    (b.now < j.since + 2 * Dbg.dumpSize e)) ∧
   (let t : Time := 0
    let s : State := won id
    let op : DmiOp := .halt 24
    let b := s.blk.tick t
    (b.bit R.secStat 27 = false) ∧
    ((∀ k, op ≠ .status k))) ∧
   (let t : Time := 0
    let s : State := won id
    let b := s.blk.tick t
    (b.pcr.phase = 4)) ∧
   (let t : Time := 0
    let s : State := won fun b => (b.putFld R.secStat 27 27 1).onDbg fun d => { d with halted := [(15, 0)] }
    let h : Nat := 15
    let b := s.blk.tick t
    let c := b.onDbg fun d => { d with dmi := none }
    let a := 0
    let n := 1
    (b.bit R.secStat 27 = true) ∧
    (b.pcr.phase = 4) ∧
    (h < 16) ∧
    (AMap.get? b.dbg.halted h ≠ none) ∧
    (inDx a n = true) ∧
    (c.rangePoison a n = false)) ∧
   (let t : Time := 0
    let s : State := won fun b => { (b.putFld R.secStat 27 27 1).onDbg fun d => { d with halted := [(15, 0)] } with mc := { b.mc with poison := [0] } }
    let h : Nat := 15
    let b := s.blk.tick t
    let c := b.onDbg fun d => { d with dmi := none }
    let a := 0
    let n := 1
    (b.bit R.secStat 27 = true) ∧
    (b.pcr.phase = 4) ∧
    (h < 16) ∧
    (AMap.get? b.dbg.halted h ≠ none) ∧
    (inDx a n = true) ∧
    (c.rangePoison a n = true)) ∧
   (let t : Time := 0
    let s : State := won fun b => b.putFld R.secStat 27 27 1
    let h : Nat := 24
    let b := s.blk.tick t
    (b.bit R.secStat 27 = true) ∧
    (b.pcr.phase = 4) ∧
    (h ≤ 24) ∧
    (AMap.get? b.dbg.halted h = none)) ∧
   (let t : Time := 0
    let s : State := won id
    let b := s.blk.tick t
    (b.pcr.phase = 4)) ∧
   (let t : Time := 0
    let r : Req := wq 0 0 [(28, 36), (32, 10000), (36, 3)]
    let s : State := won id
    let b := Ci.taken 0x0A04 r (s.blk.tick t)
    let id := (s.blk.tick t).freshId
    (Starts 0x0A04 r t s b id) ∧
    (r.u 16 8 = 0) ∧
    (r.u 24 4 = 0) ∧
    (1 ≤ r.u 32 4) ∧
    (r.u 32 4 ≤ 10000) ∧
    (r.u 36 1 < 4) ∧
    (r.u 37 27 = 0) ∧
    (26 ≤ r.a2) ∧
    (r.a2 ≤ 36)) ∧
   (let t : Time := 0
    let r : Req := wq 0 0 [(28, 256), (32, 1), (36, 3)]
    let s : State := won id
    let b := Ci.taken 0x0A04 r (s.blk.tick t)
    let id := (s.blk.tick t).freshId
    (Starts 0x0A04 r t s b id) ∧
    (r.u 16 8 = 0) ∧
    (r.u 24 4 = 0) ∧
    (1 ≤ r.u 32 4) ∧
    (r.u 32 4 ≤ 10000) ∧
    (r.u 36 1 < 4) ∧
    (r.u 37 27 = 0) ∧
    (r.a2 = 0x100)) := by
  refine ⟨?_, ?_, ?_, ?_, ?_, ?_, ?_, ?_⟩
  · decide
  · decide
  · decide
  · decide
  · decide
  · decide
  · decide
  refine ⟨?_, ?_, ?_, ?_, ?_, ?_, ?_, ?_⟩
  · decide
  · decide
  · decide
  · decide
  · refine ⟨⟨by decide, rfl, rfl⟩, ?_⟩
    and_intros <;> decide
  · refine ⟨⟨by decide, rfl, rfl⟩, ?_⟩
    and_intros <;> decide
  · refine ⟨⟨by decide, rfl, rfl⟩, ?_⟩
    and_intros <;> decide
  refine ⟨?_, ?_, ?_, ?_, ?_, ?_, ?_, ?_⟩
  · refine ⟨⟨by decide, rfl, rfl⟩, ?_⟩
    and_intros <;> decide
  · decide
  · decide
  · exact ⟨by decide, fun k h => by cases h⟩
  · decide
  · decide
  · decide
  refine ⟨?_, ?_, ?_, ?_⟩
  · decide
  · decide
  · refine ⟨⟨by decide, rfl, rfl⟩, ?_⟩
    and_intros <;> decide
  · refine ⟨⟨by decide, rfl, rfl⟩, ?_⟩
    and_intros <;> decide

/-- States that meet the hypotheses of `Obligations.CountersTraceAndHealth`, clause by clause. -/
theorem wit_CountersTraceAndHealth :
   (let t : Time := 0
    let r : Req := wq 0 5 [(24, 40), (28, 1), (32, 1)]
    let s : State := won wjob
    let b := Ci.taken 0x0901 r (s.blk.tick t)
    let id := (s.blk.tick t).freshId
    let sel := (List.range 28).filter fun i => r.u 32 8 == 0 || Bits.bit (r.u 32 8) i
    (Starts 0x0901 r t s b id) ∧
    (r.a2 = 1) ∧
    (r.a0 % 64 = 0) ∧
    (r.a0 + r.a1 ≤ 0x6000000000) ∧
    (32 + 8 * sel.length ≤ r.a1) ∧
    (r.u 32 8 < 2 ^ 28) ∧
    (r.u 40 24 = 0)) ∧
   (let t : Time := 0
    let r : Req := wq 0 0 [(16, 0x100000), (24, 1048576), (40, 2)]
    let s : State := won id
    let b := Ci.taken 0x0A03 r (s.blk.tick t)
    let id := (s.blk.tick t).freshId
    let c := b.traceFlush
    (Starts 0x0A03 r t s b id) ∧
    (r.a0 % 64 = 0) ∧
    (inMgmtOs r.a0 r.a1 = true) ∧
    (powerWithin r.a1 (2 ^ 20) (2 ^ 30) = true) ∧
    (Bits.fld r.a2 30 10 = 0) ∧
    (Nat.land (r.u 32 4) 0xFFFF7800 = 0) ∧
    (r.u 40 1 ≤ 2) ∧
    (r.u 41 23 = 0) ∧
    (c.dbg.traceBase ≠ r.a0) ∧
    (c.dbg.traceOff = Bits.toInt 32 (r.u 36 4))) ∧
   (let t : Time := 0
    let s : State := won id
    let b := s.blk.tick t
    (b.pcr.phase = 4) ∧
    (b.traceq = [])) ∧
   (let t : Time := 0
    let s : State := won fun b => { b with traceq := [⟨15, 0, 0, 0, false, []⟩] }
    let x : TraceRec := ⟨15, 0, 0, 0, false, []⟩
    let q : List TraceRec := []
    let b := s.blk.tick t
    (b.pcr.phase = 4) ∧
    (b.traceq = x :: q) ∧
    (b.tracePass x = false)) ∧
   (let t : Time := 0
    let s : State := won fun b => { b with traceq := [⟨15, 0, 0, 0, false, []⟩], dbg := { b.dbg with traceMode := 1 } }
    let x : TraceRec := ⟨15, 0, 0, 0, false, []⟩
    let q : List TraceRec := []
    let b := s.blk.tick t
    (b.pcr.phase = 4) ∧
    (b.traceq = x :: q) ∧
    (b.tracePass x = true) ∧
    (b.dbg.traceLost = 0) ∧
    (b.dbg.traceMode = 1)) ∧
   (let t : Time := 0
    let s : State := won fun b => { b with traceq := [⟨15, 0, 0, 0, false, []⟩], dbg := { b.dbg with traceMode := 2 } }
    let x : TraceRec := ⟨15, 0, 0, 0, false, []⟩
    let q : List TraceRec := []
    let b := s.blk.tick t
    (b.pcr.phase = 4) ∧
    (b.traceq = x :: q) ∧
    (b.tracePass x = true) ∧
    (b.dbg.traceMode = 2) ∧
    (b.traceRoom = 0)) ∧
   (let t : Time := 0
    let s : State := won fun b => { b.putN R.sysEvtCfg 0x80000008 with evq := [⟨0, 0, 0, 0, 0, false, []⟩] }
    let e : Event := ⟨0, 0, 0, 0, 0, false, []⟩
    let q : List Event := []
    let b := s.blk.tick t
    (b.pcr.phase = 4) ∧
    (b.cpOut 9 = false) ∧
    (b.evq = e :: q) ∧
    (b.dbg.eventLost = 0) ∧
    (b.evtOpen = true)) ∧
   (let t : Time := 0
    let s : State := won fun b => { b with evq := [⟨0, 0, 0, 0, 0, false, []⟩] }
    let e : Event := ⟨0, 0, 0, 0, 0, false, []⟩
    let q : List Event := []
    let b := s.blk.tick t
    (b.pcr.phase = 4) ∧
    (b.cpOut 9 = false) ∧
    (b.evq = e :: q) ∧
    (b.dbg.eventLost = 0) ∧
    (b.evtOpen = false)) ∧
   (let t : Time := 28800000000000
    let s : State := won id
    let b := s.blk.tick t
    (b.pcr.phase = 4) ∧
    (b.cpOut 9 = false) ∧
    (b.health.hourAt + 28800000000000 ≤ b.now)) ∧
   (let t : Time := 28799999999999
    let s : State := won id
    let b := s.blk.tick t
    (b.pcr.phase = 4) ∧
    (b.cpOut 9 = false) ∧
    (b.now < b.health.hourAt + 28800000000000)) ∧
   (let t : Time := 0
    let r : Req := wq 0 0 [(24, 512)]
    let s : State := won id
    let b := Ci.taken 0x0905 r (s.blk.tick t)
    let id := (s.blk.tick t).freshId
    (Starts 0x0905 r t s b id) ∧
    (r.a0 % 64 = 0) ∧
    (r.a0 + r.a1 ≤ 0x6000000000) ∧
    (512 ≤ r.a1) ∧
    (r.u 28 4 = 0) ∧
    (r.u 32 32 = 0)) ∧
   (let t : Time := 0
    let r : Req := wq 0 0 [(24, 32768)]
    let s : State := won id
    let b := Ci.taken 0x0904 r (s.blk.tick t)
    let id := (s.blk.tick t).freshId
    (Starts 0x0904 r t s b id) ∧
    (r.a0 % 2048 = 0) ∧
    (inMgmtOs r.a0 r.a1 = true) ∧
    (powerWithin r.a1 (2 ^ 15) (2 ^ 27) = true) ∧
    (r.u 28 4 = 0) ∧
    (r.u 32 32 = 0)) ∧
   (let t : Time := 7999999999
    let s : State := won fun b => b
    let b := s.blk.tick t
    (b.pcr.phase = 4) ∧
    (b.now < b.health.snapAt + 8000000000)) ∧
   (let t : Time := 8000000000
    let s : State := won id
    let b := s.blk.tick t
    let h := if b.cpOut 9 = false ∧ b.health.hourAt + 28800000000000 ≤ b.now then b.hourTurn.healthSet 0x3E3 b.hourTurn.hourBits else b
    let c := h.snapNext
    (b.pcr.phase = 4) ∧
    (b.health.snapAt + 8000000000 ≤ b.now) ∧
    (c.health.snap.2 = 0)) ∧
   (let t : Time := 8000000000
    let s : State := won fun b => { b.setFunc 0x800 ⟨1, none, none, [], false, 0⟩ with health := { b.health with snap := (0, 32768) } }
    let b := s.blk.tick t
    let h := if b.cpOut 9 = false ∧ b.health.hourAt + 28800000000000 ≤ b.now then b.hourTurn.healthSet 0x3E3 b.hourTurn.hourBits else b
    let c := h.snapNext
    (b.pcr.phase = 4) ∧
    (b.health.snapAt + 8000000000 ≤ b.now) ∧
    (c.cpOut 9 = false) ∧
    (c.funcMode 0x800 = 1) ∧
    (c.health.snap.2 ≠ 0)) := by
  refine ⟨?_, ?_, ?_, ?_, ?_, ?_, ?_, ?_⟩
  · refine ⟨⟨by decide, rfl, rfl⟩, ?_⟩
    and_intros <;> decide
  · refine ⟨⟨by decide, rfl, rfl⟩, ?_⟩
    and_intros <;> decide
  · decide
  · decide
  · decide
  · decide
  · decide
  refine ⟨?_, ?_, ?_, ?_, ?_, ?_, ?_, ?_⟩
  · decide
  · decide
  · decide
  · refine ⟨⟨by decide, rfl, rfl⟩, ?_⟩
    and_intros <;> decide
  · refine ⟨⟨by decide, rfl, rfl⟩, ?_⟩
    and_intros <;> decide
  · decide
  · decide
  · decide

/-- A machine in good order that steps: the premise of `Obligations.StepKeepsMemoriesCanonical`. -/
theorem wit_StepKeepsMemoriesCanonical : (won (wmem [(0, 1, 7)])).wf ∧ step (won (wmem [(0, 1, 7)])) = .next (won (wmem [(0, 1, 7)])) := by
  exact ⟨by decide, rfl⟩

/-- A register that `Obligations.CapabilitiesAreFixed` names. -/
theorem wit_CapabilitiesAreFixed : R.sysCap2 ∈ [R.sysId, R.sysCap0, R.sysCap1, R.sysCap2] := by decide

theorem test_reset_empty : State.reset.pending = [] := rfl

end Sys2Proof.Machine
end

section
/-! SUPPORT. The _LO and _HI registers of the map: where they stand, what an access to one does (R7), and that none of them is a register
with another rule for reads. -/

namespace Sys2Proof.Machine

/-! ## Where the pairs stand -/

/-- The _LO registers of one 64 KiB block stand at one residue modulo 8, and well below its end. -/
theorem Reg.los_spaced (k : Nat) : ∀ e ∈ Reg.los k, ∀ e' ∈ Reg.los k,
    e.1 % 8 = e'.1 % 8 ∧ e.2.1 % 8 = 0 ∧ e.1 + e.2.1 * e.2.2.1 < 0x6000 := by
  unfold Reg.los
  split <;> decide

/-- A _LO register is one of a set of its block: the set's first offset plus a multiple of its stride. -/
theorem Reg.lo?_isSome {a : Nat} (h : (Reg.lo? a).isSome) : ∃ e ∈ Reg.los (a / 0x10000), ∃ i, a % 0x10000 = e.1 + e.2.1 * i ∧ i ≤ e.2.2.1 := by
  unfold Reg.lo? at h
  rw [Option.isSome_map, List.find?_isSome] at h
  obtain ⟨e, he, hp⟩ := h
  refine ⟨e, he, ?_⟩
  simp only [Bool.and_eq_true, decide_eq_true_eq] at hp
  obtain ⟨hle, hp⟩ := hp
  split at hp
  · exact ⟨0, by simpa using hp, Nat.zero_le _⟩
  · simp only [Bool.and_eq_true, beq_iff_eq, decide_eq_true_eq] at hp
    obtain ⟨hmod, hlt⟩ := hp
    exact ⟨(a % 0x10000 - e.1) / e.2.1, by have := Nat.mod_add_div (a % 0x10000 - e.1) e.2.1; omega, hlt.le⟩

/-- Two _LO registers of one block are a multiple of 8 bytes apart. -/
theorem Reg.lo?_spaced {a c : Nat} (ha : (Reg.lo? a).isSome) (hc : (Reg.lo? c).isSome) (hk : a / 0x10000 = c / 0x10000) :
    a % 8 = c % 8 := by
  obtain ⟨e, he, i, hi, -⟩ := Reg.lo?_isSome ha
  obtain ⟨e', he', j, hj, -⟩ := Reg.lo?_isSome hc
  rw [← hk] at he'
  obtain ⟨hee', hs, -⟩ := Reg.los_spaced _ e he e' he'
  obtain ⟨-, hs', -⟩ := Reg.los_spaced _ e' he' e he
  have hmi : e.2.1 * i % 8 = 0 := by rw [Nat.mul_mod, hs, Nat.zero_mul, Nat.zero_mod]
  have hmj : e'.2.1 * j % 8 = 0 := by rw [Nat.mul_mod, hs', Nat.zero_mul, Nat.zero_mod]
  omega

/-- A _LO register stands well below the end of its block, so its _HI is in the same block. -/
theorem Reg.lo?_offset_lt {a : Nat} (h : (Reg.lo? a).isSome) : a % 0x10000 < 0x6000 := by
  obtain ⟨e, he, i, hi, hle⟩ := Reg.lo?_isSome h
  obtain ⟨-, -, hlt⟩ := Reg.los_spaced _ e he e he
  have := Nat.mul_le_mul_left e.2.1 hle
  omega

/-- The _HI register of a pair is no _LO register. -/
theorem Reg.lo?_add_four {a : Nat} (h : (Reg.lo? a).isSome) : Reg.lo? (a + 4) = none := by
  by_contra hn
  have hlt := Reg.lo?_offset_lt h
  have := Reg.lo?_spaced h (Option.isSome_iff_ne_none.2 hn) (by omega)
  omega

/-- The register after a _LO register is its _HI. -/
@[simp] theorem Reg.hi?_add_four (a : Nat) : Reg.hi? (a + 4) = Reg.lo? a := by
  unfold Reg.hi?
  rw [if_pos (Nat.le_add_left 4 a), Nat.add_sub_cancel]

/-- A _LO register is no _HI register. -/
theorem Reg.hi?_of_lo? {a : Nat} (h : (Reg.lo? a).isSome) : Reg.hi? a = none := by
  unfold Reg.hi?
  split
  · rename_i h4
    by_contra hn
    have hno := Reg.lo?_add_four (Option.isSome_iff_ne_none.2 hn)
    rw [Nat.sub_add_cancel h4] at hno
    rw [hno] at h
    exact absurd h (by decide)
  · rfl

/-! ## Registers whose reads have an effect of their own are in no pair -/

/-- A register that is neither half of a pair is none of the two halves of one. -/
theorem Reg.pair_ne {lo a c : Nat} (h : (Reg.lo? lo).isSome) (ha : a = lo ∨ a = lo + 4) (hl : Reg.lo? c = none) (hh : Reg.hi? c = none) :
    a ≠ c := by
  rintro rfl
  rcases ha with rfl | rfl
  · rw [hl] at h; exact absurd h (by decide)
  · rw [Reg.hi?_add_four] at hh; rw [hh] at h; exact absurd h (by decide)

/-- The pairs of the TU stand below the registers of its ports. -/
theorem Reg.lo?_tu {a : Nat} (h : (Reg.lo? a).isSome) (hk : a / 0x10000 = 0x26) : a % 0x10000 < 0x100 := by
  obtain ⟨e, he, i, hi, hle⟩ := Reg.lo?_isSome h
  rw [hk] at he
  obtain rfl := List.mem_singleton.1 he
  dsimp only at hi hle
  omega

/-- The pairs of a fabric port are the first eight words of its 64 bytes. -/
theorem Reg.lo?_fif {a : Nat} (h : (Reg.lo? a).isSome) (hk : a / 0x10000 = 0x2) : a % 0x40 < 0x1C := by
  obtain ⟨e, he, i, hi, -⟩ := Reg.lo?_isSome h
  rw [hk] at he
  have hs : ∀ e ∈ Reg.los 0x2, e.1 % 0x40 < 0x1C ∧ e.2.1 = 0x40 := by decide
  obtain ⟨hlt, hst⟩ := hs e he
  rw [hst] at hi
  omega

/-- No half of a pair counts elapsed time. -/
theorem Block.elapsed_pair {lo a : Nat} (h : (Reg.lo? lo).isSome) (ha : a = lo ∨ a = lo + 4) (b : Block) : b.elapsed a = b := by
  have hcc : a ≠ R.ccStallUs := Reg.pair_ne h ha (by decide) (by decide)
  have hthr : a ≠ R.pcrThrMs := Reg.pair_ne h ha (by decide) (by decide)
  have hst : a ≠ R.tuSticky := Reg.pair_ne h ha (by decide) (by decide)
  have hport : ¬(0x260200 ≤ a ∧ a < 0x260240) := fun hr => by
    have := Reg.lo?_tu h (by omega)
    omega
  have hfif : ¬(0x21000 ≤ a ∧ a < 0x21800 ∧ a % 0x40 = 0x2C) := fun hr => by
    have := Reg.lo?_fif h (by omega)
    omega
  unfold Block.elapsed
  rw [if_neg hcc, if_neg hthr, if_neg (not_or.2 ⟨hst, hport⟩), if_neg hfif]

/-! ## What an access to a pair does (R7) -/

/-- A read of a _LO register returns it and loads the requester's read latch with its _HI. -/
theorem Block.readReg_lo {lo : Nat} (h : (Reg.lo? lo).isSome) (rq : Nat) (b : Block) : b.readReg rq lo =
    ({ b with rdLatch := AMap.set b.rdLatch rq (lo, b.show rq (lo + 4)) }).returns rq (b.show rq lo) := by
  have hne {c : Nat} := Reg.pair_ne (c := c) h (.inl rfl)
  unfold Block.readReg
  rw [if_neg (hne (by decide) (by decide)), if_neg (hne (by decide) (by decide)), if_neg (hne (by decide) (by decide)), if_pos h]

/-- A read of a _HI register returns the latch that holds its pair. -/
theorem Block.readReg_hi {lo rq : Nat} {v : Word} {b : Block} (h : (Reg.lo? lo).isSome) (hv : AMap.get? b.rdLatch rq = some (lo, v)) :
    b.readReg rq (lo + 4) = b.returns rq v := by
  have hne {c : Nat} := Reg.pair_ne (c := c) h (.inr rfl)
  have hlo : ¬(Reg.lo? (lo + 4)).isSome := by rw [Reg.lo?_add_four h]; decide
  unfold Block.readReg
  rw [if_neg (hne (by decide) (by decide)), if_neg (hne (by decide) (by decide)), if_neg (hne (by decide) (by decide)), if_neg hlo,
    if_pos (by rw [Reg.hi?_add_four]; exact h), hv]
  exact congrArg (b.returns rq) (if_pos rfl)

/-- A write of a _HI register that software writes only loads the requester's write latch. -/
theorem Block.writePair_hi {lo : Nat} (h : Reg.lo? lo = some true) (rq : Nat) (v : Word) (d : List Nat) (b : Block) :
    b.writePair rq (lo + 4) v d = { b with wrLatch := AMap.set b.wrLatch rq (lo, v) } := by
  unfold Block.writePair
  rw [Reg.hi?_add_four, h]
  rfl

/-- A write of a _LO register writes both halves when the requester's write latch holds the pair, and empties it. -/
theorem Block.writePair_lo {lo rq : Nat} {h : Word} {b : Block} (hlo : Reg.lo? lo = some true) (hl : AMap.get? b.wrLatch rq = some (lo, h))
    (v : Word) (d : List Nat) : b.writePair rq lo v d =
      ({ (b.writeReg rq (lo + 4) h d) with wrLatch := AMap.erase b.wrLatch rq }).writeReg rq lo v d := by
  unfold Block.writePair
  rw [Reg.hi?_of_lo? (by rw [hlo]; rfl), hlo, hl]
  exact if_pos rfl

/-- A write of a register in no pair is a write of that register alone. -/
theorem Block.writePair_single {a : Nat} (hl : Reg.lo? a = none) (hh : Reg.hi? a = none) (rq : Nat) (v : Word) (d : List Nat) (b : Block) :
    b.writePair rq a v d = b.writeReg rq a v d := by
  unfold Block.writePair
  rw [hh, hl]

/-- An aligned read of 32 bits that acts. -/
theorem Reg.read_acts {rq a : Nat} {b : Block} (ha : a % 4 = 0) (h : b.reach rq a false = .acts) :
    Reg.read rq a 32 b = (b.elapsed a).readReg rq a := by
  unfold Reg.read
  rw [h]
  exact if_pos ⟨rfl, ha⟩

/-- An aligned write of 32 bits that acts. -/
theorem Reg.write_acts {rq a : Nat} {b : Block} (ha : a % 4 = 0) (h : b.reach rq a true = .acts) (v : Word) (d : List Nat) :
    Reg.write rq a 32 v d b = b.writePair rq a v d := if_pos ⟨rfl, ha, h⟩

theorem exec_regPairLoRead (t : Time) (rq a : Nat) (s : State) :
    exec (.regPairLoRead t rq a) s = After s (Reg.read rq a 32 (s.blk.tick t)) := rfl
theorem exec_regPairHiRead (t : Time) (rq a : Nat) (s : State) :
    exec (.regPairHiRead t rq a) s = After s (Reg.read rq a 32 (s.blk.tick t)) := rfl
theorem exec_regPairHiWrite (t : Time) (rq a : Nat) (v : Word) (s : State) :
    exec (.regPairHiWrite t rq a v) s = After s (Reg.write rq a 32 v [] (s.blk.tick t)) := rfl
theorem exec_regPairLoWrite (t : Time) (rq a : Nat) (v : Word) (s : State) :
    exec (.regPairLoWrite t rq a v) s = After s (Reg.write rq a 32 v [] (s.blk.tick t)) := rfl

/-- Settles O6: each command is one access that acts, and each access does to its pair what R7 says. -/
theorem registerPairLatches : Obligations.RegisterPairLatches := by
  have aligned {lo : Nat} (ha : lo % 4 = 0) : (lo + 4) % 4 = 0 := (Nat.add_mod_right lo 4).trans ha
  unfold Obligations.RegisterPairLatches
  refine ⟨?loRead, ?hiRead, ?hiWrite, ?loWrite⟩
  case loRead =>
    intro t rq lo s b ha hlo hr
    rw [exec_regPairLoRead, Reg.read_acts ha hr, Block.elapsed_pair hlo (.inl rfl), Block.readReg_lo hlo]
  case hiRead =>
    intro t rq lo h s b ha hlo hr hl
    rw [exec_regPairHiRead, Reg.read_acts (aligned ha) hr, Block.elapsed_pair hlo (.inr rfl), Block.readReg_hi hlo hl]
  case hiWrite =>
    intro t rq lo v s b ha hlo hr
    rw [exec_regPairHiWrite, Reg.write_acts (aligned ha) hr, Block.writePair_hi hlo]
  case loWrite =>
    intro t rq lo h v s b ha hlo hr hl
    rw [exec_regPairLoWrite, Reg.write_acts ha hr, Block.writePair_lo hlo hl]

end Sys2Proof.Machine
end

section
/-! SUPPORT. A write of a register of no writable field, and a halt of a hart, leave what the registers outside the TU hold. -/

namespace Sys2Proof.Machine

/-! ## Writes of fields -/

/-- A write of no field leaves the old value. -/
theorem Reg.merge_none {old : Nat} (h : old < 2 ^ 32) (new : Nat) : Reg.merge old new 0 [] = old := by
  change (old &&& (0 ^^^ 0xFFFFFFFF)) ||| (new &&& 0) = old
  rw [Nat.zero_xor, Nat.and_zero, Nat.or_zero]
  exact (Nat.and_two_pow_sub_one_eq_mod old 32).trans (Nat.mod_eq_of_lt h)

/-- No event sets a bit of the empty mask. -/
@[simp] theorem Block.kept_none (b : Block) (a : Nat) : b.kept a 0 = 0 := by
  unfold Block.kept
  cases AMap.get? b.fresh a with
  | none => rfl
  | some x => exact Nat.and_zero x.2

/-- A clear of no W1C bit leaves the value. -/
theorem Block.w1c_none {new : Nat} (h : new < 2 ^ 32) (v : Nat) (b : Block) (a : Nat) :
    Nat.lor (Nat.land new (Nat.xor 0xFFFFFFFF (Nat.land v 0))) (b.kept a 0) = new := by
  rw [Block.kept_none]
  change (new &&& (0xFFFFFFFF ^^^ (v &&& 0))) ||| 0 = new
  rw [Nat.and_zero, Nat.xor_zero, Nat.or_zero]
  exact (Nat.and_two_pow_sub_one_eq_mod new 32).trans (Nat.mod_eq_of_lt h)

theorem Block.regN_lt (b : Block) (a : Nat) : b.regN a < 2 ^ 32 := (b.reg a).isLt

/-- A register set to what it holds: every register holds what it held. -/
theorem Block.reg_putN_regN (a c : Nat) (b : Block) : (b.putN a (b.regN a)).reg c = b.reg c := by
  by_cases h : c = a
  · subst h
    unfold Block.putN Block.regN
    rw [Block.reg_setReg_self, BitVec.ofNat_toNat, BitVec.setWidth_eq]
  · exact Block.reg_putN_ne _ b h

/-! ## A halt of a hart -/

/-- Bits set in a sticky register leave every other register. -/
theorem Block.reg_setBits_ne {a c : Nat} (m : Nat) (b : Block) (h : c ≠ a) : (b.setBits a m).reg c = b.reg c :=
  Block.reg_putN_ne (Nat.lor (b.regN a) m) (b.note a (b.regN a) fun x => Nat.lor x m) h

/-- The servo's adjustment changes no register but TU_FREQ_ADJ. -/
theorem Block.reg_setPpt_ne {c : Nat} (x : Int) (b : Block) (h : c ≠ R.tuFreqAdj) : (b.setPpt x).reg c = b.reg c :=
  Block.reg_putN_ne (Bits.ofInt 32 x) _ h

/-- Holdover changes no register but the three of the TU that show it. -/
theorem Block.reg_holdover {a : Nat} (hf : a ≠ R.tuFreqAdj) (hs : a ≠ R.tuStat) (ht : a ≠ R.tuSticky) (b : Block) :
    b.holdover.reg a = b.reg a := by
  unfold Block.holdover
  split
  · rfl
  · rw [Block.reg_setBits_ne _ _ ht]
    exact (Block.reg_putFld_ne 30 30 (Bits.ofBool true) (b.setPpt b.meanPpt) hs).trans (Block.reg_setPpt_ne _ b hf)

/-- An access that meets a trigger changes no register outside the TU, whose processor it may halt. -/
theorem Block.reg_trigHalt {a : Nat} (ha : a / 0x10000 ≠ 0x26) (rq c : Nat) (store : Bool) (b : Block) :
    (b.trigHalt rq c store).reg a = b.reg a := by
  unfold Block.trigHalt Block.haltHart Block.roleStop
  have hne {k : Nat} (hk : k / 0x10000 = 0x26) : a ≠ k := fun h => ha (h ▸ hk)
  split
  · split
    · exact Block.reg_holdover (hne (by decide)) (hne (by decide)) (hne (by decide)) _
    · rfl
  · rfl

/-! ## The identification and capability registers (Table 0-1) -/

/-- They have no rule of their own, and no field that a write reaches: a write sets one to what it holds. Which rule and which fields a
register has is read off at each of the four addresses. -/
theorem Block.writeReg_ident {a : Nat} (ha : a ∈ [R.sysId, R.sysCap0, R.sysCap1, R.sysCap2]) (rq : Nat) (v : Word) (d : List Nat) (b : Block) :
    b.writeReg rq a v d = b.putN a (b.regN a) := by
  have hfields : b.writeReg rq a v d = b.putN a
      (Nat.lor (Nat.land (Reg.merge (b.regN a) v.toNat 0 []) (Nat.xor 0xFFFFFFFF (Nat.land v.toNat 0))) (b.kept a 0)) := by
    simp only [List.mem_cons, List.not_mem_nil, or_false] at ha
    rcases ha with rfl | rfl | rfl | rfl <;> rfl
  rw [hfields, Reg.merge_none (b.regN_lt a), Block.w1c_none (b.regN_lt a)]

/-- They are in no pair, and not in the block of the TU. -/
theorem Reg.single_ident : ∀ a ∈ [R.sysId, R.sysCap0, R.sysCap1, R.sysCap2], Reg.lo? a = none ∧ Reg.hi? a = none ∧ a / 0x10000 ≠ 0x26 := by
  decide

/-- Whatever becomes of a write of one of them, it holds what it held. -/
theorem Reg.write_ident {a : Nat} (ha : a ∈ [R.sysId, R.sysCap0, R.sysCap1, R.sysCap2]) (rq w : Nat) (v : Word) (d : List Nat) (b : Block) :
    (Reg.write rq a w v d b).reg a = b.reg a := by
  obtain ⟨hlo, hhi, htu⟩ := Reg.single_ident a ha
  unfold Reg.write
  split
  · rw [Block.writePair_single hlo hhi, Block.writeReg_ident ha, Block.reg_putN_regN]
  · exact Block.reg_trigHalt htu rq a true b

/-- Settles O5: at reset by the register map, and a write of one of them leaves it. -/
theorem capabilitiesAreFixed : Obligations.CapabilitiesAreFixed :=
  ⟨rfl, rfl, rfl, rfl, fun _ rq v b ha => Reg.write_ident ha rq 32 v [] b⟩

end Sys2Proof.Machine
end

section
/-! SUPPORT. What the FWU does with the far requests of a peer (chapter 4): it takes them, issues them at their turn, answers them, and
discards those it has held too long behind a hole. -/

namespace Sys2Proof.Machine

/-! ## The commands of the executing gateway -/

/-- While the FWU and the BM work, a command of the FWU leaves what its effect leaves. -/
theorem after_fwu {t : Time} {s : State} (h : (s.blk.tick t).worksBm 27 = true) (f : Block → Block) :
    (Host.Outcome.next (s.run t fun b => b.whenBufs 27 f) : Host.Outcome State Fault Refusal) = After s (f (s.blk.tick t)) := by
  rw [after_run, Block.whenBufs_of h]

section
variable {t : Time} {s : State} (h : (s.blk.tick t).worksBm 27 = true)
include h

theorem exec_farRequestRx (sel : Nat) : exec (.farRequestRx t sel) s = After s (Fwu.farRequestRx sel (s.blk.tick t)) := after_fwu h _
theorem exec_farRequestExecute (i : Nat) : exec (.farRequestExecute t i) s = After s (Fwu.farExecute i (s.blk.tick t)) := after_fwu h _
theorem exec_farExecResponse (i : Nat) : exec (.farExecResponse t i) s = After s (Fwu.execResponse i (s.blk.tick t)) := after_fwu h _
theorem exec_ffenceComplete (i : Nat) : exec (.ffenceComplete t i) s = After s (Fwu.ffenceComplete i (s.blk.tick t)) := after_fwu h _
theorem exec_farStreamHoldExpiry : exec (.farStreamHoldExpiry t) s = After s (Fwu.holdExpiry (s.blk.tick t)) := after_fwu h _

end

/-! ## A request that arrives (R24, R111, R113, R114) -/

section
variable {sel : Nat} {x : InMsg} {m : FarMsg} {b : Block} (hx : b.pickIn sel InMsg.farReq = some x) (hm : x.msg = .far m)
include hx hm

/-- A request without an execution credit stays where it is. -/
theorem Fwu.farRequestRx_noCredit (hc : b.execOk x.peer = false) : Fwu.farRequestRx sel b = b.holdIn sel := by
  unfold Fwu.farRequestRx
  simp only [hx, hm, hc, Bool.not_false, if_true]

/-- A request with a credit is received against it. -/
theorem Fwu.farRequestRx_credit (hc : b.execOk x.peer = true) : Fwu.farRequestRx sel b =
    ((b.takeIn sel).onFwu fun f => { f with execRecv := AMap.set f.execRecv x.peer (AMap.getD f.execRecv x.peer 0 + 1) }).farRequest x m := by
  unfold Fwu.farRequestRx
  simp only [hx, hm, hc, Bool.not_true, Bool.false_eq_true, if_false]

end

/-- A stream that belongs to the sender, window and import window of a request. -/
def FarStream.ofPair (peer : Nat) (m : FarMsg) (y : FarStream) : Bool :=
  y.peer == peer && y.win == m.win.toNat % 4096 && y.impWin == m.impWin.toNat % 4096

theorem FarStream.is_iff {y : FarStream} {peer cls : Nat} {m : FarMsg} : y.is peer m cls = true ↔
    y.ofPair peer m = true ∧ y.gen = m.src.toNat / 2 ^ 24 ∧ y.rank = m.src.toNat % 2 ^ 24 ∧ y.cls = cls := by
  unfold FarStream.is FarStream.ofPair
  simp only [Bool.and_eq_true, beq_iff_eq, and_assoc]

/-- When the first stream of a request's windows is the request's own, it is the first one that is. -/
theorem FarStream.find?_is {l : List FarStream} {st : FarStream} {peer cls : Nat} {m : FarMsg}
    (h : l.find? (FarStream.ofPair peer m) = some st) (his : st.is peer m cls = true) :
    (l.find? fun y => y.is peer m cls) = some st := by
  obtain ⟨-, before, after, rfl, hno⟩ := List.find?_eq_some_iff_append.1 h
  refine List.find?_eq_some_iff_append.2 ⟨his, before, after, rfl, fun y hy => ?_⟩
  rw [Bool.not_eq_true', ← Bool.not_eq_true]
  intro hi
  have hn := hno y hy
  rw [(FarStream.is_iff.1 hi).1] at hn
  exact absurd hn (by decide)

/-- A request of a window that its sender reaches, and of the stream that its windows have, takes the lowest free entry with the status of its
checks, unless its STREAM_SEQ lies behind the one expected. -/
theorem Block.farRequest_inStream {x : InMsg} {m : FarMsg} {w : Win} {st : FarStream} {d : Block}
    (hw : d.win (m.win.toNat % 4096) = some w) (hk : w.kind = 2) (hp : w.peer = x.peer) (hj : w.peerJob = x.job)
    (hst : d.fwu.streams.find? (FarStream.ofPair x.peer m) = some st) (his : st.is x.peer m x.cls = true)
    (hseq : (m.streamSeq.toNat + 2 ^ 32 - st.expect) % 2 ^ 32 < 2 ^ 31) :
    d.farRequest x m = d.putEnt d.freeEnt ⟨x.peer, x.cls, w.job, m, d.farCheck x m, d.now, none, 0, 0, [], none, x.seg, false, x.buf⟩ := by
  obtain ⟨-, hgen, -⟩ := FarStream.is_iff.1 his
  have hfind := FarStream.find?_is hst his
  have hany : (d.fwu.streams.any fun y => y.is x.peer m x.cls) = true :=
    List.any_eq_true.2 ⟨st, List.mem_of_find?_eq_some hfind, his⟩
  have hahead : (m.src.toNat / 2 ^ 24 + 256 - st.gen) % 256 = 0 := by rw [hgen, Nat.add_sub_cancel_left]
  unfold FarStream.ofPair at hst
  unfold Block.farRequest
  simp only [hw, hk, hp, hj, hst, hany, hfind, hahead, Option.any_some, Option.map_some, Option.getD_some, beq_self_eq_true, Bool.and_self,
    Bool.not_true, Bool.false_or, if_true, if_neg (Nat.not_lt_zero 128), if_neg (Nat.not_le.2 hseq), ite_self]

/-! ## A request at its turn (R112, R114) -/

/-- An entry that has not issued is not busy. -/
theorem ExecEnt.busy_of_not_started {e : ExecEnt} (h : e.started = none) : e.busy = false := by
  unfold ExecEnt.busy
  rw [h]
  rfl

/-- A stream expects the STREAM_SEQ after the one that it expected. -/
def Block.expectNext (st : FarStream) (b : Block) : Block := b.onFwu fun f => { f with
  streams := f.streams.map fun y => if y = st then { y with expect := (st.expect + 1) % 2 ^ 32 } else y }

/-- An entry is marked as issued, with the packets it waits for and a status. -/
def Block.entStart (i left status : Nat) (b : Block) : Block := b.onFwu fun f => { f with
  ents := AMap.adjust f.ents i fun y => { y with started := some b.now, left := left, status := status, blockedAt := none } }

/-- The packets of a far request go into the local fabric, if every one of them can. -/
def FarExec.issueAll (i : Nat) (e : ExecEnt) (w : Win) (b : Block) : Option Block :=
  let m := e.msg
  let isW := m.fop == 0x02#8 || m.fop == 0x20#8
  let isR := m.fop == 0x01#8 || m.fop == 0x21#8
  let at_ (p : Nat × Nat) : Nat := p.1 - (w.base + m.offset.toNat)
  (FarExec.parts w m).foldl (fun (acc : Option Block) p => acc.bind fun d => d.issue ⟨.exec i (at_ p), w.job, w.target, e.cls, FarExec.opc m, p.1,
    if isW then p.2 else if isR then p.2 else m.data.length,
    if isR then [] else if isW then (m.data.drop (at_ p)).take p.2 else m.data⟩) (some b)

/-- An entry of a known stream and window whose turn has come, and which no other entry holds back. -/
structure Block.EntTurn (b : Block) (i : Nat) (e : ExecEnt) (st : FarStream) (w : Win) : Prop where
  ent : AMap.get? b.fwu.ents i = some e
  stream : (b.fwu.streams.find? fun y => y.is e.peer e.msg e.cls) = some st
  notStarted : e.started = none
  expected : st.expect = e.msg.streamSeq.toNat
  othersWait : ∀ x ∈ b.fwu.ents, x.1 ≠ i → x.2.started = none
  notBlocked : e.blockedAt = none
  win : b.win (e.msg.win.toNat % 4096) = some w
  engine : b.engStopped e.job 2 = false

/-- Nothing holds an entry back while no other one has issued. -/
theorem Block.EntTurn.no_hazard {b : Block} {i : Nat} {e : ExecEnt} {st : FarStream} {w : Win} (h : b.EntTurn i e st w) :
    (b.fwu.ents.any fun x => x.1 != i && x.2.busy && x.2.same e.peer e.msg e.cls && FarExec.mustWait x.2.msg e.msg) = false := by
  refine List.any_eq_false.2 fun x hx => ?_
  by_cases hi : x.1 = i
  · simp [hi]
  · simp [ExecEnt.busy_of_not_started (h.othersWait x hx hi)]

/-- At its turn an entry is marked with its failing status, or with TIMEOUT when its data is poison; it issues its packets, of which an FFENCE
has none, and fails when one of them cannot be issued. -/
theorem Fwu.farExecute_turn {b : Block} {i : Nat} {e : ExecEnt} {st : FarStream} {w : Win} (h : b.EntTurn i e st w) :
    Fwu.farExecute i b =
      if e.bad ≠ 0 then (b.expectNext st).entStart i 0 e.bad
      else if (e.buf.any fun x => b.bufPoison x.1) = true then (b.expectNext st).entStart i 0 St.timeout
      else if e.msg.fop = 0x03#8 then (b.expectNext st).entStart i 0 0
      else
        let c := ((b.expectNext st).entStart i (FarExec.parts w e.msg).length 0).count w.job 1 7 1
        (FarExec.issueAll i e w c).getD (c.entStart i 0 St.badParam) := by
  have hwin : AMap.get? b.fwu.wins (e.msg.win.toNat % 4096) = some w := h.win
  unfold Fwu.farExecute
  simp only [h.ent, h.stream, h.notStarted, ← h.expected, h.engine, h.notBlocked, h.no_hazard, Block.win, Block.onFwu_fwu, hwin,
    Option.isSome_none, bne_self_eq_false, Bool.or_self, Bool.false_and, Bool.false_eq_true, if_false]
  refine ite_congr rfl (fun _ => rfl) fun _ => ite_congr rfl (fun _ => rfl) fun _ => ite_congr rfl (fun _ => rfl) fun _ => ?_
  split <;> rename_i hall
  · exact (congrArg (Option.getD · _) hall).symm
  · exact (congrArg (Option.getD · _) hall).symm

/-! ## The response of an entry (R112, R117, R130) -/

/-- No entry but `i` is of the stream of a request, so no test of such entries finds one. -/
theorem Block.no_earlier {b : Block} {i peer cls : Nat} {m : FarMsg} (h : ∀ x ∈ b.fwu.ents, x.1 ≠ i → x.2.same peer m cls = false)
    (p q : Nat × ExecEnt → Bool) : (b.fwu.ents.any fun x => x.1 != i && p x && x.2.same peer m cls && q x) = false := by
  refine List.any_eq_false.2 fun x hx => ?_
  by_cases hi : x.1 = i
  · simp [hi]
  · simp [h x hx hi]

section
variable {b : Block} {i : Nat} {e : ExecEnt} (he : AMap.get? b.fwu.ents i = some e)
include he

/-- An FFENCE that has issued is answered once no earlier operation of its stream is left. -/
theorem Fwu.ffenceComplete_alone (hs : e.started.isSome = true) (hf : e.msg.fop = 0x03#8)
    (ho : ∀ x ∈ b.fwu.ents, x.1 ≠ i → x.2.same e.peer e.msg e.cls = false) :
    Fwu.ffenceComplete i b = b.entRespond i e e.status e.msg.offset.toNat [] := by
  have hn : e.started.isNone = false := Option.isNone_eq_false_iff.2 hs
  unfold Fwu.ffenceComplete
  simp only [he, hn, hf, Block.no_earlier ho, bne_self_eq_false, Bool.or_self, Bool.false_eq_true, if_false]

variable (hb : e.bad = 0) (hr : e.resp = false)
include hb hr

/-- An entry that waits for packets is not answered yet. -/
theorem Fwu.execResponse_waits (hl : e.left ≠ 0) : Fwu.execResponse i b = b := by
  unfold Fwu.execResponse
  simp [he, hb, hr, hl]

variable (hs : e.started.isSome = true) (hl : e.left = 0)
include hs hl

/-- A request that is no FFENCE and no chunk is answered with its status, and with what it read unless it failed. -/
theorem Fwu.execResponse_plain (hf : e.msg.fop ≠ 0x03#8) (hc : e.msg.fop ≠ 0x20#8) : Fwu.execResponse i b =
      b.entRespond i e e.status e.msg.offset.toNat (if e.status = 0 ∧ e.msg.fop ≠ 0x02#8 then e.data.flatMap Prod.snd else []) := by
  have hn : e.started.isNone = false := Option.isNone_eq_false_iff.2 hs
  unfold Fwu.execResponse
  simp [he, hn, hb, hr, hl, hf, hc]

/-- A chunk is done when no other request of its stream is left. -/
theorem Fwu.execResponse_chunk (hc : e.msg.fop = 0x20#8) (ho : ∀ x ∈ b.fwu.ents, x.1 ≠ i → x.2.same e.peer e.msg e.cls = false) :
    Fwu.execResponse i b = b.chunkDone i e := by
  have hn : e.started.isNone = false := Option.isNone_eq_false_iff.2 hs
  have hearly := Block.no_earlier ho (fun x => x.2.started.isSome && !x.2.resp) fun x =>
    2 ^ 31 ≤ (x.2.msg.streamSeq.toNat + 2 ^ 32 - e.msg.streamSeq.toNat) % 2 ^ 32
  have hfence : ((0x20#8 : BitVec 8) == 0x03#8) = false := by decide
  simp only [← Bool.and_assoc] at hearly
  unfold Fwu.execResponse
  simp only [he, hr, hb, hn, hl, hc, hearly, hfence, ne_eq, not_true_eq_false, false_and, bne_self_eq_false, Bool.or_self, Bool.false_eq_true,
    if_false, if_true]

end

/-- The record of a bulk copy is kept until the chunk marked FINAL. -/
def Block.keepRec (e : ExecEnt) (r : Nat × Nat) (b : Block) : Block := b.putBulkRec e (if e.msg.flags.getLsbD 1 then none else some r)

section
variable {b : Block} {i : Nat} {e : ExecEnt}

/-- After a chunk of its copy has failed, a chunk answers with that failure, whatever became of itself. -/
theorem Block.chunkDone_afterFailure (h : (b.bulkRec e).1 ≠ 0) :
    b.chunkDone i e = (b.keepRec e (b.bulkRec e)).entRespond i e (b.bulkRec e).1 (b.bulkRec e).2 [] := by
  unfold Block.chunkDone Block.keepRec
  simp [h]

/-- The first chunk that fails answers with its status, and with the offset completed before it. -/
theorem Block.chunkDone_fails (h : (b.bulkRec e).1 = 0) (hs : e.status ≠ 0) :
    b.chunkDone i e = (b.keepRec e (e.status, (b.bulkRec e).2)).entRespond i e e.status (b.bulkRec e).2 [] := by
  unfold Block.chunkDone Block.keepRec
  simp [h, hs]

/-- A chunk that completes where the copy stood moves its completed offset to its own end. It reports that at FINAL and at each 16 MiB, and is
counted and freed otherwise. -/
theorem Block.chunkDone_completes (h : b.bulkRec e = (0, e.msg.offset.toNat)) (hs : e.status = 0) :
    let off := e.msg.offset.toNat
    let fin := off + e.msg.data.length
    b.chunkDone i e = if e.msg.flags.getLsbD 1 = true ∨ fin / 0x1000000 ≠ off / 0x1000000 then (b.keepRec e (0, fin)).entRespond i e 0 fin []
      else ((b.keepRec e (0, fin)).entCount e 0).entFree i := by
  unfold Block.chunkDone Block.keepRec
  simp [h, hs]

end

/-! ## Requests held behind a hole (R506) -/

/-- The only stream discards what it holds when one of its requests has been held too long. -/
theorem Fwu.holdExpiry_one {b : Block} {st : FarStream} (h : b.fwu.streams = [st]) :
    Fwu.holdExpiry b = if b.heldLate st then b.holdSkip st else b := by
  unfold Fwu.holdExpiry
  rw [h]
  rfl

/-! ## The statement -/

/-- Settles O33: each command leaves what its effect leaves, and each effect takes the case of its premises. -/
theorem farExecution : Obligations.FarExecution := by
  unfold Obligations.FarExecution
  refine ⟨?rx, ?execute, ?response, ?ffence, ?hold⟩
  case rx =>
    intro t sel x m s b d hu hx hm
    rw [exec_farRequestRx hu]
    refine ⟨fun hc => by rw [Fwu.farRequestRx_noCredit hx hm hc], fun w st hc hw hk hp hj hst hgen hrank hcls hseq => ?_⟩
    have his : st.is x.peer m x.cls = true := FarStream.is_iff.2 ⟨List.find?_some hst, hgen, hrank, hcls⟩
    rw [Fwu.farRequestRx_credit hx hm hc, Block.farRequest_inStream hw hk hp hj hst his hseq]
  case execute =>
    intro t i e st w s b set m hu he hst hs hexp ho hbl hw heng
    rw [exec_farRequestExecute hu, Fwu.farExecute_turn ⟨he, hst, hs, hexp, ho, hbl, hw, heng⟩]
    refine ⟨fun hbad => ?_, fun hbad hpo => ?_, fun hbad hpo hf => ?_, ?_⟩
    · rw [if_pos hbad]
      rfl
    · rw [if_neg (not_not.2 hbad), if_pos hpo]
      rfl
    · rw [if_neg (not_not.2 hbad), if_neg (Bool.eq_false_iff.1 hpo), if_pos hf]
      rfl
    · intro b' hbad hpo hf ps isW isR at_ hissue
      have hall : FarExec.issueAll i e w (((b.expectNext st).entStart i (FarExec.parts w e.msg).length 0).count w.job 1 7 1) = some b' :=
        hissue
      rw [if_neg (not_not.2 hbad), if_neg (Bool.eq_false_iff.1 hpo), if_neg hf]
      dsimp only
      rw [hall, Option.getD_some]
  case response =>
    intro t i e s b off fin old kept hu he hb hs hr hf
    rw [exec_farExecResponse hu]
    refine ⟨fun hl => ?_, fun hl hc => ?_, fun hl hc ho => ?_⟩
    · rw [Fwu.execResponse_waits he hb hr hl]
    · rw [Fwu.execResponse_plain he hb hr hs hl hf hc]
    · rw [Fwu.execResponse_chunk he hb hr hs hl hc ho]
      refine ⟨fun h => ?_, fun h hst => ?_, fun h hst hrep => ?_, fun h hst hfin hsame => ?_⟩
      · rw [Block.chunkDone_afterFailure h]
        rfl
      · rw [Block.chunkDone_fails h hst]
        rfl
      · rw [Block.chunkDone_completes h hst, if_pos hrep]
        rfl
      · rw [Block.chunkDone_completes h hst, if_neg (not_or.2 ⟨by rw [hfin]; decide, not_not.2 hsame⟩)]
        rfl
  case ffence =>
    intro t i e s b hu he hs hf ho
    rw [exec_ffenceComplete hu, Fwu.ffenceComplete_alone he hs hf ho]
  case hold =>
    intro t st s b hu hst
    rw [exec_farStreamHoldExpiry hu, Fwu.holdExpiry_one hst]
    exact ⟨fun h => by rw [if_pos h], fun h => by rw [if_neg (Bool.eq_false_iff.1 h)]⟩

end Sys2Proof.Machine
end

section
/-! SUPPORT. What a ring command does once its packet has started: it passes check 8 and acts, or fails it and completes BAD_PARAM. -/

namespace Sys2Proof

/-- A packet passes check 8 when none of its fields offends. -/
theorem Req.firstBad_eq_none_iff {l : List (Nat × Bool)} : Req.firstBad l = none ↔ ∀ e ∈ l, e.2 = false := by
  induction l with
  | nil => simp [Req.firstBad]
  | cons e l ih =>
    obtain ⟨o, bad⟩ := e
    cases bad <;> simp [Req.firstBad, ih]

/-- The offset named is that of the first field that offends. -/
theorem Req.firstBad_append_cons {l : List (Nat × Bool)} (hl : ∀ e ∈ l, e.2 = false) {bad : Bool} (hb : bad = true) (o : Nat)
    (l' : List (Nat × Bool)) : Req.firstBad (l ++ (o, bad) :: l') = some o := by
  subst hb
  induction l with
  | nil => rfl
  | cons e l ih =>
    obtain ⟨he, hl⟩ := List.forall_mem_cons.1 hl
    rw [List.cons_append, Req.firstBad, he]
    exact ih hl

@[simp] theorem Req.nz_eq_false {r : Req} {off n : Nat} : r.nz off n = false ↔ r.u off n = 0 := bne_eq_false_iff_eq

@[simp] theorem Req.nz_eq_true {r : Req} {off n : Nat} : r.nz off n = true ↔ r.u off n ≠ 0 := bne_iff_ne

/-- Every field of a packet without parameters is 0. -/
theorem Req.u_of_params {r : Req} (h : r.params = 0#384) (off n : Nat) : r.u off n = 0 := by
  unfold Req.u
  rw [h, BitVec.toNat_zero, Nat.zero_div, Nat.zero_mod]

theorem Bits.mul_ofBool (n : Nat) (c : Bool) : n * Bits.ofBool c = if c then n else 0 := by
  cases c
  · exact Nat.mul_zero n
  · exact Nat.mul_one n

end Sys2Proof

namespace Sys2Proof.Machine

/-- An address is sound when it is aligned and its range lies in DX-64 memory (R51). -/
@[simp] theorem badAddr_eq_false {a n align : Nat} : badAddr a n align = false ↔ a % align = 0 ∧ a + n ≤ 0x6000000000 := by
  unfold badAddr inDx dxTop
  simp

/-- The parameters of a command that has none are sound when all are 0. -/
theorem Job.noParams_sound {r : Req} (h : r.params = 0#384) : ∀ e ∈ Job.noParams r, e.2 = false := by
  simp [Job.noParams, Req.u_of_params h]

/-- The fields of a function command are sound when it names a function and leaves the rest 0. -/
theorem Func.fields_sound {r : Req} (h16 : r.u 16 8 = 0) (hk : Func.known r.a1 = true) (h28 : r.u 28 4 = 0) (h32 : r.u 32 32 = 0) :
    ∀ e ∈ Func.fields r, e.2 = false := by
  simp [Func.fields, h16, hk, h28, h32]

/-- The fields of a window command without a descriptor are sound when it names a window and leaves the rest 0. -/
theorem Fwu.winFields_sound {r : Req} (h16 : r.u 16 8 = 0) (h24 : r.u 24 4 = 0) (hw : r.a2 < 4096) (h32 : r.u 32 32 = 0) :
    ∀ e ∈ Fwu.winFields r, e.2 = false := by
  simp [Fwu.winFields, h16, h24, hw, h32]

section
variable {r : Req} {t : Time} {s : State} {b : Block} {id : Nat}

/-- A packet that starts and whose fields are sound passes check 8. -/
theorem Ci.check8_sound {opc : Nat} (h : Starts opc r t s b id) {l : List (Nat × Bool)} (hl : ∀ e ∈ l, e.2 = false) (k : Block → Block) :
    Ci.check8 id r l k b = k b := Ci.check8_starts h (Req.firstBad_eq_none_iff.2 hl) k

/-! ## The effect that a started packet has -/

theorem exec_sysNop (h : Starts 0x0101 r t s b id) : exec (.sysNop t r) s = After s (Sys.nop id r b) := cmd_runs h _
theorem exec_sysQuery (h : Starts 0x0102 r t s b id) : exec (.sysQuery t r) s = After s (Sys.query id r b) := cmd_runs h _
theorem exec_funcEnable (h : Starts 0x0103 r t s b id) : exec (.funcEnable t r) s = After s (Func.enable id r b) := cmd_runs h _
theorem exec_funcDisable (h : Starts 0x0104 r t s b id) : exec (.funcDisable t r) s = After s (Func.disable id r b) := cmd_runs h _
theorem exec_funcState (h : Starts 0x0105 r t s b id) : exec (.funcState t r) s = After s (Func.state id r b) := cmd_runs h _
theorem exec_regionConfig (h : Starts 0x0106 r t s b id) : exec (.regionConfig t r) s = After s (Sys.regionConfig id r b) := cmd_runs h _
theorem exec_policyBounds (h : Starts 0x0109 r t s b id) : exec (.policyBounds t r) s = After s (Pcr.policyBounds id r b) := cmd_runs h _
theorem exec_ownerRevoke (h : Starts 0x010A r t s b id) : exec (.ownerRevoke t r) s = After s (Job.revoke id r b) := cmd_runs h _
theorem exec_ringReset (h : Starts 0x010B r t s b id) : exec (.ringReset t r) s = After s (Job.ringReset id r b) := cmd_runs h _
theorem exec_jobOpen (h : Starts 0x0201 r t s b id) : exec (.jobOpen t r) s = After s (Job.openJob id r b) := cmd_runs h _
theorem exec_ringBind (h : Starts 0x0203 r t s b id) : exec (.ringBind t r) s = After s (Job.ringBind id r b) := cmd_runs h _
theorem exec_jobConfig (h : Starts 0x0204 r t s b id) : exec (.jobConfig t r) s = After s (Job.config id r b) := cmd_runs h _
theorem exec_jobFence (h : Starts 0x0206 r t s b id) : exec (.jobFence t r) s = After s (Job.fenceStart id r b) := cmd_runs h _
theorem exec_jobClose (h : Starts 0x0207 r t s b id) : exec (.jobClose t r) s = After s (Job.close id r b) := cmd_runs h _
theorem exec_jobQuery (h : Starts 0x0208 r t s b id) : exec (.jobQuery t r) s = After s (Job.query id r b) := cmd_runs h _
theorem exec_winCreate (h : Starts 0x0301 r t s b id) : exec (.winCreate t r) s = After s (Fwu.winCreate id r b) := cmd_runs h _
theorem exec_winDestroy (h : Starts 0x0302 r t s b id) : exec (.winDestroy t r) s = After s (Fwu.winDestroy id r b) := cmd_runs h _
theorem exec_winFence (h : Starts 0x0303 r t s b id) : exec (.winFence t r) s = After s (Fwu.winFence id r b) := cmd_runs h _
theorem exec_bulkCopy (h : Starts 0x0304 r t s b id) : exec (.bulkCopy t r) s = After s (Fwu.bulkCopy id r b) := cmd_runs h _
theorem exec_winQuery (h : Starts 0x0305 r t s b id) : exec (.winQuery t r) s = After s (Fwu.winQuery id r b) := cmd_runs h _

end

end Sys2Proof.Machine
end

section
/-! SUPPORT. The checks of a packet in their order (R46), and what becomes of a packet that fails one. -/

namespace Sys2Proof.Machine

/-- A packet that passes checks 1 and 2 of R46: the device is not LOCKED, and bytes 0 to 15 are laid out as Table 2-4 says. -/
structure Block.LaidOut (b : Block) (r : Req) : Prop where
  unlocked : b.bit R.cmdStatus 3 = false
  flags : r.flags.toNat < 16
  job : r.job.toNat < 1024
  version : r.version = 1#8
  rsvd : r.rsvd = 0#40

section
variable {b : Block} {opc : Nat} {r : Req}

/-- A LOCKED device turns every packet away. -/
theorem Block.precheck_locked (h : b.bit R.cmdStatus 3 = true) : b.precheck opc r = some (St.locked, 0) := if_pos h

/-- A packet of another VERSION is the first of its fields that offends. -/
theorem Block.precheck_version (h : b.bit R.cmdStatus 3 = false) (hf : r.flags.toNat < 16) (hj : r.job.toNat < 1024) (hv : r.version ≠ 1#8) :
    b.precheck opc r = some (St.badParam, 10) := by
  have hbad : Req.firstBad [(2, r.flags.toNat / 16 != 0), (8, r.job.toNat / 1024 != 0), (10, r.version != 1#8), (11, r.rsvd != 0#40)] = some 10 :=
    Req.firstBad_append_cons (l := [_, _]) (by simp [hf, hj]) (by simp [hv]) 10 _
  unfold Block.precheck
  dsimp only
  rw [if_neg (Bool.eq_false_iff.1 h), hbad]

/-- Checks 1 and 2 passed: what the opcode table says decides. -/
theorem Block.LaidOut.sound (h : b.LaidOut r) :
    Req.firstBad [(2, r.flags.toNat / 16 != 0), (8, r.job.toNat / 1024 != 0), (10, r.version != 1#8), (11, r.rsvd != 0#40)] = none :=
  Req.firstBad_eq_none_iff.2 (by simp [h.flags, h.job, h.version, h.rsvd])

/-- An opcode that Table 2-9 does not list. -/
theorem Block.precheck_unknown (h : b.LaidOut r) (hi : opInfo opc = none) : b.precheck opc r = some (St.badOpcode, 0) := by
  unfold Block.precheck
  dsimp only
  rw [if_neg (Bool.eq_false_iff.1 h.unlocked), h.sound, hi]

/-- An opcode of Table 2-9: the ring it came on (check 4), the ring's job (check 5), and the state of the job it acts on (checks 6 and 7). -/
theorem Block.precheck_known (h : b.LaidOut r) {i : OpInfo} (hi : opInfo opc = some i) : b.precheck opc r =
    if r.ring = recRing ∧ ¬(i.cls = 2 ∨ i.dagger = true) then some (St.badOpcode, 0)
    else if r.ring ≠ recRing ∧ (i.cls = 2 ∨ i.cls = 0 ∧ (b.ring r.ring).isJob = true) then some (St.notOwner, 0)
    else if (b.ring r.ring).isJob = true ∧ r.jobN ≠ (b.ring r.ring).job then some (St.notOwner, 0)
    else if Ci.jobScoped opc r = true ∧ (b.job (b.cmdJob r)).state = 2 then some (St.state, 2)
    else if Ci.jobScoped opc r = true ∧ (b.job (b.cmdJob r)).state = 1 ∧
      ¬(opc = 0x0208 ∨ opc = 0x0207 ∨ opc = 0x0206 ∨ opc = 0x0901 ∨ opc = 0x0903) then some (St.fenced, 0)
    else none := by
  unfold Block.precheck
  dsimp only
  rw [if_neg (Bool.eq_false_iff.1 h.unlocked), h.sound, hi]

/-- On a ring that is not the recovery ring an opcode of class J passes check 4. -/
theorem Block.precheck_jobClass (h : b.LaidOut r) {i : OpInfo} (hi : opInfo opc = some i) (hring : r.ring ≠ 255) (hcls : i.cls = 1) :
    b.precheck opc r =
      if (b.ring r.ring).isJob = true ∧ r.jobN ≠ (b.ring r.ring).job then some (St.notOwner, 0)
      else if Ci.jobScoped opc r = true ∧ (b.job (b.cmdJob r)).state = 2 then some (St.state, 2)
      else if Ci.jobScoped opc r = true ∧ (b.job (b.cmdJob r)).state = 1 ∧
        ¬(opc = 0x0208 ∨ opc = 0x0207 ∨ opc = 0x0206 ∨ opc = 0x0901 ∨ opc = 0x0903) then some (St.fenced, 0)
      else none := by
  rw [Block.precheck_known h hi, if_neg fun hp => hring hp.1, if_neg (by simp [hcls])]

/-- The recovery ring takes the opcodes marked R or with a dagger, and no other (check 4). -/
theorem Block.precheck_recovery (h : b.LaidOut r) (hr : r.ring = 255) :
    b.precheck opc r = some (St.badOpcode, 0) ↔ ¬∃ i, opInfo opc = some i ∧ (i.cls = 2 ∨ i.dagger = true) := by
  cases hi : opInfo opc with
  | none => simp [Block.precheck_unknown h hi]
  | some i =>
    rw [Block.precheck_known h hi]
    by_cases hm : i.cls = 2 ∨ i.dagger = true
    · rw [if_neg fun hf => hf.2 hm, if_neg fun hf => hf.1 hr]
      refine iff_of_false ?_ fun hno => hno ⟨i, rfl, hm⟩
      split_ifs <;> decide
    · rw [if_pos ⟨hr, hm⟩]
      simp [hm]

/-- A packet that fails one of checks 1 to 7 completes with the status of that check, and has no other effect. -/
theorem Ci.cmd_fails {b : Block} (hs : b.ciServes r.ring = true) (hh : b.mustHold r = false) {st d : Nat}
    (hp : (Ci.taken opc r b).precheck opc r = some (st, d)) (eff : Nat → Req → Block → Block) :
    Ci.cmd opc r eff b = (Ci.taken opc r b).done b.freshId st d := by
  unfold Ci.cmd Ci.take Ci.start
  dsimp only
  rw [if_pos hs, if_neg (Bool.eq_false_iff.1 hh), hp]

end

/-- Settles O16: check 4 on the recovery ring. -/
theorem recoveryRingOpcodes : Obligations.RecoveryRingOpcodes :=
  fun _ _ _ hl hf hj hv hr hring => Block.precheck_recovery ⟨hl, hf, hj, hv, hr⟩ hring

/-- The parameters of SYS_NOP, which offend as the first of them that is not 0 does. -/
theorem Sys.nop_bad {l l' : List (Nat × Bool)} {o off n id : Nat} {r : Req} (hl : ∀ e ∈ l, e.2 = false) (hu : r.u off n ≠ 0)
    (hp : Job.noParams r = l ++ (o, r.nz off n) :: l') (b : Block) : Sys.nop id r b = b.badParam id o := by
  unfold Sys.nop
  rw [hp]
  exact Ci.check8_bad id r (Req.firstBad_append_cons hl (Req.nz_eq_true.2 hu) o l') _ b

/-- Settles O15: each premise leads past the checks before its own, and the first parameter that is not 0 is named. -/
theorem packetChecks : Obligations.PacketChecks := by
  unfold Obligations.PacketChecks
  refine ⟨⟨?locked, ?version, ?known⟩, ?nop⟩
  case locked => exact fun b opc r h => Block.precheck_locked h
  case version => exact fun b opc r h hf hj hv => Block.precheck_version h hf hj hv
  case known =>
    intro b opc r hl hf hj hv hr
    have h : b.LaidOut r := ⟨hl, hf, hj, hv, hr⟩
    refine ⟨fun hi => Block.precheck_unknown h hi, fun i hi => ?_⟩
    refine ⟨fun hring hcls hdag => ?_, fun hring hcls => ?_, fun hring hcls hjob => ?_, fun hring hcls hjob hne => ?_,
      fun hring hcls hown hjs hst => ?_, fun hring hcls hown hjs hst hopc => ?_⟩
    · rw [Block.precheck_known h hi, if_pos ⟨hring, by simp [hcls, hdag]⟩]
    · rw [Block.precheck_known h hi, if_neg fun hp => hring hp.1, if_pos ⟨hring, .inl hcls⟩]
    · rw [Block.precheck_known h hi, if_neg fun hp => hring hp.1, if_pos ⟨hring, .inr ⟨hcls, hjob⟩⟩]
    · rw [Block.precheck_jobClass h hi hring hcls, if_pos ⟨hjob, hne⟩]
    · rw [Block.precheck_jobClass h hi hring hcls, if_neg fun hp => hp.2 (hown hp.1), if_pos ⟨hjs, hst⟩]
    · rw [Block.precheck_jobClass h hi hring hcls, if_neg fun hp => hp.2 (hown hp.1), if_neg (by simp [hst]),
        if_pos ⟨hjs, hst, by simp at hopc; tauto⟩]
  case nop =>
    intro t r s b id h
    rw [exec_sysNop h]
    refine ⟨fun h16 => ?_, fun h16 h24 => ?_, fun h16 h24 h28 => ?_, fun h16 h24 h28 h32 => ?_⟩
    · rw [Sys.nop_bad (l := []) (by simp) h16 rfl]
    · rw [Sys.nop_bad (l := [_]) (by simp [h16]) h24 rfl]
    · rw [Sys.nop_bad (l := [_, _]) (by simp [h16, h24]) h28 rfl]
    · rw [Sys.nop_bad (l := [_, _, _]) (by simp [h16, h24, h28]) h32 rfl]

end Sys2Proof.Machine
end

section
/-! SUPPORT. Rings at reset (R37, R501), and the writes of their registers (R37 to R45, R501). -/

namespace Sys2Proof.Machine

/-! ## Reset -/

/-- A ring at reset is as Table 2-2 and R501 say. -/
theorem State.reset_ring (n : Nat) : State.reset.blk.ring n = Ring.init n := rfl

/-- Settles O4: every memory is empty, and every ring as at reset. -/
theorem resetIsInOrder : Obligations.ResetIsInOrder := by
  have hempty : Mem.wf [] := ⟨List.Pairwise.nil, fun c hc => absurd hc List.not_mem_nil⟩
  refine ⟨⟨hempty, hempty, hempty, hempty⟩, rfl, fun n _ => ?_⟩
  rw [State.reset_ring]
  exact ⟨Bool.or_comm _ _, Bool.or_comm _ _, rfl⟩

/-! ## Where the registers of the rings stand -/

/-- The _LO registers of the CMD block are CMD_DISP_CNT's and those of the two bases of each ring. -/
theorem Reg.lo?_cmd {a : Nat} (h : (Reg.lo? a).isSome) (hk : a / 0x10000 = 1) :
    a % 0x10000 ≤ 0x5010 ∧ (a % 0x40 = 0 ∨ a % 0x40 = 0x10) := by
  obtain ⟨e, he, i, hi, hle⟩ := Reg.lo?_isSome h
  rw [hk] at he
  simp only [Reg.los, List.mem_cons, List.not_mem_nil, or_false] at he
  rcases he with rfl | rfl | rfl <;> (dsimp only at hi hle; omega)

/-- A register of the CMD block that is neither half of such a pair is in no pair. -/
theorem Reg.single_cmd {a : Nat} (hk : 0x10004 ≤ a ∧ a < 0x20000)
    (ha : 0x15014 < a ∨ a % 0x40 ≠ 0 ∧ a % 0x40 ≠ 0x10 ∧ a % 0x40 ≠ 0x4 ∧ a % 0x40 ≠ 0x14) :
    Reg.lo? a = none ∧ Reg.hi? a = none := by
  refine ⟨?_, ?_⟩
  · by_contra hn
    have := Reg.lo?_cmd (Option.isSome_iff_ne_none.2 hn) (by omega)
    omega
  · unfold Reg.hi?
    rw [if_pos (by omega)]
    by_contra hn
    have := Reg.lo?_cmd (Option.isSome_iff_ne_none.2 hn) (by omega)
    omega

/-- A write that acts on a register in no pair. -/
theorem Reg.write_single {rq a : Nat} {b : Block} (ha : a % 4 = 0) (hs : Reg.lo? a = none ∧ Reg.hi? a = none)
    (h : b.reach rq a true = .acts) (v : Word) (d : List Nat) : Reg.write rq a 32 v d b = b.writeReg rq a v d := by
  rw [Reg.write_acts ha h, Block.writePair_single hs.1 hs.2]

section
variable {rq n : Nat} {b : Block} (hn : n < 256)
include hn

/-- A write that acts on a doorbell (R40). -/
theorem Reg.write_db (h : b.reach rq (0x18000 + 0x4 * n) true = .acts) (v : Word) (d : List Nat) :
    Reg.write rq (0x18000 + 0x4 * n) 32 v d b = Ci.doorbell n v b := by
  have hno : ((0x18000 + 0x4 * n) % 0x10000 - 0x8000) / 4 = n := by omega
  rw [Reg.write_single (by omega) (Reg.single_cmd (by omega) (by omega)) h]
  unfold Block.writeReg
  dsimp only
  rw [if_neg (by omega), if_neg (by omega), if_pos (by omega), hno]

/-- A write that acts on a register of a ring that is no base (Table 2-2). -/
theorem Reg.write_ring {o : Nat} (ho : o < 0x40) (ha : o % 4 = 0) (hbase : o ∉ [0x00, 0x04, 0x10, 0x14])
    (h : b.reach rq (0x11000 + o + 0x40 * n) true = .acts) (v : Word) (d : List Nat) :
    Reg.write rq (0x11000 + o + 0x40 * n) 32 v d b = Ci.ringWrite n o v b := by
  have hno : ((0x11000 + o + 0x40 * n) % 0x10000 - 0x1000) / 0x40 = n := by omega
  have hoff : (0x11000 + o + 0x40 * n) % 0x10000 % 0x40 = o := by omega
  simp only [List.mem_cons, List.not_mem_nil, or_false, not_or] at hbase
  rw [Reg.write_single (by omega) (Reg.single_cmd (by omega) (by omega)) h]
  unfold Block.writeReg
  dsimp only
  rw [if_neg (by omega), if_pos (by omega), hno, hoff]

end

/-! ## The commands -/

section
variable {t : Time} {rq n : Nat} {v : Word} {s : State} (hn : n < 256)
include hn

theorem exec_cmdDbWrite (h : (s.blk.tick t).reach rq (R.cmdDb n) true = .acts) :
    exec (.cmdDbWrite t rq n v) s = After s (Ci.doorbell n v (s.blk.tick t)) :=
  congrArg (After s) ((if_pos hn).trans (Reg.write_db hn h v []))

theorem exec_cmdRqCfgWrite (h : (s.blk.tick t).reach rq (R.cmdRqCfg n) true = .acts) :
    exec (.cmdRqCfgWrite t rq n v) s = After s (Ci.rqCfg n v (s.blk.tick t)) :=
  congrArg (After s) ((if_pos hn).trans (Reg.write_ring (o := 0x08) hn (by decide) (by decide) (by decide) h v []))

theorem exec_cmdCqHeadWrite (h : (s.blk.tick t).reach rq (R.cmdCqHead n) true = .acts) :
    exec (.cmdCqHeadWrite t rq n v) s = After s (Ci.cqHead n v (s.blk.tick t)) :=
  congrArg (After s) ((if_pos hn).trans (Reg.write_ring (o := 0x20) hn (by decide) (by decide) (by decide) h v []))

end

/-! ## Doorbells -/

/-- How far a doorbell's value stands ahead of CMD_RQ_HEAD. -/
def Ring.ahead (r : Ring) (v : Word) : Nat := (v.toNat + 2 ^ 32 - r.head) % 2 ^ 32

/-- What is wrong with a doorbell's value (R40): 1 when it is beyond the ring, 2 when it is backwards, 0 when it is neither. -/
def Ring.dbCause (r : Ring) (v : Word) : Nat := if 2 ^ r.size < r.ahead v then 1 else if r.ahead v < r.unfetched then 2 else 0

section
variable {r : Ring} {v : Word}

theorem Ring.dbCause_good (hback : r.unfetched ≤ r.ahead v) (hsize : r.ahead v ≤ 2 ^ r.size) : r.dbCause v = 0 :=
  (if_neg (Nat.not_lt.2 hsize)).trans (if_neg (Nat.not_lt.2 hback))

theorem Ring.dbCause_beyond (h : 2 ^ r.size < r.ahead v) : r.dbCause v = 1 := if_pos h

theorem Ring.dbCause_back (hback : r.ahead v < r.unfetched) (hsize : r.ahead v ≤ 2 ^ r.size) : r.dbCause v = 2 :=
  (if_neg (Nat.not_lt.2 hsize)).trans (if_pos hback)

/-- A value that is beyond the ring or backwards has a cause. -/
theorem Ring.dbCause_ne_zero (h : 2 ^ r.size < r.ahead v ∨ r.ahead v < r.unfetched) : r.dbCause v ≠ 0 := by
  by_cases hsize : 2 ^ r.size < r.ahead v
  · rw [Ring.dbCause_beyond hsize]
    decide
  · rw [Ring.dbCause_back (h.resolve_left hsize) (Nat.not_lt.1 hsize)]
    decide

end

/-- A doorbell of a ring: a good value is taken, and ring 255 or a ring in ERROR ignores any other. -/
theorem Ci.doorbell_eq {n : Nat} (hn : n < 256) (v : Word) (b : Block) : Ci.doorbell n v b =
    if (b.ring n).dbCause v = 0 then b.setRing n { b.ring n with prod := v.toNat }
    else if n = recRing ∨ (b.ring n).err ≠ 0 ∧ (!(b.ring n).stopped) = true then b
    else b.ringError n ((b.ring n).dbCause v) := if_neg (Nat.not_le.2 hn)

/-- A general ring that is not in ERROR enters it. -/
theorem Block.ringError_general {n cause : Nat} {b : Block} (hn : n ≠ 255) (hs : (b.ring n).stopped = false) (hc : cause ≠ 5) :
    b.ringError n cause = ((b.setRing n { b.ring n with err := cause }).setBits (R.cmdErrSum (n / 32)) (2 ^ (n % 32))).msix
      (b.fld R.cmdErrIrq 10 0) := by
  have hstop : (cause == 5) = (b.ring n).stopped := by rw [hs]; exact beq_false_of_ne hc
  unfold Block.ringError Block.modRing
  dsimp only
  rw [if_neg (by simp [hn, hc]), hstop]

/-- A bad value puts a general ring that works into ERROR. -/
theorem Ci.doorbell_error {n : Nat} {v : Word} {b : Block} (hn : n < 256) (hgen : n ≠ 255) (herr : (b.ring n).err = 0)
    (hstop : (b.ring n).stopped = false) (h : 2 ^ (b.ring n).size < (b.ring n).ahead v ∨ (b.ring n).ahead v < (b.ring n).unfetched) :
    Ci.doorbell n v b = ((b.setRing n { b.ring n with err := (b.ring n).dbCause v }).setBits (R.cmdErrSum (n / 32)) (2 ^ (n % 32))).msix
      (b.fld R.cmdErrIrq 10 0) := by
  have h5 : (b.ring n).dbCause v ≠ 5 := by
    unfold Ring.dbCause
    split_ifs <;> decide
  rw [Ci.doorbell_eq hn, if_neg (Ring.dbCause_ne_zero h), if_neg (not_or.2 ⟨hgen, fun he => he.1 herr⟩), Block.ringError_general hgen hstop h5]

/-- Settles O11: where the doorbell stands between the producer index, the consumer index and the ring's size; and a configuration field by
field. -/
theorem ringRegisters : Obligations.RingRegisters := by
  unfold Obligations.RingRegisters
  refine ⟨?doorbell, ?config⟩
  case doorbell =>
    intro t rq n v s b r ahead error hn hreach
    rw [exec_cmdDbWrite hn hreach]
    refine ⟨fun hback hsize => ?_, fun hgen herr hstop hsize => ?_, fun hgen herr hstop hback hsize => ?_, fun hrec hbad => ?_⟩
    · rw [Ci.doorbell_eq hn, if_pos (Ring.dbCause_good hback hsize)]
    · rw [Ci.doorbell_error hn hgen herr hstop (.inl hsize), Ring.dbCause_beyond hsize]
    · rw [Ci.doorbell_error hn hgen herr hstop (.inr hback), Ring.dbCause_back hback hsize]
    · rw [Ci.doorbell_eq hn, if_neg (Ring.dbCause_ne_zero hbad), if_pos (.inl hrec)]
  case config =>
    intro t rq n v s b r size hreach
    refine ⟨fun hn => ?_, fun hn => ?_⟩
    · rw [exec_cmdRqCfgWrite (Nat.lt_succ_of_lt hn) hreach]
      unfold Ci.rqCfg
      dsimp only
      rw [if_neg (Nat.not_le.2 hn)]
      simp only [Bool.and_eq_true, Bool.not_eq_true', decide_eq_true_eq, and_assoc]
      rfl
    · rw [exec_cmdRqCfgWrite (by omega) hreach]
      exact congrArg (After s) (if_pos hn.ge)

/-- Settles O12: the value stands behind the tail by at most the size of the completion ring, or not. -/
theorem consumerIndexCheck : Obligations.ConsumerIndexCheck := by
  unfold Obligations.ConsumerIndexCheck
  intro t rq n v s b r behind hn hreach
  rw [exec_cmdCqHeadWrite hn hreach]
  unfold Ci.cqHead
  dsimp only
  rw [if_neg (Nat.not_le.2 hn)]
  refine ⟨fun hin => ?_, fun hout => ?_⟩
  · rw [if_pos hin]
  · rw [if_neg (Nat.not_le.2 hout)]

end Sys2Proof.Machine
end

section
/-! SUPPORT. Dispatch (R42, R43), and how completions are written, posted and retried (R41, R49). -/

namespace Sys2Proof

/-- A map whose entries keep their keys, and whose entry at `k` is left as it is, holds at `k` what it held. -/
theorem AMap.get?_map_of_fixed {α : Type} {m : AMap α} {k : Nat} {f : Nat × α → Nat × α} (hkey : ∀ e, (f e).1 = e.1)
    (hfix : ∀ e, e.1 = k → f e = e) : AMap.get? (m.map f) k = AMap.get? m k := by
  induction m with
  | nil => rfl
  | cons e m ih =>
    rw [List.map_cons, ← Prod.mk.eta (p := f e), AMap.get?_cons, hkey, ih, ← Prod.mk.eta (p := e), AMap.get?_cons]
    by_cases h : k = e.1
    · rw [if_pos h, if_pos h, hfix e h.symm]
    · rw [if_neg h, if_neg h]

end Sys2Proof

namespace Sys2Proof.Machine

@[simp] theorem Block.setRing_mc (n : Nat) (r : Ring) (b : Block) : (b.setRing n r).mc = b.mc := rfl

/-! ## Dispatch -/

/-- No ring but those of the processor's share is passed over: the recovery ring stays as it is. -/
theorem Block.ring_passOver (cp n : Nat) (cs : List Nat) (b : Block) : (b.passOver cp cs n).ring 255 = b.ring 255 := by
  refine congrArg (Option.getD · _) (AMap.get?_map_of_fixed (fun e => ?_) fun e he => ?_)
  · split <;> rfl
  · exact if_pos (.inl he)

/-- The recovery ring goes before every other (R43). -/
theorem Ci.dispatch_recovery {cp : Nat} {ok : Bool} {b : Block} (hup : b.pcr.phase = 4) (hcp : cp < 4)
    (hout : ({ b with pcieUp := ok } : Block).cpOut cp = false) (hf : ({ b with pcieUp := ok } : Block).fetchable 255 = true) :
    Ci.dispatch cp ok b = Ci.fetch 255 (({ b with pcieUp := ok } : Block).passOver cp (({ b with pcieUp := ok } : Block).candidates cp) 255) := by
  unfold Ci.dispatch
  dsimp only
  rw [if_neg (by simp [hup, hcp, hout]), if_pos hf]

/-- The packet at the consumer index of the recovery ring is read from the CMD block's SRAM, where R501 places the ring, and taken. -/
theorem Ci.fetch_recovery {b : Block} (hpo : b.mc.cmdPoison = []) (hlo : (b.ring 255).rqBaseLo = 0x0001A000#32)
    (hhi : (b.ring 255).rqBaseHi = 0#32) (hsz : (b.ring 255).size = 8) :
    let p := Req.ofBytes 255 (b.ring 255).head (b.sram.bytes (0x1A000 + 64 * ((b.ring 255).head % 256)) 64)
    Ci.fetch 255 b = Ci.take p.1 p.2 (Ci.execOp p.1) (b.setRing 255 { b.ring 255 with head := ((b.ring 255).head + 1) % 2 ^ 32 }) := by
  intro p
  have hbase : basePair (b.ring 255).rqBaseLo (b.ring 255).rqBaseHi = 0x1A000 := by
    rw [hlo, hhi]
    decide
  unfold Ci.fetch
  simp only [hsz, hbase, ne_eq, not_true_eq_false, decide_false, if_true, Bool.false_and, Bool.false_eq_true, if_false]
  exact if_neg (by simp [hpo])

/-- Among the rings that a processor may fetch from, one that has been passed over 64 times is picked (R42). -/
theorem Block.pickRing_aged {b : Block} {cp n : Nat} (hn : n ∈ b.candidates cp) (hp : 64 ≤ (b.ring n).passed) :
    ∃ m, b.pickRing cp = some (m, b) ∧ m ∈ b.candidates cp ∧ 64 ≤ (b.ring m).passed := by
  have hsome : ((b.candidates cp).find? fun n => decide (64 ≤ (b.ring n).passed)).isSome = true :=
    List.find?_isSome.2 ⟨n, hn, decide_eq_true hp⟩
  obtain ⟨m, hm⟩ := Option.isSome_iff_exists.1 hsome
  refine ⟨m, ?_, List.mem_of_find?_eq_some hm, by simpa using List.find?_some hm⟩
  unfold Block.pickRing
  dsimp only
  rw [hm]

theorem exec_ciDispatch (t : Time) (cp : Nat) (ok : Bool) (s : State) :
    exec (.ciDispatch t cp ok) s = After s (Ci.dispatch cp ok (s.foresee t (s.blk.tick t))) := rfl

/-- Settles O13: the recovery ring is fetched from before the others are looked at, and of those an aged one is found first. -/
theorem dispatchOrder : Obligations.DispatchOrder := by
  unfold Obligations.DispatchOrder
  refine ⟨?recovery, ?aged⟩
  case recovery =>
    intro t cp ok s b0 b r hup hcp hout hf hpo hlo hhi hsz p
    have hr : (b.passOver cp (b.candidates cp) 255).ring 255 = r := Block.ring_passOver ..
    rw [exec_ciDispatch, Ci.dispatch_recovery (b := b0) hup hcp hout hf]
    refine congrArg (After s) ((Ci.fetch_recovery (b := b.passOver cp (b.candidates cp) 255) hpo ?_ ?_ ?_).trans ?_)
    · rw [hr, hlo]
    · rw [hr, hhi]
    · rw [hr, hsz]
    · rw [hr]
      rfl
  case aged => exact fun b cp n hn hp => Block.pickRing_aged hn hp

/-! ## Coalescing and kept completions -/

theorem exec_coalTimerExpiry (t : Time) (n : Nat) (s : State) :
    exec (.coalTimerExpiry t n) s = After s ((s.blk.tick t).whenUp (Ci.coalExpiry n)) := rfl
theorem exec_completionWriteRetry (t : Time) (n : Nat) (ok : Bool) (s : State) :
    exec (.completionWriteRetry t n ok) s = After s (Ci.retry n ok (s.blk.tick t)) := rfl

/-- A retry that is due writes the kept completions in order. -/
theorem Ci.retry_due {n : Nat} {ok : Bool} {b : Block} {f : InFlight} {c : Comp} {l : List (InFlight × Comp)} (hn : n < 256)
    (hs : ({ b with pcieUp := ok } : Block).ciServes n = true) (hk : (b.ring n).kept = (f, c) :: l)
    (hdue : (b.ring n).triedAt + 800000 ≤ b.now) :
    Ci.retry n ok b = Ci.writeKept n ((f, c) :: l) { b with pcieUp := ok } := by
  have hring : ({ b with pcieUp := ok } : Block).ring n = b.ring n := rfl
  have hnow : ¬b.now < (b.ring n).triedAt + 100 * us := Nat.not_lt.2 hdue
  unfold Ci.retry
  dsimp only
  rw [hring, hk, if_neg]
  simp only [hs, Nat.not_le.2 hn, hnow, List.isEmpty_cons, Bool.not_true, Bool.false_eq_true, or_self, not_false_eq_true]

/-- The oldest kept completion is written, and then the others. -/
theorem Ci.writeKept_cons {n : Nat} {b : Block} (h : b.cqWritable n (b.ring n).tail = true) (f : InFlight) (c : Comp)
    (l : List (InFlight × Comp)) : Ci.writeKept n ((f, c) :: l) b = Ci.writeKept n l (b.cqPost f c) := if_pos h

/-- A write that fails again leaves what is kept, and counts from now. -/
theorem Ci.writeKept_fails {n : Nat} {b : Block} {f : InFlight} {c : Comp} {l : List (InFlight × Comp)}
    (h : b.cqWritable n (b.ring n).tail = false) (hk : (b.ring n).kept = (f, c) :: l) :
    Ci.writeKept n ((f, c) :: l) b = b.setRing n { b.ring n with triedAt := b.now } := by
  unfold Ci.writeKept
  rw [if_neg (Bool.eq_false_iff.1 h), ← hk]
  rfl

/-! ## The bytes of a completion (Table 2-5) -/

/-- Past the bytes of a number stand those that follow it. -/
theorem Bits.drop_leBytes_append {n o : Nat} (h : n ≤ o) (v : Nat) (l : List Byte) : (Bits.leBytes n v ++ l).drop o = l.drop (o - n) := by
  have hall : (Bits.leBytes n v).drop o = [] := List.drop_of_length_le ((Bits.leBytes_length n v).trans_le h)
  rw [List.drop_append, hall, List.nil_append, Bits.leBytes_length]

theorem compBytes_length (f : InFlight) (c : Comp) (tail size : Nat) : (compBytes f c tail size).length = 32 := by
  simp [compBytes]

/-- PHASE is 1 on the first pass through a ring and 0 on the second. -/
theorem phase_of_pass {tail size : Nat} : (tail < 2 ^ size → (1 - tail / 2 ^ size % 2) % 2 ^ 8 = 1) ∧
    (2 ^ size ≤ tail → tail < 2 * 2 ^ size → (1 - tail / 2 ^ size % 2) % 2 ^ 8 = 0) := by
  refine ⟨fun h => ?_, fun h h2 => ?_⟩
  · rw [Nat.div_eq_of_lt h]
    rfl
  · have hpass : tail / 2 ^ size = 1 := Nat.div_eq_of_lt_le (by omega) (by omega)
    rw [hpass]
    rfl

/-- The fields of a completion, each at its place. -/
theorem compBytes_fields (f : InFlight) (c : Comp) (tail size : Nat) :
    let field (o n : Nat) : Nat := Bits.ofLe (((compBytes f c tail size).drop o).take n)
    field 0 2 = c.status % 2 ^ 16 ∧ field 2 2 = f.opcode % 2 ^ 16 ∧ field 4 4 = f.cookie % 2 ^ 32 ∧ field 8 4 = f.index % 2 ^ 32 ∧
      field 12 2 = c.detail % 2 ^ 16 ∧ field 15 1 = (1 - tail / 2 ^ size % 2) % 2 ^ 8 ∧ field 16 8 = c.r0 % 2 ^ 64 ∧
      field 24 8 = c.r1 % 2 ^ 64 := by
  intro field
  have hlast : (Bits.leBytes 8 c.r1).take 8 = Bits.leBytes 8 c.r1 := List.take_of_length_le (Bits.leBytes_length 8 _).le
  simp only [field, compBytes, List.append_assoc]
  refine ⟨?_, ?_, ?_, ?_, ?_, ?_, ?_, ?_⟩ <;> simp [Bits.drop_leBytes_append, hlast]

/-! ## Posting a completion -/

/-- A ring read where it was set. -/
@[simp] theorem Block.ring_setRing_self (n : Nat) (r : Ring) (b : Block) : (b.setRing n r).ring n = r := by
  unfold Block.ring Block.setRing AMap.getD
  rw [AMap.get?_set_self]
  rfl

@[simp] theorem Block.ring_modRing_self (n : Nat) (f : Ring → Ring) (b : Block) : (b.modRing n f).ring n = f (b.ring n) :=
  Block.ring_setRing_self n _ b

/-- The bytes of a completion go to memory, and no ring changes. -/
theorem Block.ring_cqWrite (n i m : Nat) (bs : List Byte) (b : Block) : (b.cqWrite n i bs).ring m = b.ring m := by
  unfold Block.cqWrite
  dsimp only
  split
  · rfl
  · split
    · rfl
    · rw [Block.dxWrite_rest]
      rfl

/-- The vector of a ring moves no index. -/
theorem Block.tail_ringIrq (n : Nat) (b : Block) : ((b.ringIrq n).ring n).tail = (b.ring n).tail := by
  have hmsix : (b.ringIrq n).ring n = (b.modRing n fun r => { r with unsig := 0 }).ring n := rfl
  rw [hmsix, Block.ring_modRing_self]

/-- A completion posted moves CMD_CQ_TAIL on by one. -/
theorem Block.tail_cqPost (f : InFlight) (c : Comp) (b : Block) :
    ((b.cqPost f c).ring f.ring).tail = ((b.ring f.ring).tail + 1) % 2 ^ 32 := by
  have hnote (a x : Nat) (g : Nat → Nat) (d : Block) : (d.note a x g).ring f.ring = d.ring f.ring := rfl
  unfold Block.cqPost
  dsimp only
  split_ifs <;> simp only [Block.tail_ringIrq, Block.ring_modRing_self, hnote, Block.ring_cqWrite]

/-- Settles O14: the timer and the retry each by whether they are due, and the bytes field by field. -/
theorem completionsPosted : Obligations.CompletionsPosted := by
  unfold Obligations.CompletionsPosted
  refine ⟨⟨?timer, ?retry⟩, ?bytes, ?tail⟩
  case timer =>
    intro t n s b r hn hup hunsig hus
    rw [exec_coalTimerExpiry, Block.whenUp_of hup, Ci.coalExpiry]
    refine ⟨fun hdue => ?_, fun hearly => ?_⟩
    · rw [if_pos ⟨hn, hunsig, hus, hdue⟩]
      rfl
    · rw [if_neg fun ⟨_, _, _, hdue⟩ => Nat.not_le.2 hearly hdue]
  case retry =>
    intro t n ok f c l s b0 b hn hs hk hdue
    rw [exec_completionWriteRetry, Ci.retry_due (b := b0) hn hs hk hdue]
    refine ⟨fun hw => ?_, fun hw hl => ?_, fun hw => ?_⟩
    · rw [Ci.writeKept_cons hw]
    · rw [Ci.writeKept_cons hw, hl]
      rfl
    · rw [Ci.writeKept_fails hw hk]
  case bytes =>
    intro f c tail size bs field
    obtain ⟨hst, hopc, hck, hix, hdet, hph, hr0, hr1⟩ := compBytes_fields f c tail size
    exact ⟨compBytes_length f c tail size, hst, hopc, hck, hix, hdet, hr0, hr1, fun h => hph.trans (phase_of_pass.1 h),
      fun h h2 => hph.trans (phase_of_pass.2 h h2)⟩
  case tail => exact Block.tail_cqPost

end Sys2Proof.Machine
end

section
/-! SUPPORT. Queries (R69 to R71), and the functions that are switched on and off (R55, R56, R502). -/

namespace Sys2Proof.Machine

/-! ## The records of SYS_QUERY and JOB_QUERY (Tables 2-15 and 2-16) -/

theorem Block.sysRecord_length (b : Block) : b.sysRecord.length = 64 := by
  simp [Block.sysRecord]

theorem Block.sysRecord_id (b : Block) : Bits.ofLe (b.sysRecord.take 4) = b.regN R.sysId := by
  unfold Block.sysRecord
  simp only [List.append_assoc]
  rw [List.take_left' (Bits.leBytes_length 4 _), Bits.ofLe_leBytes]
  exact Nat.mod_eq_of_lt (b.regN_lt R.sysId)

theorem Block.jobRecord_length (b : Block) (job : Nat) : (b.jobRecord job).length = 64 := by
  simp [Block.jobRecord]

theorem Block.jobRecord_job (b : Block) (job : Nat) : Bits.ofLe ((b.jobRecord job).take 2) = job % 65536 := by
  unfold Block.jobRecord
  simp only [List.append_assoc]
  exact (congrArg Bits.ofLe (List.take_left' (Bits.leBytes_length 2 _))).trans (Bits.ofLe_leBytes 2 job)

/-- Settles O18: each packet passes check 8, and the records are as long and begin as their tables say. -/
theorem queriesReport : Obligations.QueriesReport := by
  unfold Obligations.QueriesReport
  refine ⟨?nop, ?query, ?job, ?state, ?records⟩
  case nop =>
    intro t r s b id h hp
    rw [exec_sysNop h, Sys.nop, Ci.check8_sound h (Job.noParams_sound hp)]
  case query =>
    intro t r s b id h ha hin h24 hlen h32
    rw [exec_sysQuery h, Sys.query, Ci.check8_sound h (by simp [ha, hin, h24, hlen, h32])]
  case job =>
    intro t r s b id h ha hin hlen h28 h32 job
    rw [exec_jobQuery h, Job.query, Ci.check8_sound h (by simp [ha, hin, hlen, h28, h32])]
    dsimp only
    rw [Bits.mul_ofBool]
  case state =>
    intro t r s b id h h16 hk h28 h32 x
    rw [exec_funcState h, Func.state, Ci.check8_sound h (Func.fields_sound h16 hk h28 h32)]
    simp only [Func.code, Bits.mul_ofBool, Bool.or_eq_true, beq_iff_eq, x]
  case records =>
    exact fun b job => ⟨b.sysRecord_length, b.sysRecord_id, b.jobRecord_length job, b.jobRecord_job job⟩

/-! ## FUNC_ENABLE and FUNC_DISABLE by the state of the function (Table 2-11) -/

/-- Settles O19: the packet passes check 8, and the function's mode chooses the row of Table 2-11. -/
theorem functionSwitching : Obligations.FunctionSwitching := by
  unfold Obligations.FunctionSwitching
  refine ⟨?enable, ?disable⟩
  case enable =>
    intro t r s b id h h16 hk h28 h32 hsleep x
    have hawake : ¬(r.a1 / 0x100 = 1 ∧ b.fld R.pcrStat 31 30 = 1) := fun hp => hsleep hp.1 hp.2
    rw [exec_funcEnable h, Func.enable, Ci.check8_sound h (Func.fields_sound h16 hk h28 h32)]
    dsimp only
    rw [if_neg hawake]
    refine ⟨fun hm => ?_, fun hm => ?_, fun hm hp => ?_, fun hm hp => ?_⟩
    · rw [hm]
      rfl
    · rw [hm]
      rfl
    · rw [hm, hp]
      rfl
    · rw [hm]
      exact congrArg (After s) (if_pos (Option.isSome_iff_ne_none.2 hp))
  case disable =>
    intro t r s b id h h16 hk h28 h32 x
    rw [exec_funcDisable h, Func.disable, Ci.check8_sound h (Func.fields_sound h16 hk h28 h32)]
    dsimp only
    refine ⟨fun hm => ?_, fun hm => ?_, fun hm => ?_⟩
    · rw [if_neg (by rw [hm]; decide), Block.disable, hm]
      rfl
    · rw [if_neg (by rw [hm]; decide), Block.disable, hm]
      rfl
    · rw [if_pos hm]

/-! ## What ends starting and draining -/

/-- An event of a function whose engine, if it has one, is not frozen takes effect. -/
theorem Func.event_of {f : Nat} {b : Block} (hup : b.pcr.phase = 4) (he : ∀ m, Func.engine f = some m → b.frozen m = false)
    (g : Block → Block) : Func.event f g b = g b := by
  refine if_pos (Bool.and_eq_true_iff.2 ⟨beq_iff_eq.2 hup, ?_⟩)
  exact (Option.all_eq_true _ _).2 fun m hm => by rw [he m hm]; rfl

/-- A starting function with no disable waiting runs, and its enable completes, DEFERRED when it had pended. -/
theorem Func.runningReached_alone {f id : Nat} {b : Block} (hm : (b.func f).mode = 3) (hc : (b.func f).cmd = some id)
    (hw : (b.func f).offWait = []) : Func.runningReached f b =
      ((b.setFunc f { Func.off with mode := 1 }).runNow f).complete id (Comp.of (if (b.func f).deferred then St.deferred else St.ok) 0 1) := by
  unfold Func.runningReached
  simp only [hm, hc, hw, ne_eq, not_true_eq_false, if_false, List.foldl_nil]
  rfl

/-- A function that no enable waits for reaches OFF, and the one disable that drained it completes. -/
theorem Block.reachOff_alone {f id : Nat} {b : Block} (hc : (b.func f).cmd = some id) (hp : (b.func f).pend = none)
    (hw : (b.func f).offWait = []) : b.reachOff f = ((b.offNow f).setFunc f Func.off).ok id 0 := by
  unfold Block.reachOff
  simp only [hc, hp, hw]
  rfl

/-- For a fabric port, OFF is that the port is down. -/
theorem Block.offNow_port {p : Nat} (hp : p < 32) (b : Block) : b.offNow (0x100 + p) = b.portDown p := by
  have hk : (0x100 + p) / 0x100 = 1 := by omega
  have hi : (0x100 + p) % 0x100 = p := by omega
  unfold Block.offNow
  rw [hk, hi]
  rfl

theorem exec_funcRunningReached (t : Time) (f : Nat) (s : State) :
    exec (.funcRunningReached t f) s = After s (Func.event f (Func.runningReached f) (s.blk.tick t)) := rfl
theorem exec_funcDrainEnd (t : Time) (f : Nat) (s : State) :
    exec (.funcDrainEnd t f) s = After s (Func.event f (Func.drainEnd f) (s.blk.tick t)) := rfl
theorem exec_fabricPortDrainTimeout (t : Time) (p : Nat) (s : State) :
    exec (.fabricPortDrainTimeout t p) s = After s ((s.blk.tick t).whenWorks 26 (Func.portTimeout p)) := rfl

/-- Settles O20: each event takes effect, on a function with one command and none waiting. -/
theorem functionTransitions : Obligations.FunctionTransitions := by
  unfold Obligations.FunctionTransitions
  refine ⟨?running, ?drained, ?timeout⟩
  case running =>
    intro t f id s b x hup he hm hc hw
    rw [exec_funcRunningReached, Func.event_of hup he, Func.runningReached_alone hm hc hw]
  case drained =>
    intro t f id s b x hup he hm hd hc hp hw
    rw [exec_funcDrainEnd, Func.event_of hup he, Func.drainEnd, if_pos ⟨hm, hd⟩, Block.reachOff_alone hc hp hw]
  case timeout =>
    intro t p id s b x hp hworks hm hc hpend hw
    rw [exec_fabricPortDrainTimeout, Block.whenWorks_of hworks, Func.portTimeout]
    refine ⟨fun hdue => ?_, fun hearly => ?_⟩
    · rw [if_pos ⟨hp, hm, hdue⟩, Block.reachOff_alone hc hpend hw, Block.offNow_port hp]
    · rw [if_neg fun ⟨_, _, hdue⟩ => Nat.not_le.2 hearly hdue]

end Sys2Proof.Machine
end

section
/-! SUPPORT. Regions and bounds (R68, R440), the life of a job (R63, R65, R66) and its fence (R62, R64, R468 to R471). -/

namespace Sys2Proof.Machine

/-! ## REGION_CONFIG and POLICY_BOUNDS -/

/-- POLICY_BOUNDS of the power loop (Table 16-9): its range is 300 to 750, and its bounds go to PCR_BND_PWR. -/
theorem Pcr.policyBounds_power {id : Nat} {r : Req} {b : Block} (hi : r.a1 = 0x2000) : Pcr.policyBounds id r b =
    Ci.check8 id r [(16, r.nz 16 8), (28, r.nz 28 4),
      (32, (decide (Bits.toInt 16 (r.u 32 2) < 300) || decide (750 < Bits.toInt 16 (r.u 32 2))) ||
        decide (Bits.toInt 16 (r.u 34 2) < Bits.toInt 16 (r.u 32 2))),
      (34, decide (Bits.toInt 16 (r.u 34 2) < 300) || decide (750 < Bits.toInt 16 (r.u 34 2))), (36, r.nz 36 28)]
      (fun b => (b.setReg R.pcrBndPwr (BitVec.ofNat 32 (r.u 34 2 * 65536 + r.u 32 2))).ok id 0) b := by
  unfold Pcr.policyBounds
  rw [hi]
  rfl

/-- Settles O21: the packet passes check 8 and meets the conditions of its command, or names the first field that it breaks. -/
theorem regionsAndBounds : Obligations.RegionsAndBounds := by
  unfold Obligations.RegionsAndBounds
  refine ⟨?region, ?bounds⟩
  case region =>
    intro t r s b id h rep res low h16 h24 h28 hrep hrep' hres h36 hA hB hlow hroom b'
    have hr0 : r.u 32 2 ≠ 0 := by omega
    have hresF : r.u 34 2 ≠ 0xFFFF := by omega
    have hports : ¬(r.u 32 2 ≠ b.replayGib ∧ (!b.funcOff 0x200 || !b.funcOff 0x201) = true) := by simp [hA, hB]
    rw [exec_regionConfig h]
    unfold Sys.regionConfig
    dsimp only
    rw [Ci.check8_sound h (by simp [h16, h24, h28, h36]; omega), if_neg hr0, if_neg hresF, if_neg hports,
      if_neg (Nat.not_lt.2 hlow), if_neg (Nat.not_lt.2 hroom)]
  case bounds =>
    intro t r s b id h h16 h28 h36 lo hi
    rw [exec_policyBounds h]
    refine ⟨fun ha hlo hle hhi => ?_, fun ha hbad => ?_⟩
    · rw [Pcr.policyBounds_power ha, Ci.check8_sound h]
      simp [h16, h28, h36]
      omega
    · rw [Pcr.policyBounds_power ha]
      refine congrArg (After s) (Ci.check8_bad id r (Req.firstBad_append_cons (l := [_, _]) (by simp [h16, h28]) ?_ 32 _) _ b)
      simpa [or_assoc] using hbad

/-! ## JOB_OPEN, JOB_CONFIG and JOB_CLOSE -/

/-- The number that JOB_OPEN takes: the one asked for, or the lowest free one. -/
theorem Job.openJob_number {n a : Nat} {b : Block}
    (hn : (a = n ∧ n < 1024 ∧ b.jobFree n = true) ∨ (a = 0xFFFFFFFF ∧ Bits.findBelow 1024 b.jobFree = some n)) :
    ¬(1023 < a ∧ a ≠ 0xFFFFFFFF) ∧ ¬(a ≠ 0xFFFFFFFF ∧ (!b.jobFree a) = true) ∧
      (if a = 0xFFFFFFFF then Bits.findBelow 1024 b.jobFree else some a) = some n := by
  rcases hn with ⟨rfl, hlt, hfree⟩ | ⟨rfl, hfind⟩
  · exact ⟨by omega, by simp [hfree], if_neg (by omega)⟩
  · exact ⟨by simp, by simp, hfind⟩

/-- Settles O22: the packet passes check 8, and the job's state chooses what it does. -/
theorem jobLifecycle : Obligations.JobLifecycle := by
  unfold Obligations.JobLifecycle
  refine ⟨?opens, ?config, ?close⟩
  case opens =>
    intro t r s b id n h hsleep h16 h24 h32 hn
    obtain ⟨hcode, hfree, hno⟩ := Job.openJob_number hn
    rw [exec_jobOpen h]
    unfold Job.openJob
    dsimp only
    rw [if_neg hsleep, Ci.check8_sound h (by simp only [List.forall_mem_cons, decide_eq_false hcode]; simp [h16, h24, h32]),
      if_neg hfree, hno]
  case config =>
    intro t r s b id h h16 h24 h28 h40 h42 hfab hfar hstrict
    rw [exec_jobConfig h]
    unfold Job.config
    dsimp only
    rw [Ci.check8_sound h (by simp [h16, h24, h28, h40, h42]; omega)]
    simp only [h40, if_true, ne_eq, not_true_eq_false, false_and, if_false]
    rfl
  case close =>
    intro t r s b id h hp job j
    rw [exec_jobClose h, Job.close, Ci.check8_sound h (Job.noParams_sound hp)]
    dsimp only
    refine ⟨fun hs => ?_, fun hs hf => ?_, fun hs hf => ?_⟩
    · rw [if_pos hs]
    · rw [if_neg (by rw [hs]; decide), if_pos hf]
    · rw [if_neg (by rw [hs]; decide), if_neg (by rw [hf]; decide)]
      rfl

/-! ## The job fence -/

section
variable {r : Req} (h16 : r.u 16 8 = 0) (h24 : r.u 24 4 = 0) (h28 : r.u 28 4 = 0)
  (hprop : r.u 32 1 = 0 ∧ r.u 33 1 = 0 ∨ r.u 32 1 = 1 ∧ 1 ≤ r.u 33 1 ∧ r.u 33 1 ≤ 15)
  (hcause : r.u 34 2 ≤ 3 ∨ 16 ≤ r.u 34 2 ∧ r.u 34 2 ≤ 31) (h38 : r.u 38 26 = 0)
include h16 h24 h28 hprop hcause h38

/-- The fields of JOB_FENCE are sound: 1 to 15 hops when the fence propagates and none when it does not, and a cause that software may give. -/
theorem Job.fence_sound : ∀ e ∈ [(16, r.nz 16 8), (24, r.nz 24 4), (28, r.nz 28 4), (32, decide (1 < r.u 32 1)),
    (33, if r.u 32 1 = 1 then decide (r.u 33 1 < 1 ∨ 15 < r.u 33 1) else r.u 33 1 != 0),
    (34, !(r.u 34 2 == 0 || decide (r.u 34 2 ≤ 3) || decide (0x10 ≤ r.u 34 2 ∧ r.u 34 2 ≤ 0x1F))), (38, r.nz 38 26)], e.2 = false := by
  have hhops : (if r.u 32 1 = 1 then decide (r.u 33 1 < 1 ∨ 15 < r.u 33 1) else r.u 33 1 != 0) = false := by
    rcases hprop with ⟨hp, hh⟩ | ⟨hp, hh⟩
    · simp [hp, hh]
    · rw [if_pos hp]; simp; omega
  have hcode : (r.u 34 2 == 0 || decide (r.u 34 2 ≤ 3) || decide (0x10 ≤ r.u 34 2 ∧ r.u 34 2 ≤ 0x1F)) = true := by
    rcases hcause with hc | hc <;> simp [hc]
  have h32 : r.u 32 1 ≤ 1 := by omega
  simp only [List.forall_mem_cons, hhops, hcode]
  simp [h16, h24, h28, h32, h38]

/-- What a JOB_FENCE with sound fields does: the job's fence and its state decide (R62, R64). -/
theorem Job.fenceStart_sound {t : Time} {s : State} {b : Block} {id : Nat} (h : Starts 0x0206 r t s b id) : Job.fenceStart id r b =
    if (b.job (b.cmdJob r)).fence.isSome = true then b.complete id (Comp.of St.busy 0 0)
    else if (b.job (b.cmdJob r)).state = 1 then b.ok id 0
    else ({ b with health := { b.health with fences := b.health.fences + 1 } } : Block).fenceJob (b.cmdJob r)
      ⟨0, 0, BitVec.ofNat 16 b.gw, BitVec.ofNat 32 (b.health.fences + 1), BitVec.ofNat 16 (r.u 34 2), BitVec.ofNat 16 (r.u 36 2)⟩
      (some id) (r.u 33 1) none := by
  unfold Job.fenceStart
  exact Ci.check8_sound h (Job.fence_sound h16 h24 h28 hprop hcause h38) _

end

theorem exec_jobFenceComplete (t : Time) (job : Nat) (s : State) :
    exec (.jobFenceComplete t job) s = After s ((s.blk.tick t).whenUp (Job.fenceDone job)) := rfl
theorem exec_fenceNoticeRx (t : Time) (sel : Nat) (s : State) :
    exec (.fenceNoticeRx t sel) s = After s ((s.blk.tick t).whenUp (Job.noticeRx sel)) := rfl

/-- What becomes of a fence notice: a pair of an OPEN job fences it, and any other notice is rejected. -/
theorem Job.noticeRx_of {sel : Nat} {x : InMsg} {m : FenceMsg} {b : Block} (hx : b.pickIn sel InMsg.notice = some x) (hm : x.msg = .fence m) :
    Job.noticeRx sel b =
      if !(b.dropIn sel).jobOpen (m.job.toNat % 1024) || !((b.dropIn sel).fencePairs (m.job.toNat % 1024)).contains (x.peer, x.job) then
        (b.dropIn sel).bump R.sysFenceRejCnt
      else ((b.dropIn sel).bump R.sysFenceRxCnt).fenceJob (m.job.toNat % 1024) m none (m.hops.toNat - 1) (some x.peer) := by
  obtain ⟨peer, job, _, _, _, msg, _, _⟩ := x
  obtain rfl : msg = .fence m := hm
  unfold Job.noticeRx
  rw [hx]

/-- Settles O23: the fence begins for an OPEN job, ends as it began, and a notice is judged by its pair. -/
theorem jobFencing : Obligations.JobFencing := by
  unfold Obligations.JobFencing
  refine ⟨?begins, ?ends, ?notice⟩
  case begins =>
    intro t r s b id h h16 h24 h28 hprop hcause h38 job n hf hs
    rw [exec_jobFence h, Job.fenceStart_sound h16 h24 h28 hprop hcause h38 h, if_neg (by rw [hf]; decide), if_neg (by rw [hs]; decide)]
  case ends =>
    intro t job n s b free hup
    rw [exec_jobFenceComplete, Block.whenUp_of hup, Job.fenceDone]
    refine ⟨fun id hf => ?_, fun hf => ?_⟩
    · rw [hf]
    · rw [hf]
  case notice =>
    intro t sel x m s b job hup hx hm c
    rw [exec_fenceNoticeRx, Block.whenUp_of hup, Job.noticeRx_of hx hm]
    refine ⟨fun ho hp => ?_, fun hno => ?_⟩
    · have hpair : (!c.jobOpen job || !(c.fencePairs job).contains (x.peer, x.job)) = false := by simp [ho, hp]
      exact congrArg (After s) (if_neg (Bool.eq_false_iff.1 hpair))
    · have hpair : (!c.jobOpen job || !(c.fencePairs job).contains (x.peer, x.job)) = true := by simpa using hno
      exact congrArg (After s) (if_pos hpair)

/-- A JOB_FENCE on a ring of its job, or of no job, of a job that is CLOSED or free: check 6 turns it away. -/
theorem Block.precheck_fence_closed {r : Req} {b : Block} (h : b.LaidOut r)
    (ho : (b.ring r.ring).isJob = true → r.jobN = (b.ring r.ring).job) (hs : (b.job (b.cmdJob r)).state = 2) :
    b.precheck 0x0206 r = some (St.state, 2) := by
  have hi : opInfo 0x0206 = some ⟨1, true⟩ := by decide
  have hjs : Ci.jobScoped 0x0206 r = true := by
    unfold Ci.jobScoped
    rw [if_neg (by decide), hi]
    rfl
  rw [Block.precheck_known h hi, if_neg fun hp => hp.2 (.inr rfl), if_neg (by simp), if_neg fun hp => hp.2 (ho hp.1), if_pos ⟨hjs, hs⟩]

theorem exec_jobFence_cmd (t : Time) (r : Req) (s : State) :
    exec (.jobFence t r) s = After s (Ci.cmd 0x0206 r Job.fenceStart (s.blk.tick t)) := rfl

/-- Settles O24: a fence that runs answers BUSY, one that has ended OK, and a CLOSED job fails check 6. -/
theorem repeatedFence : Obligations.RepeatedFence := by
  unfold Obligations.RepeatedFence
  refine ⟨?fenced, ?closed⟩
  case fenced =>
    intro t r s b id h h16 h24 h28 hprop hcause h38 job
    rw [exec_jobFence h, Job.fenceStart_sound h16 h24 h28 hprop hcause h38 h]
    refine ⟨fun hf => ?_, fun hf hs => ?_⟩
    · rw [if_pos hf]
    · rw [if_neg (by rw [hf]; decide), if_pos hs]
  case closed =>
    intro t r s b c hserves hhold hl hf hj hv hr ho hs
    rw [exec_jobFence_cmd, Ci.cmd_fails hserves hhold (Block.precheck_fence_closed ⟨hl, hf, hj, hv, hr⟩ ho hs)]

end Sys2Proof.Machine
end

section
/-! SUPPORT. RING_BIND, RING_RESET and OWNER_REVOKE (R59 to R61, R67), and the commands of far windows (R72, R104, R118, R129, R131). -/

namespace Sys2Proof.Machine

/-! ## Rings and revocations -/

theorem exec_ownerRevokeDone (t : Time) (s : State) : exec (.ownerRevokeDone t) s = After s ((s.blk.tick t).whenUp Job.revokeDone) := rfl

/-- The bit by which RING_BIND binds to device management, in a byte that check 8 holds to 0 and 1. -/
theorem Job.bindMgmt_eq {r : Req} (h : r.u 32 1 ≤ 1) : Bits.bit (r.u 32 1) 0 = (r.u 32 1 == 1) := by
  unfold Bits.bit
  rw [pow_zero, Nat.div_one, Nat.mod_eq_of_lt (by omega)]

/-- Settles O25: the packet passes check 8, and the ring, or the oldest revocation, chooses what it does. -/
theorem ringManagement : Obligations.RingManagement := by
  unfold Obligations.RingManagement
  refine ⟨?bind, ?reset, ?revoke, ?revokeDone⟩
  case bind =>
    intro t r s b id h x h16 h24 hn hn' h32 h33 hoff hown
    have hother : ¬(x.isJob = true ∧ x.job ≠ r.jobN ∧ (b.job x.job).state ≠ 2) := fun hp => hp.2.1 (hown hp.1)
    rw [exec_ringBind h]
    unfold Job.ringBind
    dsimp only
    rw [Ci.check8_sound h (by simp [h16, h24, h32, h33]; omega), if_neg (Bool.eq_false_iff.1 hoff), if_neg hother, Job.bindMgmt_eq h32]
    refine ⟨fun hb => ?_, fun hb hopen => ?_⟩
    · rw [hb, if_neg (by simp)]
      rfl
    · rw [hb, if_neg (by simp [hopen])]
      rfl
  case reset =>
    intro t r s b id h x h16 hn h28 h32
    rw [exec_ringReset h]
    unfold Job.ringReset
    dsimp only
    rw [Ci.check8_sound h (by simp [h16, hn, h28, h32])]
    refine ⟨fun hx => ?_, fun hx => ?_⟩
    · rw [if_neg (by rw [hx]; decide)]
      rfl
    · rw [if_pos (Option.isSome_iff_ne_none.2 hx)]
  case revoke =>
    intro t r s b id h h16 h24 hown hmask hscope hbanks h37
    rw [exec_ownerRevoke h]
    unfold Job.revoke
    dsimp only
    rw [Ci.check8_sound h]
    have hb : (Bits.bit (r.u 36 1) 1 && Nat.land (r.u 32 4) 0xFFC3F != 0) = false := by
      cases hbit : Bits.bit (r.u 36 1) 1 with
      | false => rfl
      | true => exact bne_eq_false_iff_eq.2 (hbanks hbit)
    simp only [List.forall_mem_cons, hb]
    simp [h16, h24, hscope, h37, show r.a2 < 1048576 from hown, show r.u 32 4 < 1048576 from hmask]
  case revokeDone =>
    intro t v vs s b hup hv x
    rw [exec_ownerRevokeDone, Block.whenUp_of hup, Job.revokeDone, hv]

/-! ## Far windows -/

/-- A command on a window of its own job acts on it. -/
theorem Block.cmdWin_own {id : Nat} {r : Req} {b : Block} {x : Win} (hx : b.win r.a2 = some x) (hj : x.job = b.cmdJob r)
    (k : Nat → Win → Block → Block) : b.cmdWin id r k = k r.a2 x b := by
  unfold Block.cmdWin
  rw [hx]
  exact if_neg (not_not.2 hj)

/-- Settles O30: the packet passes check 8, and its window, its descriptor and what is free choose what it does. -/
theorem farWindows : Obligations.FarWindows := by
  unfold Obligations.FarWindows
  refine ⟨?create, ?destroy, ?fence, ?query, ?copy⟩
  case create =>
    intro t r s b id w h
    dsimp only
    intro ha hin hlen h32 hdesc hno hpeer hfree
    have hcode : (4096 ≤ r.a2 && r.a2 != 0xFFFFFFFF) = false := by
      rcases hno with ⟨hlt, -⟩ | ⟨heq, -⟩
      · simp; omega
      · simp [heq]
    have hw : (if r.a2 = 0xFFFFFFFF then AMap.freeKey (b.readCount r.a0 64).fwu.wins 0 4096 else some r.a2) = some w := by
      rcases hno with ⟨hlt, rfl⟩ | ⟨heq, hkey⟩
      · exact if_neg (by omega)
      · rw [if_pos heq, hkey]
    have hgw : ((b.readCount r.a0 64).peerGw.any fun e => e.2 == (b.readCount r.a0 64).d r.a0 4 2) = true := by simpa using hpeer
    rw [exec_winCreate h]
    unfold Fwu.winCreate
    dsimp only
    rw [Ci.check8_sound h (by simp [hcode, ha, hin, hlen, h32])]
    simp only [hdesc, hw, hfree, if_neg (not_not.2 hgw)]
  case destroy =>
    intro t r s b id x h h16 h24 hw h32 hx hj
    rw [exec_winDestroy h, Fwu.winDestroy, Ci.check8_sound h (Fwu.winFields_sound h16 h24 hw h32), Block.cmdWin_own hx hj]
    refine ⟨fun hd => ?_, fun hd => ?_⟩
    · rw [if_neg (by rw [hd]; decide)]
    · rw [if_pos (Option.isSome_iff_ne_none.2 hd)]
  case fence =>
    intro t r s b id x h h16 h24 hw h32 hx hj cov ents f
    rw [exec_winFence h, Fwu.winFence, Ci.check8_sound h (Fwu.winFields_sound h16 h24 hw h32), Block.cmdWin_own hx hj]
  case query =>
    intro t r s b id x h ha hin hlen hw h32 hx hj
    rw [exec_winQuery h, Fwu.winQuery, Ci.check8_sound h (by simp [ha, hin, hw, h32]), Block.cmdWin_own hx hj, if_neg (Nat.not_lt.2 hlen)]
    rfl
  case copy =>
    intro t r s b id x h
    dsimp only
    intro h16 h24 hw hrank hoff hlen hr hdir h61 hx hj hk hatom hperm hent hroom
    have hown : ¬(x.job ≠ b.cmdJob r ∨ x.kind ≠ 1) := by simp [hj, hk]
    have hknown : ¬((b.rankEntry (b.cmdJob r) (r.u 56 4)).isNone = true) := by
      rw [Option.isNone_iff_eq_none]
      exact Option.isSome_iff_ne_none.1 hent
    rw [exec_bulkCopy h]
    unfold Fwu.bulkCopy
    dsimp only
    have hsound : ∀ e ∈ [(16, r.nz 16 8), (24, r.nz 24 4), (28, decide (4096 ≤ r.a2)), (32, r.u 32 8 / 2 ^ 48 != 0),
        (40, r.u 40 8 / 2 ^ 48 != 0), (48, r.u 48 8 == 0), (56, r.u 56 4 / 2 ^ 24 != 0), (60, decide (1 < r.u 60 1)), (61, r.nz 61 3)],
        e.2 = false := by
      simp only [List.forall_mem_cons, Nat.div_eq_of_lt hrank, Nat.div_eq_of_lt hoff, Nat.div_eq_of_lt hr]
      simp [h16, h24, hw, hlen, hdir, h61]
    rw [Ci.check8_sound h hsound]
    simp only [hx, hatom, hperm, if_neg hown, if_neg hknown, if_neg (not_not.2 hroom)]
    refine ⟨fun hread => ?_, fun b' buf hwrite hbuf => ?_⟩
    · rw [if_pos (by rw [hread]; rfl)]
    · rw [if_neg (by rw [hwrite]; decide), hbuf]

end Sys2Proof.Machine
end

section
/-! SUPPORT. The registers whose writes keep limits (R101, R132, R215), and those of the SEC (R351, R352, R359). -/

namespace Sys2Proof

/-! ## Fields that begin at bit 0 -/

theorem Bits.fld_low (v hi : Nat) : Bits.fld v hi 0 = v % 2 ^ (hi + 1) := by
  unfold Bits.fld
  rw [pow_zero, Nat.div_one, Nat.sub_zero]

/-- What replaces the low bits leaves those above. -/
theorem Bits.put_low (v hi x : Nat) : Bits.put v hi 0 x = 2 ^ (hi + 1) * (v / 2 ^ (hi + 1)) + x % 2 ^ (hi + 1) := by
  unfold Bits.put
  rw [Bits.fld_low, pow_zero, Nat.mul_one, Nat.mul_one, Nat.sub_zero]
  have := Nat.mod_add_div v (2 ^ (hi + 1))
  omega

end Sys2Proof

namespace Sys2Proof.Machine

theorem Block.regN_putFld_self (a hi lo x : Nat) (b : Block) :
    (b.putFld a hi lo x).regN a = Bits.put (b.regN a) hi lo x % 2 ^ 32 := by
  unfold Block.putFld Block.regN
  rw [Block.reg_setReg_self, BitVec.toNat_ofNat]

/-! ## The commands -/

/-- The partition registers are words in no pair. -/
theorem Reg.single_eddyPart : ∀ n < 8, R.fifEddyPart n % 4 = 0 ∧ Reg.lo? (R.fifEddyPart n) = none ∧ Reg.hi? (R.fifEddyPart n) = none := by
  decide

/-- A write of FIF_EDDY_PARTn is the FIF's to judge. -/
theorem Block.writeReg_eddyPart {n : Nat} (hn : n < 8) (rq : Nat) (v : Word) (d : List Nat) (b : Block) :
    b.writeReg rq (0x20020 + 0x4 * n) v d = Fif.eddyPart n v b := by
  have hno : ((0x20020 + 0x4 * n) % 0x10000 - 0x20) / 4 = n := by omega
  unfold Block.writeReg
  dsimp only
  rw [if_neg (by omega), if_neg (by omega), if_neg (by omega), if_pos (by omega), hno]

section
variable {t : Time} {rq : Nat} {s : State}

theorem exec_fifEddyPartWrite {n : Nat} (hn : n < 8) (h : (s.blk.tick t).reach rq (R.fifEddyPart n) true = .acts) (v : Word) :
    exec (.fifEddyPartWrite t rq n v) s = After s (Fif.eddyPart n v (s.blk.tick t)) := by
  obtain ⟨hal, hsingle⟩ := Reg.single_eddyPart n hn
  refine congrArg (After s) ((if_pos hn).trans ?_)
  rw [Reg.write_single hal hsingle h, Block.writeReg_eddyPart hn]

theorem exec_fwuExecCtlWrite (h : (s.blk.tick t).reach rq R.fwuExecCtl true = .acts) (v : Word) :
    exec (.fwuExecCtlWrite t rq v) s = After s (Fwu.execCtl v (s.blk.tick t)) :=
  congrArg (After s) (Reg.write_single (by decide) (by decide) h v [])

theorem exec_cxQlimitWrite (h : (s.blk.tick t).reach rq R.cxQlimit true = .acts) (v : Word) :
    exec (.cxQlimitWrite t rq false v) s = After s (Cx.limitWrite false v (s.blk.tick t)) :=
  congrArg (After s) (Reg.write_single (by decide) (by decide) h v [])

theorem exec_cxDqlimitWrite (h : (s.blk.tick t).reach rq R.cxDqlimit true = .acts) (v : Word) :
    exec (.cxQlimitWrite t rq true v) s = After s (Cx.limitWrite true v (s.blk.tick t)) :=
  congrArg (After s) (Reg.write_single (by decide) (by decide) h v [])

theorem exec_secSvnCommitWrite (h : (s.blk.tick t).reach rq R.secSvnCommit true = .acts) (v : Word) :
    exec (.secSvnCommitWrite t rq v) s = After s (Sec.svnCommit v (s.blk.tick t)) :=
  congrArg (After s) (Reg.write_single (by decide) (by decide) h v [])

theorem exec_secMr3ExtCommit (h : (s.blk.tick t).reach rq (R.secMr3Ext 11) true = .acts) (v : Word) :
    exec (.secMr3ExtCommit t rq v) s = After s (Sec.mr3Write 11 v (s.blk.tick t)) :=
  congrArg (After s) (Reg.write_single (by decide) (by decide) h v [])

theorem exec_secGwWrite (h : (s.blk.tick t).reach rq R.secGw true = .acts) (v : Word) :
    exec (.secGwWrite t rq v) s = After s (Sec.gwWrite v (s.blk.tick t)) :=
  congrArg (After s) (Reg.write_single (by decide) (by decide) h v [])

/-- A write that does not act, and meets no trigger, does nothing. -/
theorem exec_secSvnCommitWrite_ignored (h : (s.blk.tick t).reach rq R.secSvnCommit true ≠ .acts)
    (ht : (s.blk.tick t).trigHit rq R.secSvnCommit true = false) (v : Word) :
    exec (.secSvnCommitWrite t rq v) s = After s (s.blk.tick t) :=
  congrArg (After s) ((if_neg fun hw => h hw.2.2).trans (if_neg (Bool.eq_false_iff.1 ht)))

end

/-! ## What a write within its limits does -/

section
variable (v : Word) (b : Block)

theorem Fif.eddyPart_eq (n : Nat) : Fif.eddyPart n v b =
    if n < 8 ∧ 16 ≤ v.toNat % 1024 ∧
        Bits.sum ((List.range 8).map fun i => if i = n then v.toNat % 1024 else b.fld (R.fifEddyPart i) 9 0) ≤ 512 then
      b.putN (R.fifEddyPart n) (v.toNat % 1024)
    else b := by
  unfold Fif.eddyPart
  rw [Bits.fld_low]
  rfl

theorem Fwu.execCtl_eq : Fwu.execCtl v b =
    if 1024 ≤ v.toNat % 2 ^ 18 ∧ v.toNat % 2 ^ 18 ≤ 131072 ∧ v.toNat % 2 ^ 18 * (b.peerGw.map Prod.snd).eraseDups.length ≤ 131072 then
      b.putN R.fwuExecCtl (v.toNat % 2 ^ 18)
    else b := by
  unfold Fwu.execCtl
  rw [Bits.fld_low]

theorem Cx.limitWrite_queue : Cx.limitWrite false v b =
    if 256 ≤ v.toNat % 2 ^ 13 ∧ v.toNat % 2 ^ 13 ≤ 4096 then b.putN R.cxQlimit (v.toNat % 2 ^ 13) else b := by
  unfold Cx.limitWrite
  rw [if_neg Bool.false_ne_true, Bits.fld_low]

theorem Cx.limitWrite_decode : Cx.limitWrite true v b =
    if 128 ≤ v.toNat % 2 ^ 11 ∧ v.toNat % 2 ^ 11 ≤ 1024 then b.putN R.cxDqlimit (v.toNat % 2 ^ 11) else b := by
  unfold Cx.limitWrite
  rw [if_pos rfl, Bits.fld_low]

/-- With the key, a fused version below the running one rises to it. -/
theorem Sec.svnCommit_raises {b : Block} (h : b.fld R.secFwSvn 15 0 < b.fld R.secFwSvn 31 16) :
    (Sec.svnCommit 0x53564E31#32 b).fld R.secFwSvn 15 0 = b.fld R.secFwSvn 31 16 ∧
    (Sec.svnCommit 0x53564E31#32 b).fld R.secFwSvn 31 16 = b.fld R.secFwSvn 31 16 := by
  have hlt : b.regN R.secFwSvn / 2 ^ 16 < 2 ^ 16 := Nat.div_lt_of_lt_mul (b.regN_lt R.secFwSvn)
  have hrun : b.fld R.secFwSvn 31 16 = b.regN R.secFwSvn / 2 ^ 16 := Nat.mod_eq_of_lt hlt
  have hnew : (Sec.svnCommit 0x53564E31#32 b).regN R.secFwSvn = 2 ^ 16 * (b.regN R.secFwSvn / 2 ^ 16) + b.regN R.secFwSvn / 2 ^ 16 := by
    unfold Sec.svnCommit
    rw [if_pos ⟨rfl, h⟩, Block.regN_putFld_self, Bits.put_low, hrun, Nat.mod_eq_of_lt hlt, Nat.mod_eq_of_lt (by omega)]
  rw [hrun]
  unfold Block.fld
  rw [hnew]
  refine ⟨?_, ?_⟩
  · rw [Bits.fld_low, Nat.mul_add_mod, Nat.mod_eq_of_lt hlt]
  · unfold Bits.fld
    rw [Nat.mul_add_div (by decide), Nat.div_eq_of_lt hlt, Nat.add_zero, Nat.mod_eq_of_lt hlt]

/-- Without the key nothing happens. -/
theorem Sec.svnCommit_wrongKey {v : Word} (h : v ≠ 0x53564E31#32) : Sec.svnCommit v b = b := if_neg fun hk => h hk.1

/-- Word 11 of MR3_EXT extends MR3 by the eleven words before it and itself. -/
theorem Sec.mr3Write_last : (Sec.mr3Write 11 v b).sec.mr3 = Sha.sha384 (b.sec.mr3 ++
    ((List.range 11).flatMap fun k => Bits.leBytes 4 (b.regN (R.secMr3Ext k))) ++ Bits.leBytes 4 v.toNat) := by
  have hold : ∀ k ∈ List.range 11, Bits.leBytes 4 ((b.setReg (R.secMr3Ext 11) v).regN (R.secMr3Ext k)) =
      Bits.leBytes 4 (b.regN (R.secMr3Ext k)) := by
    intro k hk
    have hk := List.mem_range.1 hk
    unfold Block.regN
    rw [Block.reg_setReg_ne _ _ (by unfold R.secMr3Ext; omega)]
  have hlast : (b.setReg (R.secMr3Ext 11) v).regN (R.secMr3Ext 11) = v.toNat := by
    unfold Block.regN
    rw [Block.reg_setReg_self]
  unfold Sec.mr3Write
  dsimp only
  rw [if_pos rfl, List.range_succ, List.flatMap_append, List.flatMap_congr hold, List.flatMap_singleton, hlast]
  exact congrArg Sha.sha384 (List.append_assoc _ _ _).symm

end

/-- Settles O8: each write that acts reaches the rule of its register, whose guard is the premise or its contrary. -/
theorem guardedRegisterWrites : Obligations.GuardedRegisterWrites := by
  unfold Obligations.GuardedRegisterWrites
  refine ⟨⟨?eddy, ?credits, ?queues⟩, ?svn, ?wrongKey, ?mr3, ?gateway⟩
  case eddy =>
    intro t rq n v s b sum hn h
    rw [exec_fifEddyPartWrite hn h, Fif.eddyPart_eq]
    refine ⟨fun hmin hsum => ?_, fun hbad => ?_⟩
    · rw [if_pos ⟨hn, hmin, hsum⟩]
    · rw [if_neg fun ⟨_, hmin, hsum⟩ => hbad.elim (Nat.not_lt.2 hmin) (Nat.not_lt.2 hsum)]
  case credits =>
    intro t rq v s b x peers h
    rw [exec_fwuExecCtlWrite h, Fwu.execCtl_eq]
    refine ⟨fun hmin hmax hall => ?_, fun hbad => ?_⟩
    · rw [if_pos ⟨hmin, hmax, hall⟩]
    · rw [if_neg fun ⟨hmin, _, hall⟩ => hbad.elim (Nat.not_lt.2 hmin) (Nat.not_lt.2 hall)]
  case queues =>
    intro t rq v s b
    refine ⟨fun h => ?_, fun h => ?_⟩
    · rw [exec_cxQlimitWrite h, Cx.limitWrite_queue]
      refine ⟨fun hmin hmax => ?_, fun hbad => ?_⟩
      · rw [if_pos ⟨hmin, hmax⟩]
      · rw [if_neg (by omega)]
    · rw [exec_cxDqlimitWrite h, Cx.limitWrite_decode]
      refine ⟨fun hmin hmax => ?_, fun hbad => ?_⟩
      · rw [if_pos ⟨hmin, hmax⟩]
      · rw [if_neg (by omega)]
  case svn =>
    intro t rq s b h hlt
    exact ⟨_, exec_secSvnCommitWrite h _, Sec.svnCommit_raises hlt⟩
  case wrongKey =>
    intro t rq v s hv ht
    by_cases h : (s.blk.tick t).reach rq R.secSvnCommit true = .acts
    · rw [exec_secSvnCommitWrite h, Sec.svnCommit_wrongKey _ hv]
    · exact exec_secSvnCommitWrite_ignored h ht v
  case mr3 =>
    intro t rq v s b h
    exact ⟨_, exec_secMr3ExtCommit h v, Sec.mr3Write_last v b⟩
  case gateway =>
    intro t rq v s b h
    rw [exec_secGwWrite h]
    refine ⟨fun hnone => ?_, fun hsome => ?_⟩
    · exact congrArg (After s) (if_pos (List.isEmpty_iff.2 hnone))
    · exact congrArg (After s) (if_neg fun he => hsome (List.isEmpty_iff.1 he))

end Sys2Proof.Machine
end

section
/-! SUPPORT. What the FIF does with the packets of its ports (R73 to R79, R85 to R87): it checks them, holds them in their streams, skips a
packet that does not come, and keeps count of the credits. -/

namespace Sys2Proof.Machine

/-! ## The commands of the FIF -/

/-- While the FIF works, a command of it leaves what its effect leaves. -/
theorem after_fif {t : Time} {s : State} (h : (s.blk.tick t).works 26 = true) (f : Block → Block) :
    (Host.Outcome.next (s.run t fun b => b.whenWorks 26 f) : Host.Outcome State Fault Refusal) = After s (f (s.blk.tick t)) := by
  rw [after_run, Block.whenWorks_of h]

section
variable {t : Time} {s : State} (h : (s.blk.tick t).works 26 = true)
include h

theorem exec_fabricPacketRx (port : Nat) (p : FabPkt) :
    exec (.fabricPacketRx t port p) s = After s (Fif.packetRx port p (s.blk.tick t)) := after_fif h _
theorem exec_gapTimerExpiry (key : Nat) :
    exec (.gapTimerExpiry t key) s = After s (Fif.gapExpiry key (s.packetsAt t) (s.blk.tick t)) := after_fif h _
theorem exec_fabricPacketTx (sel : Nat) : exec (.fabricPacketTx t sel) s = After s (Fif.packetTx sel (s.blk.tick t)) := after_fif h _
theorem exec_tagQuarantineEnd (tag : Nat) : exec (.tagQuarantineEnd t tag) s = After s (Fif.quarantineEnd tag (s.blk.tick t)) := after_fif h _

theorem exec_fabricCreditReturn {p cls : Nat} (hp : p < 32) (hc : cls < 8) (n : Nat) :
    exec (.fabricCreditReturn t p cls n) s = After s (Fif.creditReturn p cls n (s.blk.tick t)) :=
  congrArg (After s) ((if_pos ⟨hp, hc⟩).trans (Block.whenWorks_of h _))

end

/-! ## A packet that arrives (R74, R79) -/

section
variable {port : Nat} {p : FabPkt} {b : Block}

theorem Fif.headOk_iff : Fif.headOk p = true ↔ p.hchk = Crc.crc16 p.head := beq_iff_eq

/-- A port that is up takes a packet of a corrupted header, and a sound one against its credits. -/
theorem Block.linkTakes_of (hp : port < 32) (hup : b.portUp port = true)
    (hc : Fif.headOk p = true → Fif.flits p.payload.length ≤ b.rxCredOf port p.cls.toNat) : b.linkTakes port p = true := by
  unfold Block.linkTakes
  rw [hup, decide_eq_true hp]
  cases hh : Fif.headOk p with
  | false => rfl
  | true => simpa using hc hh

/-- A packet that the link takes, while the device is not LOCKED, and that fails one of checks 1 to 5 is counted and dropped. -/
theorem Fif.packetRx_fault (ht : b.linkTakes port p = true) (hl : (Fif.arrive port p b).locked = false) {r : Nat}
    (hf : (Fif.arrive port p b).rxFault port p = some r) : Fif.packetRx port p b = (Fif.arrive port p b).bump r := by
  unfold Fif.packetRx
  simp only [ht, hl, hf, Bool.not_true, Bool.false_eq_true, if_false]

/-- Check 1 comes first. -/
theorem Block.rxFault_head (h : p.hchk ≠ Crc.crc16 p.head) : b.rxFault port p = some (R.fifPHdrErr port) := by
  have hh : Fif.headOk p = false := Bool.eq_false_iff.2 (mt Fif.headOk_iff.1 h)
  unfold Block.rxFault
  rw [hh]
  rfl

/-- The packet is of a VALID rank, which is not being reset, of an OPEN job. -/
theorem Block.jobOfPkt_of {job fpa dg : Nat} (hj : b.jobOfFab p.job.toNat = some job)
    (he : b.rankEntry job p.srcRank.toNat = some (fpa, dg)) (hr : fpa ∉ b.fif.resets) : b.jobOfPkt p = some job := by
  unfold Block.jobOfPkt
  rw [hj]
  simp [he, hr]

/-- What checks 1 to 4 ask of a packet of a job's stream. -/
structure Fif.Sound (p : FabPkt) : Prop where
  head : p.hchk = Crc.crc16 p.head
  pay : p.pcheck = Crc.crc32c p.payload
  poison : p.poison = false
  ver : p.ver = 1#2
  rsvd1 : p.rsvd1 = 0#3
  rsvd3 : p.rsvd3 = 0#6
  mcast : p.mcast = false
  len : Fif.lenOk p = some true
  stream : Fif.isMgmt p.opcode.toNat = false

/-- A sound packet of an OPEN job passes checks 1 to 5. -/
theorem Fif.Sound.no_fault (h : Fif.Sound p) {job : Nat} (hj : b.jobOfPkt p = some job) : b.rxFault port p = none := by
  unfold Block.rxFault
  simp [Fif.headOk_iff.2 h.head, h.pay, h.poison, h.ver, h.rsvd1, h.rsvd3, h.mcast, h.len, hj]

/-- A sound packet within its stream's window, which the stream does not hold yet, is held and what is due is delivered (R85). -/
theorem Fif.packetRx_sound (ht : b.linkTakes port p = true) {c : Block} (hc : Fif.arrive port p b = c) (hl : c.locked = false)
    (h : Fif.Sound p) {job : Nat} (hj : c.jobOfPkt p = some job) {key : Nat} (hk : key = Fif.rxKey job p.srcRank.toNat p.cls.toNat)
    (hwin : (p.spraySeq.toNat + 2 ^ 32 - (c.rxStream key).e) % 2 ^ 32 < 4096) (hnew : ∀ x ∈ (c.rxStream key).held, x.1 ≠ p.spraySeq.toNat) :
    Fif.packetRx port p b = c.deliver key { c.rxStream key with
      held := (c.rxStream key).held ++ [(p.spraySeq.toNat, c.now, Fif.withJob p job)] } := by
  have hfree : ((c.rxStream key).held.any fun x => x.1 == p.spraySeq.toNat) = false :=
    List.any_eq_false.2 fun x hx => by simpa using hnew x hx
  subst hk
  unfold Fif.packetRx
  simp only [ht, hc, hl, h.no_fault hj, h.stream, hj, Option.getD_some, hfree, decide_eq_false (Nat.not_le.2 hwin), Bool.not_true,
    Bool.or_self, Bool.false_eq_true, if_false]

end

/-! ## A stream with a hole (R86, R87) -/

/-- A stream that holds the packet it expects delivers it. -/
theorem RxStream.drain_expected (e : Nat) (t : Time) (p : FabPkt) :
    RxStream.drain 1 ⟨e, [(e, t, p)]⟩ = ([p], ⟨(e + 1) % 2 ^ 32, []⟩) := by
  simp [RxStream.drain]

/-- Nothing is skipped while the stream holds nothing. -/
theorem RxStream.skip_empty (now gap : Time) (coming : Nat → Bool) (k e : Nat) :
    RxStream.skip now gap coming k ⟨e, []⟩ = (⟨e, []⟩, 0, []) := by
  cases k <;> rfl

section
variable {now gap t0 : Time} {coming : Nat → Bool} {st : RxStream} {seq : Nat} {p : FabPkt} (hst : st.held = [(seq, t0, p)]) (k : Nat)
include hst

/-- The one packet held is the oldest. -/
theorem RxStream.oldest_one : st.oldest = some t0 := by
  unfold RxStream.oldest
  rw [hst]
  rfl

/-- Nothing is skipped before the gap time, or while the missing packet comes. -/
theorem RxStream.skip_waits (h : now < t0 + gap ∨ coming st.e = true) : RxStream.skip now gap coming (k + 1) st = (st, 0, []) := by
  have hw : (decide (now < t0 + gap) || coming st.e) = true := by simpa using h
  unfold RxStream.skip
  simp only [RxStream.oldest_one hst, hw, if_true]

/-- After the gap time the stream skips one missing packet and delivers the one behind it. -/
theorem RxStream.skip_one (hseq : seq = (st.e + 1) % 2 ^ 32) (hgap : t0 + gap ≤ now) (hc : coming st.e = false) :
    RxStream.skip now gap coming (k + 1) st = (⟨(seq + 1) % 2 ^ 32, []⟩, 1, [p]) := by
  have hw : (decide (now < t0 + gap) || coming st.e) = false := by simp [hgap, hc]
  unfold RxStream.skip
  simp only [RxStream.oldest_one hst, hw, hst, ← hseq, List.length_singleton, RxStream.drain_expected, RxStream.skip_empty,
    Bool.false_eq_true, if_false, List.append_nil]

end

/-! ## The statement -/

/-- Settles O27: what arrives is judged in the order of the checks, and a stream that holds one packet skips once or waits. -/
theorem fabricReceive : Obligations.FabricReceive := by
  unfold Obligations.FabricReceive
  refine ⟨?rx, ?gap, ?credit, ?tx, ?quarantine⟩
  case rx =>
    intro t port p s b c hp hw hup hlock
    rw [exec_fabricPacketRx hw]
    refine ⟨fun hbad => ?_, ?_⟩
    · have ht : b.linkTakes port p = true := Block.linkTakes_of hp hup fun hh => absurd (Fif.headOk_iff.1 hh) hbad
      rw [Fif.packetRx_fault ht hlock (Block.rxFault_head hbad)]
    · intro job fpa dg hcred hhead hpay hpo hver hr1 hr3 hmc hlen hmg hj he hres key st hwin hnew
      rw [Fif.packetRx_sound (Block.linkTakes_of hp hup fun _ => hcred) rfl hlock ⟨hhead, hpay, hpo, hver, hr1, hr3, hmc, hlen, hmg⟩
        (Block.jobOfPkt_of hj he hres) rfl hwin hnew]
      rfl
  case gap =>
    intro t key seq t0 p s b st gap hw hst hseq
    rw [exec_gapTimerExpiry hw, Fif.gapExpiry]
    dsimp only
    refine ⟨fun hdue hno => ?_, fun hwait => ?_⟩
    · rw [RxStream.skip_one hst 4095 hseq hdue hno]
      rfl
    · rw [RxStream.skip_waits hst 4095 hwait]
      rfl
  case credit =>
    intro t p cls n s b hp hc hw
    rw [exec_fabricCreditReturn hw hp hc, Fif.creditReturn, Nat.mod_eq_of_lt hp, Nat.mod_eq_of_lt hc]
  case tx =>
    intro t sel p spray x s b hw hx hport
    rw [exec_fabricPacketTx hw, Fif.packetTx, hx]
    dsimp only
    rw [hport]
  case quarantine =>
    intro t tag until_ use s b hw hq
    rw [exec_tagQuarantineEnd hw, Fif.quarantineEnd, hq]
    refine ⟨fun hdue => ?_, fun hearly => ?_⟩
    · exact congrArg (After s) (if_pos hdue)
    · exact congrArg (After s) (if_neg (Nat.not_le.2 hearly))

end Sys2Proof.Machine
end

section
/-! SUPPORT. The ports of the fabric (R73, R427), the notices of a reset (R97, R100) and the time messages (R410). -/

namespace Sys2Proof.Machine

/-! ## The commands -/

section
variable {t : Time} {s : State} (h : (s.blk.tick t).works 26 = true)
include h

theorem exec_fabricLaneLoss (p : Nat) : exec (.fabricLaneLoss t p) s = After s (Fif.laneLoss p (s.blk.tick t)) := after_fif h _
theorem exec_fabricPortUp (p : Nat) : exec (.fabricPortUp t p) s = After s (Fif.portUpEv p (s.blk.tick t)) := after_fif h _
theorem exec_resetNoticeRx (sel : Nat) :
    exec (.resetNoticeRx t sel) s = After s (Fif.resetNotice sel (s.fencesAt t) (s.blk.tick t)) := after_fif h _
theorem exec_resetDoneRx (sel : Nat) : exec (.resetDoneRx t sel) s = After s (Fif.resetDone sel (s.blk.tick t)) := after_fif h _

/-- A time message needs the TU as well. -/
theorem exec_timeMsgSend (htu : (s.blk.tick t).works 36 = true) : exec (.timeMsgSend t) s = After s (Tu.timeMsg (s.blk.tick t)) :=
  (after_fif h _).trans (congrArg (After s) (Block.whenWorks_of htu _))

end

/-! ## What they do -/

section
variable {b : Block}

/-- An enabled port comes up exactly when its reference runs. -/
theorem Fif.portUpEv_enabled {p : Nat} (hp : p < 32) (hm : b.funcMode (0x100 + p) = 1) :
    Fif.portUpEv p b = if p / 8 + 1 ∈ b.pcr.lost then b else b.putBit R.fifPortUp p true := by
  unfold Fif.portUpEv
  by_cases hl : p / 8 + 1 ∈ b.pcr.lost
  · rw [if_pos hl, if_neg fun hc => by simp [hl] at hc]
  · rw [if_neg hl, if_pos ⟨hp, hm, by simpa using hl⟩]

section
variable {sel : Nat} {p : FabPkt} (hp : b.fif.mgmt[sel]? = some p)
include hp

/-- A RESET_NOTICE acts on the address that it carries. -/
theorem Fif.resetNotice_of (ho : p.opcode = 0x52#8) (fenced : List Nat) :
    Fif.resetNotice sel fenced b = Fif.notice sel (Bits.ofLe (p.payload.take 2)) fenced b := by
  unfold Fif.resetNotice
  rw [hp]
  exact if_neg (not_not.2 ho)

/-- A RESET_DONE ends the reset of the address that it carries. -/
theorem Fif.resetDone_of (ho : p.opcode = 0x53#8) : Fif.resetDone sel b =
    (b.dropMgmt sel).onFif fun f => { f with resets := f.resets.filter fun a => a != Bits.ofLe (p.payload.take 2) } := by
  unfold Fif.resetDone
  rw [hp]
  exact if_neg (not_not.2 ho)

end

end

/-- Settles O28: each event takes effect as its port's state, its packet's opcode and the clock say. -/
theorem fabricPorts : Obligations.FabricPorts := by
  unfold Obligations.FabricPorts
  refine ⟨?laneLoss, ?portUp, ?notice, ?done, ?timeMsg⟩
  case laneLoss =>
    intro t p s b hp hw
    rw [exec_fabricLaneLoss hw, Fif.laneLoss, if_pos hp]
    rfl
  case portUp =>
    intro t p s b hp hw hm
    rw [exec_fabricPortUp hw, Fif.portUpEv_enabled hp hm]
    refine ⟨fun hruns => ?_, fun hlost => ?_⟩
    · rw [if_neg hruns]
    · rw [if_pos hlost]
  case notice =>
    intro t sel p s b hw hp ho fpa hit c
    rw [exec_resetNoticeRx hw, Fif.resetNotice_of hp ho]
    rfl
  case done =>
    intro t sel p s b hw hp ho
    rw [exec_resetDoneRx hw, Fif.resetDone_of hp ho]
    rfl
  case timeMsg =>
    intro t s b hw htu
    rw [exec_timeMsgSend hw htu]
    refine ⟨fun hdue hl => ?_, fun hearly => ?_⟩
    · have hgo : ¬(b.now < b.tu.msgAt ∨ b.locked = true) := by simp [hdue, hl]
      exact congrArg (After s) (if_neg hgo)
    · exact congrArg (After s) (if_pos (.inl hearly))

end Sys2Proof.Machine
end

section
/-! SUPPORT. Requests from the fabric (R76, R107, R108, R117), and the tags of the requests that the DX-64 issues (R82, R90 to R93, R96). -/

namespace Sys2Proof.Machine

/-! ## The commands -/

section
variable {t : Time} {s : State} (h : (s.blk.tick t).worksBm 27 = true)
include h

theorem exec_fabricRequestRx (sel : Nat) : exec (.fabricRequestRx t sel) s = After s (Fwu.requestRx sel (s.blk.tick t)) := after_fwu h _
theorem exec_fabricRequestUnblock (sel : Nat) : exec (.fabricRequestUnblock t sel) s = After s (Fwu.unblock sel (s.blk.tick t)) := after_fwu h _
theorem exec_fabricFenceAck (k : Nat) : exec (.fabricFenceAck t k) s = After s (Fwu.fenceAck k (s.blk.tick t)) := after_fwu h _

end

section
variable {t : Time} {s : State} (h : (s.blk.tick t).works 26 = true)
include h

theorem exec_fabricResponseRx (sel : Nat) : exec (.fabricResponseRx t sel) s = After s (Fwu.fabResponse sel (s.blk.tick t)) := after_fif h _
theorem exec_fabricRequestTimeout : exec (.fabricRequestTimeout t) s = After s (Fwu.fabTimeout (s.blk.tick t)) := after_fif h _
theorem exec_fabricRequestIssue : exec (.fabricRequestIssue t) s = After s (Fif.requestIssue (s.blk.tick t)) := after_fif h _

/-- The packets of a result need the CE as well. -/
theorem exec_mcastResultInject (hce : (s.blk.tick t).worksBm 28 = true) (key tile : Nat) :
    exec (.mcastResultInject t key tile) s = After s (Ce.inject key tile (s.blk.tick t)) :=
  (after_fif h _).trans (congrArg (After s) (Block.whenBufs_of hce _))

end

/-! ## Requests -/

section
variable {b : Block} {sel : Nat} {p : FabPkt} (hp : b.pickGot sel Fwu.isReq = some p)
include hp

/-- The FWU takes a request that no earlier one holds back, unless strict mode has stopped it for the job. -/
theorem Fwu.requestRx_taken (hh : b.fenceHeld sel p = false) (hs : b.engStopped p.job.toNat 2 = false) :
    Fwu.requestRx sel b = (b.dropGot sel).request p := by
  unfold Fwu.requestRx
  simp only [hp, hh, hs, Bool.or_self, Bool.false_eq_true, if_false]

theorem Fwu.requestRx_stopped (hs : b.engStopped p.job.toNat 2 = true) : Fwu.requestRx sel b = b := by
  unfold Fwu.requestRx
  simp only [hp, hs, Bool.or_true, if_true]

end

section
variable {b : Block} {p : FabPkt}

theorem Block.request_misaligned (h : Fwu.misaligned p = true) : b.request p = b.nack p St.badParam := if_pos h

/-- A request outside every window is counted and refused. -/
theorem Block.request_outside (ha : Fwu.misaligned p = false) (hw : b.importAt p.job.toNat p.addr.toNat = none) :
    b.request p = (b.bump R.fwuNackCnt).nack p St.badParam := by
  unfold Block.request
  rw [if_neg (Bool.eq_false_iff.1 ha), hw]

variable {w : Nat} {x : Win} (ha : Fwu.misaligned p = false) (hw : b.importAt p.job.toNat p.addr.toNat = some (w, x))
include ha hw

/-- A request that the check of its window refuses is counted with the window and with the FWU. -/
theorem Block.request_refused {st : Nat} (hc : b.winCheck x p.addr.toNat (Fwu.span p) (Fwu.right p) = some st) :
    b.request p = ((b.onFwu fun f => { f with
      wins := AMap.adjust f.wins w fun x => { x with nacks := x.nacks + 1 } }).bump R.fwuNackCnt).nack p st := by
  unfold Block.request
  rw [if_neg (Bool.eq_false_iff.1 ha), hw]
  dsimp only
  rw [hc]

/-- A request that its window allows takes a context, or waits in the Eddy buffer. -/
theorem Block.request_allowed (hc : b.winCheck x p.addr.toNat (Fwu.span p) (Fwu.right p) = none) :
    b.request p = (b.accept p w x).getD (b.onFif fun f => { f with blocked := f.blocked ++ [p] }) := by
  unfold Block.request
  rw [if_neg (Bool.eq_false_iff.1 ha), hw]
  dsimp only
  rw [hc]
  cases b.accept p w x <;> rfl

end

/-- The oldest request that waits, once a context may be had, comes again as a new one does. -/
theorem Fwu.unblock_first {b : Block} {p : FabPkt} {rest : List FabPkt} {w : Nat} {x : Win} (hb : b.fif.blocked = p :: rest)
    (hs : b.engStopped p.job.toNat 2 = false) (hw : b.importAt p.job.toNat p.addr.toNat = some (w, x))
    (hc : b.winCheck x p.addr.toNat (Fwu.span p) (Fwu.right p) = none)
    (ha : ((b.onFif fun f => { f with blocked := rest }).accept p w x).isSome = true) :
    Fwu.unblock 0 b = (b.onFif fun f => { f with blocked := rest }).request p := by
  have hrest : (b.onFif fun f => { f with blocked := Bits.removeAt f.blocked 0 }) = b.onFif fun f => { f with blocked := rest } := by
    unfold Block.onFif
    dsimp only
    rw [hb]
    rfl
  obtain ⟨c, hacc⟩ := Option.isSome_iff_exists.1 ha
  unfold Fwu.unblock
  simp only [hb, hs, hw, hrest, hc, hacc, List.getElem?_cons_zero, List.take_zero, List.any_nil, Bool.or_self, Bool.false_eq_true, if_false]

/-- A fence of the fabric whose operations and FFENCEs have all ended is answered with FENCE_ACK, or NACK with its failing status. -/
theorem Fwu.fenceAck_ended {b : Block} {k : Nat} {f : Fence} (hk : AMap.get? b.fwu.fences k = some f) (hcmd : f.cmd = none)
    (hcov : f.covers = []) (hneed : f.need = []) :
    let c := b.onFwu fun y => { y with fences := AMap.erase y.fences k }
    Fwu.fenceAck k b = if f.status = 0 then c.fabReply f.job f.rank f.fcls 0x07 f.fgen f.tag f.addr []
      else c.fabReply f.job f.rank f.fcls 0x30 f.fgen f.tag f.addr (Bits.leBytes 2 f.status) := by
  have hended : (f.cmd.isSome || !f.covers.isEmpty || !f.need.isEmpty) = false := by rw [hcmd, hcov, hneed]; rfl
  unfold Fwu.fenceAck
  rw [hk]
  exact if_neg (Bool.eq_false_iff.1 hended)

/-! ## Tags -/

section
variable {b : Block} {sel : Nat} {p : FabPkt} (hp : b.pickGot sel Fif.isResp = some p)
include hp

theorem Fwu.fabResponse_late (hm : (b.dropGot sel).matchTag p = none) : Fwu.fabResponse sel b = (b.dropGot sel).fabLate p := by
  unfold Fwu.fabResponse
  rw [hp]
  dsimp only
  rw [hm]

/-- A response that matches frees its tag and answers what the tag served: a NACK (0x30) with the status it carries. -/
theorem Fwu.fabResponse_matches {tag : Nat} {g : Tag} (hm : (b.dropGot sel).matchTag p = some (tag, g)) : Fwu.fabResponse sel b =
    ((b.dropGot sel).freeTag tag).tagAnswer g.use (if p.opcode = 0x30#8 then Bits.ofLe p.payload else 0)
      (if p.opcode = 0x30#8 then [] else p.payload) := by
  unfold Fwu.fabResponse
  rw [hp]
  dsimp only
  rw [hm]

end

/-- The oldest request that waits for a tag is issued once one is free, unless its rank is gone. -/
theorem Fif.requestIssue_first {b : Block} {w : TagWait} {ws : List TagWait} (hw : b.fif.tagWait = w :: ws) (hf : b.tagFree ≠ 0) :
    let c := b.onFif fun f => { f with tagWait := ws }
    Fif.requestIssue b = (c.issue w).getD (c.tagAnswer w.use w.use.gone []) := by
  unfold Fif.requestIssue
  rw [hw]
  exact if_neg hf

/-- The packets that a tile's result holds go out in their order. -/
theorem Ce.inject_tile {b : Block} {key tile : Nat} {c : Coll} {x : TileCtx} (hc : b.coll key = some c) (hx : AMap.get? c.tiles tile = some x) :
    Ce.inject key tile b = (x.mc.foldl (fun b e => b.mcSend c.job c.mask (c.cls (c.treeNo tile)) 0x21 (c.addr tile e.1) e.2
      (e.1 + 1 == x.mc.length) (some (key, tile))) b).modTile key tile fun x => { x with mc := [] } := by
  unfold Ce.inject
  simp only [hc, hx, Option.bind_some, Option.map_some]

/-! ## The statement -/

/-- Settles O29: a request takes the way that its address and its window choose, and a tag ends by its answer, its limit or its issue. -/
theorem fabricRequestsAndTags : Obligations.FabricRequestsAndTags := by
  unfold Obligations.FabricRequestsAndTags
  refine ⟨⟨?request, ?stopped, ?unblock, ?fence⟩, ?response, ?timeout, ?issue, ?inject⟩
  case request =>
    intro t sel p s b c hw hp hh hs
    rw [exec_fabricRequestRx hw, Fwu.requestRx_taken hp hh hs]
    refine ⟨fun ha => ?_, fun ha hno => ?_, ?_⟩
    · rw [Block.request_misaligned ha]
    · rw [Block.request_outside ha hno]
    · intro w x ha hwin check
      refine ⟨fun st hc => ?_, fun c' hc hacc => ?_, fun hc hacc => ?_⟩
      · rw [Block.request_refused ha hwin hc]
      · rw [Block.request_allowed ha hwin hc, hacc, Option.getD_some]
      · rw [Block.request_allowed ha hwin hc, hacc, Option.getD_none]
  case stopped =>
    intro t sel p s b hw hp hs
    rw [exec_fabricRequestRx hw, Fwu.requestRx_stopped hp hs]
  case unblock =>
    intro t w x p rest s b c hw hb hs hwin hc hacc
    rw [exec_fabricRequestUnblock hw, Fwu.unblock_first hb hs hwin hc hacc]
  case fence =>
    intro t k f s b c hw hk hcmd hcov hneed
    rw [exec_fabricFenceAck hw, Fwu.fenceAck_ended hk hcmd hcov hneed]
    refine ⟨fun hok => ?_, fun hbad => ?_⟩
    · rw [if_pos hok]
    · rw [if_neg hbad]
  case response =>
    intro t sel p s b c hw hp
    rw [exec_fabricResponseRx hw]
    refine ⟨fun hm => ?_, fun tag g hm => ?_⟩
    · rw [Fwu.fabResponse_late hp hm]
    · rw [Fwu.fabResponse_matches hp hm]
      refine ⟨fun hok => ?_, fun hnack => ?_⟩
      · rw [if_neg hok, if_neg hok]
      · rw [if_pos hnack, if_pos hnack]
  case timeout =>
    intro t tag g s b hw hdue
    rw [exec_fabricRequestTimeout hw, Fwu.fabTimeout, hdue]
    rfl
  case issue =>
    intro t w ws s b c hw hwait hfree
    rw [exec_fabricRequestIssue hw, Fif.requestIssue_first hwait hfree]
    refine ⟨fun c' hissue => ?_, fun hgone => ?_⟩
    · rw [hissue, Option.getD_some]
    · rw [hgone, Option.getD_none]
  case inject =>
    intro t key tile c x s b hw hce hc hx
    rw [exec_mcastResultInject hw hce, Ce.inject_tile hc hx]

end Sys2Proof.Machine
end

section
/-! SUPPORT. The rank tables (R80) and the multicast mask table (R94). -/

namespace Sys2Proof.Machine

/-! ## The commands -/

section
variable {r : Req} {t : Time} {s : State} {b : Block} {id : Nat}

theorem exec_jobRanks (h : Starts 0x0202 r t s b id) : exec (.jobRanks t r) s = After s (Job.ranks id r b) := cmd_runs h _
theorem exec_mcastSet (h : Starts 0x0209 r t s b id) : exec (.mcastSet t r) s = After s (Job.mcastSet id r b) := cmd_runs h _

end

section
variable {t : Time} {s : State} (h : (s.blk.tick t).works 26 = true)
include h

theorem exec_mcastUpdateAckRx (sel : Nat) : exec (.mcastUpdateAckRx t sel) s = After s (Fif.mcastAck sel (s.blk.tick t)) := after_fif h _
theorem exec_mcastSetTimeout (idx : Nat) : exec (.mcastSetTimeout t idx) s = After s (Fif.mcastTimeout idx (s.blk.tick t)) := after_fif h _

end

/-! ## JOB_RANKS -/

/-- The VALID ranks from `first` on are reset with REQUESTER_GONE and leave the rank table of a job. -/
def Block.resetRanks (job first count : Nat) (b : Block) : Block :=
  let named (rank : Nat) : Bool := first ≤ rank && rank < first + count
  ((((b.rankTab job).map (·.entries)).getD []).filter fun e => named e.1).foldl (fun d e => d.rankReset St.requesterGone job e.1) b |>.onFif
    fun f => { f with ranks := AMap.adjust f.ranks job fun x => { x with entries := x.entries.filter fun (e : Nat × (Nat × Nat)) => !named e.1 } }

/-- JOB_RANKS with a sound descriptor of a fitting length, for which frames may be had: OP 0 loads, and any other resets. -/
theorem Job.ranks_sound {r : Req} {t : Time} {s : State} {b c b' : Block} {id : Nat} (h : Starts 0x0202 r t s b id)
    (ha : r.a0 % 64 = 0) (hin : r.a0 + r.a1 ≤ 0x6000000000) (hlen : 32 ≤ r.a1) (h28 : r.u 28 4 = 0) (h32 : r.u 32 32 = 0)
    (hc : b.readCount r.a0 r.a1 = c)
    (hfit : ¬(c.d r.a0 2 1 = 1 ∧ r.a1 ≠ 32 ∨ c.d r.a0 2 1 = 0 ∧ r.a1 < 32 + 4 * c.d r.a0 16 4))
    (hdesc : c.rankDescBad (c.cmdJob r) r.a0 = none) (hload : c.loadRanks (c.cmdJob r) r.a0 = some b') :
    Job.ranks id r b = if c.d r.a0 2 1 = 0 then b'.ok id (c.d r.a0 16 4)
      else (b'.resetRanks (c.cmdJob r) (c.d r.a0 12 4) (c.d r.a0 16 4)).ok id (c.d r.a0 16 4) := by
  unfold Job.ranks
  rw [Ci.check8_sound h (by simp [ha, hin, hlen, h28, h32]), hc]
  dsimp only
  rw [if_neg hfit, hdesc]
  dsimp only
  rw [hload]
  rfl

/-! ## MCAST_SET and its end -/

/-- An acknowledgement that matches its tag frees it and completes the MCAST_SET (R91, R94). -/
theorem Fif.mcastAck_matches {b : Block} {sel idx id : Nat} {p : FabPkt} {g : Tag} (hp : b.fif.mgmt[sel]? = some p) (ho : p.opcode = 0x51#8)
    (ht : AMap.get? b.fif.tags p.tag.toNat = some g) (hu : g.use = .mcast idx id) (hg : g.gen = p.gen.toNat) :
    Fif.mcastAck sel b = (((b.dropMgmt sel).freeTag p.tag.toNat).onFif fun f => { f with
      masks := AMap.adjust f.masks idx fun m => { m with cmds := m.cmds.filter fun e => e.1 != id } }).ok id 0 := by
  have ht' : AMap.get? (b.dropMgmt sel).fif.tags p.tag.toNat = some g := ht
  unfold Fif.mcastAck
  rw [hp]
  dsimp only
  rw [if_neg (not_not.2 ho), ht']
  dsimp only
  rw [hu]
  exact if_neg (not_not.2 hg)

/-- Of the one MCAST_SET in progress on an entry, the timeout comes at its deadline and not before. -/
theorem Fif.mcastTimeout_one {b : Block} {idx id d : Nat} {m : Mask} (hm : AMap.get? b.fif.masks idx = some m) (hc : m.cmds = [(id, d)]) :
    Fif.mcastTimeout idx b = if d ≤ b.now then (b.onFif fun f => { f with
      masks := AMap.adjust f.masks idx fun m => { m with valid := false } }).mcastEnd idx id St.timeout else b := by
  unfold Fif.mcastTimeout
  rw [hm, Option.map_some, Option.getD_some, hc]
  by_cases hd : d ≤ b.now
  · simp [hd]
  · simp [hd]

/-! ## The statement -/

/-- Settles O26: the packets pass check 8 and their descriptors are sound; what MCAST_SET has sent is answered or not in its time. -/
theorem rankAndMaskTables : Obligations.RankAndMaskTables := by
  unfold Obligations.RankAndMaskTables
  refine ⟨?load, ?reset, ?mcast, ?ack, ?timeout⟩
  case load =>
    intro t r s b b' id h ha hin h28 h32 c job hop hlen hdesc hload
    have hop' : c.d r.a0 2 1 = 0 := hop
    have hlen' : 32 + 4 * c.d r.a0 16 4 ≤ r.a1 := hlen
    rw [exec_jobRanks h, Job.ranks_sound (c := c) h ha hin (by omega) h28 h32 rfl (by omega) hdesc hload, if_pos hop']
    rfl
  case reset =>
    intro t r s b b' id h ha hin hlen h28 h32 c job first count named hop hdesc hload
    have hop' : c.d r.a0 2 1 = 1 := hop
    have hc : b.readCount r.a0 r.a1 = c := by rw [hlen]
    rw [exec_jobRanks h, Job.ranks_sound h ha (by omega) (by omega) h28 h32 hc (by omega) hdesc hload, if_neg (by omega)]
    rfl
  case mcast =>
    intro t r s b id h ha hin hlen hix h32 c hown huser
    have hother : ((AMap.get? c.fif.masks r.a2).any fun m => m.job != c.cmdJob r && (c.job m.job).state != 2) = false := by
      refine Bool.eq_false_iff.2 fun hany => ?_
      obtain ⟨m, hm, hne⟩ := (Option.any_eq_true _ _).1 hany
      obtain ⟨hjob, hstate⟩ := Bool.and_eq_true_iff.1 hne
      exact (hown m hm).elim (bne_iff_ne.1 hjob) (bne_iff_ne.1 hstate)
    rw [exec_mcastSet h]
    unfold Job.mcastSet
    dsimp only
    rw [Ci.check8_sound h (by simp [ha, hin, hlen, hix, h32]), if_neg (Bool.eq_false_iff.1 hother), huser]
  case ack =>
    intro t sel idx id p g s b hw hp ho ht hu hg
    rw [exec_mcastUpdateAckRx hw, Fif.mcastAck_matches hp ho ht hu hg]
    rfl
  case timeout =>
    intro t idx id d m s b hw hm hc
    rw [exec_mcastSetTimeout hw, Fif.mcastTimeout_one hm hc]
    refine ⟨fun hdue => ?_, fun hearly => ?_⟩
    · rw [if_pos hdue]
    · rw [if_neg (Nat.not_le.2 hearly)]

end Sys2Proof.Machine
end

section
/-! SUPPORT. What the originating gateway does with its far operations (R110, R113, R116, R121, R123, R125 to R127, R130): it sends their
requests, takes the responses, and ends those whose deadline has passed. -/

namespace Sys2Proof.Machine

/-! ## The commands -/

section
variable {t : Time} {s : State} (h : (s.blk.tick t).worksBm 27 = true)
include h

theorem exec_farRequestSend (i : Nat) : exec (.farRequestSend t i) s = After s (Fwu.requestSend i (s.blk.tick t)) := after_fwu h _
theorem exec_farResponseRx (sel : Nat) : exec (.farResponseRx t sel) s = After s (Fwu.responseRx sel (s.blk.tick t)) := after_fwu h _
theorem exec_bulkProgressRx (sel : Nat) : exec (.bulkProgressRx t sel) s = After s (Fwu.progressRx sel (s.blk.tick t)) := after_fwu h _
theorem exec_farDeadlineExpiry : exec (.farDeadlineExpiry t) s = After s (Fwu.deadlines (s.blk.tick t)) := after_fwu h _
theorem exec_farQuarantineEnd (i : Nat) : exec (.farQuarantineEnd t i) s = After s (Fwu.quarEnd i (s.blk.tick t)) := after_fwu h _

end

/-! ## Requests and their ends (R110, R113, R125 to R127) -/

section
variable {b : Block} {i : Nat}

/-- At its turn an operation that is no bulk copy sends its request; what it held for it passes on. -/
theorem Fwu.requestSend_turn {c : OpCtx} (hc : AMap.get? b.fwu.ctxs i = some c) (hb : c.bulk = none) (ht : b.issueTurn = some i) :
    let d := b.farSend i c 0 c.fop c.seq c.off c.msgLen c.data
    Fwu.requestSend i b = d.onFwu fun f => { f with
      turn := i + 1, ctxs := AMap.adjust f.ctxs i fun c => { c with sent := some d.now, buf := none } } := by
  have hgo : (c.bulk.isSome || b.issueTurn != some i) = false := by rw [hb, ht, bne_self_eq_false]; rfl
  unfold Fwu.requestSend
  rw [hc]
  exact if_neg (Bool.eq_false_iff.1 hgo)

/-- The one operation whose deadline has passed ends LINK_DOWN when its peer has no path, and otherwise TIMEOUT, which is counted. -/
theorem Fwu.deadlines_one {c : OpCtx} (hdue : (b.fwu.ctxs.filter fun e => decide (e.2.deadline ≤ b.now) && e.2.early.isEmpty) = [(i, c)]) :
    Fwu.deadlines b = if c.peer ∈ b.noPath then (b.ctxReply c St.linkDown []).ctxEnd i St.linkDown true
      else ((b.bump R.fwuTimeoutCnt).ctxReply c St.timeout []).ctxEnd i St.timeout true := by
  unfold Fwu.deadlines
  rw [hdue]
  by_cases hp : c.peer ∈ b.noPath
  · have hcontains : b.noPath.contains c.peer = true := List.contains_iff_mem.2 hp
    have hne : St.linkDown ≠ St.timeout := by decide
    simp only [List.foldl_cons, List.foldl_nil, hcontains, if_true, if_neg hne, if_pos hp]
  · have hcontains : ¬b.noPath.contains c.peer = true := fun h => hp (List.contains_iff_mem.1 h)
    simp only [List.foldl_cons, List.foldl_nil, if_neg hcontains, if_true, if_neg hp]

/-- The quarantine of a context ends at its time. -/
theorem Fwu.quarEnd_of {until_ : Time} {x : Option Nat} (hq : AMap.get? b.fwu.quar i = some (until_, x)) :
    Fwu.quarEnd i b = if until_ ≤ b.now then b.onFwu fun f => { f with quar := AMap.erase f.quar i } else b := by
  unfold Fwu.quarEnd
  rw [hq]

end

/-! ## Responses (R116, R121, R126, R130, R370) -/

section
variable {b : Block} {sel : Nat} {x : InMsg} {m : FarMsg}

section
variable (hm : x.msg = .far m)
include hm

/-- A response that belongs to no bulk copy and whose turn it is reaches the FWU. -/
theorem Fwu.responseRx_takes (hx : b.pickIn sel InMsg.farResp = some x) : Fwu.responseRx sel b = b.farTake sel x m := by
  unfold Fwu.responseRx
  simp only [hx, hm]

/-- So does a progress report of a bulk copy. -/
theorem Fwu.progressRx_takes (hx : b.pickIn sel InMsg.progress = some x) : Fwu.progressRx sel b = b.farTake sel x m := by
  unfold Fwu.progressRx
  simp only [hx, hm]

end

/-- A response that matches no context is late. -/
theorem Block.farTake_late (hc : b.farCtx m = none) : b.farTake sel x m = (b.dropIn sel).farLate m := by
  unfold Block.farTake
  rw [hc]

variable {i : Nat} {c : OpCtx} (hc : b.farCtx m = some (i, c))
include hc

/-- While no response is held, one for a context on chip answers it, or fails it when its data is poison. -/
theorem Block.farTake_onChip (hp : c.paged = false) (hh : b.fwu.heldOrder = []) : b.farTake sel x m =
    if (x.buf.any fun e => b.bufPoison e.1) = true then (b.dropIn sel).ctxPoison i c else (b.dropIn sel).farAnswer i c m := by
  unfold Block.farTake
  simp only [hc, hp, hh, Bool.not_false, List.isEmpty_nil, Bool.not_true, Bool.false_eq_true, if_true, if_false]

/-- A response for a context on chip stays behind those that are held. -/
theorem Block.farTake_behind (hp : c.paged = false) (hh : b.fwu.heldOrder ≠ []) : b.farTake sel x m = b := by
  have hheld : (!b.fwu.heldOrder.isEmpty) = true := by simpa using hh
  unfold Block.farTake
  simp only [hc, hp, hheld, Bool.not_false, if_true]

/-- A response for a context in memory is held in a buffer of the reserved paging pool, and stays where it is when none may be had. -/
theorem Block.farTake_paged (hp : c.paged = true) : b.farTake sel x m =
    ((b.takeRes 2 (max 1 m.data.length) (Own.of c.job 2)).map fun r => (r.1.dropIn sel).onFwu fun f => { f with
      ctxs := AMap.adjust f.ctxs i fun c => { c with early := c.early ++ [(m, r.2)] }
      heldOrder := f.heldOrder ++ [i] }).getD b := by
  unfold Block.farTake
  simp only [hc, hp, Bool.not_true, Bool.false_eq_true, if_false]
  cases b.takeRes 2 (max 1 m.data.length) (Own.of c.job 2) <;> rfl

end

/-! ## The statement -/

/-- Settles O31: each command leaves what its effect leaves, and the context, where it stands and the clock choose what that is. -/
theorem farOperations : Obligations.FarOperations := by
  unfold Obligations.FarOperations
  refine ⟨?send, ?response, ?deadline, ?quarantine⟩
  case send =>
    intro t i c s b d hw hc _ hb _ _ hturn
    rw [exec_farRequestSend hw, Fwu.requestSend_turn hc hb hturn]
  case response =>
    intro t sel x m s b leaves hw hm
    have takes {d : Block} (hd : b.farTake sel x m = d) : leaves d :=
      ⟨fun hx => by rw [exec_farResponseRx hw, Fwu.responseRx_takes hm hx, hd],
        fun hx => by rw [exec_bulkProgressRx hw, Fwu.progressRx_takes hm hx, hd]⟩
    refine ⟨fun hno => takes (Block.farTake_late hno), fun i c hc => ⟨fun hp hh hgood => ?_, fun hp hh hpoison => ?_, fun hp hh => ?_,
      fun hp hfull => ?_, fun b' h hp hbuf => ?_⟩⟩
    · exact takes ((Block.farTake_onChip hc hp hh).trans (if_neg (Bool.eq_false_iff.1 hgood)))
    · exact takes ((Block.farTake_onChip hc hp hh).trans (if_pos hpoison))
    · exact takes (Block.farTake_behind hc hp hh)
    · exact takes (by rw [Block.farTake_paged hc hp, hfull]; rfl)
    · exact takes (by rw [Block.farTake_paged hc hp, hbuf]; rfl)
  case deadline =>
    intro t i c s b hw hdue
    rw [exec_farDeadlineExpiry hw, Fwu.deadlines_one hdue]
    exact ⟨fun hpath => by rw [if_neg hpath], fun hpath => by rw [if_pos hpath]⟩
  case quarantine =>
    intro t i until_ x s b hw hq
    rw [exec_farQuarantineEnd hw, Fwu.quarEnd_of hq]
    exact ⟨fun hdue => by rw [if_pos hdue], fun hearly => by rw [if_neg (Nat.not_le.2 hearly)]⟩

end Sys2Proof.Machine
end

section
/-! SUPPORT. Operation contexts in memory (R121), and the chunks of bulk copies (R123, R129, R130). -/

namespace Sys2Proof.Machine

/-! ## The commands -/

section
variable {t : Time} {s : State} (h : (s.blk.tick t).worksBm 27 = true)
include h

theorem exec_opContextPageOut : exec (.opContextPageOut t) s = After s (Fwu.pageOut (s.blk.tick t)) := after_fwu h _
theorem exec_opContextPageIn (i : Nat) : exec (.opContextPageIn t i) s = After s (Fwu.pageIn i (s.blk.tick t)) := after_fwu h _
theorem exec_bulkChunkSend (i : Nat) : exec (.bulkChunkSend t i) s = After s (Fwu.chunkSend i (s.blk.tick t)) := after_fwu h _

end

/-! ## Contexts in memory (R121) -/

/-- A context is on chip again. -/
def Block.ctxOnChip (i : Nat) (c : OpCtx) (b : Block) : Block := b.onFwu fun f => { f with ctxs := AMap.set f.ctxs i { c with paged := false } }

section
variable {b : Block} {i : Nat} {c : OpCtx}

/-- A context in memory for which responses are held comes back, and what is held is answered; it fails when its slot is poison. -/
theorem Fwu.pageIn_held (hc : AMap.get? b.fwu.ctxs i = some c) (he : c.early ≠ []) (hp : c.paged = true) :
    let d := b.bump64 R.fwuPageinLo 1
    Fwu.pageIn i b = if d.rangePoison (Fwu.home i) 256 = true then (d.readCount (Fwu.home i) 256).ctxPoison i c
      else (d.ctxOnChip i c).heldAnswer d.fwu.heldOrder.length := by
  have hheld : (!c.paged || c.early.isEmpty) = false := by simpa [hp] using he
  unfold Fwu.pageIn
  rw [hc]
  exact if_neg (Bool.eq_false_iff.1 hheld)

/-- The only response held is answered when its context is on chip. -/
theorem Block.heldAnswer_one {m : FarMsg} {h : Nat} (ho : b.fwu.heldOrder = [i]) (hc : AMap.get? b.fwu.ctxs i = some c)
    (hp : c.paged = false) (he : c.early = [(m, h)]) :
    b.heldAnswer 1 = (((b.onFwu fun f => { f with heldOrder := [] }).onFwu fun f => { f with
      ctxs := AMap.set f.ctxs i { c with early := [] } }).dropOwner h (Own.of c.job 2)).farMatch m := by
  unfold Block.heldAnswer
  simp only [ho, hc, hp, he, Bool.false_eq_true, if_false]
  rfl

/-- While the context of the first response held is in memory, nothing that is held is answered. -/
theorem Block.heldAnswer_waits {rest : List Nat} (n : Nat) (ho : b.fwu.heldOrder = i :: rest) (hc : AMap.get? b.fwu.ctxs i = some c)
    (hp : c.paged = true) : b.heldAnswer (n + 1) = b := by
  unfold Block.heldAnswer
  simp only [ho, hc, hp, if_true]

/-- A context that comes back with the only response held is answered with it. -/
theorem Block.heldAnswer_onChip {m : FarMsg} {h : Nat} (ho : b.fwu.heldOrder = [i]) (he : c.early = [(m, h)]) :
    (b.ctxOnChip i c).heldAnswer b.fwu.heldOrder.length = ((((b.ctxOnChip i c).onFwu fun f => { f with heldOrder := [] }).onFwu fun f => { f with
      ctxs := AMap.set f.ctxs i { c with paged := false, early := [] } }).dropOwner h (Own.of c.job 2)).farMatch m := by
  have hon : AMap.get? (b.ctxOnChip i c).fwu.ctxs i = some { c with paged := false } := AMap.get?_set_self _ i _
  rw [ho, List.length_singleton, Block.heldAnswer_one (b := b.ctxOnChip i c) ho hon rfl he]

/-- A context that comes back is not answered before an earlier response whose context is in memory. -/
theorem Block.heldAnswer_onChip_waits {j : Nat} {rest : List Nat} {x : OpCtx} (ho : b.fwu.heldOrder = j :: rest) (hj : j ≠ i)
    (hx : AMap.get? b.fwu.ctxs j = some x) (hp : x.paged = true) :
    (b.ctxOnChip i c).heldAnswer b.fwu.heldOrder.length = b.ctxOnChip i c := by
  have hother : AMap.get? (b.ctxOnChip i c).fwu.ctxs j = some x := (AMap.get?_set_ne _ _ hj).trans hx
  rw [ho, List.length_cons, Block.heldAnswer_waits (b := b.ctxOnChip i c) rest.length ho hother hp]

end

/-! ## Bulk copies (R123, R129, R130) -/

section
variable {b : Block} {k : Bulk}

theorem Block.next_lt_of_chunkDue (hd : b.chunkDue k = true) : k.next < k.start + k.len := of_decide_eq_true (Bool.and_eq_true_iff.1 hd).1

/-- A chunk that is left is not empty, ends at the next 64 KiB boundary at the latest, and ends with its copy at the latest. -/
theorem Fwu.chunkLen_bounds (hk : k.next < k.start + k.len) :
    Fwu.chunkLen k ≤ 65536 ∧ k.next + Fwu.chunkLen k ≤ k.start + k.len ∧ 0 < Fwu.chunkLen k := by
  unfold Fwu.chunkLen
  omega

variable {i : Nat} {c : OpCtx} (hc : AMap.get? b.fwu.ctxs i = some c) (hk : c.bulk = some k)
include hc hk

/-- At its turn a copy sends the chunk that it has gathered, or asks the far site for its chunk. -/
theorem Fwu.chunkSend_turn (ht : b.issueTurn = some i) (hg : k.toFar = false ∨ k.chunk.length = Fwu.chunkLen k) :
    let n := Fwu.chunkLen k
    let q := b.nextSeq c.win c.rank c.lcls
    Fwu.chunkSend i b = ((q.2.farSend i c (Fwu.chunkFlag k) (if k.toFar then 0x20 else 0x21) q.1 k.next n k.chunk).putBulk i
      { k with next := k.next + n, gathered := [] }).onFwu fun f => { f with turn := i + 1 } := by
  have hready : (k.toFar && k.chunk.length != Fwu.chunkLen k) = false := by
    rcases hg with hfrom | hwhole
    · rw [hfrom, Bool.false_and]
    · rw [hwhole, bne_self_eq_false, Bool.and_false]
  have hturn : (b.issueTurn != some i) = false := by rw [ht, bne_self_eq_false]
  unfold Fwu.chunkSend
  simp only [hc, hk, hready, hturn, Bool.false_eq_true, if_false]

/-- A copy to the far site whose next chunk is not whole gathers it. -/
theorem Fwu.chunkSend_gathers (hf : k.toFar = true) (hg : k.chunk.length ≠ Fwu.chunkLen k) : Fwu.chunkSend i b = b.gather i c k := by
  have hgather : (k.toFar && k.chunk.length != Fwu.chunkLen k) = true := by simp [hf, hg]
  unfold Fwu.chunkSend
  simp only [hc, hk, hgather, if_true]

end

/-- The packets that read the next chunk of a copy from the local fabric are issued, if every one of them can be. -/
def Block.readChunk (i : Nat) (c : OpCtx) (k : Bulk) (b : Block) : Option Block :=
  let n := Fwu.chunkLen k
  let ps := Fwu.pieces 18 (k.laddr + (k.next - k.start)) n
  ps.foldl (fun (acc : Option Block) p => acc.bind fun d => d.issue ⟨.bulk i (p.1 - k.laddr), c.job, k.lrank, c.lcls, 0x01, p.1, p.2, []⟩)
    (some (b.putBulk i { k with parts := [(k.next, n, ps.length)], gathered := [] }))

/-- A chunk that is due is read once the last one has been sealed and no packet is outstanding. -/
theorem Block.gather_reads {b b' : Block} {i : Nat} {c : OpCtx} {k : Bulk} (hd : b.chunkDue k = true) (hp : k.parts = [])
    (hs : ∀ h, c.buf = some h → ∀ m ∈ b.outq, m.src ≠ some h) (hr : b.readChunk i c k = some b') : b.gather i c k = b' := by
  have hsealed : (c.buf.any fun h => b.outq.any fun m => m.src == some h) = false := by
    rw [← Bool.not_eq_true, Option.any_eq_true]
    rintro ⟨h, hbuf, hany⟩
    obtain ⟨m, hm, hsrc⟩ := List.any_eq_true.1 hany
    exact hs h hbuf m hm (beq_iff_eq.1 hsrc)
  unfold Block.readChunk at hr
  unfold Block.gather
  simp only [hd, hp, hsealed, hr, Bool.not_true, List.isEmpty_nil, Bool.or_self, Bool.false_eq_true, if_false]

/-! ## The statement -/

/-- Settles O32: what is held and where its context stands choose what a page-in does; what a copy has gathered chooses what it sends. -/
theorem farPagingAndBulk : Obligations.FarPagingAndBulk := by
  unfold Obligations.FarPagingAndBulk
  refine ⟨?pageOut, ?pageIn, ?chunk⟩
  case pageOut =>
    intro t s b go hw
    rw [exec_opContextPageOut hw]
    rfl
  case pageIn =>
    intro t i c s b d hw hc he hp
    have hheld : Fwu.pageIn i b = if d.rangePoison (Fwu.home i) 256 = true then (d.readCount (Fwu.home i) 256).ctxPoison i c
        else (d.ctxOnChip i c).heldAnswer d.fwu.heldOrder.length := Fwu.pageIn_held hc he hp
    rw [exec_opContextPageIn hw, hheld]
    refine ⟨fun m h hgood ho hearly => ?_, fun j rest x hgood ho hj hx hpx => ?_, fun hpoison => ?_⟩
    · rw [if_neg (Bool.eq_false_iff.1 hgood), Block.heldAnswer_onChip ho hearly]
      rfl
    · rw [if_neg (Bool.eq_false_iff.1 hgood), Block.heldAnswer_onChip_waits ho hj hx hpx]
      rfl
    · rw [if_pos hpoison]
      rfl
  case chunk =>
    intro t i c k s b n q hw hc hk hd
    rw [exec_bulkChunkSend hw]
    refine ⟨fun hturn hg => ?_, fun b' hf hg hparts hsealed hread => ?_, Fwu.chunkLen_bounds (Block.next_lt_of_chunkDue hd)⟩
    · rw [Fwu.chunkSend_turn hc hk hturn hg]
    · rw [Fwu.chunkSend_gathers hc hk hf hg, Block.gather_reads hd hparts hsealed hread]

end Sys2Proof.Machine
end

section
/-! SUPPORT. The timers of the TE (R124, R232, R236, R237, R239), and what becomes of a line port and its segments when it leaves UP and
SHRUNK, comes back, or leaves a peer without a path (R242 to R247). -/

namespace Sys2Proof.Machine

/-! ## The commands -/

/-- While the TE and the BM work, a command of the TE leaves what its effect leaves. -/
theorem after_te {t : Time} {s : State} (h : (s.blk.tick t).worksBm 31 = true) (f : Block → Block) :
    (Host.Outcome.next (s.run t fun b => b.whenBufs 31 f) : Host.Outcome State Fault Refusal) = After s (f (s.blk.tick t)) := by
  rw [after_run, Block.whenBufs_of h]

/-- So does one that names a line port. -/
theorem after_tePort {t : Time} {s : State} (h : (s.blk.tick t).worksBm 31 = true) {p : Nat} (hp : p < 2) (f : Block → Block) :
    (Host.Outcome.next (s.run t fun b => if p < 2 then b.whenBufs 31 f else b) : Host.Outcome State Fault Refusal) =
      After s (f (s.blk.tick t)) := by
  rw [after_run, if_pos hp, Block.whenBufs_of h]

section
variable {t : Time} {s : State} (h : (s.blk.tick t).worksBm 31 = true)
include h

theorem exec_rtoExpiry : exec (.rtoExpiry t) s = After s (Te.rtoCheck (s.blk.tick t)) := after_te h _
theorem exec_rxCreditRecompute : exec (.rxCreditRecompute t) s = After s (Te.creditRecompute (s.blk.tick t)) := after_te h _
theorem exec_noPathExpiry (peer : Nat) : exec (.noPathExpiry t peer) s = After s (Te.noPathExpiry peer (s.blk.tick t)) := after_te h _

/-- SRTT is shown to the FWU, which must work as well. -/
theorem exec_fwuRttUpdate (hf : (s.blk.tick t).worksBm 27 = true) :
    exec (.fwuRttUpdate t) s = After s (Te.rttUpdate (s.blk.tick t)) :=
  (after_fwu hf _).trans (congrArg (After s) (Block.whenBufs_of h _))

variable {p : Nat} (hp : p < 2)
include hp

theorem exec_segmentAbandon (seq : Nat) :
    exec (.segmentAbandon t p seq) s = After s (Te.segAbandon p seq (s.blk.tick t)) := after_tePort h hp _
theorem exec_portUnusable : exec (.portUnusable t p) s = After s (Te.portUnusable p (s.blk.tick t)) := after_tePort h hp _
theorem exec_portUsable : exec (.portUsable t p) s = After s (Te.portUsable p (s.blk.tick t)) := after_tePort h hp _
theorem exec_acceptMapExpiry : exec (.acceptMapExpiry t p) s = After s (Te.mapExpiry p (s.blk.tick t)) := after_tePort h hp _

end

/-! ## Retransmission (R237, R239) -/

/-- A change of one line port leaves the others. -/
theorem Block.tp_modTp_ne {p q : Nat} (hq : q ≠ p) (f : TePort → TePort) (b : Block) : (b.modTp p f).tp q = b.tp q :=
  congrArg (Option.getD · TePort.init) (AMap.get?_set_ne b.te.ports (f (b.tp p)) hq)

/-- A port that carries no segments has no timeouts. -/
theorem Block.rtoPort_unusable {b : Block} {p : Nat} (hu : (b.tp p).usable = false) : b.rtoPort p = b := by
  unfold Block.rtoPort
  rw [hu]
  rfl

/-- The attempts of a usable port that have run past the timeout are counted, and are due again or have failed. -/
theorem Block.rtoPort_usable {b : Block} {p : Nat} (hu : (b.tp p).usable = true) : b.rtoPort p =
    (b.bumpN (R.tePRtoCnt p) ((b.tp p).segs.filter fun e => b.rtoLate p e.2).length).modTp p fun x =>
      { x with segs := x.segs.map fun (e : Nat × TxSeg) => if b.rtoLate p e.2 then (e.1, e.2.rto) else e } := by
  unfold Block.rtoPort
  rw [hu]
  rfl

/-- The timeouts of a port do not touch another port. -/
theorem Block.tp_rtoPort_ne {p q : Nat} (hq : q ≠ p) (b : Block) : (b.rtoPort p).tp q = b.tp q := by
  cases hu : (b.tp p).usable
  · rw [Block.rtoPort_unusable hu]
  · rw [Block.rtoPort_usable hu, Block.tp_modTp_ne hq]
    rfl

/-- While port B carries no segments, the check is that of port A alone. -/
theorem Te.rtoCheck_portA {b : Block} (hu : (b.tp 1).usable = false) : Te.rtoCheck b = b.rtoPort 0 := by
  have hu' : ((b.rtoPort 0).tp 1).usable = false := by rw [Block.tp_rtoPort_ne Nat.one_ne_zero, hu]
  unfold Te.rtoCheck
  rw [Block.rtoPort_unusable hu']

section
variable {b : Block} {p seq : Nat} {g : TxSeg} (hg : AMap.get? (b.tp p).segs seq = some g)
include hg

/-- A segment that has failed without a NAK is abandoned with TIMEOUT and its class. -/
theorem Te.segAbandon_failed (hf : g.failed = true) (hn : g.nak = none) : Te.segAbandon p seq b = b.abandonSeg p seq g St.timeout g.cls := by
  unfold Te.segAbandon
  simp only [hg, hf, hn, Bool.not_true, Bool.false_eq_true, if_false]

/-- A segment that has not failed stays. -/
theorem Te.segAbandon_notFailed (hf : g.failed = false) : Te.segAbandon p seq b = b := by
  unfold Te.segAbandon
  simp only [hg, hf, Bool.not_false, if_true]

end

/-! ## Ports and paths (R242 to R247) -/

section
variable {b : Block} {p : Nat}

/-- A port that carries segments while its line is neither UP nor SHRUNK carries none from now on; it reports it, and its segments go to
the other port when that reaches the same peer. -/
theorem Te.portUnusable_leaves (hu : (b.tp p).usable = true) (hl : b.lineUp p = false) :
    let peer := (b.peerOf p).getD 0
    let c := b.modTp p fun x => { x with usable := false, sampled := false, downAt := some b.now, hunting := true, carry := [] }
    let d := (c.event 0x0001 1 devJob 31 (Bits.leBytes 1 p ++ Bits.leBytes 2 peer)).teTrace 5 p 0 0 0
    Te.portUnusable p b = (if d.samePeer && (d.tp (1 - p)).usable then d.failover p (1 - p) else d).pathCheck peer := by
  have hgo : (!(b.tp p).usable || b.lineUp p) = false := by rw [hu, hl]; rfl
  exact if_neg (Bool.eq_false_iff.1 hgo)

/-- A port that carries none already, or whose line is UP or SHRUNK, stays as it is. -/
theorem Te.portUnusable_stays (h : (b.tp p).usable = false ∨ b.lineUp p = true) : Te.portUnusable p b = b := by
  have hstop : (!(b.tp p).usable || b.lineUp p) = true := by simpa using h
  exact if_pos hstop

section
variable {peer : Nat} (hp : b.peerOf p = some peer)
include hp

/-- A port whose line is up, with a first sample, a version that agrees and a device that is not locked, carries segments again, and reports
it; what the other port holds for the same peer comes to it when that carries none. -/
theorem Te.portUsable_returns (hu : (b.tp p).usable = false) (hl : b.lineUp p = true) (hs : (b.tp p).sampled = true)
    (hv : (b.tp p).verBad = false) (hk : b.locked = false) :
    let c := b.modTp p fun x => TePort.dropMap { x with usable := true, downAt := none, segs := x.segs.map fun (e : Nat × TxSeg) =>
      if e.2.failed then e else (e.1, { e.2 with due := true, again := e.2.again && e.2.due }) }
    let d := (c.event 0x0002 0 devJob 31 (Bits.leBytes 1 p ++ Bits.leBytes 2 peer)).teTrace 4 p 0 0 0
    Te.portUsable p b =
      (if d.samePeer && !(d.tp (1 - p)).usable && !(d.tp (1 - p)).segs.isEmpty then d.failover (1 - p) p else d).pathBack peer := by
  have hgo : ((b.tp p).usable || !b.lineUp p || !(b.tp p).sampled || (b.tp p).verBad || b.locked) = false := by rw [hu, hl, hs, hv, hk]; rfl
  unfold Te.portUsable
  simp only [hp]
  exact if_neg (Bool.eq_false_iff.1 hgo)

/-- A port without a first round-trip sample does not carry segments yet. -/
theorem Te.portUsable_notSampled (hs : (b.tp p).sampled = false) : Te.portUsable p b = b := by
  have hstop : ((b.tp p).usable || !b.lineUp p || !(b.tp p).sampled || (b.tp p).verBad || b.locked) = true := by simp [hs]
  unfold Te.portUsable
  simp only [hp]
  exact if_pos hstop

end

/-- The map of accepted SEQs of a port that carries no segments is dropped 10 s after it went down. -/
theorem Te.mapExpiry_down {t0 : Time} (hu : (b.tp p).usable = false) (hd : (b.tp p).downAt = some t0) :
    Te.mapExpiry p b = if t0 + tenSec ≤ b.now then b.modTp p TePort.dropMap else b := by
  have hdue : (!(b.tp p).usable && (b.tp p).downAt.any fun t => decide (t + tenSec ≤ b.now)) = decide (t0 + tenSec ≤ b.now) := by
    rw [hu, hd, Option.any_some, Bool.not_false, Bool.true_and]
  unfold Te.mapExpiry
  simp only [hdue, decide_eq_true_eq]

/-- Every segment to a peer is abandoned 10 s after its last path was lost. -/
theorem Te.noPathExpiry_lost {peer : Nat} {t0 : Time} (hn : (b.pr peer).noPathAt = some t0) :
    Te.noPathExpiry peer b = if t0 + tenSec ≤ b.now then
      [0, 1].foldl (fun b p => b.abandon p (fun _ g => g.goesTo peer) St.linkDown (peer / 4096))
        ((b.bump R.teNopathCnt).modPr peer fun r => { r with noPathAt := none })
      else b := by
  unfold Te.noPathExpiry
  rw [hn]

end

/-! ## The statement -/

/-- Settles O45: each command leaves what its effect leaves, and the segment, the line and the clock choose what that is. -/
theorem lineTimersAndFailover : Obligations.LineTimersAndFailover := by
  unfold Obligations.LineTimersAndFailover
  refine ⟨⟨?rto, ?abandon, ?credit, ?rtt⟩, ?unusable, ?usable, ?mapExpiry, ?noPath⟩
  case rto =>
    intro t s b hw hB hA
    rw [exec_rtoExpiry hw, Te.rtoCheck_portA hB, Block.rtoPort_usable hA]
    rfl
  case abandon =>
    intro t p seq g s b hw hp hg
    rw [exec_segmentAbandon hw hp]
    exact ⟨fun hf hn => by rw [Te.segAbandon_failed hg hf hn], fun hf => by rw [Te.segAbandon_notFailed hg hf]⟩
  case credit =>
    intro t s b low rest hw
    rw [exec_rxCreditRecompute hw]
    rfl
  case rtt =>
    intro t s b live c hfwu hte
    rw [exec_fwuRttUpdate hte hfwu]
    rfl
  case unusable =>
    intro t p s b peer c d hw hp
    rw [exec_portUnusable hw hp]
    exact ⟨fun hu hl => by rw [Te.portUnusable_leaves hu hl], fun hstays => by rw [Te.portUnusable_stays hstays]⟩
  case usable =>
    intro t p peer s b c d e hw hp hpeer hu
    rw [exec_portUsable hw hp]
    refine ⟨fun hl hs hv hk => ?_, fun hs => ?_⟩
    · rw [Te.portUsable_returns hpeer hu hl hs hv hk]
      rfl
    · rw [Te.portUsable_notSampled hpeer hs]
  case mapExpiry =>
    intro t p t0 s b hw hp hu hd
    rw [exec_acceptMapExpiry hw hp, Te.mapExpiry_down hu hd]
    exact ⟨fun hdue => by rw [if_pos hdue], fun hearly => by rw [if_neg (Nat.not_le.2 hearly)]⟩
  case noPath =>
    intro t peer t0 s b hw hn
    rw [exec_noPathExpiry hw, Te.noPathExpiry_lost hn]
    exact ⟨fun hdue => by rw [if_pos hdue], fun hearly => by rw [if_neg (Nat.not_le.2 hearly)]⟩

end Sys2Proof.Machine
end

section
/-! SUPPORT. The objects of the collective engine (R134, R135, R177 to R179, R188), and what COLL_QUERY and STATS_READ report (R160, R183). -/

namespace Sys2Proof.Machine

/-! ## The commands -/

section
variable {r : Req} {t : Time} {s : State} {b : Block} {id : Nat}

theorem exec_treeSet (h : Starts 0x0401 r t s b id) : exec (.treeSet t r) s = After s (Ce.treeSet id r b) := cmd_runs h _
theorem exec_combinerLoad (h : Starts 0x0404 r t s b id) : exec (.combinerLoad t r) s = After s (Ce.combinerLoad id r b) := cmd_runs h _
theorem exec_residualAlloc (h : Starts 0x0406 r t s b id) : exec (.residualAlloc t r) s = After s (Ce.residAlloc id r b) := cmd_runs h _
theorem exec_residualFree (h : Starts 0x0407 r t s b id) : exec (.residualFree t r) s = After s (Ce.residFree id r b) := cmd_runs h _
theorem exec_collQuery (h : Starts 0x0405 r t s b id) : exec (.collQuery t r) s = After s (Ce.collQuery id r b) := cmd_runs h _
theorem exec_statsRead (h : Starts 0x0903 r t s b id) : exec (.statsRead t r) s = After s (Ce.statsRead id r b) := cmd_runs h _

/-! ## Combiner programs -/

section
variable (hs : Starts 0x0404 r t s b id) (ha : r.a0 % 64 = 0) (hin : r.a0 + r.a1 ≤ 0x6000000000) (hlen : r.a1 = 336 ∨ r.a1 = 4432)
  (h32 : r.u 32 32 = 0) (hsound : (b.readCount r.a0 r.a1).combBad r.a0 r.a1 = none)
include hs ha hin hlen h32 hsound

/-- A sound image that is to be a new program takes the lowest free handle. -/
theorem Ce.combinerLoad_new {k : Nat} (hnew : r.a2 = 0xFFFFFFFF) (hn : (b.readCount r.a0 r.a1).d r.a0 1 1 ≠ 0)
    (hfree : AMap.freeKey (b.readCount r.a0 r.a1).ce.progs 0 256 = some k) :
    let c := b.readCount r.a0 r.a1
    Ce.combinerLoad id r b = (c.onCe fun x => { x with progs := AMap.set x.progs k (c.combImage r.a0 (c.cmdJob r)) }).ok id k := by
  unfold Ce.combinerLoad
  rw [Ci.check8_sound hs (by simp [ha, hin, h32]; omega)]
  simp [hnew, hsound, hn, hfree]

/-- A sound image for a program of the job that no collective uses frees it when it is empty, and replaces it otherwise. -/
theorem Ce.combinerLoad_own {p : Prog} (hown : r.a2 ≠ 0xFFFFFFFF) (hp : AMap.get? (b.readCount r.a0 r.a1).ce.progs r.a2 = some p)
    (hj : p.job = (b.readCount r.a0 r.a1).cmdJob r) (hidle : ∀ e ∈ (b.readCount r.a0 r.a1).ce.colls, e.2.comb ≠ some r.a2) :
    let c := b.readCount r.a0 r.a1
    Ce.combinerLoad id r b =
      if c.d r.a0 1 1 = 0 then (c.onCe fun x => { x with progs := AMap.erase x.progs r.a2 }).ok id r.a2
      else (c.onCe fun x => { x with progs := AMap.set x.progs r.a2 (c.combImage r.a0 (c.cmdJob r)) }).ok id r.a2 := by
  have hnew : (r.a2 == 0xFFFFFFFF) = false := beq_false_of_ne hown
  have hunused : ((b.readCount r.a0 r.a1).ce.colls.any fun e => e.2.comb == some r.a2) = false := by simpa using hidle
  unfold Ce.combinerLoad
  rw [Ci.check8_sound hs (by simp [ha, hin, h32]; omega)]
  simp [hnew, hp, hj, hsound, hunused]

end

/-! ## Residual regions -/

/-- A region of a job that no collective uses gives its size back. -/
theorem Ce.residFree_own (hs : Starts 0x0407 r t s b id) (h16 : r.u 16 8 = 0) (h24 : r.u 24 4 = 0) (h32 : r.u 32 32 = 0) {x : Resid}
    (hx : AMap.get? b.ce.resids r.a2 = some x) (hj : x.job = b.cmdJob r) (hidle : ∀ e ∈ b.ce.colls, e.2.resid ≠ some r.a2) :
    Ce.residFree id r b = (b.onCe fun c => { c with resids := AMap.erase c.resids r.a2 }).ok id x.size := by
  have hunused : (b.ce.colls.any fun e => e.2.resid == some r.a2) = false := by simpa using hidle
  unfold Ce.residFree
  rw [Ci.check8_sound hs (by simp [h16, h24, h32])]
  simp [hx, hj, hunused]

/-! ## Reports -/

/-- COLL_QUERY reports the tiles handled of a collective that runs or has ended, and completes STATE for one that is unknown. -/
theorem Ce.collQuery_named (hs : Starts 0x0405 r t s b id) (h16 : r.u 16 8 = 0) (h24 : r.u 24 4 = 0) (ha : r.a2 < 4096) (h32 : r.u 32 32 = 0) :
    let key := Coll.keyOf (b.cmdJob r) r.a2
    Ce.collQuery id r b = (((b.coll key).map fun c => b.ok id c.handled.length).or
      ((AMap.get? b.ce.fin key).map fun e => b.ok id e.2)).getD (b.done id St.state 3) := by
  unfold Ce.collQuery
  rw [Ci.check8_sound hs (by simp [h16, h24, ha, h32])]
  dsimp only
  cases b.coll (Coll.keyOf (b.cmdJob r) r.a2) <;> cases AMap.get? b.ce.fin (Coll.keyOf (b.cmdJob r) r.a2) <;> rfl

/-- The statistics of a collective that has ended are written to memory. -/
theorem Ce.statsRead_ended (hs : Starts 0x0903 r t s b id) (ha : r.a0 % 64 = 0) (hin : r.a0 + r.a1 ≤ 0x6000000000) (hlen : 128 ≤ r.a1)
    (ha2 : r.a2 < 4096) (h32 : r.u 32 32 = 0) {x : CollStats} (hno : b.coll (Coll.keyOf (b.cmdJob r) r.a2) = none)
    (hx : AMap.get? b.ce.stats (Coll.keyOf (b.cmdJob r) r.a2) = some x) :
    Ce.statsRead id r b = (b.dxWrite r.a0 x.record).ok id 128 := by
  unfold Ce.statsRead
  rw [Ci.check8_sound hs (by simp [ha, hin, hlen, ha2, h32])]
  simp only [hno, hx]

end

/-- The record of Table 6-6 has 128 bytes. -/
theorem CollStats.record_length (x : CollStats) : x.record.length = 128 := by
  unfold CollStats.record
  simp only [List.length_append, Bits.leBytes_length]

/-! ## The statement -/

/-- Settles O38: each packet passes check 8, and its descriptor, what is free and what uses its object choose what it does. -/
theorem collectiveObjects : Obligations.CollectiveObjects := by
  unfold Obligations.CollectiveObjects
  refine ⟨?tree, ?combiner, ?alloc, ?free, ?query, ?stats⟩
  case tree =>
    intro t r s b id k hs
    dsimp only
    intro ha hin hlen h28 h32 hsound hfree
    rw [exec_treeSet hs, Ce.treeSet, Ci.check8_sound hs (by simp [ha, hin, hlen, h28, h32])]
    simp only [hsound, hfree]
  case combiner =>
    intro t r s b id k hs c ha hin hlen h32 hsound
    rw [exec_combinerLoad hs]
    refine ⟨fun hnew hn hfree => ?_, fun p hown hp hj hidle => ?_⟩
    · rw [Ce.combinerLoad_new hs ha hin hlen h32 hsound hnew hn hfree]
    · rw [Ce.combinerLoad_own hs ha hin hlen h32 hsound hown hp hj hidle]
      exact ⟨fun hn => by rw [if_neg hn], fun hn => by rw [if_pos hn]⟩
  case alloc =>
    intro t r s b id a k hs
    dsimp only
    intro h16 h24 h28 hpos hmax hdir hdir' h41 hfit hstage hplace hfree
    rw [exec_residualAlloc hs]
    unfold Ce.residAlloc
    dsimp only
    rw [Ci.check8_sound hs (by simp [h16, h24, h28, h41]; omega), if_neg (not_or.2 ⟨Nat.not_lt.2 hfit, Nat.not_lt.2 hstage⟩)]
    simp only [hplace, hfree]
  case free =>
    intro t r s b id x hs h16 h24 h32 hx hj hidle
    rw [exec_residualFree hs, Ce.residFree_own hs h16 h24 h32 hx hj hidle]
  case query =>
    intro t r s b id hs h16 h24 ha h32
    rw [exec_collQuery hs, Ce.collQuery_named hs h16 h24 ha h32]
    exact ⟨fun c hc => by rw [hc]; rfl, fun hno hfin => by rw [hno, hfin]; rfl⟩
  case stats =>
    intro t r s b id x hs ha hin hlen ha2 h32 hno hx
    rw [exec_statsRead hs, Ce.statsRead_ended hs ha hin hlen ha2 h32 hno hx]
    exact ⟨rfl, x.record_length⟩

end Sys2Proof.Machine
end

section
/-! SUPPORT. How collectives start, run, are aborted and end (R136 to R138, R140 to R146, R150, R154, R155, R160). -/

namespace Sys2Proof.Machine

/-! ## The commands -/

/-- While the CE and the BM work, a command of the CE leaves what its effect leaves. -/
theorem after_ce {t : Time} {s : State} (h : (s.blk.tick t).worksBm 28 = true) (f : Block → Block) :
    (Host.Outcome.next (s.run t fun b => b.whenBufs 28 f) : Host.Outcome State Fault Refusal) = After s (f (s.blk.tick t)) := by
  rw [after_run, Block.whenBufs_of h]

section
variable {t : Time} {s : State} (h : (s.blk.tick t).worksBm 28 = true)
include h

theorem exec_collComplete (key : Nat) : exec (.collComplete t key) s = After s (Ce.complete key (s.blk.tick t)) := after_ce h _
theorem exec_tilePutRx (sel : Nat) : exec (.tilePutRx t sel) s = After s (Ce.tilePutRx sel (s.blk.tick t)) := after_ce h _
theorem exec_tileContextAlloc : exec (.tileContextAlloc t) s = After s (Ce.contextAlloc (s.blk.tick t)) := after_ce h _
theorem exec_ceDispatchSlot : exec (.ceDispatchSlot t) s = After s (Ce.dispatchSlot (s.blk.tick t)) := after_ce h _

end

/-! ## COLL_START and COLL_ABORT -/

section
variable {r : Req} {t : Time} {s : State} {b : Block} {id : Nat}

theorem exec_collStart (h : Starts 0x0402 r t s b id) : exec (.collStart t r) s = After s (Ce.collStart id r b) := cmd_runs h _
theorem exec_collAbort (h : Starts 0x0403 r t s b id) : exec (.collAbort t r) s = After s (Ce.collAbort id r b) := cmd_runs h _

/-- The residual region of a descriptor, where it names one, is used by no collective. -/
theorem Block.resid_unused {c : Coll} (h : ∀ e ∈ b.ce.colls, c.resid = none ∨ e.2.resid ≠ c.resid) :
    (if c.resid.isSome then b.ce.colls.find? fun e => e.2.resid == c.resid else none) = none := by
  split
  · rename_i hres
    rw [List.find?_eq_none]
    intro e he
    rcases h e he with hnone | hne
    · simp [hnone] at hres
    · simpa using hne
  · rfl

/-- The collective `c` runs under its key, and what an ended one left there is gone. -/
def Block.collBegin (key : Nat) (c : Coll) (b : Block) : Block := b.onCe fun x => { x with
  colls := AMap.set x.colls key c, fin := AMap.erase x.fin key, stats := AMap.erase x.stats key }

/-- A sound descriptor under a collective ID that is not in use, with a residual region that is not either, starts its collective. -/
theorem Ce.collStart_free (hs : Starts 0x0402 r t s b id) (ha : r.a0 % 64 = 0) (hin : r.a0 + 128 ≤ 0x6000000000) (hlen : r.a1 = 128)
    (ha2 : r.a2 < 4096) (hprio : r.u 32 1 < 8) (h33 : r.u 33 3 = 0) (h40 : r.u 40 24 = 0) {d : Block} (hd : b.readCount r.a0 128 = d)
    (hsound : d.collBad r.a0 (d.cmdJob r) = none) (hkey : d.coll (Coll.keyOf (d.cmdJob r) r.a2) = none)
    (hres : ∀ e ∈ d.ce.colls, (d.collDesc id r).resid = none ∨ e.2.resid ≠ (d.collDesc id r).resid) (hroom : d.ce.colls.length < 4096) :
    let job := d.cmdJob r
    let key := Coll.keyOf job r.a2
    let c := d.collDesc id r
    Ce.collStart id r b = ((((d.collBegin key c).count job 1 8 1).count job 1 (8 + c.op) 1).readyAtOnce key).applyEarly job r.a2 := by
  unfold Ce.collStart
  rw [Ci.check8_sound hs (by simp [ha, hin, hlen, ha2, hprio, h33, h40])]
  simp only [hd, hsound, hkey, Block.resid_unused hres, if_neg (Nat.not_le.2 hroom)]
  rfl

/-- A collective of the job that is not draining is aborted, and the tiles that it has not handled are reported; a draining one goes on. -/
theorem Ce.collAbort_running (hs : Starts 0x0403 r t s b id) (h16 : r.u 16 8 = 0) (h24 : r.u 24 4 = 0) (ha : r.a2 < 4096)
    (h32 : r.u 32 32 = 0) {c : Coll} (hc : b.coll (Coll.keyOf (b.cmdJob r) r.a2) = some c) :
    Ce.collAbort id r b = if c.state = 2 then b.done id St.state 2
      else (b.collFail (Coll.keyOf (b.cmdJob r) r.a2) St.state 4 0 none).ok id (c.ntiles - c.handled.length) := by
  unfold Ce.collAbort
  rw [Ci.check8_sound hs (by simp [h16, h24, ha, h32])]
  simp only [hc]

end

/-! ## The end of a collective (R154, R155) -/

section
variable {b : Block} {key : Nat} {c : Coll} (hc : b.coll key = some c)
include hc

/-- A collective whose DIGESTs have all come and agree with its own ends OK. -/
theorem Block.collFinish_agrees (hd : ∀ k ∈ c.awaits, AMap.get? c.told k = some (if k = 0 then c.digA else c.digB)) :
    b.collFinish key = b.collEnd key St.ok 0 0 := by
  have hcome : (c.awaits.any fun k => (AMap.get? c.told k).isNone) = false := by
    rw [List.any_eq_false]
    intro k hk
    simp [hd k hk]
  have hagree : (c.awaits.filter fun k => AMap.getD c.told k 0 != if k = 0 then c.digA else c.digB) = [] := by
    rw [List.filter_eq_nil_iff]
    intro k hk
    simp [AMap.getD, hd k hk]
  unfold Block.collFinish
  simp only [hc, hcome, hagree, Bool.false_eq_true, if_false, List.foldl_nil]

/-- A draining collective finishes once all its segments are acknowledged. -/
theorem Ce.complete_draining (hd : c.state = 2) : Ce.complete key b = if b.unacked c.id then b else b.collFinish key := by
  unfold Ce.complete
  rw [hc]
  cases hu : b.unacked c.id <;> simp [hd, hu]

end

/-! ## Chunks (R140 to R145) -/

section
variable {b : Block} {p : FabPkt}

/-- The CE takes a chunk that no earlier one of its rank and tile waits before and that can be taken; it leaves another in the Eddy buffer. -/
theorem Ce.tilePutRx_chunk {sel : Nat} (hp : b.pickGot sel (fun p => p.opcode == 0x20#8) = some p) :
    Ce.tilePutRx sel b = ((if b.ce.wait.any (Chunk.same p) then none else b.tilePut p).map (Block.dropGot sel)).getD
      ((b.onCe fun c => { c with wait := c.wait ++ [p] }).onFif fun f => { f with got := Bits.removeAt f.got sel }) := by
  unfold Ce.tilePutRx
  rw [hp]
  dsimp only
  split
  · rfl
  · cases b.tilePut p <;> rfl

/-- The first chunk in the Eddy buffer is taken when a context may be had for it. -/
theorem Ce.contextAlloc_first {ps : List FabPkt} {b' : Block} (hw : b.ce.wait = p :: ps) (hp : b.tilePut p = some b') :
    Ce.contextAlloc b = b'.onCe fun c => { c with wait := ps.filter (c.wait.contains ·) } := by
  have hfirst : Block.firstWaiting [] (p :: ps) b = some (0, b') := by
    unfold Block.firstWaiting
    simp [hp]
  unfold Ce.contextAlloc
  rw [hw, hfirst]
  rfl

end

/-! ## Dispatch (R150) -/

section
variable {b : Block} {i : CeItem}

/-- A tile that is alone to wait for a dispatch slot, of a job whose work goes on and whose turn it is. -/
structure Block.OnlyItem (b : Block) (i : CeItem) : Prop where
  items : b.ce.items = [i]
  works : b.engStopped (i.coll / 4096) 3 = false
  turn : b.ce.half = none ∨ b.wideUp i ≠ b.ce.half

/-- It is the oldest tile of its priority, and no other priority has one. -/
theorem Block.OnlyItem.oldest_eq (h : b.OnlyItem i) (p : Nat) : b.oldest p = if i.prio = p then some i else none := by
  have hturn : (b.ce.half.isSome && b.wideUp i == b.ce.half) = false := by
    rcases h.turn with hnone | hne
    · rw [hnone, Option.isSome_none, Bool.false_and]
    · rw [beq_false_of_ne hne, Bool.and_false]
  unfold Block.oldest
  rw [h.items, List.find?_singleton]
  simp [h.works, hturn]

/-- The lane that admits a waiting tile which goes over the line. -/
def Block.itemLane (b : Block) (i : CeItem) : Option Nat := if Edge.kind i.edge == 1 then b.admitLane (b.itemBytes i) else none

/-- The tokens that a waiting tile costs, those of its compression among them when it is to be compressed. -/
def Block.itemCost (b : Block) (i : CeItem) : Nat :=
  if Edge.kind i.edge == 1 && !b.cxForced then Ce.cost (b.itemBytes i) (b.ce.cost % 2 ^ 16 + b.ce.cost / 2 ^ 16)
  else Ce.cost (b.itemBytes i) (b.ce.cost % 2 ^ 16)

/-- A slot that looks at its priority dispatches it, when the tokens last and a lane admits it where it needs one. -/
theorem Block.OnlyItem.slotFrom_dispatches (h : b.OnlyItem i) (hcost : b.itemCost i ≤ b.ce.tok + i.saved)
    (hroom : Edge.kind i.edge = 1 → (b.itemLane i).isSome = true) {l : List Nat} (hl : i.prio ∈ l) :
    Block.slotFrom l b = b.dispatch i (b.itemLane i) false (b.itemCost i) := by
  have hadmits : (!(Edge.kind i.edge == 1) || (b.itemLane i).isSome) = true := by
    by_cases hline : Edge.kind i.edge = 1
    · rw [hroom hline, Bool.or_true]
    · rw [beq_false_of_ne hline]
      rfl
  induction l with
  | nil => exact absurd hl List.not_mem_nil
  | cons p l ih =>
    unfold Block.slotFrom
    rw [h.oldest_eq]
    by_cases hp : i.prio = p
    · rw [if_pos hp]
      exact if_pos (Bool.and_eq_true_iff.2 ⟨decide_eq_true hcost, hadmits⟩)
    · rw [if_neg hp]
      exact ih (List.mem_of_ne_of_mem hp hl)

/-- A dispatch slot looks at every priority. -/
theorem Block.OnlyItem.dispatchSlot_eq (h : b.OnlyItem i) (hprio : i.prio ≤ 7) (hcost : b.itemCost i ≤ b.ce.tok + i.saved)
    (hroom : Edge.kind i.edge = 1 → (b.itemLane i).isSome = true) :
    Ce.dispatchSlot b = b.dispatch i (b.itemLane i) false (b.itemCost i) :=
  h.slotFrom_dispatches hcost hroom (by simp; omega)

/-- A tile that does not go over the line needs no lane, and costs nothing for compression. -/
theorem Block.item_offLine (hk : Edge.kind i.edge ≠ 1) :
    b.itemLane i = none ∧ b.itemCost i = Ce.cost (b.itemBytes i) (b.ce.cost % 2 ^ 16) := by
  unfold Block.itemLane Block.itemCost
  rw [beq_false_of_ne hk]
  exact ⟨rfl, rfl⟩

/-- A tile that goes over the line needs a lane, and costs its compression unless that is off. -/
theorem Block.item_onLine (hk : Edge.kind i.edge = 1) :
    b.itemLane i = b.admitLane (b.itemBytes i) ∧ b.itemCost i = if b.cxForced then Ce.cost (b.itemBytes i) (b.ce.cost % 2 ^ 16)
      else Ce.cost (b.itemBytes i) (b.ce.cost % 2 ^ 16 + b.ce.cost / 2 ^ 16) := by
  unfold Block.itemLane Block.itemCost
  rw [hk]
  cases b.cxForced <;> exact ⟨rfl, rfl⟩

end

/-! ## The statement -/

/-- Settles O39: each command leaves what its effect leaves, and what runs, what waits and what has come choose what that is. -/
theorem collectivesRun : Obligations.CollectivesRun := by
  unfold Obligations.CollectivesRun
  refine ⟨?start, ?abort, ?complete, ?put, ?alloc, ?slot⟩
  case start =>
    intro t r s b id hs d job key c ha hin hlen ha2 hprio h33 h40 hsound hkey hres hroom
    rw [exec_collStart hs, Ce.collStart_free hs ha hin hlen ha2 hprio h33 h40 rfl hsound hkey hres hroom]
    rfl
  case abort =>
    intro t r s b id c hs key h16 h24 ha h32 hc
    rw [exec_collAbort hs, Ce.collAbort_running hs h16 h24 ha h32 hc]
    exact ⟨fun hd => by rw [if_neg hd], fun hd => by rw [if_pos hd]⟩
  case complete =>
    intro t key c s b hw hc hd
    rw [exec_collComplete hw, Ce.complete_draining hc hd]
    refine ⟨fun hu hdig => ?_, fun hu => ?_⟩
    · rw [if_neg (Bool.eq_false_iff.1 hu), Block.collFinish_agrees hc hdig]
    · rw [if_pos hu]
  case put =>
    intro t sel p s b hw hp
    rw [exec_tilePutRx hw, Ce.tilePutRx_chunk hp]
    refine ⟨fun b' hsame hput => ?_, fun hwaits => ?_⟩
    · rw [if_neg (Bool.eq_false_iff.1 hsame), hput]
      rfl
    · have hleft : (if b.ce.wait.any (Chunk.same p) then none else b.tilePut p) = none := by
        rcases hwaits with hsame | hput
        · exact if_pos hsame
        · rw [hput, ite_self]
      rw [hleft]
      rfl
  case alloc =>
    intro t p ps b' s b hw hwait hput
    rw [exec_tileContextAlloc hw, Ce.contextAlloc_first hwait hput]
  case slot =>
    intro t i s b cost both hw hitems hprio hworks hturn
    have honly : b.OnlyItem i := ⟨hitems, hworks, hturn⟩
    rw [exec_ceDispatchSlot hw]
    refine ⟨fun hk hcost => ?_, fun lane hk hlane hcost => ?_⟩
    · obtain ⟨hno, hbase⟩ := Block.item_offLine (b := b) hk
      rw [honly.dispatchSlot_eq hprio (hbase.trans_le hcost) (absurd · hk), hno, hbase]
    · obtain ⟨hadm, hfull⟩ := Block.item_onLine (b := b) hk
      rw [honly.dispatchSlot_eq hprio (hfull.trans_le hcost) fun _ => by rw [hadm, hlane]; rfl, hadm, hlane, hfull]

end Sys2Proof.Machine
end

section
/-! SUPPORT. What reaches or ends a running collective (R143, R145, R148, R149, R155 to R158, R475): messages of the line, deadlines, and
contexts in memory. -/

namespace Sys2Proof.Machine

/-! ## The commands -/

section
variable {t : Time} {s : State} (h : (s.blk.tick t).worksBm 28 = true)
include h

theorem exec_collLineMsgRx (sel : Nat) : exec (.collLineMsgRx t sel) s = After s (Ce.lineMsgRx sel (s.blk.tick t)) := after_ce h _
theorem exec_earlyStateExpiry : exec (.earlyStateExpiry t) s = After s (Ce.earlyExpiry (s.blk.tick t)) := after_ce h _
theorem exec_digestRx (src : EdgeMsg) : exec (.digestRx t src) s = After s (Ce.digestRx src (s.blk.tick t)) := after_ce h _
theorem exec_abortRx (src : EdgeMsg) : exec (.abortRx t src) s = After s (Ce.abortRx src (s.blk.tick t)) := after_ce h _
theorem exec_digestWaitTimeout : exec (.digestWaitTimeout t) s = After s (Ce.digestTimeout (s.blk.tick t)) := after_ce h _
theorem exec_tileDeadlineExpiry : exec (.tileDeadlineExpiry t) s = After s (Ce.deadlines (s.blk.tick t)) := after_ce h _
theorem exec_tileContextPageOut : exec (.tileContextPageOut t) s = After s (Ce.pageOut (s.blk.tick t)) := after_ce h _
theorem exec_tileContextPageIn (ctx : Nat) : exec (.tileContextPageIn t ctx) s = After s (Ce.pageIn ctx (s.blk.tick t)) := after_ce h _
theorem exec_a2aPutRx (sel : Nat) : exec (.a2aPutRx t sel) s = After s (A2a.putRx sel (s.blk.tick t)) := after_ce h _
theorem exec_a2aDataRx (src : EdgeMsg) : exec (.a2aDataRx t src) s = After s (A2a.dataRx src (s.blk.tick t)) := after_ce h _
theorem exec_a2aEndRx (src : EdgeMsg) : exec (.a2aEndRx t src) s = After s (A2a.endRx src (s.blk.tick t)) := after_ce h _

end

/-! ## Messages (R145, R148, R149, R155, R157) -/

section
variable {b : Block}

/-- A partial or result that its tile can take is gone from the inbox, which keeps its data when the collective does not run yet; another
waits in staging. -/
theorem Ce.lineMsgRx_coll {sel : Nat} {x : InMsg} {m : CollMsg} (hx : b.pickIn sel InMsg.collData = some x) (hm : x.msg = .coll m) :
    Ce.lineMsgRx sel b = ((b.lineTile x m).map fun b' =>
      if b.coll (Coll.keyOf (m.job.toNat % 1024) (m.collId.toNat % 4096)) = none then b'.keepIn sel else b'.dropIn sel).getD (b.holdIn sel) := by
  unfold Ce.lineMsgRx
  simp only [hx, hm, Option.isNone_iff_eq_none]
  cases b.lineTile x m <;> rfl

variable {src : EdgeMsg} {key : Nat} {c : Coll} {m : CollMsg} {line : Bool} {who : Nat}

/-- A DIGEST is for the tree that bit 0 of its FLAGS names. -/
theorem Ce.digestRx_coll (hs : b.collSrc src 5 = some (key, c, m, line, who)) {o : Origin}
    (ho : (c.tree (m.flags.toNat % 2)).origin line who = some o) :
    Ce.digestRx src b = (b.takeSrc src 5).digestIn key c (m.flags.toNat % 2) o (m.tile.toNat % 2 ^ 24) m.aux.toNat := by
  unfold Ce.digestRx
  simp only [hs, Bits.fld_low, Nat.zero_add, pow_one, ho]

/-- An ABORT ends its collective with the status and DETAIL that it carries. -/
theorem Ce.abortRx_coll (hs : b.collSrc src 6 = some (key, c, m, line, who)) : Ce.abortRx src b =
    (b.takeSrc src 6).collFail key (m.aux.toNat % 2 ^ 16) (m.aux.toNat / 2 ^ 16 % 2 ^ 16) 0 (c.edgeOf line who) := by
  unfold Ce.abortRx
  rw [hs]

end

/-! ## Deadlines (R156, R475) -/

section
variable {b : Block} {key : Nat} {c : Coll} (hc : b.ce.colls = [(key, c)])
include hc

theorem Block.coll_of_one : b.coll key = some c := by
  unfold Block.coll
  rw [hc, AMap.get?_cons, if_pos rfl]

/-- The one collective drains past its latest deadline without a DIGEST that it awaits. -/
theorem Ce.digestTimeout_one (hd : c.state = 2) (hl : c.latest < b.now) (hm : ∃ k ∈ c.awaits, AMap.get? c.told k = none) :
    Ce.digestTimeout b = b.collFail key St.timeout 1 0 none := by
  have hmiss : (c.awaits.any fun k => (AMap.get? c.told k).isNone) = true := by simpa using hm
  unfold Ce.digestTimeout
  simp [hc, hd, hl, hmiss]

/-- The check of deadlines is that of the one collective. -/
theorem Ce.deadlines_one : Ce.deadlines b = b.collDeadline key := by
  unfold Ce.deadlines
  rw [hc]
  rfl

/-- A tile past its deadline fails LINK_DOWN when a peer that it waits on has no path, and otherwise TIMEOUT with its line class. -/
theorem Block.collDeadline_late {tile : Nat} {x : TileCtx} (hl : c.late b.now = some (tile, x)) : b.collDeadline key =
    (((b.waitsOn key c tile x).find? (b.noPath.contains ·)).map fun g =>
      (b.bump R.ceTimeoutCnt).tileFail key tile St.linkDown (g / 4096)).getD (b.tileFail key tile St.timeout (c.cls (c.treeNo tile))) := by
  unfold Block.collDeadline
  simp only [Block.coll_of_one hc, hl]
  cases (b.waitsOn key c tile x).find? (b.noPath.contains ·) <;> rfl

/-- Without a level-1 timeout a collective whose tiles are all in time goes on. -/
theorem Block.collDeadline_inTime (hl : c.late b.now = none) (hms : c.localMs = 0) : b.collDeadline key = b := by
  unfold Block.collDeadline
  simp only [Block.coll_of_one hc, hl, hms]
  exact if_neg fun h => h.1 rfl

end

/-! ## Contexts in memory (R143) -/

/-- A context that comes back from a sound home slot is on chip, and what was held for it meets it. -/
theorem Ce.pageIn_sound {b : Block} {key tile : Nat} {c : Coll} {x : TileCtx} (ht : tile < 2 ^ 24) (hc : b.coll key = some c)
    (hx : AMap.get? c.tiles tile = some x) (hp : x.paged = true) (hgood : (b.bump64 R.cePageinLo 1).rangePoison (Ce.home x.ix) 256 = false) :
    let d := b.bump64 R.cePageinLo 1
    let mine (h : PageHold) : Bool := h.key == key && h.tile == tile
    Ce.pageIn (key * 2 ^ 24 + tile) b = (d.ce.held.filter mine).foldl (fun e h => e.applyHold h)
      ((d.modTile key tile fun x => { x with paged := false, since := d.now }).onCe fun c => { c with held := c.held.filter fun h => !mine h }) := by
  have hkey : (key * 2 ^ 24 + tile) / 2 ^ 24 = key := by omega
  have htile : (key * 2 ^ 24 + tile) % 2 ^ 24 = tile := by omega
  unfold Ce.pageIn
  simp only [hkey, htile, hc, hx, hp, hgood, Option.bind_some, Option.map_some, Bool.not_true, Bool.false_eq_true, if_false]

end Sys2Proof.Machine
end

section
/-! SUPPORT. All-to-all (R152, R153): the data of contributors and of other sites, and the totals that sites announce. -/

namespace Sys2Proof.Machine

/-! ## Data from a contributor -/

section
variable {b : Block} {sel : Nat} {p : FabPkt} {c : Coll} {a : A2a} (hp : b.pickGot sel (fun p => p.opcode == 0x22#8) = some p)
  (hc : b.coll (Coll.keyOf p.job.toNat (p.addr.toNat / 2 ^ 36)) = some c) (ha : c.a2a = some a) (hr : p.srcRank.toNat ∈ c.contrib)
include hp hc ha hr

/-- Data for a rank of this site is delivered there, and noted. -/
theorem A2a.putRx_here (hs : a.siteOf p.tag.toNat = some b.site) :
    A2a.putRx sel b = ((b.dropGot sel).a2aDeliver c p.tag.toNat p.srcRank.toNat (p.addr.toNat % 2 ^ 36) p.payload).a2aNote
      (Coll.keyOf p.job.toNat (p.addr.toNat / 2 ^ 36)) b.site p := by
  unfold A2a.putRx
  simp only [hp, hc, ha, List.contains_iff_mem.2 hr, hs, Option.bind_some, Option.map_some, if_true]

/-- Data for a rank of another site is sent there and noted, or waits when it cannot be. -/
theorem A2a.putRx_away {site : Nat} (hs : a.siteOf p.tag.toNat = some site) (hne : site ≠ b.site) :
    let key := Coll.keyOf p.job.toNat (p.addr.toNat / 2 ^ 36)
    A2a.putRx sel b =
      ((b.a2aSend key c (a.route.getD site 0) p.tag.toNat p.srcRank.toNat (p.addr.toNat % 2 ^ 36) p.payload none).map fun d =>
        ((d.dropGot sel).count c.job 1 17 p.payload.length).a2aNote key site p).getD (b.a2aDecline c p.payload.length) := by
  unfold A2a.putRx
  simp only [hp, hc, ha, List.contains_iff_mem.2 hr, hs, Option.bind_some, Option.map_some, if_true, if_neg hne]
  split <;> rename_i hsent <;> rw [hsent] <;> rfl

end

/-! ## Data from another site -/

section
variable {b : Block} {src : EdgeMsg} {key : Nat} {c : Coll} {m : CollMsg} {line : Bool} {who : Nat} {a : A2a} (ha : c.a2a = some a)
include ha

section
variable (hm : b.collSrc src 3 = some (key, c, m, line, who))
include hm

/-- Data for a rank of this site is delivered there, and counted under the site that it comes from. -/
theorem A2a.dataRx_here {o : Nat} (hs : a.siteOf (m.aux.toNat % 2 ^ 24) = some b.site) (ho : a.siteOf (m.aux.toNat / 2 ^ 24 % 2 ^ 24) = some o) :
    A2a.dataRx src b = ((b.takeSrc src 3).a2aDeliver c (m.aux.toNat % 2 ^ 24) (m.aux.toNat / 2 ^ 24 % 2 ^ 24)
      (m.tile.toNat + m.elems.toNat * 2 ^ 32) m.body).modA2a key
        fun a => { a with got := AMap.set a.got o (AMap.getD a.got o 0 + m.body.length) } := by
  unfold A2a.dataRx
  simp only [hm, ha, hs, ho, Option.bind_some, Option.map_some, if_true]

/-- Data for a rank of another site goes on to it, or waits when it cannot. -/
theorem A2a.dataRx_away {site : Nat} (hs : a.siteOf (m.aux.toNat % 2 ^ 24) = some site) (hne : site ≠ b.site) :
    A2a.dataRx src b =
      ((b.a2aSend key c (a.route.getD site 0) (m.aux.toNat % 2 ^ 24) (m.aux.toNat / 2 ^ 24 % 2 ^ 24) (m.tile.toNat + m.elems.toNat * 2 ^ 32) m.body
        (b.srcBuf src)).map (Block.keepSrc src)).getD ((b.holdSrc src).a2aDecline c m.body.length) := by
  unfold A2a.dataRx
  simp only [hm, ha, hs, Option.bind_some, Option.map_some, if_neg hne]
  split <;> rename_i hsent <;> rw [hsent] <;> rfl

end

/-- The total that a site announces to this one is kept; one for another site goes on to it, with ORIGIN unchanged. -/
theorem A2a.endRx_total (hm : b.collSrc src 4 = some (key, c, m, line, who)) :
    let d := b.takeSrc src 4
    let site := m.tile.toNat % 16
    let edge := a.route.getD site 0
    A2a.endRx src b = if site = d.site then d.modA2a key fun a => { a with told := AMap.set a.told (m.origin.toNat / 4096) m.aux.toNat }
      else d.a2aEndSend c edge { d.collMsg c 4 0 edge site 0 m.aux.toNat [] with origin := m.origin } := by
  unfold A2a.endRx
  simp only [hm, ha, Option.map_some, Option.getD_some]

end

/-! ## The statement -/

/-- Settles O40: each command leaves what its effect leaves, and the message, its collective and the clock choose what that is. -/
theorem collectiveEventsAndAllToAll : Obligations.CollectiveEventsAndAllToAll := by
  unfold Obligations.CollectiveEventsAndAllToAll
  refine ⟨⟨?msg, ?early, ?control, ?digestWait, ?deadline, ?pageOut, ?pageIn⟩, ?put, ?data, ?total⟩
  case msg =>
    intro t sel x m s b hw hx hm
    rw [exec_collLineMsgRx hw, Ce.lineMsgRx_coll hx hm]
    exact ⟨fun b' hmeets => by rw [hmeets]; rfl, fun hwaits => by rw [hwaits]; rfl⟩
  case early =>
    intro t s b due gone hw
    rw [exec_earlyStateExpiry hw]
    rfl
  case control =>
    intro t src key c m line who s b k hw
    refine ⟨fun o hs ho => ?_, fun hs => ?_⟩
    · rw [exec_digestRx hw, Ce.digestRx_coll hs ho]
    · rw [exec_abortRx hw, Ce.abortRx_coll hs]
  case digestWait =>
    intro t key c s b hw hc hd hl hm
    rw [exec_digestWaitTimeout hw, Ce.digestTimeout_one hc hd hl hm]
  case deadline =>
    intro t key c s b hw hc
    rw [exec_tileDeadlineExpiry hw, Ce.deadlines_one hc]
    refine ⟨fun tile x hl hpath => ?_, fun tile x g hl hpath => ?_, fun hl hms => ?_⟩
    · have hfind : (b.waitsOn key c tile x).find? (b.noPath.contains ·) = none := by simpa using hpath
      rw [Block.collDeadline_late hc hl, hfind]
      rfl
    · rw [Block.collDeadline_late hc hl, hpath]
      rfl
    · rw [Block.collDeadline_inTime hc hl hms]
  case pageOut =>
    intro t s b hw
    rw [exec_tileContextPageOut hw, Ce.pageOut]
    refine ⟨fun hnone => ?_, fun since key tile hone habove => ?_⟩
    · rw [hnone, List.take_nil]
      rfl
    · rw [hone, List.take_of_length_le (Nat.sub_pos_of_lt habove)]
      rfl
  case pageIn =>
    intro t key tile c x s b d mine hw ht hc hx hp hgood
    rw [exec_tileContextPageIn hw, Ce.pageIn_sound ht hc hx hp hgood]
  case put =>
    intro t sel p c a s b key hw hp hc ha hr
    rw [exec_a2aPutRx hw]
    refine ⟨fun hs => ?_, fun site hs hne => ?_⟩
    · rw [A2a.putRx_here hp hc ha hr hs]
    · rw [A2a.putRx_away hp hc ha hr hs hne]
      exact ⟨fun d hsent => by rw [hsent]; rfl, fun hsent => by rw [hsent]; rfl⟩
  case data =>
    intro t src key c m line who a s b off dst from_ hw hm ha
    rw [exec_a2aDataRx hw]
    refine ⟨fun o hs ho => ?_, fun site hs hne => ?_⟩
    · rw [A2a.dataRx_here ha hm hs ho]
    · rw [A2a.dataRx_away ha hm hs hne]
      exact ⟨fun d hsent => by rw [hsent]; rfl, fun hsent => by rw [hsent]; rfl⟩
  case total =>
    intro t src key c m line who a s b d site edge hw hm ha
    rw [exec_a2aEndRx hw, A2a.endRx_total ha hm]
    exact ⟨fun hs => by rw [if_pos hs], fun hs => by rw [if_neg hs]⟩

end Sys2Proof.Machine
end

section
/-! SUPPORT. The lanes of the CX at work (R205, R207, R210, R211, R213, R214, R392): the draught pass, the end of a stream, and decoding. -/

namespace Sys2Proof.Machine

/-! ## The commands -/

/-- While the CX and the BM work, a command of the CX leaves what its effect leaves. -/
theorem after_cx {t : Time} {s : State} (h : (s.blk.tick t).worksBm 29 = true) (f : Block → Block) :
    (Host.Outcome.next (s.run t fun b => b.whenBufs 29 f) : Host.Outcome State Fault Refusal) = After s (f (s.blk.tick t)) := by
  rw [after_run, Block.whenBufs_of h]

/-- A command of a lane that exists acts as the other commands of the CX do. -/
theorem after_cxLane {t : Time} {s : State} (h : (s.blk.tick t).worksBm 29 = true) {l : Nat} (hl : l < 32) (f : Block → Block) :
    (Host.Outcome.next (s.run t fun b => if l < 32 then b.whenBufs 29 f else b) : Host.Outcome State Fault Refusal) =
      After s (f (s.blk.tick t)) := by
  rw [after_run, if_pos hl, Block.whenBufs_of h]

section
variable {t : Time} {s : State} (h : (s.blk.tick t).worksBm 29 = true) {l : Nat}
include h

theorem exec_cxDraughtStart (hl : l < 32) : exec (.cxDraughtStart t l) s = After s (Cx.draughtStart l (s.blk.tick t)) := after_cxLane h hl _
theorem exec_cxStreamDone (hl : l < 32) : exec (.cxStreamDone t l) s = After s (Cx.streamDone l (s.blk.tick t)) := after_cxLane h hl _
theorem exec_cxDecodeAccept : exec (.cxDecodeAccept t) s = After s (Cx.decodeAccept (s.blk.tick t)) := after_cx h _
theorem exec_cxDecodeDone (hl : l < 32) : exec (.cxDecodeDone t l) s = After s (Cx.decodeDone l (s.blk.tick t)) := after_cxLane h hl _

end

/-! ## Compressor lanes (R205, R207, R214, R392) -/

section
variable {b : Block} {l h : Nat} {x : CxIn}

/-- The head of a queue, of a job that may use the CX, enters the draught pass with its buffer, unless the lane is full or there is no buffer. -/
theorem Cx.draughtStart_head {rest : List CxIn} (hq : (b.lane l).queue = x :: rest) (hgo : b.engStopped x.job 4 = false) :
    Cx.draughtStart l b = if 3 ≤ (b.lane l).busy.length then b else
      ((b.takeQueued (Cx.outBytes x.raw.length) (Own.of x.job 4) (b.cxQueue x) (x.hdr.ckind != 3#8)).map fun e =>
        e.1.setLane l ⟨rest, (b.lane l).busy ++ [(x, e.2)]⟩).getD b := by
  have hfirst : (x :: rest).findIdx? (fun s => !b.engStopped s.job 4) = some 0 := by simp [List.findIdx?_cons, hgo]
  have hleft : Bits.removeAt (x :: rest) 0 = rest := rfl
  unfold Cx.draughtStart
  simp only [hq, hfirst, hleft, List.getElem?_cons_zero]
  split
  · rfl
  · split <;> rename_i htake <;> rw [htake] <;> rfl

/-- The oldest stream of a lane leaves it: it is sent on, or fails its owner when its input is poison. -/
theorem Cx.streamDone_oldest {rest : List (CxIn × Nat)} (hb : (b.lane l).busy = (x, h) :: rest) :
    let c := b.setLane l ⟨(b.lane l).queue, rest⟩
    Cx.streamDone l b = if x.buf.any c.bufPoison then
      ((((((c.dropOwner h (Own.of x.job 4)).freeOut x.buf x.job 4).bump R.cxInPoison).bump (R.cxDecErr 9)).cxTrace 3 x.job
        (x.hdr.collId.toNat % 4096) l 10 c.gw).cxFail x) else c.cxSend x h := by
  unfold Cx.streamDone
  simp only [hb]

end

/-! ## Decompressor lanes (R210, R211, R213, R392) -/

section
variable {b : Block} {g : CxSeg} {m : CollMsg}

/-- The first waiting stream, of those whose job may use the CX, is accepted by the lane with the fewest bytes, when it fits there and its
buffer is free. -/
theorem Cx.decodeAccept_first {k ix h : Nat} {rest : List Nat} {c : Block}
    (hk : (b.cx.segs.find? fun e => !e.2.wait.isEmpty && !b.decStopped e.2) = some (k, g)) (hw : g.wait = ix :: rest) (hm : g.msg ix = some m)
    (hfit : b.decBytes b.decLane + m.body.length ≤ b.fld R.cxDqlimit 10 0 * 1024)
    (hbuf : b.takeBuf (max 1 (min 49152 (Stream.total m.body))) (Own.of (m.job.toNat % 1024) 4) = some (c, h)) :
    Cx.decodeAccept b = c.onCx fun x => { x with
      dec := AMap.set x.dec b.decLane (AMap.getD x.dec b.decLane [] ++ [⟨k, ix, m.body.length, h⟩])
      segs := AMap.set x.segs k { g with wait := rest, busy := g.busy ++ [ix], bufs := AMap.set g.bufs ix (h, m.job.toNat % 1024) } } := by
  unfold Cx.decodeAccept
  simp only [hk, hw, hm, if_neg (Nat.not_lt.2 hfit), hbuf]

/-- The oldest stream of a lane leaves it and is decoded. -/
theorem Cx.decodeDone_oldest {l : Nat} {d : CxDec} {rest : List CxDec} (hd : AMap.getD b.cx.dec l [] = d :: rest)
    (hg : AMap.get? b.cx.segs d.seg = some g) (hm : g.msg d.ix = some m) :
    Cx.decodeDone l b = (b.onCx fun c => { c with dec := AMap.set c.dec l rest }).cxDecoded l d g m := by
  unfold Cx.decodeDone
  simp only [hd, Block.onCx_cx, hg, hm, Option.bind_some, Option.map_some]

end

/-! ## The statement -/

/-- Settles O41: each command leaves what its effect leaves, and the stream whose turn it is at its lane chooses what that is. -/
theorem compressionRuns : Obligations.CompressionRuns := by
  unfold Obligations.CompressionRuns
  refine ⟨?draught, ?done, ?accept, ?decode⟩
  case draught =>
    intro t l h x rest c s b hw hl hq hgo
    rw [exec_cxDraughtStart hw hl, Cx.draughtStart_head hq hgo]
    refine ⟨fun hroom htake => ?_, fun hfull => ?_⟩
    · rw [if_neg (Nat.not_le.2 hroom), htake]
      rfl
    · rw [if_pos hfull]
  case done =>
    intro t l h x rest s b c hw hl hb
    rw [exec_cxStreamDone hw hl, Cx.streamDone_oldest hb]
    exact ⟨fun hgood => by rw [if_neg (Bool.eq_false_iff.1 hgood)], fun hpoison => by rw [if_pos hpoison]⟩
  case accept =>
    intro t k h ix rest g m c s b l job hw hk hwait hm hfit hbuf
    rw [exec_cxDecodeAccept hw, Cx.decodeAccept_first hk hwait hm hfit hbuf]
  case decode =>
    intro t l d rest g m s b hw hl hd hg hm
    rw [exec_cxDecodeDone hw hl, Cx.decodeDone_oldest hd hg hm]

end Sys2Proof.Machine
end

section
/-! SUPPORT. What a line port receives and sends (R218, R222, R223, R225 to R228, R237, R290): the units of its cells, transport control, and
the group frames of native mode. -/

namespace Sys2Proof.Machine

/-! ## The commands -/

/-- An effect that changes nothing changes nothing, whether or not its engine works. -/
theorem Block.whenBufs_idle {m : Nat} {b : Block} {f : Block → Block} (h : f b = b) : b.whenBufs m f = b := by
  have hw : b.whenWorks m f = b := by
    unfold Block.whenWorks
    rw [h, ite_self]
  unfold Block.whenBufs
  simp only [hw, bne_self_eq_false, Bool.and_false, Bool.false_eq_true, if_false]

/-- SEGMENT_RX that finds nothing to do, on any line port and in any state of the TE. -/
theorem exec_segmentRx_idle {t : Time} {p : Nat} {s : State} (h : Te.segmentRx p (s.blk.tick t) = s.blk.tick t) :
    exec (.segmentRx t p ()) s = After s (s.blk.tick t) := by
  refine (after_run s t _).trans (congrArg (After s) ?_)
  rw [Block.whenBufs_idle h, ite_self]

section
variable {t : Time} {s : State} (h : (s.blk.tick t).worksBm 31 = true) {p : Nat} (hp : p < 2)
include h hp

theorem exec_segmentRx : exec (.segmentRx t p ()) s = After s (Te.segmentRx p (s.blk.tick t)) := after_tePort h hp _
theorem exec_transportControlRx : exec (.transportControlRx t p ()) s = After s (Te.controlRx p (s.blk.tick t)) := after_tePort h hp _

end

/-- While the LF of its port works, a group frame is sent as its effect says. -/
theorem exec_groupFrameTx {t : Time} {s : State} {x : GroupTx} (h : (s.blk.tick t).works (33 + x.port) = true) (hp : x.port < 2) :
    exec (.groupFrameTx t x) s = After s (Lf.frameTx x (s.blk.tick t)) :=
  (after_run s t _).trans (congrArg (After s) (Block.whenLf_of hp h _))

/-! ## The place of a port in its units (R218, R225, R226) -/

/-- What a change of a line port leaves there. -/
@[simp] theorem Block.tp_modTp_self (p : Nat) (f : TePort → TePort) (b : Block) : (b.modTp p f).tp p = f (b.tp p) := by
  unfold Block.tp Block.modTp AMap.getD
  rw [AMap.get?_set_self]
  rfl

section
variable {b : Block} {p : Nat}

/-- A port that is neither UP nor SHRUNK takes no units. -/
theorem Te.segmentRx_down (hl : b.lineUp p = false) : Te.segmentRx p b = b := by
  have hstop : (!b.lineUp p || b.locked) = true := by rw [hl]; rfl
  exact if_pos hstop

/-- With no cells there is no unit. -/
theorem Te.unitIn_nil (hc : (b.tp p).cells = []) : Te.unitIn p b = b := by
  unfold Te.unitIn
  rw [hc]

section
variable (hl : b.lineUp p = true) (hk : b.locked = false)
include hl hk

/-- A receiver that hunts discards the cells that no FIRST_CELL names; when that is all of them, it hunts on. -/
theorem Te.segmentRx_hunting (hh : (b.tp p).hunting = true) (hf : (Te.toFirst (b.tp p).cells).2 = []) :
    Te.segmentRx p b = (b.huntCells p (Te.toFirst (b.tp p).cells).1).modTp p fun x => { x with cells := [], hunting := true } := by
  have hgo : (!b.lineUp p || b.locked) = false := by rw [hl, hk]; rfl
  unfold Te.segmentRx
  simp only [hgo, hh, hf, Bool.false_eq_true, if_false, if_true, List.isEmpty_nil]
  exact Te.unitIn_nil (by rw [Block.tp_modTp_self])

/-- A receiver that has its place takes the next unit. -/
theorem Te.segmentRx_placed (hh : (b.tp p).hunting = false) : Te.segmentRx p b = Te.unitIn p b := by
  have hgo : (!b.lineUp p || b.locked) = false := by rw [hl, hk]; rfl
  unfold Te.segmentRx
  simp only [hgo, hh, Bool.false_eq_true, if_false]

end

/-! ## The next unit (R218, R225) -/

/-- A break in the cells makes the TE hunt. -/
theorem Te.unitIn_break {rest : List LineItem} (hc : (b.tp p).cells = .brk :: rest) :
    Te.unitIn p b = (b.modTp p fun x => { x with cells := rest }).hunt p 0 := by
  unfold Te.unitIn
  rw [hc]

section
variable {bs : List Byte} {f : Bool} {rest : List LineItem} (hc : (b.tp p).cells = .cell bs f :: rest)
include hc

/-- A cell of zero bytes is filler. -/
theorem Te.unitIn_filler (hz : ∀ x ∈ bs, x = 0#8) : Te.unitIn p b = b.dropCells p 1 := by
  have hall : bs.all (· == 0#8) = true := by simpa using hz
  unfold Te.unitIn
  simp only [hc, hall, if_true]

section
variable (hz : ∃ x ∈ bs, x ≠ 0#8)
include hz

/-- A cell that begins as filler and does not go on so is no unit. -/
theorem Te.unitIn_badFiller (h0 : bs.head? = some 0#8) : Te.unitIn p b = (b.dropCells p 1).hunt p 1 := by
  have hall : bs.all (· == 0#8) = false := by simpa using hz
  unfold Te.unitIn
  simp only [hc, hall, h0, Bool.false_eq_true, if_false, if_true]

variable (h0 : bs.head? ≠ some 0#8) {hd : List Byte} (hu : Te.unit 2 (b.tp p).cells = some hd)
include h0 hu

/-- The header of a segment has come: a bad one is counted, and the TE hunts; a good one says how many cells the segment has. -/
theorem Te.unitIn_header : Te.unitIn p b =
    if Crc.crc32c (Seg.parse hd).head ≠ (Seg.parse hd).hdrCrc ∨ ¬Te.headOk (Seg.parse hd) then
      ((b.bump (R.tePHdrErr p)).dropCells p 1).hunt p 1
    else Te.segmentOf p (Seg.cellsOf (Seg.parse hd).bodyLen.toNat) b := by
  have hall : bs.all (· == 0#8) = false := by simpa using hz
  rw [hc] at hu
  unfold Te.unitIn
  simp only [hc, hall, h0, hu, Bool.false_eq_true, if_false]

theorem Te.unitIn_badHeader (hbad : Crc.crc32c (Seg.parse hd).head ≠ (Seg.parse hd).hdrCrc ∨ Te.headOk (Seg.parse hd) = false) :
    Te.unitIn p b = ((b.bump (R.tePHdrErr p)).dropCells p 1).hunt p 1 := by
  rw [Te.unitIn_header hc hz h0 hu, if_pos (hbad.imp_right Bool.eq_false_iff.1)]

theorem Te.unitIn_segment (hcrc : Crc.crc32c (Seg.parse hd).head = (Seg.parse hd).hdrCrc) (hok : Te.headOk (Seg.parse hd) = true) :
    Te.unitIn p b = Te.segmentOf p (Seg.cellsOf (Seg.parse hd).bodyLen.toNat) b := by
  rw [Te.unitIn_header hc hz h0 hu, if_neg (not_or.2 ⟨not_not.2 hcrc, not_not.2 hok⟩)]

end

end

/-! ## A segment whose cells have all come (R225, R227, R228, R237) -/

/-- A segment of this session is checked, one of another is counted and discarded. -/
theorem Te.segmentOf_come {n : Nat} {unit : List Byte} (hu : Te.unit n (b.tp p).cells = some unit) :
    Te.segmentOf p n b = if (Seg.parse unit).epoch.toNat ≠ ((b.dropCells p n).tp p).rxEpoch then (b.dropCells p n).bump (R.tePHdrErr p)
      else Te.segmentIn p (Seg.parse unit) (b.dropCells p n) := by
  unfold Te.segmentOf
  simp only [hu]

section
variable {g : Seg}

/-- A corrupt body is counted and answered by a NAK. -/
theorem Te.segmentIn_corrupt (hcrc : Crc.crc32c g.body ≠ g.bodyCrc) : Te.segmentIn p g b =
    ((b.segArrive p g).bump (R.tePBodyErr p)).nakSeg p 2 1 0 (g.tryNo.toNat % 16) g.seq.toNat := if_pos hcrc

section
variable (hcrc : Crc.crc32c g.body = g.bodyCrc) (hre : g.retx = true)
  (hlow : Te.lt g.seq.toNat ((b.segArrive p g).tp p).rxCum = false)
include hcrc hre hlow

/-- A good retransmission, which needs no credit, of a SEQ that has not been accepted waits to be opened. -/
theorem Te.segmentIn_new (hfo : g.fo = false) (hnew : g.seq.toNat ∉ ((b.segArrive p g).tp p).acc) :
    Te.segmentIn p g b = (b.segArrive p g).onTe fun t => { t with opening := t.opening ++ [(p, g)] } := by
  have hacc : ((b.segArrive p g).tp p).acc.contains g.seq.toNat = false := by simpa using hnew
  unfold Te.segmentIn
  simp only [hcrc, hre, hfo, hlow, hacc, ne_eq, not_true_eq_false, Bool.not_true, Bool.false_and, Bool.or_self, Bool.false_eq_true, if_false]

/-- A retransmission of a SEQ that has been accepted is a duplicate, and marked again. -/
theorem Te.segmentIn_duplicate (hacc : g.seq.toNat ∈ ((b.segArrive p g).tp p).acc) :
    Te.segmentIn p g b = ((b.segArrive p g).bump (R.tePRxDup p)).rxMark p g := by
  have hin : ((b.segArrive p g).tp p).acc.contains g.seq.toNat = true := by simpa using hacc
  have hdup : ((b.segArrive p g).tp p).accepted g.seq.toNat = true := by
    unfold TePort.accepted
    rw [hlow, hin]
    rfl
  unfold Te.segmentIn
  simp only [hcrc, hre, hlow, hin, hdup, ne_eq, not_true_eq_false, Bool.not_true, Bool.false_and, Bool.false_or, Bool.false_eq_true, if_false,
    if_true]

end

end

/-! ## Transport control (R223) -/

/-- The next transport control of a lit port is counted when its TC_CRC is bad, and else applied. -/
theorem Te.controlRx_next {bs : List Byte} {rest : List (List Byte)} (hl : b.lfState p ≠ 0) (hk : b.locked = false)
    (ht : (b.tp p).tcs = bs :: rest) : Te.controlRx p b =
      let c := b.modTp p fun x => { x with tcs := rest }
      if TC.crcOk bs then Te.controlIn p (TC.parse bs) c else c.bump (R.tePTcErr p) := by
  unfold Te.controlRx
  simp only [hl, hk, ht, Bool.false_eq_true, or_self, if_false]

/-- Transport control of another version shows VER_BAD. -/
theorem Te.controlIn_version {tc : TC} (hv : tc.version ≠ 1#8) : Te.controlIn p tc b = b.modTp p fun x => { x with verBad := true } := if_pos hv

/-- Transport control of this version acts in its order, and its control slot, when it holds one, waits for the CC. -/
theorem Te.controlIn_acts {tc : TC} (hv : tc.version = 1#8) : Te.controlIn p tc b =
    let d := ((((b.tcSession p tc).tcTimes p tc).tcAcks p tc).rxSkip p (tc.sndLow.toNat % 2 ^ 48)).tcCredits p tc
    if tc.ctrl.channel = 0#8 then d else d.onCc fun c => { c with slots := c.slots ++ [(p, tc.sender.toNat, tc.ctrl)] } :=
  if_neg (not_not.2 hv)

/-! ## Group frames (R218, R222, R290) -/

/-- While the TE is not frozen it takes the management messages that it is given, and then the group frame is sent. -/
theorem Lf.frameTx_takes {x : GroupTx} (hf : b.frozen 31 = false) :
    Lf.frameTx x b = Lf.groupTx x.port (if x.mgmt = [] then b else Te.mgmtIn x.port x.mgmt b) := by
  unfold Lf.frameTx
  simp only [hf, Bool.or_false, List.isEmpty_iff]

/-- A dark port, or one whose group frame has been sent since the last boundary, sends none. -/
theorem Lf.groupTx_none (h : b.lfState p = 0 ∨ (b.lp p).sent = true) : Lf.groupTx p b = b := if_pos h

/-- In native mode a group frame carries the transport control of its members and the cells of the TE. -/
theorem Lf.groupTx_native {tcs : List TC} {cells : List Byte} {d : Block} (hl : b.lfState p ≠ 0) (hs : (b.lp p).sent = false)
    (hf : (Lf.pageSwitch p b).frozen 31 = false) (ho : Te.groupOut p (Lf.pageSwitch p b) = (tcs, cells, d))
    (hn : d.bit (R.lfStat p) 5 = false) : Lf.groupTx p b =
      (((d.framesOut p ((List.range 32).map fun m => d.memFrame p m ((tcs[m]?.map TC.bytes).getD (List.replicate 512 0#8))
        ((d.payloads p (d.thruByte p 0) 32 0 cells).getD m []))).modLp p fun x => { x with sent := true }).release p).lfRegs p := by
  unfold Lf.groupTx
  simp only [hl, hs, hf, ho, hn, Bool.false_eq_true, or_self, if_false]

end

/-! ## The statement -/

/-- Settles O44: each command leaves what its effect leaves, and the next cells, the next transport control and the frame to be sent choose
what that is. -/
theorem lineReceive : Obligations.LineReceive := by
  unfold Obligations.LineReceive
  refine ⟨?down, ?units, ?control, ?frame⟩
  case down =>
    intro t p s b hl
    exact exec_segmentRx_idle (Te.segmentRx_down hl)
  case units =>
    intro t p s b cs hw hp hl hk
    rw [exec_segmentRx hw hp]
    refine ⟨fun hh hf => by rw [Te.segmentRx_hunting hl hk hh hf], fun hh => ?_⟩
    rw [Te.segmentRx_placed hl hk hh]
    refine ⟨fun hc => by rw [Te.unitIn_nil hc], fun rest hc => by rw [Te.unitIn_break hc], fun bs f rest hc => ?_⟩
    refine ⟨fun hz => by rw [Te.unitIn_filler hc hz], fun hz h0 => by rw [Te.unitIn_badFiller hc hz h0], fun hd h0 hz hu => ?_⟩
    refine ⟨fun hbad => by rw [Te.unitIn_badHeader hc hz h0 hu hbad], fun unit hcrc hok hun => ?_⟩
    rw [Te.unitIn_segment hc hz h0 hu hcrc hok, Te.segmentOf_come hun]
    refine ⟨fun he => by rw [if_pos he], fun he => ?_⟩
    rw [if_neg (not_not.2 he)]
    refine ⟨fun hbody => by rw [Te.segmentIn_corrupt hbody], fun hbody hre hfo hlow hnew => ?_, fun hbody hre hacc hlow => ?_⟩
    · rw [Te.segmentIn_new hbody hre hlow hfo hnew]
    · rw [Te.segmentIn_duplicate hbody hre hlow hacc]
  case control =>
    intro t p bs rest s b c tc hw hp hl hk ht
    rw [exec_transportControlRx hw hp, Te.controlRx_next hl hk ht]
    refine ⟨fun hcrc => ?_, fun hcrc hv => ?_, fun hcrc hv => ?_⟩
    · rw [hcrc]
      rfl
    · rw [if_pos hcrc, Te.controlIn_version hv]
    · rw [if_pos hcrc, Te.controlIn_acts hv]
      exact ⟨fun hch => by rw [if_pos hch], fun hch => by rw [if_neg hch]⟩
  case frame =>
    intro t x tcs cells d s b p c hw hp hf
    rw [exec_groupFrameTx hw hp, Lf.frameTx_takes hf]
    exact ⟨fun hnone => by rw [Lf.groupTx_none hnone], fun hl hs hf' ho hn => by rw [Lf.groupTx_native hl hs hf' ho hn]⟩

end Sys2Proof.Machine
end

section
/-! SUPPORT. The guarantees of the scheduler (R264, R267, R268, R270, R272): what JOB_RATE sets and refuses, the refill of the buckets, and the
scale factor. -/

namespace Sys2Proof.Machine

/-! ## The commands -/

theorem exec_jobRate {t : Time} {r : Req} {s : State} {b : Block} {id : Nat} (h : Starts 0x0205 r t s b id) :
    exec (.jobRate t r) s = After s (Ss.jobRate id r b) := cmd_runs h _

/-- While the SS and the BM work, a command of the SS leaves what its effect leaves. -/
theorem after_ss {t : Time} {s : State} (h : (s.blk.tick t).worksBm 32 = true) (f : Block → Block) :
    (Host.Outcome.next (s.run t fun b => b.whenBufs 32 f) : Host.Outcome State Fault Refusal) = After s (f (s.blk.tick t)) := by
  rw [after_run, Block.whenBufs_of h]

section
variable {t : Time} {s : State} (h : (s.blk.tick t).worksBm 32 = true)
include h

theorem exec_bucketRefill : exec (.bucketRefill t) s = After s (Ss.refill (s.blk.tick t)) := after_ss h _
theorem exec_scaleFactorUpdate : exec (.scaleFactorUpdate t) s = After s (Ss.scaleUpdate (s.blk.tick t)) := after_ss h _

end

/-! ## JOB_RATE (R267, R268) -/

/-- The aggregate that a JOB_RATE names. -/
abbrev Ss.rateAgg (r : Req) (b : Block) : Nat := 8 * b.cmdJob r + r.a2 % 8

/-- The block in which a JOB_RATE with QW 0 has set every field of its aggregate. -/
def Ss.rated (r : Req) (b : Block) : Block :=
  b.modAgg (Ss.rateAgg r b) fun x => { x with
    rate := r.u 32 4, burst := r.u 36 4, weight := r.u 40 4, ovh := Bits.toInt 16 (r.u 44 2), memf := r.u 46 2 }

/-- A JOB_RATE raises RATE or MEMF: only then does R268 check it. -/
abbrev Ss.rateRises (r : Req) (b : Block) : Prop :=
  (b.agg (Ss.rateAgg r b)).rate < r.u 32 4 ∨ (b.agg (Ss.rateAgg r b)).memf < r.u 46 2

/-- With it admitted, the sum of its peer slot would pass the line share (R268 check 1). -/
abbrev Ss.lineOver (r : Req) (b : Block) : Prop :=
  6400000 * (b.slotPorts (Ss.slotOf (Ss.rateAgg r b))).length * b.ss.force.line < 100 * (Ss.rated r b).admitSum (Ss.slotOf (Ss.rateAgg r b))

/-- With it admitted, the memory sum would pass the memory share (R268 check 2). -/
abbrev Ss.memOver (r : Req) (b : Block) : Prop := 128000 * b.ss.force.mem < (Ss.rated r b).admitMem

section
variable {t : Time} {r : Req} {s : State} {b : Block} {id : Nat} (hs : Starts 0x0205 r t s b id) (hok : Req.firstBad (Ss.rateBad b r) = none)
include hs hok

/-- With QW 1 the weight of one queue is set, and its start tag kept. -/
theorem Ss.jobRate_queue (hq : Bits.bit r.a2 31 = true) : Ss.jobRate id r b =
    (b.onSs fun s => { s with
      qw := AMap.set s.qw (64 * Ss.rateAgg r b + Bits.fld r.a2 13 8) (r.u 40 4, (b.qw (64 * Ss.rateAgg r b + Bits.fld r.a2 13 8)).2) }).ok id 0 := by
  unfold Ss.jobRate
  rw [Ci.check8_starts hs hok, if_pos hq]
  rfl

variable (hq : Bits.bit r.a2 31 = false)
include hq

/-- With QW 0 the two checks of R268 stand before the new fields, the line first. -/
theorem Ss.jobRate_agg :
    Ss.jobRate id r b =
      if Ss.rateRises r b ∧ Ss.lineOver r b then (b.bump R.ssRefuseCnt).done id St.overcommit 1
      else if Ss.rateRises r b ∧ Ss.memOver r b then (b.bump R.ssRefuseCnt).done id St.overcommit 2
      else (Ss.scaleUpdate (Ss.rated r b)).complete id
        ⟨St.ok, 0, 0, r.u 32 4, r.u 32 4 * (Ss.scaleUpdate (Ss.rated r b)).ss.f / 65536⟩ := by
  unfold Ss.jobRate
  rw [Ci.check8_starts hs hok, if_neg (Bool.eq_false_iff.1 hq)]
  simp only [Bool.and_eq_true, Bool.or_eq_true, decide_eq_true_eq]
  rfl

theorem Ss.jobRate_lineOver (hr : Ss.rateRises r b) (hl : Ss.lineOver r b) :
    Ss.jobRate id r b = (b.bump R.ssRefuseCnt).done id St.overcommit 1 := by
  rw [Ss.jobRate_agg hs hok hq, if_pos ⟨hr, hl⟩]

theorem Ss.jobRate_memOver (hr : Ss.rateRises r b) (hl : ¬Ss.lineOver r b) (hm : Ss.memOver r b) :
    Ss.jobRate id r b = (b.bump R.ssRefuseCnt).done id St.overcommit 2 := by
  rw [Ss.jobRate_agg hs hok hq, if_neg fun h => hl h.2, if_pos ⟨hr, hm⟩]

theorem Ss.jobRate_admitted (h : ¬Ss.rateRises r b ∨ (¬Ss.lineOver r b ∧ ¬Ss.memOver r b)) :
    Ss.jobRate id r b = (Ss.scaleUpdate (Ss.rated r b)).complete id
      ⟨St.ok, 0, 0, r.u 32 4, r.u 32 4 * (Ss.scaleUpdate (Ss.rated r b)).ss.f / 65536⟩ := by
  have hline : ¬(Ss.rateRises r b ∧ Ss.lineOver r b) := fun ⟨hr, hl⟩ => h.elim (· hr) (·.1 hl)
  have hmem : ¬(Ss.rateRises r b ∧ Ss.memOver r b) := fun ⟨hr, hm⟩ => h.elim (· hr) (·.2 hm)
  rw [Ss.jobRate_agg hs hok hq, if_neg hline, if_neg hmem]

end

/-! ## The refill of the buckets (R264, R272) -/

/-- The SS registers that a refill brings into force, one entry of each list per port. -/
theorem Block.ssRegs_eq (b : Block) : b.ssRegs =
    ⟨b.fld R.ssAdmitLine 6 0, b.fld R.ssAdmitMem 13 0, b.fld R.ssQlimit 18 0, [0, 1].map fun p => b.fld (R.ssPRate p) 22 0,
      [0, 1].map fun p => b.fld (R.ssPBurst p) 18 0, [0, 1].map fun p => Bits.toInt 11 (b.fld (R.ssPOvh p) 10 0),
      [0, 1].map fun p => b.fld (R.ssPC1Rate p) 22 0, [0, 1].map fun p => b.fld (R.ssPC1Burst p) 18 0⟩ := rfl

/-- The bucket of each port is filled at the port's own rate, up to the port's own burst. -/
theorem Ss.fill_ports (tok : List Int) (rate burst : Nat → Nat) :
    ([0, 1].map fun p => Ss.fill (tok.getD p 0) (([0, 1].map rate).getD p 0) (([0, 1].map burst).getD p 0)) =
      [0, 1].map fun p => Ss.fill (tok.getD p 0) (rate p) (burst p) := by
  simp only [List.map_cons, List.map_nil, List.getD_cons_zero, List.getD_cons_succ]

/-- What a refill leaves: the registers in force, and every bucket filled at the rate that comes into force with it. -/
theorem Ss.refill_eq (b : Block) : Ss.refill b =
    let c := (b.countStalls 0).countStalls 1
    c.onSs fun s => { s with
      force := c.ssRegs
      port := [0, 1].map fun p => Ss.fill (s.port.getD p 0) (c.fld (R.ssPRate p) 22 0) (c.fld (R.ssPBurst p) 18 0)
      c1 := [0, 1].map fun p => Ss.fill (s.c1.getD p 0) (c.fld (R.ssPC1Rate p) 22 0) (c.fld (R.ssPC1Burst p) 18 0)
      aggs := s.aggs.map fun (e : Nat × Agg) =>
        (e.1, { e.2 with on := e.2.rate, tok := Ss.fill e.2.tok (e.2.rate * s.f / 65536) e.2.burst }) } := by
  unfold Ss.refill
  simp only [Block.ssRegs_eq, Ss.fill_ports]

/-! ## The scale factor (R270) -/

/-- The block in which a scale factor and its cause are in force. -/
def Ss.scaled (f cause : Nat) (b : Block) : Block :=
  (b.putN R.ssScale ((if f < 65536 then 2 ^ 31 else 0) + Bits.ofBool (b.bit R.ssScale 30) * 2 ^ 30 + cause * 2 ^ 28 + f)).onSs fun s => { s with
    f := f, scaledTill := if b.ss.f < 65536 then some b.now else s.scaledTill }

@[simp] theorem Block.putN_now (a x : Nat) (b : Block) : (b.putN a x).now = b.now := rfl

section
variable {f cause : Nat} {b : Block} (h : b.scaleNow = (f, cause))
include h

/-- The factor of the moment comes into force, and its fall below 1 is reported. -/
theorem Ss.scaleUpdate_eq : Ss.scaleUpdate b =
    if f < 65536 ∧ b.ss.f = 65536 then
      ((Ss.scaled f cause b).setBits R.ssScale (2 ^ 30)).event 0x0005 1 devJob 32 (Bits.leBytes 4 f ++ Bits.leBytes 1 cause)
    else Ss.scaled f cause b := by
  unfold Ss.scaleUpdate Ss.scaled
  rw [h]
  dsimp only
  -- Left to the kernel as a definitional step, this would compare the two blocks field by field.
  rw [Block.putN_now]

theorem Ss.scaleUpdate_falls (hf : f < 65536) (hold : b.ss.f = 65536) : Ss.scaleUpdate b =
    ((Ss.scaled f cause b).setBits R.ssScale (2 ^ 30)).event 0x0005 1 devJob 32 (Bits.leBytes 4 f ++ Bits.leBytes 1 cause) := by
  rw [Ss.scaleUpdate_eq h, if_pos ⟨hf, hold⟩]

theorem Ss.scaleUpdate_quiet (hq : 65536 ≤ f ∨ b.ss.f ≠ 65536) : Ss.scaleUpdate b = Ss.scaled f cause b := by
  have hno : ¬(f < 65536 ∧ b.ss.f = 65536) := fun ⟨hf, hold⟩ => hq.elim (Nat.not_le.2 hf) (· hold)
  rw [Ss.scaleUpdate_eq h, if_neg hno]

end

/-! ## The statement -/

/-- Settles O46: each command leaves what its effect leaves; R268's checks choose what JOB_RATE does, and a fall from 1 what the new factor
does. -/
theorem ratesAndBuckets : Obligations.RatesAndBuckets := by
  unfold Obligations.RatesAndBuckets
  refine ⟨?rate, ?refill, ?scale⟩
  case rate =>
    intro t r s b id hs hok a n rate old c rise tooMuch tooMuchMem
    rw [exec_jobRate hs]
    refine ⟨fun hq => ?queue, fun hq hr hl => ?line, fun hq hr hl hm => ?memory, fun hq h => ?admitted⟩
    case queue => exact congrArg (After s) (Ss.jobRate_queue hs hok hq)
    case line => exact congrArg (After s) (Ss.jobRate_lineOver hs hok hq hr hl)
    case memory => exact congrArg (After s) (Ss.jobRate_memOver hs hok hq hr hl hm)
    case admitted => exact congrArg (After s) (Ss.jobRate_admitted hs hok hq h)
  case refill =>
    intro t s b c hw
    rw [exec_bucketRefill hw]
    exact congrArg (After s) (Ss.refill_eq b)
  case scale =>
    intro t f cause s b c hw h
    rw [exec_scaleFactorUpdate hw]
    refine ⟨fun hf hold => ?falls, fun hq => ?quiet⟩
    case falls => exact congrArg (After s) (Ss.scaleUpdate_falls h hf hold)
    case quiet => exact congrArg (After s) (Ss.scaleUpdate_quiet h hq)

end Sys2Proof.Machine
end

section
/-! SUPPORT. What the CC does with records, control slots and keys (R273 to R288, R357): it seals and opens records, opens control slots, and
erases, or starts to replace, the keys of its slots. -/

namespace Sys2Proof

/-- The first element that passes a test stands where the elements before it end. -/
theorem findIdx?_of_first {α : Type} {f : α → Bool} {before : List α} {x : α} (hb : ∀ e ∈ before, f e = false) (hx : f x = true)
    (rest : List α) : (before ++ x :: rest).findIdx? f = some before.length := by
  rw [List.findIdx?_append, List.findIdx?_eq_none_iff.2 hb, List.findIdx?_cons, hx]
  simp

/-- The element that is taken out leaves those before it and those after it. -/
@[simp] theorem Bits.removeAt_append_cons {α : Type} (before : List α) (x : α) (rest : List α) :
    Bits.removeAt (before ++ x :: rest) before.length = before ++ rest := by
  simp [Bits.removeAt]

end Sys2Proof

namespace Sys2Proof.Machine

/-! ## The commands -/

/-- While the CC and the BM work, a command of the CC leaves what its effect leaves. -/
theorem after_cc {t : Time} {s : State} (h : (s.blk.tick t).worksBm 30 = true) (f : Block → Block) :
    (Host.Outcome.next (s.run t fun b => b.whenBufs 30 f) : Host.Outcome State Fault Refusal) = After s (f (s.blk.tick t)) := by
  rw [after_run, Block.whenBufs_of h]

section
variable {t : Time} {s : State} (h : (s.blk.tick t).worksBm 30 = true)
include h

theorem exec_ccSealRecord (q : Nat) : exec (.ccSealRecord t q) s = After s (Cc.sealRecord q (s.blk.tick t)) := after_cc h _
theorem exec_ccOpenSegment (sel : Nat) : exec (.ccOpenSegment t sel) s = After s (Cc.openSegment sel (s.blk.tick t)) := after_cc h _
theorem exec_keyStallExpiry : exec (.keyStallExpiry t) s = After s (Cc.stallExpiry (s.blk.tick t)) := after_cc h _

theorem exec_ctrlSlotRx {p : Nat} (hp : p < 2) : exec (.ctrlSlotRx t p) s = After s (Cc.ctrlRx p (s.blk.tick t)) := by
  refine (after_run s t _).trans (congrArg (After s) ?_)
  rw [if_pos hp, Block.whenBufs_of h]

end

theorem exec_rekey {t : Time} {r : Req} {s : State} {b : Block} {id : Nat} (h : Starts 0x0803 r t s b id) :
    exec (.rekey t r) s = After s (Cc.rekey id r b) := cmd_runs h _

/-- KEY_ERASE, when no alarm comes at its moment. -/
theorem exec_keyErase {t : Time} {r : Req} {s : State} {b : Block} {id : Nat} (h : Starts 0x0804 r t s b id) (ha : s.alarmAt t = false) :
    exec (.keyErase t r) s = After s (Cc.keyErase id r b) := by
  refine (after_run s t _).trans (congrArg (After s) ?_)
  rw [State.foresee_none ha, Ci.cmd_starts h]

/-! ## Sealing (R273, R276, R279, R284, R287, R370) -/

section
variable {b : Block} {q : Nat}

/-- A queue whose turn it is not waits. -/
theorem Cc.sealRecord_waits (ht : b.coreTurn ≠ some (true, q)) : Cc.sealRecord q b = b := if_pos ht

section
variable (ht : b.coreTurn = some (true, q))
include ht

/-- A record beyond a limit of Table 10-3, or one whose key has stalled for STALL_MS, fails. -/
theorem Cc.sealRecord_dead (hd : b.sealDead q ≠ []) : Cc.sealRecord q b = b.sealFail (b.sealDead q) := by
  have hsome : (!(b.sealDead q).isEmpty) = true := by simpa using hd
  unfold Cc.sealRecord
  simp only [ht, hsome, ne_eq, not_true_eq_false, if_false, if_true]

/-- A record that has a key and a buffer is sealed, unless data of its messages is poison: those messages fail instead. -/
theorem Cc.sealRecord_granted {k : CcKey} {m : OutMsg} {ms : List OutMsg} {d : Block} {h : Nat} (hd : b.sealDead q = [])
    (hk : b.sealKey q = some k) (hg : b.sealGrant q = some (m :: ms, d, h)) :
    Cc.sealRecord q b = if ∃ x ∈ m :: ms, b.outPoison x = true then b.sealPoison ((m :: ms).filter b.outPoison)
      else d.sealed q k (m :: ms) (Cc.seal k (Cc.slotOf q / 4) q b.gw m.peer ((m :: ms).map (·.msg))) h := by
  unfold Cc.sealRecord
  simp only [ht, hd, hk, hg, ne_eq, not_true_eq_false, if_false, List.isEmpty_nil, Bool.not_true, Bool.false_eq_true, List.any_eq_true]

end

end

/-! ## Opening (R280 to R282, R284) -/

/-- A record's RCTR has been seen under the key that opens it (R281). -/
abbrev Block.recSeen (b : Block) (r : Rec) : Bool := (b.rxKeyOf r).any fun k => k.seen.contains r.rctr.toNat

/-- The messages of a segment's records, each with the buffer taken for its data. -/
def Block.segMsgs (p : Nat) (g : Seg) (hs : List (Option (Nat × Nat))) (b : Block) : List InMsg :=
  (g.recs.flatMap fun r => (b.recMsgs r).map fun m => (⟨r.sender.toNat, g.job.toNat % 1024, g.cls.toNat % 8, p, 0, m, false, none⟩ : InMsg)).zipIdx.map
    fun e => { e.1 with buf := hs.getD e.2 none }

section
variable {b : Block} {sel p : Nat} {g : Seg} (hg : b.te.opening[sel]? = some (p, g)) (ht : b.coreTurn = some (false, sel))
include hg ht

/-- A segment one of whose records fails a check of R280 is counted and answered by a NAK. -/
theorem Cc.openSegment_fails (hr : g.recs ≠ []) (hbad : ∃ n ∈ (b.openTake sel g).recChecks g 0 g.recs, n ≠ 0) : Cc.openSegment sel b =
    ((((b.openTake sel g).recChecks g 0 g.recs).filter (· != 0)).foldl (fun b k => b.bump (Cc.checkReg p k)) (b.openTake sel g)).nakSeg
      p 4 1 0 (g.tryNo.toNat % 16) g.seq.toNat := by
  have hrecs : g.recs.isEmpty = false := by simpa using hr
  have hsome : (((b.openTake sel g).recChecks g 0 g.recs).filter (· != 0)).isEmpty = false := by simpa using hbad
  unfold Cc.openSegment
  simp only [hg, ht, hrecs, hsome, ne_eq, not_true_eq_false, if_false, Bool.not_false, Bool.or_true, if_true, Bool.false_eq_true]

section
variable (hr : g.recs ≠ []) (hgood : ∀ n ∈ (b.openTake sel g).recChecks g 0 g.recs, n = 0)
include hr hgood

/-- A segment whose records pass every check of R280: one seen before makes it a replay, or the duplicate of a failover when all were, and a
new one is opened once its data finds buffers. -/
theorem Cc.openSegment_passes : Cc.openSegment sel b =
    let c := b.openTake sel g
    if g.recs.any c.recSeen then if g.fo && g.recs.all c.recSeen then (c.rxMark p g).bump (R.tePFoDup p) else c.bump (R.ccPReplay p)
    else ((c.takeFar g.heads).map fun e => (g.recs.foldl (fun b r => b.recOpened r) e.1).cxSegment p g (e.1.segMsgs p g e.2)).getD c := by
  have hrecs : g.recs.isEmpty = false := by simpa using hr
  have hnone : ((b.openTake sel g).recChecks g 0 g.recs).filter (· != 0) = [] := by simpa using hgood
  unfold Cc.openSegment
  simp only [hg, ht, hrecs, hnone, ne_eq, not_true_eq_false, if_false, List.isEmpty_nil, Bool.not_true, Bool.or_false, Bool.false_eq_true,
    List.any_map, List.all_map, Function.id_comp]
  split
  · rfl
  · cases (b.openTake sel g).takeFar g.heads <;> rfl

theorem Cc.openSegment_opens {d : Block} {hs : List (Option (Nat × Nat))} (hnew : ∀ r ∈ g.recs, (b.openTake sel g).recSeen r = false)
    (hbuf : (b.openTake sel g).takeFar g.heads = some (d, hs)) :
    Cc.openSegment sel b = (g.recs.foldl (fun b r => b.recOpened r) d).cxSegment p g (d.segMsgs p g hs) := by
  have hany : g.recs.any (b.openTake sel g).recSeen = false := List.any_eq_false.2 fun r h => Bool.eq_false_iff.1 (hnew r h)
  simp only [Cc.openSegment_passes hg ht hr hgood, hany, hbuf, Bool.false_eq_true, if_false, Option.map_some, Option.getD_some]

theorem Cc.openSegment_duplicate (hseen : ∀ r ∈ g.recs, (b.openTake sel g).recSeen r = true) (hfo : g.fo = true) :
    Cc.openSegment sel b = ((b.openTake sel g).rxMark p g).bump (R.tePFoDup p) := by
  obtain ⟨r, hmem⟩ := List.exists_mem_of_ne_nil _ hr
  have hany : g.recs.any (b.openTake sel g).recSeen = true := List.any_eq_true.2 ⟨r, hmem, hseen r hmem⟩
  have hall : g.recs.all (b.openTake sel g).recSeen = true := List.all_eq_true.2 hseen
  simp only [Cc.openSegment_passes hg ht hr hgood, hany, hall, hfo, Bool.and_self, if_true]

theorem Cc.openSegment_replay (hseen : ∃ r ∈ g.recs, (b.openTake sel g).recSeen r = true)
    (hno : g.fo = false ∨ ∃ r ∈ g.recs, (b.openTake sel g).recSeen r = false) :
    Cc.openSegment sel b = (b.openTake sel g).bump (R.ccPReplay p) := by
  have hany : g.recs.any (b.openTake sel g).recSeen = true := List.any_eq_true.2 hseen
  have hdup : (g.fo && g.recs.all (b.openTake sel g).recSeen) = false := by
    rw [Bool.and_eq_false_iff, List.all_eq_false]
    exact hno.imp_right fun ⟨r, hmem, hnew⟩ => ⟨r, hmem, Bool.eq_false_iff.1 hnew⟩
  simp only [Cc.openSegment_passes hg ht hr hgood, hany, hdup, if_true, Bool.false_eq_true, if_false]

end

end

/-! ## Control slots (R285, R357) -/

section
variable {b : Block} {p sender : Nat} {x : CtrlSlot} {before rest : List (Nat × Nat × CtrlSlot)}
  (hs : b.cc.slots = before ++ (p, sender, x) :: rest)
include hs

/-- The slot taken leaves those before it and those after it. -/
theorem Block.dropSlot_first : (b.onCc fun c => { c with slots := Bits.removeAt c.slots before.length }) =
    b.onCc fun c => { c with slots := before ++ rest } := by
  have hleft : Bits.removeAt b.cc.slots before.length = before ++ rest := by rw [hs, Bits.removeAt_append_cons]
  exact congrArg (fun l => b.onCc fun c => { c with slots := l }) hleft

variable (hb : ∀ e ∈ before, e.1 ≠ p)
include hb

/-- The next slot of a port is the first that has come on it. -/
theorem Block.nextSlot_first : b.cc.slots.findIdx? (fun e => e.1 == p) = some before.length ∧ b.cc.slots[before.length]? = some (p, sender, x) := by
  rw [hs]
  exact ⟨findIdx?_of_first (fun e he => beq_false_of_ne (hb e he)) (beq_self_eq_true p) rest, by simp⟩

/-- A slot of a bad length, or of a channel that is none, is counted. -/
theorem Cc.ctrlRx_bad (hbad : Cc.slotOk x = false ∨ x.channel = 0 ∨ 2 < x.channel.toNat) :
    Cc.ctrlRx p b = (b.onCc fun c => { c with slots := before ++ rest }).bump (R.ccPCtlErr p) := by
  have hfail : ¬Cc.slotOk x = true ∨ x.channel.toNat = 0 ∨ 2 < x.channel.toNat :=
    hbad.imp Bool.eq_false_iff.1 (Or.imp_left fun h => by rw [h]; rfl)
  obtain ⟨hfind, hget⟩ := Block.nextSlot_first hs hb
  unfold Cc.ctrlRx
  simp only [hfind, hget, Block.dropSlot_first hs, hfail, if_true]

/-- A slot that opens under the only key it may open under is delivered. -/
theorem Cc.ctrlRx_opens {k : RxKey} {pt : List Byte} (hok : Cc.slotOk x = true) (h1 : 1 ≤ x.channel.toNat) (h2 : x.channel.toNat ≤ 2)
    (hk : (b.onCc fun c => { c with slots := before ++ rest }).slotKeys p x = [k])
    (ho : Cc.slotOpen x k.key.key k.key.salt sender = some pt) :
    Cc.ctrlRx p b = ((b.onCc fun c => { c with slots := before ++ rest }).slotUsed p k x).ctrlIn p x.channel.toNat true pt := by
  have hgood : ¬(¬Cc.slotOk x = true ∨ x.channel.toNat = 0 ∨ 2 < x.channel.toNat) :=
    not_or.2 ⟨not_not.2 hok, by omega⟩
  obtain ⟨hfind, hget⟩ := Block.nextSlot_first hs hb
  unfold Cc.ctrlRx
  simp only [hfind, hget, Block.dropSlot_first hs, hgood, if_false, hk, List.findSome?_cons, ho, Option.map_some]

end

/-! ## Keys (R274, R286, R288) -/

section
variable {b : Block} {slot : Nat}

/-- A rekey of a slot that has a key starts: the chain value it came from is erased. -/
theorem Block.startRekey_of {k : CcKey} (hk : AMap.get? b.cc.tx slot = some k) (cmd : Option Nat) : b.startRekey slot cmd =
    b.keyRun.onCc fun c => { c with
      tx := AMap.set c.tx slot k.spent, rekeys := AMap.set c.rekeys slot ⟨1, k.next (Cc.kind slot) b.now, k.epoch, cmd⟩ } := by
  unfold Block.startRekey
  rw [hk]

end

section
variable {t : Time} {r : Req} {s : State} {b : Block} {id : Nat} (h16 : r.u 16 8 = 0) (h24 : r.u 24 4 = 0) (h32 : r.u 32 32 = 0)
include h16 h24 h32

/-- KEY_ERASE that nothing aborts erases the slots it names. -/
theorem Cc.keyErase_sound (h : Starts 0x0804 r t s b id) (h28 : r.a2 < 256) (hd : b.sec.due ≠ some b.now) :
    let slots := (List.range 8).filter fun s => Bits.bit r.a2 s
    Cc.keyErase id r b = (b.eraseKeys slots).keyRun.ok id slots.length := by
  have hgo : b.cutOff = false := beq_false_of_ne hd
  unfold Cc.keyErase
  rw [Ci.check8_sound h (by simp [h16, h24, h28, h32]), hgo]
  rfl

variable (h : Starts 0x0803 r t s b id) (h8 : r.a2 < 8) (heven : r.a2 % 2 = 0) (hpeer : (b.peerOf (r.a2 / 4)).isSome)
include h h8 heven hpeer

/-- REKEY of a transmit slot of a port that has a peer: one at a time, and only of a slot that has a key. -/
theorem Cc.rekey_sound : Cc.rekey id r b =
    if (AMap.get? b.cc.rekeys r.a2).isSome then b.done id St.busy 0
    else if (AMap.get? b.cc.tx r.a2).isNone then b.done id St.state 1
    else b.startRekey r.a2 (some id) := by
  unfold Cc.rekey
  exact Ci.check8_sound h (by simp [h16, h24, h8, heven, hpeer, h32]) _

end

/-! ## The statement -/

/-- Settles O42: each command leaves what its effect leaves; whose turn it is, the checks of a record and of a slot, and the keys of the slot
choose what that is. -/
theorem recordsAndKeys : Obligations.RecordsAndKeys := by
  unfold Obligations.RecordsAndKeys
  refine ⟨?seals, ?opens, ?stall, ?slot, ?erase, ?rekey⟩
  case seals =>
    intro t q s b hw
    rw [exec_ccSealRecord hw]
    refine ⟨fun k m ms d h ht hd hk hg => ?_, fun ht hd => by rw [Cc.sealRecord_dead ht hd], fun ht => by rw [Cc.sealRecord_waits ht]⟩
    rw [Cc.sealRecord_granted ht hd hk hg]
    refine ⟨fun hclean => ?_, fun hpoison => by rw [if_pos hpoison]⟩
    rw [if_neg fun ⟨x, hx, hp⟩ => Bool.eq_false_iff.1 (hclean x hx) hp]
  case opens =>
    intro t sel p g s b c seen hw hg ht hr
    rw [exec_ccOpenSegment hw]
    refine ⟨fun hgood => ⟨?new, ?duplicate, ?replay⟩, fun hbad => by rw [Cc.openSegment_fails hg ht hr hbad]⟩
    case new =>
      intro d hs hnew hbuf
      exact congrArg (After s) (Cc.openSegment_opens hg ht hr hgood hnew hbuf)
    case duplicate =>
      intro hseen hfo
      exact congrArg (After s) (Cc.openSegment_duplicate hg ht hr hgood hseen hfo)
    case replay =>
      intro hseen hno
      exact congrArg (After s) (Cc.openSegment_replay hg ht hr hgood hseen hno)
  case stall =>
    intro t s b hw
    exact exec_keyStallExpiry hw
  case slot =>
    intro t p sender x before rest s b c hw hp hs hb
    rw [exec_ctrlSlotRx hw hp]
    refine ⟨fun hbad => by rw [Cc.ctrlRx_bad hs hb hbad], fun k pt hok h1 h2 hk ho => ?_⟩
    rw [Cc.ctrlRx_opens hs hb hok h1 h2 hk ho]
  case erase =>
    intro t r s b id h slots h16 h24 h28 h32 ha hd
    rw [exec_keyErase h ha, Cc.keyErase_sound h16 h24 h32 h h28 hd]
  case rekey =>
    intro t r s b id h h16 h24 h8 heven hpeer h32
    rw [exec_rekey h, Cc.rekey_sound h16 h24 h32 h h8 heven hpeer]
    refine ⟨fun hbusy => ?_, fun hfree hnone => ?_, fun k hfree hk => ?_⟩
    · rw [if_pos (Option.isSome_iff_ne_none.2 hbusy)]
    · rw [hfree, hnone]
      rfl
    · rw [hfree, hk, if_neg (by simp), if_neg (by simp), Block.startRekey_of hk]

end Sys2Proof.Machine
end

section
/-! SUPPORT. The rekey exchange (R286, R288): what starts a rekey by itself, and what each of its messages does at its receiver. -/

namespace Sys2Proof.Machine

/-! ## The commands -/

section
variable {t : Time} {s : State} (h : (s.blk.tick t).worksBm 30 = true)
include h

theorem exec_rekeyTrigger (slot : Nat) : exec (.rekeyTrigger t slot) s = After s (Cc.rekeyTrigger slot (s.blk.tick t)) := after_cc h _
theorem exec_rekeyAnnounceRx (sel : Nat) : exec (.rekeyAnnounceRx t sel) s = After s (Cc.announceRx sel (s.blk.tick t)) := after_cc h _
theorem exec_rekeyReadyRx (sel : Nat) : exec (.rekeyReadyRx t sel) s = After s (Cc.readyRx sel (s.blk.tick t)) := after_cc h _
theorem exec_rekeyRetireSend (slot : Nat) : exec (.rekeyRetireSend t slot) s = After s (Cc.retireSend slot (s.blk.tick t)) := after_cc h _
theorem exec_rekeyRetireRx (sel : Nat) : exec (.rekeyRetireRx t sel) s = After s (Cc.retireRx sel (s.blk.tick t)) := after_cc h _
theorem exec_rekeyRetireAckRx (sel : Nat) : exec (.rekeyRetireAckRx t sel) s = After s (Cc.retireAckRx sel (s.blk.tick t)) := after_cc h _

end

/-! ## At the sender's own moment -/

section
variable {b : Block} {slot : Nat}

/-- A transmit key of which no rekey is in progress starts one at CNT_LOG2 or AGE_S. -/
theorem Cc.rekeyTrigger_idle {k : CcKey} (hk : AMap.get? b.cc.tx slot = some k) (hfree : AMap.get? b.cc.rekeys slot = none)
    (heven : slot % 2 = 0) : Cc.rekeyTrigger slot b =
      if 2 ^ b.fld R.ccRekeyCtl 31 27 ≤ k.rctr ∨ k.at_ + 8000000000 * b.fld R.ccRekeyCtl 26 21 ≤ b.now then b.startRekey slot none else b := by
  unfold Cc.rekeyTrigger
  simp only [hk, hfree, heven, Option.isNone_none, beq_self_eq_true, Bool.and_true, Bool.or_eq_true, decide_eq_true_eq]

/-- RETIRE goes out once every record under the old key is released. -/
theorem Cc.retireSend_ready {k : Rekey} (hk : AMap.get? b.cc.rekeys slot = some k) (h4 : k.step = 4) : Cc.retireSend slot b =
    if b.keyReleased (slot / 4) k.old = true then b.onCc fun c => { c with rekeys := AMap.set c.rekeys slot { k with step := 5 } } else b := by
  unfold Cc.retireSend
  simp only [hk, h4, true_and]

end

/-! ## Messages at the receiver of the records -/

section
variable {b c : Block} {sel p slot epoch d : Nat} {k : RxKey}

section
variable (ht : b.takeRk sel 1 = some (c, p, slot, epoch)) (hd : c.rxSlotFor p slot = some d) (hk : (c.rxKeys d).getLast? = some k)
include ht hd hk

/-- An ANNOUNCE of the newest key is answered again. -/
theorem Cc.announceRx_again (he : k.key.epoch = epoch) : Cc.announceRx sel b = c.rkAnswer p 2 slot epoch := by
  unfold Cc.announceRx
  simp only [ht, hd, hk, he, if_true]

/-- An ANNOUNCE of the epoch after the newest key's makes the receiver hold the next key, the chain values before it erased, and answer. -/
theorem Cc.announceRx_next {e : Block} (hne : k.key.epoch ≠ epoch) (he : (k.key.epoch + 1) % 65536 = epoch)
    (hadd : c.addRx d k.ex (k.key.next (Cc.kind slot) c.now) = some e) :
    Cc.announceRx sel b = (e.keyRun.spendRx d epoch).rkAnswer p 2 slot epoch := by
  unfold Cc.announceRx
  simp only [ht, hd, hk, hne, he, hadd, if_false, if_true]

end

/-- A RETIRE of an epoch that is not the newest drops the key of that epoch, of the same exchange, and is answered. -/
theorem Cc.retireRx_old (ht : b.takeRk sel 3 = some (c, p, slot, epoch)) (hd : c.rxSlotFor p slot = some d)
    (hk : (c.rxKeys d).getLast? = some k) (hne : k.key.epoch ≠ epoch) : Cc.retireRx sel b =
      (c.setRx d ((c.rxKeys d).filter fun x => x.key.epoch != epoch || k.ex != x.ex)).rkAnswer p 4 slot epoch := by
  have hold : (k.key.epoch == epoch) = false := beq_false_of_ne hne
  unfold Cc.retireRx
  simp only [ht, hd, hk, hold, Option.any_some, Bool.false_eq_true, if_false]

end

/-! ## Messages at the sender of the records -/

section
variable {b c : Block} {sel p slot epoch : Nat} {k : Rekey}

/-- The block in which a slot seals under the next key of its rekey, the rekeys in progress being `rk` (R286). -/
def Block.keySwitched (slot : Nat) (next : CcKey) (rk : AMap Rekey) (b : Block) : Block :=
  (b.onCc fun x => { x with
    tx := AMap.set x.tx slot { next with at_ := b.now, rctr := 0 }
    stall := AMap.erase x.stall slot
    rekeys := rk }).bump (R.ccPRekeyCnt (slot / 4))

/-- The REKEY that a rekey came from, when it came from one, completes. -/
def Rekey.tell (k : Rekey) (epoch : Nat) (b : Block) : Block := (k.cmd.map fun id => b.ok id epoch).getD b

section
variable (ht : b.takeRk sel 2 = some (c, p, slot, epoch)) (hk : AMap.get? c.cc.rekeys slot = some k) (h1 : k.step = 1)
  (he : k.next.epoch = epoch)
include ht hk h1 he

/-- READY of a data key: the slot seals under it, and the old key is still to be retired. -/
theorem Cc.readyRx_data (hs : slot % 4 = 0) : Cc.readyRx sel b =
    k.tell epoch (c.ccSettle.keySwitched slot k.next (AMap.set c.ccSettle.cc.rekeys slot { k with step := 4, cmd := none })) := by
  have hgo : ¬(k.step ≠ 1 ∨ k.next.epoch ≠ epoch) := not_or.2 ⟨not_not.2 h1, not_not.2 he⟩
  have hdata : (slot % 4 == 0) = true := beq_of_eq hs
  unfold Cc.readyRx Rekey.tell
  simp only [ht, hk, hgo, hdata, if_false, if_true]
  cases k.cmd <;> rfl

/-- READY of a control key: the slot seals under it, and one RETIRE ends the rekey. -/
theorem Cc.readyRx_control (hs : slot % 4 ≠ 0) : Cc.readyRx sel b =
    k.tell epoch ((c.ccSettle.keySwitched slot k.next (AMap.erase c.ccSettle.cc.rekeys slot)).rkAnswer p 3 slot k.old) := by
  have hgo : ¬(k.step ≠ 1 ∨ k.next.epoch ≠ epoch) := not_or.2 ⟨not_not.2 h1, not_not.2 he⟩
  have hcontrol : (slot % 4 == 0) = false := beq_false_of_ne hs
  unfold Cc.readyRx Rekey.tell
  simp only [ht, hk, hgo, hcontrol, if_false, Bool.false_eq_true]
  cases k.cmd <;> rfl

end

/-- RETIRE_ACK of the old epoch ends the rekey, and one of another epoch does nothing. -/
theorem Cc.retireAckRx_retiring (ht : b.takeRk sel 4 = some (c, p, slot, epoch)) (hk : AMap.get? c.cc.rekeys slot = some k)
    (h5 : k.step = 5) : Cc.retireAckRx sel b =
      if k.old = epoch then c.onCc fun x => { x with rekeys := AMap.erase x.rekeys slot } else c := by
  unfold Cc.retireAckRx
  simp only [ht, hk, h5, true_and]

end

/-! ## The statement -/

/-- Settles O43: each command leaves what its effect leaves, and the key or the rekey that a message meets chooses what that is. -/
theorem rekeyExchange : Obligations.RekeyExchange := by
  unfold Obligations.RekeyExchange
  refine ⟨?trigger, ?announce, ?ready, ?retire, ?retired, ?ack⟩
  case trigger =>
    intro t slot k s b hw hk hfree heven
    rw [exec_rekeyTrigger hw, Cc.rekeyTrigger_idle hk hfree heven]
    refine ⟨fun hdue => ?_, fun hcnt hage => ?_⟩
    · rw [if_pos hdue, Block.startRekey_of hk]
    · rw [if_neg (not_or.2 ⟨Nat.not_le.2 hcnt, Nat.not_le.2 hage⟩)]
  case announce =>
    intro t sel p slot epoch d c e k s b hw ht hd hk
    rw [exec_rekeyAnnounceRx hw]
    exact ⟨fun he => by rw [Cc.announceRx_again ht hd hk he], fun hne he hadd => by rw [Cc.announceRx_next ht hd hk hne he hadd]⟩
  case ready =>
    intro t sel p slot epoch c k s b hw ht hk h1 he now_ told
    rw [exec_rekeyReadyRx hw]
    refine ⟨fun hs => ?data, fun hs => ?control⟩
    case data => exact congrArg (After s) (Cc.readyRx_data ht hk h1 he hs)
    case control => exact congrArg (After s) (Cc.readyRx_control ht hk h1 he hs)
  case retire =>
    intro t slot k s b hw hk h4
    rw [exec_rekeyRetireSend hw, Cc.retireSend_ready hk h4]
    exact ⟨fun hall => by rw [if_pos hall], fun hsome => by rw [if_neg (Bool.eq_false_iff.1 hsome)]⟩
  case retired =>
    intro t sel p slot epoch d c k s b hw ht hd hk hne
    rw [exec_rekeyRetireRx hw, Cc.retireRx_old ht hd hk hne]
  case ack =>
    intro t sel p slot epoch c k s b hw ht hk h5
    rw [exec_rekeyRetireAckRx hw, Cc.retireAckRx_retiring ht hk h5]
    exact ⟨fun he => by rw [if_pos he], fun hne => by rw [if_neg hne]⟩

end Sys2Proof.Machine
end

section
/-! SUPPORT. The configuration of a line port (R302, R305, R311 to R314, R320, R321): its descriptor, its members, the pages of its slotted mode,
and the registers of its defects. -/

namespace Sys2Proof.Machine

/-! ## The commands -/

/-- While the LF of a port works, a command of the port leaves what its effect leaves. -/
theorem after_lf {t : Time} {s : State} {p : Nat} (h : (s.blk.tick t).works (33 + p) = true) (hp : p < 2) (f : Block → Block) :
    (Host.Outcome.next (s.run t fun b => b.whenLf p f) : Host.Outcome State Fault Refusal) = After s (f (s.blk.tick t)) := by
  rw [after_run, Block.whenLf_of hp h]

theorem exec_tsiPageSwitch {t : Time} {s : State} {p : Nat} (h : (s.blk.tick t).works (33 + p) = true) (hp : p < 2) :
    exec (.tsiPageSwitch t p) s = After s (Lf.pageSwitch p (s.blk.tick t)) := after_lf h hp _

section
variable {t : Time} {r : Req} {s : State} {b : Block} {id : Nat}

theorem exec_portConfig (h : Starts 0x0601 r t s b id) : exec (.portConfig t r) s = After s (Lf.portConfig id r b) := cmd_runs h _
theorem exec_memberSet (h : Starts 0x0602 r t s b id) : exec (.memberSet t r) s = After s (Lf.memberSet id r b) := cmd_runs h _
theorem exec_slotMap (h : Starts 0x0603 r t s b id) : exec (.slotMap t r) s = After s (Lf.slotMap id r b) := cmd_runs h _
theorem exec_pageSwap (h : Starts 0x0604 r t s b id) : exec (.pageSwap t r) s = After s (Lf.pageSwap id r b) := cmd_runs h _
theorem exec_defectConfig (h : Starts 0x0606 r t s b id) : exec (.defectConfig t r) s = After s (Lf.defectConfig id r b) := cmd_runs h _

end

/-- The fields of PORT_CONFIG and SLOT_MAP are sound when the packet names a descriptor of the right length and a port, and leaves the rest as
it must be. -/
theorem Lf.descFields_sound {r : Req} {len : Nat} (ha : r.a0 % 64 = 0) (hin : r.a0 + len ≤ 0x6000000000) (hp : r.a1 < 2) (h28 : r.a2 = 0xFF)
    (h32 : r.u 32 4 = len) (h36 : r.u 36 28 = 0) : ∀ e ∈ Lf.descFields r len, e.2 = false := by
  simp [Lf.descFields, ha, hin, hp, h28, h32, h36]

/-- The first fields of the other commands of a line port are sound when the packet names a port, and a member that the command admits. -/
theorem Lf.portFields_sound {r : Req} {mem : Nat → Bool} (h16 : r.u 16 8 = 0) (hp : r.a1 < 2) (hm : mem r.a2 = true) :
    ∀ e ∈ Lf.portFields r mem, e.2 = false := by
  simp [Lf.portFields, h16, hp, hm]

/-! ## PORT_CONFIG (R320, R329, R342) -/

@[simp] theorem Block.dxN_putN (a x c n : Nat) (b : Block) : (b.putN a x).dxN c n = b.dxN c n := rfl
@[simp] theorem Block.dxN_putBit (a i : Nat) (v : Bool) (c n : Nat) (b : Block) : (b.putBit a i v).dxN c n = b.dxN c n := rfl
@[simp] theorem Block.dxN_modLp (p : Nat) (f : LfPort → LfPort) (c n : Nat) (b : Block) : (b.modLp p f).dxN c n = b.dxN c n := rfl

/-- What the descriptor at an address sets at a port: its traces, its mode, its group IDs and its members. -/
def Block.portSet (p a : Nat) (c : Block) : Block :=
  ((((c.modLp p fun x => { x with txTrace := c.dxBytes (a + 64) 64, expTrace := c.dxBytes (a + 128) 64 }).putBit (R.lfStat p) 5
    (c.dxN a 1 == 1)).putN (R.lfGid p) (c.dxN (a + 4) 4)).putN (R.lfExpGid p) (c.dxN (a + 8) 4)).putN (R.lfProvMap p) (c.dxN (a + 12) 4)

@[simp] theorem Block.dxN_portSet (p a c n : Nat) (b : Block) : (b.portSet p a).dxN c n = b.dxN c n := by
  simp [Block.portSet]

/-- What APPLY sets besides: the ceiling of total launch, and the launch setpoint of each member. -/
def Block.launchApply (p a : Nat) (c : Block) : Block :=
  (List.range 32).foldl (fun e k => e.putFld (R.loMLaunch p k) 15 0 (Bits.ofInt 16 (Bits.toInt 8 (e.dxN (a + 192 + k) 1))))
    (c.modLo p fun x => { x with totMax := Bits.toInt 16 (c.dxN (a + 224) 2) })

section
variable {t : Time} {r : Req} {s : State} {b : Block} {id : Nat} (h : Starts 0x0601 r t s b id)
  (hf : ∀ e ∈ Lf.descFields r 256, e.2 = false)
include h hf

/-- A port that is not DARK keeps what it is configured to. -/
theorem Lf.portConfig_lit (hl : b.lfState r.a1 ≠ 0) : Lf.portConfig id r b = b.done id St.state (b.lfState r.a1) := by
  unfold Lf.portConfig
  rw [Ci.check8_sound h hf]
  exact if_pos hl

variable (hl : b.lfState r.a1 = 0)
include hl

/-- The first offending field of the descriptor is named. -/
theorem Lf.portConfig_bad {o : Nat} (hd : (b.readCount r.a0 256).portDescBad r.a1 r.a0 = some o) :
    Lf.portConfig id r b = (b.readCount r.a0 256).badDesc id o := by
  unfold Lf.portConfig
  rw [Ci.check8_sound h hf]
  simp only [hl, hd, ne_eq, not_true_eq_false, if_false]

section
variable {c : Block} (hc : b.readCount r.a0 256 = c) (hd : c.portDescBad r.a1 r.a0 = none)
include hc hd

/-- A sound descriptor without APPLY leaves the launch powers as they are. -/
theorem Lf.portConfig_keeps (ha : Bits.bit (c.dxN (r.a0 + 226) 1) 0 = false) :
    Lf.portConfig id r b = ((c.portSet r.a1 r.a0).lfRegs r.a1).ok id 0 := by
  unfold Lf.portConfig
  rw [Ci.check8_sound h hf]
  simp only [hl, hc, hd, ha, ne_eq, not_true_eq_false, Bool.false_eq_true, if_false, Block.portSet, Block.dxN_putN, Block.dxN_putBit,
    Block.dxN_modLp]

/-- With APPLY it sets them as well. -/
theorem Lf.portConfig_applies (ha : Bits.bit (c.dxN (r.a0 + 226) 1) 0 = true) :
    Lf.portConfig id r b = (((c.portSet r.a1 r.a0).launchApply r.a1 r.a0).lfRegs r.a1).ok id 0 := by
  unfold Lf.portConfig
  rw [Ci.check8_sound h hf]
  simp only [hl, hc, hd, ha, ne_eq, not_true_eq_false, if_false, if_true, Block.launchApply, Block.portSet, Block.dxN_putN, Block.dxN_putBit,
    Block.dxN_modLp]

end

end

/-! ## MEMBER_SET (R302, R305) -/

/-- A planned removal of a member starts, asked for by the LO (`by_` 0) or by MEMBER_SET (1). -/
def Block.planStart (p k by_ : Nat) (b : Block) : Block :=
  ((b.modLm p k fun x => { x with plan := 1, planBy := by_, back := none, degOff := true }).pmCur p k fun s => { s with planned := true }).lfRegs p

/-- A removal that is granted starts, and one that is refused is counted. -/
theorem Block.planRequest_eq (p k by_ : Nat) (b : Block) : b.planRequest p k by_ =
    if b.planOk p k = true then (true, b.planStart p k by_) else (false, b.bump (R.lfPlanRefuseCnt p)) := rfl

/-- A MEMBER_SET waits for the removal of its member. -/
def Block.dropWait (p k id : Nat) (b : Block) : Block := b.modLp p fun x => { x with drops := x.drops ++ [(id, k)] }

/-- A MEMBER_SET takes over the removal of its member that is under way; one that the LO holds released already is complete. -/
def Block.dropJoin (p k id : Nat) (b : Block) : Block :=
  let d := (b.modLm p k fun x => { x with planBy := 1 }).dropWait p k id
  if (d.lm p k).freed then d.memRemoved p k else d

section
variable {t : Time} {r : Req} {s : State} {b : Block} {id : Nat} (h : Starts 0x0602 r t s b id)
  (h16 : r.u 16 8 = 0) (hp : r.a1 < 2) (hk : r.a2 < 32) (h33 : r.u 33 31 = 0)
include h h16 hp hk h33

/-- With OP 0, only a member that is provisioned and not on its way out needs the LF's grant. -/
theorem Lf.memberSet_remove (h32 : r.u 32 1 = 0) : Lf.memberSet id r b =
    if b.prov r.a1 r.a2 = false then b.ok id (Lf.count (b.regN (R.lfTxMap r.a1)))
    else if (b.lm r.a1 r.a2).plan = 1 ∨ (b.lm r.a1 r.a2).plan = 2 then b.dropJoin r.a1 r.a2 id
    else if b.planOk r.a1 r.a2 = true then (b.planStart r.a1 r.a2 1).dropWait r.a1 r.a2 id
    else (b.bump (R.lfPlanRefuseCnt r.a1)).done id St.state ((b.bump (R.lfPlanRefuseCnt r.a1)).lfState r.a1) := by
  have hsound := Lf.portFields_sound (mem := fun m => decide (m < 32)) h16 hp (by simp [hk])
  unfold Lf.memberSet
  rw [Ci.check8_sound h (List.forall_mem_append.2 ⟨hsound, by simp [h32, h33]⟩), if_pos h32]
  cases hok : b.planOk r.a1 r.a2
  case false =>
    simp only [Block.planRequest_eq, hok, Bool.not_eq_true', Bool.false_eq_true, if_false]
    rfl
  case true =>
    simp only [Block.planRequest_eq, hok, Bool.not_eq_true', if_true]
    rfl

/-- With OP 1, a member that is not provisioned yet is, and lit. -/
theorem Lf.memberSet_add (h32 : r.u 32 1 = 1) : Lf.memberSet id r b =
    if b.prov r.a1 r.a2 = true then b.ok id (Lf.count (b.regN (R.lfTxMap r.a1)))
    else
      let c := b.putN (R.lfProvMap r.a1) (Nat.lor (b.regN (R.lfProvMap r.a1)) (2 ^ r.a2))
      (c.setLit r.a1 r.a2 (c.litNow r.a1 r.a2)).modLp r.a1 fun x => { x with adds := x.adds ++ [(id, r.a2, b.now)] } := by
  have hsound := Lf.portFields_sound (mem := fun m => decide (m < 32)) h16 hp (by simp [hk])
  unfold Lf.memberSet
  rw [Ci.check8_sound h (List.forall_mem_append.2 ⟨hsound, by simp [h32, h33]⟩), if_neg (by simp [h32])]
  rfl

end

/-! ## The pages of a slotted port (R311 to R314) -/

/-- The page that a port does not use. -/
def Block.idlePage (b : Block) (p : Nat) : Nat := 1 - b.fld (R.lfTsiStat p) 30 30

/-- A page is loaded as the idle page of a port. -/
def Block.pageLoad (p : Nat) (page : List Nat) (b : Block) : Block :=
  b.modLp p fun x => { x with mapped := true, pages := if b.idlePage p = 0 then (page, x.pages.2) else (x.pages.1, page) }

/-- The idle page of a port becomes its active one, from the group frame with the number `b.regN (R.lfMfc p)` on. -/
def Block.pageTurn (p : Nat) (b : Block) : Block :=
  let c := b.modLp p fun x => { x with swap := none, rxWait := true, swapAt := b.regN (R.lfMfc p) }
  c.putN (R.lfTsiStat p) (b.idlePage p * 2 ^ 30 + Lf.cellSlots ((c.lp p).page (b.idlePage p)))

section
variable {t : Time} {r : Req} {s : State} {b : Block} {id : Nat}

section
variable (h : Starts 0x0603 r t s b id) (hf : ∀ e ∈ Lf.descFields r 5120, e.2 = false) {c : Block} (hc : b.readCount r.a0 5120 = c)
include h hf hc

/-- SLOT_MAP acts on a slotted port only. -/
theorem Lf.slotMap_native (hn : c.bit (R.lfStat r.a1) 5 = false) : Lf.slotMap id r b = c.done id St.state (c.lfState r.a1) := by
  unfold Lf.slotMap
  rw [Ci.check8_sound h hf, hc]
  simp only [hn, Bool.not_false, if_true]

variable (hslot : c.bit (R.lfStat r.a1) 5 = true)
include hslot

/-- While an exchange of pages waits, no page is loaded. -/
theorem Lf.slotMap_busy (hw : (c.lp r.a1).swap ≠ none) : Lf.slotMap id r b = c.done id St.busy 0 := by
  unfold Lf.slotMap
  rw [Ci.check8_sound h hf, hc]
  simp only [hslot, Option.isSome_iff_ne_none.2 hw, Bool.not_true, Bool.false_eq_true, if_false, if_true]

/-- A page that keeps R311 and R312 is loaded. -/
theorem Lf.slotMap_loads (hw : (c.lp r.a1).swap = none) {page : List Nat}
    (hpage : ((List.range 2560).map fun i => c.dxN (r.a0 + 2 * i) 2) = page)
    (hgood : Lf.pageBad (c.bit (R.lfStat (1 - r.a1)) 5) page = none) : Lf.slotMap id r b = (c.pageLoad r.a1 page).ok id 0 := by
  unfold Lf.slotMap
  rw [Ci.check8_sound h hf, hc]
  simp only [hpage, hslot, hw, hgood, Option.isSome_none, Bool.not_true, Bool.false_eq_true, if_false]
  rfl

end

/-- PAGE_SWAP asks for one exchange at a time, on a slotted port that a SLOT_MAP has given a page. -/
theorem Lf.pageSwap_sound (h : Starts 0x0604 r t s b id) (h16 : r.u 16 8 = 0) (hp : r.a1 < 2) (h28 : r.a2 = 0xFF) (h32 : r.u 32 32 = 0) :
    Lf.pageSwap id r b =
      if (b.lp r.a1).mapped = false ∨ b.bit (R.lfStat r.a1) 5 = false then b.done id St.state (b.lfState r.a1)
      else if (b.lp r.a1).swap ≠ none then b.done id St.busy 0
      else (b.modLp r.a1 fun x => { x with swap := some id }).putBit (R.lfTsiStat r.a1) 31 true := by
  have hsound := Lf.portFields_sound (mem := (· == 0xFF)) h16 hp (by simp [h28])
  unfold Lf.pageSwap
  rw [Ci.check8_sound h (List.forall_mem_append.2 ⟨hsound, by simp [h32]⟩)]
  simp only [Bool.or_eq_true, Bool.not_eq_true', Option.isSome_iff_ne_none]

end

/-- The exchange that a PAGE_SWAP waits for comes before the group frame with MFI 0 is sent. -/
theorem Lf.pageSwitch_waiting {b : Block} {p id : Nat} (hs : (b.lp p).swap = some id) : Lf.pageSwitch p b =
    if (b.lp p).mfi ≠ 0 ∨ (b.lp p).sent = true ∨ b.lfState p = 0 then b else (b.pageTurn p).ok id (b.regN (R.lfMfc p)) := by
  unfold Lf.pageSwitch
  rw [hs]
  rfl

/-! ## DEFECT_CONFIG (R321) -/

/-- DEFECT_CONFIG with values in their ranges sets the three registers, and runs of DEG start again. -/
theorem Lf.defectConfig_sound {t : Time} {r : Req} {s : State} {b : Block} {id : Nat} (h : Starts 0x0606 r t s b id) (h16 : r.u 16 8 = 0)
    (hp : r.a1 < 2) (h28 : r.a2 = 0xFF) (hdeg : Lf.degOk (r.u 32 4) = true) (h36 : r.u 36 4 < 4) (hgrp : Lf.grpOk (r.u 40 4) = true)
    (h44 : r.u 44 20 = 0) : Lf.defectConfig id r b =
      ((((b.putN (R.lfDegCfg r.a1) (r.u 32 4)).putN (R.lfDefCfg r.a1) (r.u 36 4)).putN (R.lfGrpCfg r.a1) (r.u 40 4)).degRestart r.a1).ok id 0 := by
  have hsound := Lf.portFields_sound (mem := (· == 0xFF)) h16 hp (by simp [h28])
  unfold Lf.defectConfig
  rw [Ci.check8_sound h (List.forall_mem_append.2 ⟨hsound, by simp [hdeg, h36, hgrp, h44]⟩)]

/-! ## The statement -/

/-- Settles O47: each command passes check 8, and the state of its port, of its member or of its pages chooses what it does. -/
theorem lineConfiguration : Obligations.LineConfiguration := by
  unfold Obligations.LineConfiguration
  refine ⟨?port, ?member, ?map, ?swap, ?switch, ?defects⟩
  case port =>
    intro t r s b id h p c d ha hin hp h28 h32 h36
    have hf := Lf.descFields_sound ha hin hp h28 h32 h36
    rw [exec_portConfig h]
    refine ⟨fun hl => ?lit, fun o hl hd => ?bad, fun hl hd happly => ?keep, fun hl hd happly => ?apply⟩
    case lit => rw [Lf.portConfig_lit h hf hl]
    case bad => rw [Lf.portConfig_bad h hf hl hd]
    case keep => exact congrArg (After s) (Lf.portConfig_keeps h hf hl rfl hd happly)
    case apply => exact congrArg (After s) (Lf.portConfig_applies h hf hl rfl hd happly)
  case member =>
    intro t r s b id h p k c h16 hp hk h33
    have hremove := Lf.memberSet_remove h h16 hp hk h33
    have hadd := Lf.memberSet_add h h16 hp hk h33
    rw [exec_memberSet h]
    refine ⟨fun h32 hno => ?none, fun h32 hprov h1 h2 hok => ?refused, fun h32 hprov hout => ?joins, fun h32 hprov h1 h2 hok => ?granted,
      fun h32 hprov => ?known, fun h32 hno => ?new⟩
    case none => rw [hremove h32, if_pos hno]
    case refused => rw [hremove h32, if_neg (by simp [p, k, hprov]), if_neg (not_or.2 ⟨h1, h2⟩), if_neg (by simp [p, k, hok])]
    case joins =>
      rw [hremove h32, if_neg (by simp [p, k, hprov]), if_pos hout]
      rfl
    case granted =>
      rw [hremove h32, if_neg (by simp [p, k, hprov]), if_neg (not_or.2 ⟨h1, h2⟩), if_pos hok]
      rfl
    case known => rw [hadd h32, if_pos hprov]
    case new => rw [hadd h32, if_neg (Bool.eq_false_iff.1 hno)]
  case map =>
    intro t r s b id h p c page idle ha hin hp h28 h32 h36
    have hf := Lf.descFields_sound ha hin hp h28 h32 h36
    rw [exec_slotMap h]
    refine ⟨fun hn => ?native, fun hslot hw => ?busy, fun hslot hw hgood => ?loads⟩
    case native => rw [Lf.slotMap_native h hf rfl hn]
    case busy => rw [Lf.slotMap_busy h hf rfl hslot hw]
    case loads => exact congrArg (After s) (Lf.slotMap_loads h hf rfl hslot hw rfl hgood)
  case swap =>
    intro t r s b id h p h16 hp h28 h32
    rw [exec_pageSwap h, Lf.pageSwap_sound h h16 hp h28 h32]
    refine ⟨fun hnone => ?native, fun hmap hslot hswap => ?busy, fun hmap hslot hswap => ?waits⟩
    case native => rw [if_pos hnone]
    case busy => rw [if_neg (by simp [p, hmap, hslot]), if_pos hswap]
    case waits => rw [if_neg (by simp [p, hmap, hslot]), if_neg (not_not.2 hswap)]
  case switch =>
    intro t p id s b k c hw hp hs
    rw [exec_tsiPageSwitch hw hp, Lf.pageSwitch_waiting hs]
    refine ⟨fun hmfi hsent hl => ?turns, fun hlater => ?waits⟩
    case turns =>
      rw [if_neg (by simp [b, hmfi, hsent, hl])]
      rfl
    case waits => rw [if_pos (hlater.imp_right Or.inl)]
  case defects =>
    intro t r s b id h p h16 hp h28 hdeg h36 hgrp h44
    rw [exec_defectConfig h, Lf.defectConfig_sound h h16 hp h28 hdeg h36 hgrp h44]

end Sys2Proof.Machine
end

section
/-! SUPPORT. What happens at a line port while it frames (R290 to R309, R321, R326, R327): the symbols of its members, its boundaries, the defects
of its members and of the group, planned removals, and the times that a removal and an addition may take. -/

namespace Sys2Proof.Machine

/-! ## The commands -/

section
variable {t : Time} {s : State} {p : Nat} (h : (s.blk.tick t).works (33 + p) = true) (hp : p < 2)
include h hp

theorem exec_groupFrameBoundary : exec (.groupFrameBoundary t p) s = After s (Lf.boundary p (s.blk.tick t)) := after_lf h hp _
theorem exec_memberFrameRx {m : Nat} (hm : m < 32) (syms : List Symbol) :
    exec (.memberFrameRx t p m syms) s = After s (Lf.frameRx p m syms (s.blk.tick t)) := by
  refine (after_run s t _).trans (congrArg (After s) ?_)
  rw [if_pos hm, Block.whenLf_of hp h]
theorem exec_defectEntry (o bit : Nat) (rep : Option LosReport) :
    exec (.defectEntry t p o ⟨bit, rep⟩) s = After s (Lf.defectEntry p o bit rep (s.blk.tick t)) := after_lf h hp _
theorem exec_defectExit (o bit : Nat) (rep : Option LosReport) :
    exec (.defectExit t p o ⟨bit, rep⟩) s = After s (Lf.defectExit p o bit rep (s.blk.tick t)) := after_lf h hp _
theorem exec_plannedRemovalRequest (m : Nat) :
    exec (.plannedRemovalRequest t p m) s = After s (Lo.removal p m (s.blk.tick t)) := after_lf h hp _
theorem exec_planMapClearExpiry (m : Nat) :
    exec (.planMapClearExpiry t p m) s = After s (Lf.planExpiry p m (s.blk.tick t)) := after_lf h hp _
theorem exec_memberAddTimeout : exec (.memberAddTimeout t p) s = After s (Lf.addTimeout p (s.blk.tick t)) := after_lf h hp _

end

section
variable {b : Block} {p : Nat}

/-! ## Symbols of a member (R290, R296, R326) -/

/-- A DARK port takes no symbols, and neither does one of a member whose DSP has no lock. -/
theorem Lf.frameRx_none {m : Nat} (syms : List Symbol) (h : b.lfState p = 0 ∨ b.bit (R.loMStat p m) 30 = false) :
    Lf.frameRx p m syms b = b := by
  unfold Lf.frameRx
  rw [if_pos (by simpa using h)]

/-- The symbols of a locked member become codewords, frames, and as many group frames as can be passed on. -/
theorem Lf.frameRx_locked {m : Nat} (syms : List Symbol) (hl : b.lfState p ≠ 0) (hk : b.bit (R.loMStat p m) 30 = true) :
    Lf.frameRx p m syms b =
      ((b.symbolsIn p m syms).deframe p m (((b.symbolsIn p m syms).lm p m).stream.length / 16384 + 2)).assemble p 32 := by
  unfold Lf.frameRx
  rw [if_neg (by simp [hl, hk])]

/-! ## Boundaries (R295, R299, R300, R306, R321) -/

/-- A port whose defect configuration has come into force at a boundary, and whose members have entered no defect in the group frame that begins
(R304, R321). -/
def Block.bounded (p : Nat) (b : Block) : Block := (b.latch p).modLp p fun x => { x with justIn := 0 }

/-- A port whose group frames, maps and state have followed at a boundary. -/
def Block.followed (p : Nat) (b : Block) : Block := (((((b.bounded p).assemble p 32).logTimes p).nextFrame p).maps p).lfStep p

/-- The configuration that comes into force changes what the LF keeps of its ports. -/
theorem Block.bounded_rest (p : Nat) (b : Block) : b.bounded p = { b with lf := (b.bounded p).lf } := by
  unfold Block.bounded Block.latch
  dsimp only
  split <;> rfl

@[simp] theorem Block.lfState_bounded (p q : Nat) (b : Block) : (b.bounded p).lfState q = b.lfState q := by
  rw [Block.bounded_rest]
  rfl

@[simp] theorem Block.lineServed_bounded (p q : Nat) (b : Block) : (b.bounded p).lineServed q = b.lineServed q := by
  rw [Block.bounded_rest]
  rfl

/-- A port whose function does not serve it is, or becomes, DARK. -/
theorem Block.lfStep_unserved (hs : b.lineServed p = false) : b.lfStep p = b.setLf p 0 := by
  unfold Block.lfStep
  rw [hs]
  rfl

/-- A DARK port that nothing serves stays DARK. -/
theorem Lf.boundary_dark (hl : b.lfState p = 0) (hs : b.lineServed p = false) : Lf.boundary p b = b.bounded p := by
  have hdark : (b.bounded p).lfState p = 0 := by rw [Block.lfState_bounded, hl]
  have hstays : (b.bounded p).lfStep p = b.bounded p := by
    rw [Block.lfStep_unserved (by rw [Block.lineServed_bounded, hs])]
    exact if_pos hdark
  exact (if_pos hdark).trans hstays

/-- A port that frames makes the transitions of Table 11-5; one that still frames then has the TX_MAP of its new state, and its additions
complete. -/
theorem Lf.boundary_frames (hl : b.lfState p ≠ 0) : Lf.boundary p b =
    if (b.followed p).lfState p = 0 then b.followed p
    else (((b.followed p).putN (R.lfTxMap p) ((b.followed p).txMapNow p)).lfRegs p).addsDone p := by
  have hframes : (b.bounded p).lfState p ≠ 0 := by rwa [Block.lfState_bounded]
  exact if_neg hframes

/-! ## Defects (R307 to R309, Table 11-6) -/

/-- With the interrupt of the group's defects off, an entry sets the sticky bit and is traced. -/
theorem Block.groupEntry_quiet (bit : Nat) (hi : b.bit (R.lfDefIrq p) 0 = false) :
    b.groupEntry p bit = (b.setBits (R.lfGdefSticky p) (2 ^ bit)).lfTrace 2 p 0xFF bit := by
  have hne : R.lfDefIrq p ≠ R.lfGdefSticky p := by unfold R.lfDefIrq R.lfGdefSticky; omega
  have hoff : ((b.setBits (R.lfGdefSticky p) (2 ^ bit)).lfTrace 2 p 0xFF bit).bit (R.lfDefIrq p) 0 = false := by
    have hreg := Block.reg_setBits_ne (2 ^ bit) b hne
    exact (congrArg (fun v => Bits.bit (BitVec.toNat v) 0) hreg).trans hi
  unfold Block.groupEntry
  simp only [hoff, Bool.and_false, Bool.false_eq_true, if_false]

section
variable (hl : b.lfState p ≠ 0)
include hl

section
variable {m bit : Nat} (hm : m < 32) (hbit : bit < 9) (rep : Option LosReport)
include hm hbit

/-- A member's defect is entered when its entry criterion comes to hold. -/
theorem Lf.defectEntry_member : Lf.defectEntry p m bit rep b =
    if b.bit (R.lfMDef p m) bit = true ∨ b.defIn p m bit rep = false then b.losTake p m bit rep
    else ((b.losTake p m bit rep).enterDef p m bit).logTimes p := by
  have hknown : decide (9 ≤ bit) = false := decide_eq_false (Nat.not_le.2 hbit)
  unfold Lf.defectEntry
  rw [if_neg hl, if_pos hm, hknown]
  simp only [Bool.false_or, Bool.or_eq_true, Bool.not_eq_true']

/-- A member's defect is left when its exit criterion holds and its entry criterion does not. -/
theorem Lf.defectExit_member : Lf.defectExit p m bit rep b =
    if (b.bit (R.lfMDef p m) bit = false ∨ b.defOut p m bit rep = false) ∨ b.defIn p m bit rep = true then b.losTake p m bit rep
    else (((b.losTake p m bit rep).putBit (R.lfMDef p m) bit false).lfTrace 3 p m bit).logTimes p := by
  have hknown : decide (9 ≤ bit) = false := decide_eq_false (Nat.not_le.2 hbit)
  unfold Lf.defectExit
  rw [if_neg hl, if_pos hm, hknown]
  simp only [Bool.false_or, Bool.or_eq_true, Bool.not_eq_true']

end

/-- The group enters LOG when too few members have delivered for 10 µs. -/
theorem Lf.defectEntry_log (rep : Option LosReport) (hg : b.bit (R.lfGdef p) 0 = false)
    (hdue : Lf.past b.now 80000 (b.lp p).logAt = true) : Lf.defectEntry p 32 0 rep b = (b.groupEntry p 0).enterLog p := by
  unfold Lf.defectEntry
  rw [if_neg hl, if_neg (Nat.lt_irrefl 32)]
  simp [hg, hdue]

/-- It leaves LOG when enough have for 1 ms. -/
theorem Lf.defectExit_log (rep : Option LosReport) (hg : b.bit (R.lfGdef p) 0 = true)
    (hdone : Lf.past b.now 8000000 (b.lp p).logOk = true) :
    Lf.defectExit p 32 0 rep b = (b.putBit (R.lfGdef p) 0 false).lfTrace 3 p 0xFF 0 := by
  unfold Lf.defectExit
  rw [if_neg hl, if_neg (Nat.lt_irrefl 32)]
  simp [hg, hdone]

end

/-! ## Planned removals and additions (R302, R304, R305, R339) -/

@[simp] theorem Block.now_bump (a : Nat) (b : Block) : (b.bump a).now = b.now := rfl

/-- The removal that a calibration asks for: one that MEMBER_SET has asked for already ends the calibration, and after the eighth refusal the
member is passed over. -/
theorem Lo.removal_asked {c : Cal} (hc : (b.lo1 p).cal = some c) (h0 : c.phase = 0) : Lo.removal p c.mem b =
    if (b.lm p c.mem).plan ≠ 0 ∧ (b.lm p c.mem).planBy = 1 then b.modLo p fun y => { y with cal := none }
    else if b.planOk p c.mem = true then
      (b.planStart p c.mem 0).modLo p fun y => { y with cal := some { c with phase := 1, since := (b.planStart p c.mem 0).now } }
    else if 7 ≤ c.refuse then
      ((((b.bump (R.lfPlanRefuseCnt p)).bump (R.loCalSkipCnt p)).tally (26 + p) 1).loSticky p 3).modLo p fun y => { y with cal := none }
    else (b.bump (R.lfPlanRefuseCnt p)).modLo p fun y => { y with cal := some { c with phase := 4, refuse := c.refuse + 1, since := b.now } } := by
  unfold Lo.removal
  cases hok : b.planOk p c.mem
  case false =>
    simp only [hc, h0, Block.planRequest_eq, hok, ne_eq, not_true_eq_false, or_self, if_false, Bool.false_eq_true,
      Block.now_bump]
  case true => simp only [hc, h0, Block.planRequest_eq, hok, ne_eq, not_true_eq_false, or_self, if_false, if_true]

/-- A member that has come back and has not rejoined leaves PLAN_MAP after 10 s. -/
theorem Lf.planExpiry_back {m : Nat} {t0 : Time} (h3 : (b.lm p m).plan = 3) (hb : (b.lm p m).back = some t0) : Lf.planExpiry p m b =
    if t0 + tenSec ≤ b.now then (b.modLm p m fun x => { x with plan := 0, back := none }).lfRegs p else b := by
  unfold Lf.planExpiry
  refine if_congr ?_ rfl rfl
  rw [hb, Option.any_some, decide_eq_true_eq]
  exact and_iff_right h3

/-- A change of a line port is what it makes of the port as it is. -/
theorem Block.modLp_congr {f g : LfPort → LfPort} (h : f (b.lp p) = g (b.lp p)) : b.modLp p f = b.modLp p g := by
  unfold Block.modLp
  rw [h]

/-- The one addition that waits completes TIMEOUT after 10 s. -/
theorem Lf.addTimeout_one {id k t0 : Nat} (ha : (b.lp p).adds = [(id, k, t0)]) (hlate : t0 + tenSec ≤ b.now) :
    Lf.addTimeout p b = (b.modLp p fun x => { x with adds := [] }).done id St.timeout 0 := by
  have hall : ((b.lp p).adds.filter fun a => a.2.2 + tenSec ≤ b.now) = [(id, k, t0)] := by simp [ha, hlate]
  unfold Lf.addTimeout
  rw [hall]
  exact congrArg (Block.done id St.timeout 0) (Block.modLp_congr (by simp [ha]))

end

/-! ## The statement -/

/-- Settles O48: each command leaves what its effect leaves; the state of the port, the criterion of the defect, the grant of the LF and the time
that has passed choose what that is. -/
theorem framingEvents : Obligations.FramingEvents := by
  unfold Obligations.FramingEvents
  refine ⟨?symbols, ?boundary, ?member, ?group, ?removal, ?back, ?add⟩
  case symbols =>
    intro t p m syms s b c hw hp hm
    rw [exec_memberFrameRx hw hp hm]
    exact ⟨fun hno => by rw [Lf.frameRx_none syms hno], fun hl hk => by rw [Lf.frameRx_locked syms hl hk]⟩
  case boundary =>
    intro t p s b d c hw hp
    rw [exec_groupFrameBoundary hw hp]
    refine ⟨fun hl hs => ?dark, fun hl hend => ?ends, fun hl hon => ?frames⟩
    case dark => exact congrArg (After s) (Lf.boundary_dark hl hs)
    case ends => exact congrArg (After s) ((Lf.boundary_frames hl).trans (if_pos hend))
    case frames => exact congrArg (After s) ((Lf.boundary_frames hl).trans (if_neg hon))
  case member =>
    intro t p m bit rep s b seen hw hp hl hm hbit
    rw [exec_defectEntry hw hp, exec_defectExit hw hp, Lf.defectEntry_member hl hm hbit, Lf.defectExit_member hl hm hbit]
    refine ⟨fun hoff hin => ?enters, fun hno => ?stays, fun hon hout hin => ?leaves, fun hno => ?keeps⟩
    case enters => rw [if_neg (by simp [b, hoff, hin])]
    case stays => rw [if_pos hno]
    case leaves => rw [if_neg (by simp [b, hon, hout, hin])]
    case keeps => rw [if_pos (Or.inl hno)]
  case group =>
    intro t p rep s b hw hp hl
    rw [exec_defectEntry hw hp, exec_defectExit hw hp]
    refine ⟨fun hg hdue hi => ?enters, fun hg hdone => ?leaves⟩
    case enters =>
      rw [Lf.defectEntry_log hl rep hg hdue, Block.groupEntry_quiet 0 hi, pow_zero]
    case leaves => rw [Lf.defectExit_log hl rep hg hdone]
  case removal =>
    intro t p m c s b d hw hp hc hm h0 own
    subst hm
    rw [exec_plannedRemovalRequest hw hp, Lo.removal_asked hc h0]
    refine ⟨fun hown => ?own, fun hown hok => ?granted, fun hown hno h7 => ?passed, fun hown hno h7 => ?refused⟩
    case own => rw [if_pos hown]
    case granted =>
      rw [if_neg hown, if_pos hok]
      rfl
    case passed => rw [if_neg hown, if_neg (Bool.eq_false_iff.1 hno), if_pos h7]
    case refused => rw [if_neg hown, if_neg (Bool.eq_false_iff.1 hno), if_neg (Nat.not_le.2 h7)]
  case back =>
    intro t t0 p m s b hw hp h3 hb
    rw [exec_planMapClearExpiry hw hp, Lf.planExpiry_back h3 hb]
    exact ⟨fun hlate => by rw [if_pos hlate], fun hsoon => by rw [if_neg (Nat.not_le.2 hsoon)]⟩
  case add =>
    intro t p id k t0 s b hw hp ha hlate
    rw [exec_memberAddTimeout hw hp, Lf.addTimeout_one ha hlate]

end Sys2Proof.Machine
end

section
/-! SUPPORT. Performance monitoring of the line (R315 to R319, R327): the seconds and the bins of its objects, the second report of the LO, and
PM_READ. -/

namespace Sys2Proof.Machine

/-! ## The commands -/

section
variable {t : Time} {s : State}

theorem exec_pmSecond (h : (s.blk.tick t).pcr.phase = 4) : exec (.pmSecond t) s = After s (Pm.second (s.blk.tick t)) :=
  (after_run s t _).trans (congrArg (After s) (Block.whenUp_of h _))

theorem exec_pmBinRollover (h : (s.blk.tick t).pcr.phase = 4) : exec (.pmBinRollover t) s = After s (Pm.rollover (s.blk.tick t)) :=
  (after_run s t _).trans (congrArg (After s) (Block.whenUp_of h _))

theorem exec_loSecondReport {p : Nat} (h : (s.blk.tick t).works (33 + p) = true) (hp : p < 2) :
    exec (.loSecondReport t p ()) s = After s (Pm.report p (s.blk.tick t)) := after_lf h hp _

theorem exec_pmRead {r : Req} {b : Block} {id : Nat} (h : Starts 0x0902 r t s b id) : exec (.pmRead t r) s = After s (Pm.read id r b) :=
  cmd_runs h _

end

/-! ## Seconds and bins (R315, R316, R318) -/

/-- An object whose second is still the one of TU time goes on collecting. -/
theorem Block.pmSec_same {b : Block} {p o : Nat} (h : (b.pm p o).cur.sec = b.tuSec) : b.pmSec p o = b := if_pos h

/-- Once the bins have rolled over, the current ones start where the quarter hour and the day do. -/
theorem PmObj.roll_start (x : PmObj) (s15 s24 : Nat) : (x.roll s15 s24).c15.start = s15 ∧ (x.roll s15 s24).c24.start = s24 := by
  unfold PmObj.roll
  by_cases h15 : x.c15.start = s15 <;> by_cases h24 : x.c24.start = s24 <;> simp [h15, h24, PmBin.init]

/-! ## PM_READ (R319) -/

/-- The records that a PM_READ selects, object by object. -/
def Block.pmRecords (r : Req) (b : Block) : List (List Byte) :=
  ((Pm.objects.filter fun o => Bits.bit (r.u 32 8) o).map fun o => (b.pm r.a2 o).records r.a2 o (r.u 40 1)).flatten

/-- The fields of PM_READ, with the room that its records need. -/
def Pm.readFields (r : Req) (b : Block) : List (Nat × Bool) :=
  [(16, badAddr r.a0 r.a1 64), (24, decide (r.a1 < 64 * (b.pmRecords r).length)), (28, decide (2 ≤ r.a2)), (32, decide (2 ^ 33 ≤ r.u 32 8)),
    (40, decide (16 ≤ r.u 40 1)), (41, r.nz 41 23)]

/-- PM_READ with sound fields writes the records that it selects. -/
theorem Pm.read_sound {t : Time} {r : Req} {s : State} {b : Block} {id : Nat} (h : Starts 0x0902 r t s b id)
    (hf : ∀ e ∈ Pm.readFields r b, e.2 = false) :
    Pm.read id r b = (b.dxWrite r.a0 (b.pmRecords r).flatten).ok id (b.pmRecords r).length := by
  unfold Pm.read
  exact Ci.check8_sound h hf _

/-! ## The statement -/

/-- Settles O49: each command leaves what its effect leaves; an object whose second goes on is left alone, bins start where they should, and
PM_READ passes check 8. -/
theorem performanceMonitoring : Obligations.PerformanceMonitoring := by
  unfold Obligations.PerformanceMonitoring
  refine ⟨?second, fun b p o => Block.pmSec_same, ?rollover, PmObj.roll_start, ?report, ?read⟩
  case second =>
    intro t s b hup
    exact exec_pmSecond hup
  case rollover =>
    intro t s b hup
    exact exec_pmBinRollover hup
  case report =>
    intro t p s b c mine hw hp
    exact exec_loSecondReport hw hp
  case read =>
    intro t r s b id h recs ha hin hroom h28 h32 h40 h41
    have hrecs : b.pmRecords r = recs := rfl
    have hf : ∀ e ∈ Pm.readFields r b, e.2 = false := by simpa [Pm.readFields, hrecs, ha, hin, hroom, h28, h40, h41] using h32
    rw [exec_pmRead h, Pm.read_sound h hf, hrecs]

end Sys2Proof.Machine
end

section
/-! SUPPORT. The step and the queue: every command ends in a block that has settled, whose memories are in canonical form; and the bytes of a
packet (Table 2-4). -/

namespace Sys2Proof.Machine

/-- Settles O1: the step takes the front command off the queue. -/
theorem stepRunsFront : Obligations.StepRunsFront := by
  unfold Obligations.StepRunsFront
  intro c rest b
  rfl

/-- Settles O2: the meaning of each command is an effect at its moment, after which the block settles. -/
theorem everyCommandEndsInANextState : Obligations.EveryCommandEndsInANextState := by
  unfold Obligations.EveryCommandEndsInANextState
  intro c s
  cases c <;> exact ⟨_, rfl⟩

/-! ## The memories after a command (log entry 3) -/

/-- The canonical form of a block has its four memories in canonical form. -/
theorem Block.canon_memWf (b : Block) : b.canon.memWf := ⟨Mem.wf_norm _, Mem.wf_norm _, Mem.wf_norm _, Mem.wf_norm _⟩

/-- Settling ends with the canonical form. -/
theorem Block.settle_memWf (b : Block) : b.settle.memWf := by
  unfold Block.settle
  exact Block.canon_memWf _

/-- The end of a stall changes no memory. -/
theorem Block.stallEnd_memWf {b : Block} (h : b.memWf) (old : Block) : (old.stallEnd b).memWf := by
  unfold Block.stallEnd
  split
  · exact h
  · exact h

/-- Settles O3: an idle step changes nothing, and a command ends in a block that has settled. -/
theorem stepKeepsMemoriesCanonical : Obligations.StepKeepsMemoriesCanonical := by
  unfold Obligations.StepKeepsMemoriesCanonical
  intro s s' hs hstep
  obtain ⟨blk, pending⟩ := s
  cases pending with
  | nil =>
    rw [step_idle] at hstep
    rw [← Host.Outcome.next.inj hstep]
    exact hs
  | cons c rest =>
    obtain ⟨b, hb⟩ := everyCommandEndsInANextState c ⟨blk, rest⟩
    rw [stepRunsFront, hb] at hstep
    rw [← Host.Outcome.next.inj hstep]
    exact Block.stallEnd_memWf b.settle_memWf blk

/-! ## The bytes of a packet (Table 2-4) -/

/-- Bytes that are enough for a number spell the number. -/
theorem Bits.ofLe_leBytes_of_lt {n v : Nat} (h : v < 2 ^ (8 * n)) : Bits.ofLe (Bits.leBytes n v) = v := by
  rw [Bits.ofLe_leBytes, Nat.mod_eq_of_lt h]

/-- A word of whole bytes read back from them. -/
theorem Bits.ofLe_leBytes_toNat {n : Nat} (x : BitVec (8 * n)) : Bits.ofLe (Bits.leBytes n x.toNat) = x.toNat := Bits.ofLe_leBytes_of_lt x.isLt

/-- The fields of a packet, each at its place. -/
theorem Req.bytes_fields (r : Req) {opc : Nat} (h : opc < 2 ^ 16) :
    let field (o n : Nat) : Nat := Bits.ofLe (((r.bytes opc).drop o).take n)
    field 0 2 = opc ∧ field 2 2 = r.flags.toNat ∧ field 4 4 = r.cookie.toNat ∧ field 8 2 = r.job.toNat ∧ field 10 1 = r.version.toNat ∧
      field 11 5 = r.rsvd.toNat ∧ field 16 48 = r.params.toNat := by
  intro field
  have hlast : (Bits.leBytes 48 r.params.toNat).take 48 = Bits.leBytes 48 r.params.toNat :=
    List.take_of_length_le (Bits.leBytes_length 48 _).le
  simp only [field, Req.bytes, List.append_assoc]
  refine ⟨?_, ?_, ?_, ?_, ?_, ?_, ?_⟩ <;> simp [Bits.drop_leBytes_append, hlast, -Bits.ofLe_leBytes]
  exacts [Bits.ofLe_leBytes_of_lt h, Bits.ofLe_leBytes_toNat (n := 2) r.flags, Bits.ofLe_leBytes_toNat (n := 4) r.cookie,
    Bits.ofLe_leBytes_toNat (n := 2) r.job, Bits.ofLe_leBytes_toNat (n := 1) r.version, Bits.ofLe_leBytes_toNat (n := 5) r.rsvd,
    Bits.ofLe_leBytes_toNat (n := 48) r.params]

/-- Settles O17: each field reads back what it spells, and each is as wide as what it holds. -/
theorem packetBytesRoundTrip : Obligations.PacketBytesRoundTrip := by
  unfold Obligations.PacketBytesRoundTrip
  intro opc r hopc
  obtain ⟨ho, hf, hc, hj, hv, hr, hp⟩ := Req.bytes_fields r hopc
  unfold Req.ofBytes
  simp only [ho, hf, hc, hj, hv, hr, hp, BitVec.ofNat_toNat, BitVec.setWidth_eq]

end Sys2Proof.Machine
end

section
/-! SUPPORT. Registers of memory and scratch (R372, R377, R378). -/

namespace Sys2Proof

/-- What is filtered out of a map is not read from it. -/
theorem AMap.get?_filter_none {α : Type} {m : AMap α} {k : Nat} {p : Nat × α → Bool} (h : ∀ v, p (k, v) = false) :
    AMap.get? (m.filter p) k = none := by
  unfold AMap.get?
  rw [List.lookup_eq_none_iff]
  rintro ⟨k', v⟩ he
  rw [bne_iff_ne]
  rintro rfl
  exact absurd (List.of_mem_filter he) (by rw [h v]; decide)

end Sys2Proof

namespace Sys2Proof.Machine

/-- A register of one block is none of another. -/
theorem Reg.ne_of_block {a c k : Nat} (ha : a / 0x10000 = k) (hc : c / 0x10000 ≠ k) : a ≠ c := fun h => hc (h ▸ ha)

/-- The writes of the registers of MEM and SR: the retirement of a stack's channels, the banks, and the others by their fields. -/
theorem Block.writeReg_mem {a : Nat} (hk : a / 0x10000 = 0x24) (rq : Nat) (v : Word) (d : List Nat) (b : Block) :
    b.writeReg rq a v d =
      if 0x1000 ≤ a % 0x10000 ∧ a % 0x10000 < 0x1800 ∧ a % 0x10000 % 0x100 = 4 then Mc.retireWrite ((a % 0x10000 - 0x1000) / 0x100) v b
      else if 0xC000 ≤ a % 0x10000 ∧ a % 0x10000 < 0xCC80 then Mc.bankWrite rq ((a % 0x10000 - 0xC000) / 4) false v d b
      else if 0xCD00 ≤ a % 0x10000 ∧ a % 0x10000 < 0xCD80 then Mc.bankWrite rq ((a % 0x10000 - 0xCD00) / 4 + 768) true v d b
      else b.writeFields a v := by
  have hne {c : Nat} (hc : c / 0x10000 ≠ 0x24) : a ≠ c := Reg.ne_of_block hk hc
  have hsram : ¬(0x1A000 ≤ a ∧ a < 0x20000) := by omega
  unfold Block.writeReg
  simp (disch := decide) [hk, hsram, hne]

/-- No register of MEM or SR past those of the stacks is in a pair, nor is one whose offset in its stack is no _LO's and no _HI's. -/
theorem Reg.single_mem {a : Nat} (hk : a / 0x10000 = 0x24)
    (ha : 0xC000 ≤ a % 0x10000 ∨ a % 0x10000 % 0x100 = 4) : Reg.lo? a = none ∧ Reg.hi? a = none := by
  have hlo {c : Nat} (h : (Reg.lo? c).isSome) (hc : c / 0x10000 = 0x24) : c % 0x10000 ≤ 0x1814 ∧ c % 0x100 = 0x14 := by
    obtain ⟨e, he, i, hi, hle⟩ := Reg.lo?_isSome h
    rw [hc] at he
    obtain rfl := List.mem_singleton.1 he
    dsimp only at hi hle
    omega
  refine ⟨?_, ?_⟩
  · by_contra hn
    have := hlo (Option.isSome_iff_ne_none.2 hn) hk
    omega
  · unfold Reg.hi?
    rw [if_pos (by omega)]
    by_contra hn
    have := hlo (Option.isSome_iff_ne_none.2 hn) (by omega)
    omega

/-! ## Bank handovers (R377, R378) -/

/-- The register that hands a port of a bank over stands for a bank that has the port, is in no pair, and its writes are the SR's to judge. -/
theorem Bm.ownReg_some {bank a : Nat} {p1 : Bool} (h : Bm.ownReg bank p1 = some a) :
    a % 4 = 0 ∧ (Reg.lo? a = none ∧ Reg.hi? a = none) ∧ ¬(800 ≤ bank ∨ p1 = true ∧ bank < 768) ∧
    ∀ rq v d b, Block.writeReg rq a v d b = Mc.bankWrite rq bank p1 v d b := by
  cases p1 with
  | true =>
    obtain ⟨hbank, ha⟩ := Option.ite_none_right_eq_some.1 h
    obtain rfl := Option.some.inj ha
    have hno : ((R.srBankOwnP1 (bank - 768)) % 0x10000 - 0xCD00) / 4 + 768 = bank := by unfold R.srBankOwnP1; omega
    unfold R.srBankOwnP1 at *
    refine ⟨by omega, Reg.single_mem (by omega) (by omega), by omega, fun rq v d b => ?_⟩
    rw [Block.writeReg_mem (by omega), if_neg (by omega), if_neg (by omega), if_pos (by omega), hno]
  | false =>
    obtain ⟨hbank, ha⟩ := Option.ite_none_right_eq_some.1 h
    obtain rfl := Option.some.inj ha
    have hno : ((R.srBankOwn bank) % 0x10000 - 0xC000) / 4 = bank := by unfold R.srBankOwn; omega
    unfold R.srBankOwn at *
    refine ⟨by omega, Reg.single_mem (by omega) (by omega), by simp; omega, fun rq v d b => ?_⟩
    rw [Block.writeReg_mem (by omega), if_neg (by omega), if_pos (by omega), hno]

theorem exec_srBankOwnWrite {t : Time} {rq bank a : Nat} {p1 : Bool} {s : State} (ha : Bm.ownReg bank p1 = some a)
    (h : (s.blk.tick t).reach rq a true = .acts) (v : Word) (d : List Nat) :
    exec (.srBankOwnWrite t rq bank p1 v d) s = After s (Mc.bankWrite rq bank p1 v d (s.blk.tick t)) := by
  obtain ⟨hal, hs, -, hw⟩ := Bm.ownReg_some ha
  show After s (match Bm.ownReg bank p1 with | some a => Reg.write rq a 32 v d _ | none => _) = _
  rw [ha]
  exact congrArg (After s) ((Reg.write_single hal hs h v d).trans (hw rq v d _))

theorem exec_bankHandoverDone {t : Time} {s : State} (h : (s.blk.tick t).pcr.phase = 4) (bank : Nat) (p1 : Bool) :
    exec (.bankHandoverDone t bank p1) s = After s (Mc.handoverDone bank p1 (s.blk.tick t)) :=
  (after_run s t _).trans (congrArg (After s) (Block.whenUp_of h _))

/-- A write that acts on the register that retires the channels of a stack (R372). -/
theorem Reg.write_retire {rq n : Nat} {b : Block} (hn : n < 8) (h : b.reach rq (0x241004 + 0x100 * n) true = .acts) (v : Word) (d : List Nat) :
    Reg.write rq (0x241004 + 0x100 * n) 32 v d b = Mc.retireWrite n v b := by
  have hno : ((0x241004 + 0x100 * n) % 0x10000 - 0x1000) / 0x100 = n := by omega
  rw [Reg.write_single (by omega) (Reg.single_mem (by omega) (by omega)) h, Block.writeReg_mem (by omega), if_pos (by omega), hno]

theorem exec_memSRetireWrite {t : Time} {rq stack : Nat} {s : State} (hn : stack < 8)
    (h : (s.blk.tick t).reach rq (R.memSRetire stack) true = .acts) (v : Word) :
    exec (.memSRetireWrite t rq stack v) s = After s (Mc.retireWrite stack v (s.blk.tick t)) :=
  congrArg (After s) ((if_pos hn).trans (Reg.write_retire hn h v []))

/-- A port of a bank read where it was set. -/
@[simp] theorem Block.bank_setBank_self (k : Nat) (x : Bank) (b : Block) : (b.setBank k x).bank k = x := by
  unfold Block.bank Block.setBank AMap.getD
  rw [AMap.get?_set_self]
  rfl

/-- A bank that has been cleared reads 0. -/
theorem Block.scratch_clearBank {n a : Nat} (hlo : (Bm.bankRange n).1 ≤ a) (hhi : a < (Bm.bankRange n).1 + (Bm.bankRange n).2) (b : Block) :
    (b.clearBank n).scratch.read a = 0#8 := by
  unfold Block.clearBank Mem.read AMap.getD
  rw [AMap.get?_filter_none fun v => by simp [hlo, hhi]]
  rfl

/-- Counts change no moment. -/
theorem Block.now_bumps (f : Nat → Nat) (l : List Nat) (b : Block) : (l.foldl (fun c m => c.bump (f m)) b).now = b.now := by
  induction l generalizing b with
  | nil => rfl
  | cons m l ih => exact ih _

section
variable {bank rq : Nat} {p1 : Bool} {v : Word} {x : Bank} {b : Block}

/-- Who may hand a port over, of a bank in what state, and to whom (R378). -/
def Mc.mayHand (rq new : Nat) (x : Bank) : Bool :=
  (Bm.admits x.owner rq || rq < 4 || rq == 38) && !x.fixed && !x.pending && x.owner != 35 && Bm.ownerCode new && new != 35

/-- A write of NEW starts a handover or is dropped. -/
theorem Mc.bankWrite_eq (hb : ¬(800 ≤ bank ∨ p1 = true ∧ bank < 768)) (hx : b.bank (Bm.portKey bank p1) = x) (d : List Nat) :
    Mc.bankWrite rq bank p1 v d b = if Mc.mayHand rq (Bits.fld v.toNat 13 8) x = true then
      (d.foldl (fun c m => c.bump (R.srMConf (m % 64))) b).setBank (Bm.portKey bank p1)
        { x with pending := true, clear := v.getLsbD 29, new := Bits.fld v.toNat 13 8, since := b.now }
      else b.setBits R.srStat 1 := by
  subst hx
  unfold Mc.bankWrite
  dsimp only
  rw [if_neg hb, Block.now_bumps]
  rfl

end

/-- A handover that ends: the port has its new owner, and the bank is cleared when that was asked. -/
theorem Mc.handoverDone_pending {bank : Nat} {p1 : Bool} {b : Block} (h : (b.bank (Bm.portKey bank p1)).pending = true) :
    let x := b.bank (Bm.portKey bank p1)
    Mc.handoverDone bank p1 b = (if x.clear then b.clearBank bank else b).setBank (Bm.portKey bank p1)
      { x with pending := false, clear := false, owner := x.new } := if_pos h

/-- Settles O9: a handover starts when the write may start one, and its end and the retirement are read off their effects. -/
theorem bankHandover : Obligations.BankHandover := by
  unfold Obligations.BankHandover
  refine ⟨?own, ?done, ?retire⟩
  case own =>
    intro t rq bank a p1 v d s b k x new ha h
    obtain ⟨-, -, hb, -⟩ := Bm.ownReg_some ha
    rw [exec_srBankOwnWrite ha h, Mc.bankWrite_eq (x := x) hb rfl]
    refine ⟨fun hmay hfix hpend ho hc hn => ?_, fun hbad => ?_⟩
    · have hstart : Mc.mayHand rq (Bits.fld v.toNat 13 8) x = true := by
        simpa [Mc.mayHand, hfix, hpend, ho, or_assoc] using ⟨⟨hmay, hc⟩, hn⟩
      rw [if_pos hstart]
    · have hdrop : ¬Mc.mayHand rq (Bits.fld v.toNat 13 8) x = true := by
        rcases hbad with hf | hp | ho | hn
        · simp [Mc.mayHand, hf]
        · simp [Mc.mayHand, hp]
        · simp [Mc.mayHand, ho]
        · exact fun hm => absurd hn (by simpa [Mc.mayHand] using (Bool.and_eq_true_iff.1 hm).2)
      rw [if_neg hdrop]
  case done =>
    intro t bank p1 s b k hup hp
    refine ⟨_, exec_bankHandoverDone hup bank p1, ?_⟩
    rw [Mc.handoverDone_pending hp, Block.bank_setBank_self]
    refine ⟨rfl, rfl, fun hclear a hlo hhi => ?_, fun hkeep => ?_⟩
    · rw [if_pos hclear]
      exact Block.scratch_clearBank hlo hhi b
    · rw [if_neg (by rw [hkeep]; decide)]
      rfl
  case retire =>
    intro t rq stack v s b hn h
    exact exec_memSRetireWrite hn h v

end Sys2Proof.Machine
end

section
/-! SUPPORT. Which accesses reach a register (R486, R505), and what the access types do (R6, R10, R12, R13). -/

namespace Sys2Proof.Machine

/-! ## Which accesses get through -/

/-- In Calm only the sideband port gets an answer. -/
theorem Block.reach_calm {rq : Nat} {b : Block} (h : b.pcr.phase = 5) (hrq : rq ≠ 39) (a : Nat) (w : Bool) : b.reach rq a w = .gone := by
  unfold Block.reach
  split
  · rfl
  · rw [h]
    rfl

/-- The sideband port, which is no hart, reaches in Calm the registers listed. -/
theorem Block.reach_calm_sideband {a : Nat} {b : Block} (h : b.pcr.phase = 5) (ha : a < 0x400000) (w : Bool) :
    b.reach 39 a w = if Reg.calm a then .acts else .void := by
  have hgate : ¬((!Rq.known 39) = true ∨ 0x400000 ≤ a ∨ b.trigHit 39 a w = true) := by
    have hknown : Rq.known 39 = true := by decide
    have htrig : b.trigHit 39 a w = false := rfl
    simp [hknown, htrig, ha]
  unfold Block.reach
  rw [if_neg hgate, h]
  rfl

theorem Reg.calm_iff (a : Nat) : Reg.calm a = true ↔
    a ≤ 0xC ∨ (0x200000 ≤ a ∧ a ≤ 0x20000C) ∨ a = 0x200030 ∨ (0x280000 ≤ a ∧ a < 0x2A0000) := by
  simp [Reg.calm, or_assoc]

/-- In a device locked while it runs, a write of a requester other than a control processor does not act. -/
theorem Block.reach_locked {rq : Nat} {b : Block} (h : b.pcr.phase = 4) (hl : b.locked = true) (hrq : 10 ≤ rq) (a : Nat) :
    b.reach rq a true ≠ .acts := by
  unfold Block.reach
  split
  · decide
  · rw [h]
    simp [hl, hrq]

/-- A write that does not act, and meets no trigger, does nothing. -/
theorem Reg.write_ignored {rq a w : Nat} {b : Block} (h : ¬(w = 32 ∧ a % 4 = 0 ∧ b.reach rq a true = .acts)) (ht : b.trigHit rq a true = false)
    (v : Word) (d : List Nat) : Reg.write rq a w v d b = b := by
  unfold Reg.write Block.trigHalt
  rw [if_neg h, ht]
  rfl

theorem exec_regWrite (t : Time) (rq a w : Nat) (v : Word) (s : State) :
    exec (.regWrite t rq a w v) s = After s (Reg.write rq a w v [] (s.blk.tick t)) := rfl
theorem exec_regReadClear (t : Time) (rq a w : Nat) (s : State) :
    exec (.regReadClear t rq a w) s = After s (Reg.read rq a w (s.blk.tick t)) := rfl

/-- A read that acts, of the wrong width or place (R6). -/
theorem Reg.read_misaligned {rq a w : Nat} {b : Block} (hw : w ≠ 32 ∨ a % 4 ≠ 0) (h : b.reach rq a false = .acts) :
    Reg.read rq a w b = b.returns rq 0xFFFFFFFF#32 := by
  unfold Reg.read
  rw [h]
  exact if_neg (by omega)

/-! ## The error summary, whose bits are W1C (R10, R12) -/

theorem Reg.single_errSum : ∀ k < 8, R.cmdErrSum k % 4 = 0 ∧ Reg.lo? (R.cmdErrSum k) = none ∧ Reg.hi? (R.cmdErrSum k) = none := by
  decide

/-- A register whose 32 bits are all W1C. -/
theorem Block.writeReg_errSum {k : Nat} (hk : k < 8) (rq : Nat) (v : Word) (d : List Nat) (b : Block) :
    b.writeReg rq (R.cmdErrSum k) v d = b.putN (R.cmdErrSum k) (Nat.lor (Nat.land (Reg.merge (b.regN (R.cmdErrSum k)) v.toNat 0 [])
      (Nat.xor 0xFFFFFFFF (Nat.land v.toNat 0xFFFFFFFF))) (b.kept (R.cmdErrSum k) 0xFFFFFFFF)) := by
  interval_cases k <;> rfl

/-- A register taken to its own value with the bits of `v` cleared, those of `m` set. -/
theorem Bits.ofNat_cleared (x v : Word) (m : Nat) :
    BitVec.ofNat 32 (Nat.lor (Nat.land x.toNat (Nat.xor 0xFFFFFFFF (Nat.land v.toNat 0xFFFFFFFF))) m) = (x &&& ~~~v) ||| BitVec.ofNat 32 m := by
  have hall : Nat.land v.toNat 0xFFFFFFFF = v.toNat := (Nat.and_two_pow_sub_one_eq_mod v.toNat 32).trans (Nat.mod_eq_of_lt v.isLt)
  have hnot : BitVec.ofNat 32 (Nat.xor 0xFFFFFFFF v.toNat) = ~~~v := by
    change BitVec.ofNat 32 (0xFFFFFFFF ^^^ v.toNat) = ~~~v
    rw [BitVec.ofNat_xor, BitVec.ofNat_toNat, BitVec.setWidth_eq]
    exact BitVec.allOnes_xor
  rw [hall]
  change BitVec.ofNat 32 ((x.toNat &&& Nat.xor 0xFFFFFFFF v.toNat) ||| m) = _
  rw [BitVec.ofNat_or, BitVec.ofNat_and, hnot, BitVec.ofNat_toNat, BitVec.setWidth_eq]

/-- A clear of W1C bits keeps those that events of the same moment have set. -/
theorem Block.writeReg_errSum_eq {k : Nat} (hk : k < 8) (rq : Nat) (v : Word) (d : List Nat) (b : Block) :
    b.writeReg rq (R.cmdErrSum k) v d = b.setReg (R.cmdErrSum k)
      ((b.reg (R.cmdErrSum k) &&& ~~~v) ||| BitVec.ofNat 32 (b.kept (R.cmdErrSum k) 0xFFFFFFFF)) := by
  rw [Block.writeReg_errSum hk, Reg.merge_none (b.regN_lt _)]
  unfold Block.putN Block.regN
  rw [Bits.ofNat_cleared]

theorem exec_regWrite_errSum {t : Time} {rq k : Nat} {s : State} (hk : k < 8) (h : (s.blk.tick t).reach rq (R.cmdErrSum k) true = .acts) (v : Word) :
    exec (.regWrite t rq (R.cmdErrSum k) 32 v) s = After s ((s.blk.tick t).setReg (R.cmdErrSum k)
      (((s.blk.tick t).reg (R.cmdErrSum k) &&& ~~~v) ||| BitVec.ofNat 32 ((s.blk.tick t).kept (R.cmdErrSum k) 0xFFFFFFFF))) := by
  obtain ⟨hal, hs⟩ := Reg.single_errSum k hk
  rw [exec_regWrite, Reg.write_single hal hs h, Block.writeReg_errSum_eq hk]

/-- Of a register without events of this moment nothing is kept. -/
theorem Block.kept_of_none {a : Nat} {b : Block} (h : AMap.get? b.fresh a = none) (mask : Nat) : b.kept a mask = 0 := by
  unfold Block.kept
  rw [h]
  rfl

theorem Block.kept_of_some {a old new : Nat} {b : Block} (h : AMap.get? b.fresh a = some (old, new)) (mask : Nat) :
    b.kept a mask = Nat.land new mask := by
  unfold Block.kept
  rw [h]
  rfl

/-- A word takes the low 32 bits of a number. -/
theorem Bits.ofNat_land_mask (n : Nat) : BitVec.ofNat 32 (Nat.land n 0xFFFFFFFF) = BitVec.ofNat 32 n := by
  apply BitVec.eq_of_toNat_eq
  rw [BitVec.toNat_ofNat, BitVec.toNat_ofNat, show Nat.land n 0xFFFFFFFF = n % 2 ^ 32 from Nat.and_two_pow_sub_one_eq_mod n 32, Nat.mod_mod]

/-! ## GAP_US, an RW field with a range (R13) -/

/-- A write of FIF_GAP_TMO. -/
theorem Block.writeReg_gapTmo (rq : Nat) (v : Word) (d : List Nat) (b : Block) :
    b.writeReg rq R.fifGapTmo v d = b.putN R.fifGapTmo (Nat.lor (Nat.land (Reg.merge (b.regN R.fifGapTmo) v.toNat 0x3FFF [(13, 0, [(10, 10000)])])
      (Nat.xor 0xFFFFFFFF (Nat.land v.toNat 0))) (b.kept R.fifGapTmo 0)) := rfl

/-- What a write of the low 14 bits leaves there, and that it is a word. -/
theorem Reg.merged_low (old new : Nat) :
    ((old &&& (0x3FFF ^^^ 0xFFFFFFFF)) ||| (new &&& 0x3FFF)) % 2 ^ 14 = new % 2 ^ 14 ∧
    ((old &&& (0x3FFF ^^^ 0xFFFFFFFF)) ||| (new &&& 0x3FFF)) < 2 ^ 32 := by
  have hhigh : (0x3FFF ^^^ 0xFFFFFFFF) % 2 ^ 14 = 0 := by decide
  have hlow : new &&& 0x3FFF = new % 2 ^ 14 := Nat.and_two_pow_sub_one_eq_mod new 14
  refine ⟨?_, Nat.or_lt_two_pow (Nat.and_lt_two_pow _ (by decide)) ?_⟩
  · rw [Nat.or_mod_two_pow, Nat.and_mod_two_pow, hhigh, Nat.and_zero, Nat.zero_or, hlow, Nat.mod_mod]
  · omega

/-- A value in the range of GAP_US is taken, and any other leaves the field. -/
theorem Reg.merge_gapUs (old : Nat) {v : Nat} (hv : v < 2 ^ 14) :
    Reg.merge old v 0x3FFF [(13, 0, [(10, 10000)])] < 2 ^ 32 ∧
    Reg.merge old v 0x3FFF [(13, 0, [(10, 10000)])] % 2 ^ 14 = if 10 ≤ v ∧ v ≤ 10000 then v else old % 2 ^ 14 := by
  obtain ⟨hmod, hlt⟩ := Reg.merged_low old v
  have hx : Bits.fld v 13 0 = v := (Bits.fld_low v 13).trans (Nat.mod_eq_of_lt hv)
  have hmerge : Reg.merge old v 0x3FFF [(13, 0, [(10, 10000)])] = if 10 ≤ v ∧ v ≤ 10000 then
      (old &&& (0x3FFF ^^^ 0xFFFFFFFF)) ||| (v &&& 0x3FFF)
      else Bits.put ((old &&& (0x3FFF ^^^ 0xFFFFFFFF)) ||| (v &&& 0x3FFF)) 13 0 (old % 2 ^ 14) := by
    unfold Reg.merge
    simp only [List.foldl_cons, List.foldl_nil, List.any_cons, List.any_nil, Bool.or_false, hx, Bits.fld_low, Bool.and_eq_true,
      decide_eq_true_eq]
    rfl
  rw [hmerge]
  split
  · rw [hmod, Nat.mod_eq_of_lt hv]
    exact ⟨hlt, rfl⟩
  · rw [Bits.put_low]
    omega

/-- What a write leaves in GAP_US. -/
theorem Block.fld_writeReg_gapTmo {v : Word} (hv : v.toNat / 2 ^ 14 = 0) (rq : Nat) (d : List Nat) (b : Block) :
    (b.writeReg rq R.fifGapTmo v d).fld R.fifGapTmo 13 0 =
      if 10 ≤ v.toNat ∧ v.toNat ≤ 10000 then v.toNat else b.fld R.fifGapTmo 13 0 := by
  obtain ⟨hlt, hmod⟩ := Reg.merge_gapUs (b.regN R.fifGapTmo) (v := v.toNat) (by omega)
  rw [Block.writeReg_gapTmo, Block.w1c_none hlt]
  unfold Block.fld
  rw [Block.regN_putN_self, Nat.mod_eq_of_lt hlt, Bits.fld_low, Bits.fld_low, hmod]

/-! ## Registers that a read clears (R10, R12) -/

/-- A register that is neither half of a pair, and is none of those that capture a time, is read and cleared. -/
theorem Block.readReg_single {a : Nat} (hl : Reg.lo? a = none) (hh : Reg.hi? a = none) (hnow : a ≠ R.tuNowNs) (h0 : a ≠ R.tuPiTsNs 0)
    (h1 : a ≠ R.tuPiTsNs 1) (rq : Nat) (b : Block) : b.readReg rq a = (b.readClear a).returns rq (b.readVal rq a) := by
  unfold Block.readReg
  rw [if_neg hnow, if_neg h0, if_neg h1, hl, hh]
  rfl

/-- The RC bits of a register are cleared, but for those of events of the same moment. -/
theorem Block.readClear_eq {a : Nat} {e : RegEnt} {b : Block} (he : RegMap.find? a = some e) (hrc : e.rc ≠ 0)
    (hring : ¬(0x11000 ≤ a ∧ a < 0x15000)) : b.readClear a =
      ({ b with fresh := AMap.erase b.fresh a } : Block).setReg a ((b.reg a &&& ~~~BitVec.ofNat 32 e.rc) ||| BitVec.ofNat 32 (b.kept a e.rc)) := by
  unfold Block.readClear
  rw [he]
  exact (if_neg hrc).trans (if_neg hring)

/-- Without events of the same moment a read returns what the register shows. -/
theorem Block.readVal_of_none {a : Nat} {b : Block} (h : AMap.get? b.fresh a = none) (rq : Nat) : b.readVal rq a = b.show rq a := by
  unfold Block.readVal
  rw [h]
  cases RegMap.find? a <;> rfl

/-- With events of the same moment a read returns the RC bits as they were before them. -/
theorem Block.readVal_of_some {a old new : Nat} {e : RegEnt} {b : Block} (he : RegMap.find? a = some e)
    (h : AMap.get? b.fresh a = some (old, new)) (rq : Nat) : b.readVal rq a =
      BitVec.ofNat 32 (Nat.lor (Nat.land (b.show rq a).toNat (Nat.xor e.rc 0xFFFFFFFF)) (Nat.land old e.rc)) := by
  unfold Block.readVal
  rw [he, h]

/-- Settles O7: who gets through, and each access type by the register that has it. -/
theorem registerAccess : Obligations.RegisterAccess := by
  unfold Obligations.RegisterAccess
  refine ⟨⟨?calm, ?calmSideband, ?locked⟩, ?misaligned, ?misalignedRead, ?errSum, ?gap, ?readClear⟩
  case calm =>
    intro b rq a w h hrq
    exact Block.reach_calm h hrq a w
  case calmSideband =>
    intro b a w h ha
    rw [Block.reach_calm_sideband h ha, ← Reg.calm_iff]
    cases Reg.calm a <;> decide
  case locked =>
    intro t rq a w v s h hl hrq ht
    rw [exec_regWrite, Reg.write_ignored (fun hw => Block.reach_locked h hl hrq a hw.2.2) ht]
  case misaligned =>
    intro t rq a w v s hw ht
    rw [exec_regWrite, Reg.write_ignored (fun ⟨h32, hal, _⟩ => hw.elim (· h32) (· hal)) ht]
  case misalignedRead =>
    intro t rq a w s hw h
    rw [exec_regReadClear, Reg.read_misaligned hw h]
  case errSum =>
    intro t rq k v s hk h
    rw [exec_regWrite_errSum hk h]
    refine ⟨fun hnone => ?_, fun old new hsome => ?_⟩
    · rw [Block.kept_of_none hnone]
      exact congrArg (fun x => After s (Block.setReg _ x _)) (BitVec.or_zero)
    · rw [Block.kept_of_some hsome, Bits.ofNat_land_mask]
  case gap =>
    intro t rq v s hv h
    have hx := Block.fld_writeReg_gapTmo hv rq [] (s.blk.tick t)
    have hw : exec (.regWrite t rq R.fifGapTmo 32 v) s = After s ((s.blk.tick t).writeReg rq R.fifGapTmo v []) := by
      rw [exec_regWrite, Reg.write_single (by decide) (by decide) h]
    refine ⟨fun hlo hhi => ⟨_, hw, ?_⟩, fun hout => ⟨_, hw, ?_⟩⟩
    · rw [hx, if_pos ⟨hlo, hhi⟩]
    · rw [hx, if_neg (by omega)]
  case readClear =>
    intro t rq a e s hal h he hrc hring hl hh hnow h0 h1 b c
    have hread : exec (.regReadClear t rq a 32) s = After s ((b.readClear a).returns rq (b.readVal rq a)) := by
      rw [exec_regReadClear, Reg.read_acts hal h, Block.readReg_single hl hh hnow h0 h1]
    rw [hread, Block.readClear_eq he hrc hring]
    refine ⟨fun hnone => ?_, fun old new hsome => ?_⟩
    · rw [Block.kept_of_none hnone, Block.readVal_of_none hnone]
      exact congrArg (fun x => After s ((Block.setReg _ x _).returns _ _)) (BitVec.or_zero)
    · rw [Block.kept_of_some hsome, Block.readVal_of_some he hsome]

end Sys2Proof.Machine
end

section
/-! SUPPORT. A write of PCR_CLK_SET while the engines are awake (R429, R435): moving their clock is a step of the modelled current, which joins
those that wait for the ramp governor. -/

namespace Sys2Proof.Machine

/-- A device that runs with its engines awake (PSTATE 2), and is otherwise as at reset. -/
def clkAwake : Block := ({ Block.init with pcr := { PcrState.init with phase := 4 } } : Block).setReg R.pcrStat 0x80000000#32

/-- How many steps of current wait for the ramp governor after a command. -/
def rampLengthAfter : Host.Outcome State Fault Refusal → Nat
  | .next s => s.blk.pcr.ramp.length
  | _ => 0

theorem exec_pcrClkSetWrite {t : Time} {rq : Nat} {s : State} (h : (s.blk.tick t).reach rq R.pcrClkSet true = .acts) (v : Word) :
    exec (.pcrClkSetWrite t rq v) s = After s (Pcr.clkWrite v (s.blk.tick t)) :=
  congrArg (After s) (Reg.write_single (by decide) (by decide) h v [])

/-- The write of both fields in range leaves one step waiting. -/
theorem rampLength_clkWrite : rampLengthAfter (After ⟨clkAwake, []⟩ (Pcr.clkWrite 0x1412#32 (clkAwake.tick 0))) = 1 := by decide

/-- The two fields set, and nothing else, leave none. -/
theorem rampLength_clkFields : rampLengthAfter (After ⟨clkAwake, []⟩
    (((clkAwake.tick 0).clkMark.putFld R.pcrClkSet 7 0 ((0x1412#32 : Word).toNat % 256)).putFld R.pcrClkSet 15 8 ((0x1412#32 : Word).toNat / 256 % 256))) = 0 := by
  decide

/-- Refutes O10: a host core sets ENG from 36 to 18 while the engines are awake; the statement leaves out the step of current that the model,
by R435, has wait for the ramp governor. -/
theorem not_timeClockAndTelemetryRegisters : ¬ Obligations.TimeClockAndTelemetryRegisters := by
  unfold Obligations.TimeClockAndTelemetryRegisters
  rintro ⟨⟨-, -, hclk, -⟩, -⟩
  have hacts : (clkAwake.tick 0).reach 10 R.pcrClkSet true = .acts := by decide
  have h := hclk 0 10 0x1412#32 ⟨clkAwake, []⟩ hacts (by decide) (by decide) (by decide) (by decide)
  rw [exec_pcrClkSetWrite hacts] at h
  have hlen := congrArg rampLengthAfter h
  rw [rampLength_clkWrite, rampLength_clkFields] at hlen
  exact absurd hlen (by decide)

end Sys2Proof.Machine
end

section
/-! SUPPORT. Comb lasers (R322, R323, R328 to R331), eye safety (R345 to R347) and ageing (R348). -/

namespace Sys2Proof.Machine

/-! ## The commands -/

/-- While the optics processor of a port runs, a command of the port's LO leaves what its effect leaves. -/
theorem after_lo {t : Time} {s : State} {p : Nat} (h : (s.blk.tick t).pcr.phase = 4) (hp : p < 2)
    (hc : (s.blk.tick t).cpOut (6 + p) = false) (f : Block → Block) :
    (Host.Outcome.next (s.run t fun b => b.whenLo p f) : Host.Outcome State Fault Refusal) = After s (f (s.blk.tick t)) := by
  rw [after_run, Block.whenLo_of hp h hc]

section
variable {t : Time} {s : State} {p : Nat} (h : (s.blk.tick t).pcr.phase = 4) (hp : p < 2)

theorem exec_eyeSafetyShutdown (h : (s.blk.tick t).pcr.phase = 4) (hp : p < 2) :
    exec (.eyeSafetyShutdown t p) s = After s (Lo.eyeSafety p (s.blk.tick t)) :=
  (after_run s t _).trans (congrArg (After s) ((if_pos hp).trans (Block.whenUp_of h _)))

theorem exec_ageingHourly (h : (s.blk.tick t).pcr.phase = 4) : exec (.ageingHourly t) s = After s (Lo.ageing (s.blk.tick t)) :=
  (after_run s t _).trans (congrArg (After s) (Block.whenUp_of h _))

variable (hc : (s.blk.tick t).cpOut (6 + p) = false)
include h hp hc

theorem exec_combBringUp : exec (.combBringUp t p) s = After s (Lo.bringUp p (s.blk.tick t)) := after_lo h hp hc _
theorem exec_combBringUpDone (x : BringUp) :
    exec (.combBringUpDone t p x.ends x.comb x.rings x.bias) s = After s (Lo.bringUpDone p x (s.blk.tick t)) := after_lo h hp hc _
theorem exec_combStateLoss : exec (.combStateLoss t p) s = After s (Lo.stateLoss p (s.blk.tick t)) := after_lo h hp hc _
theorem exec_combReacquired (scan : LineScan) : exec (.combReacquired t p scan) s = After s (Lo.reacquired p scan (s.blk.tick t)) :=
  after_lo h hp hc _
theorem exec_combAutoSwitch : exec (.combAutoSwitch t p) s = After s (Lo.autoSwitch p (s.blk.tick t)) := after_lo h hp hc _
theorem exec_linesLowExpiry : exec (.linesLowExpiry t p) s = After s (Lo.linesLow p (s.blk.tick t)) := after_lo h hp hc _
theorem exec_combLineCheck (x : LoTick) : exec (.combLineCheck t p x) s = After s (Lo.lineCheck p x (s.blk.tick t)) := after_lo h hp hc _
theorem exec_safeProbe : exec (.safeProbe t p) s = After s (Lo.safeProbe p (s.blk.tick t)) := after_lo h hp hc _
theorem exec_safeProbeEnd : exec (.safeProbeEnd t p) s = After s (Lo.probeEnd p (s.blk.tick t)) := after_lo h hp hc _

end

theorem exec_combSwitch {t : Time} {r : Req} {s : State} {b : Block} {id : Nat} (h : Starts 0x0607 r t s b id) :
    exec (.combSwitch t r) s = After s (Lo.combSwitch id r b) := cmd_runs h _

/-! ## COMB_SWITCH (R331, R349) -/

/-- The fields of COMB_SWITCH and TUNE_METHOD are sound when the packet names a port and one of two choices, and leaves the rest as it must be. -/
theorem Lo.choiceFields_sound {r : Req} (h16 : r.u 16 8 = 0) (hp : r.a1 < 2) (h28 : r.a2 = 0xFF) (h32 : r.u 32 1 < 2) (h33 : r.u 33 31 = 0) :
    ∀ e ∈ Lf.portFields r (· == 0xFF) ++ [(32, decide (2 ≤ r.u 32 1)), (33, r.nz 33 31)], e.2 = false := by
  simpa [Lf.portFields, h16, hp, h28, h33] using h32

/-- COMB_SWITCH with sound fields acts by the laser named, the state of the port, and a switch that runs. -/
theorem Lo.combSwitch_sound {t : Time} {r : Req} {s : State} {b : Block} {id : Nat} (h : Starts 0x0607 r t s b id)
    (h16 : r.u 16 8 = 0) (hp : r.a1 < 2) (h28 : r.a2 = 0xFF) (h32 : r.u 32 1 < 2) (h33 : r.u 33 31 = 0) :
    Lo.combSwitch id r b =
      if b.combActive r.a1 = (if r.u 32 1 = 1 then 1 else 2) then b.ok id 0
      else if b.lfState r.a1 = 0 then (b.modLo r.a1 fun x => { x with target := if r.u 32 1 = 1 then 1 else 2, picked := true }).ok id 0
      else if b.switching r.a1 = true then b.done id St.busy 0
      else if b.funcMode (0x200 + r.a1) ≠ 1 ∧ b.combActive r.a1 = 0 ∧ (b.lo1 r.a1).bring.isNone = true then b.done id St.state 0
      else (b.modLo r.a1 fun x => { x with target := 3 - if r.u 32 1 = 1 then 1 else 2 }).bringUp r.a1 (if r.u 32 1 = 1 then 1 else 2) (some id) false := by
  unfold Lo.combSwitch
  rw [Ci.check8_sound h (Lo.choiceFields_sound h16 hp h28 h32 h33)]

/-! ## Bring-up (R328, R332) -/

section
variable {p : Nat} {b : Block}

/-- The laser that a bring-up takes: the target, or the other one when the target is FAILED and COMB_SWITCH has not named it. -/
def Block.nextLaser (p : Nat) (b : Block) : Nat :=
  if b.laser p (b.lo1 p).target = 2 ∧ (b.lo1 p).picked = false then 3 - (b.lo1 p).target else (b.lo1 p).target

theorem Lo.bringUp_begins (hl : b.lfState p ≠ 0) (hf : b.funcMode (0x200 + p) = 1) (ha : b.combActive p = 0) (hb : (b.lo1 p).bring = none)
    (hk : b.laser p (b.nextLaser p) ≠ 2 ∨ (b.lo1 p).picked = true) : Lo.bringUp p b = b.bringUp p (b.nextLaser p) none false := by
  unfold Block.nextLaser at *
  unfold Lo.bringUp
  simp only [hl, hf, ha, hb, ne_eq, not_true_eq_false, Option.isSome_none, Bool.false_eq_true, or_self, if_false, Bool.and_eq_true,
    decide_eq_true_eq, Bool.not_eq_true']
  exact if_neg fun ⟨h2, hpick⟩ => hk.elim (· h2) (fun h => by rw [h] at hpick; exact absurd hpick (by decide))

theorem Lo.bringUp_idle (h : b.combActive p ≠ 0 ∨ b.funcMode (0x200 + p) ≠ 1) : Lo.bringUp p b = b :=
  if_pos (h.elim (fun h => .inr (.inr (.inl h))) fun h => .inr (.inl h))

/-- What the steps of a bring-up must have found. -/
theorem BringUp.passed_iff (x : BringUp) : BringUp.passed x = true ↔
    (∀ i, i < 7 → ∃ e, x.ends[i]? = some e ∧ e ≤ Lo.stepEnds.getD i 0 * ms) ∧ LineScan.usable x.comb.scan = 0xFFFFFFFF ∧
      Lo.onPlan x.comb.freq = true := by
  have hend (i : Nat) : (x.ends[i]?.any fun e => decide (e ≤ Lo.stepEnds.getD i 0 * ms)) = true ↔
      ∃ e, x.ends[i]? = some e ∧ e ≤ Lo.stepEnds.getD i 0 * ms := by
    cases x.ends[i]? <;> simp
  simp only [BringUp.passed, Bool.and_eq_true, List.all_eq_true, List.mem_range, hend, beq_iff_eq, and_assoc]

variable {x : BringUp} {g : Bring} (hg : (b.lo1 p).bring = some g)
include hg

theorem Lo.bringUpDone_fails (h : ¬(BringUp.passed x = true ∧ b.now ≤ g.since + 645 * ms)) : Lo.bringUpDone p x b = b.bringFail p g := by
  unfold Lo.bringUpDone
  rw [hg]
  refine if_pos ?_
  simp only [Bool.or_eq_true, Bool.not_eq_true', decide_eq_true_eq]
  by_contra hn
  rw [not_or, Bool.not_eq_false, Nat.not_lt] at hn
  exact h hn

theorem Lo.bringUpDone_lit (hx : BringUp.passed x = true) (ht : b.now ≤ g.since + 645 * ms) :
    Lo.bringUpDone p x b = match g.cmd with | some id => (b.bringLit p g x).ok id 0 | none => b.bringLit p g x := by
  unfold Lo.bringUpDone
  rw [hg]
  exact if_neg (by simp [hx, ht])

end

/-- A moment that a condition has held for `n` ms. -/
theorem late_iff (n : Nat) (o : Option Time) (now : Time) :
    (o.any fun t => decide (t + n * ms ≤ now)) = true ↔ ∃ t0, o = some t0 ∧ t0 + n * ms ≤ now := by
  simp only [Option.any_eq_true, decide_eq_true_eq]

/-! ## The comb state lost and acquired again, and too few lines (R329, R330) -/

section
variable {p : Nat} {t0 : Time} {b : Block}

section
variable (hr : (b.lo1 p).reacq = some t0)
include hr

/-- A re-acquisition in time, or not, by the line check. -/
theorem Lo.reacquired_eq (hf : (b.lo1 p).reFail = false) (ht : b.now ≤ t0 + 120 * ms) (scan : LineScan) : Lo.reacquired p scan b =
    if LineScan.usable scan = 0xFFFFFFFF then
      ((b.modLo p fun x => { x with reacq := none, reFail := false, lowAt := none, lines := 0xFFFFFFFF }).putFld (R.loCombStat p) 21 16 32).relight p
    else b.modLo p fun x => { x with reFail := true } := by
  unfold Lo.reacquired
  simp only [hr, hf, Bool.or_false, decide_eq_true_eq, Nat.not_lt.2 ht, if_false, ne_eq, ite_not]
  split
  · rename_i hu
    rw [hu]
  · rfl

/-- The one re-acquisition fails once. -/
theorem Lo.reacquired_failed (hf : (b.lo1 p).reFail = true) (scan : LineScan) : Lo.reacquired p scan b = b := by
  unfold Lo.reacquired
  simp only [hr, hf, Bool.or_true, if_true]

/-- The other laser comes up when the re-acquisition has failed, by its line check or by its 120 ms. -/
theorem Lo.autoSwitch_eq : Lo.autoSwitch p b =
    if ((b.lo1 p).reFail = true ∨ t0 + 120 * ms ≤ b.now) ∧ b.bit (R.loCombCfg p) 8 = true ∧ b.combActive p ≠ 0 ∧ b.switching p = false then
      b.autoSwitch p
    else b := by
  unfold Lo.autoSwitch
  refine if_congr ?_ rfl rfl
  simp only [Option.any_eq_true, hr, Option.some.injEq, exists_eq_left', Bool.and_eq_true, Bool.or_eq_true, decide_eq_true_eq, bne_iff_ne, Bool.not_eq_true', and_assoc]

end

/-- The other laser comes up when the lines have been too few for 1 s. -/
theorem Lo.linesLow_eq (hl : (b.lo1 p).lowAt = some t0) : Lo.linesLow p b =
    if t0 + 1000 * ms ≤ b.now ∧ b.bit (R.loCombCfg p) 8 = true ∧ b.combOn p = true ∧ b.laser p (3 - b.combActive p) ≠ 2 then b.autoSwitch p
    else b := by
  unfold Lo.linesLow
  refine if_congr ?_ rfl rfl
  simp only [late_iff, hl, Option.some.injEq, exists_eq_left', Bool.and_eq_true, bne_iff_ne, and_assoc]

/-! ## Eye safety (R345, R346) -/

/-- What shuts a port down. -/
def Block.glares (b : Block) (p : Nat) : Prop :=
  (∃ t0, (b.lo1 p).darkAt = some t0 ∧ t0 + b.fld (R.loSafeCfg p) 11 0 * ms ≤ b.now) ∨ ∃ t0, (b.lo1 p).reflAt = some t0 ∧ t0 + 10 * ms ≤ b.now

/-- A port is not shut down while the shutdown is disabled, or has begun, or nothing calls for it. -/
theorem Lo.eyeSafety_idle (h : b.bit (R.loSafeCfg p) 31 = true ∨ b.safe p = true ∨ ¬b.glares p) : Lo.eyeSafety p b = b := by
  unfold Block.glares at h
  unfold Lo.eyeSafety
  refine if_pos ?_
  simp only [Bool.or_eq_true, Bool.not_eq_true', ← Bool.not_eq_true, late_iff, beq_iff_eq]
  tauto

/-- The calibration of a port that is shut down is abandoned, and the removal that it asked for with it. -/
def Block.calAbandoned (p : Nat) (b : Block) : Block :=
  match (b.lo1 p).cal with
  | some x => (b.calDrop p).modLm p x.mem fun y => if y.planBy = 0 then { y with plan := 0, freed := false, back := none } else y
  | none => b

/-- What shows of a shutdown: SAFE, its sticky bit, its count and its trace. -/
def Block.safeShown (p : Nat) (b : Block) : Block :=
  (((b.putBit (R.loStat p) 31 true).loSticky p 5).bump (R.loSafeCnt p)).loTrace 5 p 0xFF (b.combActive p)

/-- The shutdown begins. -/
theorem Lo.eyeSafety_shuts (hon : b.bit (R.loSafeCfg p) 31 = false) (hs : b.safe p = false) (hl : b.lfState p ≠ 0) (h : b.glares p) :
    let d := (b.calAbandoned p).safeShown p
    Lo.eyeSafety p b = ((((d.modLo p fun y => { y with
      probe := none, powerAt := none, probeNext := d.now + 1000 * ms * d.fld (R.loSafeCfg p) 25 16 }).loopFlag p 0 false true).relight p).setLf p 5) := by
  have hlate : (((b.lo1 p).darkAt.any fun t => decide (t + b.fld (R.loSafeCfg p) 11 0 * ms ≤ b.now)) ||
      (b.lo1 p).reflAt.any fun t => decide (t + 10 * ms ≤ b.now)) = true := by
    rw [Bool.or_eq_true, late_iff, late_iff]
    exact h
  unfold Lo.eyeSafety
  exact if_neg (by simp only [hon, hs, beq_false_of_ne hl, hlate]; decide)

/-- A probe begins, or the shutdown ends. -/
theorem Lo.safeProbe_ends (hs : b.safe p = true) (hp : (b.lo1 p).powerAt = some t0) (ht : t0 + 100 * ms ≤ b.now) : Lo.safeProbe p b = b.safeEnd p := by
  have hpower : ((b.lo1 p).powerAt.any fun t => decide (t + 100 * ms ≤ b.now)) = true := (late_iff 100 _ _).2 ⟨t0, hp, ht⟩
  unfold Lo.safeProbe
  dsimp only
  rw [if_neg (by rw [hs]; decide), if_pos hpower]

theorem Lo.safeProbe_begins (hs : b.safe p = true) (hp : (b.lo1 p).probe = none) (hw : (b.lo1 p).powerAt = none)
    (ht : (b.lo1 p).probeNext ≤ b.now) : Lo.safeProbe p b =
      ((b.putBit (R.loStat p) 27 true).modLo p fun y => { y with
        probe := some b.now, probeNext := b.now + 1000 * ms * b.fld (R.loSafeCfg p) 25 16 }).relight p := by
  unfold Lo.safeProbe
  dsimp only
  rw [if_neg (by rw [hs]; decide), if_neg (by rw [hw]; exact Bool.false_ne_true), if_pos (by simp [hp, hw, ht])]

theorem Lo.safeProbe_idle (hs : b.safe p = false) : Lo.safeProbe p b = b := if_pos (by rw [hs]; rfl)

/-- A probe ends after 2 s. -/
theorem Lo.probeEnd_eq (hp : (b.lo1 p).probe = some t0) : Lo.probeEnd p b =
    if t0 + 2000 * ms ≤ b.now then ((b.putBit (R.loStat p) 27 false).modLo p fun y => { y with probe := none }).relight p else b := by
  unfold Lo.probeEnd
  refine if_congr ?_ rfl rfl
  simp only [late_iff, hp, Option.some.injEq, exists_eq_left']

end

/-! ## Ageing (R348) -/

/-- A port without an active laser ages not at all. -/
theorem Block.agePort_off {p : Nat} {b : Block} (h : b.combActive p = 0) : b.agePort p = b := if_pos h

/-- The hour of a port whose main laser is active. -/
theorem Block.agePort_main {p : Nat} {b : Block} (h : b.combActive p = 1) :
    let c := (b.bump (R.loAgeOnhrsMain p)).modLo p fun x => { x with main := (b.fld (R.loCombStat p) 9 0 :: x.main).take 720 }
    let hrs := Lo.eol (c.lo1 p).main (min (c.fld (R.loBiasEol p) 9 0 : Int) (c.bounds (R.loBndBias p)).2)
    b.agePort p = if hrs < 2160 ∧ 2160 ≤ c.regN (R.loAgeEolHrs p) then (c.putN (R.loAgeEolHrs p) hrs).loSticky p 6
      else c.putN (R.loAgeEolHrs p) hrs := by
  unfold Block.agePort
  simp only [h, one_ne_zero, if_false, if_true]

/-! ## The statement -/

/-- Settles O50: each clause is the case of its command's effect that the premises name. -/
theorem combLasersAndEyeSafety : Obligations.CombLasersAndEyeSafety := by
  unfold Obligations.CombLasersAndEyeSafety
  refine ⟨?switch, ?bringUp, ?done, ?loss, ?reacquired, ?linesLow, ?check, ?shutdown, ?probe, ?ageing⟩
  case switch =>
    intro t r s b id h p k h16 hp h28 h32 h33
    rw [exec_combSwitch h, Lo.combSwitch_sound h h16 hp h28 h32 h33]
    refine ⟨fun ha => ?active, fun ha hl => ?dark, fun ha hl hs => ?busy, fun ha hl hs hgo => ?begins, fun ha hl hs hf hb => ?stopped⟩
    case active => rw [if_pos ha]
    case dark => rw [if_neg ha, if_pos hl]
    case busy => rw [if_neg ha, if_neg hl, if_pos hs]
    case begins =>
      have hrun : ¬(b.funcMode (0x200 + p) ≠ 1 ∧ b.combActive p = 0 ∧ (b.lo1 p).bring.isNone = true) := by
        rw [Option.isNone_iff_eq_none]
        tauto
      rw [if_neg ha, if_neg hl, if_neg (by rw [hs]; decide), if_neg hrun]
    case stopped =>
      have hk : b.combActive p ≠ k := by
        rw [ha]
        show 0 ≠ if r.u 32 1 = 1 then 1 else 2
        split <;> decide
      rw [if_neg hk, if_neg hl, if_neg (by rw [hs]; decide), if_pos ⟨hf, ha, by rw [hb]; rfl⟩]
  case bringUp =>
    intro t p s b h hp hc x k
    rw [exec_combBringUp h hp hc]
    refine ⟨fun hl hf ha hb hk => ?_, fun hidle => ?_⟩
    · rw [Lo.bringUp_begins (b := b) hl hf ha hb hk]
      rfl
    · rw [Lo.bringUp_idle (b := b) hidle]
  case done =>
    intro t p x g s b good h hp hc hg
    have hgood : good ↔ BringUp.passed x = true ∧ b.now ≤ g.since + 645 * ms := by
      rw [BringUp.passed_iff, and_assoc, and_assoc]
      rfl
    rw [exec_combBringUpDone h hp hc, hgood]
    refine ⟨fun hbad => ?_, fun hok hn => ?_, fun id hok hs => ?_⟩
    · rw [Lo.bringUpDone_fails hg hbad]
    · rw [Lo.bringUpDone_lit hg hok.1 hok.2, hn]
    · rw [Lo.bringUpDone_lit hg hok.1 hok.2, hs]
  case loss =>
    intro t p s b h hp hc
    rw [exec_combStateLoss h hp hc]
    unfold Lo.stateLoss
    refine ⟨fun hon => ?_, fun hoff => ?_⟩
    · rw [if_neg (by rw [hon]; decide)]
      rfl
    · rw [if_pos (by rw [hoff]; rfl)]
  case reacquired =>
    intro t t0 p scan s b h hp hc hr
    rw [exec_combReacquired h hp hc, exec_combAutoSwitch h hp hc, Lo.autoSwitch_eq hr]
    refine ⟨fun ht hf hu => ?_, fun hf => ?_, fun ht hf hu => ?_, fun hlate hon ha hs => ?_, fun hf ht => ?_⟩
    · rw [Lo.reacquired_eq hr hf ht, if_pos hu]
    · rw [Lo.reacquired_failed hr hf]
    · rw [Lo.reacquired_eq hr hf ht, if_neg hu]
    · rw [if_pos ⟨hlate, hon, ha, hs⟩]
    · rw [if_neg fun ⟨hlate, _⟩ => hlate.elim (fun h => by rw [hf] at h; exact absurd h (by decide)) (Nat.not_le.2 ht)]
  case linesLow =>
    intro t t0 p s b h hp hc hl
    rw [exec_linesLowExpiry h hp hc, Lo.linesLow_eq hl]
    refine ⟨fun hlate hon hcomb ho => ?_, fun ht => ?_⟩
    · rw [if_pos ⟨hlate, hon, hcomb, ho⟩]
    · rw [if_neg fun ⟨hlate, _⟩ => Nat.not_le.2 ht hlate]
  case check =>
    intro t p x s b h hp hc
    rw [exec_combLineCheck h hp hc]
    unfold Lo.lineCheck
    dsimp only
    refine ⟨fun hon => ?_, fun hoff => ?_⟩
    · rw [if_pos hon]
    · rw [if_neg (by rw [hoff]; decide)]
  case shutdown =>
    intro t p s b c d dark reflects h hp
    rw [exec_eyeSafetyShutdown h hp]
    refine ⟨fun hon hs hl hlate => ?_, fun hidle => ?_⟩
    · exact congrArg (After s) (Lo.eyeSafety_shuts hon hs hl hlate)
    · rw [Lo.eyeSafety_idle hidle]
  case probe =>
    intro t t0 p s b h hp hc
    rw [exec_safeProbe h hp hc, exec_safeProbeEnd h hp hc]
    refine ⟨fun hs => ?_, fun hs hn hw ht => ?_, fun hs hw ht => ?_, fun hpr ht => ?_, fun hpr ht => ?_⟩
    · rw [Lo.safeProbe_idle hs]
    · rw [Lo.safeProbe_begins hs hn hw ht]
    · rw [Lo.safeProbe_ends hs hw ht]
    · rw [Lo.probeEnd_eq hpr, if_pos ht]
    · rw [Lo.probeEnd_eq hpr, if_neg (Nat.not_le.2 ht)]
  case ageing =>
    intro t s b c hrs h h0
    have hage : Lo.ageing b = b.agePort 1 := congrArg (Block.agePort · 1) (Block.agePort_off h0)
    rw [exec_ageingHourly h, hage]
    refine ⟨fun hoff => ?_, fun hmain => ?_⟩
    · rw [Block.agePort_off hoff]
    · rw [Block.agePort_main hmain]

end Sys2Proof.Machine
end

section
/-! SUPPORT. Ring tuning (R332 to R336), the calibration cycle (R337 to R340) and launch power (R341 to R344). -/

namespace Sys2Proof.Machine

/-! ## The commands -/

section
variable {t : Time} {r : Req} {s : State} {b : Block} {id : Nat}

theorem exec_tuneMethod (h : Starts 0x0605 r t s b id) : exec (.tuneMethod t r) s = After s (Lo.tuneMethod id r b) := cmd_runs h _
theorem exec_launchPower (h : Starts 0x0608 r t s b id) : exec (.launchPower t r) s = After s (Lo.launchPower id r b) := cmd_runs h _

end

section
variable {t : Time} {s : State} {p : Nat} (h : (s.blk.tick t).pcr.phase = 4) (hp : p < 2) (hc : (s.blk.tick t).cpOut (6 + p) = false)
include h hp hc

theorem exec_tuneMethodTimeout : exec (.tuneMethodTimeout t p) s = After s (Lo.tuneTimeout p (s.blk.tick t)) := after_lo h hp hc _
theorem exec_ringTuneTick (x : RingTick) : exec (.ringTuneTick t p x) s = After s (Lo.ringTick p x (s.blk.tick t)) := after_lo h hp hc _
theorem exec_calibrationStart : exec (.calibrationStart t p) s = After s (Lo.calStart p (s.blk.tick t)) := after_lo h hp hc _
theorem exec_calibrationRetry : exec (.calibrationRetry t p) s = After s (Lo.calRetry p (s.blk.tick t)) := after_lo h hp hc _
theorem exec_launchAdjust (x : LaunchTick) : exec (.launchAdjust t p x) s = After s (Lo.launch p x (s.blk.tick t)) := after_lo h hp hc _
theorem exec_calibrationWork (res : Option CalFound) : exec (.calibrationWork t p res) s = After s (Lo.calWork p res (s.blk.tick t)) :=
  after_lo h hp hc _
theorem exec_ringRelock {m : Nat} (hm : m < 32) (res : Option (List Sweep × Int)) :
    exec (.ringRelock t p m res) s = After s (Lo.relock p m res (s.blk.tick t)) :=
  (after_run s t _).trans (congrArg (After s) ((if_pos hm).trans (Block.whenLo_of hp h hc _)))

end

/-! ## TUNE_METHOD (R336, R349) -/

/-- TUNE_METHOD with sound fields is BUSY beside another one, waits for a calibration, or takes effect. -/
theorem Lo.tuneMethod_sound {t : Time} {r : Req} {s : State} {b : Block} {id : Nat} (h : Starts 0x0605 r t s b id)
    (h16 : r.u 16 8 = 0) (hp : r.a1 < 2) (h28 : r.a2 = 0xFF) (h32 : r.u 32 1 < 2) (h33 : r.u 33 31 = 0) :
    Lo.tuneMethod id r b =
      if (b.lo1 r.a1).tune.isSome = true ∨ (b.lo1 r.a1).tuneWait.isSome = true then b.done id St.busy 0
      else if (b.lo1 r.a1).cal.isSome = true then b.modLo r.a1 fun x => { x with tuneWait := some (id, r.u 32 1) }
      else b.tuneSet r.a1 id (r.u 32 1) := by
  unfold Lo.tuneMethod
  rw [Ci.check8_sound h (Lo.choiceFields_sound h16 hp h28 h32 h33)]

section
variable {p : Nat} {b : Block}

theorem Lo.tuneTimeout_eq {id : Nat} {t0 : Time} (ht : (b.lo1 p).tune = some (id, t0)) : Lo.tuneTimeout p b =
    if t0 + 100 * ms ≤ b.now then (b.modLo p fun x => { x with tune := none }).done id St.timeout 0 else b := by
  unfold Lo.tuneTimeout
  rw [ht]

/-! ## The rings (R333 to R335) -/

/-- What a sample does to the heaters, the locks and what the tuning remembers. -/
def Block.ringSample (p : Nat) (x : RingTick) (b : Block) : Block :=
  ((List.range 32).foldl (Block.ringMember p x b) (b.loopFlag p 2 (b.heatOut p x && !x.lim) (b.heatOut p x && x.lim))).ringNotes p x b

/-- A sample; a TUNE_METHOD that waits for the locks completes when it finds them all. -/
theorem Lo.ringTick_eq (x : RingTick) : Lo.ringTick p x b = match ((b.ringSample p x).lo1 p).tune with
    | some (id, _) => if (b.ringSample p x).ringsLocked p then ((b.ringSample p x).modLo p fun y => { y with tune := none }).ok id 0
      else b.ringSample p x
    | none => b.ringSample p x := rfl

/-- With DITHER, a member none of whose rings is out of lock has lost none. -/
theorem Block.lostRings_none {m : Nat} (he : b.tuneEff p = 0) (hu : ∀ k ∈ [m, 32 + m, 64 + m], AMap.get? (b.lo1 p).unlock k = none) :
    b.lostRings p m = [] := by
  unfold Block.lostRings
  rw [List.filter_eq_nil_iff]
  intro k hk
  rw [if_pos he, hu k hk]
  exact Bool.false_ne_true

/-- A member's relock begins: it is counted, traced and remembered. -/
def Block.relockBegins (p m : Nat) (b : Block) : Block :=
  (((b.bump (R.loRelockCnt p)).tally (24 + p) 1).loTrace 2 p m (b.combActive p)).modLo p fun y => { y with relock := y.relock ++ [m] }

/-- A member of an active comb that has lost rings, and is not being searched, goes dark. -/
theorem Lo.relock_begins {m : Nat} (hl : b.lostRings p m ≠ []) (hon : b.combOn p = true) (hr : m ∉ (b.lo1 p).relock) (hm : m < 32) :
    Lo.relock p m none b = (if (b.lostRings p m).any (32 ≤ ·) then (b.relockBegins p m).setLock p m false else b.relockBegins p m).relight p := by
  unfold Lo.relock
  exact if_pos (by simp [hl, hon, hr, hm])

theorem Lo.relock_idle {m : Nat} (hl : b.lostRings p m = []) : Lo.relock p m none b = b := by
  unfold Lo.relock
  exact if_neg (by simp [hl])

/-- A search that was under way has ended. -/
theorem Lo.relock_searched {m : Nat} (sweeps : List Sweep) (temp : Int) : Lo.relock p m (some (sweeps, temp)) b =
    if m ∈ (b.lo1 p).relock then ((b.modLo p fun y => { y with relock := y.relock.filter (· != m) }).searchMember p m sweeps temp).relit p m
    else b := if_congr List.contains_iff_mem rfl rfl

/-! ## Calibration (R337 to R339) -/

section
variable (hf : b.funcMode (0x600 + p) = 1) (hl : b.lineUp p = true) (hs : b.bit (R.lfStat p) 5 = false) (hc : (b.lo1 p).cal = none)
include hf hl hs hc

/-- A member scheduled ahead is calibrated first. -/
theorem Lo.calStart_soon {m : Nat} {rest : List Nat} (hq : (b.lo1 p).calSoon = m :: rest) :
    Lo.calStart p b = (b.modLo p fun y => { y with calSoon := rest }).calBegin p m false := by
  unfold Lo.calStart
  simp only [hf, hl, hs, hc, hq, Option.isNone_none, Bool.not_false, Bool.and_true, beq_self_eq_true, Bool.not_true, Bool.false_eq_true, if_false]

/-- Else the next member of the cycle is, when its time has come. -/
theorem Lo.calStart_cycle {k : Nat} {at_ : Time} (hq : (b.lo1 p).calSoon = []) (hn : (b.lo1 p).calNext = (k, at_)) :
    let every := 250000000 * b.fld (R.loCalCtl p) 15 0
    Lo.calStart p b = if b.now < at_ then b else (b.modLo p fun y => { y with
      calNext := ((k + 1) % 32, if at_ + every ≤ b.now then b.now + every else at_ + every) }).calBegin p k true := by
  unfold Lo.calStart
  simp only [hf, hl, hs, hc, hq, hn, Option.isNone_none, Bool.not_false, Bool.and_true, beq_self_eq_true, Bool.not_true, Bool.false_eq_true,
    if_false]

end

/-- One calibration at a time. -/
theorem Lo.calStart_busy (hc : (b.lo1 p).cal ≠ none) : Lo.calStart p b = b := by
  unfold Lo.calStart
  exact if_pos (by simp [Option.isSome_iff_ne_none, hc])

section
variable {c : Cal} (hc : (b.lo1 p).cal = some c)
include hc

/-- The member that has been released goes dark. -/
theorem Lo.calWork_begins (h1 : c.phase = 1) (hp : (b.lm p c.mem).plan = 2) (hf : (b.lm p c.mem).freed = true) : Lo.calWork p none b =
    ((b.putBit (R.loMStat p c.mem) 26 true).modLo p fun y => { y with cal := some { c with phase := 2, since := b.now } }).relight p := by
  unfold Lo.calWork
  rw [hc]
  exact if_pos ⟨h1, hp, hf⟩

/-- The work has ended: what it found is kept and the member is relit. -/
def Block.calEnds (p : Nat) (c : Cal) (x : CalFound) (b : Block) : Block :=
  (((((b.bump (R.loCalCnt p)).loTrace 4 p c.mem (b.combActive p)).putBit (R.loMStat p c.mem) 26 false).calKeep p c.mem x).modLo p fun y => { y with
    cal := none }).relit p c.mem

/-- It lasts 20 ms. -/
theorem Lo.calWork_ends (h2 : c.phase = 2 ∨ c.phase = 5) (x : CalFound) : Lo.calWork p (some x) b =
    if c.since + 20 * ms ≤ b.now then ((b.calEnds p c x).modLo p fun y => { y with
      cal := if c.phase = 2 && ((b.calEnds p c x).lm p c.mem).plan == 3 then some { c with phase := 3, since := (b.calEnds p c x).now } else none }).lfRegs p
    else b := by
  unfold Lo.calWork
  rw [hc]
  exact if_congr (and_iff_right h2) rfl rfl

/-- A refused removal is requested again after 1 s. -/
theorem Lo.calRetry_eq (h4 : c.phase = 4) : Lo.calRetry p b =
    if c.since + 1000 * ms ≤ b.now then b.modLo p fun y => { y with cal := some { c with phase := 0 } } else b := by
  unfold Lo.calRetry
  rw [hc]
  exact if_congr (and_iff_right h4) rfl rfl

end

end

/-! ## LAUNCH_POWER (R342, R343) -/

/-- The sum of the launch setpoints of the provisioned members of a port, with the new one, as linear powers. -/
def Block.launchSum (r : Req) (b : Block) : Nat :=
  Bits.sum ((List.range 32).map fun k => if b.prov r.a1 k then
    Lf.linear (if r.a2 == 0xFF || r.a2 == k then Bits.toInt 16 (r.u 32 2) else Bits.toInt 16 (b.fld (R.loMLaunch r.a1 k) 15 0)) else 0)

/-- LAUNCH_POWER with sound fields sets the launch. -/
theorem Lo.launchPower_sound {t : Time} {r : Req} {s : State} {b : Block} {id : Nat} (h : Starts 0x0608 r t s b id)
    (h16 : r.u 16 8 = 0) (hp : r.a1 < 2) (hm : r.a2 < 32 ∨ r.a2 = 0xFF) (hlo : -80 ≤ Bits.toInt 16 (r.u 32 2))
    (hhi : Bits.toInt 16 (r.u 32 2) ≤ 10) (hsum : b.launchSum r ≤ Lf.linear (b.lo1 r.a1).totMax) (h34 : r.u 34 30 = 0) :
    Lo.launchPower id r b = (b.launchSet r.a1 r.a2 (Bits.toInt 16 (r.u 32 2))).ok id 0 := by
  have hf : ∀ e ∈ Lf.portFields r (fun m => decide (m < 32) || m == 0xFF) ++ [(32, decide (Bits.toInt 16 (r.u 32 2) < -80) ||
      decide (10 < Bits.toInt 16 (r.u 32 2)) || decide (Lf.linear (b.lo1 r.a1).totMax < b.launchSum r)), (34, r.nz 34 30)], e.2 = false := by
    simpa [Lf.portFields, h16, hp, h34, hlo, hhi, hsum] using fun hge => hm.resolve_left (Nat.not_lt.2 hge)
  unfold Lo.launchPower
  exact Ci.check8_sound h hf _

/-! ## The statement -/

/-- Settles O51: each clause is the case of its command's effect that the premises name. -/
theorem ringsCalibrationAndLaunch : Obligations.RingsCalibrationAndLaunch := by
  unfold Obligations.RingsCalibrationAndLaunch
  refine ⟨?method, ?timeout, ?tick, ?relock, ?start, ?work, ?launch, ?adjust⟩
  case method =>
    intro t r s b id h p h16 hp h28 h32 h33
    rw [exec_tuneMethod h, Lo.tuneMethod_sound h h16 hp h28 h32 h33]
    simp only [Option.isSome_iff_ne_none]
    refine ⟨fun hbusy => ?_, fun ht hw hc => ?_, fun ht hw hc => ?_⟩
    · rw [if_pos hbusy]
    · rw [if_neg (not_or.2 ⟨not_not.2 ht, not_not.2 hw⟩), if_pos hc]
    · rw [if_neg (not_or.2 ⟨not_not.2 ht, not_not.2 hw⟩), if_neg (not_not.2 hc)]
  case timeout =>
    intro t t0 p id s b h hp hc ht
    rw [exec_tuneMethodTimeout h hp hc, Lo.tuneTimeout_eq ht]
    exact ⟨fun hlate => by rw [if_pos hlate], fun hsoon => by rw [if_neg (Nat.not_le.2 hsoon)]⟩
  case tick =>
    intro t p x s b out c h hp hc
    rw [exec_ringTuneTick h hp hc, Lo.ringTick_eq]
    refine ⟨fun hnone => ?_, fun id t0 hsome => ⟨fun hlock => ?_, fun hno => ?_⟩⟩
    · rw [show (b.ringSample p x).lo1 p = c.lo1 p from rfl, hnone]
      rfl
    · rw [show (b.ringSample p x).lo1 p = c.lo1 p from rfl, hsome]
      exact congrArg (After s) (if_pos hlock)
    · rw [show (b.ringSample p x).lo1 p = c.lo1 p from rfl, hsome]
      exact congrArg (After s) (if_neg (Bool.eq_false_iff.1 hno))
  case relock =>
    intro t p m sweeps temp s b c h hp hm hc
    rw [exec_ringRelock h hp hc hm, exec_ringRelock h hp hc hm, Lo.relock_searched]
    refine ⟨fun he hu => ?_, fun hl hon hr => ?_, fun hin => ?_, fun hout => ?_⟩
    · rw [Lo.relock_idle (Block.lostRings_none he hu)]
    · rw [Lo.relock_begins hl hon hr hm]
      rfl
    · rw [if_pos hin]
    · rw [if_neg hout]
  case start =>
    intro t p m rest s b h hp hc
    rw [exec_calibrationStart h hp hc]
    refine ⟨fun hf hl hs hcal hq => ?_, fun k at_ hf hl hs hcal hq hn => ?_, fun hcal => ?_⟩
    · rw [Lo.calStart_soon hf hl hs hcal hq]
    · rw [Lo.calStart_cycle hf hl hs hcal hq hn]
      exact ⟨fun hearly => by rw [if_pos hearly], fun hdue => by rw [if_neg (Nat.not_lt.2 hdue)]⟩
    · rw [Lo.calStart_busy hcal]
  case work =>
    intro t p c x s b d h hp hc hcal
    rw [exec_calibrationWork h hp hc, exec_calibrationWork h hp hc, exec_calibrationRetry h hp hc]
    refine ⟨fun h1 hpl hfr => ?_, fun h2 hdue => ?_, fun h2 hearly => ?_, fun h4 hdue => ?_, fun h4 hearly => ?_⟩
    · rw [Lo.calWork_begins hcal h1 hpl hfr]
    · rw [Lo.calWork_ends hcal h2, if_pos hdue]
      rfl
    · rw [Lo.calWork_ends hcal h2, if_neg (Nat.not_le.2 hearly)]
    · rw [Lo.calRetry_eq hcal h4, if_pos hdue]
    · rw [Lo.calRetry_eq hcal h4, if_neg (Nat.not_le.2 hearly)]
  case launch =>
    intro t r s b id h p v sum h16 hp hm hlo hhi hsum h34
    rw [exec_launchPower h, Lo.launchPower_sound h h16 hp hm hlo hhi hsum h34]
  case adjust =>
    intro t p x s b out h hp hc
    rw [exec_launchAdjust h hp hc]
    rfl

end Sys2Proof.Machine
end

section
/-! SUPPORT. The boot sequence (R418 to R421), the pins that reset the device, the rails, and Calm (R433, R496). -/

namespace Sys2Proof.Machine

/-! ## The commands -/

section
variable (t : Time) (s : State)

theorem exec_powerOn : exec (.powerOn t) s = After s (Pcr.powerOn (s.blk.tick t)) := rfl
theorem exec_bootStep (x : BootIn) : exec (.bootStep t x) s = After s (Pcr.bootStep x (s.blk.tick t)) := rfl
theorem exec_bootStepTimeout : exec (.bootStepTimeout t) s = After s (Pcr.bootTimeout (s.blk.tick t)) := rfl
theorem exec_resetNAssert (dur : Time) (tj : Int) : exec (.resetNAssert t dur tj) s = After s (Pcr.resetPin dur tj (s.blk.tick t)) := rfl
theorem exec_vddAonLoss : exec (.vddAonLoss t) s = After s (Pcr.aonLoss (s.blk.tick t)) := rfl
theorem exec_pwrGoodLoss (dur : Time) : exec (.pwrGoodLoss t dur) s = After s (Pcr.pwrLoss dur (s.blk.tick t)) := rfl
theorem exec_pwrGoodRise : exec (.pwrGoodRise t) s = After s (Pcr.pwrRise (s.blk.tick t)) := rfl
theorem exec_wakeNAssert (dur : Time) : exec (.wakeNAssert t dur) s = After s (Pcr.wakePin dur (s.blk.tick t)) := rfl
theorem exec_calmWake : exec (.calmWake t) s = After s (s.blk.tick t).wake := rfl
theorem exec_calmWakeTimeout : exec (.calmWakeTimeout t) s = After s (Pcr.wakeTimeout (s.blk.tick t)) := rfl

end

/-! ## The boot sequence (Table 16-1) -/

/-- The step that boot takes next: after power-on, step 2. -/
def Block.bootNext (b : Block) : Nat := if b.fld R.pcrBootStat 7 0 = 0 then 2 else b.fld R.pcrBootStat 7 0 + 1

theorem Block.bootNext_eq (b : Block) : (if b.fld R.pcrBootStat 7 0 + 1 = 1 then 2 else b.fld R.pcrBootStat 7 0 + 1) = b.bootNext := by
  unfold Block.bootNext
  by_cases h : b.fld R.pcrBootStat 7 0 = 0 <;> simp [h]

section
variable {b : Block} (h2 : b.pcr.phase = 2)
include h2

/-- A step of a boot, by whether it ends in time and what its check finds. -/
theorem Pcr.bootStep_eq (hk : b.bootNext ≤ 10) (x : BootIn) : Pcr.bootStep x b =
    if b.stepLimit b.bootNext < b.now then b.bootStop
    else if b.bootNext = 3 ∧ b.tampered = true then b.bootStop
    else if b.bootNext = 4 ∧ (!x.sigOk || decide (x.svn < b.fld R.secFwSvn 15 0)) = true then (b.putBit R.secStat 28 true).bootStop
    else if b.bootNext = 8 ∧ b.pcr.wake = true ∧ Sec.m2 x.images ≠ b.sec.m2 then b.bigReset 1 true
    else if b.bootNext = 7 ∧ 128 - (Boot.effect b.bootNext x b).mc.retired.length < 64 then
      ((Boot.effect b.bootNext x b).putFld R.pcrBootStat 7 0 6).bootStop
    else Boot.effect b.bootNext x b := by
  unfold Pcr.bootStep
  dsimp only
  rw [Block.bootNext_eq, if_neg (by omega)]

/-- A step that comes too late stops boot. -/
theorem Pcr.bootStep_late (hk : b.bootNext ≤ 10) (hl : b.stepLimit b.bootNext < b.now) (x : BootIn) : Pcr.bootStep x b = b.bootStop := by
  rw [Pcr.bootStep_eq h2 hk, if_pos hl]

/-- Boot stops in LOCKED when a step has not ended by its time. -/
theorem Pcr.bootTimeout_eq : Pcr.bootTimeout b = if b.stepLimit b.bootNext ≤ b.now then b.bootStop else b := by
  unfold Pcr.bootTimeout
  dsimp only
  rw [Block.bootNext_eq]
  exact if_congr (and_iff_right h2) rfl rfl

end

/-! ## The pins -/

section
variable {dur : Time} {b : Block}

theorem Pcr.resetPin_short (h : dur < 8000) (tj : Int) : Pcr.resetPin dur tj b = b := if_pos (.inl h)

theorem Pcr.resetPin_running (hd : 8000 ≤ dur) (h : b.pcr.phase = 4) (tj : Int) : Pcr.resetPin dur tj b = b.bigReset 1 b.pcr.good := by
  unfold Pcr.resetPin
  rw [h, if_neg (by simp [Nat.not_lt.2 hd]), if_neg (by simp)]
  rfl

theorem Pcr.pwrLoss_short (h : dur < 8000) : Pcr.pwrLoss dur b = b := if_pos h

theorem Pcr.pwrLoss_running (hd : 8000 ≤ dur) (h : b.pcr.phase = 4) (hw : b.pcr.wake = false) : Pcr.pwrLoss dur b = b.bigReset 1 false := by
  unfold Pcr.pwrLoss
  rw [if_neg (Nat.not_lt.2 hd), h, hw, if_neg (by decide), if_neg (by decide)]

theorem Pcr.pwrLoss_tripped (hd : 8000 ≤ dur) (h : b.pcr.phase = 7) : Pcr.pwrLoss dur b = b.onPcr fun x => { x with good := false } := by
  unfold Pcr.pwrLoss
  rw [if_neg (Nat.not_lt.2 hd), if_pos h]

theorem Pcr.pwrRise_held (h : b.pcr.phase = 1) (hg : b.pcr.good = false) :
    Pcr.pwrRise b = b.onPcr fun x => { x with phase := 2, since := b.now, bootAt := b.now, good := true } := by
  unfold Pcr.pwrRise
  rw [if_pos h, hg]
  rfl

/-- A device in Calm begins to wake. -/
theorem Block.wake_calm (h : b.pcr.phase = 5) : b.wake =
    (b.putN R.secBootCnt (b.regN R.secBootCnt + 1)).onPcr fun x => { x with phase := 6, since := b.now, bootAt := b.now, mainEn := true } :=
  if_neg (not_not.2 h)

theorem Pcr.wakePin_eq : Pcr.wakePin dur b = if dur < 8000 then b else b.wake := rfl

/-- A wake for which PWR_GOOD has not come within 50 ms is given up. -/
theorem Pcr.wakeTimeout_eq (h : b.pcr.phase = 6) : Pcr.wakeTimeout b = if b.pcr.since + 400000000 ≤ b.now then
    (b.onPcr fun x => { x with phase := 5, mainEn := false }).putBit R.pcrBootStat 31 true else b :=
  if_congr (and_iff_right h) rfl rfl

end

/-! ## The loss of VDD_AON -/

/-- A field of the low bits read back. -/
theorem Block.fld_putFld_low (a hi x : Nat) (h : hi < 32) (b : Block) : (b.putFld a hi 0 x).fld a hi 0 = x % 2 ^ (hi + 1) := by
  have hdvd : 2 ^ (hi + 1) ∣ 2 ^ 32 := Nat.pow_dvd_pow 2 h
  unfold Block.fld
  rw [Block.regN_putFld_self, Bits.fld_low, Nat.mod_mod_of_dvd _ hdvd, Bits.put_low, Nat.mul_add_mod, Nat.mod_mod]

/-- The fuses outlast it: the fused security version. -/
theorem Pcr.aonLoss_svn (b : Block) : (Pcr.aonLoss b).fld R.secFwSvn 15 0 = b.fld R.secFwSvn 15 0 := by
  unfold Pcr.aonLoss
  dsimp only
  rw [Block.fld_putFld_low _ _ _ (by decide)]
  unfold Block.fld
  rw [Bits.fld_low, Nat.mod_mod]

/-- And the serial number. -/
theorem Pcr.aonLoss_serial (b : Block) : (Pcr.aonLoss b).reg (R.secSerial 0) = b.reg (R.secSerial 0) := by
  unfold Pcr.aonLoss
  simp only [List.foldl_cons, List.foldl_nil]
  rw [Block.reg_putFld_ne _ _ _ _ (by decide), Block.reg_setReg_ne _ _ (by decide), Block.reg_setReg_ne _ _ (by decide),
    Block.reg_setReg_ne _ _ (by decide), Block.reg_setReg_ne _ _ (by decide), Block.reg_setReg_self]

/-! ## The statement -/

/-- Settles O35: the step that is next, by its time and its check; each pin by how long it is low; and what outlasts VDD_AON. -/
theorem bootAndRails : Obligations.BootAndRails := by
  unfold Obligations.BootAndRails
  refine ⟨⟨?powerOn, ?step, ?timeout, ?resetPin, ?aonLoss⟩, ?loss, ?rise, ?wake, ?wakeTimeout⟩
  case powerOn =>
    intro t s b h0
    rw [exec_powerOn]
    exact congrArg (After s) (if_pos (.inl h0))
  case step =>
    intro t x k s b after h2 hk h10
    have hnext : b.bootNext = k := hk.symm
    simp only [after, exec_bootStep]
    rw [Pcr.bootStep_eq h2 (hnext.trans_le h10), hnext]
    refine ⟨fun hlate => by rw [if_pos hlate], fun hin => ?_⟩
    rw [if_neg (Nat.not_lt.2 hin)]
    refine ⟨fun hother => ?_, fun h3 => ?_, fun h4 => ?_, fun h7 => ?_, fun h8 => ?_⟩
    · simp only [List.mem_cons, List.not_mem_nil, or_false, not_or] at hother
      obtain ⟨h3, h4, h7, h8⟩ := hother
      rw [if_neg fun h => h3 h.1, if_neg fun h => h4 h.1, if_neg fun h => h8 h.1, if_neg fun h => h7 h.1]
    · subst h3
      refine ⟨fun hcalm => ?_, fun htamp => ?_⟩
      · rw [if_neg (by simp [hcalm]), if_neg (by simp), if_neg (by simp), if_neg (by simp)]
      · rw [if_pos ⟨rfl, htamp⟩]
    · subst h4
      refine ⟨fun hsig hsvn => ?_, fun hbad => ?_⟩
      · rw [if_neg (by simp), if_neg (by simp [hsig, hsvn]), if_neg (by simp), if_neg (by simp)]
      · rw [if_neg (by simp), if_pos (by simpa using hbad)]
    · subst h7
      refine ⟨fun hmem => ?_, fun hmem => ?_⟩
      · rw [if_neg (by simp), if_neg (by simp), if_neg (by simp), if_neg fun h => Nat.not_lt.2 hmem h.2]
      · rw [if_neg (by simp), if_neg (by simp), if_neg (by simp), if_pos ⟨rfl, hmem⟩]
    · subst h8
      refine ⟨fun hok => ?_, fun hw hm => ?_⟩
      · rw [if_neg (by simp), if_neg (by simp), if_neg (by rintro ⟨-, hw, hm⟩; exact hok.elim (fun h => by rw [h] at hw; cases hw) hm),
          if_neg (by simp)]
      · rw [if_neg (by simp), if_neg (by simp), if_pos ⟨rfl, hw, hm⟩]
  case timeout =>
    intro t s b h2 h1
    have hnext : b.bootNext = b.fld R.pcrBootStat 7 0 + 1 := if_neg (by omega)
    rw [exec_bootStepTimeout, Pcr.bootTimeout_eq (b := b) h2, hnext]
    refine ⟨fun hlate => ?_, fun hin => ?_⟩
    · rw [if_pos hlate]
      rfl
    · rw [if_neg (Nat.not_le.2 hin)]
  case resetPin =>
    intro t dur tj s b
    rw [exec_resetNAssert]
    exact ⟨fun hd h => by rw [Pcr.resetPin_running (b := b) hd h], fun hd => by rw [Pcr.resetPin_short hd]⟩
  case aonLoss =>
    intro t s b
    exact ⟨_, exec_vddAonLoss t s, rfl, rfl, rfl, rfl, Pcr.aonLoss_svn b, Pcr.aonLoss_serial b⟩
  case loss =>
    intro t dur s b
    rw [exec_pwrGoodLoss]
    exact ⟨fun hd h hw => by rw [Pcr.pwrLoss_running (b := b) hd h hw], fun hd h => by rw [Pcr.pwrLoss_tripped (b := b) hd h],
      fun hd => by rw [Pcr.pwrLoss_short hd]⟩
  case rise =>
    intro t s b h hg
    rw [exec_pwrGoodRise, Pcr.pwrRise_held (b := b) h hg]
  case wake =>
    intro t dur s b woken h
    have hw : b.wake = woken := Block.wake_calm h
    rw [exec_wakeNAssert, exec_calmWake, Pcr.wakePin_eq]
    refine ⟨fun hd => ?_, fun hd => ?_, ?_⟩
    · rw [if_neg (Nat.not_lt.2 hd), hw]
    · rw [if_pos hd]
    · rw [hw]
  case wakeTimeout =>
    intro t s b h
    rw [exec_calmWakeTimeout, Pcr.wakeTimeout_eq (b := b) h]
    exact ⟨fun hlate => by rw [if_pos hlate], fun hin => by rw [if_neg (Nat.not_le.2 hin)]⟩

end Sys2Proof.Machine
end

section
/-! SUPPORT. Power states and RESET (R422, R423, R430 to R433). -/

namespace Sys2Proof.Machine

/-! ## The commands -/

section
variable {t : Time} {s : State} {b : Block} {id : Nat}

theorem exec_powerState {r : Req} (h : Starts 0x0108 r t s b id) : exec (.powerState t r) s = After s (Pcr.powerState id r b) := cmd_runs h _

theorem exec_reset {x : ResetReq} (h : Starts 0x0107 x.req t s b id) : exec (.reset t x) s = After s (Pcr.reset x.cut id x.req b) := cmd_runs h _

theorem exec_powerTransitionDone (h : (s.blk.tick t).pcr.phase = 4) :
    exec (.powerTransitionDone t) s = After s (Pcr.transitionDone (s.blk.tick t)) :=
  (after_run s t _).trans (congrArg (After s) (Block.whenUp_of h _))

end

/-! ## POWER_STATE (R430 to R433) -/

/-- The transition to a state that POWER_STATE begins; a wake asks the ramp governor for the engines' current. -/
def Block.transBegins (id goal : Nat) (b : Block) : Block :=
  let c := (b.onPcr fun x => { x with trans := some (id, goal, if goal = 2 then 1 else 0) }).putBit R.pcrStat 29 true
  if goal = 2 then c.rampAsk Config.wakeAmps 0 else c

/-- POWER_STATE with sound fields: done at once, refused, into Calm, or the begin of a transition. -/
theorem Pcr.powerState_sound {t : Time} {r : Req} {s : State} {b : Block} {id : Nat} (h : Starts 0x0108 r t s b id)
    (h16 : r.u 16 1 ≤ 2) (h17 : r.u 17 7 = 0) (h24 : r.u 24 4 = 0) (h28 : r.u 28 4 = 0) (h32 : r.u 32 32 = 0) :
    Pcr.powerState id r b =
      if r.u 16 1 = b.pstate then b.ok id (r.u 16 1)
      else if b.pcr.trans.isSome then b.done id St.busy 0
      else if r.u 16 1 < 2 ∧ b.jobs.any (fun j => j.2.state != 2) then b.done id St.state 1
      else if r.u 16 1 = 0 ∧ (!b.funcOff 0x200 || !b.funcOff 0x201) then b.done id St.state 2
      else if r.u 16 1 < 2 ∧ b.regN R.dbgFrozen ≠ 0 ∨ b.pcr.stuck then b.done id St.state 3
      else if r.u 16 1 = 0 then (b.ok id 0).enterCalm
      else b.transBegins id (r.u 16 1) := by
  unfold Pcr.powerState
  exact Ci.check8_sound h (by simp [h16, h17, h24, h28, h32]) _

/-- Every job is CLOSED: nothing holds a state below Storm back. -/
theorem jobs_none_open {l : AMap Job} (h : ∀ j ∈ l, j.2.state = 2) : (l.any fun j => j.2.state != 2) = false := by
  simpa using h

section
variable {b : Block} {id goal : Nat}

/-- The transition ends once no step of the engines' current waits and, for Breeze, every fabric port is OFF. -/
theorem Pcr.transitionDone_ready (ht : b.pcr.trans = some (id, goal, 1)) (hr : ∀ x ∈ b.pcr.ramp, x.act ≠ 0)
    (hf : goal = 1 → b.fabricOff = true) :
    let c := ((b.onPcr fun x => { x with trans := none }).putBit R.pcrStat 29 false).putFld R.pcrStat 31 30 goal
    Pcr.transitionDone b = (c.trace 7 1 0xFFFF (Bits.leBytes 1 goal ++ Bits.leBytes 4 (c.regN R.pcrTokGrant))).ok id goal := by
  have hwait : (b.pcr.ramp.any (fun (x : RampStep) => x.act == 0) || (goal == 1 && !b.fabricOff)) = false := by
    simpa using ⟨hr, hf⟩
  unfold Pcr.transitionDone
  rw [ht]
  exact if_neg (by rw [hwait]; exact Bool.false_ne_true)

end

/-! ## RESET (R422, R423) -/

/-- What the reset of a type does, with the command processor that it names. -/
def Block.resetBegins (cut : Cut) (typ m : Nat) (b : Block) : Block :=
  match typ with
  | 1 => b.bigReset 1 true
  | 2 => Mc.cut cut (b.bigReset 2 true)
  | 3 => Mc.cut cut (b.hostReset.putFld R.pcrBootStat 11 8 3)
  | _ => Mc.cut cut ((b.cpReset m).putFld R.pcrBootStat 11 8 4)

/-- RESET with sound fields completes, and then the reset begins. -/
theorem Pcr.reset_sound {t : Time} {x : ResetReq} {s : State} {b : Block} {id : Nat} (h : Starts 0x0107 x.req t s b id)
    (h17 : x.req.u 17 7 = 0) (h24 : x.req.u 24 4 = 0) (h32 : x.req.u 32 32 = 0)
    (hunit : (1 ≤ x.req.u 16 1 ∧ x.req.u 16 1 ≤ 3 ∧ x.req.a2 = 0) ∨
      (x.req.u 16 1 = 4 ∧ (x.req.a2 ≤ 3 ∨ (5 ≤ x.req.a2 ∧ x.req.a2 ≤ 9)))) :
    Pcr.reset x.cut id x.req b = (b.ok id 0).resetBegins x.cut (x.req.u 16 1) x.req.a2 := by
  have h16 : decide (x.req.u 16 1 < 1 ∨ 4 < x.req.u 16 1) = false := decide_eq_false (by omega)
  have h28 : (if x.req.u 16 1 = 4 then !(decide (x.req.a2 ≤ 3) || decide (5 ≤ x.req.a2 ∧ x.req.a2 ≤ 9)) else x.req.a2 != 0) = false := by
    rcases hunit with ⟨-, h3, h0⟩ | ⟨h4, hm⟩
    · rw [if_neg (by omega), h0]
      rfl
    · rw [if_pos h4]
      simpa using fun h : 3 < x.req.a2 => hm.resolve_left (Nat.not_le.2 h)
  unfold Pcr.reset
  refine Ci.check8_sound h ?_ _
  simp only [List.mem_cons, List.not_mem_nil, or_false, forall_eq_or_imp, forall_eq]
  exact ⟨h16, Req.nz_eq_false.2 h17, Req.nz_eq_false.2 h24, h28, Req.nz_eq_false.2 h32⟩

/-! ## The statement -/

/-- Settles O34: POWER_STATE by the state it finds, the end of its transition, and RESET by its type. -/
theorem powerStatesAndReset : Obligations.PowerStatesAndReset := by
  unfold Obligations.PowerStatesAndReset
  refine ⟨?state, ?transition, ?reset⟩
  case state =>
    intro t r s b id h h16 h17 h24 h28 h32
    rw [exec_powerState h, Pcr.powerState_sound h h16 h17 h24 h28 h32]
    refine ⟨fun hsame => ?_, fun hne htr => ?_, fun h0 hne htr hj hl0 hl1 hz hst => ?_, fun h1 hne htr hj hz hst => ?_, fun h2 hne htr hst => ?_⟩
    · rw [if_pos hsame, hsame]
    · rw [if_neg hne, if_pos (Option.isSome_iff_ne_none.2 htr)]
    · have hne' : (0 : Nat) ≠ b.pstate := hne.symm
      rw [h0, if_neg hne', htr, jobs_none_open hj, hl0, hl1, hz, hst]
      rfl
    · have hne' : (1 : Nat) ≠ b.pstate := hne.symm
      rw [h1, if_neg hne', htr, jobs_none_open hj, hz, hst]
      rfl
    · have hne' : (2 : Nat) ≠ b.pstate := hne.symm
      rw [h2, if_neg hne', htr, hst]
      rfl
  case transition =>
    intro t id goal s b c h4 ht hr hf
    rw [exec_powerTransitionDone h4, Pcr.transitionDone_ready (b := b) ht hr hf]
  case reset =>
    intro t x s b id h r h17 h24 h32
    have hsound := Pcr.reset_sound h h17 h24 h32
    rw [exec_reset h]
    refine ⟨fun h28 h1 => ?_, fun h28 h2 => ?_, fun h28 h3 => ?_, fun h4 h28 => ?_⟩
    · rw [hsound (.inl (by rw [h1]; exact ⟨by decide, by decide, h28⟩)), h1]
      rfl
    · rw [hsound (.inl (by rw [h2]; exact ⟨by decide, by decide, h28⟩)), h2]
      rfl
    · rw [hsound (.inl (by rw [h3]; exact ⟨by decide, by decide, h28⟩)), h3]
      rfl
    · rw [hsound (.inr ⟨h4, h28⟩), h4]
      rfl

end Sys2Proof.Machine
end

section
/-! SUPPORT. Reference clocks (R426, R427), the thermal throttle and the thermal trip (R438, R439). -/

namespace Sys2Proof.Machine

/-! ## Bits of a register -/

theorem Bits.bit_eq_testBit (v i : Nat) : Bits.bit v i = v.testBit i := by
  unfold Bits.bit
  rw [Nat.testBit_eq_decide_div_mod_eq]
  rfl

/-- A number with a field replaced, cut at the field's ends. -/
theorem Bits.put_eq (v x : Nat) {hi lo : Nat} (h : lo ≤ hi) :
    Bits.put v hi lo x = 2 ^ (hi + 1) * (v / 2 ^ (hi + 1)) + (2 ^ lo * (x % 2 ^ (hi + 1 - lo)) + v % 2 ^ lo) := by
  have hpow : 2 ^ (hi + 1) = 2 ^ lo * 2 ^ (hi + 1 - lo) := by rw [← Nat.pow_add]; congr 1; omega
  have hv : v = 2 ^ (hi + 1) * (v / 2 ^ (hi + 1)) + (2 ^ lo * Bits.fld v hi lo + v % 2 ^ lo) := by
    have h1 : 2 ^ lo * Bits.fld v hi lo + v % 2 ^ lo = v % 2 ^ (hi + 1) := by
      unfold Bits.fld
      rw [hpow, Nat.mod_mul, Nat.add_comm]
    rw [h1, Nat.div_add_mod]
  unfold Bits.put
  rw [Nat.mul_comm _ (2 ^ lo), Nat.mul_comm _ (2 ^ lo)]
  omega

/-- A bit of a number with a field replaced is the field's own, or as it was. -/
theorem Bits.testBit_put (v x j : Nat) {hi lo : Nat} (h : lo ≤ hi) :
    (Bits.put v hi lo x).testBit j = if lo ≤ j ∧ j ≤ hi then x.testBit (j - lo) else v.testBit j := by
  have hlow : v % 2 ^ lo < 2 ^ lo := Nat.mod_lt _ (by positivity)
  have hmid : 2 ^ lo * (x % 2 ^ (hi + 1 - lo)) + v % 2 ^ lo < 2 ^ (hi + 1) := by
    have hx : x % 2 ^ (hi + 1 - lo) < 2 ^ (hi + 1 - lo) := Nat.mod_lt _ (by positivity)
    calc 2 ^ lo * (x % 2 ^ (hi + 1 - lo)) + v % 2 ^ lo < 2 ^ lo * (x % 2 ^ (hi + 1 - lo) + 1) := by rw [Nat.mul_succ]; omega
      _ ≤ 2 ^ lo * 2 ^ (hi + 1 - lo) := Nat.mul_le_mul_left _ hx
      _ = 2 ^ (hi + 1) := by rw [← Nat.pow_add]; congr 1; omega
  rw [Bits.put_eq v x h, Nat.testBit_two_pow_mul_add _ hmid, Nat.testBit_two_pow_mul_add _ hlow, Nat.testBit_mod_two_pow,
    Nat.testBit_mod_two_pow, Nat.testBit_div_two_pow]
  by_cases hjl : j < lo
  · simp [hjl, show j < hi + 1 by omega, Nat.not_le.2 hjl]
  · by_cases hjh : j ≤ hi
    · simp [hjl, hjh, Nat.not_lt.1 hjl, show j < hi + 1 by omega, show j - lo < hi + 1 - lo by omega]
    · simp [hjh, show ¬ j < hi + 1 by omega, show j - (hi + 1) + (hi + 1) = j by omega]

theorem Block.bit_putFld (a x j : Nat) {hi lo : Nat} (h : lo ≤ hi) (hj : j < 32) (b : Block) :
    (b.putFld a hi lo x).bit a j = if lo ≤ j ∧ j ≤ hi then x.testBit (j - lo) else b.bit a j := by
  unfold Block.bit
  rw [Block.regN_putFld_self, Bits.bit_eq_testBit, Bits.bit_eq_testBit, Nat.testBit_mod_two_pow, Bits.testBit_put _ _ _ h]
  simp [hj]

/-- A bit of the register whose bit `i` is written. -/
theorem Block.bit_putBit (a i : Nat) (v : Bool) {j : Nat} (hj : j < 32) (b : Block) :
    (b.putBit a i v).bit a j = if j = i then v else b.bit a j := by
  unfold Block.putBit
  rw [Block.bit_putFld _ _ _ (Nat.le_refl i) hj]
  by_cases hji : j = i
  · subst hji
    cases v <;> simp [Bits.ofBool]
  · rw [if_neg hji, if_neg (by omega)]

/-! ## The commands -/

section
variable (t : Time) (s : State)

theorem exec_referenceLoss (k : Nat) (x : RefCount) : exec (.referenceLoss t ⟨k, x⟩) s = After s (Pcr.refLoss k x (s.blk.tick t)) := rfl
theorem exec_referenceRecovery (k : Nat) (x : RefCount) : exec (.referenceRecovery t ⟨k, x⟩) s = After s (Pcr.refBack k x (s.blk.tick t)) := rfl
theorem exec_thermalSample (tj : Int) : exec (.thermalSample t tj) s = After s (Pcr.thermal tj (s.blk.tick t)) := rfl
theorem exec_thermalTrip : exec (.thermalTrip t) s = After s (Pcr.trip (s.blk.tick t)) := rfl

end

/-! ## References (R426, R427) -/

theorem RefCount.gone_iff (x : RefCount) : RefCount.gone x = true ↔ 8000 ≤ x.idle ∨ 1000 < x.ppm.natAbs := by
  unfold RefCount.gone
  simp

/-- Stable: the crystal within the 1,000 ppm that make a reference lost, any other one within 200 ppm. -/
theorem RefCount.stable_iff (x : RefCount) (k : Nat) : RefCount.stable x k = true ↔
    x.idle < 8000 ∧ x.ppm.natAbs ≤ (if k = 0 then 1000 else 200) ∧ 65536 ≤ x.cycles := by
  unfold RefCount.stable
  simp only [Bool.and_eq_true, Bool.not_eq_true', ← Bool.not_eq_true, RefCount.gone_iff, decide_eq_true_eq, Bool.or_eq_true, beq_iff_eq,
    not_or, Nat.not_le, Nat.not_lt]
  by_cases hk : k = 0
  · simp only [hk, if_true, true_or, and_true, and_assoc]
  · simp only [hk, if_false, false_or]
    exact ⟨fun ⟨⟨⟨hi, _⟩, hc⟩, hp⟩ => ⟨hi, hp, hc⟩, fun ⟨hi, hp, hc⟩ => ⟨⟨⟨hi, hp.trans (by decide)⟩, hc⟩, hp⟩⟩

/-- What decides, with the sensors' own state, whether a lost reference raises the alarm; and the references lost. -/
def Block.refState (b : Block) : Nat × List Nat × Word := (b.pcr.phase, b.pcr.lost, b.reg R.pcrBootStat)

theorem Block.armed_of_refState {b c : Block} {l : List Nat} (h : c.refState = (b.pcr.phase, l, b.reg R.pcrBootStat)) : c.armed = b.armed := by
  obtain ⟨hphase, -, hboot⟩ := Prod.mk.inj h |>.imp_right Prod.mk.inj
  unfold Block.armed Block.fld Block.regN
  rw [hphase, hboot]

section
variable (b : Block)

theorem Block.refState_putFld {a : Nat} (h : R.pcrBootStat ≠ a) (hi lo x : Nat) : (b.putFld a hi lo x).refState = b.refState := by
  unfold Block.refState
  rw [Block.reg_putFld_ne _ _ _ _ h]
  rfl

theorem Block.refState_setBits {a : Nat} (h : R.pcrBootStat ≠ a) (m : Nat) : (b.setBits a m).refState = b.refState := by
  unfold Block.refState
  rw [Block.reg_setBits_ne _ _ h]
  rfl

theorem Block.refState_engStep (before : Nat) : (b.engStep before).refState = b.refState := by
  unfold Block.engStep
  split <;> rfl

theorem Block.refState_hcStep (x act : Nat) : (b.hcStep x act).refState = b.refState := by
  unfold Block.hcStep
  dsimp only
  split <;> rfl

end

/-- The PLLs that run from a reference and have locked. -/
def Block.pllsOn (k : Nat) (b : Block) : List Nat := (Pcr.plls k).filter fun i => b.bit R.pcrPllStat i

/-- A PLL has lost its source: it is not locked any more, and coasts when it can. -/
def Block.pllLost (b : Block) (i : Nat) : Block :=
  let b := b.putBit R.pcrPllStat i false
  if i < 11 then b.putBit R.pcrPllStat (16 + i) true else b

/-- A reference is noted as lost and its PLLs coast; the event names those that were locked. -/
def Block.refGone (k : Nat) (b : Block) : Block :=
  let c := b.clkMark
  let run := c.pllsOn k
  let d := run.foldl Block.pllLost
    ((c.onPcr fun x => { x with lost := k :: x.lost, pcieOff := x.pcieOff || run.contains 11 }).putBit R.pcrRefStat k false)
  if run.isEmpty then d else ((d.setBits R.pcrSticky 8).coastStat).event 0x0051 3 devJob 5 (Bits.leBytes 2 (Bits.sum (run.map fun i => 2 ^ i)))

/-- The crystal is lost: the engines' clock moves to what its PLL coasts at, and so does the host cores'. -/
def Block.crystalGone (b : Block) : Block :=
  let c := (b.refGone 0).engStep b.engGoal
  if c.coasts 2 then (c.hcStep 10 1).putFld R.pcrClkNow 23 16 10 else c

theorem Block.refState_refGone (k : Nat) (b : Block) : (b.refGone k).refState = (b.pcr.phase, k :: b.pcr.lost, b.reg R.pcrBootStat) := by
  have hpll (c : Block) (i : Nat) : (c.pllLost i).refState = c.refState := by
    unfold Block.pllLost Block.putBit
    dsimp only
    split
    · rw [Block.refState_putFld _ (by decide), Block.refState_putFld _ (by decide)]
    · rw [Block.refState_putFld _ (by decide)]
  have hfold (l : List Nat) (c : Block) : (l.foldl Block.pllLost c).refState = c.refState :=
    List.foldlRecOn l _ (motive := fun d => d.refState = c.refState) rfl fun d hd i _ => (hpll d i).trans hd
  have hevent (c : Block) (d : List Byte) : (c.event 0x0051 3 devJob 5 d).refState = c.refState := rfl
  have hlost (c : Block) (l : List Nat) : ((c.onPcr fun x => { x with lost := k :: x.lost, pcieOff := x.pcieOff || l.contains 11 }).putBit
      R.pcrRefStat k false).refState = (c.pcr.phase, k :: c.pcr.lost, c.reg R.pcrBootStat) :=
    Block.refState_putFld _ (by decide) _ _ _
  unfold Block.refGone
  dsimp only
  split
  · rw [hfold, hlost]
    rfl
  · unfold Block.coastStat Block.putBit
    rw [hevent, Block.refState_putFld _ (by decide), Block.refState_setBits _ (by decide), hfold, ← Block.putBit, hlost]
    rfl

theorem Block.refState_crystalGone (b : Block) : b.crystalGone.refState = (b.pcr.phase, 0 :: b.pcr.lost, b.reg R.pcrBootStat) := by
  unfold Block.crystalGone
  dsimp only
  split
  · rw [Block.refState_putFld _ (by decide), Block.refState_hcStep, Block.refState_engStep, Block.refState_refGone]
  · rw [Block.refState_engStep, Block.refState_refGone]

section
variable {k : Nat} {x : RefCount} {b : Block}

theorem Pcr.refLoss_stays (h : RefCount.gone x = false) : Pcr.refLoss k x b = b := by
  unfold Pcr.refLoss
  exact if_pos (by simp [h])

section
variable (hk : k ≤ 5) (hl : k ∉ b.pcr.lost) (hx : RefCount.gone x = true)
include hk hl hx

/-- The loss of a reference, by which one it is. -/
theorem Pcr.refLoss_gone : Pcr.refLoss k x b =
    if k = 0 then
      if b.crystalGone.clockAlarm then ((b.crystalGone.alarm 16).putBit R.secTamperStat 4 true).onSec fun s => { s with raised := Nat.lor s.raised 16 }
      else b.crystalGone
    else if k = 5 then { b.refGone k with pcieUp := false }
    else (List.range 8).foldl (fun c i => c.portDown (8 * (k - 1) + i)) (b.refGone k) := by
  unfold Pcr.refLoss
  rw [if_neg (by simpa using ⟨hk, hl, hx⟩)]
  by_cases h0 : k = 0
  · subst h0
    rfl
  · rw [if_neg h0]
    exact (if_neg h0).symm

end

/-- Once the ports of a list have gone down, a port is up when it was and is not in it. -/
theorem Block.portUp_portsDown (f : Nat → Nat) {p : Nat} (hp : p < 32) (l : List Nat) (b : Block) :
    (l.foldl (fun c i => c.portDown (f i)) b).portUp p = (b.portUp p && !l.any fun i => p == f i) := by
  have hdown (q : Nat) (c : Block) : (c.portDown q).portUp p = if p = q then false else c.portUp p := Block.bit_putBit _ _ _ hp c
  induction l generalizing b with
  | nil => simp
  | cons i l ih =>
    rw [List.foldl_cons, ih, hdown, List.any_cons]
    by_cases hpi : p = f i
    · simp [hpi]
    · rw [if_neg hpi, beq_false_of_ne hpi, Bool.false_or]

theorem Block.portsDown_pcr (f : Nat → Nat) (l : List Nat) (b : Block) : (l.foldl (fun c i => c.portDown (f i)) b).pcr = b.pcr :=
  List.foldlRecOn l _ (motive := fun d : Block => d.pcr = b.pcr) rfl fun _ hd _ _ => hd

section
variable (hk : k ≤ 5) (hl : k ∉ b.pcr.lost) (hx : RefCount.gone x = true)
include hk hl hx

theorem Pcr.refLoss_lost (h1 : 1 ≤ k) : (Pcr.refLoss k x b).pcr.lost = k :: b.pcr.lost := by
  have hlost : (b.refGone k).pcr.lost = k :: b.pcr.lost := congrArg (·.2.1) (b.refState_refGone k)
  rw [Pcr.refLoss_gone hk hl hx, if_neg (by omega)]
  split
  · exact hlost
  · rw [Block.portsDown_pcr, hlost]

/-- The endpoint runs from the PCI Express reference. -/
theorem Pcr.refLoss_pcieUp (h5 : k = 5) : (Pcr.refLoss k x b).pcieUp = false := by
  rw [Pcr.refLoss_gone hk hl hx, if_neg (by omega), if_pos h5]

/-- Eight fabric ports run from each fabric reference. -/
theorem Pcr.refLoss_portUp {p : Nat} (hp : p < 32) (hpk : p / 8 + 1 = k) : (Pcr.refLoss k x b).portUp p = false := by
  have hmem : ((List.range 8).any fun i => p == 8 * (k - 1) + i) = true :=
    List.any_eq_true.2 ⟨p % 8, List.mem_range.2 (Nat.mod_lt _ (by decide)), beq_iff_eq.2 (by omega)⟩
  rw [Pcr.refLoss_gone hk hl hx, if_neg (by omega), if_neg (by omega), Block.portUp_portsDown _ hp, hmem, Bool.not_true, Bool.and_false]

end

/-- While its sensors do not watch, a device that loses its crystal raises no alarm. -/
theorem Pcr.refLoss_crystal (hl : 0 ∉ b.pcr.lost) (hx : RefCount.gone x = true) (harm : b.armed = false) :
    (Pcr.refLoss 0 x b).pcr.lost = 0 :: b.pcr.lost := by
  have hquiet : b.crystalGone.clockAlarm = false := by
    unfold Block.clockAlarm
    rw [Block.armed_of_refState b.refState_crystalGone, harm, Bool.false_and]
  rw [Pcr.refLoss_gone (by decide) hl hx, if_pos rfl, hquiet]
  exact congrArg (·.2.1) b.refState_crystalGone

theorem Pcr.refBack_stays (h : RefCount.stable x k = false) : Pcr.refBack k x b = b := by
  unfold Pcr.refBack
  exact if_pos (by simp [h])

end

/-- A PLL whose reference is back locks when it coasted, or when its boot step is over. -/
def Block.pllBack (stage : Nat) (b : Block) (i : Nat) : Block :=
  if i < 11 ∧ b.coasts i then (b.putBit R.pcrPllStat (16 + i) false).putBit R.pcrPllStat i true
  else if (if i = 0 then 3 else 5) ≤ stage then b.putBit R.pcrPllStat i true else b

/-- A reference is noted as back and its PLLs lock. -/
def Block.refBack (k : Nat) (b : Block) : Block :=
  let c := (b.clkMark.onPcr fun x => { x with lost := x.lost.filter (· != k), pcieOff := x.pcieOff && k != 5 }).putBit R.pcrRefStat k true
  (Pcr.plls k).foldl (Block.pllBack (c.fld R.pcrBootStat 7 0)) c

theorem Block.refBack_lost (k : Nat) (b : Block) : (b.refBack k).pcr.lost = b.pcr.lost.filter (· != k) := by
  have hpll (stage : Nat) (c : Block) (i : Nat) : (Block.pllBack stage c i).pcr = c.pcr := by
    unfold Block.pllBack
    split_ifs <;> rfl
  have hfold (stage : Nat) (c : Block) (l : List Nat) : (l.foldl (Block.pllBack stage) c).pcr = c.pcr :=
    List.foldlRecOn l _ (motive := fun d => d.pcr = c.pcr) rfl fun d hd i _ => (hpll stage d i).trans hd
  unfold Block.refBack
  dsimp only
  rw [hfold]
  rfl

section
variable {k : Nat} {x : RefCount} {b : Block} (hl : k ∈ b.pcr.lost) (hx : RefCount.stable x k = true)
include hl hx

/-- A reference that is stable again is back, with the endpoint when it is its own. -/
theorem Pcr.refBack_stable : Pcr.refBack k x b =
    ((if k = 5 then { b.refBack k with pcieUp := true } else b.refBack k).coastStat).engStep b.engGoal := by
  unfold Pcr.refBack
  exact if_neg (by simp [hl, hx])

theorem Pcr.refBack_lost : (Pcr.refBack k x b).pcr.lost = b.pcr.lost.filter (· != k) := by
  have hstep (c : Block) (n : Nat) : (c.engStep n).pcr.lost = c.pcr.lost := congrArg (·.2.1) (Block.refState_engStep c n)
  have hcoast (c : Block) : c.coastStat.pcr = c.pcr := Block.setReg_pcr _ _ c
  rw [Pcr.refBack_stable hl hx, hstep, hcoast, ← Block.refBack_lost]
  split
  · rfl
  · rfl

theorem Pcr.refBack_pcieUp (h5 : k = 5) : (Pcr.refBack k x b).pcieUp = true := by
  have hstep (c : Block) (n : Nat) : (c.engStep n).pcieUp = c.pcieUp := by
    unfold Block.engStep
    split_ifs <;> rfl
  have hcoast (c : Block) : c.coastStat.pcieUp = c.pcieUp := Block.setReg_pcieUp _ _ c
  rw [Pcr.refBack_stable hl hx, hstep, hcoast, if_pos h5]

end

/-! ## Temperature (R438, R439) -/

section
variable {b : Block}

theorem Pcr.thermal_off (h : b.sensing = false) (tj : Int) : Pcr.thermal tj b = b := by
  unfold Pcr.thermal
  exact if_pos (by simp [h])

theorem Pcr.thermal_sensing (h : b.sensing = true) (tj : Int) :
    let c := (b.tjSample tj).levelStep
    Pcr.thermal tj b = (c.putN R.pcrPkgLimit (c.limitAfter tj).toNat).pcrLoop 0 false (decide (c.limitAfter tj < c.pcr.pwrIn.1)) := by
  unfold Pcr.thermal
  exact if_neg (by simp [h])

/-- Two blocks differ in their registers alone. -/
def Block.RegsOnly (b c : Block) : Prop := ∃ rs, c = { b with regs := rs }

theorem Block.RegsOnly.putN {b c : Block} (h : b.RegsOnly c) (a x : Nat) : b.RegsOnly (c.putN a x) := by
  obtain ⟨rs, rfl⟩ := h
  exact ⟨_, rfl⟩

theorem Block.memRegs_regsOnly (b : Block) : b.RegsOnly b.memRegs := by
  have h0 : b.RegsOnly b := ⟨b.regs, rfl⟩
  unfold Block.memRegs
  exact List.foldlRecOn _ _ (((h0.putN _ _).putN _ _).putN _ _) fun d hd st _ => ((hd.putN _ _).putN _ _).putN _ _

/-- Nothing outside the always-on domain is left: no ring, no job, no memory. -/
theorem Block.aonOnly_empty (b : Block) : b.aonOnly.rings = [] ∧ b.aonOnly.jobs = [] ∧ b.aonOnly.dram = [] := by
  have hmem (n : Block) : let m := if n.mc.retired.isEmpty then n else n.memRegs
      m.rings = n.rings ∧ m.jobs = n.jobs ∧ m.dram = n.dram := by
    obtain ⟨rs, hrs⟩ := n.memRegs_regsOnly
    dsimp only
    split
    · exact ⟨rfl, rfl, rfl⟩
    · rw [hrs]
      exact ⟨rfl, rfl, rfl⟩
  exact hmem _

/-- The state `n` after a trip, whose SEC keeps of `b` what a reset needs. -/
def Block.tripState (b n : Block) : Block :=
  ({ n with sec := { n.sec with cdi := b.sec.cdi, vcore := b.sec.vcore, temp := b.sec.temp } }.setBits R.pcrSticky 32).onPcr fun x =>
    { x with phase := 7, tripped := true }

/-- The main domain of a device that has tripped is off. -/
def Block.tripped (b : Block) : Block := b.eraseTraffic.tripState b.eraseTraffic.aonOnly

theorem Block.tripped_empty (b : Block) : b.tripped.rings = [] ∧ b.tripped.jobs = [] ∧ b.tripped.dram = [] := by
  have hkeeps (c n : Block) : (c.tripState n).rings = n.rings ∧ (c.tripState n).jobs = n.jobs ∧ (c.tripState n).dram = n.dram := ⟨rfl, rfl, rfl⟩
  unfold Block.tripped
  obtain ⟨hr, hj, hd⟩ := hkeeps b.eraseTraffic b.eraseTraffic.aonOnly
  rw [hr, hj, hd]
  exact b.eraseTraffic.aonOnly_empty

theorem Pcr.held_some {o : Option Time} {t0 : Time} (h : o = some t0) (now d : Time) : Pcr.held now o d = true ↔ t0 + d ≤ now := by
  subst h
  exact decide_eq_true_iff

/-- The trip, once 105 °C has held for 100 µs. -/
theorem Pcr.trip_hot (h : b.sensing = true) {t0 : Time} (ht : b.pcr.hotTrip = some t0) :
    Pcr.trip b = if t0 + 800000 ≤ b.now then b.tripped else b := by
  have hheld : Pcr.held b.now b.pcr.hotTrip (100 * us) = true ↔ t0 + 800000 ≤ b.now :=
    Pcr.held_some ht _ _
  unfold Pcr.trip
  by_cases hnow : t0 + 800000 ≤ b.now
  · rw [if_pos hnow, if_neg (by rw [h, hheld.2 hnow]; decide)]
    rfl
  · rw [if_neg hnow, if_pos (.inr (by rw [Bool.eq_false_iff.2 fun h => hnow (hheld.1 h)]; rfl))]

end

/-! ## The statement -/

/-- Settles O36: the loss and the return of a reference, by which one it is; a sample; and the trip, by how long it has been hot. -/
theorem referencesAndTemperature : Obligations.ReferencesAndTemperature := by
  unfold Obligations.ReferencesAndTemperature
  refine ⟨?loss, ?back, ?sample, ?trip⟩
  case loss =>
    intro t k x s b gone hk hl
    simp only [exec_referenceLoss]
    refine ⟨fun hg h1 => ?_, fun hg h0 harm => ?_, fun hg => ?_⟩
    · have hx := (RefCount.gone_iff x).2 hg
      exact ⟨_, rfl, Pcr.refLoss_lost hk hl hx h1, Pcr.refLoss_pcieUp hk hl hx, fun p hp => Pcr.refLoss_portUp hk hl hx hp⟩
    · subst h0
      exact ⟨_, rfl, Pcr.refLoss_crystal hl ((RefCount.gone_iff x).2 hg) harm⟩
    · rw [Pcr.refLoss_stays (Bool.eq_false_iff.2 fun h => hg ((RefCount.gone_iff x).1 h))]
  case back =>
    intro t k x s b stable hl
    simp only [exec_referenceRecovery]
    refine ⟨fun hs => ?_, fun hs => ?_⟩
    · have hx := (RefCount.stable_iff x k).2 hs
      refine ⟨_, rfl, Pcr.refBack_pcieUp hl hx, ?_⟩
      rw [Pcr.refBack_lost (b := b) hl hx]
      simp
    · rw [Pcr.refBack_stays (Bool.eq_false_iff.2 fun h => hs ((RefCount.stable_iff x k).1 h))]
  case sample =>
    intro t tj s b c
    rw [exec_thermalSample]
    exact ⟨fun h => by rw [Pcr.thermal_sensing (b := b) h], fun h => by rw [Pcr.thermal_off (b := b) h]⟩
  case trip =>
    intro t t0 s b h ht
    simp only [exec_thermalTrip]
    rw [Pcr.trip_hot (b := b) h ht]
    refine ⟨fun hnow => ⟨_, by rw [if_pos hnow], rfl, rfl, b.tripped_empty⟩, fun hnow => ?_⟩
    rw [if_neg (Nat.not_le.2 hnow)]

end Sys2Proof.Machine
end

section
/-! SUPPORT. Energy tokens (R436, R437), the ramp governor (R434, R435) and the voltage loop (R441, R492). -/

namespace Sys2Proof.Machine

/-! ## The commands -/

section
variable (t : Time) (s : State)

theorem exec_energyEpoch (watts : Nat) : exec (.energyEpoch t watts) s = After s (Pcr.epoch watts (s.blk.tick t)) := rfl
theorem exec_adaptiveLoopUpdate (i target : Nat) : exec (.adaptiveLoopUpdate t i target) s = After s (Pcr.loopUpdate i target (s.blk.tick t)) := rfl
theorem exec_avsAlertNChange (level : Bool) : exec (.avsAlertNChange t level) s = After s (Pcr.avsAlert level (s.blk.tick t)) := rfl

theorem exec_rampGovernorGrant (h : (s.blk.tick t).pcr.phase = 4) :
    exec (.rampGovernorGrant t) s = After s (Pcr.rampGrant (s.blk.tick t)) :=
  (after_run s t _).trans (congrArg (After s) (Block.whenUp_of h _))

end

/-! ## Energy tokens (R436) -/

/-- An epoch begins when the device runs, and in Calm. -/
theorem Pcr.epoch_of {b : Block} (h : b.pcr.phase = 4 ∨ b.pcr.phase = 5) (watts : Nat) : Pcr.epoch watts b =
    (b.epochMark watts).tokensGranted ((b.epochMark watts).tokensFor watts (b.regN R.pcrTokGrant) b.spent) := by
  unfold Pcr.epoch
  exact if_neg (by omega)

theorem Block.tokensFor_asleep {b : Block} (h : b.pstate ≠ 2) (watts g spent : Nat) : b.tokensFor watts g spent = 0 := if_pos h

/-! ## The ramp governor (R435) -/

/-- A step that the governor lets through whole: it is remembered for 100 µs, and the modelled current and the wait are counted. -/
def Block.rampGrants (x : RampStep) (rest : List RampStep) (b : Block) : Block :=
  let c := b.onPcr fun y => { y with steps := (b.now, x.amps) :: b.pcr.steps.filter fun z => b.now < z.1 + 100 * us, ramp := rest }
  let d := c.putN R.pcrImodel ((c.regN R.pcrImodel : Int) + x.amps).toNat
  d.bumpN R.pcrRampHoldUs ((d.now - x.at_) / us)

/-- The oldest step goes whole when both limits let all of it through. -/
theorem Pcr.rampGrant_whole {b : Block} {x : RampStep} {rest : List RampStep} (hr : b.pcr.ramp = x :: rest) (h0 : x.amps ≠ 0)
    (hroom : b.rampRoom x.amps = x.amps) : Pcr.rampGrant b =
      if x.act < 2 then b.rampGrants x rest
      else (b.rampGrants x rest).putFld R.pcrClkNow 23 16 ((b.rampGrants x rest).hcNow (x.act - 1)) := by
  unfold Pcr.rampGrant Block.rampGrants
  rw [hr]
  dsimp only
  rw [hroom, if_neg h0, if_pos rfl, if_pos rfl]
  rfl

/-! ## The voltage loop (R441, R492) -/

section
variable {b : Block}

theorem Pcr.loopUpdate_avs (h4 : b.pcr.phase = 4) (hc : b.cpOut 5 = false) (target : Nat) :
    Pcr.loopUpdate 0x2010 target b = Pcr.avs target b := by
  unfold Pcr.loopUpdate
  rw [if_neg (by simp [h4, hc]), if_pos rfl]

theorem Pcr.avs_alert (h : b.pcr.alert = true) (target : Int) : Pcr.avs target b = b.pcrLoop 1 (b.pcr.sat.contains 1) true := by
  unfold Pcr.avs
  exact if_pos h

/-- A target within the bounds is followed by 5 mV at most. -/
theorem Pcr.avs_within {target : Int} (ha : b.pcr.alert = false) (hr : b.pcr.ramp = []) (h0 : (b.regN R.pcrVcore : Int) ≠ 0)
    (hlo : (b.bounds R.pcrBndAvs).1 ≤ target) (hhi : target ≤ (b.bounds R.pcrBndAvs).2) : Pcr.avs target b =
      (b.vcore (Lo.clamp ((b.regN R.pcrVcore : Int) - 5) ((b.regN R.pcrVcore : Int) + 5) target)).pcrLoop 1 false false := by
  unfold Pcr.avs
  dsimp only
  rw [ha, if_neg Bool.false_ne_true, hr, if_neg (by simp), if_neg h0, if_neg (not_lt.2 hhi), max_eq_right hlo,
    decide_eq_false (not_lt.2 hlo), decide_eq_false (not_lt.2 hhi)]

end

/-! ## The statement -/

/-- Settles O37: an epoch, the oldest step that the governor lets through, and the voltage loop with and without its alert. -/
theorem energyAndLoops : Obligations.EnergyAndLoops := by
  unfold Obligations.EnergyAndLoops
  refine ⟨?epoch, ?asleep, ?ramp, ?voltage, ?alert⟩
  case epoch =>
    intro t watts s b c h
    rw [exec_energyEpoch, Pcr.epoch_of (b := b) h]
    rfl
  case asleep => exact fun b watts g spent h => Block.tokensFor_asleep h watts g spent
  case ramp =>
    intro t x rest s b h4 hr h0 hroom c d e
    have he : b.rampGrants x rest = e := rfl
    rw [exec_rampGovernorGrant t s h4, Pcr.rampGrant_whole (b := b) hr h0 hroom, he]
    exact ⟨fun h => by rw [if_pos h], fun h => by rw [if_neg (Nat.not_lt.2 h)]⟩
  case voltage =>
    intro t target s b bnd cur h4 hc
    rw [exec_adaptiveLoopUpdate, Pcr.loopUpdate_avs (b := b) h4 hc]
    exact ⟨fun ha hr h0 hlo hhi => by rw [Pcr.avs_within (b := b) ha hr h0 hlo hhi], fun ha => by rw [Pcr.avs_alert (b := b) ha]⟩
  case alert =>
    intro t level s b
    rw [exec_avsAlertNChange]
    rfl

end Sys2Proof.Machine
end

section
/-! SUPPORT. Pulse outputs (R412 to R414), the timestamps of the inputs (R415) and the offset measurement (R416). -/

namespace Sys2Proof.Machine

/-! ## The commands -/

section
variable {t : Time} {r : Req} {s : State} {b : Block} {id : Nat}

theorem exec_pulseSet (h : Starts 0x0703 r t s b id) : exec (.pulseSet t r) s = After s (Tu.pulseSet id r b) := cmd_runs h _
theorem exec_offsetMeasure (h : Starts 0x0704 r t s b id) : exec (.offsetMeasure t r) s = After s (Tu.offsetMeasure id r b) := cmd_runs h _

end

section
variable {t : Time} {s : State}

theorem exec_pulseEdge (h : (s.blk.tick t).pcr.phase = 4) (n : Nat) : exec (.pulseEdge t n) s = After s (Tu.pulseEdge n (s.blk.tick t)) :=
  (after_run s t _).trans (congrArg (After s) (Block.whenUp_of h _))

theorem after_tu (h : (s.blk.tick t).works 36 = true) (f : Block → Block) :
    (Host.Outcome.next (s.run t fun b => b.whenWorks 36 f) : Host.Outcome State Fault Refusal) = After s (f (s.blk.tick t)) :=
  (after_run s t _).trans (congrArg (After s) (Block.whenWorks_of h f))

theorem exec_offsetMeasureTimeout (h : (s.blk.tick t).works 36 = true) :
    exec (.offsetMeasureTimeout t) s = After s (Tu.offsetTimeout (s.blk.tick t)) := after_tu h _

theorem exec_pulseInputEdge (h : (s.blk.tick t).works 36 = true) (i : Nat) (rising : Bool) :
    exec (.pulseInputEdge t i rising) s = After s (Tu.inputEdge i rising (s.blk.tick t)) := after_tu h _

end

/-! ## PULSE_SET (R412, R413) -/

/-- The programme that a PULSE_SET packet spells. -/
def Tu.pulseOf (r : Req) : Pulse :=
  ⟨r.u 48 1, (((r.a0 * 1000000000 + r.a1) * 8 + r.u 50 1 : Nat) : Int), r.u 32 8, r.u 40 8, r.u 49 1 == 1⟩

/-- A programme that PULSE_SET takes: its times within bounds, its start 1 ms ahead or more. -/
structure PulseSound (now : Int) (p : Pulse) : Prop where
  mode     : p.mode ≤ 2
  oneShot  : p.mode = 1 → p.width ≤ 8000000000000
  periodic : p.mode = 2 → 800 ≤ p.period ∧ p.period ≤ 8000000000000 ∧ p.width + 80 ≤ p.period
  width    : 80 ≤ p.width
  start    : now + 8000000 ≤ p.start

/-- PULSE_SET with sound fields: an output that does not run, or is in a pulse, keeps the programme for later. -/
theorem Tu.pulseSet_sound {t : Time} {r : Req} {s : State} {b : Block} {id : Nat} (h : Starts 0x0703 r t s b id)
    (hp : PulseSound b.localTime (Tu.pulseOf r)) (h16 : r.a0 < 2 ^ 48) (h24 : r.a1 ≤ 999999999) (hn : r.a2 ≤ 3) (h49 : r.u 49 1 ≤ 1)
    (h50 : r.u 50 1 ≤ 7) (h51 : r.u 51 13 = 0) :
    let c := b.poPassed r.a2
    Tu.pulseSet id r b = (c.setPo r.a2 (if (c.po r.a2).active ∨ c.funcMode (0x500 + r.a2) ≠ 1 then { c.po r.a2 with next := some (Tu.pulseOf r) }
      else (c.po r.a2).take (Tu.pulseOf r) c.localTime)).ok id 0 := by
  obtain ⟨hmode, hone, hper, hwidth, hstart⟩ := hp
  unfold Tu.pulseSet
  refine Ci.check8_sound h ?_ _
  simp only [List.mem_cons, List.not_mem_nil, or_false, forall_eq_or_imp, forall_eq, Bool.and_eq_false_imp, beq_iff_eq, decide_eq_false_iff_not,
    Req.nz_eq_false]
  refine ⟨fun h2 => ?_, Nat.not_lt.2 hwidth, fun h2 => ?_, fun h1 => Nat.not_lt.2 (hone h1), not_lt.2 hstart, Nat.not_le.2 h16, Nat.not_lt.2 h24,
    Nat.not_lt.2 hn, Nat.not_lt.2 hmode, Nat.not_lt.2 h49, Nat.not_lt.2 h50, h51⟩
  · exact fun hbad => hbad.elim (Nat.not_lt.2 (hper h2).1) (Nat.not_lt.2 (hper h2).2.1)
  · exact Nat.not_lt.2 (hper h2).2.2

/-- A programme that lies ahead takes effect from its first edge. -/
theorem PulseOut.take_ahead {p : Pulse} {now : Int} (h : now + 8000000 ≤ p.start) (x : PulseOut) : x.take p now = ⟨p, none, 0, false⟩ := by
  unfold PulseOut.take
  rw [if_neg (by omega)]

section
variable {b : Block} {n : Nat}

theorem Block.poRuns_of (h : b.funcMode (0x500 + n) = 1) : b.poRuns n = true := by
  unfold Block.poRuns
  rw [h]
  rfl

theorem Block.poPassed_runs (h : b.funcMode (0x500 + n) = 1) : b.poPassed n = b := if_pos (Block.poRuns_of h)

theorem Block.funcMode_poPassed (f : Nat) : (b.poPassed n).funcMode f = b.funcMode f := by
  unfold Block.poPassed Block.poMissed
  dsimp only
  split_ifs <;> rfl

/-! ## The edges of a pulse (R413) -/

section
variable (hn : n ≤ 3) (hr : b.poRuns n = true)
include hn hr

/-- The active edge comes when its time has. -/
theorem Tu.pulseEdge_active (ha : (b.po n).active = false) (hm : (b.po n).prog.mode ≠ 0) (hf : b.funcMode (0x500 + n) = 1)
    (hnow : (b.po n).edge ≤ b.localTime) :
    Tu.pulseEdge n b = (b.emit (.pulse n (!(b.po n).prog.low) (b.po n).edge)).setPo n { (b.po n) with active := true } := by
  unfold Tu.pulseEdge
  rw [if_neg (by simp [hn, hr, hm]), ha, if_neg Bool.false_ne_true, if_neg (by rw [hf]; simp [hnow])]

theorem Tu.pulseEdge_early (ha : (b.po n).active = false) (hnow : b.localTime < (b.po n).edge) : Tu.pulseEdge n b = b := by
  unfold Tu.pulseEdge
  dsimp only
  by_cases hm : (b.po n).prog.mode = 0
  · rw [if_pos (.inr (.inr ⟨hm, by rw [ha]; rfl⟩))]
  · rw [if_neg (by simp [hn, hr, hm]), ha, if_neg Bool.false_ne_true, if_pos (.inr hnow)]

theorem Tu.pulseEdge_inside (ha : (b.po n).active = true) (hnow : b.localTime < (b.po n).edge + (b.po n).prog.width) : Tu.pulseEdge n b = b := by
  unfold Tu.pulseEdge
  rw [if_neg (by simp [hn, hr, ha]), if_pos ha]
  exact if_pos hnow

end

end

/-! ## The offset measurement (R416) -/

theorem Tu.offsetMeasure_sound {t : Time} {r : Req} {s : State} {b : Block} {id : Nat} (h : Starts 0x0704 r t s b id)
    (h16 : r.a0 < 2 ^ 48) (h24 : r.a1 ≤ 999999999) (hi : r.a2 ≤ 1) (h32 : r.u 32 1 ≤ 7) (h33 : r.u 33 31 = 0) : Tu.offsetMeasure id r b =
      if (AMap.get? b.tu.meas r.a2).isSome then b.done id St.busy 0
      else b.onTu fun t => { t with meas := AMap.set t.meas r.a2 ⟨id, (((r.a0 * 1000000000 + r.a1) * 8 + r.u 32 1 : Nat) : Int), 0⟩ } := by
  unfold Tu.offsetMeasure
  refine Ci.check8_sound h ?_ _
  simp only [List.mem_cons, List.not_mem_nil, or_false, forall_eq_or_imp, forall_eq, decide_eq_false_iff_not, Req.nz_eq_false]
  exact ⟨Nat.not_le.2 h16, Nat.not_lt.2 h24, Nat.not_lt.2 hi, Nat.not_lt.2 h32, h33⟩

section
variable {b : Block} {i : Nat}

/-- The one measurement that waits ends when its window is over. -/
theorem Tu.offsetTimeout_one {x : OffMeas} (h : b.tu.meas = [(i, x)]) : Tu.offsetTimeout b =
    if b.measAhead x < -8000000000 then (b.onTu fun t => { t with meas := AMap.erase t.meas i }).done x.cmd St.timeout 0 else b := by
  unfold Tu.offsetTimeout
  rw [h]
  by_cases hlate : b.measAhead x < -8000000000
  · have hl : [(i, x)].filter (fun e => decide (b.measAhead e.2 < -(second : Int))) = [(i, x)] :=
      List.filter_eq_self.2 fun e he => by rw [List.mem_singleton.1 he]; exact decide_eq_true hlate
    rw [hl, if_pos hlate]
    rfl
  · have hl : [(i, x)].filter (fun e => decide (b.measAhead e.2 < -(second : Int))) = [] :=
      List.filter_eq_nil_iff.2 fun e he => by rw [List.mem_singleton.1 he]; exact fun hl => hlate (of_decide_eq_true hl)
    rw [hl, if_neg hlate]
    rfl

/-- An edge is timestamped, or counted when the FIFO is full. -/
def Block.stampEdge (i : Nat) (b : Block) : Block :=
  if (AMap.getD b.tu.fifo i []).length < 16 then b.onTu fun u => { u with fifo := AMap.set u.fifo i (AMap.getD b.tu.fifo i [] ++ [b.localTime]) }
  else b.bump (R.tuPiOvfCnt i)

theorem Block.stampEdge_meas : (b.stampEdge i).tu.meas = b.tu.meas := by
  unfold Block.stampEdge
  split
  · rfl
  · rfl

section
variable {rising : Bool} (hi : i ≤ 1) (he : Bits.bit (b.fld (R.tuPiCtl i) 2 1) (if rising then 0 else 1) = true)
include hi he

/-- An edge that no measurement waits for is stamped alone. -/
theorem Tu.inputEdge_stamp (hon : b.bit (R.tuPiCtl i) 0 = true) (hm : AMap.get? b.tu.meas i = none) :
    Tu.inputEdge i rising b = b.stampEdge i := by
  have hm' : AMap.get? (b.stampEdge i).tu.meas i = none := by rw [Block.stampEdge_meas, hm]
  unfold Block.stampEdge at hm' ⊢
  unfold Tu.inputEdge
  dsimp only
  rw [if_neg (by simp [hi, he]), if_pos hon, hm']

/-- An edge in the window of a measurement answers it. -/
theorem Tu.inputEdge_measure {m : OffMeas} (hoff : b.bit (R.tuPiCtl i) 0 = false) (hm : AMap.get? b.tu.meas i = some m)
    (hin : (b.measAhead m).natAbs ≤ 8000000000) : Tu.inputEdge i rising b =
    (b.onTu fun u => { u with meas := AMap.erase u.meas i }).complete m.cmd
      ⟨St.ok, 0, 0, Bits.ofInt 64 (b.localTime - m.exp), Bits.ofInt 48 (b.localTime / 8000000000)⟩ := by
  unfold Tu.inputEdge
  dsimp only
  rw [if_neg (by simp [hi, he]), hoff, if_neg Bool.false_ne_true, hm]
  exact if_pos hin

end

end

/-! ## The statement -/

/-- Settles O56: PULSE_SET by the state of its output, an edge by its time, a measurement by its window, and an input's edge. -/
theorem pulsesAndOffsets : Obligations.PulsesAndOffsets := by
  unfold Obligations.PulsesAndOffsets
  refine ⟨?set, ?edge, ?measure, ?timeout, ?input⟩
  case set =>
    intro t r s b id h n start mode period width p c hmode hone hper hw hst h16 h24 hn h49 h50 h51
    rw [exec_pulseSet h, Tu.pulseSet_sound h ⟨hmode, hone, hper, hw, hst⟩ h16 h24 hn h49 h50 h51]
    refine ⟨fun hf ha => ?_, fun hf ha => ?_, fun hf => ?_⟩
    · rw [Block.poPassed_runs hf, if_pos (.inl ha)]
      rfl
    · rw [Block.poPassed_runs hf, if_neg (by rw [ha, hf]; simp), PulseOut.take_ahead hst]
      rfl
    · rw [if_pos (.inr (by rw [Block.funcMode_poPassed]; exact hf))]
      rfl
  case edge =>
    intro t n s b x h4 hn hr
    rw [exec_pulseEdge h4]
    refine ⟨fun ha hm hf hnow => ?_, fun ha hnow => ?_, fun ha hnow => ?_⟩
    · rw [Tu.pulseEdge_active (b := b) hn hr ha hm hf hnow]
    · rw [Tu.pulseEdge_early (b := b) hn hr ha hnow]
    · rw [Tu.pulseEdge_inside (b := b) hn hr ha hnow]
  case measure =>
    intro t r s b id h exp h16 h24 hi h32 h33
    rw [exec_offsetMeasure h, Tu.offsetMeasure_sound h h16 h24 hi h32 h33]
    refine ⟨fun hm => ?_, fun hm => ?_⟩
    · rw [if_pos (Option.isSome_iff_ne_none.2 hm)]
    · rw [hm]
      rfl
  case timeout =>
    intro t i x s b h36 hm
    rw [exec_offsetMeasureTimeout h36, Tu.offsetTimeout_one (b := b) hm]
    exact ⟨fun hlate => by rw [if_pos hlate], fun hin => by rw [if_neg (not_lt.2 hin)]⟩
  case input =>
    intro t i rising s b q h36 hi he
    rw [exec_pulseInputEdge h36]
    refine ⟨fun hon hm hq => ?_, fun hon hm hq => ?_, fun m hoff hm hin => ?_⟩
    · rw [Tu.inputEdge_stamp (b := b) hi he hon hm]
      exact congrArg (After s) (if_pos hq)
    · rw [Tu.inputEdge_stamp (b := b) hi he hon hm]
      exact congrArg (After s) (if_neg (Nat.not_lt.2 hq))
    · rw [Tu.inputEdge_measure (b := b) hi he hoff hm hin]

end Sys2Proof.Machine
end

section
/-! SUPPORT. PTP domains (R401 to R404, R406) and the transparent clock (R407, R408). -/

namespace Sys2Proof.Machine

/-! ## The commands -/

section
variable {t : Time} {r : Req} {s : State} {b : Block} {id : Nat}

theorem exec_ptpConfig (h : Starts 0x0701 r t s b id) : exec (.ptpConfig t r) s = After s (Tu.ptpConfig id r b) := cmd_runs h _
theorem exec_domainSelect (h : Starts 0x0702 r t s b id) : exec (.domainSelect t r) s = After s (Tu.domainSelect id r b) := cmd_runs h _

end

section
variable {t : Time} {s : State} (h : (s.blk.tick t).works 36 = true)
include h

theorem exec_slewEnd : exec (.slewEnd t) s = After s (Tu.slewEnd (s.blk.tick t)) := after_tu h _
theorem exec_tcForward (m : PtpMsg) (res : Nat) (up : Bool) : exec (.tcForward t m res up) s = After s (Tu.tcForward m res up (s.blk.tick t)) :=
  after_tu h _

variable (hc : (s.blk.tick t).cpOut 8 = false)
include hc

theorem after_ptp (f : Block → Block) :
    (Host.Outcome.next (s.run t fun b => b.whenPtp f) : Host.Outcome State Fault Refusal) = After s (f (s.blk.tick t)) :=
  (after_run s t _).trans (congrArg (After s) (Block.whenPtp_of h hc f))

theorem exec_ptpMessageRx (d : Nat) (m : PtpMsg) : exec (.ptpMessageRx t d m) s = After s (Tu.ptpMessage d m (s.blk.tick t)) := after_ptp h hc _
theorem exec_ptpInstanceLost (d : Nat) : exec (.ptpInstanceLost t d) s = After s (Tu.instanceLost d (s.blk.tick t)) := after_ptp h hc _
theorem exec_ptpDelayReqSend (d : Nat) : exec (.ptpDelayReqSend t d) s = After s (Tu.delayReq d (s.blk.tick t)) := after_ptp h hc _

end

/-! ## PTP_CONFIG and DOMAIN_SELECT (R401, R406) -/

/-- The settings that a PTP_CONFIG packet spells are within Table 15-1. -/
structure PtpSound (r : Req) : Prop where
  secs  : r.a0 < 2 ^ 48
  nanos : r.a1 ≤ 999999999
  inst  : r.a2 ≤ 1
  dom   : r.u 32 1 ≤ 127
  ports : 1 ≤ r.u 33 1 ∧ r.u 33 1 ≤ 3
  sync  : -7 ≤ Tu.log (r.u 34 1) ∧ Tu.log (r.u 34 1) ≤ 1
  dreq  : -7 ≤ Tu.log (r.u 35 1) ∧ Tu.log (r.u 35 1) ≤ 5
  tmo   : 2 ≤ r.u 36 1 ∧ r.u 36 1 ≤ 10
  set   : r.u 37 1 ≤ 1
  rest  : r.u 38 26 = 0

/-- A domain takes the settings of a packet. -/
def Block.ptpTakes (r : Req) (b : Block) : Block :=
  (b.modInst r.a2 fun _ => { TuInst.init with
    conf := true, dom := r.u 32 1, ports := r.u 33 1, logSync := Tu.log (r.u 34 1), logDreq := Tu.log (r.u 35 1), annTmo := r.u 36 1 }).putFld
    (R.tuDStat r.a2) 14 8 (r.u 32 1)

section
variable {t : Time} {r : Req} {s : State} {b : Block} {id : Nat}

/-- PTP_CONFIG within bounds, of a domain number that the other one does not have: local time is not set while a domain is LOCKED, and
settings are for one that is OFF. -/
theorem Tu.ptpConfig_sound (h : Starts 0x0701 r t s b id) (hr : PtpSound r)
    (hdom : (b.inst (1 - r.a2)).conf = true → (b.inst (1 - r.a2)).dom ≠ r.u 32 1) :
    let set := r.u 37 1 == 1
    let c := if b.instOff r.a2 then b.ptpTakes r else b
    Tu.ptpConfig id r b =
      if set && (b.instState 0 == 3 || b.instState 1 == 3) then b.done id St.state 1
      else if !set && !b.instOff r.a2 then b.done id St.state 2
      else (if set then c.tuStep (((r.a0 * 1000000000 + r.a1) * 8 : Nat) - c.localTime) else c).ok id 0 := by
  obtain ⟨hsecs, hnanos, hinst, hdn, hports, hsync, hdreq, htmo, hset, hrest⟩ := hr
  unfold Tu.ptpConfig
  refine Ci.check8_sound h ?_ _
  simp only [List.mem_cons, List.not_mem_nil, or_false, forall_eq_or_imp, forall_eq, decide_eq_false_iff_not, Bool.or_eq_false_iff, beq_eq_false_iff_ne,
    Req.nz_eq_false]
  exact ⟨Nat.not_le.2 hsecs, Nat.not_lt.2 hnanos, Nat.not_lt.2 hinst, fun hbad => hbad.elim (Nat.not_lt.2 hdn) fun ⟨_, hconf, heq⟩ => hdom hconf heq,
    ⟨by omega, by omega⟩, by omega, by omega, by omega, Nat.not_lt.2 hset, hrest⟩

theorem Tu.domainSelect_sound (h : Starts 0x0702 r t s b id) (h16 : r.u 16 8 = 0) (h24 : r.u 24 4 = 0) (hd : r.a2 ≤ 1) (h32 : r.u 32 32 = 0) :
    Tu.domainSelect id r b = if b.selected = r.a2 then b.ok id 0
      else if b.instState r.a2 ≠ 3 then b.done id St.state (b.instState r.a2) else b.switchTo r.a2 (some id) := by
  unfold Tu.domainSelect
  exact Ci.check8_sound h (by simp [h16, h24, hd, h32]) _

end

/-! ## The messages of a domain (R402, R403) -/

section
variable {d : Nat} {m : PtpMsg} {b : Block}

theorem Tu.ptpMessage_other (h : b.ptpFor d m = false) : Tu.ptpMessage d m b = b := by
  unfold Tu.ptpMessage
  exact if_pos (by rw [h]; rfl)

theorem Tu.ptpMessage_announce (h : b.ptpFor d m = true) (hk : m.kind = 4) : Tu.ptpMessage d m b = b.announceIn d m := by
  unfold Tu.ptpMessage
  dsimp only
  rw [h, if_neg (by decide), hk]
  rfl

/-- A one-step Sync of the master that is followed, with the path delay known, is a sample of the offset. -/
theorem Tu.ptpMessage_sync (h : b.ptpFor d m = true) (hk : m.kind = 0) (h1 : m.twoStep = false) (hst : 2 ≤ b.instState d ∧ b.instState d ≠ 4)
    (hgm : (b.inst d).gm.map (·.source) = some m.source) {p : Int} :
    let c := (b.bump (R.tuDSyncCnt d)).modInst d fun x => { x with lastSync := b.now }
    let t21 := b.localTime + b.ethAdj m.ethPort false - m.origin - m.correction / 8192
    (c.inst d).mpd = some p → Tu.ptpMessage d m b = (c.modInst d fun x => { x with t21 := some t21 }).sample d (p - t21) := by
  intro c t21 hp
  have hsync : c.syncIn d t21 = (c.modInst d fun x => { x with t21 := some t21 }).sample d (p - t21) := by
    unfold Block.syncIn
    rw [hp]
  rw [← hsync]
  unfold Tu.ptpMessage
  dsimp only
  rw [h, if_neg (by decide), hk, hgm, if_neg (by simp; omega), h1, if_neg Bool.false_ne_true]
  rfl

/-- A domain that has lost its master forgets what it had measured. -/
def Block.instLost (d : Nat) (b : Block) : Block :=
  (((b.setInst d 4).setBits R.tuSticky (2 ^ (1 + d))).bump (R.tuDLossCnt d)).modInst d fun x =>
    { TuInst.init with conf := x.conf, dom := x.dom, ports := x.ports, logSync := x.logSync, logDreq := x.logDreq, annTmo := x.annTmo, seq := x.seq, nextReq := x.nextReq }

/-- A domain that follows a master loses it without Announces, without Syncs or after four samples past LOSS_NS. -/
theorem Tu.instanceLost_quiet (hd : d ≤ 1) (hst : b.instState d = 2 ∨ b.instState d = 3)
    (hq : (b.inst d).lastAnn + (b.inst d).annTmo * annInt ≤ b.now ∨ (b.inst d).lastSync + 3 * Tu.interval (b.inst d).logSync ≤ b.now ∨
      4 ≤ (b.inst d).lossy) :
    Tu.instanceLost d b = if (b.instLost d).selected = d then (b.instLost d).loseSelected ((b.instLost d).bit R.tuDomCtl 0) else b.instLost d := by
  unfold Tu.instanceLost
  dsimp only
  rw [decide_eq_true hq, if_neg (by simp; omega)]
  rfl

theorem Tu.instanceLost_idle (h2 : b.instState d ≠ 2) (h3 : b.instState d ≠ 3) : Tu.instanceLost d b = b := by
  unfold Tu.instanceLost
  exact if_pos (.inr (.inl ⟨h2, h3⟩))

/-- A Delay_Req goes out to the master that is followed when it is due. -/
theorem Tu.delayReq_of {g : PtpGm} (hg : (b.inst d).gm = some g) (hst : 2 ≤ b.instState d ∧ b.instState d ≠ 4)
    (hf : b.funcMode (0x300 + g.port) = 1) : Tu.delayReq d b =
      if b.now < (b.inst d).nextReq then b
      else (b.modInst d fun x => { x with
        dreq := some (x.seq, b.localTime + b.ethAdj g.port true), seq := (x.seq + 1) % 65536, nextReq := b.now + Tu.interval x.logDreq }).emit
        (.delayReq g.port (b.inst d).dom (b.inst d).seq) := by
  unfold Tu.delayReq
  dsimp only
  rw [hg]
  refine if_congr ?_ rfl rfl
  constructor
  · rintro (h | h | h | h)
    · exact absurd h (Nat.not_lt.2 hst.1)
    · exact absurd h hst.2
    · exact h
    · exact absurd hf h
  · exact fun h => .inr (.inr (.inl h))

end

/-! ## The transparent clock (R407, R408) -/

section
variable {m : PtpMsg} {res : Nat} {up : Bool} {b : Block}

theorem Tu.tcForward_other (h : m.start = none) : Tu.tcForward m res up b = b := by
  unfold Tu.tcForward
  exact if_pos (by simp [h])

section
variable (hs : m.start ≠ none) (hon : b.bit R.tuTcCtl 31 = true) (hp : m.ethPort ≤ 1) (h0 : b.bit R.tuTcCtl 0 = true)
  (hd : (b.inst 0).dom = m.domain) (hf : b.funcOff (0x300 + m.ethPort) = false)
include hs hon hp h0 hd hf

/-- A PTP frame of a domain that the clock serves goes on, or is dropped when it cannot leave in time. -/
theorem Tu.tcForward_ours : Tu.tcForward m res up b =
    if !up || b.funcMode (0x300 + (1 - m.ethPort)) != 1 || decide (80000 < res) then b.bump R.tuTcDropCnt
    else
      let n := if m.kind == 0 && !m.twoStep || m.kind == 2 then m.correct (8192 * (res : Int)) else m
      (if m.kind == 0 && m.twoStep || m.kind == 1 then (b.bump R.tuTcFwdCnt).bump R.tuTc2stepCnt else b.bump R.tuTcFwdCnt).emit
        (.eth (1 - m.ethPort) (n.frame ++ n.fcs)) := by
  unfold Tu.tcForward
  exact if_neg (by simp [hs, hon, hp, h0, hd, hf])

theorem Tu.tcForward_drops (hout : up = false ∨ 80000 < res) : Tu.tcForward m res up b = b.bump R.tuTcDropCnt := by
  rw [Tu.tcForward_ours hs hon hp h0 hd hf, if_pos]
  rcases hout with hup | hres
  · simp [hup]
  · simp [hres]

section
variable (hup : up = true) (hres : res ≤ 80000) (hq : b.funcMode (0x300 + (1 - m.ethPort)) = 1)
include hup hres hq

/-- A Delay_Req, and a Sync without a Follow_Up, carries its residence time. -/
theorem Tu.tcForward_corrects (hk : m.kind = 2 ∨ m.kind = 0 ∧ m.twoStep = false) : Tu.tcForward m res up b =
    (b.bump R.tuTcFwdCnt).emit (.eth (1 - m.ethPort) ((m.correct (8192 * (res : Int))).frame ++ (m.correct (8192 * (res : Int))).fcs)) := by
  have hgo : ¬ (!up || b.funcMode (0x300 + (1 - m.ethPort)) != 1 || decide (80000 < res)) = true := by simp [hup, hres, hq]
  rw [Tu.tcForward_ours hs hon hp h0 hd hf, if_neg hgo]
  rcases hk with hk | ⟨hk, h2⟩
  · rw [hk]
    rfl
  · rw [hk, h2]
    rfl

/-- A Follow_Up, and the Sync it follows, goes on as it is and is counted as two-step. -/
theorem Tu.tcForward_plain (hk : m.kind = 1 ∨ m.kind = 0 ∧ m.twoStep = true) : Tu.tcForward m res up b =
    ((b.bump R.tuTcFwdCnt).bump R.tuTc2stepCnt).emit (.eth (1 - m.ethPort) (m.frame ++ m.fcs)) := by
  have hgo : ¬ (!up || b.funcMode (0x300 + (1 - m.ethPort)) != 1 || decide (80000 < res)) = true := by simp [hup, hres, hq]
  rw [Tu.tcForward_ours hs hon hp h0 hd hf, if_neg hgo]
  rcases hk with hk | ⟨hk, h2⟩
  · rw [hk]
    rfl
  · rw [hk, h2]
    rfl

end

end

end

/-! ## The statement -/

/-- Settles O55: PTP_CONFIG and DOMAIN_SELECT by the state of the instances, the messages of one, its loss, and a frame of the transparent
clock by its kind. -/
theorem ptpDomains : Obligations.PtpDomains := by
  unfold Obligations.PtpDomains
  refine ⟨?config, ?select, ?message, ?lost, ?delayReq, ?slew, ?forward⟩
  case config =>
    intro t r s b id h d sync dreq c hsecs hnanos hd hdom hother hp1 hp3 hs1 hs2 hq1 hq2 ht1 ht2 hrest
    have hsound (hset : r.u 37 1 ≤ 1) := Tu.ptpConfig_sound h
      ⟨hsecs, hnanos, hd, hdom, ⟨hp1, hp3⟩, ⟨hs1, hs2⟩, ⟨hq1, hq2⟩, ⟨ht1, ht2⟩, hset, hrest⟩ hother
    rw [exec_ptpConfig h]
    refine ⟨fun h0 hoff => ?_, fun h0 hoff => ?_, fun h1 hst => ?_⟩
    · rw [hsound (by omega), h0, show b.instOff r.a2 = true from hoff]
      rfl
    · rw [hsound (by omega), h0, show b.instOff r.a2 = false from hoff]
      rfl
    · rw [hsound (by omega), h1, if_pos (by simpa using hst)]
  case select =>
    intro t r s b id h h16 h24 hd h32
    rw [exec_domainSelect h, Tu.domainSelect_sound h h16 h24 hd h32]
    exact ⟨fun hsel => by rw [if_pos hsel], fun hsel hst => by rw [if_neg hsel, if_pos hst],
      fun hsel hst => by rw [if_neg hsel, if_neg (not_not.2 hst)]⟩
  case message =>
    intro t d m s b h36 hc
    rw [exec_ptpMessageRx h36 hc]
    refine ⟨fun hf => by rw [Tu.ptpMessage_other (b := b) hf], fun hf hk => by rw [Tu.ptpMessage_announce (b := b) hf hk], ?_⟩
    intro p hf hk h1 h2 h4 hgm c t21 hp
    rw [Tu.ptpMessage_sync (b := b) hf hk h1 ⟨h2, h4⟩ hgm hp]
  case lost =>
    intro t d s b x c h36 hc hd
    rw [exec_ptpInstanceLost h36 hc]
    refine ⟨fun hst hq => ⟨fun hsel => ?_, fun hsel => ?_⟩, fun h2 h3 => by rw [Tu.instanceLost_idle (b := b) h2 h3]⟩
    · rw [Tu.instanceLost_quiet (b := b) hd hst hq]
      exact congrArg (After s) (if_neg hsel)
    · rw [Tu.instanceLost_quiet (b := b) hd hst hq]
      exact congrArg (After s) (if_pos hsel)
  case delayReq =>
    intro t d g s b x h36 hc hg h2 h4 hf
    rw [exec_ptpDelayReqSend h36 hc, Tu.delayReq_of (b := b) hg ⟨h2, h4⟩ hf]
    exact ⟨fun hdue => by rw [if_neg (Nat.not_lt.2 hdue)], fun hin => by rw [if_pos hin]⟩
  case slew =>
    intro t s b h36
    rw [exec_slewEnd h36]
    exact ⟨fun hon hend => congrArg (After s) (if_pos ⟨hon, hend⟩), fun hoff => congrArg (After s) (if_neg fun h => by rw [hoff] at h; cases h.1)⟩
  case forward =>
    intro t m res up s b h36 hon hp h0 hd hf
    rw [exec_tcForward h36]
    refine ⟨fun hs => by rw [Tu.tcForward_other hs], fun hs hout => by rw [Tu.tcForward_drops (b := b) hs hon hp h0 hd hf hout], ?_⟩
    intro hs hup hres hq
    exact ⟨fun hk => by rw [Tu.tcForward_corrects (b := b) hs hon hp h0 hd hf hup hres hq hk],
      fun hk => by rw [Tu.tcForward_plain (b := b) hs hon hp h0 hd hf hup hres hq hk]⟩

end Sys2Proof.Machine
end

section
/-! SUPPORT. Memory and scratch: errors (R368 to R370, R376), scrubbing (R371), retirement and migration (R372, R373), and banks (R377). -/

namespace Sys2Proof.Machine

/-! ## The commands -/

section
variable {t : Time} {s : State} (h : (s.blk.tick t).pcr.phase = 4)
include h

theorem after_up (f : Block → Block) :
    (Host.Outcome.next (s.run t fun b => b.whenUp f) : Host.Outcome State Fault Refusal) = After s (f (s.blk.tick t)) :=
  (after_run s t _).trans (congrArg (After s) (Block.whenUp_of h f))

theorem exec_patrolScrub (f : Nat) : exec (.patrolScrub t f) s = After s (Mc.patrol f (s.blk.tick t)) := after_up h _
theorem exec_sramScrub (f : Nat) (delayed : List Nat) : exec (.sramScrub t f delayed) s = After s (Mc.sramScrub f delayed (s.blk.tick t)) :=
  after_up h _
theorem exec_channelRetire (c : Nat) (phy : Bool) : exec (.channelRetire t c phy) s = After s (Mc.channelRetire c phy (s.blk.tick t)) :=
  after_up h _
theorem exec_frameMigrate : exec (.frameMigrate t) s = After s (Mc.migrate (s.blk.tick t)) := after_up h _

theorem exec_scratchNonownerAccess {k : Nat} (hk : k < 800) (m : Nat) (p1 w : Bool) :
    exec (.scratchNonownerAccess t m k p1 w) s = After s (Mc.nonOwner m k p1 (s.blk.tick t)) :=
  (after_run s t _).trans (congrArg (After s) ((if_pos hk).trans (Block.whenUp_of h _)))

section
variable {store a : Nat} (ha : Mc.holds (s.blk.tick t) store a = true)
include ha

theorem exec_memReadCe (rd : Nat) : exec (.memReadCe t store a rd) s = After s (Mc.readCe store a (s.blk.tick t)) :=
  (after_run s t _).trans (congrArg (After s) ((if_pos ha).trans (Block.whenUp_of h _)))

theorem exec_memReadUe (rd : Nat) :
    exec (.memReadUe t store a rd) s = After s ((Mc.readUe store a (s.blk.tick t)).readerActs rd store a) :=
  (after_run s t _).trans (congrArg (After s) ((if_pos ha).trans (Block.whenUp_of h _)))

end

end

/-- A read outside its store finds nothing. -/
theorem exec_memReadCe_outside {t : Time} {s : State} {store a : Nat} (ha : Mc.holds (s.blk.tick t) store a = false) (rd : Nat) :
    exec (.memReadCe t store a rd) s = After s (s.blk.tick t) :=
  (after_run s t _).trans (congrArg (After s) (if_neg (Bool.eq_false_iff.1 ha)))

/-! ## Errors (R369, R376, R501) -/

section
variable (b : Block) (a : Nat)

theorem Mc.holds_memory : Mc.holds b 0 a = b.backed a := if_pos rfl

theorem Mc.holds_scratch (h : a < 0xC200000) : Mc.holds b 1 a = true := by
  unfold Mc.holds
  rw [if_neg (by decide), if_pos rfl]
  exact decide_eq_true (h.trans_eq (by norm_num))

theorem Mc.holds_cmd (h : a < 0x4000) : Mc.holds b 2 a = true := by
  unfold Mc.holds
  rw [if_neg (by decide), if_neg (by decide), decide_eq_true h]
  rfl

theorem Block.uncorrectable_poison : a / 32 ∈ (b.uncorrectable 0 a).mc.poison :=
  List.mem_append_right _ (List.mem_cons_self ..)

theorem Block.uncorrectable_srPoison : a / 8 ∈ (b.uncorrectable 1 a).mc.srPoison :=
  List.mem_append_right _ (List.mem_cons_self ..)

theorem Mc.readCe_memory : Mc.readCe 0 a b = (b.bump (R.memSCeCnt (b.chanOf a / 16))).tally (b.chanOf a / 16) 1 := if_pos rfl
theorem Mc.readCe_scratch : Mc.readCe 1 a b = (b.bump R.srCeCnt).tally 16 1 := if_neg (by decide)

theorem Mc.readUe_memory : Mc.readUe 0 a b = (b.uncorrectable 0 a).bump R.memPoisonCnt := by
  unfold Mc.readUe
  rw [if_pos rfl]

theorem Mc.readUe_scratch : Mc.readUe 1 a b = b.uncorrectable 1 a := by
  unfold Mc.readUe
  rw [if_neg (by decide)]

/-- An uncorrectable error of the recovery ring's command storage poisons its packet. -/
theorem Mc.readUe_cmd (ha : a < 0x4000) (rd : Nat) :
    (Mc.readUe 2 a b).readerActs rd 2 a = { b with mc := { b.mc with cmdPoison := a / 64 :: b.mc.cmdPoison } } := by
  have hpkt : a % 0x4000 / 64 = a / 64 := by rw [Nat.mod_eq_of_lt ha]
  rw [← hpkt]
  rfl

theorem Block.uncorrectable_memTop : (b.uncorrectable 0 a).memTop = b.memTop := rfl

end

/-! ## The scrubbers (R371, R376) -/

/-- What the patrol scrubber does with its unit. -/
def Block.patrolFinds (f : Nat) (b : Block) : Block :=
  let a := 32 * b.mc.patrolAt
  if b.poisonedUnit b.mc.patrolAt then b
  else if f = 1 then Mc.readCe 0 a b
  else if f = 2 then (b.uncorrectable 0 a).bump (R.memSScrubUe (b.chanOf a / 16)) else b

/-- The patrol scrubber goes on from unit `u` of the `n` of backed memory. -/
def Block.patrolGoes (u n : Nat) (b : Block) : Block :=
  if u + 1 < n then { b with mc := { b.mc with patrolAt := u + 1 } }
  else ({ b with mc := { b.mc with patrolAt := 0 } } : Block).putN R.memScrubPass (b.regN R.memScrubPass + 1)

/-- What the scratch scrubber does with its word. -/
def Block.sramFinds (f : Nat) (b : Block) (w : Nat) : Block :=
  if f = 1 then Mc.readCe 1 (8 * w) b else if f = 2 ∧ !b.mc.srPoison.contains w then b.uncorrectable 1 (8 * w) else b

/-- The scratch scrubber goes on from word `w`. -/
def Block.sramGoes (w : Nat) (b : Block) : Block :=
  if w + 1 < srWords then { b with mc := { b.mc with sramAt := w + 1 } }
  else ({ b with mc := { b.mc with sramAt := 0 } } : Block).putN R.srScrubPass (b.regN R.srScrubPass + 1)

section
variable {b : Block}

theorem Mc.patrol_off (h : b.funcOn 0x0700 = false) (f : Nat) : Mc.patrol f b = b := by
  unfold Mc.patrol
  exact if_pos (by rw [h]; rfl)

/-- What the patrol scrubber finds moves no frame. -/
theorem Block.patrolFinds_memTop (f : Nat) : (b.patrolFinds f).memTop = b.memTop := by
  have hbump (c : Block) (r : Nat) : (c.bump r).memTop = c.memTop := rfl
  have htally (c : Block) (k n : Nat) : (c.tally k n).memTop = c.memTop := by rw [Block.tally_rest]; rfl
  unfold Block.patrolFinds Mc.readCe
  dsimp only
  split_ifs
  · rfl
  · rw [htally, hbump]
  · contradiction
  · rw [hbump, Block.uncorrectable_memTop]
  · rfl

theorem Mc.patrol_on (h : b.funcOn 0x0700 = true) (f : Nat) :
    Mc.patrol f b = (b.patrolFinds f).patrolGoes b.mc.patrolAt (b.memTop / 32) := by
  rw [← Block.patrolFinds_memTop f]
  unfold Mc.patrol
  exact if_neg (by rw [h]; decide)

theorem Mc.sramScrub_off (h : b.funcOn 0x0701 = false) (f : Nat) (delayed : List Nat) : Mc.sramScrub f delayed b = b := by
  unfold Mc.sramScrub
  exact if_pos (by rw [h]; rfl)

theorem Mc.sramScrub_on (h : b.funcOn 0x0701 = true) (f : Nat) (delayed : List Nat) : Mc.sramScrub f delayed b =
    (Block.sramFinds f (delayed.foldl (fun b m => b.bump (R.srMConf (m % 64))) b) b.mc.sramAt).sramGoes b.mc.sramAt := by
  unfold Mc.sramScrub
  exact if_neg (by rw [h]; decide)

/-- A word that is poisoned already is reported no more. -/
theorem Block.sramFinds_two (w : Nat) : Block.sramFinds 2 b w = if b.mc.srPoison.contains w then b else b.uncorrectable 1 (8 * w) := by
  unfold Block.sramFinds
  rw [if_neg (by decide)]
  by_cases hp : b.mc.srPoison.contains w = true
  · rw [if_pos hp, if_neg (by rw [hp]; decide)]
  · rw [if_neg hp, if_pos ⟨rfl, by rw [Bool.eq_false_iff.2 hp]; rfl⟩]

/-! ## Retirement and migration (R372, R373) -/

/-- Units of channel `c` that proved uncorrectable in the last 24 h. -/
def Block.recentUes (c : Nat) (b : Block) : List Time := (AMap.getD b.mc.ues c []).filter fun t => b.now < t + day

theorem Mc.channelRetire_ue {c : Nat} (hc : c < 128) : Mc.channelRetire c false b =
    if b.fld R.memRetireCtl 31 24 ≤ (b.recentUes c).length then b.retire c 2 else b := by
  unfold Mc.channelRetire
  rw [if_neg (Nat.not_le.2 hc), if_neg Bool.false_ne_true]
  rfl

theorem Mc.channelRetire_phy {c : Nat} (hc : c < 128) : Mc.channelRetire c true b = b.phyLost (c / 16) := by
  unfold Mc.channelRetire
  rw [if_neg (Nat.not_le.2 hc), if_pos rfl]

end

/-- A frame of a lost channel, or else of the retiring one, moves as `take` says. -/
def Mc.migrateBy (take : Nat → (Nat → Block) → Block) (b : Block) : Block :=
  match b.mc.lostCh, b.mc.retiring with
  | (c, n) :: _, _ => take c fun g => b.refilled c n g
  | [], none => b
  | [], some (c, n) => take c fun g => (b.migrated c n g).migrateEnd c n

/-- How FRAME_MIGRATE takes the frame that is free for a channel. (`take` stays a variable: the kernel must not search the frames.) -/
theorem Mc.migrate_takes {b x : Block} (h : ∀ take : Nat → (Nat → Block) → Block, (∀ c f, b.frameFor c = none → take c f = b) →
    (∀ c f g, b.frameFor c = some g → take c f = if !b.frameSpare && b.frameGiver.isNone then b else f g) → Mc.migrateBy take b = x) :
    Mc.migrate b = x := by
  unfold Mc.migrate
  extract_lets take
  refine h take ?_ ?_
  · intro c f hc
    simp only [take]
    rw [hc]
  · intro c f g hc
    simp only [take]
    rw [hc]

section
variable {b : Block} {c n : Nat} (take : Nat → (Nat → Block) → Block)

theorem Mc.migrateBy_lost (h : b.mc.lostCh.head? = some (c, n)) : Mc.migrateBy take b = take c fun g => b.refilled c n g := by
  obtain ⟨rest, hl⟩ := List.head?_eq_some_iff.1 h
  unfold Mc.migrateBy
  rw [hl]

theorem Mc.migrateBy_retiring (hl : b.mc.lostCh = []) (hr : b.mc.retiring = some (c, n)) :
    Mc.migrateBy take b = take c fun g => (b.migrated c n g).migrateEnd c n := by
  unfold Mc.migrateBy
  rw [hl, hr]

end

section
variable {b : Block} {c n g : Nat} (hg : b.frameFor c = some g)
include hg

/-- No frame moves while none is spare and no pool can give one up. -/
theorem Mc.migrate_stuck (hs : b.frameSpare = false) (hgv : b.frameGiver = none)
    (hc : b.mc.lostCh.head? = some (c, n) ∨ b.mc.lostCh = [] ∧ b.mc.retiring = some (c, n)) : Mc.migrate b = b := by
  have hstuck : (!b.frameSpare && b.frameGiver.isNone) = true := by rw [hs, hgv]; rfl
  refine Mc.migrate_takes fun take _ htake => ?_
  rcases hc with hc | ⟨hl, hr⟩
  · rw [Mc.migrateBy_lost take hc, htake c _ g hg, if_pos hstuck]
  · rw [Mc.migrateBy_retiring take hl hr, htake c _ g hg, if_pos hstuck]

section
variable (hsrc : (!b.frameSpare && b.frameGiver.isNone) = false)
include hsrc

/-- The frames of lost channels come first. -/
theorem Mc.migrate_lost (hc : b.mc.lostCh.head? = some (c, n)) : Mc.migrate b = b.refilled c n g :=
  Mc.migrate_takes fun take _ htake => by
    rw [Mc.migrateBy_lost take hc, htake c _ g hg, if_neg (Bool.eq_false_iff.1 hsrc)]

theorem Mc.migrate_retiring (hl : b.mc.lostCh = []) (hr : b.mc.retiring = some (c, n)) : Mc.migrate b = (b.migrated c n g).migrateEnd c n :=
  Mc.migrate_takes fun take _ htake => by
    rw [Mc.migrateBy_retiring take hl hr, htake c _ g hg, if_neg (Bool.eq_false_iff.1 hsrc)]

end

end

/-- A frame can move: one is spare, or a pool gives one up. -/
theorem Block.frame_free {b : Block} (h : b.frameSpare = true ∨ b.frameGiver.isSome) : (!b.frameSpare && b.frameGiver.isNone) = false := by
  rcases h with h | h
  · rw [h]
    rfl
  · rw [Option.isNone_eq_false_iff.2 h, Bool.and_false]

/-! ## The statement -/

/-- Settles O53: errors by their store, the scrubbers by what they find, a channel's retirement, the frame that moves next, and an access
by the bank's owner. -/
theorem memoryAndScratch : Obligations.MemoryAndScratch := by
  unfold Obligations.MemoryAndScratch
  refine ⟨?ce, ?ue, ?patrol, ?sram, ?retire, ?migrate, ?nonOwner⟩
  case ce =>
    intro t a rd s b h4
    refine ⟨fun ha => ?_, fun ha => ?_, fun ha => ?_⟩
    · rw [exec_memReadCe h4 ((Mc.holds_memory _ a).trans ha), Mc.readCe_memory]
    · rw [exec_memReadCe h4 (Mc.holds_scratch _ a ha), Mc.readCe_scratch]
    · rw [exec_memReadCe_outside ((Mc.holds_memory _ a).trans ha)]
  case ue =>
    intro t a rd s b h4
    refine ⟨fun ha => ⟨?_, b.uncorrectable_poison a⟩, fun ha => ⟨?_, b.uncorrectable_srPoison a⟩, fun ha => ?_⟩
    · rw [exec_memReadUe h4 ((Mc.holds_memory _ a).trans ha), Mc.readUe_memory]
    · rw [exec_memReadUe h4 (Mc.holds_scratch _ a ha), Mc.readUe_scratch]
    · rw [exec_memReadUe h4 (Mc.holds_cmd _ a ha), Mc.readUe_cmd _ a ha]
  case patrol =>
    intro t s b u next h4
    simp only [exec_patrolScrub h4]
    refine ⟨fun hoff f => by rw [Mc.patrol_off (b := b) hoff], fun hon hp f => ?_, fun hon hp => ?_⟩
    · rw [Mc.patrol_on (b := b) hon]
      exact congrArg (fun c => After s (next c)) (if_pos hp)
    · have hgo (f : Nat) : Mc.patrol f (s.blk.tick t) = next (b.patrolFinds f) := Mc.patrol_on hon f
      simp only [hgo]
      exact ⟨congrArg (fun c => After s (next c)) (if_neg (Bool.eq_false_iff.1 hp)),
        congrArg (fun c => After s (next c)) (if_neg (Bool.eq_false_iff.1 hp)), congrArg (fun c => After s (next c)) (if_neg (Bool.eq_false_iff.1 hp))⟩
  case sram =>
    intro t delayed s b w d next h4
    simp only [exec_sramScrub h4]
    refine ⟨fun hoff f => by rw [Mc.sramScrub_off (b := b) hoff], fun hon => ?_⟩
    have hgo (f : Nat) : Mc.sramScrub f delayed (s.blk.tick t) = next (Block.sramFinds f d w) := Mc.sramScrub_on hon f delayed
    simp only [hgo]
    exact ⟨rfl, rfl, congrArg (fun c => After s (next c)) (Block.sramFinds_two w)⟩
  case retire =>
    intro t c s b recent h4 hc
    have hrecent : b.recentUes c = recent := rfl
    simp only [exec_channelRetire h4]
    refine ⟨fun hmax => ?_, fun hmax => ?_, ?_⟩
    · rw [Mc.channelRetire_ue (b := b) hc, hrecent, if_pos hmax]
    · rw [Mc.channelRetire_ue (b := b) hc, hrecent, if_neg (Nat.not_le.2 hmax)]
    · rw [Mc.channelRetire_phy (b := b) hc]
      rfl
  case migrate =>
    intro t c n g s b h4 hg
    rw [exec_frameMigrate h4]
    refine ⟨fun hsrc => ⟨fun hl => ?_, fun hl hr hn => ?_, fun hl hr hn => ?_⟩, fun hs hgv hc => ?_⟩
    · rw [Mc.migrate_lost (b := b) hg (Block.frame_free hsrc) hl]
    · rw [Mc.migrate_retiring (b := b) hg (Block.frame_free hsrc) hl hr]
      exact congrArg (After s) (if_pos hn)
    · rw [Mc.migrate_retiring (b := b) hg (Block.frame_free hsrc) hl hr]
      exact congrArg (After s) (if_neg (Nat.not_lt.2 hn))
    · rw [Mc.migrate_stuck (b := b) hg hs hgv hc]
  case nonOwner =>
    intro t m k p1 w s b x h4 hk hm h40
    rw [exec_scratchNonownerAccess h4 hk]
    refine ⟨fun hno => ?_, fun hyes hp => congrArg (After s) (if_pos (.inr ⟨hyes, by simpa using hp⟩))⟩
    refine congrArg (After s) ((if_neg ?_).trans (by rw [Nat.mod_eq_of_lt hm]))
    rintro (h | ⟨hadm, hpend⟩)
    · exact h40 h
    · rcases hno with h | h
      · exact absurd (hadm.symm.trans h) (by decide)
      · exact absurd (show (!x.pending) = true from hpend) (by rw [h]; decide)

end Sys2Proof.Machine
end

section
/-! SUPPORT. Processors (R424, R446, R449), hangs and freezes (R450 to R455), the debug module (R448) and the caches (R445). -/

namespace Sys2Proof.Machine

/-! ## The commands -/

section
variable {t : Time} {r : Req} {s : State} {b : Block} {id : Nat}

theorem exec_engineFreeze (h : Starts 0x0A01 r t s b id) : exec (.engineFreeze t r) s = After s (Dbg.engineFreeze id r b) := cmd_runs h _
theorem exec_engineDump (h : Starts 0x0A02 r t s b id) : exec (.engineDump t r) s = After s (Dbg.engineDump id r b) := cmd_runs h _
theorem exec_hangConfig (h : Starts 0x0A04 r t s b id) : exec (.hangConfig t r) s = After s (Dbg.hangConfig id r b) := cmd_runs h _

end

section
variable (t : Time) (s : State)

theorem exec_cpWatchdogExpiry (x : CpFail) : exec (.cpWatchdogExpiry t x) s = After s (Dbg.watchdog x (s.blk.tick t)) := rfl
theorem exec_cpRestart (m : Nat) : exec (.cpRestart t m) s = After s (Pcr.cpRestart m (s.blk.tick t)) := rfl
theorem exec_debugDmiAccess (op : DmiOp) : exec (.debugDmiAccess t op) s = After s (Dbg.dmi op (s.blk.tick t)) := rfl

end

section
variable {t : Time} {s : State} (h : (s.blk.tick t).pcr.phase = 4)
include h

theorem exec_ciHeartbeatLapse (k : Nat) : exec (.ciHeartbeatLapse t k) s = After s (Dbg.heartbeatLapse k (s.blk.tick t)) := after_up h _
theorem exec_engineHang (e : Nat) : exec (.engineHang t e) s = After s (Dbg.hang e (s.blk.tick t)) := after_up h _
theorem exec_engineDumpDone (e : Nat) : exec (.engineDumpDone t e) s = After s (Dump.done e (s.blk.tick t)) := after_up h _
theorem exec_hcCacheError (x : CacheRead) (ue : Bool) (a : Nat) :
    exec (.hcCacheError t x ue a) s = After s (Dbg.cacheError x ue a (s.blk.tick t)) := after_up h _

end

/-! ## Control processors (R424, R446, R449) -/

section
variable {b : Block}

theorem Dbg.watchdog_off (h : b.dbg.wdOn = false) (x : CpFail) : Dbg.watchdog x b = b := by
  unfold Dbg.watchdog
  exact if_pos (.inr (.inl (by rw [h]; rfl)))

section
variable {x : CpFail} (h4 : b.pcr.phase = 4) (hon : b.dbg.wdOn = true) (h9 : b.cpOut 9 = false)
include h4 hon h9

/-- The security processor is reported, not reset. -/
theorem Dbg.watchdog_sec (hm : x.master = 4) : Dbg.watchdog x b = (b.setBits R.dbgHangStat (2 ^ 31)).msix (b.fld R.dbgHangIrq 10 0) := by
  unfold Dbg.watchdog
  dsimp only
  rw [if_neg (by simp [h4, hon, h9]), if_pos hm]

theorem Dbg.watchdog_resets (h8 : x.master ≤ 8) (hm : x.master ≠ 4) (hc : b.cpOut x.master = false) : Dbg.watchdog x b =
    ((Mc.cut x.cut ((b.cpReset x.master).putFld R.pcrBootStat 11 8 4)).bump R.dbgCpWdCnt).event 0x0041 1 devJob 9 (Bits.leBytes 1 x.master) := by
  unfold Dbg.watchdog
  dsimp only
  rw [if_neg (by simp [h4, hon, h9]), if_neg hm, if_neg (by simp [h8, hc])]

end

/-- A processor runs again: it is held no more, and a role that its halt suspended goes on. -/
theorem Pcr.cpRestart_held {m : Nat} {t0 : Time} (h : AMap.get? b.pcr.held m = some t0) : Pcr.cpRestart m b =
    let c := (b.onPcr fun x => { x with held := AMap.erase x.held m }).roleBack m
    if m < 4 then c.putBit R.cmdStatus (4 + m) true else c := by
  unfold Pcr.cpRestart
  exact if_neg (by simp [h])

/-- Only the time processor has a role that waits for it. -/
theorem Block.roleBack_other {m : Nat} (h : m ≠ 8) : b.roleBack m = b := if_neg fun hm => h hm.1

theorem Block.roleBack_time : b.roleBack 8 =
    if b.cpOut 8 = false ∧ b.tu.cpHold = true then (b.putBit R.tuStat 30 false).onTu fun x => { x with cpHold := false } else b := by
  unfold Block.roleBack
  exact if_congr (by simp) rfl rfl

theorem Dbg.heartbeatLapse_halted {k : Nat} {t0 : Time} (hk : k < 4) (h : AMap.get? b.dbg.halted (16 + k) = some t0) :
    Dbg.heartbeatLapse k b = if t0 + ms < b.now then b.putBit R.cmdStatus (4 + k) false else b := by
  unfold Dbg.heartbeatLapse
  rw [if_pos hk, h]

/-! ## Hangs (R450, R451) -/

theorem Dbg.hang_off {e : Nat} (h : b.bit (R.dbgEHangMs (e - 26)) 30 = false) : Dbg.hang e b = b := by
  unfold Dbg.hang
  exact if_pos (by simp [h])

section
variable {e : Nat} (he : 26 ≤ e ∧ e ≤ 36)
include he

theorem Dbg.engine_of : Dbg.engine e = true := by
  unfold Dbg.engine
  simp [he]

/-- An engine that is watched hangs once in a stall, and freezes when that is asked. -/
theorem Dbg.hang_on (hf : b.frozen e = false) (hs : AMap.get? b.dbg.stall e = none) (h : b.bit (R.dbgEHangMs (e - 26)) 30 = true) :
    Dbg.hang e b = if (b.hung e).bit (R.dbgEHangMs (e - 26)) 31 then (b.hung e).freeze e 2 else b.hung e := by
  unfold Dbg.hang
  exact if_neg (by simp [Dbg.engine_of he, hf, hs, h])

end

theorem Dbg.hangConfig_sound {t : Time} {r : Req} {s : State} {id : Nat} (h : Starts 0x0A04 r t s b id) (h16 : r.u 16 8 = 0) (h24 : r.u 24 4 = 0)
    (h28 : Dbg.engine r.a2 || r.a2 == 0xFF || r.a2 == 0x100) (h32 : 1 ≤ r.u 32 4 ∧ r.u 32 4 ≤ 10000) (h36 : r.u 36 1 < 4) (h37 : r.u 37 27 = 0) :
    let put (b : Block) (k : Nat) : Block :=
      b.putN (R.dbgEHangMs k) (Bits.fld (r.u 36 1) 1 1 * 2 ^ 31 + Bits.fld (r.u 36 1) 0 0 * 2 ^ 30 + r.u 32 4)
    Dbg.hangConfig id r b = (if r.a2 = 0x100 then b.onDbg fun d => { d with wdMs := r.u 32 4, wdOn := Bits.bit (r.u 36 1) 0 }
      else if r.a2 = 0xFF then (List.range 11).foldl put b else put b (r.a2 - 26)).ok id 0 := by
  have hms : decide (r.u 32 4 < 1 ∨ 10000 < r.u 32 4) = false := decide_eq_false (by omega)
  have hfl : decide (r.u 36 1 / 4 ≠ 0) = false := decide_eq_false (by omega)
  unfold Dbg.hangConfig
  refine Ci.check8_sound h ?_ _
  simp only [List.mem_cons, List.not_mem_nil, or_false, forall_eq_or_imp, forall_eq, Req.nz_eq_false, Bool.not_eq_false']
  exact ⟨h16, h24, h28, hms, hfl, h37⟩

/-! ## Freezes and dumps (R452, R455) -/

theorem Dbg.engineFreeze_sound {t : Time} {r : Req} {s : State} {id : Nat} (h : Starts 0x0A01 r t s b id) (h16 : r.u 16 8 = 0)
    (h24 : r.u 24 4 = 0) (he : 26 ≤ r.a2 ∧ r.a2 ≤ 36) (h32 : r.u 32 32 = 0) : Dbg.engineFreeze id r b = (b.freeze r.a2 1).ok id 0 := by
  unfold Dbg.engineFreeze
  exact Ci.check8_sound h (by simp [h16, h24, Dbg.engine_of he, h32]) _

theorem Dbg.engineDump_sound {t : Time} {r : Req} {s : State} {id : Nat} (h : Starts 0x0A02 r t s b id) (h16 : r.a0 % 64 = 0)
    (htop : r.a0 + r.a1 ≤ 0x6000000000) (he : 26 ≤ r.a2 ∧ r.a2 ≤ 36) (h24 : Dbg.dumpSize r.a2 ≤ r.a1) (h32 : r.u 32 32 = 0) :
    Dbg.engineDump id r b = if !b.frozen r.a2 then b.done id St.state 0
      else if (AMap.get? b.dbg.dumps r.a2).isSome then b.done id St.busy 0
      else b.onDbg fun d => { d with dumps := AMap.set d.dumps r.a2 ⟨id, r.a0, r.a1, b.now⟩ } := by
  unfold Dbg.engineDump
  exact Ci.check8_sound h (by simp [h16, htop, Dbg.engine_of he, h24, h32]) _

/-- A dump has been written once its bytes have had their time. -/
theorem Dump.done_of {e : Nat} {j : DumpJob} {f : Freeze} (hj : AMap.get? b.dbg.dumps e = some j) (hf : AMap.get? b.dbg.frozen e = some f) :
    Dump.done e b = if b.now < j.since + 2 * Dbg.dumpSize e then b
      else ((b.onDbg fun d => { d with dumps := AMap.erase d.dumps e }).dxWrite j.addr (f.dump e (b.regN R.sysId))).ok j.cmd (Dbg.dumpSize e) := by
  unfold Dump.done
  rw [hj, hf]

/-! ## The debug module (R448) -/

/-- An access forgets what the last one read. -/
def Block.dmiClear (b : Block) : Block := b.onDbg fun d => { d with dmi := none }

/-- While core debug is locked, nothing but dmstatus is read. -/
theorem Dbg.dmi_locked (hl : b.bit R.secStat 27 = false) {op : DmiOp} (ho : ∀ k, op ≠ .status k) : Dbg.dmi op b = b.dmiClear := by
  have hl' : (!b.dmiClear.bit R.secStat 27) = true := by rw [show b.dmiClear.bit R.secStat 27 = false from hl]; rfl
  unfold Dbg.dmi
  dsimp only
  split
  · rfl
  · split
    · next k => exact absurd rfl (ho k)
    · exact if_pos (.inl hl')

theorem Dbg.dmi_status (h4 : b.pcr.phase = 4) (h : Nat) : Dbg.dmi (.status h) b = b.dmiClear.dmStatus := by
  unfold Dbg.dmi
  exact if_neg (not_not.2 h4)

section
variable (hl : b.bit R.secStat 27 = true) (h4 : b.pcr.phase = 4)
include hl h4

/-- An access of an unlocked device to a hart that it has. -/
theorem Dbg.dmi_open {op : DmiOp} (ho : ∀ k, op ≠ .status k) (hh : Dmi.hart op ≤ 24) : Dbg.dmi op b = Dbg.access op b.dmiClear := by
  have hgo : ¬ ((!b.dmiClear.bit R.secStat 27) = true ∨ 24 < Dmi.hart op) := by
    rw [show b.dmiClear.bit R.secStat 27 = true from hl]
    simpa using hh
  unfold Dbg.dmi
  dsimp only
  split
  · next h => exact absurd h4 h
  · split
    · next k => exact absurd rfl (ho k)
    · exact if_neg hgo

theorem Dbg.dmi_halt {h : Nat} (hh : h ≤ 24) (hrun : AMap.get? b.dbg.halted h = none) : Dbg.dmi (.halt h) b = b.dmiClear.haltHart h := by
  have hrun' : AMap.get? b.dmiClear.dbg.halted h = none := hrun
  rw [Dbg.dmi_open hl h4 (op := .halt h) (fun _ => DmiOp.noConfusion) hh]
  unfold Dbg.access
  dsimp only [Dmi.hart]
  rw [hrun']
  rfl

/-- A read through a halted host core is one of memory, or of poison. -/
theorem Dbg.dmi_readMem {h a n : Nat} (hh : h < 16) (hhalt : AMap.get? b.dbg.halted h ≠ none) (hin : inDx a n = true) :
    Dbg.dmi (.readMem h a n) b = if b.dmiClear.rangePoison a n then (b.dmiClear.readCount a n).emit (.poisonTo (10 + h))
      else b.dmiClear.dmiRead (b.dmiClear.dxN a n) := by
  have hhalt' : (AMap.get? b.dmiClear.dbg.halted h).isSome = true := Option.isSome_iff_ne_none.2 hhalt
  have hplace : b.dmiClear.hartPlace h a n = .mem a := by
    unfold Block.hartPlace
    rw [if_pos hh, if_pos hin]
  have hmaster : Dbg.master h = 10 + h := if_pos hh
  rw [Dbg.dmi_open hl h4 (op := .readMem h a n) (fun _ => DmiOp.noConfusion) (show h ≤ 24 by omega)]
  unfold Dbg.access
  dsimp only [Dmi.hart]
  rw [if_pos hhalt']
  unfold Block.hartRead
  rw [hplace, hmaster]

end

end

/-! ## The statement -/

/-- Settles O57: the watchdog and the return of a processor, hangs and freezes by the setting of the engine, the debug module by its lock, and
the caches. -/
theorem processorsAndDebug : Obligations.ProcessorsAndDebug := by
  unfold Obligations.ProcessorsAndDebug
  refine ⟨?watchdog, ?restart, ?heartbeat, ?hang, ?freeze, ?dump, ?dumpDone, ?dmi, ?cache, ?config⟩
  case watchdog =>
    intro t x s b m h4
    rw [exec_cpWatchdogExpiry]
    refine ⟨fun hon h9 h8 hm hc => ?_, fun hon h9 hm => ?_, fun hoff => ?_⟩
    · rw [Dbg.watchdog_resets (b := b) h4 hon h9 h8 hm hc]
    · rw [Dbg.watchdog_sec (b := b) h4 hon h9 hm]
    · rw [Dbg.watchdog_off (b := b) hoff]
  case restart =>
    intro t m t0 s b hheld c
    rw [exec_cpRestart, Pcr.cpRestart_held (b := b) hheld]
    refine ⟨fun h4 h8 => ?_, fun h8 => ?_, fun h4 => ?_⟩
    · rw [Block.roleBack_other h8, if_neg (Nat.not_lt.2 h4)]
    · subst h8
      rw [Block.roleBack_time]
      rfl
    · rw [Block.roleBack_other (by omega), if_pos h4]
  case heartbeat =>
    intro t k t0 s b h4 hk hhalt
    rw [exec_ciHeartbeatLapse h4, Dbg.heartbeatLapse_halted (b := b) hk hhalt]
    exact ⟨fun hlate => by rw [if_pos hlate], fun hin => by rw [if_neg (Nat.not_lt.2 hin)]⟩
  case hang =>
    intro t e s b h4 he1 he2 hf hst
    rw [exec_engineHang h4]
    refine ⟨fun hon hgo => ?_, fun hon hfr => ?_, fun hoff => ?_⟩
    · rw [Dbg.hang_on (b := b) ⟨he1, he2⟩ hf hst hon, hgo, if_neg Bool.false_ne_true]
    · rw [Dbg.hang_on (b := b) ⟨he1, he2⟩ hf hst hon, if_pos hfr]
    · rw [Dbg.hang_off (b := b) hoff]
  case freeze =>
    intro t r s b id h h16 h24 he1 he2 h32
    rw [exec_engineFreeze h, Dbg.engineFreeze_sound h h16 h24 ⟨he1, he2⟩ h32]
  case dump =>
    intro t r s b id h h16 htop he1 he2 h24 h32
    rw [exec_engineDump h, Dbg.engineDump_sound h h16 htop ⟨he1, he2⟩ h24 h32]
    refine ⟨fun hf => ?_, fun hf hd => ?_, fun hf hd => ?_⟩
    · rw [hf, Bool.not_false, if_pos rfl]
    · rw [hf, Bool.not_true, if_neg Bool.false_ne_true, if_pos (Option.isSome_iff_ne_none.2 hd)]
    · rw [hf, Bool.not_true, if_neg Bool.false_ne_true, hd, Option.isSome_none, if_neg Bool.false_ne_true]
  case dumpDone =>
    intro t e j f s b h4 hj hf
    rw [exec_engineDumpDone h4, Dump.done_of (b := b) hj hf]
    exact ⟨fun hdone => by rw [if_neg (Nat.not_lt.2 hdone)], fun hin => by rw [if_pos hin]⟩
  case dmi =>
    intro t op h s b c
    simp only [exec_debugDmiAccess]
    refine ⟨fun hl ho => ?_, fun h4 => ?_, fun a n hl h4 hh hhalt hin => ⟨fun hp => ?_, fun hp => ?_⟩, fun hl h4 hh hrun => ?_⟩
    · rw [Dbg.dmi_locked (b := b) hl ho]
      rfl
    · rw [Dbg.dmi_status (b := b) h4]
      rfl
    · rw [Dbg.dmi_readMem (b := b) hl h4 hh hhalt hin]
      exact congrArg (After s) (if_neg (Bool.eq_false_iff.1 hp))
    · rw [Dbg.dmi_readMem (b := b) hl h4 hh hhalt hin]
      exact congrArg (After s) (if_pos hp)
    · rw [Dbg.dmi_halt (b := b) hl h4 hh hrun]
      rfl
  case cache =>
    intro t a core s b h4
    simp only [exec_hcCacheError h4]
    exact ⟨rfl, rfl, rfl, rfl⟩
  case config =>
    intro t r s b id h v h16 h24 h32 h32' h36 h37
    rw [exec_hangConfig h]
    refine ⟨fun he1 he2 => ?_, fun hcp => ?_⟩
    · rw [Dbg.hangConfig_sound h h16 h24 (by rw [Dbg.engine_of ⟨he1, he2⟩]; rfl) ⟨h32, h32'⟩ h36 h37, if_neg (by omega), if_neg (by omega)]
    · rw [Dbg.hangConfig_sound h h16 h24 (by rw [hcp]; rfl) ⟨h32, h32'⟩ h36 h37, if_pos hcp]

end Sys2Proof.Machine
end

section
/-! SUPPORT. Counters and trace (R458 to R464), the event ring (R472, R473), and health and the snapshot (R478 to R483). -/

namespace Sys2Proof.Machine

/-! ## The commands -/

section
variable {t : Time} {r : Req} {s : State} {b : Block} {id : Nat}

theorem exec_counterRead (h : Starts 0x0901 r t s b id) : exec (.counterRead t r) s = After s (Dbg.counterRead id r b) := cmd_runs h _
theorem exec_traceConfig (h : Starts 0x0A03 r t s b id) : exec (.traceConfig t r) s = After s (Dbg.traceConfig id r b) := cmd_runs h _
theorem exec_healthRead (h : Starts 0x0905 r t s b id) : exec (.healthRead t r) s = After s (Rel.healthRead id r b) := cmd_runs h _
theorem exec_snapshotConfig (h : Starts 0x0904 r t s b id) : exec (.snapshotConfig t r) s = After s (Rel.snapConfig id r b) := cmd_runs h _

end

section
variable {t : Time} {s : State}

theorem exec_eventRecordWrite : exec (.eventRecordWrite t) s = After s (Rel.eventWrite (s.blk.tick t)) := rfl
theorem exec_healthHourly : exec (.healthHourly t) s = After s (Rel.hourly (s.blk.tick t)) := rfl

variable (h : (s.blk.tick t).pcr.phase = 4)
include h

theorem exec_traceRecordWrite : exec (.traceRecordWrite t) s = After s (Dbg.traceWrite (s.blk.tick t)) := after_up h _
theorem exec_telemetrySnapshot : exec (.telemetrySnapshot t) s = After s (Rel.takeSnapshot (s.blk.tick t)) := after_up h _

end

/-! ## Counters and the trace ring (R458, R461) -/

section
variable {t : Time} {r : Req} {s : State} {b : Block} {id : Nat}

/-- COUNTER_READ of the 28 counters of a job. -/
theorem Dbg.counterRead_job (h : Starts 0x0901 r t s b id) (h28 : r.a2 = 1) (h16 : r.a0 % 64 = 0) (htop : r.a0 + r.a1 ≤ 0x6000000000) :
    let sel := (List.range 28).filter fun i => r.u 32 8 == 0 || Bits.bit (r.u 32 8) i
    let rec_ := b.cntRecord 1 (b.cmdJob r) sel
    32 + 8 * sel.length ≤ r.a1 → r.u 32 8 < 2 ^ 28 → r.u 40 24 = 0 → Dbg.counterRead id r b = (b.dxWrite r.a0 rec_).ok id rec_.length := by
  intro sel rec_ h24 h32 h40
  have hmask : decide (r.u 32 8 / 2 ^ 28 ≠ 0) = false := decide_eq_false (not_not.2 (Nat.div_eq_of_lt h32))
  unfold Dbg.counterRead
  rw [h28]
  refine (if_neg ?_).trans (Ci.check8_sound h ?_ _)
  · rintro ⟨hdev, -⟩
    cases hdev
  · simp only [List.mem_cons, List.not_mem_nil, or_false, forall_eq_or_imp, forall_eq]
    exact ⟨rfl, badAddr_eq_false.2 ⟨h16, htop⟩, decide_eq_false (Nat.not_lt.2 h24), hmask, Req.nz_eq_false.2 h40⟩

/-- The trace settings that a TRACE_CONFIG packet spells. -/
def Block.traceSet (r : Req) (b : Block) : Block := b.onDbg fun d => { d with
  traceBase := r.a0, traceLen := r.a1, traceAll := Bits.bit r.a2 31, traceJob := r.a2 % 1024, traceMask := r.u 32 4, traceMode := r.u 40 1,
  traceOff := Bits.toInt 32 (r.u 36 4) }

/-- TRACE_CONFIG of another ring, with the offset as it was: what waits is written, and the ring begins anew. -/
theorem Dbg.traceConfig_sound (h : Starts 0x0A03 r t s b id) (h16 : r.a0 % 64 = 0) (hos : inMgmtOs r.a0 r.a1 = true)
    (h24 : powerWithin r.a1 (2 ^ 20) (2 ^ 30) = true) (h28 : Bits.fld r.a2 30 10 = 0) (h32 : Nat.land (r.u 32 4) 0xFFFF7800 = 0)
    (h40 : r.u 40 1 ≤ 2) (h41 : r.u 41 23 = 0) (hbase : b.traceFlush.dbg.traceBase ≠ r.a0)
    (hoff : b.traceFlush.dbg.traceOff = Bits.toInt 32 (r.u 36 4)) : Dbg.traceConfig id r b =
      ((((((b.traceFlush.traceSet r).put64 R.dbgTraceWrLo 0).put64 R.dbgTraceRdLo 0).putN R.dbgTraceStat (r.u 40 1 * 2 ^ 30)).putN
        R.dbgTraceOffset (r.u 36 4)).ok id 0) := by
  have hbad : (decide (r.a0 % 64 ≠ 0) || !inMgmtOs r.a0 r.a1) = false := by simp [h16, hos]
  unfold Dbg.traceConfig
  refine (Ci.check8_sound h ?_ _).trans ?_
  · simp only [List.mem_cons, List.not_mem_nil, or_false, forall_eq_or_imp, forall_eq]
    exact ⟨hbad, by rw [h24]; rfl, bne_eq_false_iff_eq.2 h28, bne_eq_false_iff_eq.2 h32, decide_eq_false (Nat.not_lt.2 h40), Req.nz_eq_false.2 h41⟩
  · dsimp only
    rw [if_pos hoff.symm, if_neg fun hsame => hbase hsame.1]
    rfl

end

section
variable {b : Block}

/-! ## Trace records (R462, R463) -/

theorem Dbg.traceWrite_none (h : b.traceq = []) : Dbg.traceWrite b = b := by
  unfold Dbg.traceWrite
  rw [h]

theorem Dbg.traceWrite_next {x : TraceRec} {q : List TraceRec} (h : b.traceq = x :: q) : Dbg.traceWrite b = ({ b with traceq := q } : Block).traceIn x := by
  unfold Dbg.traceWrite
  rw [h]

section
variable {x : TraceRec}

theorem Block.traceIn_out (h : b.tracePass x = false) : b.traceIn x = b := if_pos (by rw [h]; rfl)

theorem Block.traceIn_pass (h : b.tracePass x = true) : b.traceIn x = b.traceMark.traceStore x := if_neg (by rw [h]; decide)

/-- A ring that overwrites takes every record. -/
theorem Block.traceIn_put (h : b.tracePass x = true) (hl : b.dbg.traceLost = 0) (hm : b.dbg.traceMode = 1) : b.traceIn x = b.tracePut x := by
  have hmark : b.traceMark = b := if_pos (.inl hl)
  rw [Block.traceIn_pass h, hmark]
  exact if_neg fun hfull => by rw [hm] at hfull; cases hfull.1

/-- A full ring that does not overwrite drops it. -/
theorem Block.traceIn_full (h : b.tracePass x = true) (hm : b.dbg.traceMode = 2) (hr : b.traceRoom = 0) : b.traceIn x =
    ((b.bump R.dbgTraceDrop).putBit R.dbgTraceStat 29 true).onDbg fun d => { d with traceLost := d.traceLost + 1 } := by
  have hmark : b.traceMark = b := if_pos (.inr ⟨hm, hr⟩)
  rw [Block.traceIn_pass h, hmark]
  exact if_pos ⟨hm, hr⟩

end

/-! ## The event ring (R472, R473) -/

/-- The oldest event is written, or dropped and counted. -/
theorem Rel.eventWrite_next {e : Event} {q : List Event} (h4 : b.pcr.phase = 4) (h9 : b.cpOut 9 = false) (hq : b.evq = e :: q)
    (hl : b.dbg.eventLost = 0) : Rel.eventWrite b =
      if b.evtOpen then ({ b with evq := q } : Block).evtPut e
      else (({ b with evq := q } : Block).bump R.sysEvtDrop).onDbg fun d => { d with eventLost := d.eventLost + 1 } := by
  have hlost : b.evtLost = b := if_pos (.inl hl)
  unfold Rel.eventWrite
  dsimp only
  rw [if_neg (by simp [h4, h9]), hlost, hq]
  rfl

/-! ## Health and the snapshot (R478 to R483) -/

/-- A snapshot before its second. -/
theorem Rel.takeSnapshot_early (h : b.now < b.health.snapAt + 8000000000) : Rel.takeSnapshot b = b := by
  unfold Rel.takeSnapshot
  exact if_pos (.inr h)

section
variable (h4 : b.pcr.phase = 4)
include h4

/-- An hour of a device whose telemetry processor works ends when it is over. -/
theorem Rel.hourly_eq : Rel.hourly b =
    if b.cpOut 9 = false ∧ b.health.hourAt + hour ≤ b.now then b.hourTurn.healthSet 0x3E3 b.hourTurn.hourBits else b := by
  unfold Rel.hourly
  by_cases hdue : b.cpOut 9 = false ∧ b.health.hourAt + hour ≤ b.now
  · rw [if_pos hdue]
    refine if_neg ?_
    rintro (h | h | h)
    · exact h h4
    · exact Bool.false_ne_true (hdue.1.symm.trans h)
    · exact Nat.not_lt.2 hdue.2 h
  · rw [if_neg hdue]
    refine if_pos (.inr ?_)
    rw [not_and_or, Bool.not_eq_false, Nat.not_le] at hdue
    exact hdue

/-- At its second a snapshot is written or missed, after the hour of the same moment. -/
theorem Rel.takeSnapshot_due (h : b.health.snapAt + 8000000000 ≤ b.now) :
    let c := (Rel.hourly b).snapNext
    Rel.takeSnapshot b =
      if c.cpOut 9 ∨ c.funcMode 0x800 ≠ 1 ∨ c.health.snap.2 = 0 then { c.bump R.sysSnapMiss with health := { c.health with missed := c.health.missed + 1 } }
      else c.thrCount.snapPut c.health.snap.1 c.health.snap.2 := by
  unfold Rel.takeSnapshot
  refine if_neg ?_
  rintro (hp | hin)
  · exact hp h4
  · exact Nat.not_lt.2 h hin

end

section
variable {t : Time} {r : Req} {s : State} {id : Nat}

theorem Rel.healthRead_sound (h : Starts 0x0905 r t s b id) (h16 : r.a0 % 64 = 0) (htop : r.a0 + r.a1 ≤ 0x6000000000) (h24 : 512 ≤ r.a1)
    (h28 : r.u 28 4 = 0) (h32 : r.u 32 32 = 0) : Rel.healthRead id r b = (b.thrCount.dxWrite r.a0 b.thrCount.healthRecord).ok id 512 := by
  unfold Rel.healthRead
  exact Ci.check8_sound h (by simp [h16, htop, h24, h28, h32]) _

theorem Rel.snapConfig_sound (h : Starts 0x0904 r t s b id) (h16 : r.a0 % 2048 = 0) (hos : inMgmtOs r.a0 r.a1 = true)
    (h24 : powerWithin r.a1 (2 ^ 15) (2 ^ 27) = true) (h28 : r.u 28 4 = 0) (h32 : r.u 32 32 = 0) :
    Rel.snapConfig id r b = ({ b with health := { b.health with snap := (r.a0, r.a1 / 2048) } } : Block).ok id 0 := by
  have hbad : (decide (r.a0 % 2048 ≠ 0) || !inMgmtOs r.a0 r.a1) = false := by simp [h16, hos]
  unfold Rel.snapConfig
  refine Ci.check8_sound h ?_ _
  simp only [List.mem_cons, List.not_mem_nil, or_false, forall_eq_or_imp, forall_eq]
  exact ⟨hbad, by rw [h24]; rfl, Req.nz_eq_false.2 h28, Req.nz_eq_false.2 h32⟩

end

end

/-! ## The statement -/

/-- Settles O58: the counters read, the ring configured, the oldest record and event by the room for them, and what an hour and a second end. -/
theorem countersTraceAndHealth : Obligations.CountersTraceAndHealth := by
  unfold Obligations.CountersTraceAndHealth
  refine ⟨?counters, ?config, ?trace, ?event, ?hourly, ?health, ?snapConfig, ?snapshot⟩
  case counters =>
    intro t r s b id h sel rec_ h28 h16 htop h24 h32 h40
    rw [exec_counterRead h, Dbg.counterRead_job h h28 h16 htop h24 h32 h40]
  case config =>
    intro t r s b id h c d h16 hos h24 h28 h32 h40 h41 hbase hoff
    rw [exec_traceConfig h, Dbg.traceConfig_sound h h16 hos h24 h28 h32 h40 h41 hbase hoff]
    rfl
  case trace =>
    intro t x q s b h4
    rw [exec_traceRecordWrite h4]
    refine ⟨fun hq => ?_, fun hq hp => ?_, fun hq hp hl hm => ?_, fun hq hp hm hr => ?_⟩
    · rw [Dbg.traceWrite_none (b := b) hq]
    · rw [Dbg.traceWrite_next (b := b) hq, Block.traceIn_out (b := { b with traceq := q }) hp]
    · rw [Dbg.traceWrite_next (b := b) hq, Block.traceIn_put (b := { b with traceq := q }) hp hl hm]
    · rw [Dbg.traceWrite_next (b := b) hq, Block.traceIn_full (b := { b with traceq := q }) hp hm hr]
  case event =>
    intro t e q s b h4 h9 hq hl
    rw [exec_eventRecordWrite, Rel.eventWrite_next (b := b) h4 h9 hq hl]
    exact ⟨fun hopen => by rw [if_pos hopen], fun hfull => by rw [if_neg (Bool.eq_false_iff.1 hfull)]⟩
  case hourly =>
    intro t s b h4 h9
    rw [exec_healthHourly, Rel.hourly_eq (b := b) h4]
    exact ⟨fun hdue => by rw [if_pos ⟨h9, hdue⟩], fun hin => by rw [if_neg fun hdue => Nat.not_lt.2 hdue.2 hin]⟩
  case health =>
    intro t r s b id h h16 htop h24 h28 h32
    rw [exec_healthRead h, Rel.healthRead_sound h h16 htop h24 h28 h32]
  case snapConfig =>
    intro t r s b id h h16 hos h24 h28 h32
    rw [exec_snapshotConfig h, Rel.snapConfig_sound h h16 hos h24 h28 h32]
  case snapshot =>
    intro t s b h c h4
    have hc : (Rel.hourly b).snapNext = c := congrArg Block.snapNext (Rel.hourly_eq h4)
    rw [exec_telemetrySnapshot h4]
    refine ⟨fun hin => ?_, fun hdue h0 => ?_, fun hdue h9 hf hsnap => ?_⟩
    · rw [Rel.takeSnapshot_early (b := b) hin]
    · rw [Rel.takeSnapshot_due (b := b) h4 hdue, hc, if_pos (.inr (.inr h0))]
    · rw [Rel.takeSnapshot_due (b := b) h4 hdue, hc, if_neg (by simp [h9, hf, hsnap])]

end Sys2Proof.Machine
end

section
/-! SUPPORT. The buffer manager: buffers and their chains (R384, R390, R391, R504), pools (R383, R387) and the leak audit (R394, R395). -/

namespace Sys2Proof.Machine

/-! ## The commands -/

section
variable {t : Time} {r : Req} {s : State} {b : Block} {id : Nat}

theorem exec_bufAlloc (h : Starts 0x0501 r t s b id) : exec (.bufAlloc t r) s = After s (Bm.bufAlloc id r b) := cmd_runs h _
theorem exec_bufFree (h : Starts 0x0502 r t s b id) : exec (.bufFree t r) s = After s (Bm.bufFree id r b) := cmd_runs h _
theorem exec_bufPass (h : Starts 0x0503 r t s b id) : exec (.bufPass t r) s = After s (Bm.bufPass id r b) := cmd_runs h _
theorem exec_poolConfig (h : Starts 0x0504 r t s b id) : exec (.poolConfig t r) s = After s (Bm.poolConfig id r b) := cmd_runs h _
theorem exec_auditStart (h : Starts 0x0505 r t s b id) : exec (.auditStart t r) s = After s (Bm.auditStart id r b) := cmd_runs h _
theorem exec_auditRead (h : Starts 0x0506 r t s b id) : exec (.auditRead t r) s = After s (Bm.auditRead id r b) := cmd_runs h _

end

section
variable {t : Time} {s : State} (h : (s.blk.tick t).works 35 = true)
include h

theorem after_bm (f : Block → Block) :
    (Host.Outcome.next (s.run t fun b => b.whenWorks 35 f) : Host.Outcome State Fault Refusal) = After s (f (s.blk.tick t)) :=
  (after_run s t _).trans (congrArg (After s) (Block.whenWorks_of h f))

theorem exec_engineBufAlloc (a : EngAlloc) : exec (.engineBufAlloc t a) s = After s (Ss.engineAlloc a (s.blk.tick t)) := after_bm h _
theorem exec_poolFrameMove (src dst : Nat) : exec (.poolFrameMove t src dst) s = After s (Bm.frameMove src dst (s.blk.tick t)) := after_bm h _
theorem exec_auditWalkDone : exec (.auditWalkDone t) s = After s (Bm.auditDone (s.blk.tick t)) := after_bm h _

end

/-! ## BUF_ALLOC (R384, R387, R504) -/

section
variable {b : Block}

/-- No buffer is picked when no pool that may be taken from has one. -/
theorem Block.alloc_none {n owner : Nat} {exact : Bool}
    (h : ∀ p < 8, Bm.poolFor n ≤ p → (p < outPool ∨ b.class3Left + Bm.size p ≤ b.outFree) → b.slot p = none) :
    b.alloc n owner exact false = none := by
  have hpick : b.pick n exact false = none := by
    unfold Block.pick
    refine List.findSome?_eq_none_iff.2 fun p hp => ?_
    obtain ⟨hrange, htest⟩ := List.mem_filter.1 hp
    simp only [Bool.and_eq_true, decide_eq_true_eq] at htest
    obtain ⟨⟨hfit, -⟩, hmay⟩ := htest
    unfold Block.mayTake at hmay
    simp only [Bool.false_or, Bool.or_eq_true, decide_eq_true_eq] at hmay
    rw [h p (List.mem_range.1 hrange) hfit hmay]
    rfl
  unfold Block.alloc
  rw [hpick]
  rfl

section
variable {t : Time} {r : Req} {s : State} {id : Nat} (h : Starts 0x0501 r t s b id)
include h

/-- BUF_ALLOC with sound fields, for an owner that is not device management: the owner's job is the requester's, and a buffer is taken or none
is found. -/
theorem Bm.bufAlloc_sound (h16 : r.u 16 8 = 0) (h24 : r.a1 ≠ 0 ∧ r.a1 ≤ 4194304) (h28 : r.a2 < 2 ^ 20) (hbad : Own.bad r.a2 = false)
    (h32 : r.u 32 1 < 2) (h33 : r.u 33 31 = 0) (heng : Own.engine r.a2 ≠ 15) :
    Bm.bufAlloc id r b =
      if Own.job r.a2 ≠ b.cmdJob r then b.done id St.notOwner 0
      else match b.alloc r.a1 r.a2 (Bits.bit (r.u 32 1) 0) false with
        | some (c, p, a, scr) => c.complete id ⟨St.ok, 0, 0, c.handleOf p a scr, if scr then a + 2 ^ 63 else a⟩
        | none => (b.bump R.bmNobufCnt).done id St.noResource 4 := by
  have hsize : (r.a1 == 0 || decide (4194304 < r.a1)) = false := by simp [h24]
  have howner : (r.a2 / 2 ^ 20 != 0 || Own.bad r.a2) = false := by rw [Nat.div_eq_of_lt h28, hbad]; rfl
  have hflags : (r.u 32 1 / 2 != 0) = false := by rw [Nat.div_eq_of_lt h32]; rfl
  unfold Bm.bufAlloc
  refine (Ci.check8_sound h ?_ _).trans ?_
  · simp only [List.mem_cons, List.not_mem_nil, or_false, forall_eq_or_imp, forall_eq]
    exact ⟨Req.nz_eq_false.2 h16, hsize, howner, hflags, Req.nz_eq_false.2 h33⟩
  · refine (if_neg fun hdev => heng hdev.1).trans ?_
    by_cases hjob : Own.job r.a2 = b.cmdJob r
    · exact (if_neg fun hother => hother.2 hjob).trans (if_neg (not_not.2 hjob)).symm
    · exact (if_pos ⟨heng, hjob⟩).trans (if_pos hjob).symm

end

/-! ## BUF_FREE and BUF_PASS (R61, R390 to R392) -/

section
variable {k h who : Nat} {x : Buf} (hb : b.bufOf h = some (k, x))
include hb

/-- The holder of a live buffer may free it, and pass it on within the length of the chain. -/
theorem Block.bmCheck_holder {new : List Nat} (hl : x.live = true) (hg : x.gen = h / 2 ^ 48) (hh : x.holder = who)
    (hjob : ∀ o ∈ new, Own.engine o = 15 ∨ x.job? = some (Own.job o)) (hn : x.chain.length + new.length ≤ 8) : b.bmCheck h who new = none := by
  have hnew : (new.any fun o => Own.engine o != 15 && x.job? != some (Own.job o)) = false := by
    refine List.any_eq_false.2 fun o ho => ?_
    rcases hjob o ho with he | he <;> simp [he]
  unfold Block.bmCheck
  rw [hb]
  dsimp only
  rw [if_neg (by simp [hl, hg]), if_neg (not_not.2 hh), hnew, if_neg Bool.false_ne_true, if_neg (Nat.not_lt.2 hn)]

theorem Block.bmCheck_free (hl : x.live = false) (new : List Nat) : b.bmCheck h who new = some (St.doubleFree, 0) := by
  unfold Block.bmCheck
  rw [hb]
  exact if_pos (by simp [hl])

end

section
variable {t : Time} {r : Req} {s : State} {id : Nat}

theorem Bm.bufFree_sound (h : Starts 0x0502 r t s b id) (h24 : r.u 24 4 = 0) (h28 : r.a2 < 2 ^ 20) (h32 : r.u 32 32 = 0) :
    Bm.bufFree id r b = Bm.bufOp 0x0502 id r b := by
  have howner : (r.a2 / 2 ^ 20 != 0) = false := by rw [Nat.div_eq_of_lt h28]; rfl
  unfold Bm.bufFree
  refine Ci.check8_sound h ?_ _
  simp only [List.mem_cons, List.not_mem_nil, or_false, forall_eq_or_imp, forall_eq]
  exact ⟨Req.nz_eq_false.2 h24, howner, Req.nz_eq_false.2 h32⟩

theorem Bm.bufPass_sound (h : Starts 0x0503 r t s b id) (h24 : r.u 24 4 = 0) (h28 : r.a2 < 2 ^ 20)
    (hent : ∀ e ∈ Bm.entries r, Bits.fld e.2 30 20 = 0 ∧ (Bits.bit e.2 31 = true → Own.bad (e.2 % 2 ^ 20) = false)) :
    Bm.bufPass id r b = Bm.bufOp 0x0503 id r b := by
  have howner : (r.a2 / 2 ^ 20 != 0) = false := by rw [Nat.div_eq_of_lt h28]; rfl
  unfold Bm.bufPass
  refine Ci.check8_sound h (fun e he => ?_) _
  rcases List.mem_append.1 he with he | he
  · simp only [List.mem_cons, List.not_mem_nil, or_false] at he
    rcases he with rfl | rfl
    · exact Req.nz_eq_false.2 h24
    · exact howner
  · obtain ⟨w, hw, rfl⟩ := List.mem_map.1 he
    obtain ⟨hres, hown⟩ := hent w hw
    dsimp only
    rw [hres, Bool.or_eq_false_iff]
    exact ⟨rfl, Bool.and_eq_false_imp.2 hown⟩

theorem Bm.bufOp_waits {opc c : Nat} (hr : b.revoking r.a0 = some c) : Bm.bufOp opc id r b = b.waitRevoke c (id, opc, r) := by
  unfold Bm.bufOp
  rw [hr]

section
variable (hr : b.revoking r.a0 = none)
include hr

theorem Bm.bufOp_free : Bm.bufOp 0x0502 id r b = Bm.freeNow id r b := by
  unfold Bm.bufOp
  rw [hr]
  exact if_pos rfl

theorem Bm.bufOp_pass : Bm.bufOp 0x0503 id r b = Bm.passNow id r b := by
  unfold Bm.bufOp
  rw [hr]
  exact if_neg (by decide)

end

section
variable {k : Nat} {x : Buf} (hb : b.bufOf r.a0 = some (k, x))
include hb

theorem Bm.freeNow_holder (hl : x.live = true) (hg : x.gen = r.a0 / 2 ^ 48) (hh : x.holder = r.a2) (hn : x.chain.length ≤ 8) :
    Bm.freeNow id r b = (b.freeBuf k).ok id 0 := by
  unfold Bm.freeNow
  rw [Block.bmCheck_holder (new := []) hb hl hg hh (fun o ho => nomatch ho) hn, hb]

theorem Bm.freeNow_free (hl : x.live = false) :
    Bm.freeNow id r b = (b.bmRefuse r.ring r.a0 r.a2 St.doubleFree false).done id St.doubleFree 0 := by
  unfold Bm.freeNow
  rw [Block.bmCheck_free hb hl]

theorem Bm.passNow_checked (hc : b.bmCheck r.a0 r.a2 (Bm.newOwners r) = none) : Bm.passNow id r b =
    (b.setBuf k { x with chain := x.chain ++ Bm.newOwners r, at_ := b.now }).ok id (x.chain.length + (Bm.newOwners r).length) := by
  unfold Bm.passNow
  dsimp only
  rw [hc, hb]

end

/-! ## Pools (R383, R387) -/

/-- POOL_CONFIG with a sound descriptor: the banks it asks for must be there, and those it gives back must hold no buffer. -/
theorem Bm.poolConfig_sound (h : Starts 0x0504 r t s b id) (h16 : r.a0 % 64 = 0) (htop : r.a0 + 64 ≤ 0x6000000000) (h28 : r.u 28 4 = 0)
    (h32 : r.u 32 32 = 0) (hdesc : (b.readCount r.a0 64).poolDescBad r.a0 = none) :
    let c := b.readCount r.a0 64
    Bm.poolConfig id r b =
      if ((List.range 800).filter c.ciBank).length + c.bm.banks.length < r.a1 then c.done id St.noResource 5
      else if (c.bm.banks.drop r.a1).any c.bankBusy then c.done id St.state 1
      else
        ({ c.setBmBanks r.a1 with bm := { (c.setBmBanks r.a1).bm with place := (c.poolDesc r.a0).map Prod.fst, share := (c.poolDesc r.a0).map Prod.snd } } : Block).ok
          id 0 := by
  unfold Bm.poolConfig
  refine (Ci.check8_sound h (by simp [h16, htop, h28, h32]) _).trans ?_
  dsimp only
  rw [hdesc]

end

/-- An engine is answered now, or waits. -/
theorem Ss.engineAlloc_grant {a : EngAlloc} {c : Block} (h : b.engGrant? a = some c) : Ss.engineAlloc a b = c := by
  unfold Ss.engineAlloc
  rw [h]
  rfl

theorem Ss.engineAlloc_wait {a : EngAlloc} (h : b.engGrant? a = none) :
    Ss.engineAlloc a b = { b with bm := { b.bm with engWait := b.bm.engWait ++ [a] } } := by
  unfold Ss.engineAlloc
  rw [h]
  rfl

/-! ## The leak audit (R394, R395) -/

section
variable {t : Time} {r : Req} {s : State} {id : Nat}

theorem Bm.auditStart_sound (h : Starts 0x0505 r t s b id) (h16 : r.u 16 8 = 0) (h24 : r.u 24 4 = 0) (h28 : r.a2 < 2 ^ 20)
    (h32 : r.u 32 4 < 2 ^ 20) (h36 : r.u 36 28 = 0) : Bm.auditStart id r b =
      if b.bm.auditCmd.isSome then b.done id St.busy 0
      else ({ b with bm := { b.bm with auditCmd := some (id, r.a2, r.u 32 4), audit := [] } } : Block).putN R.bmAuditStat (2 ^ 31) := by
  have howner : (r.a2 / 2 ^ 20 != 0) = false := by rw [Nat.div_eq_of_lt h28]; rfl
  have hmask : (r.u 32 4 / 2 ^ 20 != 0) = false := by rw [Nat.div_eq_of_lt h32]; rfl
  unfold Bm.auditStart
  refine Ci.check8_sound h ?_ _
  simp only [List.mem_cons, List.not_mem_nil, or_false, forall_eq_or_imp, forall_eq]
  exact ⟨Req.nz_eq_false.2 h16, Req.nz_eq_false.2 h24, howner, hmask, Req.nz_eq_false.2 h36⟩

theorem Bm.auditRead_sound (h : Starts 0x0506 r t s b id) (h16 : r.a0 % 64 = 0) (htop : r.a0 + r.a1 ≤ 0x6000000000) (h28 : r.u 28 4 = 0)
    (h32 : r.u 32 32 = 0) :
    let rows := b.bm.audit.take (r.a1 / 64)
    Bm.auditRead id r b = if b.bm.auditCmd.isSome then b.done id St.state 1
      else (b.dxWrite r.a0 (rows.flatMap AuditRow.record)).complete id ⟨St.ok, 0, 0, 64 * rows.length, b.bm.audit.length⟩ := by
  unfold Bm.auditRead
  exact Ci.check8_sound h (by simp [h16, htop, h28, h32]) _

end

/-- The audit that runs keeps its first 65,536 rows, and their ages by bin. -/
def Block.auditKept (rows : List AuditRow) (b : Block) : Block :=
  let kept := rows.take 65536
  (List.range 8).foldl (fun b n => b.putN (R.bmAuditAge n) (Bits.sum (kept.map fun x => x.bins.getD n 0)))
    (({ b with bm := { b.bm with auditCmd := none, audit := kept } } : Block).putN R.bmAuditStat ((if 65536 < rows.length then 2 ^ 30 else 0) + kept.length))

theorem Bm.auditDone_running {id owner mask : Nat} (h : b.bm.auditCmd = some (id, owner, mask)) :
    Bm.auditDone b = (b.auditKept (b.auditRows owner mask)).ok id ((b.auditRows owner mask).take 65536).length := by
  unfold Bm.auditDone
  rw [h]
  rfl

end

/-! ## The statement -/

/-- Settles O54: an allocation by what is free, a free and a pass by the revocations and the chain, POOL_CONFIG by the banks, an engine's request,
a move of frames, and the audit by whether one runs. -/
theorem bufferManager : Obligations.BufferManager := by
  unfold Obligations.BufferManager
  refine ⟨?alloc, ?free, ?pass, ?pool, ?engine, ?move, ?auditStart, ?auditDone, ?auditRead⟩
  case alloc =>
    intro t r s b id h owner h16 h24 h24' h28 hbad h32 h33
    have hsound (heng : Own.engine r.a2 ≠ 15) := Bm.bufAlloc_sound h h16 ⟨h24, h24'⟩ h28 hbad h32 h33 heng
    rw [exec_bufAlloc h]
    refine ⟨fun heng hjob => ?_, fun heng hjob hnone => ?_, fun c p a scr heng hjob hsome => ?_⟩
    · rw [hsound heng, if_pos hjob]
    · rw [hsound heng, if_neg (not_not.2 hjob), Block.alloc_none hnone]
    · rw [hsound heng, if_neg (not_not.2 hjob), hsome]
  case free =>
    intro t r s b id k x h h24 h28 h32 hb
    rw [exec_bufFree h, Bm.bufFree_sound h h24 h28 h32]
    refine ⟨fun c hr => ?_, fun hr hl hg hh hn => ?_, fun hr hl => ?_⟩
    · rw [Bm.bufOp_waits hr]
    · rw [Bm.bufOp_free hr, Bm.freeNow_holder hb hl hg hh hn]
    · rw [Bm.bufOp_free hr, Bm.freeNow_free hb hl]
  case pass =>
    intro t r s b id k x h h24 h28 hent hb
    rw [exec_bufPass h, Bm.bufPass_sound h h24 h28 hent]
    refine ⟨fun c hr => ?_, fun hr hc => ?_⟩
    · rw [Bm.bufOp_waits hr]
    · rw [Bm.bufOp_pass hr, Bm.passNow_checked hb hc]
  case pool =>
    intro t r s b id h c free h16 htop h28 h32 hdesc
    rw [exec_poolConfig h, Bm.poolConfig_sound h h16 htop h28 h32 hdesc]
    refine ⟨fun hfew => congrArg (After s) (if_pos hfew), fun hmany hidle => ?_⟩
    have hbusy : (c.bm.banks.drop r.a1).any c.bankBusy = false := List.any_eq_false.2 fun n hn => Bool.eq_false_iff.1 (hidle n hn)
    exact congrArg (After s) ((if_neg (Nat.not_lt.2 hmany)).trans (if_neg (Bool.eq_false_iff.1 hbusy)))
  case engine =>
    intro t a s b h35
    rw [exec_engineBufAlloc h35]
    exact ⟨fun c hg => by rw [Ss.engineAlloc_grant (b := b) hg], fun hg => by rw [Ss.engineAlloc_wait (b := b) hg]⟩
  case move =>
    intro t src dst s b h35
    rw [exec_poolFrameMove h35]
    exact ⟨fun hmay => congrArg (After s) (if_pos hmay), fun hno => congrArg (After s) (if_neg (Bool.eq_false_iff.1 hno))⟩
  case auditStart =>
    intro t r s b id h h16 h24 h28 h32 h36
    rw [exec_auditStart h, Bm.auditStart_sound h h16 h24 h28 h32 h36]
    refine ⟨fun hrun => by rw [if_pos (Option.isSome_iff_ne_none.2 hrun)], fun hidle => ?_⟩
    rw [hidle, Option.isSome_none, if_neg Bool.false_ne_true]
  case auditDone =>
    intro t id owner mask s b rows kept h35 hrun
    rw [exec_auditWalkDone h35, Bm.auditDone_running (b := b) hrun]
    rfl
  case auditRead =>
    intro t r s b id h rows h16 htop h28 h32
    rw [exec_auditRead h, Bm.auditRead_sound h h16 htop h28 h32]
    refine ⟨fun hrun => by rw [if_pos (Option.isSome_iff_ne_none.2 hrun)], fun hidle => ?_⟩
    rw [hidle, Option.isSome_none, if_neg Bool.false_ne_true]

end Sys2Proof.Machine
end

section
/-! SUPPORT. Identity and attestation (R355), key agreement (R356 to R362) and tampering (R363 to R366). -/

namespace Sys2Proof.Machine

/-! ## What the response to an alarm leaves of the SEC

The alarm erases keys and completes commands; which sensors have raised it (`raised`) stays. Most of what it does leaves the SEC alone
altogether. -/

/-- What leaves the SEC alone for each element leaves it alone over a list. -/
theorem Block.foldl_sec {α : Type} {f : Block → α → Block} (hf : ∀ b x, (f b x).sec = b.sec) (l : List α) (b : Block) :
    (l.foldl f b).sec = b.sec :=
  List.foldlRecOn (motive := fun d : Block => d.sec = b.sec) l f rfl fun d h x _ => (hf d x).trans h

@[simp] theorem Block.putN_sec (a x : Nat) (b : Block) : (b.putN a x).sec = b.sec := rfl
@[simp] theorem Block.putFld_sec (a hi lo x : Nat) (b : Block) : (b.putFld a hi lo x).sec = b.sec := rfl
@[simp] theorem Block.putBit_sec (a i : Nat) (v : Bool) (b : Block) : (b.putBit a i v).sec = b.sec := rfl
@[simp] theorem Block.kxStat_sec (p st x : Nat) (b : Block) : (b.kxStat p st x).sec = b.sec := by
  unfold Block.kxStat
  rw [Block.putFld_sec, Block.putFld_sec]
@[simp] theorem Block.bump_sec (a : Nat) (b : Block) : (b.bump a).sec = b.sec := rfl
@[simp] theorem Block.bump64_sec (a n : Nat) (b : Block) : (b.bump64 a n).sec = b.sec := rfl
@[simp] theorem Block.bumpN_sec (a n : Nat) (b : Block) : (b.bumpN a n).sec = b.sec := rfl
@[simp] theorem Block.setBits_sec (a n : Nat) (b : Block) : (b.setBits a n).sec = b.sec := rfl
@[simp] theorem Block.msix_sec (v : Nat) (b : Block) : (b.msix v).sec = b.sec := rfl

@[simp] theorem Block.count_sec (j set i n : Nat) (b : Block) : (b.count j set i n).sec = b.sec := by
  rw [Block.count_rest]

@[simp] theorem Block.dxWrite_sec (a : Nat) (bs : List Byte) (b : Block) : (b.dxWrite a bs).sec = b.sec := by
  rw [Block.dxWrite_rest]

@[simp] theorem Block.cqWrite_sec (n i : Nat) (bs : List Byte) (b : Block) : (b.cqWrite n i bs).sec = b.sec := by
  unfold Block.cqWrite
  dsimp only
  split
  · rfl
  · split
    · rfl
    · exact Block.dxWrite_sec _ _ b

@[simp] theorem Block.modRing_sec (n : Nat) (f : Ring → Ring) (b : Block) : (b.modRing n f).sec = b.sec := rfl

@[simp] theorem Block.ringIrq_sec (n : Nat) (b : Block) : (b.ringIrq n).sec = b.sec := rfl

@[simp] theorem Block.note_sec (a before : Nat) (f : Nat → Nat) (b : Block) : (b.note a before f).sec = b.sec := rfl

@[simp] theorem Block.ringError_sec (n cause : Nat) (b : Block) : (b.ringError n cause).sec = b.sec := by
  unfold Block.ringError
  split <;> rfl

@[simp] theorem Block.cqPost_sec (f : InFlight) (c : Comp) (b : Block) : (b.cqPost f c).sec = b.sec := by
  unfold Block.cqPost
  dsimp only
  split_ifs <;> simp only [Block.ringIrq_sec, Block.modRing_sec, Block.note_sec, Block.cqWrite_sec]

@[simp] theorem Block.post_sec (f : InFlight) (c : Comp) (b : Block) : (b.post f c).sec = b.sec := by
  unfold Block.post
  dsimp only
  split_ifs <;> simp only [Block.cqPost_sec, Block.modRing_sec, Block.ringError_sec, Block.count_sec, Block.trace_sec]

theorem Block.flush_sec (n k : Nat) (b : Block) : (b.flush k n).sec = b.sec := by
  induction k generalizing b with
  | zero => rfl
  | succ k ih =>
    unfold Block.flush
    cases b.postable n with
    | none => rfl
    | some e => exact (ih _).trans (Block.post_sec _ _ b)

theorem Block.flushAfter_sec (k : Nat) (b : Block) : (b.flushAfter k).sec = b.sec := by
  induction k generalizing b with
  | zero => rfl
  | succ k ih =>
    unfold Block.flushAfter
    cases b.afterRing with
    | none => rfl
    | some n => exact (ih _).trans (Block.flush_sec n _ b)

theorem Block.complete_sec (id : Nat) (c : Comp) (b : Block) : (b.complete id c).sec = b.sec := by
  unfold Block.complete
  cases b.cmd? id with
  | none => rfl
  | some f =>
    dsimp only
    split
    · rfl
    · exact (Block.flushAfter_sec _ _).trans (Block.flush_sec _ _ _)

theorem Block.done_sec (id st d : Nat) (b : Block) : (b.done id st d).sec = b.sec := Block.complete_sec id _ b

theorem Ci.taken_sec (opc : Nat) (r : Req) (b : Block) : (Ci.taken opc r b).sec = b.sec := by
  unfold Ci.taken
  dsimp only
  rw [Block.trace_sec]
  split
  · exact Block.count_sec _ _ _ _ _
  · rfl

theorem Block.endHeld_sec (st : Nat) (p : Nat → Req → Bool) (b : Block) : (b.endHeld st p).sec = b.sec := by
  unfold Block.endHeld
  refine Block.foldl_sec (fun d h => ?_) _ _
  exact (Block.done_sec d.freshId st 0 _).trans (Ci.taken_sec h.1 h.2 d)

/-! ### The buffers of what is being opened -/

theorem Block.bmErrPut_sec (l : List Nat) (b : Block) : (b.bmErrPut l).sec = b.sec := by
  unfold Block.bmErrPut
  refine Block.foldl_sec (fun d e => ?_) _ b
  exact Block.putN_sec e.2 e.1 d

theorem Block.bmErr_sec (h who st : Nat) (pass : Bool) (b : Block) : (b.bmErr h who st pass).sec = b.sec := by
  unfold Block.bmErr
  dsimp only
  rw [Block.trace_sec, Block.event_sec, Block.msix_sec, Block.bump_sec]
  split_ifs <;> simp only [Block.bmErrPut_sec]

theorem Block.engRefuse_sec (h who st : Nat) (pass : Bool) (b : Block) : (b.engRefuse h who st pass).sec = b.sec := by
  unfold Block.engRefuse
  dsimp only
  split_ifs
  · exact Block.bmErr_sec h who st pass b
  · exact Block.bmErr_sec h who st pass b
  · rfl

theorem Block.dropOwner_sec (h owner : Nat) (b : Block) : (b.dropOwner h owner).sec = b.sec := by
  unfold Block.dropOwner
  cases b.engCheck h owner [] with
  | some st => exact Block.engRefuse_sec h owner st false b
  | none =>
    cases b.bufOf h with
    | none => rfl
    | some e =>
      dsimp only
      split <;> rfl

theorem Block.dropFarIn_sec (msgs : List InMsg) (b : Block) : (b.dropFarIn msgs).sec = b.sec := by
  unfold Block.dropFarIn
  refine Block.foldl_sec (fun d x => ?_) msgs b
  split
  · cases x.buf with
    | none => rfl
    | some e => exact Block.dropOwner_sec _ _ d
  · rfl

theorem CxSeg.free_sec (g : CxSeg) (b : Block) : (g.free b).sec = b.sec := by
  unfold CxSeg.free
  rw [Block.dropFarIn_sec]
  refine Block.foldl_sec (fun d e => ?_) _ b
  exact Block.dropOwner_sec e.2.1 _ d

theorem Block.cxPurge_sec (p : Nat) (b : Block) : (b.cxPurge p).sec = b.sec := by
  unfold Block.cxPurge
  dsimp only
  rw [Block.onCx_sec]
  refine Block.foldl_sec (fun d e => ?_) _ b
  exact CxSeg.free_sec e.2 d

/-! ### The keys -/

theorem Block.ccSettle_sec (b : Block) : b.ccSettle.sec = b.sec := by
  unfold Block.ccSettle
  dsimp only
  split <;> rfl

theorem Block.endRekey_sec (slot : Nat) (b : Block) : (b.endRekey slot).sec = b.sec := by
  unfold Block.endRekey
  dsimp only
  split
  · exact Block.done_sec _ _ _ _
  · rfl

theorem Block.setRx_sec (slot : Nat) (ks : List RxKey) (b : Block) : (b.setRx slot ks).sec = b.sec := by
  unfold Block.setRx
  dsimp only
  rw [Block.onCc_sec]
  unfold Block.freeBitmaps
  refine Block.foldl_sec (fun d k => ?_) _ b
  split <;> rfl

theorem Block.eraseKeys_sec (slots : List Nat) (b : Block) : (b.eraseKeys slots).sec = b.sec := by
  unfold Block.eraseKeys
  refine (Block.foldl_sec (fun d s => ?_) slots b.ccSettle).trans (Block.ccSettle_sec b)
  split
  · exact Block.endRekey_sec s d
  · exact Block.setRx_sec s [] d

theorem Block.pathCheck_sec (peer : Nat) (b : Block) : (b.pathCheck peer).sec = b.sec := by
  unfold Block.pathCheck
  dsimp only
  split_ifs <;> rfl

theorem Block.eraseStore_raised (b : Block) : b.eraseStore.sec.raised = b.sec.raised := by
  have herase : b.eraseCc.sec = b.sec := by
    unfold Block.eraseCc
    rw [Block.onCc_sec, Block.eraseKeys_sec]
  unfold Block.eraseStore Block.eraseTraffic
  dsimp only
  rw [Block.onSec_sec, Block.foldl_sec fun d g => Block.pathCheck_sec g d]
  dsimp only
  rw [Block.onSec_sec, herase]

/-! ### The alarm -/

theorem Block.wake_sec (b : Block) : b.wake.sec = b.sec := by
  unfold Block.wake
  split <;> rfl

theorem Block.lockRunning_raised (b : Block) : b.lockRunning.sec.raised = b.sec.raised := by
  unfold Block.lockRunning
  dsimp only
  rw [Block.foldl_sec fun d p => Block.kxStat_sec p 0 _ d, Block.eraseStore_raised, Block.onTe_sec, Block.cxPurge_sec, Block.cxPurge_sec,
    Block.putBit_sec, Block.onPcr_sec]
  dsimp only
  rw [Block.endHeld_sec, Block.foldl_sec fun d (f : InFlight) => Block.done_sec f.id St.locked 0 d, Block.putBit_sec, Block.putFld_sec]

theorem Block.tamperAct_raised (c : Nat) (b : Block) : (b.tamperAct c).sec.raised = b.sec.raised := by
  unfold Block.tamperAct
  split
  · rw [Block.wake_sec, Block.eraseStore_raised]
  · exact Block.eraseStore_raised b
  · dsimp only
    split_ifs <;> exact Block.eraseStore_raised b
  · exact Block.lockRunning_raised b

/-- An alarm leaves the record of the sensors that have raised it. -/
theorem Block.alarm_raised (n : Nat) (b : Block) : (b.alarm n).sec.raised = b.sec.raised := by
  unfold Block.alarm
  by_cases hn : n = 0
  · rw [if_pos hn]
  · rw [if_neg hn]
    dsimp only
    split
    · rw [Block.tamperAct_raised, Block.putFld_sec, Block.putN_sec, Block.putFld_sec, Block.putBit_sec]
    · rw [Block.putN_sec, Block.putFld_sec, Block.putBit_sec]

/-! ## The commands -/

section
variable {t : Time} {r : Req} {s : State} {b : Block} {id : Nat}

/-- ATTEST, when no alarm comes at its moment. -/
theorem exec_attest (h : Starts 0x0801 r t s b id) (ha : s.alarmAt t = false) : exec (.attest t r) s = After s (Sec.attest id r b) := by
  refine (after_run s t _).trans (congrArg (After s) ?_)
  rw [State.foresee_none ha, Ci.cmd_starts h]

theorem exec_peerKeyx (h : Starts 0x0802 r t s b id) : exec (.peerKeyx t r) s = After s (Sec.peerKeyx id r b) := cmd_runs h _
theorem exec_tamperConfig (h : Starts 0x0805 r t s b id) : exec (.tamperConfig t r) s = After s (Sec.tamperConfig id r b) := cmd_runs h _

end

/-- Without an alarm of the moment a step of an exchange is not undone. -/
theorem Block.unlessCut_of {b : Block} (h : b.sec.due ≠ some b.now) (p : Nat) (f : Block → Block) : b.unlessCut p f = f b := by
  have hgo : b.cutOff = false := beq_false_of_ne h
  unfold Block.unlessCut
  rw [hgo]
  rfl

section
variable {t : Time} {p : Nat} {s : State} (h4 : (s.blk.tick t).pcr.phase = 4) (hp : p < 2) (ha : s.alarmAt t = false)
  (hd : (s.blk.tick t).sec.due ≠ some (s.blk.tick t).now)
include h4 hp ha hd

theorem exec_kxMessageRx (n : Nat) (v : KxView) : exec (.kxMessageRx t p n v) s = After s (Sec.kxMessage p n v (s.blk.tick t)) := by
  refine (after_run s t _).trans (congrArg (After s) ?_)
  rw [if_pos hp, Block.whenUp_of h4, State.foresee_none ha, Block.unlessCut_of hd]

theorem exec_kxTimeout : exec (.kxTimeout t p) s = After s (Sec.kxTimeout p (s.blk.tick t)) := by
  refine (after_run s t _).trans (congrArg (After s) ?_)
  rw [if_pos hp, Block.whenUp_of h4, State.foresee_none ha, Block.unlessCut_of hd]

end

theorem exec_tamperAlarm (t : Time) (x : TamperTick) (s : State) : exec (.tamperAlarm t x) s = After s (Pcr.tamper x (s.blk.tick t)) := rfl

/-! ## ATTEST, PEER_KEYX and TAMPER_CONFIG -/

section
variable {t : Time} {r : Req} {s : State} {b : Block} {id : Nat} (h16 : r.a0 % 64 = 0) (htop : r.a0 + r.a1 ≤ 0x6000000000)
include h16 htop

/-- ATTEST that no alarm cuts off signs its report. -/
theorem Sec.attest_sound (h : Starts 0x0801 r t s b id) (hn : 512 + 96 + b.certs.length ≤ r.a1) (h28 : r.u 28 4 = 0)
    (hd : b.sec.due ≠ some b.now) :
    let body := b.attestBody (Bits.leBytes 32 (r.u 32 32))
    let c := b.keyRun.sign body
    Sec.attest id r b = ((c.2.dxWrite r.a0 (body ++ c.1 ++ c.2.certs)).bump R.secAttestCnt).ok id (512 + 96 + b.certs.length) := by
  have hgo : b.cutOff = false := beq_false_of_ne hd
  have hlen : decide (r.a1 < 512 + 96 + b.certs.length) = false := decide_eq_false (Nat.not_lt.2 hn)
  unfold Sec.attest
  dsimp only
  rw [Ci.check8_sound h, hgo, if_neg Bool.false_ne_true]
  simp only [List.mem_cons, List.not_mem_nil, or_false, forall_eq_or_imp, forall_eq, Req.nz_eq_false]
  exact ⟨badAddr_eq_false.2 ⟨h16, htop⟩, hlen, h28⟩

/-- PEER_KEYX with sound fields: a dark port, a port that carries traffic of another peer and a running exchange refuse it, and a sound
policy starts an exchange. -/
theorem Sec.peerKeyx_sound (h : Starts 0x0802 r t s b id) (h24 : r.a1 = 400) (h28 : r.a2 < 2) (h32 : r.u 32 2 ≠ b.gw)
    (hres : ∀ i < 30, r.u (34 + i) 1 = 0) :
    Sec.peerKeyx id r b =
      if b.lfState r.a2 < 2 ∨ 4 < b.lfState r.a2 then b.done id St.state (b.lfState r.a2)
      else if (b.peerOf r.a2).any fun g => g != r.u 32 2 && b.admitSum (b.portSlot r.a2) != 0 then b.done id St.state 1
      else if (b.kxOf r.a2).isSome then b.done id St.busy 0
      else match Sec.policyBad (b.dxBytes r.a0 400) with
        | some o => b.badDesc id o
        | none => b.kxStart r.a2 (r.u 32 2) (b.dxBytes r.a0 400) (some id) := by
  unfold Sec.peerKeyx
  refine Ci.check8_sound h (fun e he => ?_) _
  rcases List.mem_append.1 he with he | he
  · simp only [List.mem_cons, List.not_mem_nil, or_false] at he
    rcases he with rfl | rfl | rfl | rfl
    · exact badAddr_eq_false.2 ⟨h16, htop⟩
    · exact bne_eq_false_iff_eq.2 h24
    · exact decide_eq_false (Nat.not_le.2 h28)
    · exact beq_false_of_ne h32
  · obtain ⟨i, hi, rfl⟩ := List.mem_map.1 he
    exact Req.nz_eq_false.2 (hres i (List.mem_range.1 hi))

/-- TAMPER_CONFIG with sound fields. -/
theorem Sec.tamperConfig_sound (h : Starts 0x0805 r t s b id) (h24 : r.a1 = 16) (h28 : r.u 28 4 = 0) (h32 : r.u 32 32 = 0) :
    let d := b.dxBytes r.a0 16
    let f (o w : Nat) : Nat := Bits.ofLe ((d.drop o).take w)
    let c := b.onSec fun s => { s with vcore := ((f 0 2 : Nat), (f 2 2 : Nat)), temp := (Bits.toInt 16 (f 4 2), Bits.toInt 16 (f 6 2)) }
    Sec.tamperConfig id r b =
      if b.bit R.secStat 26 then b.done id St.state 1
      else match Sec.tamperBad d with
        | some o => b.badDesc id o
        | none => (if f 8 1 = 1 then c.putBit R.secStat 26 true else c).ok id 0 := by
  unfold Sec.tamperConfig
  refine Ci.check8_sound h ?_ _
  simp only [List.mem_cons, List.not_mem_nil, or_false, forall_eq_or_imp, forall_eq, Req.nz_eq_false]
  exact ⟨badAddr_eq_false.2 ⟨h16, htop⟩, bne_eq_false_iff_eq.2 h24, h28, h32⟩

end

/-- A port whose peer is the one asked for, or that carries no admitted traffic, may take up an exchange. -/
theorem Block.portFree {b : Block} {p peer : Nat} (h : ∀ g, b.peerOf p = some g → g = peer ∨ b.admitSum (b.portSlot p) = 0) :
    ((b.peerOf p).any fun g => g != peer && b.admitSum (b.portSlot p) != 0) = false := by
  rw [Option.any_eq_false]
  intro g hg
  rcases h g hg with hs | hs <;> simp [hs]

theorem Block.portTaken {b : Block} {p peer g : Nat} (hg : b.peerOf p = some g) (hne : g ≠ peer) (hs : b.admitSum (b.portSlot p) ≠ 0) :
    ((b.peerOf p).any fun g => g != peer && b.admitSum (b.portSlot p) != 0) = true := by
  rw [hg]
  simp [hne, hs]

/-! ## The messages of an exchange (R357 to R362) -/

section
variable {b : Block} {p n x : Nat} {v : KxView} {bytes : List Byte}

theorem Sec.kxMessage_none (h : b.kxMessage p n = none) : Sec.kxMessage p n v b = b := by
  unfold Sec.kxMessage
  rw [h]

/-- MSG 1 without an exchange, where this side may not answer by itself. -/
theorem Sec.kxMessage_ignored (h : b.kxMessage p 1 = some (x, bytes)) (hk : b.kxOf p = none)
    (hno : b.autoResponds p (Bits.ofLe ((bytes.drop 2).take 2)) = false) :
    Sec.kxMessage p 1 v b = (b.kxTaken p 1 x false).bump R.secKxIgnoreCnt := by
  unfold Sec.kxMessage
  rw [h]
  dsimp only
  rw [hk]
  dsimp only
  rw [if_neg (not_not.2 rfl), hno]
  rfl

section
variable {k : Kx} (hk : b.kxOf p = some k)
include hk

/-- A message of an exchange in progress, by its number, the side and how far the exchange has come. -/
theorem Sec.kxMessage_running (h : b.kxMessage p n = some (x, bytes)) : Sec.kxMessage p n v b =
    if n = 5 ∧ k.px.any (· != x) then b.kxTaken p 5 x true
    else if n = 5 then ((b.kxTaken p 5 x true).onSec fun s => { s with send := AMap.erase s.send p }).kxFail p St.authFail 9 k
    else if k.init then
      if n = 2 ∧ k.step = 2 then b.kxMsg2 p x bytes v k
      else if n = 4 ∧ k.step = 3 ∧ k.px = some x then b.kxMsg4 p x bytes k
      else b.kxTaken p n x true
    else if n = 1 ∧ k.px ≠ some x then b.kxMsg1 p x bytes v k
    else if n = 3 ∧ k.step = 2 ∧ k.px = some x then b.kxMsg3 p x bytes v k
    else b.kxTaken p n x true := by
  unfold Sec.kxMessage
  rw [h]
  dsimp only
  rw [hk]

theorem Sec.kxMessage_one (h : b.kxMessage p 1 = some (x, bytes)) (hi : k.init = false) (hx : k.px ≠ some x) :
    Sec.kxMessage p 1 v b = b.kxMsg1 p x bytes v k := by
  simp [Sec.kxMessage_running hk h, hi, hx]

theorem Sec.kxMessage_two (h : b.kxMessage p 2 = some (x, bytes)) (hi : k.init = true) (hs : k.step = 2) :
    Sec.kxMessage p 2 v b = b.kxMsg2 p x bytes v k := by
  simp [Sec.kxMessage_running hk h, hi, hs]

theorem Sec.kxMessage_three (h : b.kxMessage p 3 = some (x, bytes)) (hi : k.init = false) (hs : k.step = 2) (hx : k.px = some x) :
    Sec.kxMessage p 3 v b = b.kxMsg3 p x bytes v k := by
  simp [Sec.kxMessage_running hk h, hi, hs, hx]

theorem Sec.kxMessage_four (h : b.kxMessage p 4 = some (x, bytes)) (hi : k.init = true) (hs : k.step = 3) (hx : k.px = some x) :
    Sec.kxMessage p 4 v b = b.kxMsg4 p x bytes k := by
  simp [Sec.kxMessage_running hk h, hi, hs, hx]

/-- MSG 5 of the peer's exchange, or of a peer not yet heard, ends the exchange. -/
theorem Sec.kxMessage_five (h : b.kxMessage p 5 = some (x, bytes)) (hx : k.px = none ∨ k.px = some x) : Sec.kxMessage p 5 v b =
    ((b.kxTaken p 5 x true).onSec fun s => { s with send := AMap.erase s.send p }).kxFail p St.authFail 9 k := by
  have hmine : k.px.any (· != x) = false := by rcases hx with hx | hx <;> simp [hx]
  rw [Sec.kxMessage_running hk h, if_neg (by simp [hmine]), if_pos rfl]

/-- An exchange ends TIMEOUT at its limit, and not before. -/
theorem Sec.kxTimeout_running : Sec.kxTimeout p b =
    if k.until_ ≤ b.now then (b.onSec fun s => { s with send := AMap.erase s.send p }).kxFail p St.timeout 8 k else b := by
  unfold Sec.kxTimeout
  rw [hk]

end

end

/-! ## The tamper alarm (R364) -/

section
variable {b : Block} {x : TamperTick}

theorem Pcr.tamper_off (h : b.armed = false) : Pcr.tamper x b = b := by
  unfold Pcr.tamper
  rw [h]
  rfl

/-- The alarm comes from the sensors that begin to trip, and what has raised it is kept until its condition ends. -/
theorem Pcr.tamper_armed (h : b.armed = true) :
    let now := b.tripping x (b.pcr.phase == 5)
    let up := TamperTick.lasting x now (b.pcr.phase == 5)
    let old := Nat.land b.sec.raised now
    Pcr.tamper x b = ((b.alarm (up - Nat.land up old)).putN R.secTamperStat now).onSec fun s => { s with raised := Nat.lor old up } := by
  intro now up old
  have hraises : b.raises x = up - Nat.land up old := if_pos h
  have hkept (n : Nat) : ((b.alarm n).putN R.secTamperStat now).sec.raised = b.sec.raised := Block.alarm_raised n b
  unfold Pcr.tamper
  rw [h, hraises]
  unfold Block.onSec
  dsimp only
  rw [hkept]
  rfl

end

/-- Settles O52: attestation and the tamper limits by their fields, each message of an exchange by the side and the step it meets, and the
alarm by the sensors that begin to trip. -/
theorem identityAndTamper : Obligations.IdentityAndTamper := by
  unfold Obligations.IdentityAndTamper
  refine ⟨?attest, ?keyx, ?message, ?timeout, ?config, ?alarm⟩
  case attest =>
    intro t r s b id h n body c h16 htop hn h28 ha hd
    rw [exec_attest h ha, Sec.attest_sound h16 htop h hn h28 hd]
  case keyx =>
    intro t r s b id h p peer h16 htop h24 h28 h32 hres
    rw [exec_peerKeyx h, Sec.peerKeyx_sound h16 htop h h24 h28 h32 hres]
    have hlit (h2 : 2 ≤ b.lfState p) (h4 : b.lfState p ≤ 4) : ¬(b.lfState p < 2 ∨ 4 < b.lfState p) :=
      not_or.2 ⟨Nat.not_lt.2 h2, Nat.not_lt.2 h4⟩
    refine ⟨fun hdark => ?_, fun g h2 h4 hg hne hs => ?_, fun h2 h4 hfree hk => ?_, fun h2 h4 hfree hk hpol => ?_⟩
    · rw [if_pos hdark]
    · rw [if_neg (hlit h2 h4), if_pos (Block.portTaken hg hne hs)]
    · rw [if_neg (hlit h2 h4), if_neg (Bool.eq_false_iff.1 (Block.portFree hfree)), if_pos (Option.isSome_iff_ne_none.2 hk)]
    · rw [if_neg (hlit h2 h4), if_neg (Bool.eq_false_iff.1 (Block.portFree hfree)), hk, if_neg (by simp), hpol]
  case message =>
    intro t p n x bytes v s b h4 hp ha hd
    have hrun (n : Nat) := exec_kxMessageRx h4 hp ha hd n v
    refine ⟨fun h => ?_, fun h hk hno => ?_, fun k h hk hi hx => ?_, fun k h hk hi hs => ?_, fun k h hk hi hs hx => ?_,
      fun k h hk hi hs hx => ?_, fun k h hk hx => ?_⟩
    · rw [hrun, Sec.kxMessage_none h]
    · rw [hrun, Sec.kxMessage_ignored h hk hno]
    · rw [hrun, Sec.kxMessage_one hk h hi hx]
    · rw [hrun, Sec.kxMessage_two hk h hi hs]
    · rw [hrun, Sec.kxMessage_three hk h hi hs hx]
    · rw [hrun, Sec.kxMessage_four hk h hi hs hx]
    · rw [hrun, Sec.kxMessage_five hk h hx]
  case timeout =>
    intro t p k s b h4 hp ha hd hk
    rw [exec_kxTimeout h4 hp ha hd, Sec.kxTimeout_running hk]
    exact ⟨fun hlate => congrArg (After s) (if_pos hlate), fun hearly => congrArg (After s) (if_neg (Nat.not_le.2 hearly))⟩
  case config =>
    intro t r s b id h d f c h16 htop h24 h28 h32
    rw [exec_tamperConfig h, Sec.tamperConfig_sound h16 htop h h24 h28 h32]
    refine ⟨fun hlock => ?_, fun o hopen hbad => ?_, fun hopen hgood h8 => ?_, fun hopen hgood h8 => ?_⟩
    · rw [if_pos hlock]
    · rw [if_neg (Bool.eq_false_iff.1 hopen), hbad]
    · rw [if_neg (Bool.eq_false_iff.1 hopen), hgood, if_pos h8]
    · rw [if_neg (Bool.eq_false_iff.1 hopen), hgood, if_neg h8]
  case alarm =>
    intro t x s b now up old
    rw [exec_tamperAlarm]
    exact ⟨fun hoff => congrArg (After s) (Pcr.tamper_off hoff), fun hon => congrArg (After s) (Pcr.tamper_armed hon)⟩

end Sys2Proof.Machine
end
